-- ==== Sys2Proof/Word.lean ====
section
/-! DEFINITION. Words, bytes and the plainest bit-field reading of the manual's notation (R6, R7). -/

namespace Sys2Proof

/-- A 32-bit word, the unit in which the manual draws registers, descriptors and records (R7). -/
abbrev Word := BitVec 32

/-- One byte of an address space. -/
abbrev Byte := BitVec 8

/-- Bits `[hi:lo]` of a word as a number (R6: a range includes both ends). -/
def Word.field (w : Word) (hi lo : Nat) : Nat := (w.toNat / 2 ^ lo) % 2 ^ (hi + 1 - lo)

/-- One bit of a word. -/
def Word.bit (w : Word) (i : Nat) : Bool := w.toNat.testBit i

/-- The word with bits `[hi:lo]` replaced by the low bits of `v`. -/
def Word.setField (w : Word) (hi lo v : Nat) : Word :=
  BitVec.ofNat 32 (w.toNat - (w.field hi lo) * 2 ^ lo + (v % 2 ^ (hi + 1 - lo)) * 2 ^ lo)

/-- The number whose bits `[hi:lo]` hold `v` and whose other bits are 0. -/
def putBits (hi lo v : Nat) : Nat := (v % 2 ^ (hi + 1 - lo)) * 2 ^ lo

/-- A signed reading of the low `n` bits of `v`. -/
def signedOf (n v : Nat) : Int :=
  if v % 2 ^ n < 2 ^ (n - 1) then (v % 2 ^ n : Int) else (v % 2 ^ n : Int) - 2 ^ n

/-- The low `n` bits of a signed number. -/
def unsignedOf (n : Nat) (v : Int) : Nat := (v % (2 ^ n : Int)).toNat

/-- 1 for true and 0 for false. -/
def bitOf (b : Bool) : Nat := if b then 1 else 0

/-- The quotient rounded up. -/
def ceilDiv (a b : Nat) : Nat := (a + b - 1) / b

end Sys2Proof
end

