-- ==== Sys2Proof/Syntax.lean ====
section
/-! DEFINITION. The commands of the module: one constructor of `Instr` for each row of the opcode table, with the
operands by which a command names its unit and carries what the physical world or another module supplies. The
table gives its rows no operand bits, so the operands are the model's (assumption 1). -/

namespace Sys2Proof

/-- A core: its Reckoner and its index within the die (R12). -/
structure CoreId where
  rkn : Fin 8
  idx : Fin 208
deriving DecidableEq, Repr

/-- Global core ID (R12): Reckoner × 256 + row × 16 + column. -/
def CoreId.gid (c : CoreId) : Nat := c.rkn.val * 256 + c.idx.val

/-- A queue of a core. -/
structure QueueId where
  core : CoreId
  q : Fin 4
deriving DecidableEq, Repr

/-- A slot: (port, plane, direction, slot) of R18; `rx` is the direction receive. -/
structure SlotId where
  port : Fin 64
  plane : Fin 16
  rx : Bool
  slot : Fin 8
deriving DecidableEq, Repr

/-- A ring: its slot and its role, 0 active and 1 standby (R19). -/
structure RingId where
  slot : SlotId
  standby : Bool
deriving DecidableEq, Repr

/-- The units of the common unit state machine (R454), and the Harness allocator, whose page has a unit (R523). -/
inductive UnitId where
  | reckoner (r : Fin 8)
  | field (r : Fin 8) (east : Bool)
  | core (c : CoreId)
  | port (p : Fin 64)
  | slot (s : SlotId)
  | plane (p : Fin 16)
  | cartridge (k : Fin 8)
  | stack (s : Fin 24)
  | bridle (b : Fin 4)
  | lane (b : Fin 4) (l : Fin 32)
  | engine (e : Fin 2)
  | edu
  | stable
  | allocator
deriving DecidableEq, Repr

/-- The sources of register accesses that are told apart (R514). -/
inductive Source where
  | groom (g : Fin 2)
  | pcie (fn : Fin 64)
  | i3c
  | uart
  | jtag
  | rein (node : Fin 64) (agent : BitVec 8)
deriving DecidableEq, Repr

/-- A Hitch counter (R324). -/
inductive CounterId where
  | core (c : CoreId) (h : Fin 48)
  | module (i : Fin 256)
  | host (i : Fin 1024)
deriving DecidableEq, Repr

/-- How an access to module memory or its answer fared (R298). -/
inductive Status where
  | ok
  | failed
  | poison
  | refused
deriving DecidableEq, Repr

/-- How a Hitch frame arrived (R315): whole, corrected, or lost at a hub, whose Reckoner is named where the frame's
counter can no longer be read. -/
inductive FrameError where
  | none
  | corrected
  | lost (hub : BitVec 32) (rkn : Option (Fin 8))
deriving DecidableEq, Repr

/-- What HITCH_SIGNAL_FRAME brings (R315): the frame at the front, with what its transmission met, or an error met by the NAK, the
RELEASE or the SNAP that would have come next. -/
inductive FrameEvent where
  | signal (err : FrameError)
  | nak (err : FrameError)
  | release (err : FrameError)
  | snap (err : FrameError)
deriving DecidableEq, Repr

/-- What UNIT_START_COMPLETE reports (R440 to R445): the unit, and for a Reckoner die the bundle lanes and the mesh-port halves that
failed their tests. -/
structure UnitReport where
  unit : UnitId
  lanes : List (Fin 6 × Fin 1664 × Fin 68)
  halves : List (Fin 256 × Bool)
deriving DecidableEq, Repr

/-- What BLINKERS_RECAL_COMPLETE reports: the engine, and the values its calibration measured (R179). -/
structure RecalReport where
  engine : Fin 2
  measured : List Int
deriving DecidableEq, Repr

/-- The answer of a Rein request (R305), or its loss. -/
inductive ReinStatus where
  | ok
  | failed
  | refused
  | timeout
deriving DecidableEq, Repr

/-- A group of the photonic calibration (R289): a ring's heater map, a slot's driver or receiver, the feed-forward weights of
a (port, plane, direction) group, or a Blinkers engine. -/
inductive CalGroup where
  | ring (r : RingId)
  | driver (x : SlotId)
  | weights (port : Fin 64) (plane : Fin 16) (rx : Bool)
  | engine (e : Fin 2)
deriving DecidableEq, Repr

/-- How a codeword stands under link encryption (R502, R504). -/
inductive Seal where
  | plain
  /-- Encrypted, its tag right under the receiver's active key or its other one; the flits are those decrypted. -/
  | underKey
  | failing
deriving DecidableEq, Repr

/-- The lane header of a codeword (R396): mode TRAIN or DATA, the number, the retransmission mark, and the lane's position in its strand. -/
structure LaneHeader where
  train : Bool
  seq : BitVec 10
  retx : Bool
  position : Fin 4
deriving DecidableEq, Repr

/-- A codeword as a lane's receiver finds it (R396, R397, R503): undecodable, or decoded with its corrected symbols, its lane header, its
flits, and how it stands under link encryption. -/
inductive Codeword where
  | undecodable
  | decoded (csym : Nat) (header : LaneHeader) (flits : List (List Word)) (tag : Seal)
deriving DecidableEq, Repr

/-- Where an atomic is met (R349): delivered to a Draught port, or received by a Bridle from the fabric. -/
inductive AtomicAt where
  | port (p : Fin 64)
  | fabric (b : Fin 4)
deriving DecidableEq, Repr

/-- What happens to the next message of an uplink (R390): one that has come to this module is handled, or what became of the oldest one
sent reaches its sender: written, credit withheld, refused. -/
inductive UplinkEvent where
  | here
  | written
  | withheld
  | refused
deriving DecidableEq, Repr

/-- Why a core fails in service (R456), but for a spare check. -/
inductive CoreFault where
  | controlStore
  | scratch
  | ownerBundle
deriving DecidableEq, Repr

/-- What the ROMs find in a slot of the boot flash (R427): whether its key, signature and digests verify, its version and its
rollback index. -/
structure SlotReport where
  good : Bool
  version : BitVec 16
  index : Fin 33
deriving DecidableEq, Repr

/-- A unit that a start-up test finds bad (R433). -/
inductive TestUnit where
  | core (c : CoreId)
  | half (c : CoreId) (dieB : Bool)
  | lane (r : Fin 8) (cls : Fin 6) (bundle : Fin 1664) (lane : Fin 68)
  | ring (r : RingId)
deriving DecidableEq, Repr

/-- What a module start finds (R372, R422 to R435): straps, the Grooms that boot, the flash slots, the strides and the time (in units
of 100 ms) from the trigger to ready, failed tests with their codes, units that fail to start, units whose step does not complete,
Reckoners whose orientation strap disagrees, cartridges seated, lines whose bank has no spare row left, whether software has set MEM_MAP_CTL.fold_reserve between
the host step and the first stack's training (R240), the copies of the calibration sets whose CRC is right (bit 2i + c: copy c of
set i, R290), what calibration measures group by group (R292), the tap readings of cartridges on planes in 0.01 dB against the first
one (R275, R294), and whether the Hitch root, the allocator or the power grid is faulty. -/
structure StartReport where
  z : Fin 16
  y : Fin 4
  x : Fin 8
  groom0 : Bool
  groom1 : Bool
  slotA : SlotReport
  slotB : SlotReport
  strides : Nat
  elapsed : BitVec 16
  tests : List (TestUnit × BitVec 8)
  failed : List UnitId
  hung : List UnitId
  mismatch : List (Fin 8)
  carts : List (Fin 8 × Word)
  noSpareRow : List (BitVec 34)
  reserve : Bool
  calSets : BitVec 10
  measured : List (CalGroup × List Int)
  nominals : List ((Fin 8 × Fin 16) × Int)
  faulty : Bool
deriving DecidableEq, Repr

/-- A Rein request as it arrives (R305): its header words, its payload, the flits corrected, whether an uncorrectable error discards it
(R309), and how long its delivery took, in units of 2 ns. -/
structure ReinPacket where
  w0 : Word
  w1 : Word
  w2 : Word
  w3 : Word
  payload : List Word
  corrected : Nat
  bad : Bool
  latency : Nat
deriving DecidableEq, Repr

/-- A Rein response as it is delivered (R305, R309): the first word of its header flit, the flits corrected on the way, whether a flit was
lost, and its time. -/
structure ReinDelivery where
  w0 : Word
  corrected : Nat
  bad : Bool
  latency : Nat
deriving DecidableEq, Repr

/-- A request of a PCI Express function to its memory window (R412, R416). -/
inductive HostRequest where
  | read (len : Nat)
  | write (data : List (BitVec 8))
  | fetchAdd (wide : Bool) (operand : BitVec 64)
  | swap (wide : Bool) (operand : BitVec 64)
  | cas (compare operand : Word)
deriving DecidableEq, Repr

/-- What a debugger does through JTAG at INTRUSIVE, beside register accesses (R491). -/
inductive JtagAccess where
  | read (addr : BitVec 44) (len : Nat)
  | write (addr : BitVec 44) (data : List (BitVec 8))
  | halt (groom : Fin 2)
  | resume (groom : Fin 2)
  | step (groom : Fin 2)
deriving DecidableEq, Repr

/-- The commands of the module, one per row of the opcode table, in its order. -/
inductive Instr where
  /-- STRIDE_BOUNDARY. At each stride boundary the stride number increments and the updates computed in the previous stride take effect, in the fixed order of R34. -/
  | strideBoundary
  /-- BEACON_RECEIVED. A stride beacon is received; it counts as a heartbeat and the follower measures and slews its offset from the master. -/
  | beaconReceived (lane : Fin 4 × Fin 32) (sender : Fin 32) (master : Fin 32) (hops : Fin 4) (eligible : Bool) (stride : BitVec 48) (arrival : Option (BitVec 16))
  /-- MASTER_LOST_TIMEOUT. After 3 strides without a beacon from the master the module enters HOLDOVER and raises HCH_MASTER_LOST. -/
  | masterLostTimeout
  /-- LO_READ_SHADOW. A read of a _LO register copies the _HI half to a per-source shadow. -/
  | loReadShadow (src : Source) (off : BitVec 28)
  /-- HI_WRITE_APPLY. A write of a _HI register applies both halves, using the _LO staged by the same source. -/
  | hiWriteApply (src : Source) (off : BitVec 28) (val : Word) (cyc : Nat)
  /-- REGISTER_WRITE. A write to a register without a row of its own is applied whole, at once or at its boundary. -/
  | registerWrite (src : Source) (off : BitVec 28) (val : Word) (cyc : Nat)
  /-- RC_COUNTER_READ. A read of an RC counter returns its value and clears it. -/
  | rcCounterRead (src : Source) (off : BitVec 28)
  /-- BLK_IRQ_FORCE. A write to BLK_IRQ_FORCE sets the named bits of BLK_IRQ_STAT. -/
  | blkIrqForce (src : Source) (slot : BitVec 16) (mask : Word)
  /-- UNIT_ENABLE. An enable write takes a unit from OFF to STARTING at its boundary, or sets restart_pending during STOPPING. -/
  | unitEnable (unit : UnitId) (cyc : Nat)
  /-- UNIT_DISABLE. A disable write takes an ON unit to STOPPING at its boundary, or acts at the first consistent point of a start. -/
  | unitDisable (unit : UnitId) (cyc : Nat)
  /-- UNIT_RESET. A reset write acts as a disable followed at once by an enable. -/
  | unitReset (unit : UnitId) (cyc : Nat)
  /-- UNIT_START_COMPLETE. A unit whose start has completed enters ON at the next boundary. -/
  | unitStartComplete (report : UnitReport)
  /-- UNIT_STOP_COMPLETE. A unit whose stop has completed enters OFF, or STARTING when restart_pending is 1. -/
  | unitStopComplete (unit : UnitId)
  /-- UNIT_FAIL. A failed unit reaches OFF by the shortest stop and does not restart until the failure is cleared. -/
  | unitFail (unit : UnitId) (atOnce : Bool)
  /-- DESCRIPTOR_FETCH. The sequencer fetches a descriptor and runs the fetch checks in order. -/
  | descriptorFetch (q : QueueId)
  /-- DESCRIPTOR_START. A fetched descriptor starts once R39 admits it, its engines and completion entry are free and its predecessor allows it. -/
  | descriptorStart (q : QueueId) (cyc : Nat)
  /-- DESCRIPTOR_OVERRUN. When b core cycles elapse without retirement the descriptor is stopped with status OVERRUN and its queue halts. -/
  | descriptorOverrun (q : QueueId) (found : BitVec 16 × Nat)
  /-- DESCRIPTOR_RETIRE. A descriptor whose operations and acknowledgements are complete retires, writes its completion record and sends its header signal. -/
  | descriptorRetire (q : QueueId) (index : BitVec 16)
  /-- QUEUE_TAIL_WRITE. A write of RKN_Qq_TAIL makes new descriptors present, or is ignored with RKN_TAIL_BAD if the ring would overflow. -/
  | queueTailWrite (src : Source) (q : QueueId) (tail : BitVec 16)
  /-- QUEUE_RESUME_RETRY. resume 1 restarts a halted queue at the descriptor at head, at a boundary. -/
  | queueResumeRetry (src : Source) (q : QueueId) (cyc : Nat)
  /-- QUEUE_RESUME_SKIP. resume 2 restarts a halted queue past the descriptor at head, at a boundary. -/
  | queueResumeSkip (src : Source) (q : QueueId) (cyc : Nat)
  /-- MATMUL. MATMUL computes C = A × B, or C + A × B, with block accumulation and FP32 reduction. -/
  | matmul (q : QueueId)
  /-- VECTOR_CONVERT. VECTOR CONVERT converts each source element to the destination format. -/
  | vectorConvert (q : QueueId)
  /-- VECTOR_ADD. VECTOR ADD writes src0 + src1 per element. -/
  | vectorAdd (q : QueueId)
  /-- VECTOR_MUL. VECTOR MUL writes src0 × src1 per element. -/
  | vectorMul (q : QueueId)
  /-- VECTOR_FMA. VECTOR FMA writes src0 × src1 + src2 with one rounding. -/
  | vectorFma (q : QueueId)
  /-- VECTOR_MAX. VECTOR MAX writes the larger of src0 and src1. -/
  | vectorMax (q : QueueId)
  /-- VECTOR_MIN. VECTOR MIN writes the smaller of src0 and src1. -/
  | vectorMin (q : QueueId)
  /-- VECTOR_EXP. VECTOR EXP writes e to the power src0. -/
  | vectorExp (q : QueueId)
  /-- VECTOR_RECIP. VECTOR RECIP writes 1 / src0. -/
  | vectorRecip (q : QueueId)
  /-- VECTOR_RSQRT. VECTOR RSQRT writes 1 / √src0. -/
  | vectorRsqrt (q : QueueId)
  /-- VECTOR_SILU. VECTOR SILU writes src0 / (1 + e to the power −src0). -/
  | vectorSilu (q : QueueId)
  /-- VECTOR_SUM_ROW. VECTOR SUM_ROW writes the sequential sum of each row. -/
  | vectorSumRow (q : QueueId)
  /-- VECTOR_MAX_ROW. VECTOR MAX_ROW writes the maximum of each row. -/
  | vectorMaxRow (q : QueueId)
  /-- VECTOR_TOPK_ROW. VECTOR TOPK_ROW writes the topk indices and values of each row, padding with filler entries. -/
  | vectorTopkRow (q : QueueId)
  /-- MOVE. MOVE copies or converts rows between rack global addresses in transactions of at most 256 B. -/
  | move (q : QueueId)
  /-- GATHER. GATHER reads indexed rows into contiguous scratch. -/
  | gather (q : QueueId)
  /-- DATA_MOVER_ISSUE. A waiting transaction is issued once its injection meter holds the charge and a transaction entry is free. -/
  | dataMoverIssue (core : CoreId) (cyc : Nat)
  /-- ATTEND. ATTEND runs its checks, optional append, a quota of segments and writes its state, header and output. -/
  | attend (work : QueueId × Nat)
  /-- BLINK. BLINK routes a pre-screen request to an engine queue and retires on acceptance. -/
  | blink (q : QueueId)
  /-- DISPATCH. DISPATCH hands token selections to the EDU, taking result slots, and retires once every token is accepted. -/
  | dispatch (q : QueueId)
  /-- SIGNAL. SIGNAL adds its amount to a counter once earlier stores and atomics of its queue are acknowledged. -/
  | signal (q : QueueId)
  /-- WAIT. WAIT holds its queue until the counter condition holds, then starts with its bound. -/
  | wait (q : QueueId) (cyc : Nat)
  /-- WAIT_TIMEOUT. A WAIT whose timeout boundaries elapse completes with WAIT_TIMEOUT. -/
  | waitTimeout (q : QueueId)
  /-- BRANCH. BRANCH evaluates its condition once and continues at the target or the next descriptor. -/
  | branch (q : QueueId) (cyc : Nat)
  /-- LOOP. LOOP repeats its body with patched fetched copies. -/
  | loop (q : QueueId)
  /-- EDU_MESSAGE_RECEIVE. A complete EDU message (selection, result or marker) is taken by the receiving EDU. -/
  | eduMessageReceive (source : Fin 32 × Option (Fin 32)) (kind : Fin 16) (job : BitVec 12) (layer : BitVec 8) (tag : BitVec 16) (token : BitVec 12) (pos : Fin 8) (block : List Word) (row : List Byte) (cyc : Nat)
  /-- EDU_MAILBOX_WRITTEN. Once a batch's rows and header are applied the EDU adds the tile count to ready_h. -/
  | eduMailboxWritten (layer : BitVec 8) (inst : Fin 1024)
  /-- EDU_BATCH_COMPLETE. An increase of done_ctr completes the oldest unresolved batch and its resolutions are sent. -/
  | eduBatchComplete (layer : BitVec 8) (inst : Fin 1024)
  /-- EDU_BATCH_TIMEOUT. A batch not complete 24 µs after its ready signal is abandoned. -/
  | eduBatchTimeout (layer : BitVec 8) (inst : Fin 1024) (cyc : Nat)
  /-- EDU_RESULT_TIMEOUT. A selection without resolution 32 µs after acceptance is abandoned and its token row is poisoned. -/
  | eduResultTimeout (tag : BitVec 16) (token : BitVec 12) (pos : Fin 8) (cyc : Nat)
  /-- EDU_COMBINE. When all selections of a token have resolved the origin EDU forms its combined row. -/
  | eduCombine (tag : BitVec 16) (token : BitVec 12)
  /-- EDU_DONE_SIGNAL. When every row of a DISPATCH is applied the EDU adds 1 to its done counter. -/
  | eduDoneSignal (tag : BitVec 16)
  /-- EDU_TABLE_SWITCH. A write of EDU_TBL_CTL.switch switches the active table set at a boundary, or is refused while pending. -/
  | eduTableSwitch (src : Source) (val : Word) (cyc : Nat)
  /-- STB_PAGE_REQUEST. The Stable manager serves a page request by allocating, or copying on write, or refuses it. -/
  | stbPageRequest
  /-- APPEND_REPORT. A core's report of appended positions advances seq_len and may publish or end a rebuild. -/
  | appendReport
  /-- BLINKERS_REQUEST_START. An engine starts a queued request, reads the stall record and classifies it. -/
  | blinkersRequestStart (e : Fin 2)
  /-- BLINKERS_LIST_COMPLETE. The engine writes the entries and header of the page list and then signals the done counter. -/
  | blinkersListComplete (e : Fin 2)
  /-- BLINKERS_LEAVE_NORMAL. An engine leaving NORMAL moves its requests to the other engine or writes them FALLBACK. -/
  | blinkersLeaveNormal (e : Fin 2)
  /-- BLINKERS_DRIFT_CHECK. Each period the engine scores reference pairs at every tint and enters RECAL on a failing tint. -/
  | blinkersDriftCheck (e : Fin 2) (p0 : BitVec 16) (p1 : BitVec 16) (p2 : BitVec 16) (p3 : BitVec 16) (p4 : BitVec 16)
  /-- BLINKERS_RECAL_COMPLETE. A RECAL ends with a repeated check: NORMAL on pass, another RECAL, or FAILED after the third failure. -/
  | blinkersRecalComplete (report : RecalReport) (p0 : BitVec 16) (p1 : BitVec 16) (p2 : BitVec 16) (p3 : BitVec 16) (p4 : BitVec 16)
  /-- STB_COMMAND_TAIL_WRITE. A write of STB_CRn_TAIL or its BAR2 doorbell makes commands present, or is ignored with STB_TAIL_BAD. -/
  | stbCommandTailWrite (src : Source) (ring : Fin 64) (tail : BitVec 16) (cyc : Nat)
  /-- ADMIT. ADMIT takes a stall with the record image, or sets restart_pending on a DRAINING stall, and starts the prefix lookup. -/
  | admitStall (ring : Fin 64)
  /-- PREFIX_LOOKUP_COMPLETE. When the prefix lookup has attached its hits the stall enters PREFILL at the next boundary. -/
  | prefixLookupComplete (i : Fin 16384)
  /-- RELEASE. RELEASE takes a stall to DRAINING. -/
  | release (ring : Fin 64)
  /-- STALL_DRAIN_COMPLETE. A completed drain leaves the stall EMPTY, or ADMITTED when restart_pending is set. -/
  | stallDrainComplete (i : Fin 16384)
  /-- COMMIT. COMMIT appends tentative tokens and a sampled token to the history and writes output entries. -/
  | commit (ring : Fin 64)
  /-- SPEC_PUT. SPEC_PUT stores 1 to 8 draft tokens as tentative tokens. -/
  | specPut (ring : Fin 64)
  /-- ROLLBACK. ROLLBACK discards the tentative tokens. -/
  | rollback (ring : Fin 64)
  /-- PARK. PARK sets host_park and takes a DECODE stall to PARKED at a plan publication. -/
  | park (ring : Fin 64)
  /-- UNPARK. UNPARK clears host_park and recalls an EVICTED stall. -/
  | unpark (ring : Fin 64)
  /-- EVICT. EVICT moves a PARKED stall's private pages to its spill extent. -/
  | evict (ring : Fin 64)
  /-- STALL_EVICTION_COMPLETE. When the extent writes have completed the stall enters EVICTED and its pages are released. -/
  | stallEvictionComplete (i : Fin 16384) (ok : Bool)
  /-- STALL_RECALL_COMPLETE. After the last extent read the restored stall enters PARKED, or a poisoned read rebuilds it. -/
  | stallRecallComplete (i : Fin 16384) (ok : Bool) (extent : List Byte)
  /-- FORK. FORK gives a target stall a copy of the source's table in DECODE. -/
  | fork (ring : Fin 64)
  /-- REBUILD. REBUILD drops a stall's pages and recomputes its KV from the history in PREFILL. -/
  | rebuild (ring : Fin 64)
  /-- QUERY. QUERY copies the 256-byte stall record to the destination. -/
  | query (ring : Fin 64)
  /-- SET. SET replaces the software fields not marked ADMIT only. -/
  | set (ring : Fin 64)
  /-- PUBLISH. PUBLISH inserts the stall's full pages below n into the prefix directory. -/
  | publish (ring : Fin 64)
  /-- WORK_PLAN_PUBLISH. At the first boundary after step_ctr increases the manager forms and publishes the next plan and signals plan_ctr. -/
  | workPlanPublish
  /-- DRAUGHT_LOAD. A LOAD request delivered to a port reads its target and returns a RESP with data. -/
  | draughtLoad (p : Fin 64) (cyc : Nat)
  /-- DRAUGHT_STORE. A STORE request delivered to a port writes its target and returns a RESP. -/
  | draughtStore (p : Fin 64) (cyc : Nat)
  /-- DRAUGHT_FLAG_STORE. A FLAG_STORE delivered to a port is applied as a store after its predecessors. -/
  | draughtFlagStore (p : Fin 64) (cyc : Nat)
  /-- DRAUGHT_SERVICE. A SERVICE packet is handed to the engine that owns the destination port. -/
  | draughtService (p : Fin 64) (cyc : Nat)
  /-- DRAUGHT_RESP. A RESP completes the request it answers at the requester with its status. -/
  | draughtResp (p : Fin 64) (cyc : Nat)
  /-- ATOMIC_ADD32. ADD32 adds A to a 32-bit target and returns the old value. -/
  | atomicAdd32 (w : AtomicAt) (cyc : Nat)
  /-- ATOMIC_ADD64. ADD64 adds A to a 64-bit target and returns the old value. -/
  | atomicAdd64 (w : AtomicAt) (cyc : Nat)
  /-- ATOMIC_SWAP32. SWAP32 writes A to a 32-bit target and returns the old value. -/
  | atomicSwap32 (w : AtomicAt) (cyc : Nat)
  /-- ATOMIC_SWAP64. SWAP64 writes A to a 64-bit target and returns the old value. -/
  | atomicSwap64 (w : AtomicAt) (cyc : Nat)
  /-- ATOMIC_CAS32. CAS32 writes B if the target equals A and returns the old value. -/
  | atomicCas32 (w : AtomicAt) (cyc : Nat)
  /-- DRAUGHT_PACKET_RECEIVE. A receive port checks the line flit and delivers the pair's packets in sequence order exactly once. -/
  | draughtPacketReceive (x : SlotId) (flit : List Byte) (cyc : Nat)
  /-- DRAUGHT_GAP_NAK. A sequence gap that has persisted for 128 stride cycles sends a negative acknowledgement. -/
  | draughtGapNak (src : Fin 64) (dst : Fin 64) (cyc : Nat)
  /-- DRAUGHT_REPLAY_TIMEOUT. A packet unacknowledged 2 strides after its last transmission is replayed, up to the replay limit. -/
  | draughtReplayTimeout (src : Fin 64) (dst : Fin 64) (seq : BitVec 24) (cyc : Nat)
  /-- DRAUGHT_REQUEST_TIMEOUT. A request with no response 8 µs after issue is withdrawn and completes with poison or failure at the next boundary. -/
  | draughtRequestTimeout (id : Nat) (cyc : Nat)
  /-- LINK_IDLE. An IDLE LINK packet carries its pair's cumulative acknowledgement. -/
  | linkIdle (src : Fin 64) (dst : Fin 64) (ack : BitVec 20)
  /-- LINK_ACK. An ACK LINK packet releases acknowledged packets from the replay buffer. -/
  | linkAck (src : Fin 64) (dst : Fin 64) (ack : BitVec 20)
  /-- LINK_NAK. A NAK LINK packet makes the source replay from the first missing number. -/
  | linkNak (src : Fin 64) (dst : Fin 64) (ack : BitVec 20) (missing : BitVec 20)
  /-- LINK_SLOT_LOST. A SLOT_LOST notice stops the source sending on the slot and replays its unacknowledged packets. -/
  | linkSlotLost (src : Fin 64) (dst : Fin 64) (ack : BitVec 20) (plane : Fin 16) (tx : Fin 8) (rx : Fin 8)
  /-- LINK_CREDIT. A CREDIT LINK packet returns request credits to the pair as a running total. -/
  | linkCredit (src : Fin 64) (dst : Fin 64) (ack : BitVec 20) (credits : BitVec 20)
  /-- LOCK_LOOP_UPDATE. Every 64 stride cycles each powered ring measures its detuning, sets its heater and updates its lock state. -/
  | lockLoopUpdate (r : RingId) (detune : Int) (cyc : Nat)
  /-- LOCK_REACQUIRE_TIMEOUT. A ring not LOCKED within 4 strides after losing lock puts its slot in QUARANTINED. -/
  | lockReacquireTimeout (r : RingId)
  /-- RING_ACQUIRED. A ring reaches its target channel and reports LOCKED. -/
  | ringAcquired (r : RingId)
  /-- RING_SWEEP_COMPLETE. A full channel sweep ends, acquiring its target or failing. -/
  | ringSweepComplete (r : RingId) (found : Bool)
  /-- LINE_BEACON_CHECK. At stride cycle 32 each granted receive slot checks its line beacon: OK, WRONG_LINE or DARK. -/
  | lineBeaconCheck (x : SlotId) (copies : List (List Word))
  /-- ALLOCATOR_CYCLE. At stride cycle L−384 the allocator collects demand and ring state and computes and distributes G(k). -/
  | allocatorCycle
  /-- TAP_SAMPLE. Each plane's entry tap is sampled once per stride and the fade thresholds are applied. -/
  | tapSample (p : Fin 16) (reading : Int) (even : Int) (odd : Int)
  /-- PLANNED_SWAP. A planned swap moves every plane of a quadrant to the spare, one plane at a time. -/
  | plannedSwap (src : Source) (q : Fin 4)
  /-- FEED_SWITCH_SETTLED. After the feed switch settles the tap is checked against the spare's nominal and the plane is re-enabled. -/
  | feedSwitchSettled (p : Fin 16) (source : Option Bool) (tap : Int × Int) (cyc : Nat)
  /-- SWAP_GAP_EXPIRY. gap strides after a plane reaches ON the next plane of the swap starts. -/
  | swapGapExpiry (q : Fin 4)
  /-- CARTRIDGE_SUDDEN_LOSS. A sudden cartridge loss moves its planes' feed switches to the other cartridge at once. -/
  | cartridgeSuddenLoss (k : Fin 8)
  /-- CARTRIDGE_REMOVED. A broken presence contact extinguishes the cartridge and logs LAS_CART_PULLED. -/
  | cartridgeRemoved (k : Fin 8)
  /-- CARTRIDGE_INSERTED. A cartridge seated in a seat has its identity read and stays OFF until enabled. -/
  | cartridgeInserted (k : Fin 8) (serial : Word)
  /-- CARTRIDGE_DISABLE. A disable of an ACTIVE cartridge starts a planned swap, is refused, or withdraws its planes under force. -/
  | cartridgeDisable (src : Source) (k : Fin 8) (force : Bool) (cyc : Nat)
  /-- CALIBRATION_REEVALUATE. Each stride groups whose sensor moved 0.25 °C are re-evaluated and corrections issued. -/
  | calibrationReevaluate (g : CalGroup) (cyc : Nat)
  /-- REIN_READ. A Rein READ returns 1 to 16 words in an RDATA response. -/
  | reinRead (p : ReinPacket) (cyc : Nat)
  /-- REIN_WRITE. A Rein WRITE writes one or 4 to 16 words and is answered by WACK. -/
  | reinWrite (p : ReinPacket) (cyc : Nat)
  /-- REIN_RDATA. An RDATA response completes a READ at its source. -/
  | reinRdata (node : Fin 64) (agent : BitVec 8) (tag : BitVec 8) (delivery : ReinDelivery) (cyc : Nat)
  /-- REIN_WACK. A WACK response completes a WRITE or MSG at its source. -/
  | reinWack (node : Fin 64) (agent : BitVec 8) (tag : BitVec 8) (delivery : ReinDelivery) (cyc : Nat)
  /-- REIN_BCAST. A BCAST writes its payload to the same scratch offset of every accepting core of the named Reckoners. -/
  | reinBcast (p : ReinPacket) (dropped : List CoreId) (cyc : Nat)
  /-- REIN_TIMEOUT. A Rein request without response after 2 µs completes with 0xFFC0_0BAD or failure and raises the fault. -/
  | reinTimeout (node : Fin 64) (agent : BitVec 8) (tag : BitVec 8) (cyc : Nat)
  /-- HITCH_SIGNAL_FRAME. A SIGNAL frame, or a combination, is applied to its counter, or refused when out of range. -/
  | hitchSignalFrame (frame : FrameEvent)
  /-- HITCH_NAK. A NAK makes each contributing source relaunch its frame in the next slot. -/
  | hitchNak
  /-- HITCH_SNAP. A SNAP frame latches every block's snapshot area 48 stride cycles after launch. -/
  | hitchSnap
  /-- HITCH_RELEASE. A RELEASE frame ends a core's WAIT or BRANCH with HOLDS, NOT_HELD, ORPHAN or REFUSED. -/
  | hitchRelease
  /-- HITCH_WATCH_REGISTER. A watch message registers a root-counter WAIT or BRANCH and is answered by WACK. -/
  | hitchWatchRegister (job : BitVec 12) (w0 : Word) (w1 : Word) (w2 : Word)
  /-- HITCH_WATCH_WITHDRAW. A withdrawal message removes a watch of a timed-out, disabled or halted queue. -/
  | hitchWatchWithdraw (job : BitVec 12) (w0 : Word) (w1 : Word) (w2 : Word)
  /-- COUNTER_INIT. op INIT sets a counter's owner and value at a boundary, first releasing waiters of a LIVE counter. -/
  | counterInit (src : Source) (val : Word) (cyc : Nat)
  /-- COUNTER_FREE. op FREE takes a counter to FREE at a boundary, releasing its waiters. -/
  | counterFree (src : Source) (val : Word) (cyc : Nat)
  /-- COUNTER_SET. op SET replaces the value of a LIVE counter at a boundary. -/
  | counterSet (src : Source) (val : Word) (cyc : Nat)
  /-- COUNTER_REVOKE. A write of HCH_REVOKE orphans every LIVE counter of the job at a boundary. -/
  | counterRevoke (src : Source) (job : BitVec 12) (cyc : Nat)
  /-- HOST_COUNTER_DOORBELL. A host write to a Hitch region entry signals its amount after earlier posted writes are applied. -/
  | hostCounterDoorbell (fn : Fin 64) (i : Fin 1024) (val : Word)
  /-- HOST_COUNTER_ARM. Arming a host counter fires it at once if its condition already holds. -/
  | hostCounterArm (src : Source) (val : Word)
  /-- MIRROR_WRITE. After a counter change the module writes the mirror entry, at most once per 64 stride cycles. -/
  | mirrorWrite (i : Fin 1024) (cyc : Nat)
  /-- LANE_SPARE_SWAP. A lane with 16 corrected errors in a stride moves to a clean spare at the next boundary. -/
  | laneSpareSwap (r : Fin 8) (cls : Fin 6) (bundle : Fin 1664) (lane : Fin 68) (spare : BitVec 4)
  /-- BUNDLE_FAIL. A bundle with two uncorrectable transfers in one stride fails with the outcome of its class. -/
  | bundleFail (r : Fin 8) (cls : Fin 6) (bundle : Fin 1664)
  /-- FABRIC_REQUEST_ISSUE. The issuing Bridle numbers a request on its fabric pair, checks its lease and sends it on a route. -/
  | fabricRequestIssue (b : Fin 4) (cyc : Nat)
  /-- FABRIC_LOAD. A fabric LOAD at its target passes the receiver steps and is forwarded to the local port. -/
  | fabricLoad (b : Fin 4) (cyc : Nat)
  /-- FABRIC_STORE. A fabric STORE at its target passes the receiver steps and is applied. -/
  | fabricStore (b : Fin 4) (cyc : Nat)
  /-- FABRIC_FLAG_STORE. A fabric FLAG_STORE at its target is held until its predecessor count is reached. -/
  | fabricFlagStore (b : Fin 4) (cyc : Nat)
  /-- FABRIC_RESP. A fabric RESP delivers its status to the source; later responses for the number are discarded. -/
  | fabricResp (b : Fin 4) (cyc : Nat)
  /-- FABRIC_TRANSIT_FORWARD. A Bridle forwards a packet for another module on a usable team or discards it. -/
  | fabricTransitForward (b : Fin 4) (cyc : Nat)
  /-- FABRIC_RETRANSMIT_TIMEOUT. A request without response at 8 or 16 µs, or whose route was withdrawn, is retransmitted. -/
  | fabricRetransmitTimeout (b : Fin 4) (target : Fin 32) (seq : Word) (cyc : Nat)
  /-- FABRIC_BUSY_RETRY. 1 µs after a BUSY response the issuing Bridle retransmits the request. -/
  | fabricBusyRetry (b : Fin 4) (target : Fin 32) (seq : Word) (cyc : Nat)
  /-- FABRIC_REQUEST_TIMEOUT. A request with no response after 24 µs completes by the dead-target rule. -/
  | fabricRequestTimeout (b : Fin 4) (target : Fin 32) (seq : Word) (cyc : Nat)
  /-- FLAG_STORE_RELEASE. A held flagged store is released when the applied count reaches its count field. -/
  | flagStoreRelease (source : Fin 32) (b : Fin 4) (seq : Word)
  /-- FLAG_STORE_EXPIRED. A flagged store still held when its age exceeds 312 is answered FAILED. -/
  | flagStoreExpired (source : Fin 32) (b : Fin 4) (seq : Word) (cyc : Nat)
  /-- FLAG_ENTRY_IDLE_FREE. A flag table entry without a flagged store is freed after 64 µs without requests. -/
  | flagEntryIdleFree (source : Fin 32) (b : Fin 4) (port : Fin 64) (job : BitVec 12) (epoch : BitVec 8) (cyc : Nat)
  /-- LEASE_ACQUIRE. An ACQUIRE at the home grants the lease or is REFUSED. -/
  | leaseAcquire (b : Fin 4) (cyc : Nat)
  /-- LEASE_RENEW. A RENEW at the home restarts the lease clocks or is REFUSED. -/
  | leaseRenew (b : Fin 4) (cyc : Nat)
  /-- LEASE_RELEASE. A RELEASE clears the home's record and frees the holder's entry. -/
  | leaseRelease (b : Fin 4) (cyc : Nat)
  /-- LEASE_RENEW_DUE. 1,000 boundaries after its clock starts, and each boundary after until granted, the holder sends RENEW. -/
  | leaseRenewDue (index : Fin 1024)
  /-- LEASE_HOLDER_EXPIRY. After 4,000 boundaries without renewal the holder's entry becomes EXPIRED and the fault is raised. -/
  | leaseHolderExpiry (index : Fin 1024)
  /-- LEASE_HOME_EXPIRY. After 4,000 boundaries the home clears the holder and logs FAB_LEASE_LAPSED. -/
  | leaseHomeExpiry (index : Fin 65536)
  /-- LSE_CMD_ACQUIRE. FAB_LSE_CMD op ACQUIRE sends an ACQUIRE for the selected lease entry. -/
  | lseCmdAcquire (src : Source) (cyc : Nat)
  /-- LSE_CMD_RELEASE. FAB_LSE_CMD op RELEASE sends a RELEASE for the selected lease entry. -/
  | lseCmdRelease (src : Source) (cyc : Nat)
  /-- INGRESS_ENTRY_WRITE. FAB_ING_CMD op WRITE stages the entry for a boundary, clearing a leased entry's holder. -/
  | ingressEntryWrite (src : Source) (cyc : Nat)
  /-- INGRESS_ENTRY_READ. FAB_ING_CMD op READ copies the entry to FAB_ING_W0 to W3 at once. -/
  | ingressEntryRead (src : Source)
  /-- ROUTE_ADV. A route advertisement records a peer's teams, epoch, drained bits and relays for the rack map. -/
  | routeAdv (team : Fin 10) (sender : Fin 32) (stride : Word) (master : Fin 32) (aligned : Bool) (epoch : Bool) (drained : Fin 4) (generation : BitVec 16) (teams : BitVec 10) (relay : List (Bool × BitVec 10 × BitVec 16))
  /-- RACK_MAP_ENTRY_STALE. A rack map entry not refreshed for 4 strides has all its teams treated as down. -/
  | rackMapEntryStale (index : Fin 32)
  /-- ROUTING_TABLE_WRITE. A write of FAB_RT_DATA changes an EDITABLE table, or is ignored with status LOCKED or ARMED. -/
  | routingTableWrite (src : Source) (val : Word)
  /-- ROUTING_ARM. op ARM makes the inactive EDITABLE table ARMED. -/
  | routingArm (src : Source)
  /-- ROUTING_DISARM. op DISARM makes an ARMED table with no pending switch EDITABLE. -/
  | routingDisarm (src : Source)
  /-- ROUTING_SWITCH. op SWITCH schedules the ARMED table to become active at the FAB_RT_AT boundary. -/
  | routingSwitch (src : Source)
  /-- ROUTING_DRAIN_TIMEOUT. 64 boundaries after a switch the DRAINING table becomes EDITABLE. -/
  | routingDrainTimeout
  /-- UPLINK_TX_TAIL_WRITE. A write of FAB_UPL_TX_TAIL makes transmit slots present for sending. -/
  | uplinkTxTailWrite (src : Source) (u : Fin 16) (tail : BitVec 16) (cyc : Nat)
  /-- UPLINK_MESSAGE_RECEIVE. A received uplink message is written to the receive ring and signalled, withheld, or refused. -/
  | uplinkMessageReceive (u : Fin 16) (event : UplinkEvent) (cyc : Nat)
  /-- UPLINK_RESUME. A write of resume restarts a halted transmit ring. -/
  | uplinkResume (src : Source) (u : Fin 16) (cyc : Nat)
  /-- CODEWORD_RECEIVE. A lane codeword is decoded, its flits delivered in strand order, and lock and suspension updated. -/
  | codewordReceive (b : Fin 4) (l : Fin 32) (cw : Codeword) (cyc : Nat)
  /-- CODEWORD_GAP_NAK. A codeword gap that has persisted for 64 ns is negatively acknowledged. -/
  | codewordGapNak (b : Fin 4) (n : Fin 14) (cyc : Nat)
  /-- CODEWORD_RETX_TIMEOUT. A codeword unacknowledged for 2 µs is retransmitted on an UP lane. -/
  | codewordRetxTimeout (b : Fin 4) (n : Fin 14) (seq : BitVec 10) (cyc : Nat)
  /-- BRIDLE_LINK_FRAME. A LINK control frame acknowledges, NAKs and returns credits for a strand. -/
  | bridleLinkFrame (b : Fin 4) (n : Fin 14) (ack : BitVec 10) (nak : Option (BitVec 10)) (freed : BitVec 24) (cyc : Nat)
  /-- LANE_DROP. A LANE DROP makes the peer suspend transmission on the lane and retransmit its codewords. -/
  | laneDrop (b : Fin 4) (l : Fin 32) (cyc : Nat)
  /-- LANE_RESUME. A LANE RESUME clears tx_susp and the lane is used again from the next boundary. -/
  | laneResume (b : Fin 4) (l : Fin 32) (cyc : Nat)
  /-- LANE_SUSPEND_TIMEOUT. A lane suspended for 64 strides goes DOWN. -/
  | laneSuspendTimeout (b : Fin 4) (l : Fin 32)
  /-- BEACON_LOSS_TIMEOUT. A strand without a BEACON for 3 strides, or an uplink without a codeword, takes its lanes DOWN. -/
  | beaconLossTimeout (b : Fin 4) (n : Fin 14)
  /-- IDENT_FRAME. An IDENT frame carries identity for admission and timestamps for the delay measurement. -/
  | identFrame (b : Fin 4) (l : Fin 32) (z : Fin 16) (index : Fin 32) (peerBridle : Fin 4) (peerLane : Fin 32) (admitted : Bool) (serial : Word) (stamps : Word × Word) (turn : Word) (arrival : Word)
  /-- LANE_TRAINING_COMPLETE. A lane admitted at both ends comes UP at the next boundary and joins its strand. -/
  | laneTrainingComplete (b : Fin 4) (l : Fin 32)
  /-- LANE_TRAINING_TIMEOUT. A lane not UP within 50 ms fails the attempt and starts TRAINING again. -/
  | laneTrainingTimeout (b : Fin 4) (l : Fin 32) (cyc : Nat)
  /-- LANE_TRAINING_RETRY. After 3 failed attempts training restarts every 1 s. -/
  | laneTrainingRetry (b : Fin 4) (l : Fin 32) (cyc : Nat)
  /-- LANE_RETRAIN. A write of retrain takes the lane DOWN at the next boundary and then TRAINING. -/
  | laneRetrain (src : Source) (b : Fin 4) (l : Fin 32) (cyc : Nat)
  /-- LINK_COUNTER_EXHAUST. A codeword counter reaching 2⁴⁷ is logged, and at 2⁴⁸ − 1 the strand stops new codewords. -/
  | linkCounterExhaust (b : Fin 4) (n : Fin 14) (cyc : Nat)
  /-- PERST_ASSERT. PERST_N resets the endpoint, its configuration, MSI-X tables and windows, and orphans host counters. -/
  | perstAssert
  /-- PCIE_DL_DOWN. Loss of the data link without PERST_N has the PERST_N outcome. -/
  | pcieDlDown
  /-- FUNCTION_LEVEL_RESET. An FLR orphans the function's counters, clears its window and MSI-X table and disables its rings. -/
  | functionLevelReset (fn : Fin 64) (cyc : Nat)
  /-- BAR0_ACCESS. A BAR0 request that is not one DW with all byte enables completes as Unsupported Request. -/
  | bar0Access (whole : Bool) (off : BitVec 28) (write : Option Word) (cyc : Nat)
  /-- BAR4_ACCESS. A BAR4 request reaches module memory through the function's window under its job. -/
  | bar4Access (fn : Fin 64) (off : BitVec 36) (req : HostRequest) (cyc : Nat)
  /-- BAR2_RING_DOORBELL. A BAR2 doorbell write to a ring not assigned to the function is discarded with PCI_DB_REFUSED. -/
  | bar2RingDoorbell (fn : Fin 64) (off : BitVec 18) (write : Option Word) (cyc : Nat)
  /-- HOST_READ_TIMEOUT. A module read of host memory without completion in 10 ms returns poison and raises PCI_READ_TIMEOUT. -/
  | hostReadTimeout (id : Nat) (aborted : Bool) (cyc : Nat)
  /-- I3C_OFFSET_WRITE. A 4-byte I3C write sets the register offset. -/
  | i3cOffsetWrite (off : Word)
  /-- I3C_REGISTER_READ. An I3C read returns the register at the offset and advances it by 4. -/
  | i3cRegisterRead
  /-- I3C_REGISTER_WRITE. An 8-byte I3C write applies data at an offset where permitted, otherwise NACKed. -/
  | i3cRegisterWrite (off : Word) (val : Word) (cyc : Nat)
  /-- UART_READ_COMMAND. The UART r command prints the register at the offset. -/
  | uartReadCommand (off : Word)
  /-- UART_LOG_COMMAND. The UART e command prints event-log records. -/
  | uartLogCommand (count : Word)
  /-- UART_WRITE_COMMAND. The UART w command writes a register where the level permits. -/
  | uartWriteCommand (off : Word) (val : Word) (cyc : Nat)
  /-- MODULE_START. Deassertion of MOD_RESET_N with all supplies in range runs the start sequence to ready. -/
  | moduleStart (r : StartReport)
  /-- START_STEP_TIMEOUT. A unit that has not completed its step by twice its characterised time counts as failing and is logged. -/
  | startStepTimeout (unit : UnitId)
  /-- ROLLBACK_COMMIT. A write of commit after ready blows rollback counter bits up to the booted slot's index. -/
  | rollbackCommit (src : Source)
  /-- FIRMWARE_BLOCK_RECEIVED. When the last 64 bytes of a block are written the loader checks its CRC and, once complete, the image digest. -/
  | firmwareBlockReceived (c : CoreId) (b : Fin 256)
  /-- FIRMWARE_REPAIR_CHECK. 2 strides after sending, the Groom reads pending cores and rewrites their missing blocks. -/
  | firmwareRepairCheck (r : Fin 8) (image : List (List Byte))
  /-- RECKONER_PARTIAL_RESET. A write of GRM_RST_CTL.mask stops and restarts the named Reckoners. -/
  | reckonerPartialReset (src : Source) (val : Word) (cyc : Nat)
  /-- RECKONER_RESTART_TIMEOUT. A restart not ON within 50 ms leaves the Reckoner OFF as failed. -/
  | reckonerRestartTimeout (r : Fin 8) (cyc : Nat)
  /-- FIELD_FAIL_LIST_CLEAR. A write of clear_list empties the field-fail list at the next module start. -/
  | fieldFailListClear (src : Source)
  /-- CORE_FAIL_IN_SERVICE. A core failure stops its engines, overruns its descriptors, halts its queues and stops the core. -/
  | coreFailInService (c : CoreId) (cause : CoreFault)
  /-- FARRIER_CORE_SUBSTITUTION. When a failed core reaches OFF the Farrier starts a hot spare and raises GRM_CORE_SUBST. -/
  | farrierCoreSubstitution (c : CoreId)
  /-- SPARE_PERIODIC_CHECK. Every 2²² strides one hot spare per die is self-tested in place. -/
  | sparePeriodicCheck (r : Fin 8) (code : Fin 3)
  /-- FIELD_FAIL_IN_SERVICE. A field whose converter or clock faults goes OFF and is restarted once. -/
  | fieldFailInService (r : Fin 8) (east : Bool)
  /-- RECKONER_FAIL. A Reckoner failing in service raises GRM_RKN_LOST and is partially reset once. -/
  | reckonerFail (r : Fin 8)
  /-- MODULE_FAIL_STOP. On a module-fatal fault the module darkens its lanes and serves no transaction. -/
  | moduleFailStop (block : Word)
  /-- GATE_ACTION. The management gate applies the first copy of each action sequence number and journals it. -/
  | gateAction (g : Fin 2) (epoch : BitVec 8) (seq : BitVec 64) (off : BitVec 28) (val : Word) (cyc : Nat)
  /-- GROOM_HEARTBEAT_TIMEOUT. Absence of the ACTIVE heartbeat for 1,536 Groom cycles makes the STANDBY Groom ACTIVE. -/
  | groomHeartbeatTimeout (g : Fin 2)
  /-- GROOM_SELF_FAULT. An ACTIVE Groom reporting an SRAM error or failed health check is switched over. -/
  | groomSelfFault (g : Fin 2)
  /-- GROOM_PLANNED_SWITCH. A write of GRM_PAIR_CTL.switch swaps the roles at a boundary. -/
  | groomPlannedSwitch (src : Source) (cyc : Nat)
  /-- STANDBY_HEALTH_TIMEOUT. A STANDBY health report missing for 3 strides makes the Groom ABSENT and starts its restart. -/
  | standbyHealthTimeout (g : Fin 2)
  /-- GROOM_RESTART_COMPLETE. A restarted Groom becomes STANDBY at a boundary and the cause clears. -/
  | groomRestartComplete (g : Fin 2) (ok : Bool)
  /-- SENSOR_SAMPLE. Each stride's sensor samples are compared with the thresholds and set levels and throttles. -/
  | sensorSample (cls : Fin 9) (index : BitVec 12) (reading : BitVec 16)
  /-- SENSOR_BAD. A sensor out of range or disagreeing for 16 strides becomes BAD, or a silent sensor reads its throttle threshold. -/
  | sensorBad (cls : Fin 9) (index : BitVec 12) (near0 : BitVec 12) (near1 : BitVec 12)
  /-- RATE_LEVEL_HOLD_EXPIRY. After 977 strides at a low rise the rate level steps down. -/
  | rateLevelHoldExpiry (r : Fin 8)
  /-- SHUTDOWN_COOLDOWN_COMPLETE. After 977 strides below shutdown − 10 °C a shut-down Reckoner's failure is cleared. -/
  | shutdownCooldownComplete (r : Fin 8)
  /-- THERMTRIP. A sensor 5 °C above shutdown asserts THERMTRIP_N and opens every VIN_48 converter. -/
  | thermtrip (cls : Fin 7) (index : BitVec 12)
  /-- DEFERRED_RECORD_FLUSH. After 977 strides within the event-log temperature range deferred records are written in order. -/
  | deferredRecordFlush
  /-- POWER_SAMPLE. Input power is measured each stride; a 10 ms average above 3,600 W applies the emergency throttle. -/
  | powerSample (avg10ms : BitVec 16) (avg1s : BitVec 16)
  /-- POWER_THROTTLE_STEP. Every 977 strides the power throttle rises or falls by 5 against PWR_LIMIT. -/
  | powerThrottleStep
  /-- POWER_STATE_TARGET. A write of PWR_STATE_CTL.target moves the module along the permitted edges. -/
  | powerStateTarget (src : Source) (val : Word) (cyc : Nat)
  /-- POWER_STATE_STEP_COMPLETE. A completed power-state step moves on towards the newest target. -/
  | powerStateStepComplete
  /-- DEBUG_CHALLENGE. op CHALLENGE produces a fresh challenge block, or is refused BUSY during lockout. -/
  | debugChallenge (src : Source) (val : Word)
  /-- DEBUG_SUBMIT. op SUBMIT verifies the signed response and grants the level or lifecycle, zeroising first where required. -/
  | debugSubmit (src : Source) (val : Word) (cyc : Nat)
  /-- DEBUG_REVOKE. op REVOKE sets a lower debug level without authentication. -/
  | debugRevoke (src : Source) (val : Word)
  /-- PROVISION. op PROVISION blows key hashes and serial and generates the device key in BLANK. -/
  | provision (src : Source) (val : Word)
  /-- PUBKEY. op PUBKEY fills SEC_AUTH_DATA with the device public key. -/
  | pubkey (src : Source) (val : Word)
  /-- AUTH_DATA_READ. A read of SEC_AUTH_DATA returns the next word of the challenge block or public key. -/
  | authDataRead (src : Source)
  /-- AUTH_DATA_WRITE. A write of SEC_AUTH_DATA appends the next word of the submission or PROVISION record. -/
  | authDataWrite (src : Source) (val : Word)
  /-- CHALLENGE_EXPIRY. A challenge unused for 2²⁰ strides becomes invalid. -/
  | challengeExpiry
  /-- AUTH_LOCKOUT_EXPIRY. 2²⁶ strides after the third failed SUBMIT CHALLENGE is accepted again. -/
  | authLockoutExpiry
  /-- ZEROISATION_COMPLETE. When every zeroisation step has completed the level becomes INTRUSIVE and SEC_ZEROISED is logged. -/
  | zeroisationComplete (failed : Option (Fin 24))
  /-- KEY_LOAD. op LOAD unwraps a key blob into its slot and increments its generation. -/
  | keyLoad (src : Source) (val : Word)
  /-- KEY_ERASE. op ERASE zeros a key slot. -/
  | keyErase (src : Source) (val : Word)
  /-- KEY_BIND. op BIND maps a job to a key slot for encryption at a boundary. -/
  | keyBind (src : Source) (val : Word) (cyc : Nat)
  /-- KEY_UNBIND. op UNBIND returns a job's key tag to 0. -/
  | keyUnbind (src : Source) (val : Word) (cyc : Nat)
  /-- LINK_ENCRYPTION_SWITCH. A write of SEC_LINK_CTL.switch stages a link key or enable change for the SEC_LINK_AT boundary. -/
  | linkEncryptionSwitch (src : Source) (val : Word)
  /-- SNAPSHOT_REARM. rearm clears held and every header's valid bit. -/
  | snapshotRearm (src : Source)
  /-- SNAPSHOT_TRIG_NOW. trig_now latches the snapshot areas immediately. -/
  | snapshotTrigNow (src : Source)
  /-- SNAPSHOT_TRIG_BND. trig_bnd latches the snapshot areas at the next boundary. -/
  | snapshotTrigBnd (src : Source)
  /-- SNAPSHOT_TRIG_RACK. trig_rack chooses S and sends the rack counter ADD32 to every reachable module. -/
  | snapshotTrigRack (src : Source)
  /-- TRIG_IN_FALL. A falling edge of TRIG_IN triggers a snapshot in tin_mode. -/
  | trigInFall
  /-- FAULT_RECORD. A fault record is routed to its job's fault ring, the event log, or both. -/
  | faultRecord (cls : Fin 16) (code : BitVec 12) (source : Word) (detail : Word) (job : Option (BitVec 12)) (logged : Bool) (same : Bool)
  /-- FAULT_RING_WRITE_COMPLETE. When a fault ring write is acknowledged the tail advances and the ring counter is signalled, or on failure the record goes to the log. -/
  | faultRingWriteComplete (job : BitVec 12) (ok : Bool)
  /-- FAULT_RING_HEAD_WRITE. A write of PDK_FLT_HEAD is accepted only if it moves head forward within the present records. -/
  | faultRingHeadWrite (src : Source) (val : Word)
  /-- TALLY_PATROL. The Tally patrol reads every word once per 8 s and corrects single-bit errors. -/
  | tallyPatrol (c : CoreId) (word : Fin 2621440) (errs : Fin 3)
  /-- PATROL_SCRUB. The DRAM patrol scrub reads each line once per period and poisons uncorrectable lines. -/
  | patrolScrub (line : BitVec 34) (errs : Fin 8)
  /-- REFRESH_MANAGEMENT. A bank whose activation count reaches the threshold receives a refresh management command. -/
  | refreshManagement (k : Fin 24) (bank : BitVec 12)
  /-- RETRAIN_START. A temperature change, period or link error count starts a stack retrain. -/
  | retrainStart (k : Fin 24) (links : Bool)
  /-- TRAINING_BURST. A training burst holds one channel for at most 2 µs, queueing its requests. -/
  | trainingBurst (k : Fin 24) (channel : Fin 32)
  /-- ROW_REPAIR. A row reaching ce_row or holding an uncorrectable line is repaired by soft repair or logged. -/
  | rowRepair (line : BitVec 34) (spare : Bool) (left : BitVec 8)
  /-- STACK_LOST. A lost stack's controller answers every request at once with poison or failure. -/
  | stackLost (k : Fin 24)
  /-- FOLD_FILL_COMPLETE. When every controller has filled its slots the map enters FOLDED and the Stable manager reinitialises. -/
  | foldFillComplete
  /-- HISTORY_WAIT_TIMEOUT. A rebuild still held window_ms after FOLDED follows the history-lost outcome. -/
  | historyWaitTimeout (cyc : Nat)
  /-- STACK_EVACUATION_COMPLETE. After a retiring stack's last copy the map enters FOLDED at a boundary. -/
  | stackEvacuationComplete (k : Fin 24)
  /-- VIN48_LOSS. Loss of VIN_48 outside OFF is module-fatal and the module fail-stops. -/
  | vin48Loss
  /-- ANALOG_RAIL_LOSS. VANA_1V8 or VIO_1V2 leaving range outside OFF is module-fatal. -/
  | analogRailLoss (vio : Bool)
  /-- VLAS12_LOSS. VLAS_12 leaving range darkens every ON cartridge as a sudden loss with no fit spare. -/
  | vlas12Loss
  /-- VSTBY_LOSS. VSTBY_3V3 leaving range opens every converter and switch within 10 µs. -/
  | vstbyLoss
  /-- MOD_RESET_ASSERT. MOD_RESET_N asserted for 1 µs takes every unit to OFF at once. -/
  | modResetAssert
  /-- PERST_DEASSERT. Deassertion of PERST_N lets the endpoint leave reset and start link training, which completes within 20 ms. -/
  | perstDeassert
  /-- PCIE_LINK_UP. PCI Express link training completes and PCI_LINK_STAT goes UP, ending the discard of host writes. -/
  | pcieLinkUp (width : Fin 17) (speed : Fin 7) (flit : Bool)
  /-- VSTBY_RETURN. VSTBY_3V3 returns to range after a loss and a module start follows. -/
  | vstbyReturn
  /-- VLAS12_RETURN. Once VLAS_12 is in range again, each cartridge whose enable is 1 starts under R287. -/
  | vlas12Return
  /-- SPARE_BECOMES_FIT. A WARM or COLD spare brought to HOT becomes fit, so the held feed switches move or the waiting planned swap starts. -/
  | spareBecomesFit (k : Fin 8) (monitor : Int)
  /-- TRAINING_BURST_COMPLETE. A training burst ends, returning its channel to service and serving the queued requests, or counts a failed burst towards stack loss. -/
  | trainingBurstComplete (k : Fin 24) (ok : Bool)
  /-- ATOMIC_RESULT_EXPIRY. An atomic result held in the atomic result buffer is released 48 µs after application. -/
  | atomicResultExpiry (source : Fin 32) (b : Fin 4) (seq : Word) (cyc : Nat)
  /-- FLAG_EPOCH_USE_CLEAR. 64 µs after the last request of a previous use of an epoch value, the use is clear and requests waiting at the issuing Bridle for that value proceed. -/
  | flagEpochUseClear (b : Fin 4) (port : Fin 64) (job : BitVec 12) (target : Fin 32) (epoch : BitVec 8) (cyc : Nat)
  /-- POWER_EMERGENCY_HOLD_EXPIRY. 977 strides after the 10 ms average exceeded 3,600 W, the emergency throttle of every field is released. -/
  | powerEmergencyHoldExpiry
  /-- JTAG_MEMORY_ACCESS. At INTRUSIVE, a read or write of DRAM, Tally or scratch through the JTAG memory access port, or a Groom halt or single step. -/
  | jtagMemoryAccess (access : JtagAccess)
deriving DecidableEq, Repr

end Sys2Proof
end

