-- ==== Sys2Proof/Decode.lean ====
section
/-! DEFINITION. The decoder of command words. -/

namespace Sys2Proof

/-- The command a word spells by the bits of the opcode table. The table gives no row any bits, so no word spells a command. -/
def decodeTableWord (_nbits _w : Nat) : Option Instr := none

end Sys2Proof
end

