-- ==== Sys2Proof/Machine/Map.lean ====
section
/-! DEFINITION. Sparse tables of the module: a list of key and value pairs, keys strictly rising. -/

namespace Sys2Proof.Machine

/-- A sparse table by number. What an unlisted key reads as is said where the table is read. -/
abbrev Table (α : Type) := List (Nat × α)

variable {α : Type}

/-- The entry of key `k`, where the table lists one. -/
def Table.find? : Table α → Nat → Option α
  | [], _ => none
  | (k', v) :: t, k => if k = k' then some v else if k < k' then none else Table.find? t k

/-- The entry of key `k`, or `d` where none is listed. -/
def Table.getD (t : Table α) (k : Nat) (d : α) : α := (Table.find? t k).getD d

/-- The table with key `k` listed as `v`. -/
def Table.put : Table α → Nat → α → Table α
  | [], k, v => [(k, v)]
  | (k', v') :: t, k, v =>
    if k < k' then (k, v) :: (k', v') :: t
    else if k = k' then (k, v) :: t
    else (k', v') :: Table.put t k v

/-- The table without key `k`. -/
def Table.drop : Table α → Nat → Table α
  | [], _ => []
  | (k', v') :: t, k => if k < k' then (k', v') :: t else if k = k' then t else (k', v') :: Table.drop t k

/-- Every listed value changed by `f`, which sees the key. -/
def Table.mapVals {β : Type} (t : Table α) (f : Nat → α → β) : Table β := t.map fun (k, v) => (k, f k v)

/-- The keys from `lo` up to `lo + n - 1`, each with the value `f` gives it. -/
def Table.ofFn (lo n : Nat) (f : Nat → α) : Table α := (List.range n).map fun i => (lo + i, f (lo + i))

/-- The keys rise strictly: the canonical form of a table. -/
def Table.sorted : Table α → Bool
  | [] => true
  | [_] => true
  | (k, _) :: (k', v') :: t => decide (k < k') && Table.sorted ((k', v') :: t)

/-! ### Ordered lists -/

/-- An item inserted into a list ordered by `before`, after those it does not come before. -/
def insertBy {α : Type} (before : α → α → Bool) (x : α) : List α → List α
  | [] => [x]
  | y :: t => if before x y then x :: y :: t else y :: insertBy before x t

/-- A list ordered by `before`; items of one rank keep their order. -/
def sortBy {α : Type} (before : α → α → Bool) (l : List α) : List α := l.foldl (fun acc x => insertBy before x acc) []

end Sys2Proof.Machine
end

