-- ==== Sys2Proof/Machine/Crypto.lean ====
section
/-! DEFINITION. Numbers as bytes, and the hash functions the manual names: SHA-256 and SHA-384. Their rules are those of
FIPS 180-4, which the manual does not repeat (assumption 24); its constants are computed here from the primes. -/

namespace Sys2Proof.Machine

/-! ### Numbers as bytes -/

/-- A little-endian number (R7). -/
def leNat : List Byte → Nat
  | [] => 0
  | b :: bs => b.toNat + 256 * leNat bs

/-- The `n` low bytes of a number, little-endian. -/
def natLe (v : Nat) : Nat → List Byte
  | 0 => []
  | n + 1 => BitVec.ofNat 8 v :: natLe (v / 256) n

/-- A big-endian number. -/
def beNat (bs : List Byte) : Nat := leNat bs.reverse

/-- The `n` low bytes of a number, big-endian. -/
def natBe (v n : Nat) : List Byte := (natLe v n).reverse

/-- A list cut into groups of `k`, with fuel. -/
def cut {α : Type} (k : Nat) : Nat → List α → List (List α)
  | 0, _ => []
  | fuel + 1, l => if l.isEmpty then [] else l.take k :: cut k fuel (l.drop k)

/-! ### The constants of the hashes -/

/-- The largest number below 2^`bits` whose `k`-th power is at most `x`, found bit by bit from the top above `r`. -/
def rootBelow (k x : Nat) : Nat → Nat → Nat
  | 0, r => r
  | bits + 1, r => rootBelow k x bits (if (r + 2 ^ bits) ^ k ≤ x then r + 2 ^ bits else r)

/-- The first `w` bits of the fraction of the `k`-th root of a number below 512. -/
def rootFraction (k w p : Nat) : BitVec w := BitVec.ofNat w (rootBelow k (p * 2 ^ (k * w)) (w + 5) 0)

/-- The primes below 410: the first eighty. -/
def hashPrimes : List Nat := (List.range 410).filter fun p => decide (1 < p) && (List.range p).all fun d => d < 2 || p % d != 0

/-- What tells the hashes apart: rounds, the rotations of the two sums over the working words and of the two over the message, the
last of the latter a shift. -/
structure HashRule where
  rounds : Nat
  sumA : Nat × Nat × Nat
  sumE : Nat × Nat × Nat
  older : Nat × Nat × Nat
  newer : Nat × Nat × Nat
deriving DecidableEq, Repr

def HashRule.narrow : HashRule := ⟨64, (2, 13, 22), (6, 11, 25), (7, 18, 3), (17, 19, 10)⟩
def HashRule.wide : HashRule := ⟨80, (28, 34, 39), (14, 18, 41), (1, 8, 7), (19, 61, 6)⟩

/-! ### One block -/

/-- The eight words a hash carries from block to block, and works on within one. -/
structure Octet (w : Nat) where
  low : BitVec w × BitVec w × BitVec w × BitVec w
  high : BitVec w × BitVec w × BitVec w × BitVec w
deriving DecidableEq, Repr

/-- Three copies of a word combined: two turned, the third turned or, for the message, shifted. -/
def threefold {w : Nat} (x : BitVec w) (r : Nat × Nat × Nat) (third : BitVec w → Nat → BitVec w) : BitVec w :=
  third x r.2.2 ^^^ x.rotateRight r.1 ^^^ x.rotateRight r.2.1

/-- Bits of one word picked by another. -/
def pick {w : Nat} (by_ one zero : BitVec w) : BitVec w := (by_ &&& one) ||| (~~~by_ &&& zero)

/-- The bits that at least two of three words have. -/
def majority {w : Nat} (x y z : BitVec w) : BitVec w := (x &&& (y ||| z)) ||| (y &&& z)

/-- One round, given the sum of its constant and its message word. -/
def Octet.turn {w : Nat} (r : HashRule) (o : Octet w) (add : BitVec w) : Octet w :=
  let (x, y, z, u) := o.low
  let (p, q, v, old) := o.high
  let grow := old + add + pick p q v + threefold p r.sumE BitVec.rotateRight
  ⟨(grow + majority x y z + threefold x r.sumA BitVec.rotateRight, x, y, z), u + grow, p, q, v⟩

/-- The message word that follows a window of sixteen. -/
def nextWord {w : Nat} (r : HashRule) (win : List (BitVec w)) : BitVec w :=
  let word := fun i => win.getD i 0
  word 0 + word 9 + threefold (word 1) r.older BitVec.ushiftRight + threefold (word 14) r.newer BitVec.ushiftRight

/-- The rounds of a block: each uses up the oldest word of the window and appends the word that follows. -/
def turns {w : Nat} (r : HashRule) : List (BitVec w) → List (BitVec w) → Octet w → Octet w
  | [], _, o => o
  | k :: ks, win, o => turns r ks (win.drop 1 ++ [nextWord r win]) (o.turn r (win.headD 0 + k))

def Octet.plus {w : Nat} (a b : Octet w) : Octet w :=
  ⟨(a.low.1 + b.low.1, a.low.2.1 + b.low.2.1, a.low.2.2.1 + b.low.2.2.1, a.low.2.2.2 + b.low.2.2.2),
    a.high.1 + b.high.1, a.high.2.1 + b.high.2.1, a.high.2.2.1 + b.high.2.2.1, a.high.2.2.2 + b.high.2.2.2⟩

def Octet.ofList {w : Nat} (l : List (BitVec w)) : Octet w :=
  let word := fun i => l.getD i 0
  ⟨(word 0, word 1, word 2, word 3), word 4, word 5, word 6, word 7⟩

def Octet.bytes {w : Nat} (o : Octet w) : List Byte :=
  [o.low.1, o.low.2.1, o.low.2.2.1, o.low.2.2.2, o.high.1, o.high.2.1, o.high.2.2.1, o.high.2.2.2].flatMap
    fun x => natBe x.toNat (w / 8)

/-- The bytes that end a message: a set bit, zeros to a whole block of sixteen words, and the message's length in bits in two words. -/
def hashTail (w len : Nat) : List Byte :=
  let word := w / 8
  let filled := (len + 1 + 2 * word) % (16 * word)
  0x80 :: natBe (8 * len) (if filled = 0 then 2 * word else 18 * word - filled)

/-- A message hashed from the words `start`, with the constants `ks`. -/
def hashFrom {w : Nat} (r : HashRule) (ks start : List (BitVec w)) (m : List Byte) : List Byte :=
  let padded := m ++ hashTail w m.length
  let block := fun (o : Octet w) b =>
    o.plus (turns r ks ((cut (w / 8) 17 b).map fun x => BitVec.ofNat w (beNat x)) o)
  ((cut (2 * w) (padded.length + 1) padded).foldl block (Octet.ofList start)).bytes

/-! ### The hashes -/

def hashConstants (r : HashRule) (w : Nat) : List (BitVec w) := (hashPrimes.take r.rounds).map (rootFraction 3 w)

/-- SHA-256 of a message. It starts from the square roots of the first eight primes. -/
def sha256 (m : List Byte) : List Byte :=
  hashFrom .narrow (hashConstants .narrow 32) ((hashPrimes.take 8).map (rootFraction 2 32)) m

/-- SHA-384 of a message: six words. It starts from the square roots of the next eight primes. -/
def sha384 (m : List Byte) : List Byte :=
  (hashFrom .wide (hashConstants .wide 64) (((hashPrimes.drop 8).take 8).map (rootFraction 2 64)) m).take 48

end Sys2Proof.Machine
end

