-- ==== Sys2Proof/Machine/Cipher.lean ====
section
/-! DEFINITION. The key functions the manual names: HMAC and HKDF-SHA-384 (RFC 5869), AES-256 with key wrap (SP 800-38F) and XTS (IEEE 1619), and
ECDSA and ECDH on P-384. Their constants are those of the standards (assumption 24). -/

namespace Sys2Proof.Machine

/-! ### HMAC and HKDF -/

def xorBytes (a b : List Byte) : List Byte := (a.zip b).map fun (x, y) => x ^^^ y

/-- HMAC-SHA-384. -/
def hmac384 (key m : List Byte) : List Byte :=
  let k := if 128 < key.length then sha384 key else key
  let k := k ++ List.replicate (128 - k.length) 0
  sha384 (xorBytes k (List.replicate 128 0x5c) ++ sha384 (xorBytes k (List.replicate 128 0x36) ++ m))

/-- The first 32 bytes of HKDF-SHA-384. -/
def hkdf384 (salt input info : List Byte) : List Byte := (hmac384 (hmac384 salt input) (info ++ [1])).take 32

/-! ### AES-256 -/

/-- Multiplication by x in the field of AES. -/
def gfDouble (a : Byte) : Byte := (a <<< 1) ^^^ (if a.toNat < 128 then 0 else 0x1b)

/-- Multiplication in the field of AES, over the low `n` bits of `b`. -/
def gfMul (a : Byte) (b : Nat) : Nat → Byte
  | 0 => 0
  | n + 1 => (if b % 2 = 1 then a else 0) ^^^ gfMul (gfDouble a) (b / 2) n

/-- The substitution of AES: the inverse in the field, a^254, and the affine map. -/
def aesSub (a : Byte) : Byte :=
  let sq (x : Byte) := gfMul x x.toNat 8
  let mul (x y : Byte) := gfMul x y.toNat 8
  let a2 := sq a
  let a4 := sq a2
  let a8 := sq a4
  let a16 := sq a8
  let a32 := sq a16
  let a64 := sq a32
  let a128 := sq a64
  let v := mul (mul (mul a2 a4) (mul a8 a16)) (mul (mul a32 a64) a128)
  v ^^^ v.rotateLeft 1 ^^^ v.rotateLeft 2 ^^^ v.rotateLeft 3 ^^^ v.rotateLeft 4 ^^^ 0x63

def aesTable : List Byte := (List.range 256).map fun i => aesSub (BitVec.ofNat 8 i)

/-- The substitution undone. -/
def aesUnsub (table : List Byte) (b : Byte) : Byte := BitVec.ofNat 8 (table.findIdx (· == b))

/-- The round keys of AES-256: words of four bytes, newest first. -/
def aesExpand (table : List Byte) : Nat → Byte → List (List Byte) → List (List Byte)
  | 0, _, ws => ws
  | n + 1, rc, ws =>
    let i := ws.length
    let prev := ws.getD 0 []
    let sub (l : List Byte) := l.map fun b => table.getD b.toNat 0
    let (t, rc) := if i % 8 = 0 then
        (match sub (prev.drop 1 ++ prev.take 1) with
          | a :: l => ((a ^^^ rc) :: l, gfDouble rc)
          | [] => ([], rc))
      else if i % 8 = 4 then (sub prev, rc) else (prev, rc)
    aesExpand table n rc (xorBytes (ws.getD 7 []) t :: ws)

/-- The fifteen round keys, first to last. -/
def aesKeys (table key : List Byte) : List (List Byte) :=
  cut 16 16 ((aesExpand table 52 1 ((cut 4 9 key).reverse)).reverse.flatten)

/-- One column of the inverse mix. -/
def aesUnmix (c : List Byte) : List Byte :=
  let m (i k : Nat) := gfMul (c.getD (i % 4) 0) k 4
  (List.range 4).map fun i => m i 14 ^^^ m (i + 1) 11 ^^^ m (i + 2) 13 ^^^ m (i + 3) 9

/-- The inverse row shift. -/
def aesUnshift (b : List Byte) : List Byte :=
  (List.range 16).map fun i => b.getD ((i + 16 - 4 * (i % 4)) % 16) 0

/-- AES-256 decryption of one block under round keys given last to first. -/
def aesDecrypt (table : List Byte) (keys : List (List Byte)) (block : List Byte) : List Byte :=
  match keys.reverse with
  | [] => block
  | k :: ks => go ks (xorBytes block k)
where
  go : List (List Byte) → List Byte → List Byte
    | [], b => b
    | [k], b => xorBytes ((aesUnshift b).map (aesUnsub table)) k
    | k :: ks, b =>
      let b := xorBytes ((aesUnshift b).map (aesUnsub table)) k
      go ks ((cut 4 5 b).flatMap aesUnmix)

/-- One column of the mix. -/
def aesMix (c : List Byte) : List Byte :=
  let m (i k : Nat) := gfMul (c.getD (i % 4) 0) k 2
  (List.range 4).map fun i => m i 2 ^^^ m (i + 1) 3 ^^^ m (i + 2) 1 ^^^ m (i + 3) 1

/-- The row shift. -/
def aesShift (b : List Byte) : List Byte := (List.range 16).map fun i => b.getD ((i + 4 * (i % 4)) % 16) 0

/-- The rounds of AES-256 encryption after the first key. -/
def aesRounds (table : List Byte) : List (List Byte) → List Byte → List Byte
  | [], b => b
  | k :: ks, b =>
    let b := aesShift (b.map fun x => table.getD x.toNat 0)
    match ks with
    | [] => xorBytes b k
    | _ => aesRounds table ks (xorBytes ((cut 4 5 b).flatMap aesMix) k)

/-- AES-256 encryption of one block under round keys given first to last. -/
def aesEncrypt (table : List Byte) (keys : List (List Byte)) (block : List Byte) : List Byte :=
  match keys with
  | [] => block
  | k :: ks => aesRounds table ks (xorBytes block k)

/-! ### AES-256 in XTS mode (IEEE 1619), over a data unit of whole blocks -/

/-- A tweak multiplied by α: the 128-bit number of its bytes, least significant first, doubled modulo x^128 + x^7 + x^2 + x + 1. -/
def xtsDouble (t : List Byte) : List Byte :=
  let v := 2 * leNat t
  natLe (if v < 2 ^ 128 then v else Nat.xor (v % 2 ^ 128) 0x87) 16

/-- The tweaks of `n` blocks. -/
def xtsTweaks : Nat → List Byte → List (List Byte)
  | 0, _ => []
  | n + 1, t => t :: xtsTweaks n (xtsDouble t)

/-- A data unit under a key pair of 64 bytes, the data key first, its number `n` as the tweak; `block` is the cipher on one block. An
empty pair leaves the data as it is. -/
def xtsWith (block : List Byte → List Byte) (table pair : List Byte) (n : Nat) (bs : List Byte) : List Byte :=
  let first := aesEncrypt table (aesKeys table (pair.drop 32)) (natLe n 16)
  let blocks := cut 16 (bs.length / 16 + 1) bs
  ((blocks.zip (xtsTweaks blocks.length first)).map fun (b, t) => xorBytes (block (xorBytes b t)) t).flatten

def xtsEncrypt (pair : List Byte) (n : Nat) (bs : List Byte) : List Byte :=
  if pair = [] then bs
  else
    let table := aesTable
    xtsWith (aesEncrypt table (aesKeys table (pair.take 32))) table pair n bs

def xtsDecrypt (pair : List Byte) (n : Nat) (bs : List Byte) : List Byte :=
  if pair = [] then bs
  else
    let table := aesTable
    xtsWith (aesDecrypt table (aesKeys table (pair.take 32))) table pair n bs

/-! ### AES-256 in Galois/Counter Mode (SP 800-38D) -/

/-- The product of two blocks in the field of GCM, over the bits of `x` from its first down to bit `n`. -/
def gcmMul (x : Nat) : Nat → Nat → Nat → Nat
  | 0, _, z => z
  | n + 1, v, z =>
    gcmMul x n (if v % 2 = 1 then Nat.xor (v / 2) (0xE1 * 2 ^ 120) else v / 2) (if x.testBit n then Nat.xor z v else z)

/-- GHASH under the subkey `h`. -/
def gcmHash (h : Nat) (blocks : List (List Byte)) : Nat :=
  blocks.foldl (fun y b => gcmMul (Nat.xor y (beNat b)) 128 h 0) 0

/-- Bytes filled with zeros to whole blocks. -/
def wholeBlocks (bs : List Byte) : List (List Byte) :=
  cut 16 (bs.length / 16 + 1) (bs ++ List.replicate ((16 - bs.length % 16) % 16) 0)

/-- A text encrypted under a key and a nonce of 96 bits, and its tag over that and the additional data. -/
def gcmSeal (key nonce aad text : List Byte) : List Byte × List Byte :=
  let table := aesTable
  let block := aesEncrypt table (aesKeys table key)
  let ctr (i : Nat) := block (nonce ++ natBe i 4)
  let blocks := cut 16 (text.length / 16 + 1) text
  let out := (blocks.zipIdx.map fun (b, i) => xorBytes b (ctr (i + 2))).flatten
  let sizes := natBe (8 * aad.length) 8 ++ natBe (8 * out.length) 8
  let y := gcmHash (beNat (block (List.replicate 16 0))) (wholeBlocks aad ++ wholeBlocks out ++ [sizes])
  (out, xorBytes (natBe y 16) (ctr 1))

/-- The steps of AES key unwrap, from number `t` down, over the register A and the semiblocks. -/
def unwrapSteps (table : List Byte) (keys : List (List Byte)) : Nat → List Byte → List (List Byte) → List Byte × List (List Byte)
  | 0, a, rs => (a, rs)
  | t + 1, a, rs =>
    let n := rs.length
    let i := t % n
    let b := aesDecrypt table keys (xorBytes a (natBe (t + 1) 8) ++ rs.getD i [])
    unwrapSteps table keys t (b.take 8) (rs.set i (b.drop 8))

/-- AES key unwrap: the key, where the integrity check holds. -/
def keyUnwrap (kek wrapped : List Byte) : Option (List Byte) :=
  let table := aesTable
  match cut 8 (wrapped.length + 1) wrapped with
  | a :: rs =>
    let (a, rs) := unwrapSteps table (aesKeys table kek) (6 * rs.length) a rs
    if a = List.replicate 8 0xa6 then some rs.flatten else none
  | [] => none

/-! ### P-384 -/

def p384 : Nat := 2 ^ 384 - 2 ^ 128 - 2 ^ 96 + 2 ^ 32 - 1
def p384B : Nat := 0xb3312fa7e23ee7e4988e056be3f82d19181d9c6efe8141120314088f5013875ac656398d8a2ed19d2a85c8edd3ec2aef
def p384N : Nat := 0xffffffffffffffffffffffffffffffffffffffffffffffffc7634d81f4372ddf581a0db248b0a77aecec196accc52973
def p384G : Nat × Nat :=
  (0xaa87ca22be8b05378eb1c71ef320ad746e1d3b628ba79b9859f741e082542a385502f25dbf55296c3a545e3872760ab7,
   0x3617de4a96262c6f5d9e98bf9292dc29f8f41dbd289a147ce9da3113b5f0b8c00a60b1ce1d7e819d7a431d7c90ea0e5f)

/-- a^e mod m over the low `n` bits of e. -/
def powMod (m a e : Nat) : Nat → Nat
  | 0 => 1 % m
  | n + 1 =>
    let r := powMod m (a * a % m) (e / 2) n
    if e % 2 = 1 then r * a % m else r

/-- The inverse modulo a prime. -/
def invMod (m a : Nat) : Nat := powMod m a (m - 2) 384

/-- A point of the curve; none is the point at infinity. -/
abbrev Point := Option (Nat × Nat)

def onCurve (x y : Nat) : Bool :=
  decide (x < p384) && decide (y < p384) && y * y % p384 == (x * x * x + (p384 - 3) * x + p384B) % p384

def pointAdd (a b : Point) : Point :=
  match a, b with
  | none, q => q
  | q, none => q
  | some (x1, y1), some (x2, y2) =>
    if x1 = x2 ∧ (y1 + y2) % p384 = 0 then none
    else
      let l := if x1 = x2 then (3 * x1 * x1 + (p384 - 3)) * invMod p384 (2 * y1 % p384) % p384
        else (y2 + p384 - y1) * invMod p384 ((x2 + p384 - x1) % p384) % p384
      let x := (l * l + 2 * p384 - x1 - x2) % p384
      some (x, (l * (x1 + p384 - x) + p384 - y1) % p384)

/-- k times a point, over the low `n` bits of k. -/
def pointMul (q : Point) (k : Nat) : Nat → Point
  | 0 => none
  | n + 1 =>
    let r := pointMul (pointAdd q q) (k / 2) n
    if k % 2 = 1 then pointAdd q r else r

/-- An uncompressed public key of 97 bytes. -/
def readPoint (bs : List Byte) : Option (Nat × Nat) :=
  let x := beNat ((bs.drop 1).take 48)
  let y := beNat ((bs.drop 49).take 48)
  if bs.getD 0 0 = 4 ∧ onCurve x y then some (x, y) else none

def writePoint (q : Point) : List Byte :=
  match q with
  | some (x, y) => 4 :: natBe x 48 ++ natBe y 48
  | none => List.replicate 97 0

/-- The public key of a private one. -/
def publicKey (d : Nat) : Point := pointMul (some p384G) d 384

/-- The shared secret of ECDH: the x coordinate. -/
def ecdh (d : Nat) (q : Nat × Nat) : List Byte :=
  match pointMul (some q) d 384 with
  | some (x, _) => natBe x 48
  | none => []

/-- An ECDSA signature of a digest verifies. -/
def ecdsaVerify (key digest sig : List Byte) : Bool :=
  let r := beNat (sig.take 48)
  let t := beNat ((sig.drop 48).take 48)
  match readPoint key with
  | none => false
  | some q =>
    if r = 0 ∨ p384N ≤ r ∨ t = 0 ∨ p384N ≤ t then false
    else
      let w := invMod p384N t
      let u := beNat digest * w % p384N
      let v := r * w % p384N
      match pointAdd (pointMul (some p384G) u 384) (pointMul (some q) v 384) with
      | some (x, _) => x % p384N == r
      | none => false

end Sys2Proof.Machine
end

