-- ==== Sys2Proof/Config.lean ====
section
/-! DEFINITION. What one implementation fixes and the free values the manual leaves open: constants without a
body, so that nothing proved of the model can rest on a value of theirs. -/

namespace Sys2Proof

/-- Which of the results within the error bound of R114 the vector unit gives for the function `op`
(6 EXP, 7 RECIP, 8 RSQRT, 9 SILU) of the FP32 input: a deterministic function of the input whose bits the manual
does not give. Assumption 10. -/
opaque Config.unaryChoice (op : Nat) (input : Word) : Nat

/-- A fresh value of the module's own, numbered by the counter `State.freeCount`. -/
opaque Config.freeValue (n : Nat) : Nat

/-- The row, with its bank and pseudo-channel, that holds index w of a memory channel: the fixed internal function of the controller,
which the manual does not give (R223). Assumption 14. -/
opaque Config.rowOf (w : Nat) : Nat

/-- The pseudo-channel of index w of a memory channel, modulo 2: part of the same function (R223). Assumption 14. -/
opaque Config.pseudoOf (w : Nat) : Nat

/-- The fewest spare rows that the fuse map leaves in any bank of a memory stack, modulo 256. -/
opaque Config.spareRows (stack : Nat) : Nat

/-- What calibration set `set` (0 to 4) holds for a quantity, as measured at final test (R290); the number of a quantity is
that of `CalGroup`. -/
opaque Config.calSet (set quantity : Nat) : Int

/-- What bring-up measured of a quantity where no set is valid (R291). -/
opaque Config.calMeasured (quantity : Nat) : Int

/-- The stitch crossings that calibration storage holds for the path from a source port over a plane to a destination port
(R269, R289); read modulo 7. -/
opaque Config.stitchCrossings (src plane dst : Nat) : Nat

/-- The photonic-region sensor assigned to a Blinkers engine's calibration group (R291). -/
opaque Config.engineSensor (e : Nat) : Nat

/-- The hash of R82: the number a core's transaction to a port and a 128-byte line gives, from which its edge router follows. -/
opaque Config.routerHash (port line : Nat) : Nat

/-- Which of a die's four ports serves a line of its Tally slices, which the manual does not give. -/
opaque Config.tallyPort (line : Nat) : Nat

/-- What a Paddock digital sensor is assigned to (R476): field 2 × Reckoner + 1 for east, or, from 16 up, the spine. The manual does
not give the assignment. -/
opaque Config.digitalSensor (i : Nat) : Nat

/-- Where a sensor lies, as the fuse map holds it: x and y in mm (R472). -/
opaque Config.sensorPos (key : Nat) : Nat × Nat

/-- 10^(j/1000) for j = 1, 2, 4, …, 512 in units of 10^-18, by which dB figures become linear ones. -/
def Config.dbStep : List Nat := [1002305238077899671, 1004615790278395142, 1009252886076684411, 1018591388054116924,
  1037528415818012609, 1076465213629834878, 1158777356155126042, 1342764961137863826,
  1803017740859568951, 3250872973854343737]

end Sys2Proof
end

