-- ==== Sys2Proof/Machine/BaseState.lean ====
section
/-! DEFINITION. The parts of the state that the chapters on the stride, the cores, memory, the Hitch counters,
the Groom, temperature, power, security and registers give the module. -/

namespace Sys2Proof.Machine

/-! ### Time (chapter "The stride and the timebase") -/

/-- The stride clock: the stride number (48 bits, R43), the stride cycle reached, the length of the present stride
(R33), the boundaries that have elapsed (never rebased, R43) and the stride cycles elapsed before the present
stride. -/
structure Clock where
  stride : BitVec 48
  cycle : Nat
  len : Nat
  bnd : Nat
  base : Nat
deriving DecidableEq, Repr

/-- The synchronisation states of R49. -/
inductive SyncState where
  | alone | master | locked | holdover | slewing | resync
deriving DecidableEq, Repr

/-- The code of R44's sync_state. -/
def SyncState.code : SyncState → Nat
  | .alone => 0 | .master => 1 | .locked => 2 | .holdover => 3 | .slewing => 4 | .resync => 5

/-- What a module's last beacon said (R46), and how many boundaries ago it was heard. -/
structure Beacon where
  master : Fin 32
  hops : Fin 4
  eligible : Bool
  stride : BitVec 48
  age : Nat
deriving DecidableEq, Repr

/-- Rack alignment (R44 to R51). -/
structure Sync where
  st : SyncState
  master : Fin 32
  offset : Int              -- units of 0.125 ns
  lockedFor : Nat           -- consecutive strides LOCKED or MASTER (R47)
  masterSilent : Nat        -- boundaries since a beacon of the master, or naming it with hops ≤ 1 (R49)
  lost : Option (Fin 32)    -- in HOLDOVER, the master lost
  changed : Option Nat      -- boundary of the last change of master (R48)
  step : Bool               -- a step stride is due (R50)
  rebase : Option (BitVec 48)
  beacons : Table Beacon    -- by module index
deriving DecidableEq, Repr

/-! ### Units (R452 to R455) -/

inductive UState where
  | off | starting | on | stopping
deriving DecidableEq, Repr

def UState.code : UState → Nat
  | .off => 0 | .starting => 1 | .on => 2 | .stopping => 3

/-- One unit of the common state machine. `done` reports that its start or stop has completed and acts at the next
boundary; `disable` that a disable took effect during STARTING; `cancel` that the unit is ON only as the first
consistent point of a disabled start; `barred` a core that only the Farrier may start (R457). -/
structure UnitRec where
  st : UState
  rp : Bool
  enable : Bool
  failed : Bool
  done : Bool
  disable : Bool
  cancel : Bool
  barred : Bool
deriving DecidableEq, Repr

/-! ### Faults (R524 to R530) -/

/-- A fault of R530: class and code. -/
structure FaultCode where
  cls : Nat
  code : Nat
deriving DecidableEq, Repr

/-- A fault record (R524). -/
structure FaultRecord where
  fault : FaultCode
  stride : BitVec 48
  source : Word
  detail : Word
deriving DecidableEq, Repr

/-- A fault record on its way to its job's ring, not yet acknowledged (R527). -/
structure FaultWrite where
  job : Nat
  record : FaultRecord
deriving DecidableEq, Repr

/-- What is held until the event-log store or the fuses may be written (R482): a record, the rollback counter (R428), the boot
count (R503), a lifecycle (R489), or what PROVISION blows: root and debug key hashes, serial number and device key.
A lifecycle of RETURNED overwrites the device key with ones (R489). -/
inductive Deferred where
  | record (r : FaultRecord)
  | rollback (index : Nat)
  | bootCount
  | lifecycle (code : Nat)
  | provision (root debug : List Word) (serial : Word) (key : Nat)
deriving DecidableEq, Repr

/-- The event log, the deferred records and writes (R482, R529) and the fault-ring writes in flight. -/
structure FaultState where
  log : List FaultRecord        -- newest last, at most 16,128
  written : Word                -- records written since provisioning
  flight : List FaultWrite
  deferred : List Deferred      -- at most 256
  deferLost : Nat
  recordAt : Table Nat          -- when each page last produced a record, by its slot (R518)
deriving DecidableEq, Repr

/-! ### Reckoner cores (chapter "Reckoner cores and work descriptors") -/

/-- The states of a queue (R65). -/
inductive QState where
  | disabled | idle | running | boundaryHold | clockHeld | waiting | cplFull | halted
deriving DecidableEq, Repr

def QState.code : QState → Nat
  | .disabled => 0 | .idle => 1 | .running => 2 | .boundaryHold => 3
  | .clockHeld => 4 | .waiting => 5 | .cplFull => 6 | .halted => 7

/-- One level of loop nesting (R78): first body index, body length, iteration and count. -/
structure LoopFrame where
  first : BitVec 16
  len : Nat
  iter : Nat
  count : Nat
  patches : List (Nat × Nat × Int)     -- position, word, delta
deriving DecidableEq, Repr

/-- A descriptor the sequencer has fetched: its sixteen words as patched, its index and its byte offset. -/
structure Fetched where
  words : List Word
  index : BitVec 16
  offset : Nat
  loops : List LoopFrame    -- the loop nesting it was fetched in
deriving DecidableEq, Repr

/-- Arithmetic exception counts (R116), not yet saturated. -/
structure Exc where
  nan : Nat
  ovf : Nat
  unf : Nat
  acc : Nat
deriving DecidableEq, Repr

/-- A started descriptor: the stride cycle it started at, whether its operations are complete, the completion
status so far (R62), the arithmetic exception counts (R116), and the stride cycle of the last thing it has done or been answered. -/
structure Exec where
  desc : Fetched
  start : Nat
  stride : Nat              -- boundaries elapsed at its start
  complete : Bool
  status : Nat
  exc : Exc
  doneAt : Nat
deriving DecidableEq, Repr

/-- A descriptor that has ended, whose completion record is on its way (R61, R62): its status, and the transaction that writes the record, none
once it is written. Records become visible in order. -/
structure Ending where
  desc : Fetched
  status : Nat
  txn : Option Nat
deriving DecidableEq, Repr

/-- A WAIT or BRANCH that is WAITING (R76): boundaries left until its time-out (none: no time-out), whether its
condition has been found to hold, whether a watch stands for it at the Hitch root, and whether it is a BRANCH whose
evaluation is under way (it has then started). -/
structure Waiting where
  desc : Fetched
  timeout : Option Nat
  held : Bool
  watch : Bool
  branch : Bool
deriving DecidableEq, Repr

/-- One of the four queues of a core (R57 to R65, R88, R89). -/
structure Queue where
  enable : Bool             -- the enable field as last written
  on : Bool                 -- the queue has left DISABLED
  ringLog2 : Nat
  cplLog2 : Nat
  job : Nat
  base : Nat                -- scratch unit
  tail : BitVec 16
  head : BitVec 16
  cplLo : Word
  cplHi : Word
  cplTail : BitVec 16
  cplHead : BitVec 16
  st : QState
  lastStatus : Nat
  haltIndex : BitVec 16
  pc : BitVec 16            -- index of the next descriptor the sequencer fetches
  fetched : Option Fetched
  exec : List Exec          -- oldest first
  loops : List LoopFrame    -- innermost first
  wait : Option Waiting
  ending : List Ending      -- oldest first
deriving DecidableEq, Repr

/-- One memory transaction of a core (R73, R79, R341) that is not applied in its descriptor's own step: it leaves over Draught for another
port of this module or for another module, or is a flagged store that waits for its predecessors. `ret` is the rack global address a load's data goes
on to. `live` is false once its descriptor was stopped (R41). -/
structure Txn where
  id : Nat                  -- the model's own number
  q : Fin 4
  index : BitVec 16         -- descriptor it belongs to
  kind : Nat                -- kind of R296: 1 LOAD, 2 STORE, 3 FLAG_STORE, 4 ATOMIC; 0 a STORE of a completion record
  addr : Nat                -- rack global address
  len : Nat                 -- bytes of a load
  data : List Byte          -- bytes of a store; for an atomic, operand A
  ret : Option Nat
  flag : Bool               -- the store that follows a load is flagged
  exc : Exc                 -- arithmetic exceptions of a store's data, counted as it is issued (R116, R117)
  issued : Bool
  live : Bool
deriving DecidableEq, Repr

/-- The load states of core firmware (R442). -/
inductive LoadState where
  | idle | receiving | loaded | hashBad
deriving DecidableEq, Repr

def LoadState.code : LoadState → Nat
  | .idle => 0 | .receiving => 1 | .loaded => 2 | .hashBad => 3

/-- One core: its registers, queues, meters (1/1,024 byte units, R85), outstanding transactions and firmware. -/
structure Core where
  bcastRx : Bool
  zeroise : Bool
  spare : Bool              -- hot spare not in service
  selected : Bool           -- selected for service and not failed (RKN_CORE_COUNT.enabled)
  q0 : Queue
  q1 : Queue
  q2 : Queue
  q3 : Queue
  txMeter : Nat
  rxMeter : Nat
  meterAt : Nat             -- stride cycle count up to which the meters are refilled
  mover : List Txn
  drain : Bool              -- the routers changed: transactions issued before must end first (R82)
  drainMem : List Nat       -- the DRAM map changed: DRAM transactions issued before, which must end before the next (R237)
  load : LoadState
  fwMap : Nat               -- received map, 256 bits (R442)
  fwLast : Nat              -- index of the image's last block
  repairs : Nat
  failCode : Nat            -- test code of a failure in service not yet listed (R456); 0: none
  owes : Option (Nat × List Nat)    -- a failed core to be substituted, and the jobs to be told (R457)
  subst : Option (Nat × List Nat)   -- on a substitute that starts: the core it stands in for, and the jobs
deriving DecidableEq, Repr

/-- One Reckoner die: what is in force for the stride (R32, R80, R84) and what is locked for the next ones. -/
structure Die where
  westGait : Nat            -- in force
  eastGait : Nat
  westThrottle : Nat        -- total throttle in force
  eastThrottle : Nat
  westDue : Nat             -- total throttle locked for the next boundary
  eastDue : Nat
  split : Bool
  shareWest : Nat           -- bytes per stride, multiple of 16
  shareEast : Nat
  mismatch : Bool           -- R322
  fieldRestart : Option Nat -- boundary of the last field restart, west (R460)
  fieldRestartE : Option Nat
  resetOnce : Bool          -- the Farrier has reset this Reckoner (R460)
  zeroiseReset : Bool       -- the reset in progress zeroises (R448)
  resetting : Bool
  restartAt : Option Nat    -- base cycle at which the restart began (R448)
  farrier : Bool            -- the reset in progress is the Farrier's (R465)
  together : Nat            -- Reckoners that this one starts again together with, a bit each (R446)
deriving DecidableEq, Repr

/-! ### Memory (chapter "Tally SRAM and DRAM stacks") -/

/-- Memory of the module-local space (R23): DRAM, the Tally window and the scratch window, as address and byte
pairs. -/
abbrev Mem := List Host.Cell

/-- What a DRAM line carries beside its data (R224): stored_poison and the key tag; and, the model's own, the key pair its ciphertext
was made under (empty: none), beside which memory keeps the plaintext (R228). -/
structure LineMeta where
  poison : Bool
  tag : Nat
  key : List Byte
deriving DecidableEq, Repr

inductive MapState where
  | normal | folding | folded | failed
deriving DecidableEq, Repr

def MapState.code : MapState → Nat
  | .normal => 0 | .folding => 1 | .folded => 2 | .failed => 3

/-- One memory stack beyond its unit (R230 to R242). -/
structure Stack where
  lost : Bool
  refused : Bool
  burst : Option Nat        -- channel in a training burst
  burstFails : Table Nat    -- consecutive failed bursts by channel
  burstLeft : Nat           -- bursts left of the retrain in progress
  lastBurst : Nat           -- boundary of the last burst
  lastTemp : Int             -- hottest sensor at the last retrain, in 1/16 °C
  retrains : Nat
  lastRetrain : Nat         -- boundary of the last full retrain
  softRepairs : Nat
  spareLeft : Nat
  fastRefresh : Bool        -- refresh at twice the base rate (R231)
  hot : Bool                -- hottest sensor above 85 °C
  ueStride : Nat            -- uncorrectable lines found in this stride (R234)
  repairs : List Nat        -- rows that are repair candidates
  rowCount : Table Nat      -- corrected reads of a row in the scrub period
  rfm : Table Nat           -- refresh management commands issued to a bank (R231)
deriving DecidableEq, Repr

/-- DRAM and Tally beyond their bytes. -/
structure MemState where
  lines : Table LineMeta          -- by line number
  slotMeta : Table LineMeta      -- lines displaced by a fold after a loss, where written since (R236)
  slotClean : List (Nat × Nat)   -- ranges of line numbers whose slots have been zeroised since (R238)
  lineErr : Table Nat            -- symbol errors a line's cells hold
  tallyErr : Table Nat           -- bit errors of a 64-bit Tally word, by address
  map : MapState
  gone : Option (Fin 24)         -- stack lost or retired
  lossAt : Option Nat            -- boundary at which a detected loss enters FOLDING (R235)
  newPoison : List Nat           -- lines found uncorrectable since the Stable manager last heard of them (R230)
  retired : Bool                 -- the fold follows a retirement
  second : Option (Fin 24)       -- stack of a second loss, which takes effect at the next boundary (R239)
  fillDone : Bool                -- every controller has filled its slots
  topHole : Bool                 -- the top range is a hole
  reserveLocked : Bool           -- MEM_MAP_CTL.fold_reserve is locked
  warned : List (Nat × Nat)      -- stacks and jobs to which their loss has been raised (R234)
  stk : Table Stack
  repaired : List (Nat × Nat)    -- rows repaired, by stack, as calibration storage records them (R233)
  spares : Table Nat             -- fewest spare rows left in a bank of a stack, where repairs have used some
  windowEnd : Option Nat         -- cycle at which the history window ends (R238)
  drainOld : Bool                -- the map changed at this boundary (R237)
deriving DecidableEq, Repr

/-! ### Hitch counters (chapter "Hitch counters and synchronisation") -/

inductive CtrState where
  | free | live | orphaned
deriving DecidableEq, Repr

def CtrState.code : CtrState → Nat
  | .free => 0 | .live => 1 | .orphaned => 2

/-- One Hitch counter (R325). `gen` counts the INIT and FREE operations applied (R326). The fields from `arm` on
are those of host counters (R338). -/
structure Counter where
  value : Word
  st : CtrState
  job : Nat
  fn : Nat
  cause : Nat
  gen : Nat
  arm : Bool
  cmp : Nat
  vector : Nat
  thresh : Word
  mirSeq : Nat
  mirLast : Option Nat           -- cycle of the last mirror write
  mirDirty : Bool                -- a change awaits its mirror write
deriving DecidableEq, Repr

/-- What a frame's outcome is owed to: nothing, a SIGNAL descriptor (R328), or the atomic of another module by its
number among the requests served (R341). -/
inductive Origin where
  | plain
  | desc (q : QueueId) (index : BitVec 16)
  | atomic (id : Nat)
deriving DecidableEq, Repr

/-- A frame on its way to its counter (R311): signed amount, source, the cycle at which the slot it was launched in starts, the
generation of the counter and the job it was admitted under, and the cycle at which it is applied (R312). -/
structure Frame where
  ctr : CounterId
  amount : Int
  source : Nat
  job : Nat
  slot : Nat
  gen : Nat
  origin : Origin
  land : Nat
deriving DecidableEq, Repr

/-- A watch held at the Hitch root (R332). -/
structure Watch where
  q : QueueId
  ctr : CounterId
  query : Bool
  cmp : Nat
  threshold : Word
  job : Nat
deriving DecidableEq, Repr

/-- A RELEASE frame (R333): the queue, the counter, the status and the cycle at which the slot the root launches it in starts. -/
structure Release where
  q : QueueId
  ctr : CounterId
  status : Nat
  slot : Nat
deriving DecidableEq, Repr

structure Hitch where
  ctrs : Table Counter
  staged : Word                  -- staged value (HCH_CTR_VAL)
  flight : List Frame
  watches : List Watch
  releases : List Release
  orphans : List (CounterId × Nat)   -- counters entering ORPHANED at the next boundary, with the cause
  slots : Table Nat              -- frames each hub is delivered in a slot, by first cycle × 16 + hub (R311, R312)
  answers : List (Nat × Bool)    -- atomics whose frame was applied, or refused at a relaunch (R341)
deriving DecidableEq, Repr

/-! ### Grooms (chapters on bring-up and failure) -/

inductive GroomRole where
  | absent | standby | active | dual
deriving DecidableEq, Repr

def GroomRole.code : GroomRole → Nat
  | .absent => 0 | .standby => 1 | .active => 2 | .dual => 3

/-- What the Grooms, the boot flash, the OTP and the fuse map hold. -/
structure Groom where
  phase : Nat                    -- GRM_BOOT_STAT.phase
  active : Bool                  -- the active Groom is Groom 1
  slotB : Bool
  elapsed : Nat
  ready : Bool
  fatal : Bool                   -- fail-stopped (R451)
  role0 : GroomRole
  role1 : GroomRole
  restarts0 : List Nat           -- boundaries of the restarts within the window of R469
  restarts1 : List Nat
  epoch : BitVec 8
  seq : BitVec 64                -- highest action applied (R464)
  journal : List Nat             -- action numbers applied, newest first
  switchovers : Nat
  restart0 : Nat                 -- 1: Groom 0 restarts; 2: the restart has ended (R469)
  restart1 : Nat
  outVersion : Nat               -- version, index of the booted slot
  outIndex : Nat
  rollback : Nat                 -- rollback counter in OTP
  fuseBad : List Nat             -- global core IDs the fuse map marks bad
  fuseSpares : List Nat          -- core indices designated spares on each die
  fuseSliceBad : List Nat        -- slice halves, global core ID × 2 + die
  fuseRings : List Nat           -- ring IDs the fuse map marks bad
  fieldFail : List Nat           -- the field-fail list: cores, then slice halves offset by 0x10000
  sliceDown : List Nat           -- slices disabled, by global core ID
  sliceUe : Table (List Nat)     -- distinct uncorrectable words of a half within the scrub period
  yieldCnt : Table (Nat × Nat × Nat)   -- class × 256 + instance: fuse-bad, pessimistic, field-fail
  bootCfg : Word                 -- GRM_BOOT_CFG as stored in the calibration area
  clearList : Bool
  fuseLanes : Table (List Nat)   -- lanes the fuse map marks bad, by Reckoner × 65536 + class × 8192 + bundle
  bundles : Table (List Nat)     -- bad lanes of a bundle, by the same key
  bundleFail : List Nat          -- bundles failed in service (R320)
  waiting : List UnitId          -- units that have not completed their step of the start (R425)
  swaps : Table (List (Nat × Nat))   -- lanes of a bundle that have left its working map in service, each with its spare lane (R319)
  noSpare : List Nat             -- lanes for which RKN_LANE_NOSPARE has been logged
  engineRetry : Table Nat        -- boundary of the last engine restart
  lastCheck : Table Nat          -- boundary of the last periodic check of a die's spares
  checkNext : Table Nat          -- next spare to check on a die
  alert : Bool                   -- ALERT_N asserted
  overlap : Bool                 -- in the stride of a fail-over, when the I3C port NACKs (R467)
  halt0 : Bool                   -- Groom 0 halted through JTAG (R491)
  halt1 : Bool
  boot : Word                    -- boot count (R503)
deriving DecidableEq, Repr

/-! ### Temperature and power -/

/-- One sensor (R472 to R475); readings in 1/16 °C. -/
structure Sensor where
  temp : Int
  level : Nat
  bad : Bool
  contrib : Nat
  near : List Nat                -- of a BAD sensor: the two whose higher reading it reports
deriving DecidableEq, Repr

/-- A die's rate of rise (R478). -/
structure Rate where
  hottest : Int
  history : List Int             -- hottest readings, newest first, at most 1,041
  rise : Int                     -- 1/16 °C per ms
  level : Nat                    -- 0 none, 1 pre-emptive, 2 emergency
  calm : Nat                     -- strides at or below 2 °C/ms
deriving DecidableEq, Repr

structure Thermal where
  sensors : Table Sensor         -- class × 4096 + index
  rates : Table Rate             -- by Reckoner
  cool : Table Nat               -- strides a shut-down Reckoner has been cool (R479)
  shut : List Nat                -- Reckoners shut down
  inRange : Nat                  -- strides both event-log sensors have read 2 to 83 °C
  trip : Bool                    -- THERMTRIP_N asserted
  hold : Bool                    -- a module start holds at phase HOST (R481)
deriving DecidableEq, Repr

structure Power where
  avg1s : Nat
  avg10ms : Nat
  throttle : Nat
  emergency : Option Nat         -- boundary at which the hold of the emergency throttle ends
  hitLogged : Bool
  sinceStep : Nat                -- strides since the last throttle step
  state : Nat
  target : Nat
  moving : Option Nat            -- next state of the step in progress
  stepAt : Nat                   -- boundary at which that step began
  refused : Bool
deriving DecidableEq, Repr

/-! ### Security and snapshots -/

/-- A memory or link slot of the key store (R498). -/
structure KeySlot where
  key : List Byte                -- empty: no key
  gen : Nat
deriving DecidableEq, Repr

structure Security where
  lifecycle : Nat
  otp : Nat                      -- lifecycle as blown, which the next module start reads
  lcTarget : Nat
  lcPending : Bool
  level : Nat
  zeroising : Bool
  zeroWait : Option Nat          -- boundary until which step 6 of R497 waits for a stack whose supply opened
  zeroPower : Nat                -- power state in force when the zeroisation started (R495)
  revokeTo : Option Nat          -- REVOKE written during a zeroisation (R496)
  lcRequest : Bool               -- the zeroisation is that of a transition to RETURNED (R489)
  authFail : Nat
  fails : Nat                    -- failed SUBMITs since the last acceptance or lockout
  lockout : Option Nat           -- boundary at which CHALLENGE is accepted again
  challenge : Option (List Word × Nat)   -- the block and the boundary at which it expires
  request : Word                 -- SEC_DBG_CTL of the challenge
  readFifo : List Word
  writeFifo : List Word
  dbgStatus : Nat
  rootHash : List Word
  debugHash : List Word
  deviceKey : Nat                -- private half of the device key; 0: none
  serial : Word
  slots : Table KeySlot          -- 0 to 255, 256 L0, 257 L1
  keyStatus : Nat
deriving DecidableEq, Repr

structure LinkSec where
  on : Bool
  key : Bool
  pending : Option Word          -- a switch awaits the boundary of this stride number
  stEnable : Bool
  stKey : Bool
  status : Nat
deriving DecidableEq, Repr

structure Snap where
  held : Bool
  skewed : Bool
  immediate : Bool
  bndPend : Option Nat           -- boundary latch pending, with its source code
  rackPend : Option (Nat × Nat)  -- S and source of a rack latch
  rackSend : Bool                -- the ADD32 of a rack trigger taken here are still to be sent (R507)
  source : Nat
  missed : Nat
  stride : BitVec 48
  areas : Table (List Word)      -- by slot: header and 47 registers
  trigOut : Nat                  -- pulses sent on TRIG_OUT
  frame : Option (Nat × Nat)     -- an immediate trigger awaits its SNAP frame: its source code, and the first cycle of its slot (R314)
  trigIn : Bool                  -- level of TRIG_IN
deriving DecidableEq, Repr

end Sys2Proof.Machine
end

