-- ==== Sys2Proof/Machine/FaultCodes.lean ====
section
/-! DEFINITION. The fault classes and codes of R530. -/

namespace Sys2Proof.Machine

def Flt.FUSE_PESSIMISTIC : FaultCode := ⟨0x0, 0x1⟩
def Flt.FIELD_FAIL : FaultCode := ⟨0x0, 0x2⟩
def Flt.GRM_BOOT_SLOT_FAIL : FaultCode := ⟨0x0, 0x3⟩
def Flt.GRM_RECOVERY : FaultCode := ⟨0x0, 0x4⟩
def Flt.GRM_STEP_TIMEOUT : FaultCode := ⟨0x0, 0x5⟩
def Flt.GRM_CORE_SUBST : FaultCode := ⟨0x0, 0x6⟩
def Flt.GRM_CORE_LOST : FaultCode := ⟨0x0, 0x7⟩
def Flt.GRM_RKN_LOST : FaultCode := ⟨0x0, 0x8⟩
def Flt.GRM_SWITCHOVER : FaultCode := ⟨0x0, 0x9⟩
def Flt.GRM_STANDBY_LOST : FaultCode := ⟨0x0, 0xA⟩
def Flt.GRM_MODULE_FATAL : FaultCode := ⟨0x0, 0xB⟩
def Flt.RKN_DESC_BAD_OPCODE : FaultCode := ⟨0x1, 0x1⟩
def Flt.RKN_DESC_BAD_FORMAT : FaultCode := ⟨0x1, 0x2⟩
def Flt.RKN_DESC_BAD_BOUND : FaultCode := ⟨0x1, 0x3⟩
def Flt.RKN_DESC_BAD_OPERAND : FaultCode := ⟨0x1, 0x4⟩
def Flt.RKN_DESC_OVERRUN : FaultCode := ⟨0x1, 0x5⟩
def Flt.RKN_DESC_CLOCK_HELD : FaultCode := ⟨0x1, 0x6⟩
def Flt.RKN_TAIL_BAD : FaultCode := ⟨0x1, 0x7⟩
def Flt.RKN_QUEUE_CONFIG : FaultCode := ⟨0x1, 0x8⟩
def Flt.RKN_WAIT_TIMEOUT : FaultCode := ⟨0x1, 0x9⟩
def Flt.RKN_BRANCH_RANGE : FaultCode := ⟨0x1, 0xA⟩
def Flt.RKN_LOOP_DEPTH : FaultCode := ⟨0x1, 0xB⟩
def Flt.RKN_ATT_PROFILE : FaultCode := ⟨0x1, 0xC⟩
def Flt.RKN_ATT_JOB : FaultCode := ⟨0x1, 0xD⟩
def Flt.RKN_ATT_STALL_STATE : FaultCode := ⟨0x1, 0xE⟩
def Flt.RKN_ATT_PAGE_ABSENT : FaultCode := ⟨0x1, 0xF⟩
def Flt.RKN_ORIENT_MISMATCH : FaultCode := ⟨0x1, 0x10⟩
def Flt.RKN_LANE_FIELD_FAIL : FaultCode := ⟨0x1, 0x11⟩
def Flt.RKN_LANE_SWAP : FaultCode := ⟨0x1, 0x12⟩
def Flt.RKN_LANE_NOSPARE : FaultCode := ⟨0x1, 0x13⟩
def Flt.RKN_FW_REPAIR : FaultCode := ⟨0x1, 0x14⟩
def Flt.RKN_CORE_FAIL : FaultCode := ⟨0x1, 0x15⟩
def Flt.TLY_UE : FaultCode := ⟨0x2, 0x1⟩
def Flt.TLY_SLICE_UNAVAILABLE : FaultCode := ⟨0x2, 0x2⟩
def Flt.MEM_UE : FaultCode := ⟨0x2, 0x101⟩
def Flt.MEM_KEY_MISMATCH : FaultCode := ⟨0x2, 0x102⟩
def Flt.MEM_LINE_LOST : FaultCode := ⟨0x2, 0x103⟩
def Flt.MEM_STACK_LOST : FaultCode := ⟨0x2, 0x104⟩
def Flt.MEM_SECOND_STACK_LOST : FaultCode := ⟨0x2, 0x105⟩
def Flt.MEM_UE_SCRUB : FaultCode := ⟨0x2, 0x106⟩
def Flt.MEM_REPAIR_EXHAUSTED : FaultCode := ⟨0x2, 0x107⟩
def Flt.MEM_STACK_RETIRED : FaultCode := ⟨0x2, 0x108⟩
def Flt.DRG_ADDR_UNMAPPED : FaultCode := ⟨0x3, 0x1⟩
def Flt.DRG_REQ_TIMEOUT : FaultCode := ⟨0x3, 0x2⟩
def Flt.DRG_RING_FAIL : FaultCode := ⟨0x3, 0x3⟩
def Flt.DRG_SLOT_FAIL : FaultCode := ⟨0x3, 0x4⟩
def Flt.DRG_REPLAY_LIMIT : FaultCode := ⟨0x3, 0x5⟩
def Flt.HRN_HOLD : FaultCode := ⟨0x3, 0x101⟩
def Flt.REIN_TIMEOUT : FaultCode := ⟨0x4, 0x1⟩
def Flt.HCH_STRIDE_REBASE : FaultCode := ⟨0x5, 0x1⟩
def Flt.HCH_MASTER_LOST : FaultCode := ⟨0x5, 0x2⟩
def Flt.HCH_ALIGN_WARN : FaultCode := ⟨0x5, 0x3⟩
def Flt.HCH_ALIGN_LOST : FaultCode := ⟨0x5, 0x4⟩
def Flt.HCH_FRAME_LOST : FaultCode := ⟨0x5, 0x5⟩
def Flt.HCH_SIG_REJECTED : FaultCode := ⟨0x5, 0x6⟩
def Flt.HCH_COUNTER_RANGE : FaultCode := ⟨0x5, 0x7⟩
def Flt.HCH_ORPHAN : FaultCode := ⟨0x5, 0x8⟩
def Flt.HCH_JOB_MISMATCH : FaultCode := ⟨0x5, 0x9⟩
def Flt.HCH_DB_REFUSED : FaultCode := ⟨0x5, 0xA⟩
def Flt.BLN_JOB_MISMATCH : FaultCode := ⟨0x6, 0x1⟩
def Flt.BLN_RECAL : FaultCode := ⟨0x6, 0x2⟩
def Flt.BLN_ENGINE_FAIL : FaultCode := ⟨0x6, 0x3⟩
def Flt.EDU_LAYER_INVALID : FaultCode := ⟨0x7, 0x1⟩
def Flt.EDU_SEL_INVALID : FaultCode := ⟨0x7, 0x2⟩
def Flt.EDU_EXPERT_UNAVAILABLE : FaultCode := ⟨0x7, 0x3⟩
def Flt.EDU_RESULT_TIMEOUT : FaultCode := ⟨0x7, 0x4⟩
def Flt.STB_POOL_EXHAUSTED : FaultCode := ⟨0x8, 0x1⟩
def Flt.STB_CONFIG : FaultCode := ⟨0x8, 0x2⟩
def Flt.STB_TAIL_BAD : FaultCode := ⟨0x8, 0x3⟩
def Flt.STB_EVICT_FAIL : FaultCode := ⟨0x8, 0x4⟩
def Flt.STB_HISTORY_LOST : FaultCode := ⟨0x8, 0x5⟩
def Flt.FAB_INGRESS_REFUSED : FaultCode := ⟨0x9, 0x1⟩
def Flt.FAB_NOT_HOLDER : FaultCode := ⟨0x9, 0x2⟩
def Flt.FAB_LEASE_EXPIRED : FaultCode := ⟨0x9, 0x3⟩
def Flt.FAB_LOAD_TIMEOUT : FaultCode := ⟨0x9, 0x4⟩
def Flt.FAB_WRITE_TIMEOUT : FaultCode := ⟨0x9, 0x5⟩
def Flt.FAB_FLAG_ABANDONED : FaultCode := ⟨0x9, 0x6⟩
def Flt.FAB_ATOMIC_BAD : FaultCode := ⟨0x9, 0x7⟩
def Flt.FAB_LEASE_LAPSED : FaultCode := ⟨0x9, 0x8⟩
def Flt.FAB_NO_ROUTE : FaultCode := ⟨0x9, 0x9⟩
def Flt.FAB_UPL_REFUSED : FaultCode := ⟨0x9, 0xA⟩
def Flt.FAB_CABLE_MISMATCH : FaultCode := ⟨0x9, 0xB⟩
def Flt.FAB_DUP_INDEX : FaultCode := ⟨0x9, 0xC⟩
def Flt.FAB_EPOCH_MISS : FaultCode := ⟨0x9, 0xD⟩
def Flt.FAB_EPOCH_SKEWED : FaultCode := ⟨0x9, 0xE⟩
def Flt.FAB_EPOCH_SPLIT : FaultCode := ⟨0x9, 0xF⟩
def Flt.BRD_LANE_SUSPEND : FaultCode := ⟨0xA, 0x1⟩
def Flt.BRD_LANE_TRAIN_FAIL : FaultCode := ⟨0xA, 0x2⟩
def Flt.BRD_STRAND_RESET : FaultCode := ⟨0xA, 0x3⟩
def Flt.PCI_READ_TIMEOUT : FaultCode := ⟨0xA, 0x101⟩
def Flt.PCI_DB_REFUSED : FaultCode := ⟨0xA, 0x102⟩
def Flt.LAS_FADE_WARN : FaultCode := ⟨0xB, 0x1⟩
def Flt.LAS_FADE_CRIT : FaultCode := ⟨0xB, 0x2⟩
def Flt.LAS_SWAP_START : FaultCode := ⟨0xB, 0x3⟩
def Flt.LAS_SWAP_DONE : FaultCode := ⟨0xB, 0x4⟩
def Flt.LAS_SWAP_ABORT : FaultCode := ⟨0xB, 0x5⟩
def Flt.LAS_SPARE_UNFIT : FaultCode := ⟨0xB, 0x6⟩
def Flt.LAS_NO_SPARE : FaultCode := ⟨0xB, 0x7⟩
def Flt.LAS_CART_LOST : FaultCode := ⟨0xB, 0x8⟩
def Flt.LAS_CART_PULLED : FaultCode := ⟨0xB, 0x9⟩
def Flt.LAS_FEED_FAIL : FaultCode := ⟨0xB, 0xA⟩
def Flt.LAS_PLANE_PATH : FaultCode := ⟨0xB, 0xB⟩
def Flt.CAL_SET_MISSING : FaultCode := ⟨0xB, 0x101⟩
def Flt.CAL_RANGE : FaultCode := ⟨0xB, 0x102⟩
def Flt.CAL_DRIFT : FaultCode := ⟨0xB, 0x103⟩
def Flt.THM_WARN : FaultCode := ⟨0xC, 0x1⟩
def Flt.THM_SHUTDOWN : FaultCode := ⟨0xC, 0x2⟩
def Flt.THM_SENSOR_BAD : FaultCode := ⟨0xC, 0x3⟩
def Flt.THM_RATE_PRE : FaultCode := ⟨0xC, 0x4⟩
def Flt.THM_RATE_EMERG : FaultCode := ⟨0xC, 0x5⟩
def Flt.PWR_LIMIT_HIT : FaultCode := ⟨0xC, 0x101⟩
def Flt.SEC_ACCESS_REFUSED : FaultCode := ⟨0xD, 0x1⟩
def Flt.SEC_AUTH_FAIL : FaultCode := ⟨0xD, 0x2⟩
def Flt.SEC_ZEROISED : FaultCode := ⟨0xD, 0x3⟩
def Flt.SEC_LINK_EXHAUST : FaultCode := ⟨0xD, 0x4⟩

/-- The codes of a class run from 1 to the first number, and from 0x101 to the second (R530). -/
def faultCodes : List (Nat × Nat) :=
  [(0xB, 0x100), (0x15, 0x100), (2, 0x108), (5, 0x101), (1, 0x100), (0xA, 0x100), (3, 0x100), (4, 0x100), (5, 0x100), (0xF, 0x100),
   (3, 0x102), (0xB, 0x103), (5, 0x101), (4, 0x100)]

/-- A class and code that R530 lists; the module never writes another. -/
def FaultCode.listed (f : FaultCode) : Bool :=
  match faultCodes[f.cls]? with
  | some (a, b) => (decide (1 ≤ f.code) && decide (f.code ≤ a)) || (decide (0x101 ≤ f.code) && decide (f.code ≤ b))
  | none => false

end Sys2Proof.Machine
end

