-- ==== Sys2Proof/Machine/RegTable.lean ====
section
/-! DEFINITION. The registers of the module as the manual's register tables give them: page type, offset in the
page, fields with access code (R9) and reset value, selector where a register shows a selected instance, and the
bits whose writes take effect at a boundary (R37, R544). -/

namespace Sys2Proof.Machine

/-- The access codes of R9. -/
inductive Access where
  | ro | rw | rw1c | rw1s | wo | rc | rwl
deriving DecidableEq, Repr

/-- A field: bits [hi:lo], access code and reset value. -/
structure FieldDef where
  hi : Nat
  lo : Nat
  access : Access
  reset : Nat
deriving DecidableEq, Repr

/-- A register of a page: `count` copies, `step` bytes apart. `sel` is the selector register of the same page and
the bits of it that name the instance shown. `timed` marks the bits that take effect at a boundary. -/
structure RegDef where
  name : String
  off : Nat
  step : Nat
  count : Nat
  sel : Option (Nat × Nat × Nat)
  timed : Nat
  fields : List FieldDef
deriving DecidableEq, Repr

/-- Registers of the page type 0: the common page header (R515). -/
def regsPage0 : List RegDef := [
  ⟨"BLK_ID", 0x0, 0, 1, none, 0x0, [⟨31, 16, .ro, 0⟩, ⟨15, 8, .ro, 0⟩, ⟨7, 0, .ro, 1⟩]⟩,
  ⟨"BLK_CAP_PTR", 0x4, 0, 1, none, 0x0, [⟨11, 0, .ro, 0⟩]⟩,
  ⟨"BLK_CTL", 0x8, 0, 1, none, 0x0, [⟨31, 31, .rw, 0⟩, ⟨30, 30, .wo, 0⟩, ⟨29, 29, .rw, 1⟩]⟩,
  ⟨"BLK_STATE", 0xC, 0, 1, none, 0x0, [⟨31, 30, .ro, 0⟩, ⟨29, 29, .ro, 0⟩, ⟨28, 28, .ro, 0⟩]⟩,
  ⟨"BLK_IRQ_STAT", 0x10, 0, 1, none, 0x0, [⟨3, 3, .rw1c, 0⟩, ⟨2, 2, .rw1c, 0⟩, ⟨1, 1, .rw1c, 0⟩, ⟨0, 0, .rw1c, 0⟩]⟩,
  ⟨"BLK_IRQ_EN", 0x14, 0, 1, none, 0x0, [⟨3, 0, .rw, 0⟩]⟩,
  ⟨"BLK_IRQ_FORCE", 0x18, 0, 1, none, 0x0, [⟨3, 0, .wo, 0⟩]⟩,
  ⟨"BLK_ERR_LOGn", 0x20, 4, 4, none, 0x0, [⟨31, 0, .ro, 0⟩]⟩,
  ⟨"BLK_ERR_CNT", 0x30, 0, 1, none, 0x0, [⟨31, 0, .rc, 0⟩]⟩]

/-- Registers of the page type 1: Paddock identity. -/
def regsPage1 : List RegDef := [
  ⟨"PDK_PART", 0x100, 0, 1, none, 0x0, [⟨31, 16, .ro, 18464⟩]⟩,
  ⟨"PDK_STEP", 0x104, 0, 1, none, 0x0, [⟨7, 0, .ro, 1⟩]⟩,
  ⟨"PDK_SERIAL", 0x108, 0, 1, none, 0x0, [⟨31, 0, .ro, 0⟩]⟩,
  ⟨"PDK_FLT_SEL", 0x10C, 0, 1, none, 0x0, [⟨11, 0, .rw, 0⟩]⟩,
  ⟨"PDK_FLT_LO", 0x110, 0, 1, some (268, 11, 0), 0x1, [⟨31, 4, .rw, 0⟩, ⟨0, 0, .rw, 0⟩]⟩,
  ⟨"PDK_FLT_HI", 0x114, 0, 1, some (268, 11, 0), 0x0, [⟨31, 0, .rw, 0⟩]⟩,
  ⟨"PDK_FLT_CFG", 0x118, 0, 1, some (268, 11, 0), 0x0, [⟨31, 31, .rw, 0⟩, ⟨20, 16, .rw, 8⟩, ⟨15, 15, .rw, 0⟩, ⟨14, 12, .rw, 2⟩, ⟨9, 0, .rw, 0⟩]⟩,
  ⟨"PDK_FLT_TAIL", 0x11C, 0, 1, some (268, 11, 0), 0x0, [⟨31, 0, .ro, 0⟩]⟩,
  ⟨"PDK_FLT_HEAD", 0x120, 0, 1, some (268, 11, 0), 0x0, [⟨31, 0, .rw, 0⟩]⟩,
  ⟨"PDK_FLT_DROP", 0x124, 0, 1, none, 0x0, [⟨31, 0, .rc, 0⟩]⟩]

/-- Registers of the page type 2: Groom. -/
def regsPage2 : List RegDef := [
  ⟨"GRM_BOOT_STAT", 0x100, 0, 1, none, 0x0, [⟨31, 28, .ro, 0⟩, ⟨27, 27, .ro, 0⟩, ⟨26, 26, .ro, 0⟩, ⟨25, 25, .ro, 0⟩, ⟨15, 0, .ro, 0⟩]⟩,
  ⟨"GRM_BOOT_CFG", 0x104, 0, 1, none, 0x0, [⟨31, 31, .rw, 1⟩, ⟨30, 30, .rw, 0⟩, ⟨3, 0, .rw, 4⟩]⟩,
  ⟨"GRM_GRADE", 0x108, 0, 1, none, 0x0, [⟨31, 30, .ro, 0⟩, ⟨22, 22, .ro, 0⟩, ⟨21, 21, .ro, 0⟩, ⟨20, 20, .ro, 0⟩, ⟨19, 19, .ro, 0⟩, ⟨18, 18, .ro, 0⟩, ⟨17, 17, .ro, 0⟩, ⟨16, 16, .ro, 0⟩, ⟨10, 0, .ro, 0⟩]⟩,
  ⟨"GRM_YIELD_SEL", 0x10C, 0, 1, none, 0x0, [⟨10, 8, .rw, 0⟩, ⟨7, 0, .rw, 0⟩]⟩,
  ⟨"GRM_YIELD_STAT", 0x110, 0, 1, none, 0x0, [⟨31, 24, .ro, 0⟩, ⟨23, 16, .ro, 0⟩, ⟨15, 8, .ro, 0⟩, ⟨7, 0, .ro, 0⟩]⟩,
  ⟨"GRM_YIELD_CTL", 0x114, 0, 1, none, 0x0, [⟨31, 31, .wo, 0⟩]⟩,
  ⟨"GRM_RST_CTL", 0x118, 0, 1, none, 0x0, [⟨31, 31, .rw, 0⟩, ⟨30, 30, .rw1c, 0⟩, ⟨7, 0, .wo, 0⟩]⟩,
  ⟨"GRM_IMG_STAT", 0x11C, 0, 1, none, 0x0, [⟨31, 16, .ro, 0⟩, ⟨15, 8, .ro, 0⟩, ⟨7, 0, .ro, 0⟩]⟩,
  ⟨"GRM_IMG_CTL", 0x120, 0, 1, none, 0x0, [⟨31, 31, .wo, 0⟩]⟩,
  ⟨"GRM_PAIR_STAT", 0x180, 0, 1, none, 0x0, [⟨31, 30, .ro, 3⟩, ⟨29, 28, .ro, 3⟩, ⟨27, 26, .ro, 0⟩, ⟨25, 24, .ro, 0⟩, ⟨23, 16, .ro, 0⟩, ⟨15, 0, .ro, 0⟩]⟩,
  ⟨"GRM_PAIR_CTL", 0x184, 0, 1, none, 0x0, [⟨31, 31, .wo, 0⟩]⟩,
  ⟨"GRM_ACT_SEQ_LO", 0x188, 0, 1, none, 0x0, [⟨31, 0, .ro, 0⟩]⟩,
  ⟨"GRM_ACT_SEQ_HI", 0x18C, 0, 1, none, 0x0, [⟨31, 0, .ro, 0⟩]⟩,
  ⟨"GRM_FAR_CTL", 0x190, 0, 1, none, 0x0, [⟨4, 4, .rw, 1⟩, ⟨3, 3, .rw, 1⟩, ⟨2, 2, .rw, 1⟩, ⟨1, 1, .rw, 1⟩, ⟨0, 0, .rw, 1⟩]⟩,
  ⟨"GRM_FAR_LAST", 0x194, 0, 1, none, 0x0, [⟨31, 29, .ro, 0⟩, ⟨26, 16, .ro, 0⟩, ⟨10, 0, .ro, 2047⟩]⟩,
  ⟨"GRM_FAR_STRIDE", 0x198, 0, 1, none, 0x0, [⟨31, 0, .ro, 0⟩]⟩,
  ⟨"GRM_FAR_CNT_n", 0x1A0, 4, 8, none, 0x0, [⟨31, 0, .rc, 0⟩]⟩,
  ⟨"GRM_LOG_STAT", 0x1C0, 0, 1, none, 0x0, [⟨31, 0, .ro, 0⟩]⟩,
  ⟨"GRM_LOG_SEL", 0x1C4, 0, 1, none, 0x0, [⟨31, 0, .rw, 0⟩]⟩,
  ⟨"GRM_LOG_DATAn", 0x1C8, 4, 4, none, 0x0, [⟨31, 0, .ro, 0⟩]⟩]

/-- Registers of the page type 3: Power. -/
def regsPage3 : List RegDef := [
  ⟨"PWR_STATE_CTL", 0x100, 0, 1, none, 0x0, [⟨2, 0, .rw, 0⟩]⟩,
  ⟨"PWR_STATE_STAT", 0x104, 0, 1, none, 0x0, [⟨31, 29, .ro, 0⟩, ⟨28, 26, .ro, 0⟩, ⟨25, 25, .ro, 0⟩, ⟨24, 24, .rw1c, 0⟩]⟩,
  ⟨"PWR_LIMIT", 0x108, 0, 1, none, 0xFFFF, [⟨15, 0, .rw, 3200⟩]⟩,
  ⟨"PWR_INPUT", 0x10C, 0, 1, none, 0x0, [⟨31, 16, .ro, 0⟩, ⟨15, 0, .ro, 0⟩]⟩,
  ⟨"PWR_THROTTLE", 0x110, 0, 1, none, 0x0, [⟨6, 0, .ro, 0⟩]⟩]

/-- Registers of the page type 4: Thermal. -/
def regsPage4 : List RegDef := [
  ⟨"THM_SENS_SEL", 0x100, 0, 1, none, 0x0, [⟨15, 12, .rw, 0⟩, ⟨11, 0, .rw, 0⟩]⟩,
  ⟨"THM_SENS_STAT", 0x104, 0, 1, none, 0x0, [⟨31, 30, .ro, 0⟩, ⟨29, 29, .ro, 0⟩, ⟨22, 16, .ro, 0⟩, ⟨15, 0, .ro, 0⟩]⟩,
  ⟨"THM_SENS_POS", 0x108, 0, 1, none, 0x0, [⟨15, 8, .ro, 0⟩, ⟨7, 0, .ro, 0⟩]⟩,
  ⟨"THM_RATE_CTL", 0x10C, 0, 1, none, 0xFF, [⟨7, 0, .rw, 85⟩]⟩,
  ⟨"THM_DEFER", 0x110, 0, 1, none, 0x0, [⟨31, 16, .ro, 0⟩, ⟨8, 0, .ro, 0⟩]⟩,
  ⟨"THM_CNT_n", 0x140, 4, 8, none, 0x0, [⟨31, 0, .rc, 0⟩]⟩]

/-- Registers of the page type 5: Security. -/
def regsPage5 : List RegDef := [
  ⟨"SEC_LC_STAT", 0x100, 0, 1, none, 0x0, [⟨31, 30, .ro, 0⟩, ⟨29, 28, .ro, 0⟩, ⟨27, 26, .ro, 0⟩, ⟨25, 25, .ro, 0⟩, ⟨24, 24, .ro, 0⟩, ⟨23, 16, .ro, 0⟩]⟩,
  ⟨"SEC_DBG_CTL", 0x104, 0, 1, none, 0x0, [⟨29, 28, .rw, 0⟩, ⟨27, 26, .rw, 0⟩, ⟨25, 25, .rw, 0⟩, ⟨24, 22, .wo, 0⟩, ⟨19, 16, .ro, 0⟩]⟩,
  ⟨"SEC_AUTH_DATA", 0x108, 0, 1, none, 0x0, [⟨31, 0, .rw, 0⟩]⟩,
  ⟨"SEC_KEY_CMD", 0x10C, 0, 1, none, 0x0, [⟨31, 29, .wo, 0⟩, ⟨28, 26, .ro, 0⟩, ⟨25, 25, .ro, 1⟩, ⟨24, 21, .ro, 0⟩, ⟨20, 12, .rw, 0⟩, ⟨11, 0, .rw, 0⟩]⟩,
  ⟨"SEC_KEY_ADDR_LO", 0x110, 0, 1, none, 0x0, [⟨31, 8, .rw, 0⟩]⟩,
  ⟨"SEC_KEY_ADDR_HI", 0x114, 0, 1, none, 0x0, [⟨11, 0, .rw, 0⟩]⟩,
  ⟨"SEC_TAG_SEL", 0x118, 0, 1, none, 0x0, [⟨19, 0, .rw, 0⟩]⟩,
  ⟨"SEC_TAG_DATA", 0x11C, 0, 1, some (280, 19, 0), 0xFFFF, [⟨15, 14, .rw, 0⟩, ⟨11, 0, .rw, 0⟩]⟩,
  ⟨"SEC_LINK_CTL", 0x120, 0, 1, none, 0x0, [⟨31, 31, .rw, 0⟩, ⟨30, 30, .rw, 0⟩, ⟨29, 29, .ro, 0⟩, ⟨28, 28, .ro, 0⟩, ⟨27, 27, .ro, 0⟩, ⟨26, 26, .wo, 0⟩, ⟨25, 23, .ro, 0⟩]⟩,
  ⟨"SEC_LINK_AT", 0x124, 0, 1, none, 0x0, [⟨31, 0, .rw, 0⟩]⟩]

/-- Registers of the page type 6: Snapshot. -/
def regsPage6 : List RegDef := [
  ⟨"SNP_CTL", 0x100, 0, 1, none, 0x0, [⟨31, 31, .wo, 0⟩, ⟨30, 30, .wo, 0⟩, ⟨29, 29, .wo, 0⟩, ⟨28, 28, .wo, 0⟩, ⟨27, 27, .rw, 0⟩, ⟨26, 25, .rw, 0⟩, ⟨24, 24, .rw, 0⟩, ⟨23, 22, .rw, 1⟩]⟩,
  ⟨"SNP_MATCH", 0x104, 0, 1, none, 0x0, [⟨31, 28, .rw, 0⟩, ⟨27, 16, .rw, 0⟩, ⟨15, 12, .rw, 15⟩, ⟨11, 0, .rw, 4095⟩]⟩,
  ⟨"SNP_STAT", 0x108, 0, 1, none, 0x0, [⟨31, 31, .ro, 0⟩, ⟨30, 30, .ro, 0⟩, ⟨29, 29, .ro, 0⟩, ⟨28, 28, .ro, 0⟩, ⟨27, 25, .ro, 0⟩, ⟨15, 0, .ro, 0⟩]⟩,
  ⟨"SNP_STRIDE_LO", 0x10C, 0, 1, none, 0x0, [⟨31, 0, .ro, 0⟩]⟩,
  ⟨"SNP_STRIDE_HI", 0x110, 0, 1, none, 0x0, [⟨15, 0, .ro, 0⟩]⟩,
  ⟨"SNP_RACK_CTL", 0x114, 0, 1, none, 0x0, [⟨31, 31, .rw, 0⟩, ⟨7, 0, .rw, 255⟩]⟩,
  ⟨"SNP_PEND", 0x118, 0, 1, none, 0x0, [⟨31, 0, .ro, 0⟩]⟩]

/-- Registers of the page type 7: Laser. -/
def regsPage7 : List RegDef := [
  ⟨"LAS_QUADq_CTL", 0x100, 16, 4, none, 0x30000000, [⟨31, 31, .wo, 0⟩, ⟨30, 30, .rw, 1⟩, ⟨29, 28, .rw, 0⟩]⟩,
  ⟨"LAS_QUADq_STAT", 0x104, 16, 4, none, 0x0, [⟨31, 29, .ro, 0⟩, ⟨28, 28, .rw1c, 0⟩, ⟨27, 27, .ro, 0⟩, ⟨23, 20, .ro, 0⟩, ⟨15, 0, .ro, 0⟩]⟩,
  ⟨"LAS_FADE_CFG", 0x140, 0, 1, none, 0x0, [⟨15, 8, .rw, 20⟩, ⟨7, 0, .rw, 10⟩]⟩,
  ⟨"LAS_SWAP_GAP", 0x144, 0, 1, none, 0x0, [⟨15, 0, .rw, 256⟩]⟩,
  ⟨"LAS_TAPp", 0x180, 4, 16, none, 0x0, [⟨31, 31, .ro, 0⟩, ⟨30, 30, .ro, 0⟩, ⟨29, 16, .ro, 0⟩, ⟨15, 0, .ro, 0⟩]⟩,
  ⟨"LAS_CARTk_CTL", 0x200, 16, 8, none, 0x0, [⟨1, 1, .rw, 0⟩, ⟨0, 0, .rw, 1⟩]⟩,
  ⟨"LAS_CARTk_STAT", 0x204, 16, 8, none, 0x0, [⟨31, 30, .ro, 0⟩, ⟨29, 29, .ro, 0⟩, ⟨28, 28, .ro, 0⟩, ⟨27, 26, .ro, 0⟩, ⟨25, 24, .ro, 0⟩, ⟨23, 23, .rw1c, 0⟩, ⟨22, 16, .ro, 0⟩, ⟨15, 0, .ro, 0⟩]⟩,
  ⟨"LAS_CARTk_ID", 0x208, 16, 8, none, 0x0, [⟨31, 0, .ro, 0⟩]⟩]

/-- Registers of the page type 8: Calibration. -/
def regsPage8 : List RegDef := [
  ⟨"CAL_CTL", 0x100, 0, 1, none, 0x0, [⟨1, 1, .rw, 1⟩, ⟨0, 0, .rw, 1⟩]⟩,
  ⟨"CAL_SET_STAT", 0x104, 0, 1, none, 0x0, [⟨9, 5, .ro, 0⟩, ⟨4, 0, .ro, 0⟩]⟩,
  ⟨"CAL_CORR_STAT", 0x108, 0, 1, none, 0x0, [⟨31, 16, .ro, 0⟩, ⟨15, 0, .ro, 0⟩]⟩]

/-- Registers of the page type 9: Harness allocator. -/
def regsPage9 : List RegDef := [
  ⟨"HRN_STAT", 0x100, 0, 1, none, 0x0, [⟨31, 24, .ro, 0⟩, ⟨13, 0, .ro, 0⟩]⟩,
  ⟨"HRN_WEIGHTn", 0x104, 4, 8, none, 0xFFFFFFFF, [⟨31, 28, .rw, 8⟩, ⟨27, 4, .rw, 8947848⟩, ⟨3, 0, .rw, 8⟩]⟩,
  ⟨"HRN_PLANE_CTL", 0x124, 0, 1, none, 0x0, [⟨15, 0, .rw, 0⟩]⟩,
  ⟨"HRN_PLANE_STAT", 0x128, 0, 1, none, 0x0, [⟨31, 0, .ro, 0⟩]⟩,
  ⟨"HRN_PLANE_RP", 0x12C, 0, 1, none, 0x0, [⟨15, 0, .ro, 0⟩]⟩,
  ⟨"HRN_CNT_n", 0x140, 4, 8, none, 0x0, [⟨31, 0, .rc, 0⟩]⟩]

/-- Registers of the page type 10: Rein. -/
def regsPage10 : List RegDef := [
  ⟨"REIN_STAT", 0x100, 0, 1, none, 0x0, [⟨23, 16, .rc, 0⟩]⟩,
  ⟨"REIN_CNT_n", 0x140, 4, 4, none, 0x0, [⟨31, 0, .rc, 0⟩]⟩]

/-- Registers of the page type 11: Hitch root. -/
def regsPage11 : List RegDef := [
  ⟨"HCH_STRIDE_LO", 0x100, 0, 1, none, 0x0, [⟨31, 0, .ro, 0⟩]⟩,
  ⟨"HCH_STRIDE_HI", 0x104, 0, 1, none, 0x0, [⟨15, 0, .ro, 0⟩]⟩,
  ⟨"HCH_SYNC_STAT", 0x108, 0, 1, none, 0x0, [⟨31, 31, .rw1c, 0⟩, ⟨30, 28, .ro, 0⟩, ⟨27, 23, .ro, 0⟩, ⟨15, 0, .ro, 0⟩]⟩,
  ⟨"HCH_SYNC_CTL", 0x10C, 0, 1, none, 0x0, [⟨0, 0, .rw, 1⟩]⟩,
  ⟨"HCH_CNT_n", 0x140, 4, 8, none, 0x0, [⟨31, 0, .rc, 0⟩]⟩,
  ⟨"HCH_CTR_SEL", 0x110, 0, 1, none, 0x0, [⟨31, 29, .rw, 0⟩, ⟨28, 18, .rw, 0⟩, ⟨9, 0, .rw, 0⟩]⟩,
  ⟨"HCH_CTR_CTL", 0x114, 0, 1, none, 0x0, [⟨31, 30, .ro, 0⟩, ⟨29, 28, .wo, 0⟩, ⟨27, 24, .ro, 0⟩, ⟨23, 18, .rw, 0⟩, ⟨11, 0, .rw, 0⟩]⟩,
  ⟨"HCH_CTR_VAL", 0x118, 0, 1, none, 0x0, [⟨31, 0, .rw, 0⟩]⟩,
  ⟨"HCH_CTR_ARM", 0x11C, 0, 1, none, 0x0, [⟨31, 31, .rw, 0⟩, ⟨30, 29, .rw, 0⟩, ⟨10, 0, .rw, 0⟩]⟩,
  ⟨"HCH_CTR_THRESH", 0x120, 0, 1, none, 0x0, [⟨31, 0, .rw, 0⟩]⟩,
  ⟨"HCH_REVOKE", 0x124, 0, 1, none, 0x0, [⟨11, 0, .wo, 0⟩]⟩,
  ⟨"HCH_FN_SEL", 0x128, 0, 1, none, 0x0, [⟨5, 0, .rw, 0⟩]⟩,
  ⟨"HCH_MIRROR_LO", 0x12C, 0, 1, some (296, 5, 0), 0x0, [⟨31, 13, .rw, 0⟩, ⟨0, 0, .rw, 0⟩]⟩,
  ⟨"HCH_MIRROR_HI", 0x130, 0, 1, some (296, 5, 0), 0x0, [⟨31, 0, .rw, 0⟩]⟩,
  ⟨"HCH_WATCH_STAT", 0x134, 0, 1, none, 0x0, [⟨13, 0, .ro, 0⟩]⟩]

/-- Registers of the page type 12: EDU. -/
def regsPage12 : List RegDef := [
  ⟨"EDU_TBL_CTL", 0x100, 0, 1, none, 0x0, [⟨31, 31, .wo, 0⟩, ⟨30, 30, .ro, 0⟩, ⟨29, 29, .ro, 0⟩, ⟨28, 28, .rw1c, 0⟩]⟩,
  ⟨"EDU_TBL_A_LO", 0x104, 0, 1, none, 0x0, [⟨31, 12, .rw, 0⟩]⟩,
  ⟨"EDU_TBL_B_LO", 0x10C, 0, 1, none, 0x0, [⟨31, 12, .rw, 0⟩]⟩,
  ⟨"EDU_TBL_A_HI", 0x108, 0, 1, none, 0x0, [⟨11, 0, .rw, 0⟩]⟩,
  ⟨"EDU_TBL_B_HI", 0x110, 0, 1, none, 0x0, [⟨11, 0, .rw, 0⟩]⟩,
  ⟨"EDU_STAGE_LO", 0x114, 0, 1, none, 0x0, [⟨31, 14, .rw, 0⟩]⟩,
  ⟨"EDU_STAGE_HI", 0x118, 0, 1, none, 0x0, [⟨11, 0, .rw, 0⟩]⟩,
  ⟨"EDU_STAGE_SLOTS", 0x11C, 0, 1, none, 0x0, [⟨15, 0, .rw, 0⟩]⟩,
  ⟨"EDU_CUTOFF", 0x120, 0, 1, none, 0x3FF, [⟨9, 0, .rw, 896⟩]⟩,
  ⟨"EDU_STAGE_FREE", 0x124, 0, 1, none, 0x0, [⟨15, 0, .ro, 0⟩]⟩,
  ⟨"EDU_CNT_n", 0x140, 4, 8, none, 0x0, [⟨31, 0, .rc, 0⟩]⟩]

/-- Registers of the page type 13: Stable manager. -/
def regsPage13 : List RegDef := [
  ⟨"STB_ADMIT_CTL", 0x100, 0, 1, none, 0xFF, [⟨8, 8, .rw, 0⟩, ⟨7, 0, .rw, 16⟩]⟩,
  ⟨"STB_WORK_LO", 0x104, 0, 1, none, 0x0, [⟨31, 12, .rw, 0⟩]⟩,
  ⟨"STB_TPOOL_LO", 0x10C, 0, 1, none, 0x0, [⟨31, 12, .rw, 0⟩]⟩,
  ⟨"STB_WORK_HI", 0x108, 0, 1, none, 0x0, [⟨11, 0, .rw, 0⟩]⟩,
  ⟨"STB_TPOOL_HI", 0x110, 0, 1, none, 0x0, [⟨11, 0, .rw, 0⟩]⟩,
  ⟨"STB_TPOOL_FRAMES", 0x114, 0, 1, none, 0x0, [⟨19, 0, .rw, 0⟩]⟩,
  ⟨"STB_POOLp_LO", 0x120, 32, 4, none, 0x0, [⟨31, 14, .rw, 0⟩]⟩,
  ⟨"STB_POOLp_HI", 0x124, 32, 4, none, 0x0, [⟨11, 0, .rw, 0⟩]⟩,
  ⟨"STB_POOLp_CFG", 0x128, 32, 4, none, 0x0, [⟨31, 31, .rw, 0⟩, ⟨4, 0, .rw, 16⟩]⟩,
  ⟨"STB_POOLp_FIRST", 0x12C, 32, 4, none, 0x0, [⟨23, 0, .rw, 0⟩]⟩,
  ⟨"STB_POOLp_RSV", 0x134, 32, 4, none, 0xFFFFFF, [⟨23, 0, .rw, 0⟩]⟩,
  ⟨"STB_POOLp_COUNT", 0x130, 32, 4, none, 0x0, [⟨24, 0, .rw, 0⟩]⟩,
  ⟨"STB_POOLp_FREE", 0x138, 32, 4, none, 0x0, [⟨24, 0, .ro, 0⟩]⟩,
  ⟨"STB_DIR_LO", 0x1A0, 0, 1, none, 0x0, [⟨31, 8, .rw, 0⟩]⟩,
  ⟨"STB_DIR_HI", 0x1A4, 0, 1, none, 0x0, [⟨11, 0, .rw, 0⟩]⟩,
  ⟨"STB_DIR_CFG", 0x1A8, 0, 1, none, 0x0, [⟨31, 31, .rw, 0⟩, ⟨4, 0, .rw, 10⟩]⟩,
  ⟨"STB_SALT_LO", 0x1AC, 0, 1, none, 0x0, [⟨31, 0, .rwl, 0⟩]⟩,
  ⟨"STB_SALT_HI", 0x1B0, 0, 1, none, 0x0, [⟨31, 0, .rwl, 0⟩]⟩,
  ⟨"STB_BATCH", 0x1C0, 0, 1, none, 0xFFFFFFFF, [⟨31, 16, .rw, 4096⟩, ⟨15, 0, .rw, 4096⟩]⟩,
  ⟨"STB_PLAN_LO", 0x1C4, 0, 1, none, 0x0, [⟨31, 12, .rw, 0⟩]⟩,
  ⟨"STB_PLAN_HI", 0x1C8, 0, 1, none, 0x0, [⟨11, 0, .rw, 0⟩]⟩,
  ⟨"STB_PLAN_CTL", 0x1CC, 0, 1, none, 0xFFFF, [⟨31, 24, .rw, 0⟩, ⟨23, 16, .rw, 1⟩, ⟨15, 0, .rw, 512⟩]⟩,
  ⟨"STB_PLAN_NUM", 0x1D0, 0, 1, none, 0x0, [⟨31, 0, .ro, 0⟩]⟩,
  ⟨"STB_CLASSc", 0x200, 4, 8, none, 0xFF00FFFF, [⟨31, 24, .rw, 0⟩, ⟨15, 0, .rw, 0⟩]⟩,
  ⟨"STB_SPILLc_LO", 0x220, 16, 8, none, 0xFFFFF000, [⟨31, 12, .rw, 0⟩]⟩,
  ⟨"STB_SPILLc_HI", 0x224, 16, 8, none, 0xFFFFFFFF, [⟨31, 0, .rw, 0⟩]⟩,
  ⟨"STB_SPILLc_EXT", 0x228, 16, 8, none, 0x80FFFFFF, [⟨31, 31, .rw, 0⟩, ⟨23, 0, .rw, 0⟩]⟩,
  ⟨"STB_CNT_n", 0x2A0, 4, 8, none, 0x0, [⟨31, 0, .rc, 0⟩]⟩,
  ⟨"STB_CRn_CTL", 0x400, 32, 64, none, 0x80000000, [⟨31, 31, .rw, 0⟩, ⟨20, 16, .rw, 4⟩, ⟨11, 0, .rw, 0⟩]⟩,
  ⟨"STB_CRn_BASE_LO", 0x404, 32, 64, none, 0x0, [⟨31, 6, .rw, 0⟩]⟩,
  ⟨"STB_CRn_BASE_HI", 0x408, 32, 64, none, 0x0, [⟨11, 0, .rw, 0⟩]⟩,
  ⟨"STB_CRn_TAIL", 0x40C, 32, 64, none, 0x0, [⟨15, 0, .rw, 0⟩]⟩,
  ⟨"STB_CRn_HEAD", 0x410, 32, 64, none, 0x0, [⟨15, 0, .ro, 0⟩]⟩]

/-- Registers of the page type 14: Blinkers common. -/
def regsPage14 : List RegDef := [
  ⟨"BLN_CTL", 0x100, 0, 1, none, 0xFFFFFFFF, [⟨31, 31, .rw, 0⟩, ⟨23, 0, .rw, 8192⟩]⟩,
  ⟨"BLN_PROF_LO", 0x104, 0, 1, none, 0x0, [⟨31, 12, .rw, 0⟩]⟩,
  ⟨"BLN_SKETCH_LO", 0x10C, 0, 1, none, 0x0, [⟨31, 12, .rw, 0⟩]⟩,
  ⟨"BLN_PROF_HI", 0x108, 0, 1, none, 0x0, [⟨11, 0, .rw, 0⟩]⟩,
  ⟨"BLN_SKETCH_HI", 0x110, 0, 1, none, 0x0, [⟨11, 0, .rw, 0⟩]⟩,
  ⟨"BLN_CHECK_CTL", 0x114, 0, 1, none, 0x0, [⟨15, 0, .rw, 1000⟩]⟩,
  ⟨"BLN_CNT_n", 0x140, 4, 8, none, 0x0, [⟨31, 0, .rc, 0⟩]⟩]

/-- Registers of the page type 15: Fabric. -/
def regsPage15 : List RegDef := [
  ⟨"FAB_STAT", 0x100, 0, 1, none, 0x0, [⟨29, 16, .ro, 0⟩, ⟨14, 0, .ro, 0⟩]⟩,
  ⟨"FAB_ING_IDX", 0x104, 0, 1, none, 0x0, [⟨15, 0, .rw, 0⟩]⟩,
  ⟨"FAB_ING_W0", 0x108, 0, 1, none, 0x0, [⟨31, 0, .rw, 0⟩]⟩,
  ⟨"FAB_ING_W1", 0x10C, 0, 1, none, 0x0, [⟨31, 0, .rw, 0⟩]⟩,
  ⟨"FAB_ING_W2", 0x110, 0, 1, none, 0x0, [⟨31, 0, .rw, 0⟩]⟩,
  ⟨"FAB_ING_W3", 0x114, 0, 1, none, 0x0, [⟨31, 31, .ro, 0⟩, ⟨30, 26, .ro, 0⟩, ⟨11, 0, .ro, 0⟩]⟩,
  ⟨"FAB_ING_CMD", 0x118, 0, 1, none, 0x0, [⟨31, 30, .wo, 0⟩, ⟨29, 29, .ro, 0⟩]⟩,
  ⟨"FAB_LSE_IDX", 0x11C, 0, 1, none, 0x0, [⟨9, 0, .rw, 0⟩]⟩,
  ⟨"FAB_LSE_W0", 0x120, 0, 1, some (284, 9, 0), 0x0, [⟨31, 29, .ro, 0⟩, ⟨27, 23, .rw, 0⟩, ⟨22, 0, .rw, 0⟩]⟩,
  ⟨"FAB_LSE_W1", 0x124, 0, 1, some (284, 9, 0), 0x0, [⟨23, 12, .ro, 0⟩, ⟨11, 0, .rw, 0⟩]⟩,
  ⟨"FAB_LSE_CMD", 0x128, 0, 1, none, 0x0, [⟨31, 30, .wo, 0⟩]⟩,
  ⟨"FAB_CNT_n", 0x140, 4, 8, none, 0x0, [⟨31, 0, .rc, 0⟩]⟩,
  ⟨"FAB_POS", 0x180, 0, 1, none, 0x0, [⟨13, 10, .ro, 0⟩, ⟨9, 8, .ro, 0⟩, ⟨7, 5, .ro, 0⟩, ⟨4, 0, .ro, 0⟩]⟩,
  ⟨"FAB_TEAM_STAT", 0x184, 0, 1, none, 0x0, [⟨25, 16, .ro, 0⟩, ⟨9, 0, .ro, 0⟩]⟩,
  ⟨"FAB_RACK_MAP", 0x188, 0, 1, none, 0x0, [⟨31, 0, .ro, 0⟩]⟩,
  ⟨"FAB_RT_SEL", 0x18C, 0, 1, none, 0x0, [⟨8, 8, .rw, 0⟩, ⟨5, 0, .rw, 0⟩]⟩,
  ⟨"FAB_RT_DATA", 0x190, 0, 1, none, 0x0, [⟨31, 0, .rw, 0⟩]⟩,
  ⟨"FAB_RT_CTL", 0x194, 0, 1, none, 0x0, [⟨31, 30, .wo, 0⟩, ⟨29, 29, .ro, 0⟩, ⟨28, 28, .ro, 0⟩, ⟨27, 26, .ro, 2⟩, ⟨25, 24, .ro, 0⟩, ⟨18, 16, .ro, 0⟩]⟩,
  ⟨"FAB_RT_AT", 0x198, 0, 1, none, 0x0, [⟨31, 0, .rw, 0⟩]⟩,
  ⟨"FAB_RT_DRAIN", 0x19C, 0, 1, none, 0x0, [⟨31, 24, .ro, 0⟩, ⟨23, 0, .ro, 0⟩]⟩,
  ⟨"FAB_UPL_SEL", 0x1B0, 0, 1, none, 0x0, [⟨3, 0, .rw, 0⟩]⟩,
  ⟨"FAB_UPL_STAT", 0x1B4, 0, 1, some (432, 3, 0), 0x0, [⟨31, 31, .ro, 0⟩, ⟨30, 28, .ro, 0⟩, ⟨27, 24, .ro, 0⟩, ⟨23, 19, .ro, 0⟩]⟩,
  ⟨"FAB_UPL_CTL", 0x1B8, 0, 1, some (432, 3, 0), 0xC0000000, [⟨31, 31, .rw, 0⟩, ⟨30, 30, .rw, 0⟩, ⟨29, 29, .wo, 0⟩, ⟨28, 25, .rw, 4⟩, ⟨24, 21, .rw, 4⟩, ⟨19, 12, .rw, 0⟩, ⟨11, 0, .rw, 0⟩]⟩,
  ⟨"FAB_UPL_TXB_LO", 0x1BC, 0, 1, some (432, 3, 0), 0x0, [⟨31, 8, .rw, 0⟩]⟩,
  ⟨"FAB_UPL_RXB_LO", 0x1C4, 0, 1, some (432, 3, 0), 0x0, [⟨31, 8, .rw, 0⟩]⟩,
  ⟨"FAB_UPL_TXB_HI", 0x1C0, 0, 1, some (432, 3, 0), 0x0, [⟨11, 0, .rw, 0⟩]⟩,
  ⟨"FAB_UPL_RXB_HI", 0x1C8, 0, 1, some (432, 3, 0), 0x0, [⟨11, 0, .rw, 0⟩]⟩,
  ⟨"FAB_UPL_TX_TAIL", 0x1CC, 0, 1, some (432, 3, 0), 0x0, [⟨15, 0, .rw, 0⟩]⟩,
  ⟨"FAB_UPL_TX_HEAD", 0x1D0, 0, 1, some (432, 3, 0), 0x0, [⟨15, 0, .ro, 0⟩]⟩,
  ⟨"FAB_UPL_RX_TAIL", 0x1D4, 0, 1, some (432, 3, 0), 0x0, [⟨15, 0, .ro, 0⟩]⟩,
  ⟨"FAB_UPL_RX_HEAD", 0x1D8, 0, 1, some (432, 3, 0), 0x0, [⟨15, 0, .rw, 0⟩]⟩,
  ⟨"FAB_RT_CNT_n", 0x1E0, 4, 4, none, 0x0, [⟨31, 0, .rc, 0⟩]⟩]

/-- Registers of the page type 16: PCI Express. -/
def regsPage16 : List RegDef := [
  ⟨"PCI_LINK_STAT", 0x100, 0, 1, none, 0x0, [⟨31, 29, .ro, 0⟩, ⟨28, 24, .ro, 0⟩, ⟨23, 20, .ro, 0⟩, ⟨19, 19, .ro, 1⟩]⟩,
  ⟨"PCI_CTL", 0x104, 0, 1, none, 0x0, [⟨0, 0, .rw, 0⟩]⟩,
  ⟨"PCI_FN_SEL", 0x108, 0, 1, none, 0x0, [⟨5, 0, .rw, 0⟩]⟩,
  ⟨"PCI_FN_JOB", 0x10C, 0, 1, some (264, 5, 0), 0xFFF, [⟨11, 0, .rw, 0⟩]⟩,
  ⟨"PCI_WIN_LO", 0x110, 0, 1, some (264, 5, 0), 0xC0000001, [⟨31, 30, .rw, 0⟩, ⟨0, 0, .rw, 0⟩]⟩,
  ⟨"PCI_WIN_HI", 0x114, 0, 1, some (264, 5, 0), 0xFFF, [⟨11, 0, .rw, 0⟩]⟩,
  ⟨"PCI_CNT_n", 0x140, 4, 8, none, 0x0, [⟨31, 0, .rc, 0⟩]⟩,
  ⟨"PCI_RING_FNn", 0x180, 4, 16, none, 0x0, [⟨31, 31, .rw, 0⟩, ⟨29, 24, .rw, 0⟩, ⟨23, 0, .rw, 0⟩]⟩]

/-- Registers of the page type 17: Bridle. -/
def regsPage17 : List RegDef := [
  ⟨"BRD_LANE_SEL", 0x100, 0, 1, none, 0x0, [⟨4, 0, .rw, 0⟩]⟩,
  ⟨"BRD_LANE_CTL", 0x104, 0, 1, some (256, 4, 0), 0x0, [⟨1, 1, .wo, 0⟩, ⟨0, 0, .rw, 1⟩]⟩,
  ⟨"BRD_LANE_STAT", 0x108, 0, 1, some (256, 4, 0), 0x0, [⟨31, 30, .ro, 0⟩, ⟨29, 29, .ro, 0⟩, ⟨28, 26, .ro, 0⟩, ⟨25, 25, .ro, 0⟩, ⟨24, 24, .ro, 0⟩, ⟨23, 20, .ro, 0⟩, ⟨19, 18, .ro, 0⟩, ⟨15, 8, .ro, 0⟩]⟩,
  ⟨"BRD_LANE_PEER", 0x10C, 0, 1, some (256, 4, 0), 0x0, [⟨27, 24, .ro, 0⟩, ⟨23, 19, .ro, 0⟩, ⟨18, 17, .ro, 0⟩, ⟨16, 12, .ro, 0⟩]⟩,
  ⟨"BRD_LANE_DLY", 0x110, 0, 1, some (256, 4, 0), 0x0, [⟨15, 0, .ro, 0⟩]⟩,
  ⟨"BRD_LANE_FEC", 0x114, 0, 1, some (256, 4, 0), 0x0, [⟨31, 16, .ro, 0⟩, ⟨15, 0, .ro, 0⟩]⟩,
  ⟨"BRD_CFG", 0x118, 0, 1, none, 0xFFFF, [⟨15, 0, .rw, 2048⟩]⟩,
  ⟨"BRD_CNT_n", 0x140, 4, 8, none, 0x0, [⟨31, 0, .rc, 0⟩]⟩]

/-- Registers of the page type 18: Memory common. -/
def regsPage18 : List RegDef := [
  ⟨"MEM_MAP_CTL", 0x100, 0, 1, none, 0x0, [⟨15, 8, .rw, 50⟩, ⟨0, 0, .rwl, 0⟩]⟩,
  ⟨"MEM_MAP_STAT", 0x104, 0, 1, none, 0x0, [⟨31, 30, .ro, 0⟩, ⟨20, 16, .ro, 0⟩, ⟨10, 0, .ro, 1152⟩]⟩,
  ⟨"MEM_SCRUB_CTL", 0x108, 0, 1, none, 0x0, [⟨31, 31, .rw, 1⟩, ⟨7, 0, .rw, 24⟩]⟩,
  ⟨"MEM_REPAIR_CTL", 0x10C, 0, 1, none, 0x0, [⟨31, 31, .rw, 1⟩, ⟨7, 0, .rw, 8⟩]⟩,
  ⟨"MEM_TRAIN_CTL", 0x110, 0, 1, none, 0x0, [⟨31, 24, .rw, 8⟩, ⟨23, 16, .rw, 16⟩, ⟨15, 0, .rw, 3600⟩]⟩,
  ⟨"MEM_LOSS_CTL", 0x114, 0, 1, none, 0x0, [⟨15, 0, .rw, 2000⟩]⟩,
  ⟨"MEM_KEY_SEL", 0x118, 0, 1, none, 0x0, [⟨11, 0, .rw, 0⟩]⟩,
  ⟨"MEM_KEY_MAP", 0x11C, 0, 1, some (280, 11, 0), 0xFFFFFFFF, [⟨31, 31, .rw, 0⟩, ⟨11, 4, .rw, 0⟩, ⟨3, 0, .rw, 0⟩]⟩]

/-- Registers of the page type 19: Draught port. -/
def regsPage19 : List RegDef := [
  ⟨"DRG_PORT_STAT", 0x100, 0, 1, none, 0x0, [⟨31, 24, .ro, 0⟩, ⟨23, 16, .ro, 0⟩, ⟨15, 8, .ro, 0⟩, ⟨7, 0, .ro, 0⟩]⟩,
  ⟨"DRG_SLOT_SEL", 0x104, 0, 1, none, 0x0, [⟨8, 8, .rw, 0⟩, ⟨7, 4, .rw, 0⟩, ⟨2, 0, .rw, 0⟩]⟩,
  ⟨"DRG_SLOT_CTL", 0x108, 0, 1, some (260, 8, 0), 0x0, [⟨0, 0, .rw, 1⟩]⟩,
  ⟨"DRG_SLOT_STAT", 0x10C, 0, 1, some (260, 8, 0), 0x0, [⟨31, 30, .ro, 0⟩, ⟨29, 29, .ro, 0⟩, ⟨28, 27, .ro, 0⟩, ⟨26, 26, .ro, 0⟩, ⟨25, 25, .ro, 0⟩, ⟨24, 19, .ro, 0⟩, ⟨18, 13, .ro, 0⟩, ⟨12, 10, .ro, 0⟩, ⟨9, 7, .ro, 0⟩, ⟨6, 5, .ro, 0⟩, ⟨4, 0, .ro, 0⟩]⟩,
  ⟨"DRG_RING_DET", 0x110, 0, 1, some (260, 8, 0), 0x0, [⟨31, 16, .ro, 0⟩, ⟨15, 0, .ro, 0⟩]⟩,
  ⟨"DRG_REPLAY_STAT", 0x114, 0, 1, none, 0x0, [⟨31, 20, .ro, 0⟩, ⟨19, 0, .ro, 0⟩]⟩,
  ⟨"DRG_CNT_n", 0x140, 4, 8, none, 0x0, [⟨31, 0, .rc, 0⟩]⟩]

/-- Registers of the page type 20: Reckoner die. -/
def regsPage20 : List RegDef := [
  ⟨"RKN_FIELD_STATE", 0x100, 0, 1, none, 0x0, [⟨31, 31, .ro, 0⟩, ⟨30, 30, .ro, 1⟩, ⟨29, 29, .ro, 1⟩, ⟨23, 22, .ro, 0⟩, ⟨21, 15, .ro, 0⟩, ⟨14, 13, .ro, 0⟩, ⟨12, 6, .ro, 0⟩]⟩,
  ⟨"RKN_INJ_CTL", 0x104, 0, 1, none, 0x1, [⟨0, 0, .rw, 0⟩]⟩,
  ⟨"RKN_INJ_SHARE", 0x108, 0, 1, none, 0x0, [⟨31, 16, .ro, 0⟩, ⟨15, 0, .ro, 0⟩]⟩,
  ⟨"RKN_ARITH_CAP", 0x10C, 0, 1, none, 0x0, [⟨31, 16, .ro, 27146⟩, ⟨7, 0, .ro, 127⟩]⟩,
  ⟨"RKN_ATT_FALLBACK", 0x110, 0, 1, none, 0x0, [⟨31, 0, .rc, 0⟩]⟩,
  ⟨"RKN_ORIENT", 0x114, 0, 1, none, 0x0, [⟨31, 31, .ro, 0⟩, ⟨30, 30, .ro, 0⟩, ⟨23, 18, .ro, 0⟩, ⟨17, 12, .ro, 0⟩, ⟨11, 6, .ro, 0⟩, ⟨5, 0, .ro, 0⟩]⟩,
  ⟨"RKN_BND_SEL", 0x118, 0, 1, none, 0x0, [⟨15, 13, .rw, 0⟩, ⟨12, 0, .rw, 0⟩]⟩,
  ⟨"RKN_BND_STAT", 0x11C, 0, 1, none, 0x0, [⟨31, 31, .ro, 0⟩, ⟨30, 28, .ro, 0⟩, ⟨27, 0, .ro, 0⟩]⟩,
  ⟨"RKN_BCAST_DROP", 0x120, 0, 1, none, 0x0, [⟨31, 0, .rc, 0⟩]⟩,
  ⟨"RKN_CORE_COUNT", 0x124, 0, 1, none, 0x0, [⟨23, 16, .ro, 0⟩, ⟨15, 8, .ro, 0⟩, ⟨7, 0, .ro, 0⟩]⟩,
  ⟨"RKN_FW_SEL", 0x128, 0, 1, none, 0x0, [⟨10, 8, .rw, 0⟩, ⟨7, 0, .rw, 0⟩]⟩,
  ⟨"RKN_FW_MAP", 0x12C, 0, 1, none, 0x0, [⟨31, 0, .ro, 0⟩]⟩,
  ⟨"RKN_FW_STAT", 0x130, 0, 1, none, 0x0, [⟨31, 30, .ro, 0⟩, ⟨29, 28, .ro, 0⟩, ⟨8, 0, .ro, 0⟩]⟩,
  ⟨"RKN_FW_PENDn", 0x140, 4, 7, none, 0x0, [⟨31, 0, .ro, 0⟩]⟩,
  ⟨"RKN_FIELD_CTL", 0x15C, 0, 1, none, 0x0, [⟨31, 31, .rw, 1⟩, ⟨30, 30, .rw, 1⟩, ⟨29, 28, .ro, 0⟩, ⟨27, 27, .ro, 0⟩, ⟨26, 25, .ro, 0⟩, ⟨24, 24, .ro, 0⟩, ⟨23, 23, .ro, 0⟩, ⟨22, 22, .ro, 0⟩]⟩,
  ⟨"RKN_GAIT_CTL", 0x160, 0, 1, none, 0x0, [⟨31, 30, .rw, 3⟩, ⟨29, 28, .rw, 3⟩]⟩,
  ⟨"RKN_THM_STAT", 0x164, 0, 1, none, 0x0, [⟨31, 30, .ro, 0⟩, ⟨29, 16, .ro, 0⟩, ⟨15, 0, .ro, 0⟩]⟩]

/-- Registers of the page type 21: Tally. -/
def regsPage21 : List RegDef := [
  ⟨"TLY_DIS_n", 0x100, 4, 7, none, 0x0, [⟨31, 0, .ro, 0⟩]⟩,
  ⟨"TLY_CE", 0x120, 0, 1, none, 0x0, [⟨31, 0, .rc, 0⟩]⟩,
  ⟨"TLY_UE", 0x124, 0, 1, none, 0x0, [⟨31, 0, .rc, 0⟩]⟩]

/-- Registers of the page type 22: Reckoner core row. -/
def regsPage22 : List RegDef := [
  ⟨"RKN_CORE_CTL", 0x100, 240, 16, none, 0x0, [⟨2, 2, .rw, 1⟩, ⟨1, 1, .rw, 1⟩, ⟨0, 0, .rw, 0⟩]⟩,
  ⟨"RKN_CORE_STAT", 0x104, 240, 16, none, 0x0, [⟨31, 30, .ro, 0⟩, ⟨29, 29, .ro, 0⟩, ⟨28, 28, .ro, 0⟩, ⟨24, 16, .ro, 0⟩, ⟨13, 8, .ro, 0⟩, ⟨7, 4, .ro, 0⟩]⟩,
  ⟨"RKN_Q0_CTL", 0x110, 240, 16, none, 0x0, [⟨31, 31, .rw, 0⟩, ⟨30, 29, .wo, 0⟩, ⟨24, 21, .rw, 0⟩, ⟨20, 16, .rw, 0⟩, ⟨11, 0, .rw, 0⟩]⟩,
  ⟨"RKN_Q1_CTL", 0x130, 240, 16, none, 0x0, [⟨31, 31, .rw, 0⟩, ⟨30, 29, .wo, 0⟩, ⟨24, 21, .rw, 0⟩, ⟨20, 16, .rw, 0⟩, ⟨11, 0, .rw, 0⟩]⟩,
  ⟨"RKN_Q2_CTL", 0x150, 240, 16, none, 0x0, [⟨31, 31, .rw, 0⟩, ⟨30, 29, .wo, 0⟩, ⟨24, 21, .rw, 0⟩, ⟨20, 16, .rw, 0⟩, ⟨11, 0, .rw, 0⟩]⟩,
  ⟨"RKN_Q3_CTL", 0x170, 240, 16, none, 0x0, [⟨31, 31, .rw, 0⟩, ⟨30, 29, .wo, 0⟩, ⟨24, 21, .rw, 0⟩, ⟨20, 16, .rw, 0⟩, ⟨11, 0, .rw, 0⟩]⟩,
  ⟨"RKN_Q0_BASE", 0x114, 240, 16, none, 0x0, [⟨14, 0, .rw, 0⟩]⟩,
  ⟨"RKN_Q1_BASE", 0x134, 240, 16, none, 0x0, [⟨14, 0, .rw, 0⟩]⟩,
  ⟨"RKN_Q2_BASE", 0x154, 240, 16, none, 0x0, [⟨14, 0, .rw, 0⟩]⟩,
  ⟨"RKN_Q3_BASE", 0x174, 240, 16, none, 0x0, [⟨14, 0, .rw, 0⟩]⟩,
  ⟨"RKN_Q0_TAIL", 0x118, 240, 16, none, 0x0, [⟨15, 0, .rw, 0⟩]⟩,
  ⟨"RKN_Q1_TAIL", 0x138, 240, 16, none, 0x0, [⟨15, 0, .rw, 0⟩]⟩,
  ⟨"RKN_Q2_TAIL", 0x158, 240, 16, none, 0x0, [⟨15, 0, .rw, 0⟩]⟩,
  ⟨"RKN_Q3_TAIL", 0x178, 240, 16, none, 0x0, [⟨15, 0, .rw, 0⟩]⟩,
  ⟨"RKN_Q0_HEAD", 0x11C, 240, 16, none, 0x0, [⟨15, 0, .rw, 0⟩]⟩,
  ⟨"RKN_Q1_HEAD", 0x13C, 240, 16, none, 0x0, [⟨15, 0, .rw, 0⟩]⟩,
  ⟨"RKN_Q2_HEAD", 0x15C, 240, 16, none, 0x0, [⟨15, 0, .rw, 0⟩]⟩,
  ⟨"RKN_Q3_HEAD", 0x17C, 240, 16, none, 0x0, [⟨15, 0, .rw, 0⟩]⟩,
  ⟨"RKN_Q0_STAT", 0x120, 240, 16, none, 0x0, [⟨31, 29, .ro, 0⟩, ⟨23, 16, .ro, 0⟩, ⟨15, 0, .ro, 0⟩]⟩,
  ⟨"RKN_Q1_STAT", 0x140, 240, 16, none, 0x0, [⟨31, 29, .ro, 0⟩, ⟨23, 16, .ro, 0⟩, ⟨15, 0, .ro, 0⟩]⟩,
  ⟨"RKN_Q2_STAT", 0x160, 240, 16, none, 0x0, [⟨31, 29, .ro, 0⟩, ⟨23, 16, .ro, 0⟩, ⟨15, 0, .ro, 0⟩]⟩,
  ⟨"RKN_Q3_STAT", 0x180, 240, 16, none, 0x0, [⟨31, 29, .ro, 0⟩, ⟨23, 16, .ro, 0⟩, ⟨15, 0, .ro, 0⟩]⟩,
  ⟨"RKN_Q0_CPL_LO", 0x124, 240, 16, none, 0x0, [⟨31, 4, .rw, 0⟩]⟩,
  ⟨"RKN_Q1_CPL_LO", 0x144, 240, 16, none, 0x0, [⟨31, 4, .rw, 0⟩]⟩,
  ⟨"RKN_Q2_CPL_LO", 0x164, 240, 16, none, 0x0, [⟨31, 4, .rw, 0⟩]⟩,
  ⟨"RKN_Q3_CPL_LO", 0x184, 240, 16, none, 0x0, [⟨31, 4, .rw, 0⟩]⟩,
  ⟨"RKN_Q0_CPL_HI", 0x128, 240, 16, none, 0x0, [⟨11, 0, .rw, 0⟩]⟩,
  ⟨"RKN_Q1_CPL_HI", 0x148, 240, 16, none, 0x0, [⟨11, 0, .rw, 0⟩]⟩,
  ⟨"RKN_Q2_CPL_HI", 0x168, 240, 16, none, 0x0, [⟨11, 0, .rw, 0⟩]⟩,
  ⟨"RKN_Q3_CPL_HI", 0x188, 240, 16, none, 0x0, [⟨11, 0, .rw, 0⟩]⟩,
  ⟨"RKN_Q0_CPL_IDX", 0x12C, 240, 16, none, 0x0, [⟨31, 16, .ro, 0⟩, ⟨15, 0, .rw, 0⟩]⟩,
  ⟨"RKN_Q1_CPL_IDX", 0x14C, 240, 16, none, 0x0, [⟨31, 16, .ro, 0⟩, ⟨15, 0, .rw, 0⟩]⟩,
  ⟨"RKN_Q2_CPL_IDX", 0x16C, 240, 16, none, 0x0, [⟨31, 16, .ro, 0⟩, ⟨15, 0, .rw, 0⟩]⟩,
  ⟨"RKN_Q3_CPL_IDX", 0x18C, 240, 16, none, 0x0, [⟨31, 16, .ro, 0⟩, ⟨15, 0, .rw, 0⟩]⟩]

/-- Registers of the page type 23: Hitch module counters. -/
def regsPage23 : List RegDef := [
  ⟨"HCH_MCi", 0x100, 4, 256, none, 0x0, [⟨31, 0, .ro, 0⟩]⟩]

/-- Registers of the page type 24: Memory stack. -/
def regsPage24 : List RegDef := [
  ⟨"MEM_STK_STAT", 0x100, 0, 1, none, 0x0, [⟨31, 30, .ro, 0⟩, ⟨29, 29, .ro, 0⟩, ⟨28, 28, .ro, 0⟩, ⟨27, 27, .ro, 0⟩, ⟨26, 26, .rw1c, 0⟩, ⟨15, 8, .ro, 0⟩, ⟨7, 0, .ro, 0⟩]⟩,
  ⟨"MEM_STK_CE", 0x104, 0, 1, none, 0x0, [⟨31, 0, .rc, 0⟩]⟩,
  ⟨"MEM_STK_UE", 0x108, 0, 1, none, 0x0, [⟨31, 0, .rc, 0⟩]⟩,
  ⟨"MEM_STK_TRAIN", 0x10C, 0, 1, none, 0x0, [⟨31, 24, .ro, 0⟩, ⟨23, 0, .ro, 0⟩]⟩]

/-- Registers of the page type 25: Blinkers engine. -/
def regsPage25 : List RegDef := [
  ⟨"BLN_ENG_STAT", 0x100, 0, 1, none, 0x0, [⟨31, 30, .ro, 0⟩, ⟨25, 16, .ro, 0⟩, ⟨15, 8, .ro, 0⟩, ⟨1, 0, .ro, 0⟩]⟩,
  ⟨"BLN_ENG_EBITS", 0x104, 0, 1, none, 0x0, [⟨29, 24, .ro, 0⟩, ⟨23, 18, .ro, 0⟩, ⟨17, 12, .ro, 0⟩, ⟨11, 6, .ro, 0⟩, ⟨5, 0, .ro, 0⟩]⟩]

/-- The registers of a page type, without the common header. -/
def regsOfPage (t : Nat) : List RegDef :=
  match t with
  | 1 => regsPage1
  | 2 => regsPage2
  | 3 => regsPage3
  | 4 => regsPage4
  | 5 => regsPage5
  | 6 => regsPage6
  | 7 => regsPage7
  | 8 => regsPage8
  | 9 => regsPage9
  | 10 => regsPage10
  | 11 => regsPage11
  | 12 => regsPage12
  | 13 => regsPage13
  | 14 => regsPage14
  | 15 => regsPage15
  | 16 => regsPage16
  | 17 => regsPage17
  | 18 => regsPage18
  | 19 => regsPage19
  | 20 => regsPage20
  | 21 => regsPage21
  | 22 => regsPage22
  | 23 => regsPage23
  | 24 => regsPage24
  | 25 => regsPage25
  | _ => []

/-- A page of R523: type, number of instances, slot of instance 0, and whether the header has a unit. -/
structure PageDef where
  type : Nat
  count : Nat
  slot : Nat
  hasUnit : Bool
deriving DecidableEq, Repr

/-- The pages of R523 whose instances lie one slot apart. -/
def flatPages : List PageDef := [
  ⟨0x1, 1, 0x10, false⟩,
  ⟨0x2, 1, 0x11, false⟩,
  ⟨0x3, 1, 0x12, false⟩,
  ⟨0x4, 1, 0x13, false⟩,
  ⟨0x5, 1, 0x14, false⟩,
  ⟨0x6, 1, 0x15, false⟩,
  ⟨0x7, 1, 0x16, false⟩,
  ⟨0x8, 1, 0x17, false⟩,
  ⟨0x9, 1, 0x20, true⟩,
  ⟨0xA, 1, 0x21, false⟩,
  ⟨0xB, 1, 0x22, false⟩,
  ⟨0x17, 1, 0x23, false⟩,
  ⟨0xC, 1, 0x24, true⟩,
  ⟨0xD, 1, 0x25, true⟩,
  ⟨0xE, 1, 0x26, false⟩,
  ⟨0x19, 2, 0x27, true⟩,
  ⟨0xF, 1, 0x30, false⟩,
  ⟨0x10, 1, 0x31, false⟩,
  ⟨0x11, 4, 0x34, true⟩,
  ⟨0x12, 1, 0x40, false⟩,
  ⟨0x18, 24, 0x41, true⟩,
  ⟨0x13, 64, 0x80, true⟩]

/-! Window offsets of the registers, in instance 0 of their page. -/

def Reg.HCH_STRIDE_LO : Nat := 0x22100
def Reg.HCH_STRIDE_HI : Nat := 0x22104
def Reg.HCH_SYNC_STAT : Nat := 0x22108
def Reg.HCH_SYNC_CTL : Nat := 0x2210C
def Reg.RKN_FIELD_STATE : Nat := 0x100100
def Reg.RKN_INJ_CTL : Nat := 0x100104
def Reg.RKN_INJ_SHARE : Nat := 0x100108
def Reg.RKN_CORE_CTL : Nat := 0x102100
def Reg.RKN_CORE_STAT : Nat := 0x102104
def Reg.RKN_Q0_CTL : Nat := 0x102110
def Reg.RKN_Q1_CTL : Nat := 0x102130
def Reg.RKN_Q2_CTL : Nat := 0x102150
def Reg.RKN_Q3_CTL : Nat := 0x102170
def Reg.RKN_Q0_BASE : Nat := 0x102114
def Reg.RKN_Q1_BASE : Nat := 0x102134
def Reg.RKN_Q2_BASE : Nat := 0x102154
def Reg.RKN_Q3_BASE : Nat := 0x102174
def Reg.RKN_Q0_TAIL : Nat := 0x102118
def Reg.RKN_Q1_TAIL : Nat := 0x102138
def Reg.RKN_Q2_TAIL : Nat := 0x102158
def Reg.RKN_Q3_TAIL : Nat := 0x102178
def Reg.RKN_Q0_HEAD : Nat := 0x10211C
def Reg.RKN_Q1_HEAD : Nat := 0x10213C
def Reg.RKN_Q2_HEAD : Nat := 0x10215C
def Reg.RKN_Q3_HEAD : Nat := 0x10217C
def Reg.RKN_Q0_STAT : Nat := 0x102120
def Reg.RKN_Q1_STAT : Nat := 0x102140
def Reg.RKN_Q2_STAT : Nat := 0x102160
def Reg.RKN_Q3_STAT : Nat := 0x102180
def Reg.RKN_Q0_CPL_LO : Nat := 0x102124
def Reg.RKN_Q1_CPL_LO : Nat := 0x102144
def Reg.RKN_Q2_CPL_LO : Nat := 0x102164
def Reg.RKN_Q3_CPL_LO : Nat := 0x102184
def Reg.RKN_Q0_CPL_HI : Nat := 0x102128
def Reg.RKN_Q1_CPL_HI : Nat := 0x102148
def Reg.RKN_Q2_CPL_HI : Nat := 0x102168
def Reg.RKN_Q3_CPL_HI : Nat := 0x102188
def Reg.RKN_Q0_CPL_IDX : Nat := 0x10212C
def Reg.RKN_Q1_CPL_IDX : Nat := 0x10214C
def Reg.RKN_Q2_CPL_IDX : Nat := 0x10216C
def Reg.RKN_Q3_CPL_IDX : Nat := 0x10218C
def Reg.RKN_ARITH_CAP : Nat := 0x10010C
def Reg.EDU_TBL_CTL : Nat := 0x24100
def Reg.EDU_TBL_A_LO : Nat := 0x24104
def Reg.EDU_TBL_B_LO : Nat := 0x2410C
def Reg.EDU_TBL_A_HI : Nat := 0x24108
def Reg.EDU_TBL_B_HI : Nat := 0x24110
def Reg.EDU_STAGE_LO : Nat := 0x24114
def Reg.EDU_STAGE_HI : Nat := 0x24118
def Reg.EDU_STAGE_SLOTS : Nat := 0x2411C
def Reg.EDU_CUTOFF : Nat := 0x24120
def Reg.EDU_STAGE_FREE : Nat := 0x24124
def Reg.EDU_CNT_n : Nat := 0x24140
def Reg.BLN_CTL : Nat := 0x26100
def Reg.BLN_PROF_LO : Nat := 0x26104
def Reg.BLN_SKETCH_LO : Nat := 0x2610C
def Reg.BLN_PROF_HI : Nat := 0x26108
def Reg.BLN_SKETCH_HI : Nat := 0x26110
def Reg.BLN_CHECK_CTL : Nat := 0x26114
def Reg.BLN_CNT_n : Nat := 0x26140
def Reg.BLN_ENG_STAT : Nat := 0x27100
def Reg.BLN_ENG_EBITS : Nat := 0x27104
def Reg.RKN_ATT_FALLBACK : Nat := 0x100110
def Reg.STB_ADMIT_CTL : Nat := 0x25100
def Reg.STB_WORK_LO : Nat := 0x25104
def Reg.STB_TPOOL_LO : Nat := 0x2510C
def Reg.STB_WORK_HI : Nat := 0x25108
def Reg.STB_TPOOL_HI : Nat := 0x25110
def Reg.STB_TPOOL_FRAMES : Nat := 0x25114
def Reg.STB_POOLp_LO : Nat := 0x25120
def Reg.STB_POOLp_HI : Nat := 0x25124
def Reg.STB_POOLp_CFG : Nat := 0x25128
def Reg.STB_POOLp_FIRST : Nat := 0x2512C
def Reg.STB_POOLp_RSV : Nat := 0x25134
def Reg.STB_POOLp_COUNT : Nat := 0x25130
def Reg.STB_POOLp_FREE : Nat := 0x25138
def Reg.STB_DIR_LO : Nat := 0x251A0
def Reg.STB_DIR_HI : Nat := 0x251A4
def Reg.STB_DIR_CFG : Nat := 0x251A8
def Reg.STB_SALT_LO : Nat := 0x251AC
def Reg.STB_SALT_HI : Nat := 0x251B0
def Reg.STB_BATCH : Nat := 0x251C0
def Reg.STB_PLAN_LO : Nat := 0x251C4
def Reg.STB_PLAN_HI : Nat := 0x251C8
def Reg.STB_PLAN_CTL : Nat := 0x251CC
def Reg.STB_PLAN_NUM : Nat := 0x251D0
def Reg.STB_CLASSc : Nat := 0x25200
def Reg.STB_SPILLc_LO : Nat := 0x25220
def Reg.STB_SPILLc_HI : Nat := 0x25224
def Reg.STB_SPILLc_EXT : Nat := 0x25228
def Reg.STB_CNT_n : Nat := 0x252A0
def Reg.STB_CRn_CTL : Nat := 0x25400
def Reg.STB_CRn_BASE_LO : Nat := 0x25404
def Reg.STB_CRn_BASE_HI : Nat := 0x25408
def Reg.STB_CRn_TAIL : Nat := 0x2540C
def Reg.STB_CRn_HEAD : Nat := 0x25410
def Reg.MEM_MAP_CTL : Nat := 0x40100
def Reg.MEM_MAP_STAT : Nat := 0x40104
def Reg.MEM_SCRUB_CTL : Nat := 0x40108
def Reg.MEM_REPAIR_CTL : Nat := 0x4010C
def Reg.MEM_TRAIN_CTL : Nat := 0x40110
def Reg.MEM_LOSS_CTL : Nat := 0x40114
def Reg.MEM_KEY_SEL : Nat := 0x40118
def Reg.MEM_KEY_MAP : Nat := 0x4011C
def Reg.MEM_STK_STAT : Nat := 0x41100
def Reg.MEM_STK_CE : Nat := 0x41104
def Reg.MEM_STK_UE : Nat := 0x41108
def Reg.MEM_STK_TRAIN : Nat := 0x4110C
def Reg.TLY_DIS_n : Nat := 0x101100
def Reg.TLY_CE : Nat := 0x101120
def Reg.TLY_UE : Nat := 0x101124
def Reg.HRN_STAT : Nat := 0x20100
def Reg.HRN_WEIGHTn : Nat := 0x20104
def Reg.HRN_PLANE_CTL : Nat := 0x20124
def Reg.HRN_PLANE_STAT : Nat := 0x20128
def Reg.HRN_PLANE_RP : Nat := 0x2012C
def Reg.HRN_CNT_n : Nat := 0x20140
def Reg.DRG_PORT_STAT : Nat := 0x80100
def Reg.DRG_SLOT_SEL : Nat := 0x80104
def Reg.DRG_SLOT_CTL : Nat := 0x80108
def Reg.DRG_SLOT_STAT : Nat := 0x8010C
def Reg.DRG_RING_DET : Nat := 0x80110
def Reg.DRG_REPLAY_STAT : Nat := 0x80114
def Reg.DRG_CNT_n : Nat := 0x80140
def Reg.LAS_QUADq_CTL : Nat := 0x16100
def Reg.LAS_QUADq_STAT : Nat := 0x16104
def Reg.LAS_FADE_CFG : Nat := 0x16140
def Reg.LAS_SWAP_GAP : Nat := 0x16144
def Reg.LAS_TAPp : Nat := 0x16180
def Reg.LAS_CARTk_CTL : Nat := 0x16200
def Reg.LAS_CARTk_STAT : Nat := 0x16204
def Reg.LAS_CARTk_ID : Nat := 0x16208
def Reg.CAL_CTL : Nat := 0x17100
def Reg.CAL_SET_STAT : Nat := 0x17104
def Reg.CAL_CORR_STAT : Nat := 0x17108
def Reg.RKN_ORIENT : Nat := 0x100114
def Reg.RKN_BND_SEL : Nat := 0x100118
def Reg.RKN_BND_STAT : Nat := 0x10011C
def Reg.RKN_BCAST_DROP : Nat := 0x100120
def Reg.REIN_STAT : Nat := 0x21100
def Reg.REIN_CNT_n : Nat := 0x21140
def Reg.HCH_CNT_n : Nat := 0x22140
def Reg.HCH_CTR_SEL : Nat := 0x22110
def Reg.HCH_CTR_CTL : Nat := 0x22114
def Reg.HCH_CTR_VAL : Nat := 0x22118
def Reg.HCH_CTR_ARM : Nat := 0x2211C
def Reg.HCH_CTR_THRESH : Nat := 0x22120
def Reg.HCH_REVOKE : Nat := 0x22124
def Reg.HCH_FN_SEL : Nat := 0x22128
def Reg.HCH_MIRROR_LO : Nat := 0x2212C
def Reg.HCH_MIRROR_HI : Nat := 0x22130
def Reg.HCH_WATCH_STAT : Nat := 0x22134
def Reg.HCH_MCi : Nat := 0x23100
def Reg.FAB_STAT : Nat := 0x30100
def Reg.FAB_ING_IDX : Nat := 0x30104
def Reg.FAB_ING_W0 : Nat := 0x30108
def Reg.FAB_ING_W1 : Nat := 0x3010C
def Reg.FAB_ING_W2 : Nat := 0x30110
def Reg.FAB_ING_W3 : Nat := 0x30114
def Reg.FAB_ING_CMD : Nat := 0x30118
def Reg.FAB_LSE_IDX : Nat := 0x3011C
def Reg.FAB_LSE_W0 : Nat := 0x30120
def Reg.FAB_LSE_W1 : Nat := 0x30124
def Reg.FAB_LSE_CMD : Nat := 0x30128
def Reg.FAB_CNT_n : Nat := 0x30140
def Reg.FAB_POS : Nat := 0x30180
def Reg.FAB_TEAM_STAT : Nat := 0x30184
def Reg.FAB_RACK_MAP : Nat := 0x30188
def Reg.FAB_RT_SEL : Nat := 0x3018C
def Reg.FAB_RT_DATA : Nat := 0x30190
def Reg.FAB_RT_CTL : Nat := 0x30194
def Reg.FAB_RT_AT : Nat := 0x30198
def Reg.FAB_RT_DRAIN : Nat := 0x3019C
def Reg.FAB_UPL_SEL : Nat := 0x301B0
def Reg.FAB_UPL_STAT : Nat := 0x301B4
def Reg.FAB_UPL_CTL : Nat := 0x301B8
def Reg.FAB_UPL_TXB_LO : Nat := 0x301BC
def Reg.FAB_UPL_RXB_LO : Nat := 0x301C4
def Reg.FAB_UPL_TXB_HI : Nat := 0x301C0
def Reg.FAB_UPL_RXB_HI : Nat := 0x301C8
def Reg.FAB_UPL_TX_TAIL : Nat := 0x301CC
def Reg.FAB_UPL_TX_HEAD : Nat := 0x301D0
def Reg.FAB_UPL_RX_TAIL : Nat := 0x301D4
def Reg.FAB_UPL_RX_HEAD : Nat := 0x301D8
def Reg.FAB_RT_CNT_n : Nat := 0x301E0
def Reg.BRD_LANE_SEL : Nat := 0x34100
def Reg.BRD_LANE_CTL : Nat := 0x34104
def Reg.BRD_LANE_STAT : Nat := 0x34108
def Reg.BRD_LANE_PEER : Nat := 0x3410C
def Reg.BRD_LANE_DLY : Nat := 0x34110
def Reg.BRD_LANE_FEC : Nat := 0x34114
def Reg.BRD_CFG : Nat := 0x34118
def Reg.BRD_CNT_n : Nat := 0x34140
def Reg.PCI_LINK_STAT : Nat := 0x31100
def Reg.PCI_CTL : Nat := 0x31104
def Reg.PCI_FN_SEL : Nat := 0x31108
def Reg.PCI_FN_JOB : Nat := 0x3110C
def Reg.PCI_WIN_LO : Nat := 0x31110
def Reg.PCI_WIN_HI : Nat := 0x31114
def Reg.PCI_CNT_n : Nat := 0x31140
def Reg.PCI_RING_FNn : Nat := 0x31180
def Reg.GRM_BOOT_STAT : Nat := 0x11100
def Reg.GRM_BOOT_CFG : Nat := 0x11104
def Reg.GRM_GRADE : Nat := 0x11108
def Reg.GRM_YIELD_SEL : Nat := 0x1110C
def Reg.GRM_YIELD_STAT : Nat := 0x11110
def Reg.GRM_YIELD_CTL : Nat := 0x11114
def Reg.GRM_RST_CTL : Nat := 0x11118
def Reg.GRM_IMG_STAT : Nat := 0x1111C
def Reg.GRM_IMG_CTL : Nat := 0x11120
def Reg.RKN_CORE_COUNT : Nat := 0x100124
def Reg.RKN_FW_SEL : Nat := 0x100128
def Reg.RKN_FW_MAP : Nat := 0x10012C
def Reg.RKN_FW_STAT : Nat := 0x100130
def Reg.RKN_FW_PENDn : Nat := 0x100140
def Reg.RKN_FIELD_CTL : Nat := 0x10015C
def Reg.GRM_PAIR_STAT : Nat := 0x11180
def Reg.GRM_PAIR_CTL : Nat := 0x11184
def Reg.GRM_ACT_SEQ_LO : Nat := 0x11188
def Reg.GRM_ACT_SEQ_HI : Nat := 0x1118C
def Reg.GRM_FAR_CTL : Nat := 0x11190
def Reg.GRM_FAR_LAST : Nat := 0x11194
def Reg.GRM_FAR_STRIDE : Nat := 0x11198
def Reg.GRM_FAR_CNT_n : Nat := 0x111A0
def Reg.RKN_GAIT_CTL : Nat := 0x100160
def Reg.RKN_THM_STAT : Nat := 0x100164
def Reg.THM_SENS_SEL : Nat := 0x13100
def Reg.THM_SENS_STAT : Nat := 0x13104
def Reg.THM_SENS_POS : Nat := 0x13108
def Reg.THM_RATE_CTL : Nat := 0x1310C
def Reg.THM_DEFER : Nat := 0x13110
def Reg.THM_CNT_n : Nat := 0x13140
def Reg.PWR_STATE_CTL : Nat := 0x12100
def Reg.PWR_STATE_STAT : Nat := 0x12104
def Reg.PWR_LIMIT : Nat := 0x12108
def Reg.PWR_INPUT : Nat := 0x1210C
def Reg.PWR_THROTTLE : Nat := 0x12110
def Reg.SEC_LC_STAT : Nat := 0x14100
def Reg.SEC_DBG_CTL : Nat := 0x14104
def Reg.SEC_AUTH_DATA : Nat := 0x14108
def Reg.SEC_KEY_CMD : Nat := 0x1410C
def Reg.SEC_KEY_ADDR_LO : Nat := 0x14110
def Reg.SEC_KEY_ADDR_HI : Nat := 0x14114
def Reg.SEC_TAG_SEL : Nat := 0x14118
def Reg.SEC_TAG_DATA : Nat := 0x1411C
def Reg.SEC_LINK_CTL : Nat := 0x14120
def Reg.SEC_LINK_AT : Nat := 0x14124
def Reg.SNP_CTL : Nat := 0x15100
def Reg.SNP_MATCH : Nat := 0x15104
def Reg.SNP_STAT : Nat := 0x15108
def Reg.SNP_STRIDE_LO : Nat := 0x1510C
def Reg.SNP_STRIDE_HI : Nat := 0x15110
def Reg.SNP_RACK_CTL : Nat := 0x15114
def Reg.SNP_PEND : Nat := 0x15118
def Reg.PDK_PART : Nat := 0x10100
def Reg.PDK_STEP : Nat := 0x10104
def Reg.PDK_SERIAL : Nat := 0x10108
def Reg.PDK_FLT_SEL : Nat := 0x1010C
def Reg.PDK_FLT_LO : Nat := 0x10110
def Reg.PDK_FLT_HI : Nat := 0x10114
def Reg.PDK_FLT_CFG : Nat := 0x10118
def Reg.PDK_FLT_TAIL : Nat := 0x1011C
def Reg.PDK_FLT_HEAD : Nat := 0x10120
def Reg.PDK_FLT_DROP : Nat := 0x10124
def Reg.GRM_LOG_STAT : Nat := 0x111C0
def Reg.GRM_LOG_SEL : Nat := 0x111C4
def Reg.GRM_LOG_DATAn : Nat := 0x111C8

end Sys2Proof.Machine
end

