-- ==== Sys2Proof/Machine/BridleState.lean ====
section
/-! DEFINITION. The parts of the state that the Bridle links, the host interface and the supplies give the module. -/

namespace Sys2Proof.Machine

/-! ### Lanes and strands (R395 to R410) -/

inductive LinkState where
  | down | training | up | failed
deriving DecidableEq, Repr

def LinkState.code : LinkState → Nat
  | .down => 0 | .training => 1 | .up => 2 | .failed => 3

/-- What the peer of a lane announced at training (R408). -/
structure LanePeer where
  z : Nat
  index : Nat
  bridle : Nat
  lane : Nat
  serial : Word
  admitted : Bool
deriving DecidableEq, Repr

/-- One lane: its link state, the suspension of each direction, lock and the runs of decodable and undecodable codewords, the
codewords and corrected symbols of this stride and the last, consecutive decodable codewords since lock was regained after a
suspension, the boundary since which a direction of it has been suspended, its peer, delay and training, and when its transmitter is next free (in 1/224 ns). -/
structure Lane where
  link : LinkState
  txSusp : Bool
  rxSusp : Bool
  locked : Bool
  good : Nat
  bad : Nat
  ucw : Nat
  csym : Nat
  ucwLast : Nat
  csymLast : Nat
  clean : Nat
  suspended : Option Nat
  peer : Option LanePeer
  admitted : Bool
  delay : Nat
  exchanges : List Nat
  trainFail : Nat
  trainAt : Option Nat
  retryAt : Option Nat
  upDue : Bool
  retrain : Bool
  free : Nat
deriving DecidableEq, Repr

/-- A codeword of a strand sent and not acknowledged: its number, its lane, its last transmission, its flits and the epoch of the
transaction packet in it, if any. -/
structure CwSent where
  seq : Nat
  lane : Fin 32
  last : Nat
  flits : List (List Word)
  epoch : Option Bool
deriving DecidableEq, Repr

/-- What waits on a strand for credit, replay space or a lane: its flits, the epoch of a transaction packet, since when it has waited,
whether it is a control frame, and the one lane that a LANE frame is for (R399, R406). -/
structure Outgoing where
  flits : List (List Word)
  epoch : Option Bool
  since : Nat
  control : Bool
  lane : Option (Fin 32)
deriving DecidableEq, Repr

/-- One strand: at the sender the next codeword number, the codewords unacknowledged, the packets waiting, and flits sent and freed
as running totals; at the receiver the number expected, codewords ahead of a gap, since when the gap has stood, flits of a packet not
yet whole, flits freed, and boundaries since the last BEACON, or, before one, one more than those at which a lane of it was UP. Codewords under encryption are counted by `counter` (R503). -/
structure Strand where
  next : Nat
  unacked : List CwSent
  queue : List Outgoing
  sentFlits : Nat
  freedFlits : Nat
  expect : Nat
  reorder : Table (Nat × List (List Word))   -- with the delay of the lane that carried it
  gapAt : Option Nat
  partial_ : List (List Word)
  returned : Nat
  silent : Nat
  counter : Nat
  warned : Bool                 -- SEC_LINK_EXHAUST has been logged for this key
deriving DecidableEq, Repr

/-- A transaction packet received by a Bridle and not yet taken: header words and payload, the time it came, and the delay of the
lane it came on (units of 0.125 ns). An uplink message also has the number of its strand, and flits it takes in the buffer. -/
structure Arrived where
  words : List Word
  payload : List Byte
  at_ : Nat
  delay : Nat
  strand : Nat
  flits : Nat
deriving DecidableEq, Repr

structure Bridle where
  lanes : Table Lane            -- b × 32 + l
  strands : Table Strand        -- b × 16 + team, or b × 16 + 10 + (l − 28) for uplinks
  arrived : Table (List Arrived)   -- by Bridle, oldest first
deriving DecidableEq, Repr

/-! ### The host (R412 to R419) -/

/-- One MSI-X vector of a function (R417): its four words, and its pending bit. -/
structure MsixEntry where
  words : List Word
  pending : Bool
deriving DecidableEq, Repr

/-- A module read of host memory not yet completed (R419): the stall it recalls, its job, address and length, and when it was made. -/
structure HostRead where
  id : Nat
  stall : Nat
  job : Nat
  addr : Nat
  len : Nat
  sent : Nat
deriving DecidableEq, Repr

/-- The endpoint: its reset, the reads of host memory outstanding, and the MSI-X
entries by function × 2048 + vector. -/
structure Pci where
  perst : Bool                  -- PERST_N asserted, or the data link lost (R413)
  reads : List HostRead
  msix : Table MsixEntry
deriving DecidableEq, Repr

/-- The management port and console (R420, R421). -/
structure Mgmt where
  offset : Word
deriving DecidableEq, Repr

/-! ### Rein requests outstanding (R305, R309) -/

/-- A Rein request whose response has not arrived: its source node and agent, tag, whether it is a READ, its words, its job and address,
when it was sent, and the answer on its way. -/
structure ReinRequest where
  node : Fin 64
  agent : BitVec 8
  tag : BitVec 8
  read : Bool
  words : Nat
  job : Nat
  addr : Nat
  sent : Nat
  watch : Option QueueId         -- the queue whose watch a message to the Hitch root carries (R332)
  answer : Option (ReinStatus × List Word)
  cls : Nat
  dst : Fin 64
  held : Option ReinPacket       -- not sent yet: it waits for the responses to the source's earlier requests there (R308)
deriving DecidableEq, Repr

/-! ### Supplies and pins (R531 to R537) -/

/-- The supplies in range, MOD_RESET_N deasserted, and whether the module is without power on VIN_48 by its own action. -/
structure Supplies where
  vin48 : Bool
  vana : Bool
  vio : Bool
  vlas : Bool
  vstby : Bool
  modReset : Bool               -- MOD_RESET_N asserted
  open_ : Bool                  -- every converter fed from VIN_48 is open
  stuck : Bool                  -- stopped until MOD_RESET_N has been asserted (R536)
  startDue : Bool               -- a module start follows without MOD_RESET_N (R422, R486) or is held (R481)
deriving DecidableEq, Repr

/-! ### Reset values -/

def Lane.reset : Lane :=
  { link := .down, txSusp := false, rxSusp := false, locked := false, good := 0, bad := 0, ucw := 0, csym := 0, ucwLast := 0,
    csymLast := 0, clean := 0, suspended := none, peer := none, admitted := false, delay := 0, exchanges := [], trainFail := 0,
    trainAt := none, retryAt := none, upDue := false, retrain := false, free := 0 }

def Strand.reset : Strand :=
  { next := 0, unacked := [], queue := [], sentFlits := 0, freedFlits := 0, expect := 0, reorder := [], gapAt := none,
    partial_ := [], returned := 0, silent := 1, counter := 0, warned := false }

def Bridle.reset : Bridle := { lanes := [], strands := [], arrived := [] }

def MsixEntry.reset : MsixEntry := { words := [0, 0, 0, 1], pending := false }

def Pci.reset : Pci := { perst := false, reads := [], msix := [] }

def Supplies.reset : Supplies :=
  { vin48 := true, vana := true, vio := true, vlas := true, vstby := true, modReset := true, open_ := false, stuck := false, startDue := false }

end Sys2Proof.Machine
end

