-- ==== Sys2Proof/Machine/FabricState.lean ====
section
/-! DEFINITION. The parts of the state that the Grenzin fabric gives the module: requests, streams, receivers, leases, routing
and uplinks. -/

namespace Sys2Proof.Machine

/-- Who a request to another module belongs to: a core and its transaction, or an engine. -/
inductive Requester where
  | core (c : CoreId) (id : Nat)
  | engine (block : Word)
  /-- The Stable manager, for the move of a stall's extent (R211, R213). -/
  | stall (i : Nat)
deriving DecidableEq, Repr

/-- A request that waits for the issuing Bridle (R344). `kind` is the kind of R296; `op` the operation of an atomic
(R349). An EDU request names its target modules in `dst`, two or more of them for a row or column multicast (R387); the
module of any other is in its address. -/
structure RemoteReq where
  who : Requester
  kind : Nat
  op : Nat
  addr : Nat
  len : Nat
  data : List Byte
  job : Nat
  dst : List Nat
deriving DecidableEq, Repr

/-! ### The source (R343 to R345, R350, R357, R360, R362, R369) -/

/-- The Draught request a fabric request answers: its port and its number there (R298), and the pool entry it takes. -/
structure FabOrigin where
  port : Fin 64
  seq : Nat
deriving DecidableEq, Repr

/-- A stream towards a target: (issuing Bridle, source Draught port, job, target module) (R345). -/
structure StreamId where
  bridle : Fin 4
  port : Nat
  job : Nat
  target : Nat
deriving DecidableEq, Repr

/-- A request at its issuing Bridle. `kind` is that of R347. `route` is the team it last left on and whether by DETOUR; `first`
its first transmission; `tries` the retransmissions at 8 and 16 µs made; `busy` when a BUSY response came; `held` that it has waited
for a route; `lease` the lease entry of a LEASE request, its op, and the boundary before it was sent; `cut` that its pair has been
reset (R344). -/
structure FabRequest where
  id : Nat
  stream : StreamId
  who : Option Requester
  origin : Option FabOrigin
  kind : Nat
  addr : Nat
  len : Nat
  data : List Byte
  seq : Nat
  epoch : Option Nat
  count : Nat
  reached : Nat
  first : Option Nat
  last : Nat
  tries : Nat
  busy : Option Nat
  route : Option (Fin 10 × Bool)
  held : Bool
  lease : Option (Nat × Nat × Nat)
  mcast : Nat
  cut : Bool
deriving DecidableEq, Repr

/-- A stream's flag epoch (R345, R366, R367, R369): its value, the stores and atomics sent in it, the values whose last use
has had a store fail, and, for values used before, the time of the last request of the use. -/
structure Stream where
  epoch : Nat
  sent : Nat
  broken : List Nat
  uses : Table Nat
deriving DecidableEq, Repr

/-! ### The receiver (R351 to R355, R358, R366 to R368) -/

/-- An inbound fabric pair: (source module, its issuing Bridle). -/
structure InPair where
  src : Nat
  bridle : Nat
deriving DecidableEq, Repr

/-- The state of a number seen: in progress, or done with its kind, its status and the fault of its response (R358). -/
inductive SeqState where
  | inProgress
  | done (kind status fault : Nat)
deriving DecidableEq, Repr

/-- The window of an inbound pair: the highest number seen and the numbers that are not NEW. -/
structure InWindow where
  top : Option Nat
  seen : Table SeqState
deriving DecidableEq, Repr

/-- An inbound request being served: its header's fields, the Bridle it came to, the local address it is applied at, whether it is a
flagged store that is held, and the fault its port found. -/
structure Inbound where
  key : Nat
  pair : InPair
  bridle : Fin 4
  seq : Nat
  kind : Nat
  job : Nat
  port : Nat
  epoch : Nat
  len : Nat
  addr : Nat
  to_ : Nat
  data : List Byte
  count : Nat
  born : Nat                 -- time of its first transmission, by its age
  held : Bool
  fault : Nat                -- class and code of what its port found
deriving DecidableEq, Repr

/-- A flag table entry (R366 to R368): stream and epoch, the numbers applied, whether it is broken, and when its last request
came. -/
structure FlagEntry where
  pair : InPair
  port : Nat
  job : Nat
  epoch : Nat
  applied : List Nat
  broken : Bool
  last : Nat
deriving DecidableEq, Repr

/-- A result in the atomic result buffer (R358). -/
structure AtomicResult where
  pair : InPair
  seq : Nat
  data : List Byte
  expiry : Nat
deriving DecidableEq, Repr

/-- An ingress entry (R352): its words, its holder and the boundary at which the home clock expires, and the holder that a write has
cleared and whose next RENEW is refused (R353). -/
structure Ingress where
  w0 : Word
  w1 : Word
  w2 : Word
  holder : Option Nat
  expires : Nat
  cleared : Option Nat
deriving DecidableEq, Repr

inductive LeaseState where
  | free | acquiring | held | expired | refused
deriving DecidableEq, Repr

def LeaseState.code : LeaseState → Nat
  | .free => 0 | .acquiring => 1 | .held => 2 | .expired => 3 | .refused => 4

/-- A holder's lease entry (R354, R355): the boundary its clock started at and the boundary before its last request was sent. -/
structure Lease where
  st : LeaseState
  home : Nat
  region : Nat
  job : Nat
  start : Nat
  asked : Nat
deriving DecidableEq, Repr

/-! ### Routing (R375 to R386) -/

inductive TableState where
  | editable | armed | active | draining
deriving DecidableEq, Repr

def TableState.code : TableState → Nat
  | .editable => 0 | .armed => 1 | .active => 2 | .draining => 3

structure RoutingTable where
  words : List Word
  st : TableState
deriving DecidableEq, Repr

/-- A route advertisement (R376), the strides since it came, and whether its sender has gone to its epoch while this module listened, and this
module has not been heard to agree since. -/
structure Advert where
  sender : Nat
  stride : Word
  master : Nat
  aligned : Bool
  epoch : Bool
  drained : Nat
  generation : Nat
  teams : Nat
  relay : List (Bool × Nat × Nat)     -- by the sender's team: valid, team map, stride bits [15:0]
  age : Nat
  went : Bool
deriving DecidableEq, Repr

/-- An entry of the rack map (R377): teams up, the stride it was taken in, and strides since it was refreshed. -/
structure MapEntry where
  teams : Nat
  stride : Nat
  age : Nat
deriving DecidableEq, Repr

/-- Strides since the last switch, modules that have advertised the old table drained, and the boundary of the switch (R386). -/
structure Routing where
  a : RoutingTable
  b : RoutingTable
  pending : Option Word
  status : Nat
  since : Nat
  drained : List Nat
  adverts : Table Advert        -- by team
  map : Table MapEntry          -- by module index
  ready : Nat                   -- teams up, aligned and of one epoch and generation at both ends, as of this boundary (R375)
  switched : Option Word        -- stride number bits [31:0] of the last switch
  missed : Bool                 -- FAB_EPOCH_MISS has been logged since the last switch
  split : List Nat              -- peers for which FAB_EPOCH_SPLIT has been logged
  said : List (Word × Bool × Nat)   -- this module's own stride number, epoch and generation of its last four boundaries (R375, R376)
deriving DecidableEq, Repr

/-! ### Uplinks (R388 to R390) -/

inductive UplinkState where
  | disabled | idle | running | waitCredit | haltedRefused | haltedDown
deriving DecidableEq, Repr

def UplinkState.code : UplinkState → Nat
  | .disabled => 0 | .idle => 1 | .running => 2 | .waitCredit => 3 | .haltedRefused => 4 | .haltedDown => 5

/-- An uplink's rings: `ready` is the producer index up to which slots are being sent. -/
structure Uplink where
  st : UplinkState
  rx : Bool
  txTail : BitVec 16
  txHead : BitVec 16
  sent : BitVec 16
  rxTail : BitVec 16
  rxHead : BitVec 16
deriving DecidableEq, Repr

structure Fabric where
  requests : List FabRequest
  streams : List (StreamId × Stream)
  nextSeq : List (StreamId × Nat)        -- next pair sequence number, by (Bridle, target) with port and job 0
  windows : List (InPair × InWindow)
  inbound : List Inbound
  flags : List FlagEntry
  atomics : List AtomicResult
  ingress : Table Ingress
  ingressPending : Bool
  leases : Table Lease
  uplinks : Table Uplink
  engineWait : List Nat                  -- requests of engines issued before the set of ON Bridles changed (R343)
  routing : Routing
deriving DecidableEq, Repr

/-! ### Reset values -/

def Ingress.reset : Ingress := { w0 := 0, w1 := 0, w2 := 0, holder := none, expires := 0, cleared := none }

def Lease.reset : Lease := { st := .free, home := 0, region := 0, job := 0, start := 0, asked := 0 }

def Stream.reset : Stream := { epoch := 0, sent := 0, broken := [], uses := [] }

def InWindow.reset : InWindow := { top := none, seen := [] }

/-- Table A at reset: every destination with every route, every team enabled, generation 0 (R382). -/
def RoutingTable.resetA : RoutingTable :=
  { words := List.replicate 32 0xF00003FF ++ [0x3FF, 0], st := .active }

def RoutingTable.resetB : RoutingTable := { words := List.replicate 34 0, st := .editable }

def Routing.reset : Routing :=
  { a := .resetA, b := .resetB, pending := none, status := 0, since := 0, drained := [], adverts := [], map := [], ready := 0,
    switched := none,
    missed := false, split := [], said := [] }

def Uplink.reset : Uplink :=
  { st := .disabled, rx := false, txTail := 0, txHead := 0, sent := 0, rxTail := 0, rxHead := 0 }

def Fabric.reset : Fabric :=
  { requests := [], streams := [], nextSeq := [], windows := [], inbound := [], flags := [], atomics := [], ingress := [],
    ingressPending := false, leases := [], uplinks := [], engineWait := [], routing := .reset }

end Sys2Proof.Machine
end

