-- ==== Sys2Proof/Machine/DraughtState.lean ====
section
/-! DEFINITION. The parts of the state that the Paddock photonic base and the Draught network give the module. -/

namespace Sys2Proof.Machine

/-! ### Rings and slots (R245 to R252, R256, R258, R266) -/

/-- The lock states of a ring (R247). -/
inductive Lock where
  | off | parked | sweeping | acquiring | locked | drift | failed
deriving DecidableEq, Repr

def Lock.code : Lock → Nat
  | .off => 0 | .parked => 1 | .sweeping => 2 | .acquiring => 3 | .locked => 4 | .drift => 5 | .failed => 6

/-- A ring: its lock state while its port and plane are powered, the channel it holds, its target, its heater code and the
last good one, its detuning (units of 0.25 GHz), consecutive updates above 8 GHz, the boundary by which a lost lock is to be
found again, failed sweeps and failed isolated probes, sweeps made in the present quarantine, and a sweep due at the next
boundary. `was` is the channel held when its plane was withdrawn, and `wasCode` its calibrated code then. -/
structure Ring where
  lock : Lock
  channel : Option (Fin 64)
  target : Option (Fin 64)
  heater : Option (BitVec 16)    -- none: as calibration loads it
  lastGood : BitVec 16
  detune : Int
  high : Nat
  reacquireBy : Option Nat
  sweepFails : Nat
  probeFails : Nat
  sweepsNow : Nat
  sweepDue : Bool
  was : Option (Fin 64)
  wasCode : BitVec 16
deriving DecidableEq, Repr

/-- A slot: the role of the ring that serves it, whether it is quarantined, the OK beacons it still needs to enter the grant
pool (0: in the pool), those received in consecutive strides and whether this stride has brought one, full sweeps since bring-up, the slot and channel it was granted with when
it left the pool, probe pairings that have failed, whether its probes are isolated (R258), the boundary at which a slot of a
returning plane is quarantined (R268), whether it is decoupled or silent for the rest of this stride (R246, R256), whether what it
brings in this stride is discarded (R256), and the end of what it has sent in this stride in bytes of line rate. -/
structure Slot where
  serving : Bool
  quarantined : Bool
  need : Nat
  good : Nat
  okNow : Bool
  sweeps : Nat
  mate : Option SlotId
  channel : Option (Fin 64)
  pairFails : Nat
  isolated : Bool
  probeBy : Option Nat
  dark : Bool
  discard : Bool
  sent : Nat
deriving DecidableEq, Repr

/-- A grant of R253. -/
structure Grant where
  plane : Fin 16
  src : Fin 64
  tx : Fin 8
  dst : Fin 64
  rx : Fin 8
  probe : Bool
deriving DecidableEq, Repr

/-- The grant set computed for the next stride (R259): grants, the slots whose shadow ring is to serve, and shadow
targets. -/
structure GrantSet where
  grants : List Grant
  swaps : List SlotId
  targets : List (RingId × Fin 64)
deriving DecidableEq, Repr

/-! ### Packets and pairs (R262 to R264, R295 to R301) -/

/-- A sequenced Draught packet beside its ports and its number: kind of R296, job, rack global address, words named by len,
payload, and, of a RESP, its status and the number of the request it answers. -/
structure Packet where
  kind : Nat
  len : Nat
  job : Nat
  addr : Nat
  data : List Byte
  status : Nat
  reqSeq : Nat
deriving DecidableEq, Repr

/-- A packet sent and not acknowledged: its number, the boundary count of its last transmission (R43), the slot it left on, its
replays, whether it waits to be replayed, and the withdrawn planes it has been moved from (R267). -/
structure Sent where
  seq : Nat
  packet : Packet
  last : Nat
  slot : SlotId
  replays : Nat
  again : Bool
  owed : List (Fin 16)
deriving DecidableEq, Repr

/-- A packet held ahead of a gap, and the receive slot and boundary it arrived on. -/
structure Held where
  seq : Nat
  packet : Packet
  slot : SlotId
  stride : Nat
deriving DecidableEq, Repr

/-- An ordered pair of ports. At the source: the next number, the packets waiting to be sent, the packets unacknowledged,
requests sent and the credits returned for them as running totals, and the credits it holds. At the destination: the number
expected, the packets ahead of a gap, since when the gap has stood, and credits returned. `resync` is the number past the last packet
discarded or withdrawn, from which both ends go on at the next boundary (R263, R264). -/
structure Pair where
  next : Nat
  queue : List Packet
  unacked : List Sent
  reqSent : Nat
  reqBack : Nat
  credits : Nat
  expect : Nat
  reorder : List Held
  gapAt : Option Nat
  taken : Nat
  resync : Option Nat
deriving DecidableEq, Repr

/-- Who a Draught request belongs to: a core's transaction, an inbound fabric request by its key, or nothing the model
follows further. -/
inductive DrgOwner where
  | core (c : CoreId) (id : Nat)
  | fabric (key : Nat)
  | none
deriving DecidableEq, Repr

/-- A request awaiting its RESP: its pair (source × 64 + destination), its number once sent, and when it was issued. `id` is
the model's number of it. A request for another module has no Draught timeout (R264). -/
structure DrgRequest where
  id : Nat
  pair : Nat
  seq : Option Nat
  packet : Packet
  issued : Nat
  owner : DrgOwner
  remote : Bool
  verdict : Bool            -- withdrawn: completes at the next boundary
deriving DecidableEq, Repr

/-- A packet delivered to a port's agent and not yet taken. -/
structure Delivered where
  src : Fin 64
  seq : Nat
  packet : Packet
deriving DecidableEq, Repr

/-- An event of a line beacon that waits to be attributed to its slots or to their plane (R256, R257). -/
structure LineEvent where
  grant : Grant
  wrong : Bool
deriving DecidableEq, Repr

structure Draught where
  rings : Table Ring              -- by ring ID
  slots : Table Slot              -- by slot code
  grants : List Grant             -- in force
  computed : Option GrantSet
  holds : Nat
  events : List LineEvent
  planeDark : Table Nat           -- DARK receive slots of a plane in this stride
  tapDark : List (Fin 16)         -- planes whose tap has reported loss of light in this stride
  retried : List (Fin 16)
  leftAt : Table Nat              -- boundary at which a plane last left ON (R267)
  notices : List (Grant × Nat)    -- SLOT_LOST notices still to be repeated (R299)
  pairs : Table Pair              -- by source × 64 + destination
  inbox : Table (List Delivered)  -- requests delivered to a port, oldest first
  resps : Table (List Delivered)  -- responses delivered to a port, oldest first
  requests : List DrgRequest
deriving DecidableEq, Repr

/-! ### Reset values -/

def Ring.reset : Ring :=
  { lock := .parked, channel := none, target := none, heater := none, lastGood := 0, detune := 0, high := 0,
    reacquireBy := none, sweepFails := 0, probeFails := 0, sweepsNow := 0, sweepDue := false, was := none, wasCode := 0 }

def Slot.reset : Slot :=
  { serving := false, quarantined := false, need := 0, good := 0, okNow := false, sweeps := 0, mate := none, channel := none, pairFails := 0,
    isolated := false, probeBy := none, dark := false, discard := false, sent := 0 }

/-- Each source holds 16 credits permanently (R301). -/
def Pair.reset : Pair :=
  { next := 0, queue := [], unacked := [], reqSent := 0, reqBack := 0, credits := 16, expect := 0, reorder := [],
    gapAt := none, taken := 0, resync := none }

def Draught.reset : Draught :=
  { rings := [], slots := [], grants := [], computed := none, holds := 0, events := [], planeDark := [], tapDark := [],
    retried := [], leftAt := [], notices := [], pairs := [], inbox := [], resps := [], requests := [] }

end Sys2Proof.Machine
end

