-- ==== Sys2Proof/Machine/EduState.lean ====
section
/-! DEFINITION. The expert dispatch unit (R132 to R151). -/

namespace Sys2Proof.Machine

/-- What a layer entry says (R133). -/
structure EduLayer where
  valid : Bool
  policy : Nat
  act : Nat
  res : Nat
  ret : Nat
  sat : Bool
  experts : Nat
  dModel : Nat
  place : Nat
deriving DecidableEq, Repr

/-- How a selection has resolved (R138, R146, R147). -/
inductive Resolution where
  | waiting
  | result (row : List Byte)
  | dropped
  | abandoned
  | discarded
deriving DecidableEq, Repr

/-- One entry of a token: expert, gate and resolution. -/
structure EduEntry where
  expert : Nat
  gate : Nat
  res : Resolution
deriving DecidableEq, Repr

/-- One token of a DISPATCH: exited, its entries in position order, poisoned by an abandonment, whether its combined
row is written, and whether the write of that row was turned away. -/
structure EduToken where
  exited : Bool
  entries : List EduEntry
  poisoned : Bool
  written : Bool
  barred : Bool
deriving DecidableEq, Repr

/-- A DISPATCH the EDU has accepted: its tag, queue, job, the descriptor's scratch offset, its layer as read, its combined
rows, its done counter, the cycle of its acceptance and its tokens. -/
structure EduDispatch where
  tag : Nat
  q : QueueId
  job : Nat
  offset : Nat
  cfg : EduLayer
  ret : Nat
  doneSpace : Nat
  doneIdx : Nat
  atCycle : Nat
  tokens : List EduToken
deriving DecidableEq, Repr

/-- A selection held at its home: where it came from, its instance, its token row, the defer count, and the boundary from
which it may be grouped. `core` and `offset` are known for this module's own DISPATCHes. `slot` says that it
holds a row slot, `gone` that it was abandoned while it stands in its batch. -/
structure EduSelection where
  source : Nat
  core : Nat
  tag : Nat
  token : Nat
  pos : Nat
  layer : Nat
  inst : Nat
  job : Nat
  offset : Nat
  row : List Byte
  deferred : Nat
  spilled : Bool
  eligible : Nat
  slot : Bool
  gone : Bool
deriving DecidableEq, Repr

/-- A batch of an instance (R143, R144): its selections in order, its half, the set it was grouped under, what its
mailboxes are, and the cycle of its ready signal. -/
structure EduBatch where
  layer : Nat
  inst : Nat
  sels : List EduSelection
  half : Bool
  setB : Bool
  cfg : EduLayer
  lead : Nat
  bufTally : Bool
  inOff : Nat
  outOff : Nat
  cap : Nat
  readyH : Nat
  doneCtr : Nat
  stride : BitVec 48
  readyAt : Option Nat
  gone : Bool                -- abandoned, its increase of done_ctr still to come
deriving DecidableEq, Repr

/-- The parts of a message that have arrived (R370): who sent them, its prefix without the part number, and the bytes of each part. -/
structure EduParts where
  source : Nat
  head : List Word
  got : Table (List Byte)
deriving DecidableEq, Repr

structure Edu where
  active : Bool              -- set B
  switching : Bool
  refused : Bool
  nextTag : Nat
  dispatches : List EduDispatch
  held : List EduSelection
  batches : List EduBatch    -- oldest first
  halves : Table Bool        -- half of the next batch of an instance: layer × 1024 + instance
  pulses : Table Nat         -- total of the increases that signals have given a module counter
  seen : Table Nat           -- total of a done counter already taken for an instance: (layer × 1024 + instance) × 256 + counter
  parts : List EduParts
deriving DecidableEq, Repr

def Edu.reset : Edu :=
  { active := false, switching := false, refused := false, nextTag := 0, dispatches := [], held := [], batches := [],
    halves := [], pulses := [], seen := [], parts := [] }

end Sys2Proof.Machine
end

