-- ==== Sys2Proof/Machine/LaserState.lean ====
section
/-! DEFINITION. The parts of the state that the laser cartridges and the photonic calibration give the module. -/

namespace Sys2Proof.Machine

/-- Health of a cartridge. -/
inductive Health where
  | good | fading | unfit | failed
deriving DecidableEq, Repr

def Health.code : Health → Nat
  | .good => 0 | .fading => 1 | .unfit => 2 | .failed => 3

/-- A cartridge beyond its unit: presence, serial number, health, its spare condition (0 HOT, 1 WARM, 2 COLD) and whether it
is being brought to HOT, its internal monitor against factory nominal (0.01 dB), the refused bit, what has been logged of the
present fade, and whether it stops once its planes are withdrawn (R288). -/
structure Cartridge where
  present : Bool
  serial : Word
  health : Health
  cond : Nat
  warming : Bool
  monitor : Int
  refused : Bool
  crit : Bool
  noSwap : Bool
  leave : Bool
deriving DecidableEq, Repr

/-- A plane's feed: its source (true: the odd cartridge of the quadrant) and the source LAS_QUADq_STAT shows, the samples of
its tap since its source last changed (0.05 dB, newest first), their average (0.01 dB), its path fault, the source its switch
has been commanded to, whether the command is the one back after a switch failure, whether the switch waits for a spare to
become fit, and whether the plane is to be re-enabled once it is OFF. -/
structure Feed where
  src : Bool
  shown : Bool
  samples : List Int
  average : Int
  pathFault : Bool
  moving : Option Bool
  backed : Bool
  waits : Bool
  again : Bool
deriving DecidableEq, Repr

/-- The swap states of LAS_QUADq_STAT. -/
inductive SwapState where
  | idle | prepare | moving | gap | allAtOnce | reverting
deriving DecidableEq, Repr

def SwapState.code : SwapState → Nat
  | .idle => 0 | .prepare => 1 | .moving => 2 | .gap => 3 | .allAtOnce => 4 | .reverting => 5

/-- A quadrant: its swap, the source its planes move to, the plane under way, the boundary at which the next plane starts, and
whether its planes are re-enabled together (R282, R287). -/
structure Quadrant where
  swap : SwapState
  target : Bool
  plane : Option (Fin 16)
  gapEnd : Option Nat
  together : Bool
  refused : Bool
deriving DecidableEq, Repr

structure Laser where
  carts : Table Cartridge
  feeds : Table Feed
  quads : Table Quadrant
  nominals : List ((Word × Fin 16) × Int)    -- by cartridge serial and plane
deriving DecidableEq, Repr

/-- A correction that waits for a boundary (R293): quantity, value, size of the change, and the first boundary at which it may take effect
(R37). -/
structure Correction where
  quantity : Nat
  value : Int
  change : Nat
  due : Nat
deriving DecidableEq, Repr

/-- Photonic calibration: the valid sets and those with a failed copy, trims by quantity, what bring-up measured by quantity
where no set is valid, the readings of the photonic-region sensors at bring-up (1/16 °C; none before it), the applied values
that corrections have changed since, the reading each group's applied values were computed at where it is not that of bring-up,
and the corrections waiting. -/
structure Cal where
  valid : Nat
  copyFail : Nat
  trims : Table Int
  measured : Table Int
  start : Option (Table Int)
  applied : Table Int
  at_ : Table Int
  waiting : List Correction
  lastApplied : Nat
deriving DecidableEq, Repr

def Cartridge.reset : Cartridge :=
  { present := true, serial := 0, health := .good, cond := 0, warming := false, monitor := 0, refused := false, crit := false,
    noSwap := false, leave := false }

def Feed.reset : Feed :=
  { src := false, shown := false, samples := [], average := 0, pathFault := false, moving := none, backed := false,
    waits := false, again := false }

def Quadrant.reset : Quadrant := { swap := .idle, target := false, plane := none, gapEnd := none, together := false, refused := false }

def Laser.reset : Laser := { carts := [], feeds := [], quads := [], nominals := [] }

def Cal.reset : Cal :=
  { valid := 31, copyFail := 0, trims := [], measured := [], start := none, applied := [], at_ := [], waiting := [], lastApplied := 0 }

end Sys2Proof.Machine
end

