-- ==== Sys2Proof/Machine/StableState.lean ====
section
/-! DEFINITION. The parts of the state that the chapters on attention, the Blinkers engines and the Stable give the
module. -/

namespace Sys2Proof.Machine

/-! ### The Stable (R182 to R214) -/

/-- The states of a stall (R184). -/
inductive StallState where
  | empty | admitted | prefill | decode | parked | evicted | draining
deriving DecidableEq, Repr

def StallState.code : StallState → Nat
  | .empty => 0 | .admitted => 1 | .prefill => 2 | .decode => 3 | .parked => 4 | .evicted => 5 | .draining => 6

/-- The fields of a record that software sets (R182). -/
structure StallImage where
  publish : Bool
  cls : Nat
  pool : Nat
  promptLen : Nat
  maxLen : Nat
  blinkThresh : Nat
  hist : Nat              -- history base, a module-local address
  groups : Nat            -- G − 1
  layers : Nat            -- L − 1
  pubLimit : Nat
  out : Nat               -- output ring base, a host bus address
  outLog2 : Nat
  outSig : Bool
  hostCtr : Nat
  user : List Word        -- words 32 to 63
deriving DecidableEq, Repr

/-- An eviction or a recall under way (R211, R213), with the command it completes: its ring and slot, and whether an access of the
extent has failed. `pages` are the pages an eviction has written, in order, each with the address of its table entry. Of an extent in
another module, `left` accesses have had no response yet, and `parts` is what the loads have returned. -/
structure StallMove where
  isRecall : Bool
  bad : Bool
  command : Option (Nat × BitVec 16)
  pages : List (Nat × Nat)
  left : Nat
  parts : List (Nat × List Byte)
deriving DecidableEq, Repr

/-- A stall record (R182), with what its state machine holds beside it: the state it enters at the next boundary, the
image, stride, job and boundary an ADMIT left while it drains, a RELEASE that waits for the prefix lookup, the step counter's value
when its RELEASE was applied, the boundary of its admission or rebuild, the boundary at which it was parked, a history
copy its first COMMIT makes, and a move of its pages. -/
structure Stall where
  st : StallState
  rp : Bool
  rebuild : Bool
  hostPark : Bool
  img : StallImage
  job : Nat
  specW : Nat
  seqLen : Nat
  histLen : Nat
  root : Nat
  outTail : Word
  admitStride : BitVec 48
  attached : Nat
  skips : Nat
  held : Nat
  tent : List Word
  next : Option StallState
  kept : Option (StallImage × BitVec 48 × Nat × Nat)
  release : Bool
  drainAt : Word
  startedAt : Nat
  parkedAt : Nat
  histFrom : Option Nat
  waits : Bool                    -- a rebuild held until its history reads clean (R238)
  reported : List (Nat × Nat × Nat)   -- page group, first position and count reported of the last layer (R193)
  move : Option StallMove
deriving DecidableEq, Repr

/-- A page request of an ATTEND (R163, R192). -/
structure PageRequest where
  q : QueueId
  index : BitVec 16
  stall : Nat
  layer : Nat
  grp : Nat
  page : Nat
deriving DecidableEq, Repr

/-- Positions a core has appended (R163, R193). -/
structure AppendReport where
  stall : Nat
  layer : Nat
  grp : Nat
  first : Nat
  count : Nat
deriving DecidableEq, Repr

/-- A command made present by a tail write: its ring, its index and the boundary from which it may be applied
(R204). -/
structure StableCommand where
  ring : Nat
  index : BitVec 16
  due : Nat
deriving DecidableEq, Repr

/-- The Stable manager. -/
structure Stable where
  stalls : Table Stall
  refs : Table Nat                -- references of a pool page (R191); unlisted: none
  frames : List Nat               -- table-pool frames in use
  requests : List PageRequest
  refused : List (QueueId × BitVec 16)
  reports : List AppendReport
  commands : List StableCommand   -- in arrival order of their tail writes
  planNum : Option Nat            -- number of the latest published plan
  planInForce : Option Nat        -- of the plan in force (R207)
  stepSeen : Word                 -- value of step_ctr at the last publication
  planDue : Bool                  -- a plan is published at this boundary
  onAt : Nat                      -- boundary at which the manager entered ON (R207)
deriving DecidableEq, Repr

/-! ### The Blinkers engines (R169 to R181) -/

inductive BlinkMode where
  | normal | recal | failed
deriving DecidableEq, Repr

def BlinkMode.code : BlinkMode → Nat
  | .normal => 0 | .recal => 1 | .failed => 2

/-- A request of a BLINK. -/
structure BlinkRequest where
  q : QueueId
  job : Nat
  headGrp : Nat
  layer : Nat
  stall : Nat
  tint : Nat
  k : Nat
  sketch : Nat
  list : Nat
  doneSpace : Nat
  doneIdx : Nat
  left : Bool                -- its core has left ON since
deriving DecidableEq, Repr

/-- One engine: its requests, oldest first, and the list formed for the request in progress (status and entries). -/
structure Engine where
  mode : BlinkMode
  requests : List BlinkRequest
  formed : Option (Nat × List Nat)
  hot : Bool                      -- a sensor beside it holds it out of NORMAL (R177)
  peak : Nat
  recalFail : Nat
  ebits : List Nat                -- measured effective bits by tint, in 1/8 bit
  lastCheck : Nat                 -- boundary of the last drift check
deriving DecidableEq, Repr

/-- Requests of an engine still queued: the one being scored is not among them (R173, R181). -/
def Engine.waiting (x : Engine) : Nat := x.requests.length - (if x.formed.isSome then 1 else 0)

structure Blinkers where
  e0 : Engine
  e1 : Engine
deriving DecidableEq, Repr

/-! ### Reset values -/

def StallImage.reset : StallImage :=
  { publish := false, cls := 0, pool := 0, promptLen := 0, maxLen := 0, blinkThresh := 0, hist := 0, groups := 0,
    layers := 0, pubLimit := 0, out := 0, outLog2 := 0, outSig := false, hostCtr := 0, user := List.replicate 32 0 }

def Stall.reset : Stall :=
  { st := .empty, rp := false, rebuild := false, hostPark := false, img := .reset, job := 0, specW := 0, seqLen := 0,
    histLen := 0, root := 0, outTail := 0, admitStride := 0, attached := 0, skips := 0, held := 0,
    tent := List.replicate 8 0, next := none, kept := none, release := false, drainAt := 0, startedAt := 0, parkedAt := 0,
    histFrom := none, waits := false, reported := [], move := none }

def Stable.reset : Stable :=
  { stalls := [], refs := [], frames := [], requests := [], refused := [], reports := [], commands := [],
    planNum := none, planInForce := none, stepSeen := 0, planDue := false, onAt := 0 }

/-- Measured effective bits start at the nominal figures of R170. DESIGN CHOICE, assumption 23: the manual gives a
calibrated value. -/
def Engine.reset : Engine :=
  { mode := .normal, requests := [], formed := none, hot := false, peak := 0, recalFail := 0,
    ebits := [32, 36, 40, 44, 48], lastCheck := 0 }

def Blinkers.reset : Blinkers := { e0 := .reset, e1 := .reset }

end Sys2Proof.Machine
end

