-- ==== Sys2Proof/Machine/State.lean ====
section
/-! DEFINITION. The state of the module, the reasons a step can stop, and the state right after reset. -/

namespace Sys2Proof.Machine

/-- The reasons a step can stop with a fault. The manual gives every command an effect, and an access that the
manual says reaches no storage completes with poison or failure (R26), so there is none. -/
inductive Fault where
deriving DecidableEq, Repr

/-- The reasons a command is refused. -/
inductive Refusal where
  /-- Raised by `exec` for a command that has no meaning yet. Safe: the model stops. -/
  | notModelled (mnemonic : String)
deriving DecidableEq, Repr

/-- An effect that a register write or a command leaves for a later boundary (R37, R511). -/
inductive Effect where
  /-- An enable, disable or reset write of a unit (R453). -/
  | unitEnable (u : UnitId)
  | unitDisable (u : UnitId)
  | unitReset (u : UnitId)
  /-- A unit that has failed stops, or is OFF at once (R452, R455). -/
  | unitFail (u : UnitId) (atOnce : Bool)
  /-- The bits `mask` of a register come into force with the value `val` (R544). -/
  | live (key : Nat) (mask : Word) (val : Word)
  /-- The enable of a fault ring is judged (R528). -/
  | faultRing (job : Nat) (on : Bool)
  | queueEnable (q : QueueId) (on : Bool)
  | queueResume (q : QueueId) (skip : Bool)
  | counterInit (c : CounterId) (value : Word) (job fn : Nat)
  | counterFree (c : CounterId)
  | counterSet (c : CounterId) (value : Word)
  | revoke (job : Nat)
  | keyBind (job tag : Nat)
  | levelGrant (level : Nat)
  | zeroise
  | powerTarget (t : Nat)
  | groomSwitch
  | reckonerReset (mask : Nat) (zeroise : Bool)
  /-- A partial reset of one Reckoner that the Farrier makes (R315, R460). -/
  | farrierReset (r : Fin 8)
  | eduSwitch
  | ingress (index : Nat) (w0 w1 w2 : Word)
  | laneRetrain (b : Fin 4) (l : Fin 32)
  | laneResume (b : Fin 4) (l : Fin 32)
  /-- A plane withdrawn by the laser controller, and its return (R267, R268, R278). -/
  | planeOut (p : Fin 16)
  | planeIn (p : Fin 16)
  /-- A die-to-die lane leaves its bundle's working map (R319). -/
  | bundleLane (key lane spare : Nat)
  /-- The enables of an uplink's rings (R390, R394). -/
  | uplinkTx (u : Fin 16) (on : Bool)
  | uplinkRx (u : Fin 16) (on : Bool)
deriving DecidableEq, Repr

/-- What the module sends to the outside world, newest last in `State.out`. -/
inductive Msg where
  | regData (src : Source) (off : Nat) (val : Word)
  | nack (src : Source) (off : Nat)
  | unsupported (fn : Fin 64) (off : Nat)
  /-- An access of host memory, with the function whose requester ID it carries (R414). -/
  | hostWrite (fn : Nat) (addr : Nat) (data : List Byte)
  | hostRead (fn : Nat) (addr len : Nat)
  | msix (fn vector : Nat)
  /-- A console line (R421, R529): an event-log record with its number. -/
  | console (number : Word) (rec : FaultRecord)
  | uart (text : List Nat)
  | line (slot : SlotId) (flit : List Byte)
  | link (src dst : Fin 64) (words : List Word)
  /-- The line beacon of a granted transmit slot, in each of its six copies (R254, R255). -/
  | lineBeacon (slot : SlotId) (words : List Word)
  /-- A codeword put on a lane, with its lane header and its 40 flits (R396). -/
  | codeword (b : Fin 4) (l : Fin 32) (header : LaneHeader) (flits : List (List Word))
  | rein (words payload : List Word)
  | reinDone (node : Fin 64) (agent tag : BitVec 8) (status : ReinStatus) (words : List Word)
  /-- A completion of a function's request; `ep` marks poisoned data (R416). -/
  | completion (fn : Fin 64) (status : Status) (data : List Byte) (ep : Bool)
  | jtag (status : Status) (data : List Byte)
  /-- An I3C in-band interrupt: GRM_GRADE has changed (R461). -/
  | inBand (grade : Word)
deriving DecidableEq, Repr

/-- The module. `regs` holds the registers that have no structured home, by window offset plus instance × 2^28,
each at the value last written or set; `live` the values in force of registers whose writes take effect at a
boundary. A register neither lists is at its reset value. -/
structure State where
  /-- Commands waiting, first in first out: the model's own. -/
  pending : List Instr
  clk : Clock
  sync : Sync
  regs : Table Word
  live : Table Word
  /-- _LO halves staged and _HI shadows kept for each source (R514). -/
  staged : List ((Source × Nat) × Word)
  shadows : List ((Source × Nat) × Word)
  units : Table (UnitId × UnitRec)
  due : List (Nat × Effect)
  out : List Msg
  mem : Mem
  dram : MemState
  cores : Table Core
  dies : Table Die
  flt : FaultState
  hitch : Hitch
  groom : Groom
  therm : Thermal
  power : Power
  sec : Security
  link : LinkSec
  snap : Snap
  stb : Stable
  bln : Blinkers
  edu : Edu
  drg : Draught
  las : Laser
  cal : Cal
  fab : Fabric
  brd : Bridle
  pci : Pci
  mgmt : Mgmt
  rein : List ReinRequest
  sup : Supplies
  /-- Requests to other modules that wait for a Bridle. -/
  toIssue : List RemoteReq
  /-- Free values taken so far: the model's own counter for values the manual leaves open. -/
  freeCount : Nat
  /-- Numbers given to transactions so far: the model's own. -/
  nextId : Nat
deriving DecidableEq, Repr

/-! ### Reset values of the parts -/

def Queue.reset : Queue :=
  { enable := false, on := false, ringLog2 := 0, cplLog2 := 0, job := 0, base := 0, tail := 0, head := 0,
    cplLo := 0, cplHi := 0, cplTail := 0, cplHead := 0, st := .disabled, lastStatus := 0, haltIndex := 0, pc := 0,
    fetched := none, exec := [], loops := [], wait := none, ending := [] }

def Core.reset : Core :=
  { bcastRx := true, zeroise := true, spare := false, selected := false,
    q0 := .reset, q1 := .reset, q2 := .reset, q3 := .reset, txMeter := 0, rxMeter := 0, meterAt := 0, mover := [], drainMem := [],
    drain := false,
    load := .idle, fwMap := 0, fwLast := 0, repairs := 0, failCode := 0, owes := none, subst := none }

def Die.reset : Die :=
  { westGait := 0, eastGait := 0, westThrottle := 0, eastThrottle := 0, westDue := 0, eastDue := 0, split := false, shareWest := 0,
    shareEast := 0, mismatch := false, fieldRestart := none, fieldRestartE := none,
    resetOnce := false, zeroiseReset := false, resetting := false, restartAt := none, farrier := false, together := 0 }

def Stack.reset : Stack :=
  { lost := false, refused := false, burst := none, burstFails := [], burstLeft := 0, lastBurst := 0,
    lastTemp := 0, retrains := 0, lastRetrain := 0, softRepairs := 0, spareLeft := 0, fastRefresh := false,
    hot := false, ueStride := 0, repairs := [], rowCount := [], rfm := [] }

def Counter.reset : Counter :=
  { value := 0, st := .free, job := 0, fn := 0, cause := 0, gen := 0, arm := false, cmp := 0, vector := 0,
    thresh := 0, mirSeq := 0, mirLast := none, mirDirty := false }

def Sensor.reset : Sensor := { temp := 0, level := 0, bad := false, contrib := 0, near := [] }

def Rate.reset : Rate := { hottest := 0, history := [], rise := 0, level := 0, calm := 0 }

def KeySlot.reset : KeySlot := { key := [], gen := 0 }

def MemState.reset : MemState :=
  { lines := [], slotMeta := [], slotClean := [], lineErr := [], tallyErr := [], map := .normal, gone := none, lossAt := none, newPoison := [],
    retired := false, second := none, fillDone := false, topHole := false, reserveLocked := false, warned := [],
    stk := [], repaired := [], spares := [], windowEnd := none, drainOld := false }

def Hitch.reset : Hitch :=
  { ctrs := [], staged := 0, flight := [], watches := [], releases := [], orphans := [], slots := [],
    answers := [] }

/-- The fuse map's designated spares are row 12 of each die, as in the worked example of R440; no unit is marked
bad. DESIGN CHOICE, assumption 3. -/
def Groom.reset : Groom :=
  { phase := 0, active := false, slotB := false, elapsed := 0, ready := false, fatal := false, role0 := .dual,
    role1 := .dual, restarts0 := [], restarts1 := [], epoch := 0, seq := 0, journal := [], switchovers := 0,
    restart0 := 0, restart1 := 0, outVersion := 0, outIndex := 0, rollback := 0, fuseBad := [],
    fuseSpares := (List.range 16).map (192 + ·), fuseSliceBad := [], fuseRings := [], fieldFail := [],
    sliceDown := [], sliceUe := [], yieldCnt := [], bootCfg := 0x80000004, clearList := false, fuseLanes := [], bundles := [], swaps := [],
    waiting := [], noSpare := [], engineRetry := [], bundleFail := [], lastCheck := [], checkNext := [],
    alert := false, overlap := false, halt0 := false, halt1 := false, boot := 0 }

def Thermal.reset : Thermal :=
  { sensors := [], rates := [], cool := [], shut := [], inRange := 0, trip := false, hold := false }

def Power.reset : Power :=
  { avg1s := 0, avg10ms := 0, throttle := 0, emergency := none, hitLogged := false, sinceStep := 0, state := 0,
    target := 0, moving := none, stepAt := 0, refused := false }

/-- Lifecycle DEPLOYED, no provisioned keys. DESIGN CHOICE, assumption 4. -/
def Security.reset : Security :=
  { lifecycle := 2, otp := 2, lcTarget := 0, lcPending := false, level := 0, zeroising := false, zeroWait := none,
    zeroPower := 0, revokeTo := none, lcRequest := false, authFail := 0, fails := 0, lockout := none, challenge := none,
    request := 0, readFifo := [], writeFifo := [], dbgStatus := 0, rootHash := [], debugHash := [], deviceKey := 0,
    serial := 0, slots := [], keyStatus := 0 }

def State.reset : State :=
  { pending := [],
    clk := { stride := 0, cycle := 0, len := 1024, bnd := 0, base := 0 },
    sync := { st := .alone, master := 0, offset := 0, lockedFor := 0, masterSilent := 0, lost := none, changed := none, step := false,
              rebase := none, beacons := [] },
    regs := [], live := [], staged := [], shadows := [], units := [], due := [], out := [], mem := [],
    dram := .reset, cores := [], dies := [],
    flt := { log := [], written := 0, flight := [], deferred := [], deferLost := 0, recordAt := [] },
    hitch := .reset, groom := .reset, therm := .reset, power := .reset, sec := .reset,
    link := { on := false, key := false, pending := none, stEnable := false, stKey := false, status := 0 },
    snap := { held := false, skewed := false, immediate := false, bndPend := none, rackPend := none, rackSend := false, source := 0,
              missed := 0, stride := 0, areas := [], trigOut := 0, frame := none, trigIn := true },
    stb := .reset, bln := .reset, edu := .reset, drg := .reset, las := .reset, cal := .reset, fab := .reset, brd := .reset, pci := .reset,
    mgmt := { offset := 0 }, rein := [], sup := .reset, toIssue := [], freeCount := 0, nextId := 0 }

end Sys2Proof.Machine
end

