-- ==== Sys2Proof/Machine/Ops.lean ====
section
/-! DEFINITION. The named operations on the state: time, registers, memory bytes, fault records, outgoing
messages. -/

namespace Sys2Proof.Machine

/-! ### Time -/

/-- Stride cycles elapsed since the stride clock locked. -/
def State.now (s : State) : Nat := s.clk.base + s.clk.cycle

/-- The state with the stride cycle advanced to `c`, never back and never past the end of the stride. -/
def State.advance (s : State) (c : Nat) : State :=
  { s with clk := { s.clk with cycle := min (max s.clk.cycle c) (s.clk.len - 1) } }

/-- The boundary at which a write that takes effect "at the boundary" does so (R37). -/
def State.dueBoundary (s : State) : Nat :=
  if s.clk.cycle < s.clk.len - 128 then s.clk.bnd + 1 else s.clk.bnd + 2

/-- An effect left for the boundary of R37, in arrival order (R511). -/
def State.schedule (s : State) (e : Effect) : State := { s with due := s.due ++ [(s.dueBoundary, e)] }

/-- An effect left for the next boundary. -/
def State.scheduleNext (s : State) (e : Effect) : State := { s with due := s.due ++ [(s.clk.bnd + 1, e)] }

/-- A message sent. -/
def State.emit (s : State) (m : Msg) : State := { s with out := s.out ++ [m] }

/-- A write to host memory on the posted-write path (R339). While the link is down it is discarded and counted, and
still counts as acknowledged (R413). -/
def State.hostMessage (s : State) (m : Msg) : State :=
  if (s.regs.getD Reg.PCI_LINK_STAT 0).field 31 29 = 2 then s.emit m
  else
    let v := (s.regs.getD (Reg.PCI_CNT_n + 16) 0).toNat + 1
    { s with regs := s.regs.put (Reg.PCI_CNT_n + 16) (BitVec.ofNat 32 (min v (2 ^ 32 - 1))) }

/-- The function whose requester ID an access of a job to host memory carries (R414): the lowest that is bound to the job, or the PF. -/
def State.requester (s : State) (job : Nat) : Nat :=
  ((List.range 64).find? fun fn => (s.live.getD (fn * 2 ^ 28 + Reg.PCI_FN_JOB) 0).field 11 0 == job).getD 0

def State.hostWrite (s : State) (job a : Nat) (bs : List Byte) : State := s.hostMessage (.hostWrite (s.requester job) a bs)

/-- An MSI-X vector of a function (R417), kept by function × 2,048 + vector. -/
def State.msixEntry (s : State) (fn vector : Nat) : MsixEntry := s.pci.msix.getD (fn * 2048 + vector) .reset
def State.setMsix (s : State) (fn vector : Nat) (e : MsixEntry) : State :=
  { s with pci := { s.pci with msix := s.pci.msix.put (fn * 2048 + vector) e } }

/-- The MSI-X message of a vector (R338): while the vector is masked it stays pending. The layout of an entry is that of PCI Express.
PRESUMED, assumption 43. -/
def State.sendMsix (s : State) (fn vector : Nat) : State :=
  let e := s.msixEntry fn vector
  if (e.words.getD 3 1).bit 0 then s.setMsix fn vector { e with pending := true } else s.hostMessage (.msix fn vector)

/-- A free value of the module, and the state that has used it up. -/
def State.takeFree (s : State) : Nat × State :=
  (Config.freeValue s.freeCount, { s with freeCount := s.freeCount + 1 })

/-! ### Bytes -/

/-- What a byte of module memory that nothing has written reads as: 0. The start leaves DRAM, every good Tally
slice and every scratch at zero (R424 step 14, R433). Assumption 5. -/
def unlistedByte : Byte := 0

/-- One byte of memory. -/
def Mem.byte (m : Mem) (a : Nat) : Byte := Table.getD (α := Byte) m a unlistedByte

/-- Memory with one byte written, in canonical form: an entry equal to the unlisted value is not listed. -/
def Mem.setByte (m : Mem) (a : Nat) (v : Byte) : Mem :=
  if v = unlistedByte then Table.drop m a else Table.put m a v

/-- `n` bytes from address `a` up. -/
def Mem.bytes (m : Mem) (a n : Nat) : List Byte := (List.range n).map fun i => m.byte (a + i)

/-- Memory with the bytes `bs` written from address `a` up. -/
def Mem.setBytes (m : Mem) (a : Nat) : List Byte → Mem
  | [] => m
  | b :: bs => Mem.setBytes (m.setByte a b) (a + 1) bs

/-- The canonical form of memory: addresses strictly rising and no entry equal to the unlisted value. -/
def Mem.wf (m : Mem) : Bool := Table.sorted m && m.all fun c => c.2 != unlistedByte

/-- The words of a list of bytes. -/
def wordsOf : List Byte → List Word
  | a :: b :: c :: d :: t => BitVec.ofNat 32 (leNat [a, b, c, d]) :: wordsOf t
  | _ => []

/-- The bytes of a list of words. -/
def bytesOf (ws : List Word) : List Byte := ws.flatMap fun w => natLe w.toNat 4

/-- A 32-bit word of memory. -/
def Mem.word (m : Mem) (a : Nat) : Word := BitVec.ofNat 32 (leNat (m.bytes a 4))

/-- The word the module gives for every word of the poison line (R26). -/
def poisonWord : Word := 0xFFC00BAD

/-- `n` bytes of the poison line. -/
def poisonBytes (n : Nat) : List Byte :=
  (List.range n).map fun i => BitVec.ofNat 8 (poisonWord.toNat / 256 ^ (i % 4))

/-- The state with the bytes `bs` of memory written from address `a` up. -/
def State.poke (s : State) (a : Nat) (bs : List Byte) : State := { s with mem := s.mem.setBytes a bs }

/-! ### Registers -/

/-- One instance of a register behind a selector is kept this far above the next. -/
def bankStep : Nat := 2 ^ 28

/-- The page of a window slot: type, instance, and whether its header has a unit (R523). -/
def pageOfSlot (slot : Nat) : Option (Nat × Nat × Bool) :=
  match flatPages.find? fun p => p.slot ≤ slot && slot < p.slot + p.count with
  | some p => some (p.type, slot - p.slot, p.hasUnit)
  | none =>
    if 0x100 ≤ slot ∧ slot < 0x180 then
      let r := (slot - 0x100) / 16
      let k := slot % 16
      if k = 0 then some (0x14, r, true)
      else if k = 1 then some (0x15, r, false)
      else if k ≤ 14 then some (0x16, 16 * r + (k - 2), false)
      else none
    else none

/-- The slot of a page by type and instance (R523). -/
def slotOfPage (t i : Nat) : Nat :=
  if t = 0x14 then 0x100 + 16 * i
  else if t = 0x15 then 0x101 + 16 * i
  else if t = 0x16 then 0x102 + i
  else match flatPages.find? fun p => p.type == t with
    | some p => p.slot + i
    | none => 0

/-- The BLK_ID word of a page (R515). -/
def blockId (t i : Nat) : Word := BitVec.ofNat 32 (t * 65536 + i * 256 + 1)

/-- Whether a register definition covers a page offset. -/
def RegDef.covers (d : RegDef) (off : Nat) : Bool :=
  if d.count = 1 then off == d.off
  else decide (d.off ≤ off) && decide ((off - d.off) % d.step = 0) && decide ((off - d.off) / d.step < d.count)

/-- The register at an offset of a page of type `t`. -/
def findReg (t off : Nat) : Option RegDef :=
  (if off < 0x100 then regsPage0 else regsOfPage t).find? fun d => d.covers off

/-- The word of a register's reset values. -/
def RegDef.resetWord (d : RegDef) : Word :=
  BitVec.ofNat 32 ((d.fields.map fun f => putBits f.hi f.lo f.reset).sum)

/-- The reset value of the register at a window offset; 0 where there is none. -/
def regReset (off : Nat) : Word :=
  match pageOfSlot (off / 4096) with
  | none => 0
  | some (t, _, _) =>
    match findReg t (off % 4096) with
    | none => 0
    | some d => d.resetWord

/-- A register as last written or set. -/
def State.reg (s : State) (key : Nat) : Word := s.regs.getD key (regReset (key % bankStep))

/-- Bits [hi:lo] of a register as last written or set. -/
def State.regF (s : State) (key hi lo : Nat) : Nat := (s.reg key).field hi lo

/-- Bits [hi:lo] of a register in force (R37, R544). -/
def State.liveF (s : State) (key hi lo : Nat) : Nat :=
  (s.live.getD key (regReset (key % bankStep))).field hi lo

def State.setReg (s : State) (key : Nat) (w : Word) : State := { s with regs := s.regs.put key w }

def State.setRegF (s : State) (key hi lo v : Nat) : State := s.setReg key ((s.reg key).setField hi lo v)

def State.setLive (s : State) (key : Nat) (w : Word) : State := { s with live := s.live.put key w }

/-- A selected instance of a register. -/
def bank (i off : Nat) : Nat := i * bankStep + off

/-- A bit of a page's BLK_IRQ_STAT set (R515). -/
def State.setIrq (s : State) (slot bit : Nat) : State := s.setRegF (slot * 4096 + 0x10) bit bit 1

/-- The page's interrupt is asserted (R517). -/
def State.irqAsserted (s : State) (slot : Nat) : Bool :=
  decide (s.reg (slot * 4096 + 0x10) &&& s.reg (slot * 4096 + 0x14) ≠ 0)

/-- A 32-bit RC counter raised by `n`, saturating; reaching the end sets the page's sat bit (R515). -/
def State.bump (s : State) (key n : Nat) : State :=
  let v := (s.reg key).toNat + n
  if v < 2 ^ 32 then s.setReg key (BitVec.ofNat 32 v)
  else (s.setReg key (BitVec.allOnes 32)).setIrq (key % bankStep / 4096) 3

/-! ### Snapshot triggers (R506, R507) -/

/-- The first stride number that is a multiple of 64 and lies at least 32 boundaries ahead (R507). -/
def rackStride (now : Nat) : Nat := (now + 32 + 63) / 64 * 64 % 2 ^ 48

/-- The first Hitch slot that starts at or after a cycle (R312): slots start at the stride cycles that are multiples of 8, those of the
next stride counted from its own cycle 0. -/
def State.slotAt (s : State) (t : Nat) : Nat :=
  let o := 8 * ceilDiv (t - s.clk.base) 8
  if o < s.clk.len then s.clk.base + o
  else s.clk.base + s.clk.len + 8 * ceilDiv (t - (s.clk.base + s.clk.len)) 8

/-- The end of the present stride. -/
def State.strideEnd (s : State) : Nat := s.clk.base + s.clk.len

/-- The clock at a cycle of the present stride, where that lies ahead. -/
def State.advanceTo (s : State) (t : Nat) : State := s.advance (t - s.clk.base)

/-- The hubs of Hitch (R311): 0 to 7 those of the Reckoners, then those of the engines, of the Grooms and of Bridle B0. -/
def hitchHubs : Nat := 13

/-- Frames delivered to a hub in a Hitch slot (R312). -/
def State.slotLoad (s : State) (slot hub : Nat) : Nat := s.hitch.slots.getD (slot * 16 + hub) 0

/-- One more frame delivered to a hub in a slot. Slots that are over and that no frame on its way was launched in are forgotten. -/
def State.loadSlot (s : State) (slot hub : Nat) : State :=
  let old := s.hitch.flight.foldl (fun m f => min m f.slot) (s.now - 8)
  { s with hitch := { s.hitch with
      slots := (Table.put s.hitch.slots (slot * 16 + hub) (s.slotLoad slot hub + 1)).filter fun e => decide (min old slot ≤ e.1 / 16) } }

/-- A SNAP frame launched in the next Hitch slot, to every hub (R312, R314). -/
def State.launchSnap (s : State) (source : Nat) : State :=
  if s.snap.frame.isSome then s
  else
    let slot := s.slotAt (s.now + 1)
    (List.range hitchHubs).foldl (fun s hub => s.loadSlot slot hub) { s with snap := { s.snap with frame := some (source, slot) } }

/-- A trigger in the given mode (0 immediate, 1 boundary, 2 rack; 3 acts as 1) from the given source. While the
areas are held or a rack latch is pending it is not taken and counts as missed. The ADD32 of a rack
trigger are sent by `State.sendRack`. -/
def State.trigger (s : State) (mode source : Nat) : State :=
  if s.snap.held || s.snap.rackPend.isSome then
    { s with snap := { s.snap with missed := min (s.snap.missed + 1) 65535 } }
  else match mode with
    | 0 => s.launchSnap source
    | 2 => { s with snap := { s.snap with rackPend := some (rackStride s.clk.stride.toNat, 3), rackSend := true } }
    | _ => { s with snap := { s.snap with bndPend := some (s.snap.bndPend.getD source) } }

/-- The multiple of 64 nearest a stride number whose bits [20:6] equal the amount of a rack trigger (R507). -/
def rackNearest (now amount : Nat) : Nat :=
  let ahead := (amount % 32768 * 64 + 2 ^ 21 - now % 2 ^ 21) % 2 ^ 21
  (if ahead < 2 ^ 20 then now + ahead else now + 2 ^ 48 + ahead - 2 ^ 21) % 2 ^ 48

/-- A rack trigger that comes from another module (R507): the latch at its stride S. -/
def State.rackArrive (s : State) (amount : Nat) : State :=
  if s.snap.held || s.snap.rackPend.isSome then
    { s with snap := { s.snap with missed := min (s.snap.missed + 1) 65535 } }
  else { s with snap := { s.snap with rackPend := some (rackNearest s.clk.stride.toNat amount, 4) } }

/-! ### Fault records (R524 to R529) -/

/-- Both event-log sensors read between 0 °C and 85 °C (R482). -/
def State.logInRange (s : State) : Bool :=
  let ok (i : Nat) := let t := (s.therm.sensors.getD (5 * 4096 + i) .reset).temp
    decide (0 ≤ t) && decide (t ≤ 85 * 16)
  ok 94 && ok 95

/-- One record written to the event-log store (R529), and its console line (R421). -/
def State.storeLog (s : State) (r : FaultRecord) : State :=
  { s with flt := { s.flt with log := (s.flt.log ++ [r]).drop (s.flt.log.length + 1 - 16128),
                               written := s.flt.written + 1 },
           out := s.out ++ [.console s.flt.written r] }

/-- A record or fuse write held on the deferred list (R482). -/
def State.defer (s : State) (r : Deferred) : State :=
  if s.flt.deferred.length < 256 then
    ({ s with flt := { s.flt with deferred := s.flt.deferred ++ [r] } }).bump (Reg.THM_CNT_n + 24) 1
  else { s with flt := { s.flt with deferLost := min (s.flt.deferLost + 1) 65535 } }

/-- An event-log write under the temperature rule of R482. -/
def State.writeLog (s : State) (r : FaultRecord) : State :=
  if s.logInRange && s.flt.deferred.isEmpty then s.storeLog r else s.defer (.record r)

/-- The words of a fault record (R524). -/
def FaultRecord.words (r : FaultRecord) : List Word :=
  [BitVec.ofNat 32 (putBits 31 28 r.fault.cls + putBits 27 16 r.fault.code + r.stride.toNat / 2 ^ 32),
   BitVec.ofNat 32 r.stride.toNat, r.source, r.detail]

/-- The fault matches SNP_MATCH (R506). -/
def State.faultMatches (s : State) (f : FaultCode) : Bool :=
  let m := Reg.SNP_MATCH
  let cm := s.regF m 15 12
  let km := s.regF m 11 0
  decide (f.cls &&& cm = (s.regF m 31 28) &&& cm) && decide (f.code &&& km = (s.regF m 27 16) &&& km)

/-- A page has produced a record now. -/
def State.notePage (s : State) (slot : Nat) : State :=
  { s with flt := { s.flt with recordAt := s.flt.recordAt.put slot s.now } }

/-- The record is entered on the page it belongs to (R515, R525). In one Paddock digital cycle the page's error log
keeps the record of lowest class and code (R518): records of one stride cycle fall in one, as does a record that `same` says falls in the
cycle of the last. DESIGN CHOICE, assumption 205. -/
def State.pageRecord (s : State) (r : FaultRecord) (same : Bool) : State :=
  let slot := slotOfPage (r.source.field 31 16) (r.source.field 15 8)
  let b := slot * 4096
  let old := s.reg (b + 0x20)
  let keep := (same || s.flt.recordAt.find? slot == some s.now) && decide (old.field 31 16 ≤ r.fault.cls * 4096 + r.fault.code)
  let s := ((s.notePage slot).bump (b + 0x30) 1).setIrq slot 0
  if keep then s
  else match r.words with
    | [w0, w1, w2, w3] =>
      (((s.setReg (b + 0x20) w0).setReg (b + 0x24) w1).setReg (b + 0x28) w2).setReg (b + 0x2C) w3
    | _ => s

/-- The fault ring of a job: enabled (in force), its size exponent, and the records written and read. -/
def State.ringOn (s : State) (job : Nat) : Bool := s.liveF (bank job Reg.PDK_FLT_LO) 0 0 == 1
def State.ringLog2 (s : State) (job : Nat) : Nat := s.regF (bank job Reg.PDK_FLT_CFG) 20 16
def State.ringUsed (s : State) (job : Nat) : Nat :=
  (s.reg (bank job Reg.PDK_FLT_TAIL) - s.reg (bank job Reg.PDK_FLT_HEAD)).toNat
    + (s.flt.flight.filter fun w => w.job == job).length

/-- A record sent to its job's ring: written in flight, or discarded when the ring is full (R527, R528). -/
def State.toRing (s : State) (job : Nat) (r : FaultRecord) : State :=
  if s.ringUsed job ≥ 2 ^ s.ringLog2 job then s.bump Reg.PDK_FLT_DROP 1
  else { s with flt := { s.flt with flight := s.flt.flight ++ [⟨job, r⟩] } }

/-- A fault record produced now: entered on its page, routed to its job's ring, the event log or both (R526), and
compared with SNP_MATCH. `job` is the job it is raised to, if any; `logged` says that it is also logged. -/
def State.raiseRecord (s : State) (r : FaultRecord) (job : Option Nat) (logged same : Bool) : State :=
  let s := s.pageRecord r same
  let toRing := match job with
    | some j => j != 0 && s.ringOn j
    | none => false
  let s := match job with
    | some j => if toRing then s.toRing j r else s
    | none => s
  let s := if logged || (job.isSome && !toRing) then s.writeLog r else s
  if s.regF Reg.SNP_CTL 24 24 = 1 && s.faultMatches r.fault then s.trigger (s.regF Reg.SNP_CTL 23 22) 1 else s

/-- A fault raised with the stride number of the present stride. -/
def State.raise (s : State) (f : FaultCode) (source : Word) (job : Option Nat) (logged : Bool) (detail : Nat) :
    State :=
  s.raiseRecord ⟨f, s.clk.stride, source, BitVec.ofNat 32 detail⟩ job logged false

/-- A fault raised to a job only. -/
def State.raiseTo (s : State) (f : FaultCode) (source : Word) (job detail : Nat) : State :=
  s.raise f source (some job) false detail

/-- A fault that is logged only. -/
def State.logFault (s : State) (f : FaultCode) (source : Word) (detail : Nat) : State :=
  s.raise f source none true detail

/-- The source block ID of a core fault (R525). -/
def coreBlock (c : CoreId) (q : Nat) : Word :=
  BitVec.ofNat 32 (0x160000 + (16 * c.rkn.val + c.idx.val / 16) * 256 + (c.idx.val % 16) * 16 + q * 4)

def blkPDK := blockId 1 0
def blkGRM := blockId 2 0
def blkPWR := blockId 3 0
def blkTHM := blockId 4 0
def blkSEC := blockId 5 0
def blkLAS := blockId 7 0
def blkCAL := blockId 8 0
def blkHRN := blockId 9 0
def blkREIN := blockId 10 0
def blkHCH := blockId 11 0
def blkEDU := blockId 12 0
def blkSTB := blockId 13 0
def blkBLN (e : Nat) := blockId 0x19 e
def blkFAB := blockId 15 0
def blkPCI := blockId 16 0
def blkBRD (b : Nat) := blockId 17 b
def blkMEM := blockId 18 0
def blkMEMS (i : Nat) := blockId 0x18 i
def blkDRG (p : Nat) := blockId 19 p
def blkRKN (r : Nat) := blockId 20 r
def blkTLY (r : Nat) := blockId 21 r

end Sys2Proof.Machine
end

