-- ==== Sys2Proof/Machine/UnitOps.lean ====
section
/-! DEFINITION. The units of the common state machine (R452 to R455): where each is kept, its parents and
children, and the records of cores, queues, dies and stacks. -/

namespace Sys2Proof

/-- The number under which a unit is kept. -/
def UnitId.code : UnitId → Nat
  | .reckoner r => r.val
  | .field r e => 16 + 2 * r.val + bitOf e
  | .plane p => 64 + p.val
  | .cartridge k => 96 + k.val
  | .stack s => 128 + s.val
  | .bridle b => 160 + b.val
  | .engine e => 168 + e.val
  | .edu => 172
  | .stable => 173
  | .allocator => 174
  | .port p => 192 + p.val
  | .lane b l => 256 + 32 * b.val + l.val
  | .core c => 1024 + c.gid
  | .slot x => 4096 + x.port.val * 256 + x.plane.val * 16 + bitOf x.rx * 8 + x.slot.val

/-- The page whose header shows the unit, where it has one (R523): its slot. -/
def UnitId.page : UnitId → Option Nat
  | .reckoner r => some (0x100 + 16 * r.val)
  | .port p => some (0x80 + p.val)
  | .stack s => some (0x41 + s.val)
  | .bridle b => some (0x34 + b.val)
  | .engine e => some (0x27 + e.val)
  | .edu => some 0x24
  | .stable => some 0x25
  | .allocator => some 0x20
  | _ => none

/-- The west field is columns 0 to 7 (R18). -/
def CoreId.east (c : CoreId) : Bool := decide (8 ≤ c.idx.val % 16)

def allFin (n : Nat) : List (Fin n) := List.finRange n

/-- The parents of a unit (R454). Port 62 and port 63 have no owning unit. -/
def UnitId.parents : UnitId → List UnitId
  | .field r _ => [.reckoner r]
  | .core c => [.field c.rkn c.east]
  | .slot x => [.port x.port, .plane x.plane]
  | .lane b _ => [.bridle b]
  | .port p =>
    if h : p.val < 32 then [.reckoner ⟨p.val / 4, by omega⟩]
    else if h2 : p.val < 56 then [.stack ⟨p.val - 32, by omega⟩]
    else if h3 : p.val < 60 then [.bridle ⟨p.val - 56, by omega⟩]
    else if h4 : p.val < 62 then [.engine ⟨p.val - 60, by omega⟩]
    else []
  | _ => []

/-- The cores of a field. -/
def fieldCores (r : Fin 8) (east : Bool) : List CoreId :=
  ((allFin 208).map fun i => (⟨r, i⟩ : CoreId)).filter fun c => c.east == east

/-- The cores of a die. -/
def dieCores (r : Fin 8) : List CoreId := (allFin 208).map fun i => ⟨r, i⟩

/-- The port of a number below 64. -/
def portOf (n : Nat) : Fin 64 := ⟨n % 64, Nat.mod_lt _ (by decide)⟩

/-- The children of a unit (R454). Slots are not listed: a slot serves while its own unit and both its parents are ON.
DEDUCED, assumption 29. -/
def UnitId.children : UnitId → List UnitId
  | .reckoner r => [.field r false, .field r true] ++ (List.range 4).map fun e => .port (portOf (4 * r.val + e))
  | .field r e => (fieldCores r e).map .core
  | .stack s => [.port (portOf (32 + s.val))]
  | .bridle b => (allFin 32).map (.lane b) ++ [.port (portOf (56 + b.val))]
  | .engine e => [.port (portOf (60 + e.val))]
  | _ => []

/-- The number under which a Hitch counter is kept. -/
def CounterId.code : CounterId → Nat
  | .core c h => c.gid * 64 + h.val
  | .module i => 2 ^ 20 + i.val
  | .host i => 2 ^ 20 + 1024 + i.val

end Sys2Proof

namespace Sys2Proof.Machine

/-- A unit at reset: OFF, its enable at the reset value of its enable field. The own state of a slot is ON; it serves with its
port and plane. -/
def UnitRec.reset (u : UnitId) : UnitRec :=
  { st := match u with
      | .slot _ => .on
      | _ => .off
    rp := false, failed := false, done := false, disable := false, cancel := false, barred := false,
    enable := match u with
      | .field .. => true
      | .slot .. => true
      | .cartridge .. => true
      | .lane _ l => decide (l.val ≠ 26 ∧ l.val ≠ 27)
      | _ => false }

def State.unit (s : State) (u : UnitId) : UnitRec :=
  match s.units.find? (UnitId.code u) with
  | some (_, r) => r
  | none => UnitRec.reset u

/-- A unit's record replaced; a change of its state sets the state bit of its page (R515). -/
def State.setUnit (s : State) (u : UnitId) (r : UnitRec) : State :=
  let old := s.unit u
  let s := { s with units := s.units.put (UnitId.code u) (u, r) }
  match u.page with
  | some slot => if old.st = r.st then s else s.setIrq slot 1
  | none => s

/-- The power state of the module, or the one it is moving to (R486). -/
def State.powerLevel (s : State) : Nat := s.power.moving.getD s.power.state

def State.isOn (s : State) (u : UnitId) : Bool := (s.unit u).st == .on

/-- A write of 1 or 0 to a unit's enable field: the field reads it from now on (R544), the effect waits for its boundary
(R453). -/
def State.requestEnable (s : State) (u : UnitId) : State :=
  (s.setUnit u { s.unit u with enable := true }).schedule (.unitEnable u)
def State.requestDisable (s : State) (u : UnitId) : State :=
  (s.setUnit u { s.unit u with enable := false }).schedule (.unitDisable u)

/-- A core and its queues. -/
def State.core (s : State) (c : CoreId) : Core := s.cores.getD c.gid .reset
def State.setCore (s : State) (c : CoreId) (k : Core) : State := { s with cores := s.cores.put c.gid k }

def Core.queue (k : Core) (q : Fin 4) : Queue :=
  match q with
  | 0 => k.q0
  | 1 => k.q1
  | 2 => k.q2
  | 3 => k.q3

def Core.setQueue (k : Core) (q : Fin 4) (v : Queue) : Core :=
  match q with
  | 0 => { k with q0 := v }
  | 1 => { k with q1 := v }
  | 2 => { k with q2 := v }
  | 3 => { k with q3 := v }

def State.queue (s : State) (q : QueueId) : Queue := (s.core q.core).queue q.q
def State.setQueue (s : State) (q : QueueId) (v : Queue) : State :=
  s.setCore q.core ((s.core q.core).setQueue q.q v)

def State.die (s : State) (r : Fin 8) : Die := s.dies.getD r.val .reset
def State.setDie (s : State) (r : Fin 8) (d : Die) : State := { s with dies := s.dies.put r.val d }

def State.stack (s : State) (k : Fin 24) : Stack := s.dram.stk.getD k.val .reset
def State.setStack (s : State) (k : Fin 24) (v : Stack) : State :=
  { s with dram := { s.dram with stk := s.dram.stk.put k.val v } }

/-- The core with a global core ID, where it names one (R12). -/
def coreOf (gid : Nat) : Option CoreId :=
  if h : gid / 256 < 8 ∧ gid % 256 < 208 then some ⟨⟨gid / 256, h.1⟩, ⟨gid % 256, h.2⟩⟩ else none

def State.ctr (s : State) (c : CounterId) : Counter := s.hitch.ctrs.getD c.code .reset
def State.setCtr (s : State) (c : CounterId) (v : Counter) : State :=
  { s with hitch := { s.hitch with ctrs := s.hitch.ctrs.put c.code v } }

/-! ### Throttles and clocks -/

/-- The throttle of a Bridle's sensors, in per cent (R476). -/
def State.bridleThrottle (s : State) (b : Fin 4) : Nat :=
  (List.range 8).foldl (fun m n => max m (s.therm.sensors.getD (6 * 4096 + b.val * 8 + n) .reset).contrib) 0

/-- A gait's frequency in MHz (R8). -/
def gaitMHz (g : Nat) : Nat := match g with | 0 => 800 | 1 => 1100 | 2 => 1400 | _ => 1600

/-- The core clock of a field in units of 10 kHz: gait frequency × (100 − throttle) (R32). -/
def State.fieldClock (s : State) (r : Fin 8) (east : Bool) : Nat :=
  let d := s.die r
  if east then gaitMHz d.eastGait * (100 - d.eastThrottle) else gaitMHz d.westGait * (100 - d.westThrottle)

/-- The stride cycles that `b` core cycles take on a core (R39). -/
def State.strideCycles (s : State) (c : CoreId) (b : Nat) : Nat :=
  let f := s.fieldClock c.rkn c.east
  if f = 0 then s.clk.len + 1 else ceilDiv (b * 100000) f

end Sys2Proof.Machine
end

