-- ==== Sys2Proof/Machine/Access.lean ====
section
/-! DEFINITION. One access to module memory: the address map (R23 to R27), region tags and scratch ownership
(R501), DRAM lines (R223 to R228, R545), the fold (R234 to R239) and Tally (R215 to R220). -/

namespace Sys2Proof.Machine

/-- Who makes an access: the job it runs under (R501), the core when one of its own queues makes it (it then takes
the core's Tally port to its own slice, R53, and owns its scratch), and the source block ID of its faults. -/
structure Accessor where
  job : Nat
  core : Option CoreId
  block : Word
deriving DecidableEq, Repr

/-- Where the bytes of an access lie (R23). -/
inductive Region where
  | dram
  | tally (c : CoreId)
  | scratch (c : CoreId)
  | hole
deriving DecidableEq, Repr

def tallyBase : Nat := 0x80000000000
def tallyEnd : Nat := 0x81000000000
def scratchBase : Nat := 0xA0000000000
def registerBase : Nat := 0xF0000000000
def dramSize : Nat := 0x12000000000
def dramFolded : Nat := 0x11400000000

/-- The local address of byte `o` of a core's scratch, and of its Tally slice (R24, R25). -/
def scratchAddr (c : CoreId) (o : Nat) : Nat := scratchBase + c.gid * 0x200000 + o
def tallyAddr (c : CoreId) (o : Nat) : Nat := tallyBase + c.gid * 0x2000000 + o

/-- The region an access of `n` bytes at `a` falls in: a hole when any byte of it does (R24 to R27). -/
def State.regionOf (s : State) (a n : Nat) : Region :=
  if a < tallyBase then
    (if a + n ≤ (if s.dram.topHole then dramFolded else dramSize) then .dram else .hole)
  else if a < scratchBase then
    match coreOf ((a - tallyBase) / 0x2000000) with
    | some c =>
      if (a - tallyBase) % 0x2000000 + n ≤ 0x1400000 ∧ c.gid ∉ s.groom.sliceDown then .tally c else .hole
    | none => .hole
  else
    match coreOf ((a - scratchBase) / 0x200000) with
    | some c =>
      if (a - scratchBase) % 0x200000 + n ≤ 0x180000 ∧ (s.unit (.core c)).st ≠ .off then .scratch c else .hole
    | none => .hole

/-- The key tag of a job in force (R228); memory encryption is unavailable in RETURNED (R490). -/
def State.keyTag (s : State) (job : Nat) : Nat :=
  let k := bank job Reg.MEM_KEY_MAP
  if job ≠ 0 ∧ s.sec.lifecycle ≠ 3 ∧ s.liveF k 31 31 = 1 then 4096 + s.liveF k 11 4 * 16 + s.liveF k 3 0 else 0

/-- The region tag of an address in force: mode and owner (R501). -/
def State.regionTag (s : State) (a : Nat) : Nat × Nat :=
  let i := if a < tallyBase then a / 2 ^ 21 else 589824 + (a - tallyBase) / 2 ^ 21
  let k := bank i Reg.SEC_TAG_DATA
  (s.liveF k 15 14, s.liveF k 11 0)

/-- Whether the region tag lets a job load or store (R501). -/
def tagPermits (tag : Nat × Nat) (job : Nat) (store : Bool) : Bool :=
  job == 0 || match tag.1 with
    | 0 => true
    | 1 => job == tag.2
    | 2 => !store || job == tag.2
    | _ => false

/-- A job may use a core's scratch from outside (R501). -/
def State.scratchPermits (s : State) (c : CoreId) (job : Nat) : Bool :=
  job == 0 || (allFin 4).any fun q => let v := (s.core c).queue q; v.on && v.job == job

/-! ### The address hash (R223) -/

def lineGroup (n : Nat) : Nat := n / 24

def foldXor (g : Nat) : Nat :=
  ((List.range 6).map fun b => g / 2 ^ (5 * b) % 32).foldl Nat.xor 0

/-- The stack of a line number. -/
def lineStack (n : Nat) : Fin 24 := ⟨(n % 24 + foldXor (lineGroup n) % 24) % 24, Nat.mod_lt _ (by decide)⟩

/-- The channel of a stack-local index within its stack. -/
def channelAt (g : Nat) : Nat := Nat.xor (Nat.xor g (g / 32)) (g / 1024) % 32

/-- The index within that channel, w. -/
def channelIndex (g : Nat) : Nat := g / 32

/-- The channel of a line number within its stack. -/
def lineChannel (n : Nat) : Nat := channelAt (lineGroup n)

/-- The row of a stack that holds a stack-local index: its channel, and the row there of index w. -/
def rowAt (g : Nat) : Nat := channelAt g + 32 * Config.rowOf (channelIndex g)

/-- The first group of the top range (R235). -/
def topGroup : Nat := 385875968

/-- The slot of a displaced line of group `g` when stack `gone` is lost: the surviving stack that holds it and its
stack-local index there (R235). -/
def slotOf (gone : Fin 24) (g : Nat) : Nat × Nat :=
  let t := g % 23
  ((if t < gone.val then t else t + 1), topGroup + g / 23)

/-- A line of the lost or retired stack. -/
def State.displaced (s : State) (n : Nat) : Bool :=
  match s.dram.gone with
  | some k => lineStack n == k && decide (lineGroup n < topGroup)
  | none => false

/-- Where a line lives: its stack and its stack-local index, those of its slot under the folded map (R223, R235, R236). -/
def State.lineAt (s : State) (n : Nat) : Fin 24 × Nat :=
  match s.dram.gone with
  | some k =>
    if s.displaced n && s.dram.map == .folded then
      (Fin.ofNat 24 (slotOf k (lineGroup n)).1, (slotOf k (lineGroup n)).2)
    else (lineStack n, lineGroup n)
  | none => (lineStack n, lineGroup n)

/-- The stack that holds a line. -/
def State.holder (s : State) (n : Nat) : Fin 24 := (s.lineAt n).1

/-- The row of its stack that holds a line. -/
def State.lineRow (s : State) (n : Nat) : Nat := rowAt (s.lineAt n).2

/-- The port that serves a local address of DRAM, Tally or scratch (R20, R53, R236). Which of a die's four ports that is, is free. -/
def State.servingPort (s : State) (a : Nat) : Fin 64 :=
  if a < tallyBase then portOf (32 + (s.holder (a / 128)).val)
  else
    let r := if a < scratchBase then (a - tallyBase) / 0x2000000 / 256 else (a - scratchBase) / 0x200000 / 256
    portOf (4 * r + Config.tallyPort (a / 128) % 4)

/-- A line is read and written in its slot, after a loss and not after a retirement, which has copied it there. -/
def State.inSlot (s : State) (n : Nat) : Bool := s.displaced n && s.dram.map == .folded && !s.dram.retired

/-- The metadata of a line where it now lives: its own cells, or its slot after a loss, which the fold filled with
stored poison (R236). -/
def State.lineMeta (s : State) (n : Nat) : LineMeta :=
  if s.inSlot n then
    s.dram.slotMeta.getD n ⟨!(s.dram.slotClean.any fun r => decide (r.1 ≤ n) && decide (n < r.2)), 0, []⟩
  else s.dram.lines.getD n ⟨false, 0, []⟩

def State.setLineMeta (s : State) (n : Nat) (v : LineMeta) : State :=
  if s.inSlot n then { s with dram := { s.dram with slotMeta := s.dram.slotMeta.put n v } }
  else if v = ⟨false, 0, []⟩ then { s with dram := { s.dram with lines := s.dram.lines.drop n } }
  else { s with dram := { s.dram with lines := s.dram.lines.put n v } }

def State.setLineErr (s : State) (n e : Nat) : State :=
  { s with dram := { s.dram with lineErr := if e = 0 then s.dram.lineErr.drop n else s.dram.lineErr.put n e } }

/-! ### Encryption (R228) -/

/-- The key pair a job's lines are encrypted with: that of the slot of its tag; empty where it has none. -/
def State.jobKey (s : State) (job : Nat) : List Byte :=
  let t := s.keyTag job
  if t = 0 then [] else (s.sec.slots.getD (t / 16 % 256) .reset).key

/-- What the key pair `new` makes of a line that was written as `bs` under `old`: its ciphertext decrypted again. -/
def rekeyed (old new : List Byte) (n : Nat) (bs : List Byte) : List Byte :=
  if old = new then bs else xtsDecrypt new n (xtsEncrypt old n bs)

/-- The bytes of a line as a job finds them. -/
def State.lineBytes (s : State) (job n : Nat) : List Byte :=
  rekeyed (s.lineMeta n).key (s.jobKey job) n (s.mem.bytes (n * 128) 128)

/-- A line brought under a job's key pair, as a read-modify-write of it does. -/
def State.underKey (s : State) (job n : Nat) : State :=
  let v := s.lineMeta n
  if v.key = s.jobKey job then s
  else (s.poke (n * 128) (s.lineBytes job n)).setLineMeta n { v with key := s.jobKey job }

/-- The stack page of a register of stack `k`. -/
def stackReg (k : Fin 24) (off : Nat) : Nat := off + k.val * 4096

/-- A row becomes a repair candidate (R233). -/
def Stack.candidate (v : Stack) (row : Nat) : Stack :=
  if v.repairs.contains row then v else { v with repairs := v.repairs ++ [row] }

/-- One corrected read counted for its stack and its row, which becomes a repair candidate at MEM_REPAIR_CTL.ce_row (R225, R233). -/
def State.countCorrected (s : State) (n : Nat) : State :=
  let k := s.holder n
  let v := s.stack k
  let row := s.lineRow n
  let m := v.rowCount.getD row 0 + 1
  let v := { v with rowCount := v.rowCount.put row m }
  (s.setStack k (if max 1 (s.regF Reg.MEM_REPAIR_CTL 7 0) ≤ m then v.candidate row else v)).bump (stackReg k Reg.MEM_STK_CE) 1

/-- A stack is lost from now on (R234, R239, R242): its controller answers every request at once, and the loss is logged. The first
loss folds the map at the first boundary at least one whole stride later (R235); so does the loss of a retiring stack that is still
STOPPING, whose copies are abandoned unless all are made. Any other loss after a loss or the start of a retirement is a second
loss. -/
def State.detectLoss (s : State) (k : Fin 24) : State :=
  let v := s.stack k
  if v.lost then s
  else
    let retiring := s.dram.gone = some k ∧ (s.unit (.stack k)).st = .stopping
    let s := (s.setStack k { v with lost := true, burst := none }).setUnit (.stack k)
      { s.unit (.stack k) with failed := true }
    let s := (s.logFault Flt.MEM_STACK_LOST (blkMEMS k.val) k.val).scheduleNext (.unitFail (.stack k) true)
    let due := if s.clk.cycle = 0 then s.clk.bnd + 1 else s.clk.bnd + 2
    if s.dram.gone.isNone ∨ (retiring ∧ s.dram.map = .normal) then
      { s with dram := { s.dram with gone := some k, lossAt := some due, retired := false, fillDone := false } }
    else if retiring then s
    else if s.dram.second.isSome then s
    else { s with dram := { s.dram with second := some k } }

/-- A line found uncorrectable: zeros with stored poison, counted, its row a repair candidate; 64 such lines in one stride
lose the stack (R225, R233, R234). -/
def State.poisonLine (s : State) (n : Nat) : State :=
  let k := s.holder n
  let v := s.stack k
  let s := s.setStack k ({ v with ueStride := v.ueStride + 1 }.candidate (s.lineRow n))
  let s := s.poke (n * 128) (List.replicate 128 0)
  let s := ((s.setLineErr n 0).setLineMeta n ⟨true, 0, []⟩).bump (stackReg k Reg.MEM_STK_UE) 1
  let s := { s with dram := { s.dram with newPoison := n :: s.dram.newPoison } }
  if 64 ≤ v.ueStride + 1 then s.detectLoss k else s

/-- What stands in the way of an access to a line before its cells are read (R234, R236, R239): the fault, and
whether the controller answers at once. -/
def State.lineBlocked (s : State) (n : Nat) : Option FaultCode :=
  if s.dram.map = .failed then some Flt.MEM_SECOND_STACK_LOST
  else if s.dram.map = .folding ∧ s.displaced n then some Flt.MEM_LINE_LOST
  else if (s.stack (s.holder n)).lost then some Flt.MEM_STACK_LOST
  else none

/-- The fault of a blocked line. MEM_STACK_LOST is raised once to each job for each stack lost (R234); stack-level faults carry the
number of the stack. -/
def State.raiseBlocked (s : State) (w : Accessor) (n : Nat) (f : FaultCode) : State :=
  let k := s.holder n
  if f = Flt.MEM_STACK_LOST then
    (if (k.val, w.job) ∈ s.dram.warned then s
     else ({ s with dram := { s.dram with warned := (k.val, w.job) :: s.dram.warned } }).raiseTo f w.block w.job k.val)
  else if f = Flt.MEM_SECOND_STACK_LOST then s.raiseTo f w.block w.job (s.dram.second.getD k).val
  else s.raiseTo f w.block w.job (n * 128 % 2 ^ 32)

/-- The read of one line under an accessor: the state after it, and whether its data may be used (R225). -/
def State.readLine (s : State) (w : Accessor) (n : Nat) : State × Bool :=
  match s.lineBlocked n with
  | some f => (s.raiseBlocked w n f, false)
  | none =>
    let e := s.dram.lineErr.getD n 0
    if 3 ≤ e then ((s.poisonLine n).raiseTo Flt.MEM_UE w.block w.job (n * 128 % 2 ^ 32), false)
    else
      let s := if e = 0 then s else (s.setLineErr n 0).countCorrected n
      let v := s.lineMeta n
      if v.poison then (s.raiseTo Flt.MEM_UE w.block w.job (n * 128 % 2 ^ 32), false)
      else if v.tag ≠ s.keyTag w.job then (s.raiseTo Flt.MEM_KEY_MISMATCH w.block w.job v.tag, false)
      else (s, true)

/-- The write of bytes `bs` at `a`, which lie in one line (R226): a whole line replaces data and tag and clears
stored poison; a part of a line is a read-modify-write. -/
def State.writeLine (s : State) (w : Accessor) (a : Nat) (bs : List Byte) : State × Bool :=
  let n := a / 128
  if a % 128 = 0 ∧ bs.length = 128 then
    match s.lineBlocked n with
    | some f => (s.raiseBlocked w n f, false)
    | none =>
      let s := (s.setLineErr n 0).setLineMeta n ⟨false, s.keyTag w.job, s.jobKey w.job⟩
      (s.poke a bs, true)
  else
    match s.readLine w n with
    | (s, false) => (s, false)
    | (s, true) => ((s.underKey w.job n).poke a bs, true)

/-! ### Tally (R215 to R220) -/

def tallyReg (c : CoreId) (off : Nat) : Nat := off + c.rkn.val * 0x10000

/-- The half of a slice that holds a byte: even 128-byte lines on die A, odd ones on die B (R215). -/
def sliceHalf (c : CoreId) (a : Nat) : Nat := c.gid * 2 + (a - tallyAddr c 0) / 128 % 2

/-- FIELD_FAIL logged: unit class, identifier and test code (chapter "Bring-up"). -/
def State.logFieldFail (s : State) (cls ident code : Nat) : State :=
  s.logFault Flt.FIELD_FAIL blkGRM (putBits 31 29 cls + putBits 28 8 ident + putBits 7 0 code)

/-- One more unit counted in field_fail of GRM_YIELD_STAT. -/
def State.countFieldFail (s : State) (cls inst : Nat) : State :=
  let k := cls * 256 + inst
  let (a, b, c) := s.groom.yieldCnt.getD k (0, 0, 0)
  { s with groom := { s.groom with yieldCnt := s.groom.yieldCnt.put k (a, b, c + 1) } }

/-- A slice half disabled in service once three distinct words of it have been uncorrectable within one scrub
period ("Other substitutions"). -/
def State.noteSliceUe (s : State) (c : CoreId) (word : Nat) : State :=
  let half := sliceHalf c word
  let l := s.groom.sliceUe.getD half []
  let l' := if word ∈ l then l else word :: l
  let s := { s with groom := { s.groom with sliceUe := s.groom.sliceUe.put half l' } }
  if 3 ≤ l'.length ∧ c.gid ∉ s.groom.sliceDown then
    let s := { s with groom := { s.groom with sliceDown := c.gid :: s.groom.sliceDown,
                                              fieldFail := s.groom.fieldFail ++ [0x10000 + half] } }
    let s := ((s.setReg Reg.GRM_FAR_LAST (BitVec.ofNat 32 (putBits 31 29 6 + putBits 26 16 c.gid + 0x7FF))).setReg
      Reg.GRM_FAR_STRIDE (BitVec.ofNat 32 s.clk.stride.toNat))
    (s.logFieldFail 1 half 11).countFieldFail 1 c.rkn.val
  else s

/-- The words of a 64-byte unit. -/
def unitWords (u : Nat) : List Nat := (List.range 8).map fun i => u * 64 + 8 * i

def State.setTallyErr (s : State) (word e : Nat) : State :=
  { s with dram := { s.dram with
      tallyErr := if e = 0 then s.dram.tallyErr.drop word else s.dram.tallyErr.put word e } }

/-- Uncorrectable words that an access of a slice has met: each is counted, and noted for its half (R220). -/
def State.tallyWordsLost (s : State) (c : CoreId) (words : List Nat) : State :=
  words.foldl (fun s a => (s.bump (tallyReg c Reg.TLY_UE) 1).noteSliceUe c a) s

/-- Words of a list that are uncorrectable. -/
def State.badWords (s : State) (l : List Nat) : List Nat := l.filter fun a => decide (2 ≤ s.dram.tallyErr.getD a 0)

/-- The read of one 64-byte Tally unit (R220): single-bit errors are corrected in place and counted; a double-bit
error makes the unit poison. -/
def State.readTallyUnit (s : State) (w : Accessor) (c : CoreId) (u : Nat) : State × Bool :=
  let s := (unitWords u).foldl (fun s a =>
    if s.dram.tallyErr.getD a 0 = 1 then (s.setTallyErr a 0).bump (tallyReg c Reg.TLY_CE) 1 else s) s
  match s.badWords (unitWords u) with
  | [] => (s, true)
  | bad => ((s.raiseTo Flt.TLY_UE w.block w.job (u * 64 % 2 ^ 32)).tallyWordsLost c bad, false)

/-- The write of bytes within one 64-byte Tally unit (R220): whole words clear their errors; a single-bit error of a word written in part is
corrected and counted; a store that writes part of an uncorrectable word fails and changes nothing. -/
def State.writeTallyUnit (s : State) (w : Accessor) (c : CoreId) (a : Nat) (bs : List Byte) : State × Bool :=
  let e := a + bs.length
  let touched := (unitWords (a / 64)).filter fun x => decide (x < e) && decide (a < x + 8)
  let partly := touched.filter fun x => !(decide (a ≤ x) && decide (x + 8 ≤ e))
  match s.badWords partly with
  | [] =>
    let fixed := partly.filter fun x => s.dram.tallyErr.getD x 0 == 1
    let s := (touched.foldl (fun s x => s.setTallyErr x 0) s).bump (tallyReg c Reg.TLY_CE) fixed.length
    (s.poke a bs, true)
  | bad => ((s.raiseTo Flt.TLY_UE w.block w.job (a / 64 * 64 % 2 ^ 32)).tallyWordsLost c bad, false)

/-! ### Whole accesses -/

/-- The pieces of `n` bytes at `a` that lie in separate blocks of `k` bytes: start and length of each. -/
def pieces (k a : Nat) : Nat → Nat → List (Nat × Nat)
  | 0, _ => []
  | fuel + 1, n =>
    if n = 0 then []
    else
      let m := min n (k - a % k)
      (a, m) :: pieces k (a + m) fuel (n - m)

def splitAt (k a n : Nat) : List (Nat × Nat) := pieces k a (n / k + 2) n

/-- The mesh port of a slice serves while its Reckoner and its field are ON (R219). -/
def State.sliceServes (s : State) (c : CoreId) : Bool := s.isOn (.reckoner c.rkn) && s.isOn (.field c.rkn c.east)

/-- What refuses or stops an access before any block of it is touched: the fault, and whether it is refused rather
than failed. -/
def State.accessBar (s : State) (w : Accessor) (a n : Nat) (store : Bool) : Option (FaultCode × Bool) :=
  match s.regionOf a n with
  | .hole => some (Flt.DRG_ADDR_UNMAPPED, false)
  | .dram =>
    if (splitAt 128 a n).all fun p => tagPermits (s.regionTag p.1) w.job store then none
    else some (Flt.SEC_ACCESS_REFUSED, true)
  | .tally c =>
    if w.core ≠ some c ∧ !s.sliceServes c then some (Flt.TLY_SLICE_UNAVAILABLE, false)
    else if (splitAt 128 a n).all fun p => tagPermits (s.regionTag p.1) w.job store then none
    else some (Flt.SEC_ACCESS_REFUSED, true)
  | .scratch c =>
    if w.core = some c ∨ s.scratchPermits c w.job then none else some (Flt.SEC_ACCESS_REFUSED, true)

/-- The worse of two statuses in the order OK, POISON, FAILED (R545). -/
def worse : Status → Status → Status
  | .ok, b => b
  | a, .ok => a
  | .failed, _ => .failed
  | _, .failed => .failed
  | a, _ => a

/-- The unit of memory that holds address `a` read: the state after it, and whether its bytes may be used. -/
def State.readUnit (s : State) (w : Accessor) (r : Region) (a : Nat) : State × Bool :=
  match r with
  | .dram => s.readLine w (a / 128)
  | .tally c => s.readTallyUnit w c (a / 64)
  | _ => (s, true)

/-- Bytes of one unit of memory written: the state after it, and whether they were. -/
def State.writeUnit (s : State) (w : Accessor) (r : Region) (a : Nat) (part : List Byte) : State × Bool :=
  match r with
  | .dram => s.writeLine w a part
  | .tally c => s.writeTallyUnit w c a part
  | _ => (s.poke a part, true)

/-- Bytes of one unit of memory as an accessor finds them. -/
def State.seen (s : State) (w : Accessor) (r : Region) (a n : Nat) : List Byte :=
  match r with
  | .dram =>
    if (s.lineMeta (a / 128)).key = s.jobKey w.job then s.mem.bytes a n
    else ((s.lineBytes w.job (a / 128)).drop (a % 128)).take n
  | _ => s.mem.bytes a n

/-- The bytes a load returns, piece by piece: poison words in a piece that may not be used (R545). -/
def State.loadPieces (s : State) (w : Accessor) (r : Region) : List (Nat × Nat) → List Byte × Status × State
  | [] => ([], .ok, s)
  | (a, n) :: t =>
    let got := s.readUnit w r a
    let s1 := got.1
    let good := got.2
    let here := if good then s1.seen w r a n else poisonBytes n
    let got := s1.loadPieces w r t
    let rest := got.1
    let st := got.2.1
    let s2 := got.2.2
    (here ++ rest, worse (if good then .ok else .poison) st, s2)

/-- A load of `n` bytes at a local address (R26, R225, R545): the bytes, the status and the state after it. -/
def State.load (s : State) (w : Accessor) (a n : Nat) : List Byte × Status × State :=
  match s.accessBar w a n false with
  | some (f, refused) =>
    (poisonBytes n, (if refused then .refused else .poison), s.raiseTo f w.block w.job (a % 2 ^ 32))
  | none =>
    let r := s.regionOf a n
    s.loadPieces w r (splitAt (match r with | .dram => 128 | .tally _ => 64 | _ => 4096) a n)

/-- A store piece by piece: pieces that fail are left unwritten (R545). -/
def State.storePieces (s : State) (w : Accessor) (r : Region) (base : Nat) (bs : List Byte) :
    List (Nat × Nat) → Status × State
  | [] => (.ok, s)
  | (a, n) :: t =>
    let part := (bs.drop (a - base)).take n
    let got := s.writeUnit w r a part
    let s1 := got.1
    let good := got.2
    let got := s1.storePieces w r base bs t
    let st := got.1
    let s2 := got.2
    (worse (if good then .ok else .failed) st, s2)

/-- A store of bytes at a local address (R26, R226, R545). -/
def State.store (s : State) (w : Accessor) (a : Nat) (bs : List Byte) : Status × State :=
  match s.accessBar w a bs.length true with
  | some (f, refused) =>
    ((if refused then .refused else .failed), s.raiseTo f w.block w.job (a % 2 ^ 32))
  | none =>
    let r := s.regionOf a bs.length
    s.storePieces w r a bs (splitAt (match r with | .dram => 128 | .tally _ => 64 | _ => 4096) a bs.length)

/-- A read-modify-write of `n` bytes at a local address (R226): the old value where it was applied. -/
def State.modify (s : State) (w : Accessor) (a n : Nat) (f : Nat → Nat) : Option Nat × Status × State :=
  match s.accessBar w a n true with
  | some (c, refused) => (none, (if refused then .refused else .failed), s.raiseTo c w.block w.job (a % 2 ^ 32))
  | none =>
    let r := s.regionOf a n
    let got := s.readUnit w r a
    let s1 := got.1
    let good := got.2
    if good then
      let old := leNat (s1.seen w r a n)
      let s2 := match r with
        | .dram => s1.underKey w.job (a / 128)
        | _ => s1
      (some old, .ok, s2.poke a (natLe (f old) n))
    else (none, .failed, s1)

/-- An access of a module engine under job 0 or a job, outside any core. -/
def engineAccess (job : Nat) (block : Word) : Accessor := ⟨job, none, block⟩

/-- A word read by an engine, absent where the read fails (R238). -/
def State.loadWord (s : State) (w : Accessor) (a : Nat) : Option Word × State :=
  match s.load w a 4 with
  | (bs, .ok, s) => (some (BitVec.ofNat 32 (leNat bs)), s)
  | (_, _, s) => (none, s)

/-- Words read by an engine, absent where any part of the read fails (R238). -/
def State.loadWords (s : State) (w : Accessor) (a n : Nat) : Option (List Word) × State :=
  match s.load w a (4 * n) with
  | (bs, .ok, s) => (some (wordsOf bs), s)
  | (_, _, s) => (none, s)

def State.storeWords (s : State) (w : Accessor) (a : Nat) (ws : List Word) : Status × State :=
  s.store w a (bytesOf ws)

/-- Memory over a range set to zero without any check (zeroisation, R433). -/
def State.zeroRange (s : State) (a n : Nat) : State :=
  { s with mem := s.mem.filter fun c => !(decide (a ≤ c.1) && decide (c.1 < a + n)) }

end Sys2Proof.Machine
end

