-- ==== Sys2Proof/Machine/SignalOps.lean ====
section
/-! DEFINITION. Launching a Hitch signal (R311, R312, R328) and completing a fault-ring write (R527). -/

namespace Sys2Proof.Machine

/-- The counter as a detail word: space [31:29], core [28:18], index [9:0] (R328). -/
def ctrDetail : CounterId → Nat
  | .core c h => putBits 28 18 c.gid + h.val
  | .module i => putBits 31 29 2 + i.val
  | .host i => putBits 31 29 3 + i.val

/-- The counter named by space, core and index, where it exists (R74). -/
def counterAt (space : Nat) (core : Option CoreId) (index : Nat) : Option CounterId :=
  match space with
  | 0 => match core with
    | some c => if h : index < 48 then some (.core c ⟨index, h⟩) else none
    | none => none
  | 2 => if h : index < 256 then some (.module ⟨index, h⟩) else none
  | 3 => if h : index < 1024 then some (.host ⟨index, h⟩) else none
  | _ => none

/-- Agent IDs (R330). -/
def agentGroom (g : Nat) : Nat := 0x0D0 + g
def agentStable : Nat := 0x0D2
def agentEdu : Nat := 0x0D3
def agentBlinkers (e : Nat) : Nat := 0x0D4 + e
def agentBridle (b : Nat) : Nat := 0x0D6 + b
def agentFaults : Nat := 0x0DA
/-- The Hitch root, the source of RELEASE and SNAP. -/
def agentRoot : Nat := 0x7FF

/-- Bits [63:8] of a frame in their places (R311); bits [7:0] hold the SEC-DED code over them. -/
def frameWord (type space dest index amount source : Nat) : Nat :=
  putBits 63 60 type + putBits 59 57 space + putBits 56 46 dest + putBits 45 36 index + putBits 35 20 amount + putBits 19 9 source

/-- Space, dest and index of a counter (R311). -/
def frameTarget : CounterId → Nat × Nat × Nat
  | .core c h => (0, c.gid, h.val)
  | .module i => (2, 0x7FF, i.val)
  | .host i => (3, 0x7FF, i.val)

/-- A SIGNAL frame as it travels. -/
def Frame.word (f : Frame) : Nat :=
  let t := frameTarget f.ctr
  frameWord 1 t.1 t.2.1 t.2.2 (unsignedOf 16 f.amount) f.source

/-- A RELEASE frame as it travels: its space and index name the counter, its amount the queue and the status (R333), and its source is the
Hitch root (R330). -/
def Release.word (r : Release) : Nat :=
  let t := frameTarget r.ctr
  frameWord 4 t.1 r.q.core.gid t.2.2 (putBits 15 14 r.q.q.val + r.status) agentRoot

/-- A SNAP frame as it travels; its source is the Hitch root (R314, R330). -/
def snapWord : Nat := frameWord 3 0 0x7FF 0 0 agentRoot

/-- The Hitch slot a source launches in next: the first that starts at or after now, one frame of a source per slot
(R312). -/
def State.hitchSlot (s : State) (source : Nat) : Nat :=
  (s.hitch.flight.filter fun f => f.source == source).foldl (fun m f => max m (s.slotAt (f.slot + 1))) (s.slotAt s.now)

/-- The owner table lets a job signal a counter (R328). -/
def State.admits (s : State) (c : CounterId) (job : Nat) : Bool :=
  let v := s.ctr c
  v.st == .live && (job == 0 || job == v.job)

/-- The cycle at which a frame launched in a slot is applied: 48 stride cycles later at a core counter, 24 at a root counter (R312), and
2 core cycles of the slower field more between the fields of a split die (R81). -/
def State.landing (s : State) (slot : Nat) (c : CounterId) (source : Nat) : Nat :=
  match c with
  | .core k _ => slot + 48 + match coreOf source with
    | some x => if x.rkn = k.rkn ∧ x.east ≠ k.east ∧ (s.die k.rkn).split then max (s.strideCycles x 2) (s.strideCycles k 2) else 0
    | none => 0
  | _ => slot + 24

/-- A frame placed among those on their way, in the order in which they are applied; the frames of one slot arrive in one Paddock
digital cycle and are taken in ascending source ID (R312). DEDUCED, assumption 22. -/
def insertFrame (f : Frame) : List Frame → List Frame
  | [] => [f]
  | g :: t =>
    if f.land < g.land ∨ (f.land = g.land ∧ f.source < g.source) then f :: g :: t else g :: insertFrame f t

/-- A signal checked and launched, or rejected with HCH_SIG_REJECTED (R328). Answers whether it was launched. -/
def State.signal (s : State) (c : CounterId) (amount : Int) (job source : Nat) (block : Word)
    (origin : Origin) : Bool × State :=
  if s.admits c job then
    let slot := s.hitchSlot source
    let f : Frame := ⟨c, amount, source, job, slot, (s.ctr c).gen, origin, s.landing slot c source⟩
    (true, { s with hitch := { s.hitch with flight := insertFrame f s.hitch.flight } })
  else
    (false, (s.bump (Reg.HCH_CNT_n + 16) 1).raiseTo Flt.HCH_SIG_REJECTED block job (ctrDetail c))

/-- A signal of an engine or a header, whose rejection is the fault only (R328). A counter that does not exist is
not signalled. -/
def State.signalAt (s : State) (space : Nat) (core : Option CoreId) (index : Nat) (amount : Int)
    (job source : Nat) (block : Word) : State :=
  match counterAt space core index with
  | some c => (s.signal c amount job source block .plain).2
  | none => s

/-- The address of record number `r` of a job's fault ring (R527). -/
def State.ringAddr (s : State) (job r : Nat) : Nat :=
  let lo := s.regF (bank job Reg.PDK_FLT_LO) 31 4 * 16
  let hi := (s.reg (bank job Reg.PDK_FLT_HI)).toNat
  let base := if s.regF (bank job Reg.PDK_FLT_CFG) 31 31 = 1 then hi * 2 ^ 32 + lo else hi % 4096 * 2 ^ 32 + lo
  base + 16 * (r % 2 ^ s.ringLog2 job)

/-- The oldest fault record in flight to a job's ring is acknowledged, or its write fails (R527). A ring in module
memory is written as job 0, which decides whether the write is applied; `ok` is the host's acknowledgement of a ring
in host memory. -/
def State.ringWriteDone (s : State) (job : Nat) (ok : Bool) : State :=
  match s.flt.flight.find? fun w => w.job == job with
  | none => s
  | some w =>
    let s := { s with flt := { s.flt with flight := s.flt.flight.erase w } }
    let tail := s.reg (bank job Reg.PDK_FLT_TAIL)
    let a := s.ringAddr job tail.toNat
    let bytes := bytesOf w.record.words
    let got :=
      if s.regF (bank job Reg.PDK_FLT_CFG) 31 31 = 1 then (ok, if ok then s.hostWrite 0 a bytes else s)
      else
        let got := s.store (engineAccess 0 blkPDK) a bytes
        (got.1 == .ok, got.2)
    let good := got.1
    let s := got.2
    if good then
      let s := s.setReg (bank job Reg.PDK_FLT_TAIL) (tail + 1)
      let cfg := s.reg (bank job Reg.PDK_FLT_CFG)
      if cfg.bit 15 then s.signalAt (cfg.field 14 12) none (cfg.field 9 0) 1 0 agentFaults blkPDK else s
    else (s.bump Reg.PDK_FLT_DROP 1).writeLog w.record

/-- The fault records of a source block that are in flight are acknowledged, oldest first (R527: a completion record
is written only after its fault record has been applied). -/
def State.flushFaults (s : State) (block : Word) : State :=
  (s.flt.flight.filter fun w => w.record.source == block).foldl (fun s w => s.ringWriteDone w.job true) s

end Sys2Proof.Machine
end

