-- ==== Sys2Proof/Machine/RegPerm.lean ====
section
/-! DEFINITION. Which source may write a register (R229, R371, R394, R414, R471, R488, R491 to R494, R508, R510, R513,
R528 and the notes over the register lists). -/

namespace Sys2Proof.Machine

/-- The debug level in force: BLANK is always INTRUSIVE (R494). -/
def State.debugLevel (s : State) : Nat := if s.sec.lifecycle = 0 then 2 else s.sec.level

/-- Registers whose chapter admits writes of the active Groom only (R229). -/
def activeGroomOnly (off : Nat) : Bool := off == Reg.MEM_KEY_SEL || off == Reg.MEM_KEY_MAP

/-- Registers whose chapter admits writes of the active Groom and the physical function only (R371, R394, R500). -/
def activeGroomOrPf (off : Nat) : Bool :=
  [Reg.FAB_ING_IDX, Reg.FAB_ING_W0, Reg.FAB_ING_W1, Reg.FAB_ING_W2, Reg.FAB_ING_CMD, Reg.FAB_RT_SEL, Reg.FAB_RT_DATA,
   Reg.FAB_RT_CTL, Reg.FAB_RT_AT, Reg.FAB_UPL_CTL, Reg.FAB_UPL_TXB_LO, Reg.FAB_UPL_TXB_HI, Reg.FAB_UPL_RXB_LO,
   Reg.FAB_UPL_RXB_HI, Reg.SEC_KEY_CMD].contains off

/-- Registers and pages whose chapter admits writes of the Grooms and the physical function only: the Hitch root page,
the PCI, PWR, SEC, SNP and PDK pages, and the registers of R471, R488 and the Groom page note. -/
def groomOrPf (off : Nat) : Bool :=
  let page := off / 4096
  [0x22, 0x31, 0x12, 0x14, 0x15, 0x10].contains page
    || [Reg.GRM_BOOT_CFG, Reg.GRM_YIELD_CTL, Reg.GRM_RST_CTL, Reg.GRM_IMG_CTL, Reg.GRM_PAIR_CTL, Reg.GRM_FAR_CTL,
        Reg.THM_RATE_CTL].contains off
    || (decide (0x100 ≤ page ∧ page < 0x180 ∧ page % 16 = 0) && off % 4096 == Reg.RKN_FIELD_CTL % 4096)

/-- Whether a register is one of those that R494 opens to I3C at every level: the PWR page, the SNP page and
GRM_PAIR_CTL. -/
def i3cAlways (off : Nat) : Bool := off / 4096 == 0x12 || off / 4096 == 0x15 || off == Reg.GRM_PAIR_CTL

/-- SEC_DBG_CTL and SEC_AUTH_DATA, which also take writes from JTAG and I3C (R508). -/
def debugPort (off : Nat) : Bool := off == Reg.SEC_DBG_CTL || off == Reg.SEC_AUTH_DATA

/-- Writes that R494 permits on I3C. -/
def State.i3cMayWrite (s : State) (off : Nat) : Bool :=
  s.debugLevel == 2 || debugPort off || i3cAlways off
    || (s.debugLevel == 1 && (s.sec.lifecycle == 1 || s.sec.lifecycle == 3))

/-- A source may write the register at a window offset. Debug levels add sources to a register's chapter (R513). -/
def State.mayWrite (s : State) (src : Source) (off : Nat) : Bool :=
  match src with
  | .groom g => (!activeGroomOnly off && !activeGroomOrPf off) || (g.val == 1) == s.groom.active
  | .pcie fn => fn.val == 0 && !activeGroomOnly off
  | .i3c => s.i3cMayWrite off
  | .uart => s.debugLevel == 2
  | .jtag => s.debugLevel == 2 || debugPort off || (s.debugLevel == 1 && off / 4096 == 0x15)
  | .rein .. => !activeGroomOnly off && !activeGroomOrPf off && !groomOrPf off

/-- A source may read registers (R491): BAR0 and I3C at every level, JTAG and UART from OBSERVE up, JTAG the debug registers always
(R492). -/
def State.mayRead (s : State) (src : Source) (off : Nat) : Bool :=
  match src with
  | .pcie fn => fn.val == 0
  | .jtag => decide (1 ≤ s.debugLevel) || debugPort off
  | .uart => decide (1 ≤ s.debugLevel)
  | _ => true

/-- The window offset of a register of queue `q` of a core (R88, R523). -/
def queueReg (q : QueueId) (off : Nat) : Nat :=
  (0x102 + 16 * q.core.rkn.val + q.core.idx.val / 16) * 4096 + 0x100 + (q.core.idx.val % 16) * 0xF0 + 0x10
    + q.q.val * 0x20 + off

end Sys2Proof.Machine
end

