-- ==== Sys2Proof/Machine/Arith.lean ====
section
/-! DEFINITION. Number formats, rounding, the block accumulator and the vector functions (chapter "Arithmetic:
Bead-4, FP8 and the accumulators"). -/

namespace Sys2Proof.Machine

/-- A value of one of the formats: NaN, an infinity, or the exact number ± m × 2^e (a zero keeps its sign). -/
inductive Num where
  | nan
  | inf (neg : Bool)
  | fin (neg : Bool) (m : Nat) (e : Int)
deriving DecidableEq, Repr

/-- The parameters of a floating format (R90): fraction bits, bias, width, the code of the largest finite
magnitude, the code of infinity where there is one, and the NaN the module writes. -/
structure FloatFormat where
  frac : Nat
  bias : Nat
  bits : Nat
  maxCode : Nat
  infCode : Option Nat
  nanCode : Nat
deriving DecidableEq, Repr

def fpE4M3 : FloatFormat := ⟨3, 7, 8, 0x7E, none, 0x7F⟩
def fpE5M2 : FloatFormat := ⟨2, 15, 8, 0x7B, some 0x7C, 0x7E⟩
def fpBF16 : FloatFormat := ⟨7, 127, 16, 0x7F7F, some 0x7F80, 0x7FC0⟩
def fpFP32 : FloatFormat := ⟨23, 127, 32, 0x7F7FFFFF, some 0x7F800000, 0x7FC00000⟩

/-- The floating format of a format code (R68); the MXFP8 codes give their element format. -/
def floatFormat (code : Nat) : FloatFormat :=
  match code with
  | 1 | 3 => fpE4M3
  | 2 | 4 => fpE5M2
  | 5 => fpBF16
  | _ => fpFP32

/-- Bits of one element of a format code (R90). -/
def formatBits (code : Nat) : Nat := if code = 0 then 4 else (floatFormat code).bits

/-- Whether operands of the format carry a scale array (R68). -/
def formatScaled (code : Nat) : Bool := code == 0 || code == 3 || code == 4

/-- The exponent of the lowest bit of the smallest subnormal. -/
def FloatFormat.lsbMin (f : FloatFormat) : Int := 1 - (f.bias : Int) - f.frac

/-- The value of an encoding (R90). -/
def FloatFormat.decode (f : FloatFormat) (w : Nat) : Num :=
  let neg := w.testBit (f.bits - 1)
  let mag := w % 2 ^ (f.bits - 1)
  if some mag = f.infCode then .inf neg
  else if f.maxCode < mag then .nan
  else
    let ef := mag / 2 ^ f.frac
    let mf := mag % 2 ^ f.frac
    if ef = 0 then .fin neg mf f.lsbMin else .fin neg (2 ^ f.frac + mf) (f.lsbMin + (ef - 1 : Nat))

/-- m × 2^e at a grid of 2^t: the whole part, the rest and its scale (rest / scale of one grid unit). -/
def alignTo (m : Nat) (e t : Int) : Nat × Nat × Nat :=
  if t ≤ e then (m * 2 ^ (e - t).toNat, 0, 1)
  else
    let s := (t - e).toNat
    (m / 2 ^ s, m % 2 ^ s, 2 ^ s)

/-- The grid on which a format with `p` significant bits and lowest exponent `lo` holds m × 2^e. -/
def gridOf (p : Nat) (lo : Int) (m : Nat) (e : Int) : Int :=
  max (e + (Nat.log2 m : Int) + 1 - (p : Int)) lo

/-- Round to nearest, ties to even (R106): the magnitude code of m × 2^e, which may exceed the largest finite
code. -/
def FloatFormat.rneCode (f : FloatFormat) (m : Nat) (e : Int) : Nat :=
  if m = 0 then 0
  else
    let t := gridOf (f.frac + 1) f.lsbMin m e
    let (q, r, d) := alignTo m e t
    let q' := if d < 2 * r ∨ (2 * r = d ∧ q % 2 = 1) then q + 1 else q
    (t - f.lsbMin).toNat * 2 ^ f.frac + q'

/-- Truncation towards zero: the magnitude code and whether anything was discarded. -/
def FloatFormat.truncCode (f : FloatFormat) (m : Nat) (e : Int) : Nat × Bool :=
  if m = 0 then (0, false)
  else
    let t := gridOf (f.frac + 1) f.lsbMin m e
    let (q, r, _) := alignTo m e t
    ((t - f.lsbMin).toNat * 2 ^ f.frac + q, decide (r ≠ 0))

/-- An encoding with its sign bit. -/
def FloatFormat.withSign (f : FloatFormat) (neg : Bool) (mag : Nat) : Nat :=
  if neg then 2 ^ (f.bits - 1) + mag else mag

/-- What a conversion wrote: the encoding, and whether it counts as NaN, overflow and underflow (R116, the
overflow still to be judged against the operands). -/
structure Converted where
  code : Nat
  nan : Bool
  ovf : Bool
  unf : Bool
deriving DecidableEq, Repr

/-- What an infinite value or an overflow becomes (R108). -/
def FloatFormat.infinite (f : FloatFormat) (sat neg : Bool) : Converted :=
  if sat then ⟨f.withSign neg f.maxCode, false, true, false⟩
  else match f.infCode with
    | some c => ⟨f.withSign neg c, false, true, false⟩
    | none => ⟨f.nanCode, true, true, false⟩

/-- Conversion of a value to a floating format (R108). -/
def FloatFormat.convert (f : FloatFormat) (sat : Bool) (x : Num) : Converted :=
  match x with
  | .nan => ⟨f.nanCode, true, false, false⟩
  | .inf neg => f.infinite sat neg
  | .fin neg m e =>
    let c := f.rneCode m e
    if f.maxCode < c then f.infinite sat neg
    else ⟨f.withSign neg c, false, false, decide (c = 0 ∧ m ≠ 0)⟩

/-- An FP32 value rounded from an exact one by RNE, overflow to infinity. -/
def Num.toFP32 (x : Num) : Num := fpFP32.decode (fpFP32.convert false x).code

/-- The FP32 encoding of a value. -/
def Num.bits32 (x : Num) : Word := BitVec.ofNat 32 (fpFP32.convert false x).code

def Num.isFinite : Num → Bool
  | .fin .. => true
  | _ => false

def Num.isNan : Num → Bool
  | .nan => true
  | _ => false

def Num.isZero : Num → Bool
  | .fin _ m _ => m == 0
  | _ => false

def Num.negated : Num → Num
  | .nan => .nan
  | .inf b => .inf (!b)
  | .fin b m e => .fin (!b) m e

/-- The signed integer ± m × 2^(e − t), for a grid t not above e. -/
def signedAt (neg : Bool) (m : Nat) (e t : Int) : Int :=
  let v : Int := (m * 2 ^ (e - t).toNat : Nat)
  if neg then -v else v

/-- The number S × 2^t. -/
def Num.ofInt (s : Int) (t : Int) : Num := .fin (decide (s < 0)) s.natAbs t

/-- The exact sum, with the IEEE 754 sign of a zero sum under round to nearest. -/
def Num.add (x y : Num) : Num :=
  match x, y with
  | .nan, _ => .nan
  | _, .nan => .nan
  | .inf a, .inf b => if a = b then .inf a else .nan
  | .inf a, .fin .. => .inf a
  | .fin .., .inf b => .inf b
  | .fin a m e, .fin b n g =>
    let t := min e g
    let s := signedAt a m e t + signedAt b n g t
    if s = 0 then .fin (a && b && m == 0 && n == 0) 0 t else Num.ofInt s t

/-- The exact product. -/
def Num.mul (x y : Num) : Num :=
  match x, y with
  | .nan, _ => .nan
  | _, .nan => .nan
  | .inf a, .inf b => .inf (a != b)
  | .inf a, .fin b n _ => if n = 0 then .nan else .inf (a != b)
  | .fin a m _, .inf b => if m = 0 then .nan else .inf (a != b)
  | .fin a m e, .fin b n g => .fin (a != b) (m * n) (e + g)

/-- The number times 2^k. -/
def Num.scale (x : Num) (k : Int) : Num :=
  match x with
  | .fin a m e => .fin a m (e + k)
  | y => y

/-- Whether x < y, for numbers that are not NaN; −0 and +0 are equal. -/
def Num.lt (x y : Num) : Bool :=
  match x, y with
  | .nan, _ => false
  | _, .nan => false
  | .inf a, .inf b => a && !b
  | .inf a, .fin .. => a
  | .fin .., .inf b => !b
  | .fin a m e, .fin b n g =>
    let t := min e g
    decide (signedAt a m e t < signedAt b n g t)

/-- FP32 addition, multiplication and fused multiply-add (R113): the exact result rounded once. -/
def fadd (x y : Num) : Num := (x.add y).toFP32
def fmul (x y : Num) : Num := (x.mul y).toFP32
def ffma (x y z : Num) : Num := ((x.mul y).add z).toFP32

/-- MAX of R113: NaN if either is NaN; the larger, +0 above −0. -/
def fmax (x y : Num) : Num :=
  if x.isNan || y.isNan then .nan
  else if x.lt y then y
  else if y.lt x then x
  else match x with
    | .fin true _ _ => y
    | _ => x

/-- MIN of R113. -/
def fmin (x y : Num) : Num :=
  if x.isNan || y.isNan then .nan
  else if x.lt y then x
  else if y.lt x then y
  else match x with
    | .fin true _ _ => x
    | _ => y

/-! ### Bead-4 -/

/-- The numerator of Rc over 2^16 (R97). -/
def rcNumerator : Nat := 92682

/-- The realised value of a B4 code before its scale (R95). -/
def b4Value (code : Nat) : Num :=
  let neg := code.testBit 3
  let c := code % 8
  if c = 0 then .fin neg 0 0
  else if c % 2 = 1 then .fin neg 1 (((c : Int) - 7) / 2)
  else .fin neg rcNumerator (((c : Int) - 8) / 2 - 16)

/-- The product of two B4 codes, formed by adding codes (R99). -/
def b4Product (a b : Nat) : Num :=
  let neg := a.testBit 3 != b.testBit 3
  let ca := a % 8
  let cb := b % 8
  if ca = 0 ∨ cb = 0 then .fin neg 0 0
  else if (ca + cb) % 2 = 0 then .fin neg 1 (((ca + cb : Nat) : Int) / 2 - 7)
  else .fin neg rcNumerator ((((ca + cb : Nat) : Int) - 15) / 2 - 16)

/-- One element of a MATMUL operand: a B4 code, or the value of another format (R100). -/
inductive Elem where
  | code (c : Nat)
  | num (x : Num)
deriving DecidableEq, Repr

def Elem.value : Elem → Num
  | .code c => b4Value c
  | .num x => x

def Elem.product : Elem → Elem → Num
  | .code a, .code b => b4Product a b
  | x, y => x.value.mul y.value

/-- An element of format `f` from its bits. -/
def elemOf (f bits : Nat) : Elem := if f = 0 then .code bits else .num ((floatFormat f).decode bits)

/-- One product narrowed to the accumulator's grid by round-to-odd, with its sign, and whether it was narrowed
(R101 step 4, R106). -/
def alignOdd (neg : Bool) (m : Nat) (e t : Int) : Int × Bool :=
  let (q, r, _) := alignTo m e t
  let q' := if r ≠ 0 ∧ q % 2 = 0 then q + 1 else q
  (if neg then -(q' : Int) else q', decide (r ≠ 0))

/-- The largest ⌊log₂ |q|⌋ over the finite non-zero products (R101 step 2). -/
def emaxOf : List Num → Option Int
  | [] => none
  | .fin _ m e :: t =>
    if m = 0 then emaxOf t
    else
      let l := e + (Nat.log2 m : Int)
      match emaxOf t with
      | none => some l
      | some k => some (max l k)
  | _ :: t => emaxOf t

/-- The sum S of the aligned products and whether any was narrowed (R101 steps 3 to 5). -/
def alignedSum (t : Int) : List Num → Int × Bool
  | [] => (0, false)
  | .fin neg m e :: ps =>
    let (s, b) := alignedSum t ps
    let (v, n) := alignOdd neg m e t
    (v + s, n || b)
  | _ :: ps => alignedSum t ps

/-- V narrowed to FP32 by round-to-odd; beyond the largest finite magnitude it is infinite (R103). -/
def narrowOddFP32 (s : Int) (t : Int) : Num :=
  if s = 0 then .fin false 0 0
  else
    let m := s.natAbs
    let (c, inexact) := fpFP32.truncCode m t
    let neg := decide (s < 0)
    if fpFP32.maxCode < c ∨ (c = fpFP32.maxCode ∧ inexact) then .inf neg
    else
      let c' := if inexact ∧ c % 2 = 0 then c + 1 else c
      fpFP32.decode (fpFP32.withSign neg c')

/-- The finite products of a block pair on their common grid (R101): the sum S, the weight of its bit 0 as an exponent of 2, and whether a product
was narrowed. -/
def gridSum (products : List Num) : Int × Int × Bool :=
  match emaxOf products with
  | none => (0, 0, false)
  | some em =>
    let got := alignedSum (em - 41) products
    (got.1, em - 41, got.2)

/-- The value V of a block pair from the scale σ_a + σ_b, absent where a block scale is NaN (R103, R104). -/
def blockValue (products : List Num) (scale : Option Int) : Num :=
  match scale with
  | none => .nan
  | some sg =>
    let pos := products.any fun p => p == .inf false
    let neg := products.any fun p => p == .inf true
    if products.any Num.isNan || (pos && neg) then .nan
    else if pos then .inf false
    else if neg then .inf true
    else narrowOddFP32 (gridSum products).1 ((gridSum products).2.1 + sg)

/-- The value of one block pair and whether R101 narrowed a product of it, which counts in acc_round whatever R104 makes of the value. -/
def blockSum (products : List Num) (scale : Option Int) : Num × Bool :=
  (blockValue products scale, (gridSum products).2.2)

/-- σ of a block: E − 127 for a scaled format, 0 for any other, none for a NaN scale (R96, R103). -/
def blockScale (scaled : Bool) (e : Nat) : Option Int :=
  if scaled then (if e = 255 then none else some ((e : Int) - 127)) else some 0

/-- The element of C before conversion (R105): FP32 additions in order, and how many block pairs narrowed. -/
def reduceBlocks (r : Num) : List (Num × Bool) → Num × Nat
  | [] => (r, 0)
  | (v, b) :: t =>
    let (r', n) := reduceBlocks (fadd r v) t
    (r', n + bitOf b)

/-! ### Conversion to Bead-4 (R110, R111) -/

/-- x ≤ (or <) a threshold given as n / 2^k, for a magnitude m × 2^e. -/
def magLe (m : Nat) (e : Int) (n : Nat) (k : Nat) : Bool :=
  let t := min e (-(k : Int))
  decide (m * 2 ^ (e - t).toNat ≤ n * 2 ^ (-(k : Int) - t).toNat)

def magLt (m : Nat) (e : Int) (n : Nat) (k : Nat) : Bool :=
  let t := min e (-(k : Int))
  decide (m * 2 ^ (e - t).toNat < n * 2 ^ (-(k : Int) - t).toNat)

/-- The log code chosen for |y| = m × 2^e (R111). The midpoints are 2^(j−1) × (1 + Rc) = 158218 × 2^(j−17) and
2^(j−1) × (2 + Rc) = 223754 × 2^(j−17). -/
def b4CodeOf (m : Nat) (e : Int) : Nat :=
  if magLe m e 1 4 then 0
  else if magLt m e 158218 20 then 1
  else if magLe m e 223754 20 then 2
  else if magLt m e 158218 19 then 3
  else if magLe m e 223754 19 then 4
  else if magLt m e 158218 18 then 5
  else if magLe m e 223754 18 then 6
  else 7

/-- The largest ⌊log₂|x|⌋ of a group, none when every element is zero. -/
def groupExponent (xs : List Num) : Option Int := emaxOf xs

/-- A group of elements converted to B4: the scale byte and the codes with their marks (R108, R110). An element
counts as overflow when it takes c = 7 although its magnitude is at or above the midpoint to the level that would
follow, 2^−1 × (1 + Rc) on the scaled grid, or when an infinite value was replaced under sat. DEDUCED, assumption
12. -/
def convertB4 (sat : Bool) (xs0 : List Num) : Nat × List Converted :=
  let xs := if sat then
      xs0.map fun x => match x with
        | .inf neg => fpFP32.decode (fpFP32.withSign neg fpFP32.maxCode)
        | y => y
    else xs0
  if xs.any (fun x => !x.isFinite) then (255, xs.map fun _ => ⟨0, true, false, false⟩)
  else
    let e : Nat := match groupExponent xs with
      | none => 0
      | some ex => (max 0 (min 254 (ex + 128))).toNat
    let shift : Int := 127 - (e : Int)
    (e, (xs0.zip xs).map fun (x0, x) => match x with
      | .fin neg m ex =>
        let c := b4CodeOf m (ex + shift)
        let beyond := !magLt m (ex + shift) 158218 17
        ⟨(if neg then 8 else 0) + c, false, beyond || !x0.isFinite, decide (c = 0 ∧ m ≠ 0)⟩
      | _ => ⟨0, true, false, false⟩)

/-! ### EXP, RECIP, RSQRT and SILU (R114) -/

/-- The integer square root of n, by bits from `fuel` down. -/
def isqrtAux (n : Nat) : Nat → Nat → Nat
  | 0, r => if (r + 1) * (r + 1) ≤ n then r + 1 else r
  | b + 1, r =>
    let c := r + 2 ^ (b + 1)
    isqrtAux n b (if c * c ≤ n then c else r)

def isqrt (n : Nat) : Nat := isqrtAux n (Nat.log2 n / 2 + 1) 0

/-- Fraction bits of the fixed-point grid on which e^x is bracketed. -/
def expBits : Nat := 256

/-- The terms x^i / i! of the exponential series on the grid 2^−expBits, from term i on. -/
def expSeries (x : Nat) : Nat → Nat → Nat → Nat
  | 0, _, acc => acc
  | fuel + 1, i, acc => acc + expSeries x fuel (i + 1) (acc * x / 2 ^ expBits / i)

/-- v squared n times on the grid. -/
def squareTimes (v : Nat) : Nat → Nat
  | 0 => v
  | n + 1 => squareTimes (v * v / 2 ^ expBits) n

/-- e^x on the grid, for x ≥ 0 on the grid (x / 2^10 by the series, squared ten times). -/
def expPos (x : Nat) : Nat := squareTimes (expSeries (x / 1024) 40 1 (2 ^ expBits)) 10

/-- e^(± m × 2^e) on the grid. -/
def expGrid (neg : Bool) (m : Nat) (e : Int) : Nat :=
  let x := (alignTo m e (-(expBits : Int))).1
  let p := expPos x
  if neg then 2 ^ (2 * expBits) / p else p

/-- A result code within `reach` codes of the truth, which lies at `lo` or, where it is inexact, between `lo` and
`lo + 1`: the free choice of Config, held to the bound. -/
def chooseCode (op : Nat) (input : Word) (reach : Nat) (lo : Nat) (inexact : Bool) : Nat :=
  let base := lo - (if inexact then reach - 1 else reach)
  let width := lo + reach - base + 1
  base + Config.unaryChoice op input % width

/-- A signed result from a magnitude code, infinite above the largest finite one. -/
def unaryResult (neg : Bool) (code : Nat) : Num :=
  if fpFP32.maxCode < code then .inf neg else fpFP32.decode (fpFP32.withSign neg code)

/-- RECIP (R114): an error below 1 ulp leaves the two neighbours of an inexact truth, and an exact one alone. -/
def frecip (x : Num) : Num :=
  match x with
  | .nan => .nan
  | .inf neg => .fin neg 0 0
  | .fin neg m e =>
    if m = 0 then .inf neg
    else
      let q := 2 ^ 400 / m
      let (c, r) := fpFP32.truncCode q (-400 - e)
      let inexact := r || decide (2 ^ 400 % m ≠ 0)
      if !inexact then unaryResult neg c
      else unaryResult neg (c + Config.unaryChoice 7 x.bits32 % 2)

/-- RSQRT (R114). -/
def frsqrt (x : Num) : Num :=
  match x with
  | .nan => .nan
  | .inf neg => if neg then .nan else .fin false 0 0
  | .fin neg m e =>
    if m = 0 then .inf neg
    else if neg then .nan
    else
      let (m', e') := if e % 2 = 0 then (m, e) else (2 * m, e - 1)
      let q := isqrt (2 ^ 400 / m')
      let (c, r) := fpFP32.truncCode q (-200 - e' / 2)
      let inexact := r || decide (q * q * m' ≠ 2 ^ 400)
      if !inexact then unaryResult false c
      else unaryResult false (c + Config.unaryChoice 8 x.bits32 % 2)

/-- EXP (R114): within 2 ulp; inputs above 88.7228 give +∞. -/
def fexp (x : Num) : Num :=
  match x with
  | .nan => .nan
  | .inf neg => if neg then .fin false 0 0 else .inf false
  | .fin neg m e =>
    if !neg && !magLe m e (887228 * 2 ^ 40 / 10000) 40 then .inf false
    else if neg && !magLe m e 128 0 then unaryResult false (chooseCode 6 x.bits32 2 0 true)
    else
      let (c, r) := fpFP32.truncCode (expGrid neg m e) (-(expBits : Int))
      unaryResult false (chooseCode 6 x.bits32 2 c (r || decide (m ≠ 0)))

/-- SILU (R114): within 4 ulp of x / (1 + e^−x). -/
def fsilu (x : Num) : Num :=
  match x with
  | .nan => .nan
  | .inf neg => if neg then .fin true 0 0 else .inf false
  | .fin neg m e =>
    if neg && !magLe m e 128 0 then unaryResult true (chooseCode 9 x.bits32 4 0 true)
    else
      let one := 2 ^ expBits
      let d := if magLe m e 128 0 then one + expGrid (!neg) m e else one + 1
      let q := m * 2 ^ (2 * expBits) / d
      let (c, r) := fpFP32.truncCode q (e - (expBits : Int))
      unaryResult neg (chooseCode 9 x.bits32 4 c (r || decide (m ≠ 0)))

/-! ### Ranking (R115) -/

/-- Whether `x` ranks strictly above `y` for TOPK_ROW: NaN lies below −∞, −0 equals +0. -/
def ranksAbove (x y : Num) : Bool :=
  match x, y with
  | .nan, _ => false
  | _, .nan => true
  | _, _ => y.lt x

/-- A ranked list with one more entry, ties to the lower index (entries arrive in rising index order). -/
def insertRanked (i : Nat) (x : Num) : List (Nat × Num) → List (Nat × Num)
  | [] => [(i, x)]
  | (j, y) :: t => if ranksAbove x y then (i, x) :: (j, y) :: t else (j, y) :: insertRanked i x t

/-- The entries of a row in rank order. -/
def rankRow (row : List Num) : List (Nat × Num) :=
  (row.zipIdx).foldl (fun acc (x, i) => insertRanked i x acc) []

end Sys2Proof.Machine
end

