-- ==== Sys2Proof/Machine/Flags.lean ====
section
/-! DEFINITION. The flags of the module's arithmetic: the exception counts of R116 and the completion statuses of
R62. -/

namespace Sys2Proof.Machine

def Exc.zero : Exc := ⟨0, 0, 0, 0⟩

def Exc.add (a b : Exc) : Exc := ⟨a.nan + b.nan, a.ovf + b.ovf, a.unf + b.unf, a.acc + b.acc⟩

/-- One field of word 3, saturated at 255. -/
def satByte (n : Nat) : Nat := min n 255

/-- Word 3 of a completion record (R116). -/
def Exc.word (e : Exc) : Word :=
  BitVec.ofNat 32 (satByte e.nan * 2 ^ 24 + satByte e.ovf * 2 ^ 16 + satByte e.unf * 2 ^ 8 + satByte e.acc)

/-- The counts of one converted element; `clean` says that none of its operands was NaN or infinite. -/
def Converted.exc (c : Converted) (clean : Bool) : Exc :=
  ⟨bitOf c.nan, bitOf (c.ovf && clean), bitOf c.unf, 0⟩

/-- Status codes of completion records (R62). -/
def stOk : Nat := 0
def stOverrun : Nat := 1
def stRejected : Nat := 2
def stAccess : Nat := 3
def stOrphan : Nat := 4
def stWaitTimeout : Nat := 5

end Sys2Proof.Machine
end

