-- ==== Sys2Proof/Machine/Operands.lean ====
section
/-! DEFINITION. Work descriptors: their fields (R66 to R78), the fetch checks (R59) and the operand ranges the checks
and the scoreboard use (R54, R55, R92 to R94, R121 to R129). -/

namespace Sys2Proof.Machine

/-! ### Fields -/

def Fetched.w (d : Fetched) (i : Nat) : Word := d.words.getD i 0
def Fetched.f (d : Fetched) (i hi lo : Nat) : Nat := (d.w i).field hi lo
def Fetched.b (d : Fetched) (i n : Nat) : Bool := (d.w i).bit n

def Fetched.opcode (d : Fetched) : Nat := d.f 0 31 24
def Fetched.waitPrior (d : Fetched) : Bool := d.b 0 23
def Fetched.cplEn (d : Fetched) : Bool := d.b 0 22
def Fetched.bound (d : Fetched) : Nat := d.f 0 10 0
def Fetched.tag (d : Fetched) : Nat := d.f 1 31 16
def Fetched.sigEn (d : Fetched) : Bool := d.b 1 15
def Fetched.sigSpace (d : Fetched) : Nat := d.f 1 14 12
def Fetched.sigIdx (d : Fetched) : Nat := d.f 1 9 0

/-- A 49-bit rack global address in words `i` and `i + 1`. -/
def Fetched.addr49 (d : Fetched) (i : Nat) : Nat := (d.w i).toNat + d.f (i + 1) 16 0 * 2 ^ 32

/-- The opcodes of R67. -/
def opMatmul : Nat := 1
def opVector : Nat := 2
def opMove : Nat := 3
def opGather : Nat := 4
def opAttend : Nat := 5
def opBlink : Nat := 6
def opDispatch : Nat := 7
def opSignal : Nat := 8
def opWait : Nat := 9
def opLoop : Nat := 10
def opBranch : Nat := 11

/-- The engines an opcode occupies (R67): 8 T, 4 V, 2 D, 1 X. -/
def enginesOf (op : Nat) : Nat :=
  match op with
  | 1 => 8
  | 2 => 4
  | 3 | 4 => 2
  | 5 => 14
  | 6 | 7 | 8 => 1
  | _ => 0

/-- A range of 64-byte units: `hi` is the first unit beyond it. `tally` names the core's own slice. -/
structure Span where
  tally : Bool
  lo : Nat
  hi : Nat
deriving DecidableEq, Repr

def scratchUnits : Nat := 24576
def tallyUnits : Nat := 327680

/-- The range of `bytes` bytes from unit `off`. -/
def spanOf (tally : Bool) (off bytes : Nat) : Span := ⟨tally, off, off + ceilDiv bytes 64⟩

/-- The units that `bytes` bytes from byte `o` of scratch touch. -/
def spanBytes (o bytes : Nat) : Span := ⟨false, o / 64, ceilDiv (o + bytes) 64⟩

/-- The range lies wholly inside its space (R54). -/
def Span.fits (p : Span) : Bool :=
  let lim := if p.tally then tallyUnits else scratchUnits
  decide (p.lo < lim) && decide (p.hi ≤ lim)

def Span.meets (p q : Span) : Bool := p.tally == q.tally && decide (p.lo < q.hi) && decide (q.lo < p.hi)

/-- Bytes of a storage row of `n` elements (R91). -/
def rowBytes (fmt n : Nat) : Nat := ceilDiv (n * formatBits fmt) 8

/-- Bytes of an operand in the contiguous layout: B4 codes, then one scale byte a block from the next unit (R94). -/
def contiguousBytes (fmt n : Nat) : Nat :=
  if fmt = 0 then ceilDiv (n / 2) 64 * 64 + n / 32 else rowBytes fmt n

/-! ### MATMUL -/

structure MatmulArgs where
  aFmt : Nat
  bFmt : Nat
  cFmt : Nat
  sp : Nat
  zskip : Bool
  accum : Bool
  bTally : Bool
  sat : Bool
  m : Nat
  n : Nat
  k : Nat
  a : Nat
  b : Nat
  c : Nat
  bits : Nat       -- meta_off
  zmap : Nat
  bScale : Nat
  aScale : Nat
  ldb : Nat
  lda : Nat
  ldc : Nat
deriving DecidableEq, Repr

def Fetched.matmul (d : Fetched) : MatmulArgs :=
  { aFmt := d.f 2 31 28, bFmt := d.f 2 27 24, cFmt := d.f 2 23 20, sp := d.f 2 19 18, zskip := d.b 2 17,
    accum := d.b 2 16, bTally := d.b 2 15, sat := d.b 2 14, m := d.f 3 31 16, n := d.f 3 15 0, k := d.f 4 31 16,
    a := d.f 5 14 0, b := d.f 6 18 0, c := d.f 7 14 0, bits := d.f 8 18 0, zmap := d.f 9 14 0,
    bScale := d.f 10 18 0, aScale := d.f 11 14 0, ldb := d.f 12 31 16, lda := d.f 12 15 0, ldc := d.f 13 15 0 }

/-- The dense depth D of a format pair, none where R69 does not accept it. -/
def depthOf (a b : Nat) : Option Nat :=
  if a = 0 ∧ b = 0 then some 64
  else if a = 5 ∧ b = 5 then some 16
  else if a ≤ 4 ∧ b ≤ 4 then some 32
  else none

/-- Kept elements of a storage row of B (R121); all of them outside sp_mode 1 and 2. -/
def keptCount (sp k : Nat) : Nat := if sp = 1 then k / 2 else if sp = 2 then k / 4 else k

/-- Metadata bytes of a storage row (R122). -/
def metaBytes (sp k : Nat) : Nat := if sp = 1 then k / 8 else k / 16

/-- Bytes of a kept tile (R126). -/
def tileBytes (bFmt : Nat) : Nat := if bFmt = 0 then 512 else 1024

/-- The ranges a MATMUL reads (R92, R93, R121, R122, R125, R126, R128, R129), the old C among them when it
accumulates. -/
def MatmulArgs.reads (x : MatmulArgs) : List Span :=
  let nb := x.k / 32
  let cSpan : Span := ⟨false, x.c, x.c + (x.m - 1) * x.ldc + ceilDiv (rowBytes x.cFmt x.n) 64⟩
  [⟨false, x.a, x.a + (x.m - 1) * x.lda + ceilDiv (rowBytes x.aFmt x.k) 64⟩]
    ++ (if formatScaled x.aFmt then [spanOf false x.aScale (x.m * nb)] else [])
    ++ (if x.zskip then [spanOf false x.zmap (x.m * ceilDiv x.k 512)] else [])
    ++ (match x.sp with
        | 0 => [⟨x.bTally, x.b, x.b + (x.n - 1) * x.ldb + ceilDiv (rowBytes x.bFmt x.k) 64⟩]
        | 3 => [spanOf x.bTally x.b (nb * (x.n / 32) * tileBytes x.bFmt),
                spanOf x.bTally x.bits (ceilDiv (nb * (x.n / 32)) 8)]
        | sp => [⟨x.bTally, x.b, x.b + x.n * ceilDiv (rowBytes x.bFmt (keptCount sp x.k)) 64⟩,
                 spanOf x.bTally x.bits (x.n * metaBytes sp x.k)])
    ++ (if formatScaled x.bFmt then [spanOf x.bTally x.bScale (x.n * nb)] else [])
    ++ (if x.accum then [cSpan] else [])

/-- The range a MATMUL writes. -/
def MatmulArgs.writes (x : MatmulArgs) : List Span :=
  [⟨false, x.c, x.c + (x.m - 1) * x.ldc + ceilDiv (rowBytes x.cFmt x.n) 64⟩]

def MatmulArgs.formatOk (x : MatmulArgs) : Bool :=
  (depthOf x.aFmt x.bFmt).isSome && [1, 2, 5, 6].contains x.cFmt && (!x.accum || x.cFmt == 6)
    && (x.sp == 0 || decide (x.bFmt ≤ 4)) && (x.sp != 0 || x.bits == 0) && (x.zskip || x.zmap == 0)
    && (formatScaled x.bFmt || x.bScale == 0) && (formatScaled x.aFmt || x.aScale == 0) && (x.sp == 0 || x.ldb == 0)

def MatmulArgs.operandOk (x : MatmulArgs) : Bool :=
  decide (1 ≤ x.m ∧ x.m ≤ 4096 ∧ 1 ≤ x.n ∧ x.n ≤ 4096 ∧ 32 ≤ x.k ∧ x.k ≤ 65504 ∧ x.k % 32 = 0)
    && decide (ceilDiv (rowBytes x.aFmt x.k) 64 ≤ x.lda) && decide (ceilDiv (rowBytes x.cFmt x.n) 64 ≤ x.ldc)
    && (x.sp != 0 || decide (ceilDiv (rowBytes x.bFmt x.k) 64 ≤ x.ldb)) && (x.sp != 3 || x.n % 32 == 0)
    && (x.reads ++ x.writes).all Span.fits

/-! ### VECTOR -/

structure VectorArgs where
  vop : Nat
  srcFmt : Nat
  dstFmt : Nat
  sat : Bool
  imm1 : Bool
  count : Nat
  src0 : Nat
  src1 : Nat
  src2 : Nat
  dst : Nat
  imm : Word
  rowLen : Nat
  topk : Nat
deriving DecidableEq, Repr

def Fetched.vector (d : Fetched) : VectorArgs :=
  { vop := d.f 2 31 24, srcFmt := d.f 2 23 20, dstFmt := d.f 2 19 16, sat := d.b 2 15, imm1 := d.b 2 14,
    count := d.f 3 23 0, src0 := d.f 4 14 0, src1 := d.f 4 30 16, src2 := d.f 5 14 0, dst := d.f 5 30 16,
    imm := d.w 6, rowLen := d.f 7 15 0, topk := d.f 7 19 16 }

/-- Sources of a vector operation (R71). -/
def vectorSources (vop : Nat) : Nat := if vop = 3 then 3 else if vop = 1 ∨ vop = 2 ∨ vop = 4 ∨ vop = 5 then 2 else 1

def VectorArgs.reads (x : VectorArgs) : List Span :=
  let n := contiguousBytes x.srcFmt x.count
  [spanOf false x.src0 n]
    ++ (if 2 ≤ vectorSources x.vop ∧ !x.imm1 then [spanOf false x.src1 n] else [])
    ++ (if 3 ≤ vectorSources x.vop then [spanOf false x.src2 n] else [])

/-- Bytes the operation writes (R71, R94, R546). -/
def VectorArgs.outBytes (x : VectorArgs) : Nat :=
  let v := formatBits x.dstFmt / 8
  if x.vop < 10 then contiguousBytes x.dstFmt x.count
  else if x.vop < 12 then x.count / x.rowLen * v
  else x.count / x.rowLen * x.topk * (4 + v)

def VectorArgs.writes (x : VectorArgs) : List Span := [spanOf false x.dst x.outBytes]

def VectorArgs.formatOk (x : VectorArgs) : Bool :=
  decide (x.vop ≤ 12) && [0, 1, 2, 5, 6].contains x.srcFmt && [0, 1, 2, 5, 6].contains x.dstFmt
    && !(decide (10 ≤ x.vop) && x.dstFmt == 0)

def VectorArgs.operandOk (x : VectorArgs) : Bool :=
  decide (1 ≤ x.count)
    && (if 10 ≤ x.vop then decide (1 ≤ x.rowLen ∧ x.count % x.rowLen = 0)
          && (if x.vop = 12 then decide (1 ≤ x.topk ∧ x.topk ≤ 8) else x.topk == 0)
        else x.rowLen == 0 && x.topk == 0)
    && ((x.srcFmt != 0 && x.dstFmt != 0) || x.count % 32 == 0)
    && decide (x.src1 < scratchUnits) && decide (x.src2 < scratchUnits)
    && (x.reads ++ x.writes).all Span.fits

/-! ### MOVE and GATHER -/

structure MoveArgs where
  srcFmt : Nat
  dstFmt : Nat
  flagLast : Bool
  sat : Bool
  len : Nat
  src : Nat
  dst : Nat
  rows : Nat
  srcPitch : Nat
  dstPitch : Nat
deriving DecidableEq, Repr

def Fetched.move (d : Fetched) : MoveArgs :=
  { srcFmt := d.f 2 31 28, dstFmt := d.f 2 27 24, flagLast := d.b 2 23, sat := d.b 2 22, len := d.f 3 23 0,
    src := d.addr49 4, dst := d.addr49 6, rows := max (d.f 8 15 0) 1, srcPitch := (d.w 9).toNat,
    dstPitch := (d.w 10).toNat }

def MoveArgs.converts (x : MoveArgs) : Bool := x.srcFmt != x.dstFmt

/-- Bytes of a destination row (R112). -/
def MoveArgs.dstLen (x : MoveArgs) : Nat :=
  if x.converts then x.len / (formatBits x.srcFmt / 8) * (formatBits x.dstFmt / 8) else x.len

def MoveArgs.formatOk (x : MoveArgs) : Bool :=
  if x.converts then [1, 2, 5, 6].contains x.srcFmt && [1, 2, 5, 6].contains x.dstFmt else decide (x.srcFmt ≤ 6)

def MoveArgs.operandOk (x : MoveArgs) : Bool :=
  x.len % 4 == 0 && x.src % 4 == 0 && x.dst % 4 == 0
    && (!x.converts || (x.len % (formatBits x.srcFmt / 8) == 0 && x.dstLen % 4 == 0))
    && (x.converts || x.srcFmt != 0 || 2 * x.len % 32 == 0)

structure GatherArgs where
  idx32 : Bool
  idx : Nat
  count : Nat
  rowBytes : Nat
  base : Nat
  pitch : Nat
  dst : Nat
deriving DecidableEq, Repr

def Fetched.gather (d : Fetched) : GatherArgs :=
  { idx32 := d.b 2 31, idx := d.f 2 30 16, count := d.f 2 15 0, rowBytes := d.f 3 23 0, base := d.addr49 4,
    pitch := (d.w 6).toNat, dst := d.f 7 14 0 }

def GatherArgs.reads (x : GatherArgs) : List Span := [spanOf false x.idx (x.count * (if x.idx32 then 4 else 2))]
def GatherArgs.writes (x : GatherArgs) : List Span := [spanOf false x.dst (x.count * x.rowBytes)]

def GatherArgs.operandOk (x : GatherArgs) : Bool :=
  decide (1 ≤ x.count) && x.rowBytes % 4 == 0 && (x.reads ++ x.writes).all Span.fits

/-! ### ATTEND, BLINK and DISPATCH -/

structure AttendArgs where
  list : Bool
  headGrp : Nat
  layer : Nat
  stall : Nat
  qCount : Nat
  qPos : Nat
  qOff : Nat
  outOff : Nat
  listOff : Nat
  window : Nat
  anchors : Nat
  workOff : Nat
deriving DecidableEq, Repr

def Fetched.attend (d : Fetched) : AttendArgs :=
  { list := d.f 2 31 30 == 1, headGrp := d.f 2 29 22, layer := d.f 2 21 14, stall := d.f 2 13 0,
    qCount := d.f 3 31 24, qPos := d.f 3 23 0, qOff := d.f 4 14 0, outOff := d.f 4 30 16, listOff := d.f 5 14 0,
    window := d.f 5 23 16, anchors := d.f 5 27 24, workOff := d.f 6 14 0 }

structure BlinkArgs where
  headGrp : Nat
  layer : Nat
  stall : Nat
  tint : Nat
  k : Nat
  sketch : Nat
  list : Nat
  doneSpace : Nat
  doneIdx : Nat
deriving DecidableEq, Repr

def Fetched.blink (d : Fetched) : BlinkArgs :=
  { headGrp := d.f 2 29 22, layer := d.f 2 21 14, stall := d.f 2 13 0, tint := d.f 3 28 26, k := d.f 3 25 16,
    sketch := d.f 3 14 0, list := d.f 4 14 0, doneSpace := d.f 4 30 28, doneIdx := d.f 4 25 16 }

structure DispatchArgs where
  tokens : Nat
  topk : Nat
  layer : Nat
  sel : Nat
  tok : Nat
  ret : Nat
  doneSpace : Nat
  doneIdx : Nat
deriving DecidableEq, Repr

def Fetched.dispatch (d : Fetched) : DispatchArgs :=
  { tokens := d.f 2 24 12, topk := d.f 2 11 8, layer := d.f 2 7 0, sel := d.f 3 14 0, tok := d.f 3 30 16,
    ret := d.f 4 14 0, doneSpace := d.f 4 30 28, doneIdx := d.f 4 25 16 }

/-! ### SIGNAL, WAIT, BRANCH and LOOP (R74 to R78) -/

def Fetched.ctrSpace (d : Fetched) : Nat := d.f 2 31 29
def Fetched.ctrModule (d : Fetched) : Nat := d.f 2 28 24
def Fetched.ctrIndex (d : Fetched) : Nat := d.f 2 16 0
def Fetched.amount (d : Fetched) : Int := signedOf 16 (d.f 3 15 0)
def Fetched.threshold (d : Fetched) : Word := d.w 3
def Fetched.cmp (d : Fetched) : Nat := d.f 4 1 0
def Fetched.timeout (d : Fetched) : Nat := d.f 4 31 16
def Fetched.branchOffset (d : Fetched) : Int := signedOf 16 (d.f 4 31 16)
def Fetched.loopCount (d : Fetched) : Nat := d.f 2 31 16
def Fetched.bodyLen (d : Fetched) : Nat := d.f 2 15 8

/-- The four patches of a LOOP: position, word and delta. -/
def Fetched.patches (d : Fetched) : List (Nat × Nat × Int) :=
  (List.range 4).map fun p => (d.f (3 + p) 31 24, d.f (3 + p) 23 20, signedOf 20 (d.f (3 + p) 19 0))

/-- The counter of a SIGNAL, WAIT or BRANCH on this module (R74). Space 1 names the core in its index. -/
def Fetched.counter (d : Fetched) (own : CoreId) : Option CounterId :=
  match d.ctrSpace with
  | 0 => counterAt 0 (some own) d.ctrIndex
  | 1 => match coreOf (d.ctrIndex / 64) with
    | some c => counterAt 0 (some c) (d.ctrIndex % 64)
    | none => none
  | 2 => counterAt 2 none d.ctrIndex
  | 3 => counterAt 3 none d.ctrIndex
  | 4 => counterAt 2 none d.ctrIndex
  | _ => none

/-- The comparison of R74: 0 ≥, 1 <, 2 =, 3 ≠, on 32-bit unsigned numbers. -/
def cmpHolds (cmp : Nat) (v t : Word) : Bool :=
  match cmp with
  | 0 => decide (t.toNat ≤ v.toNat)
  | 1 => decide (v.toNat < t.toNat)
  | 2 => v == t
  | _ => v != t

/-- A counter index within the limits of its space (R66, R74). -/
def counterIndexOk (space index : Nat) : Bool :=
  match space with
  | 0 => decide (index < 48)
  | 1 => (coreOf (index / 64)).isSome && decide (index % 64 < 48)
  | 2 | 4 => decide (index < 256)
  | 3 => decide (index < 1024)
  | _ => false

/-! ### Fetch checks (R59) -/

/-- The bits of the sixteen words that an opcode defines; every other bit is reserved. -/
def definedBits (op : Nat) : List Nat :=
  [0xFFC007FF, 0xFFFFF3FF] ++ match op with
  | 1 => [0xFFFFC000, 0xFFFFFFFF, 0xFFFF0000, 0x7FFF, 0x7FFFF, 0x7FFF, 0x7FFFF, 0x7FFF, 0x7FFFF, 0x7FFF, 0xFFFFFFFF,
          0xFFFF, 0, 0]
  | 2 => [0xFFFFC000, 0xFFFFFF, 0x7FFF7FFF, 0x7FFF7FFF, 0xFFFFFFFF, 0xFFFFF, 0, 0, 0, 0, 0, 0, 0, 0]
  | 3 => [0xFFC00000, 0xFFFFFF, 0xFFFFFFFF, 0x1FFFF, 0xFFFFFFFF, 0x1FFFF, 0xFFFF, 0xFFFFFFFF, 0xFFFFFFFF, 0, 0, 0, 0,
          0]
  | 4 => [0xFFFFFFFF, 0xFFFFFF, 0xFFFFFFFF, 0x1FFFF, 0xFFFFFFFF, 0x7FFF, 0, 0, 0, 0, 0, 0, 0, 0]
  | 5 => [0xFFFFFFFF, 0xFFFFFFFF, 0x7FFF7FFF, 0x0FFF7FFF, 0x7FFF, 0, 0, 0, 0, 0, 0, 0, 0, 0]
  | 6 => [0x3FFFFFFF, 0x1FFF7FFF, 0x73FF7FFF, 0, 0, 0, 0, 0, 0, 0, 0, 0, 0, 0]
  | 7 => [0x01FFFFFF, 0x7FFF7FFF, 0x73FF7FFF, 0, 0, 0, 0, 0, 0, 0, 0, 0, 0, 0]
  | 8 => [0xFF01FFFF, 0xFFFF, 0, 0, 0, 0, 0, 0, 0, 0, 0, 0, 0, 0]
  | 9 | 11 => [0xFF01FFFF, 0xFFFFFFFF, 0xFFFF0003, 0, 0, 0, 0, 0, 0, 0, 0, 0, 0, 0]
  | 10 => [0xFFFFFF00, 0xFFFFFFFF, 0xFFFFFFFF, 0xFFFFFFFF, 0xFFFFFFFF, 0, 0, 0, 0, 0, 0, 0, 0, 0]
  | _ => []

/-- Every reserved bit is 0. -/
def Fetched.reservedOk (d : Fetched) : Bool :=
  (d.words.zip (definedBits d.opcode)).all fun (w, m) => w &&& ~~~(BitVec.ofNat 32 m) == 0

/-- A space of a header signal or a done counter. -/
def doneSpaceOk (s : Nat) : Bool := s == 0 || s == 2 || s == 3

/-- Fetch check 2. -/
def Fetched.formatOk (d : Fetched) : Bool :=
  d.reservedOk && doneSpaceOk d.sigSpace && match d.opcode with
  | 1 => d.matmul.formatOk
  | 2 => d.vector.formatOk
  | 3 => d.move.formatOk
  | 5 => decide (d.f 2 31 30 ≤ 1) && (d.attend.list || d.attend.listOff == 0)
  | 6 => decide (d.blink.tint ≤ 4) && doneSpaceOk d.blink.doneSpace
  | 7 => doneSpaceOk d.dispatch.doneSpace
  | 8 => decide (d.ctrSpace ≤ 4) && (d.ctrSpace == 4 || d.ctrModule == 0)
  | 9 | 11 => doneSpaceOk d.ctrSpace && d.ctrModule == 0
  | 10 => d.patches.all fun (_, w, delta) => delta == 0 || decide (2 ≤ w)
  | _ => true

/-- Fetch check 4, for a ring of `ring` descriptors. -/
def Fetched.operandOk (d : Fetched) (ring : Nat) : Bool :=
  counterIndexOk d.sigSpace d.sigIdx && match d.opcode with
  | 1 => d.matmul.operandOk
  | 2 => d.vector.operandOk
  | 3 => d.move.operandOk
  | 4 => d.gather.operandOk
  | 5 =>
    let x := d.attend
    decide (1 ≤ x.qCount ∧ x.qCount ≤ 64) && decide (x.qOff < scratchUnits) && decide (x.outOff < scratchUnits)
      && decide (x.listOff < scratchUnits) && decide (x.workOff < scratchUnits)
  | 6 =>
    let x := d.blink
    decide (1 ≤ x.k) && counterIndexOk x.doneSpace x.doneIdx && (spanOf false x.sketch 128).fits
      && (spanOf false x.list (8 + 4 * x.k)).fits
  | 7 =>
    let x := d.dispatch
    decide (1 ≤ x.tokens ∧ x.tokens ≤ 4096 ∧ 1 ≤ x.topk ∧ x.topk ≤ 8) && counterIndexOk x.doneSpace x.doneIdx
      && (spanOf false x.sel (4 * x.topk * x.tokens)).fits && decide (x.tok < scratchUnits)
      && decide (x.ret < scratchUnits)
  | 8 => d.amount != 0 && counterIndexOk d.ctrSpace d.ctrIndex
  | 9 => counterIndexOk d.ctrSpace d.ctrIndex
  | 10 =>
    decide (1 ≤ d.loopCount ∧ 1 ≤ d.bodyLen ∧ d.bodyLen < ring)
      && d.patches.all fun (pos, _, delta) => delta == 0 || decide (pos < d.bodyLen)
  | 11 => counterIndexOk d.ctrSpace d.ctrIndex && d.branchOffset != 0 && d.branchOffset != 1
  | _ => true

/-- The fault of the first fetch check that fails (R59). -/
def Fetched.check (d : Fetched) (ring : Nat) : Option FaultCode :=
  if d.opcode = 0 ∨ 11 < d.opcode then some Flt.RKN_DESC_BAD_OPCODE
  else if !d.formatOk then some Flt.RKN_DESC_BAD_FORMAT
  else if d.bound = 0 ∨ 1638 < d.bound then some Flt.RKN_DESC_BAD_BOUND
  else if !d.operandOk ring then some Flt.RKN_DESC_BAD_OPERAND
  else none

/-- The fetched copy of a descriptor under the loops it is fetched in (R78): each patch of its position adds
iteration × delta, modulo 2^32, to its word. -/
def patchWords (index : BitVec 16) (ws : List Word) : List LoopFrame → List Word
  | [] => ws
  | f :: fs =>
    let pos := (index - f.first).toNat
    let ws := f.patches.foldl (fun ws (p, w, delta) =>
      if delta ≠ 0 ∧ p = pos then ws.set w (ws.getD w 0 + BitVec.ofInt 32 (f.iter * delta)) else ws) ws
    patchWords index ws fs

end Sys2Proof.Machine
end

