-- ==== Sys2Proof/Machine/CoreOps.lean ====
section
/-! DEFINITION. Queues of a core: the clock of a field, loops and heads, the completion of a descriptor and the halt of
a queue (R32, R39, R55, R60 to R65, R78). -/

namespace Sys2Proof.Machine

/-! ### Admission of a bound -/

/-- What R39 and R40 make of a bound at stride cycle `c`. -/
inductive Admission where
  | fits
  | held
  | clockHeld
deriving DecidableEq, Repr

def State.admission (s : State) (c : CoreId) (b cyc : Nat) : Admission :=
  let n := s.strideCycles c b
  if s.clk.len < n then .clockHeld else if cyc + n ≤ s.clk.len then .fits else .held

/-! ### Addresses -/

/-- The module's own index (R372). -/
def State.moduleIndex (s : State) : Nat := s.regF Reg.FAB_POS 4 0

/-- An address of this module as a rack global one (R29). -/
def State.global (s : State) (a : Nat) : Nat := s.moduleIndex * 2 ^ 44 + a

def State.isHome (s : State) (a : Nat) : Bool := a / 2 ^ 44 == s.moduleIndex

/-- The units of a core's own scratch that a range of the rack global space starts in (R55). -/
def State.scratchSpan (s : State) (c : CoreId) (a n : Nat) : List Span :=
  let l := a % 2 ^ 44
  if s.isHome a ∧ scratchAddr c 0 ≤ l ∧ l < scratchAddr c 0x180000 then [spanBytes (l - scratchAddr c 0) n] else []

/-! ### Rings and loops -/

def Queue.ringSize (v : Queue) : Nat := 2 ^ v.ringLog2

/-- Descriptors from head up to tail − 1 are present (R57). -/
def Queue.present (v : Queue) (i : BitVec 16) : Bool := decide ((i - v.head).toNat < (v.tail - v.head).toNat)

/-- Byte offset in scratch of the slot of an index (R57). -/
def Queue.slotOffset (v : Queue) (i : BitVec 16) : Nat := (v.base + i.toNat % v.ringSize) * 64

/-- Completion entries in use. Entries of started descriptors count as taken. DEDUCED, assumption 20. -/
def Queue.cplUsed (v : Queue) : Nat := (v.cplTail - v.cplHead).toNat + v.ending.length + v.exec.length

def Queue.cplFull (v : Queue) : Bool := decide (2 ^ v.cplLog2 ≤ v.cplUsed)

/-- The loops and the index at which execution continues at index `p`: a body's end starts its next iteration or
leaves the loop (R78). -/
def stepLoops : List LoopFrame → BitVec 16 → List LoopFrame × BitVec 16
  | [], p => ([], p)
  | f :: fs, p =>
    if p = f.first + BitVec.ofNat 16 f.len then
      (if f.iter + 1 < f.count then ({ f with iter := f.iter + 1 } :: fs, f.first) else stepLoops fs p)
    else (f :: fs, p)

/-- Execution continues at `p`. -/
def Queue.goTo (v : Queue) (loops : List LoopFrame) (p : BitVec 16) : Queue :=
  let (l, p') := stepLoops loops p
  { v with loops := l, pc := p' }

/-- The oldest of indices, counted from head. -/
def oldest (head : BitVec 16) (p : BitVec 16) (l : List (BitVec 16)) : BitVec 16 :=
  l.foldl (fun m i => if (i - head).toNat < (m - head).toNat then i else m) p

/-- Head: the oldest descriptor not retired, the outermost LOOP while it runs (R57, R78). -/
def Queue.newHead (v : Queue) : BitVec 16 :=
  oldest v.head v.pc
    (v.exec.map (·.desc.index) ++ (match v.loops.getLast? with | some f => [f.first - 1] | none => []))

/-- The queue's head and state brought up to date (R57, R65). A hold of R39 or R40 lasts until the boundary, CPL_FULL until the completion ring
has a free entry. -/
def Queue.settle (v : Queue) : Queue :=
  if !v.on then { v with st := .disabled }
  else if v.st = .halted then v
  else
    let v := { v with head := v.newHead }
    if v.wait.any fun w => !w.branch && !w.held then { v with st := .waiting }
    else if v.st = .cplFull ∧ v.cplFull ∧ v.tail ≠ v.head then v
    else if (v.st = .boundaryHold ∨ v.st = .clockHeld) ∧ (v.fetched.isSome ∨ v.wait.isSome) then v
    else if v.exec ≠ [] ∨ v.tail ≠ v.head then { v with st := .running }
    else { v with st := .idle }

def State.settleQueue (s : State) (q : QueueId) : State := s.setQueue q (s.queue q).settle

/-- The queue's core is in service: ON and not failed (R87, R456). -/
def State.coreLive (s : State) (c : CoreId) : Bool :=
  let u := s.unit (.core c)
  u.st == .on && !u.failed

/-- The state a queue shows and its registers go by (R65): DISABLED too while its core is not ON. -/
def State.queueState (s : State) (q : QueueId) : QState := if s.isOn (.core q.core) then (s.queue q).st else .disabled

/-- The root's watches of a queue withdrawn (R42, R334); a RELEASE on its way for one is discarded. -/
def State.withdrawWatches (s : State) (q : QueueId) : State :=
  { s with hitch := { s.hitch with watches := s.hitch.watches.filter fun w => w.q != q
                                   releases := s.hitch.releases.filter fun r => r.q != q } }

def State.queueBlock (_ : State) (q : QueueId) : Word := coreBlock q.core q.q.val

/-- A fault raised to the job of a queue. -/
def State.raiseQueue (s : State) (q : QueueId) (f : FaultCode) (detail : Nat) : State :=
  s.raiseTo f (coreBlock q.core q.q.val) (s.queue q).job detail

/-- The accessor of a queue's own accesses (R58). -/
def State.accessor (s : State) (q : QueueId) : Accessor :=
  ⟨(s.queue q).job, some q.core, coreBlock q.core q.q.val⟩

/-! ### Completion -/

/-- The words of a completion record (R62). -/
def cplWords (q : Fin 4) (d : Fetched) (status : Nat) (stride : BitVec 48) (exc : Word) : List Word :=
  [BitVec.ofNat 32 (d.tag * 65536 + status * 256 + d.opcode),
   BitVec.ofNat 32 (putBits 31 30 q.val + d.offset),
   BitVec.ofNat 32 stride.toNat, exc]

/-- The queue halts at a descriptor (R63). The first descriptor that halts it stays named. -/
def State.haltQueue (s : State) (q : QueueId) (d : Fetched) : State :=
  let v := s.queue q
  if v.st = .halted then s
  else (s.withdrawWatches q).setQueue q
    { v with st := .halted, haltIndex := d.index, head := d.index, pc := d.index, loops := d.loops, fetched := none, wait := none }

/-! ### Started descriptors -/

/-- The started descriptor of a queue with an opcode whose operations are not yet complete, the oldest first. -/
def Queue.runningOf (v : Queue) (op : Nat) : Option Exec :=
  v.exec.find? fun e => e.desc.opcode == op && !e.complete

/-- The bound of a started descriptor has run out (R41): nothing more is done for it. What ends in the very cycle is within the bound (R61). -/
def State.boundPast (s : State) (c : CoreId) (e : Exec) : Bool :=
  decide (e.stride < s.clk.bnd ∨ e.start + s.strideCycles c e.desc.bound < s.clk.cycle)

/-- The started descriptor of a queue with an opcode that still has operations to do, within its bound. -/
def State.running (s : State) (q : QueueId) (op : Nat) : Option Exec :=
  match (s.queue q).runningOf op with
  | some e => if s.boundPast q.core e then none else some e
  | none => none

/-- A started descriptor replaced. -/
def Queue.setExec (v : Queue) (e : Exec) : Queue :=
  { v with exec := v.exec.map fun x => if x.desc.index = e.desc.index then e else x }

def Queue.dropExec (v : Queue) (i : BitVec 16) : Queue := { v with exec := v.exec.filter fun x => x.desc.index != i }

/-- A started descriptor's operations are complete with a status and exception counts. -/
def State.complete (s : State) (q : QueueId) (e : Exec) (status : Nat) (exc : Exc) : State :=
  let v := s.queue q
  s.setQueue q (v.setExec { e with complete := true, status := max e.status status, exc := e.exc.add exc, doneAt := s.clk.cycle })

/-- The status of a descriptor that ran on the values it received (R62). -/
def accessStatus (st : Status) : Nat := if st = .ok then stOk else stAccess

/-- Live transactions of a descriptor that have not ended; those of completion records are none of theirs. -/
def Core.pendingOf (k : Core) (q : Fin 4) (i : BitVec 16) : List Txn :=
  k.mover.filter fun t => t.q == q && t.index == i && t.live && t.kind != 0

/-- Whether nothing more is issued on account of a transaction: it has gone, and what it brings goes to the core's own scratch or nowhere. -/
def State.lastOf (s : State) (c : CoreId) (t : Txn) : Bool :=
  t.issued && match t.ret with
    | none => true
    | some a => s.scratchSpan c a 1 != []

/-- The predecessor has issued its last operation, or has retired where wait_prior asks for it (R60). -/
def State.predecessorsOk (s : State) (q : QueueId) (d : Fetched) : Bool :=
  let k := s.core q.core
  let v := k.queue q.q
  if d.waitPrior then v.exec.isEmpty
  else v.exec.all fun e => e.complete && (k.pendingOf q.q e.desc.index).all (s.lastOf q.core)

/-- Engines occupied by the started descriptors of a core (R79: one executing descriptor per engine). -/
def Core.enginesBusy (k : Core) : Nat :=
  ([k.q0, k.q1, k.q2, k.q3].flatMap (·.exec)).foldl (fun m e => m ||| enginesOf e.desc.opcode) 0

/-- The entries of a core's scoreboard (R55): the scratch ranges that loads it has issued have yet to write. Every other operation of the
model reads and writes its ranges in the step that issues it. -/
def State.hazards (s : State) (c : CoreId) : List Span :=
  (s.core c).mover.flatMap fun t => match t.ret with
    | some a => if t.live && t.issued then s.scratchSpan c a t.len else []
    | none => []

/-- Entries a scoreboard holds at most. -/
def scoreboardSize : Nat := 256

/-- An operation on the given ranges waits for an older entry of the scoreboard, or for a free one (R55). -/
def State.hazard (s : State) (c : CoreId) (l : List Span) : Bool :=
  decide (scoreboardSize ≤ (s.hazards c).length) || (s.hazards c).any fun h => l.any h.meets

/-- The page requests of an ATTEND, and an answer that refuses one, are gone (R163): it asks for nothing any more. -/
def State.dropRequests (s : State) (q : QueueId) (i : BitVec 16) : State :=
  { s with stb := { s.stb with requests := s.stb.requests.filter fun r => !(r.q == q && r.index == i),
                               refused := s.stb.refused.filter (· != (q, i)) } }

/-! ### Changes of the router set -/

/-- The router set changes for some cores, by global core ID: their transactions under way end before the next one starts (R82). -/
def State.drainRouters (s : State) (p : Nat → Bool) : State :=
  { s with cores := s.cores.mapVals fun g (k : Core) => if p g && k.mover.any (·.issued) then { k with drain := true } else k }

/-! ### Effects on one queue that registers and boundaries request -/

/-- The enable of a queue judged at its boundary (R89). A queue disabled inside a loop leaves every loop: enabled again, it runs the descriptor at
head, which is the outermost LOOP, from iteration 0. DESIGN CHOICE, assumption 139. -/
def State.queueEnabled (s : State) (q : QueueId) (on : Bool) : State :=
  let v := s.queue q
  if !on then
    (s.withdrawWatches q).setQueue q
      { v with on := false, st := .disabled, fetched := none, wait := none, loops := [], pc := v.head }
  else if v.on then s
  else if v.ringLog2 < 4 ∨ 12 < v.ringLog2 ∨ v.cplLog2 < 6 ∨ 15 < v.cplLog2 ∨ scratchUnits < v.base + v.ringSize then
    let ctl := putBits 31 31 1 + putBits 24 21 v.ringLog2 + putBits 20 16 v.cplLog2 + v.job
    (s.setQueue q { v with enable := false }).logFault Flt.RKN_QUEUE_CONFIG (coreBlock q.core q.q.val) ctl
  else if (s.unit (.core q.core)).st = .on then
    (s.setQueue q { v with on := true, st := .idle, pc := v.head, loops := [], fetched := none, wait := none }).settleQueue
      q
  else s

/-- A halted queue resumes at its boundary (R64): 1 runs the descriptor at head again, 2 skips it. A head written
anew has left every loop. -/
def State.queueResumed (s : State) (q : QueueId) (skip : Bool) : State :=
  let v := s.queue q
  if v.st ≠ .halted then s
  else
    let v := { v with st := .idle, fetched := none, wait := none }
    let v := if skip then v.goTo v.loops (v.head + 1) else { v with pc := v.head }
    (s.setQueue q v).settleQueue q

/-- One more boundary has elapsed for a WAIT whose condition does not hold (R74, R76). -/
def Waiting.elapse (w : Waiting) : Waiting := if w.held then w else { w with timeout := w.timeout.map (· - 1) }

/-- The boundary's effect on a queue: a WAIT's time-out counts, a BOUNDARY_HOLD ends, a CLOCK_HELD ends where the bound now fits
(R39, R40, R76). -/
def State.queueBoundary (s : State) (q : QueueId) : State :=
  let s := s.setQueue q { s.queue q with wait := (s.queue q).wait.map Waiting.elapse }
  let v := s.queue q
  let bound := match v.fetched, v.wait with
    | some d, _ => d.bound
    | none, some w => w.desc.bound
    | none, none => 0
  if v.st = .boundaryHold then (s.setQueue q { v with st := .running }).settleQueue q
  else if v.st = .clockHeld ∧ s.strideCycles q.core bound ≤ s.clk.len then
    (s.setQueue q { v with st := .running }).settleQueue q
  else s

end Sys2Proof.Machine
end

