-- ==== Sys2Proof/Machine/StableOps.lean ====
section
/-! DEFINITION. The Stable manager's data: stall records, page pools, page tables, the prefix directory, rebuilds and
evictions (R182 to R201, R211 to R214, R238). -/

namespace Sys2Proof.Machine

def State.stall (s : State) (i : Nat) : Stall := s.stb.stalls.getD i .reset
def State.setStall (s : State) (i : Nat) (x : Stall) : State :=
  { s with stb := { s.stb with stalls := s.stb.stalls.put i x } }

/-- The Stable manager accesses its tables as job 0 (R189), and a stall's pages and history under the stall's job. -/
def stableAccess (job : Nat) : Accessor := engineAccess job blkSTB

/-- A 44-bit module-local base from its two registers. -/
def State.baseOf (s : State) (lo hi mask : Nat) : Nat := s.regF lo 31 mask * 2 ^ mask + s.regF hi 11 0 * 2 ^ 32

/-! ### Records (R182, R183) -/

/-- The 64 words of a record. Of `attached`, the 64 × hits of R199, its 18 bits are shown (DEDUCED, assumption 135). -/
def Stall.words (x : Stall) : List Word :=
  let i := x.img
  let n (v : Nat) : Word := BitVec.ofNat 32 v
  [n (x.st.code * 2 ^ 28 + putBits 27 27 (bitOf x.rp) + putBits 26 26 (bitOf x.rebuild)
      + putBits 25 25 (bitOf x.hostPark) + putBits 24 24 (bitOf i.publish) + putBits 23 21 i.cls + putBits 20 19 i.pool
      + x.job),
   n (putBits 31 28 x.specW + x.seqLen), n i.promptLen, n x.histLen, n i.maxLen, n i.blinkThresh,
   n i.hist, n (i.hist / 2 ^ 32), n (putBits 31 12 x.root + putBits 11 8 i.groups + i.layers), n i.pubLimit,
   n i.out, n (i.out / 2 ^ 32), n (putBits 31 27 i.outLog2 + putBits 10 10 (bitOf i.outSig) + i.hostCtr), x.outTail,
   n x.admitStride.toNat, n (x.admitStride.toNat / 2 ^ 32), n (x.attached % 2 ^ 18), n x.skips, n x.held, 0]
    ++ x.tent ++ [0, 0, 0, 0] ++ i.user

/-- Chunks of 1,024 pages that a stall's table has for each layer and group (R183). -/
def StallImage.chunks (i : StallImage) : Nat := ceilDiv i.maxLen 65536

/-- The record image in 64 words. -/
def imageOf (ws : List Word) : StallImage :=
  let w (i : Nat) : Word := ws.getD i 0
  { publish := (w 0).bit 24, cls := (w 0).field 23 21, pool := (w 0).field 20 19, promptLen := (w 2).field 23 0,
    maxLen := (w 4).field 23 0, blinkThresh := (w 5).field 23 0,
    hist := (w 6).field 31 2 * 4 + (w 7).field 11 0 * 2 ^ 32, groups := (w 8).field 11 8, layers := (w 8).field 7 0,
    pubLimit := (w 9).field 17 0, out := (w 10).field 31 3 * 8 + (w 11).toNat * 2 ^ 32,
    outLog2 := (w 12).field 31 27, outSig := (w 12).bit 10, hostCtr := (w 12).field 9 0,
    user := (ws.drop 32).take 32 }

/-- The fields of an image that the record's table marks reserved. DEDUCED, assumption 25. -/
def imageReserved (ws : List Word) : Bool :=
  let w (i : Nat) : Word := ws.getD i 0
  (w 0).field 18 12 == 0 && (w 1).field 27 24 == 0 && (w 12).field 26 11 == 0 && w 19 == 0
    && [28, 29, 30, 31].all fun i => w i == 0

/-! ### Page pools (R187, R188) -/

structure Pool where
  on : Bool
  base : Nat
  log2 : Nat
  first : Nat
  count : Nat
  reserve : Nat
deriving DecidableEq, Repr

def State.pool (s : State) (p : Nat) : Pool :=
  let o := 0x20 * p
  { on := s.regF (Reg.STB_POOLp_CFG + o) 31 31 == 1,
    base := s.baseOf (Reg.STB_POOLp_LO + o) (Reg.STB_POOLp_HI + o) 14,
    log2 := s.regF (Reg.STB_POOLp_CFG + o) 4 0,
    first := s.regF (Reg.STB_POOLp_FIRST + o) 23 0,
    count := s.regF (Reg.STB_POOLp_COUNT + o) 24 0,
    reserve := s.liveF (Reg.STB_POOLp_RSV + o) 23 0 }

/-- The pool whose configuration keeps the Stable manager in STARTING, if any (R187). -/
def State.badPool (s : State) : Option Nat :=
  (List.range 4).find? fun p =>
    let a := s.pool p
    a.on && (decide (a.log2 < 14 ∨ 18 < a.log2 ∨ 2 ^ 24 < a.first + a.count)
      || (List.range 4).any fun r =>
        let b := s.pool r
        r != p && b.on && decide (a.first < b.first + b.count) && decide (b.first < a.first + a.count))

/-- The page pools judged as the Stable manager enters STARTING (R187). -/
def State.judgePools (s : State) : State :=
  match s.badPool with
  | some p => s.logFault Flt.STB_CONFIG blkSTB p
  | none => s

def imageValid (s : State) (ws : List Word) : Bool :=
  let i := imageOf ws
  imageReserved ws && decide (1 ≤ i.promptLen ∧ i.promptLen ≤ i.maxLen) && (s.pool i.pool).on
    && decide (4 ≤ i.outLog2 ∧ i.outLog2 ≤ 20) && decide ((i.layers + 1) * (i.groups + 1) * i.chunks ≤ 1024)

/-- The pool a page belongs to. -/
def State.poolOfPage (s : State) (n : Nat) : Option Pool :=
  ((List.range 4).map s.pool).find? fun a => a.on && decide (a.first ≤ n) && decide (n < a.first + a.count)

def Pool.pageAddr (a : Pool) (n : Nat) : Nat := a.base + (n - a.first) * 2 ^ a.log2

/-- The sketch of a page (R166). -/
def State.sketchAddr (s : State) (n : Nat) : Nat := s.baseOf Reg.BLN_SKETCH_LO Reg.BLN_SKETCH_HI 12 + 128 * n

def State.refs (s : State) (n : Nat) : Nat := s.stb.refs.getD n 0

/-- Free pages of a pool. -/
def State.freePages (s : State) (a : Pool) : List Nat :=
  ((List.range a.count).map (a.first + ·)).filter fun n => s.refs n == 0

/-- Bytes of lines zeroed with their stored poison and key tags, as job 0 writes them, in their slots too where the lines are
displaced. -/
def State.zeroiseLines (s : State) (a n : Nat) : State :=
  let inside (l : Nat) : Bool := decide (a / 128 ≤ l) && decide (l < ceilDiv (a + n) 128)
  let s := s.zeroRange a n
  { s with dram := { s.dram with
      lines := s.dram.lines.filter fun e => !inside e.1
      slotMeta := s.dram.slotMeta.filter fun e => !inside e.1
      slotClean := (a / 128, ceilDiv (a + n) 128) :: s.dram.slotClean } }

def State.setRefs (s : State) (n k : Nat) : State :=
  { s with stb := { s.stb with refs := if k = 0 then s.stb.refs.drop n else s.stb.refs.put n k } }

/-- One reference to a page dropped; a page without references is free, zeroised where asked (R191). -/
def State.dropRef (s : State) (n : Nat) : State :=
  let k := s.refs n
  let s := s.setRefs n (k - 1)
  if k = 1 ∧ s.regF Reg.STB_ADMIT_CTL 8 8 = 1 then
    match s.poolOfPage n with
    | some a => s.zeroiseLines (a.pageAddr n) (2 ^ a.log2)
    | none => s
  else s

def State.addRef (s : State) (n : Nat) : State := s.setRefs n (s.refs n + 1)

/-- One of a list, which of them the manual does not say: a free value chooses. -/
def State.pick (s : State) (l : List Nat) : Option Nat × State :=
  if l.isEmpty then (none, s)
  else
    let got := s.takeFree
    let v := got.1
    let s := got.2
    (l[v % l.length]?, s)

/-- A page allocated with one reference, using the pool's reserve or not (R192). Which free page is taken is a free
value (assumption 26). -/
def State.allocPage (s : State) (a : Pool) (reserve : Bool) : Option Nat × State :=
  let free := s.freePages a
  if !reserve && decide (free.length ≤ a.reserve) then (none, s)
  else match s.pick free with
    | (some n, s) => (some n, s.setRefs n 1)
    | r => r

/-! ### Page tables (R189, R190) -/

def State.frameAddr (s : State) (f : Nat) : Nat := s.baseOf Reg.STB_TPOOL_LO Reg.STB_TPOOL_HI 12 + f * 4096

def State.freeFrames (s : State) : List Nat :=
  (List.range (s.regF Reg.STB_TPOOL_FRAMES 19 0)).filter fun f => f ∉ s.stb.frames

/-- A word of the manager's own tables, as a read of job 0 gives it, and its write as job 0. A word that cannot be read counts as an
absent entry (DESIGN CHOICE, assumption 136). -/
def State.tableWord (s : State) (a : Nat) : Word := ((s.loadWord (stableAccess 0) a).1).getD 0
def State.setTableWord (s : State) (a : Nat) (w : Word) : State := (s.storeWords (stableAccess 0) a [w]).2

/-- A table frame taken into use and filled with zeros. -/
def State.takeFrame (s : State) (f : Nat) : State :=
  let s := s.zeroiseLines (s.frameAddr f) 4096
  { s with stb := { s.stb with frames := f :: s.stb.frames } }

/-- A table frame allocated. Which free frame is taken is a free value. -/
def State.allocFrame (s : State) : Option Nat × State :=
  match s.pick s.freeFrames with
  | (some f, s) => (some f, s.takeFrame f)
  | r => r

def State.freeFrame (s : State) (f : Nat) : State :=
  { s with stb := { s.stb with frames := s.stb.frames.filter (· != f) } }

/-- A page key. -/
structure PageKey where
  layer : Nat
  grp : Nat
  page : Nat
deriving DecidableEq, Repr

/-- The key lies within the stall's table. -/
def Stall.keyOk (x : Stall) (k : PageKey) : Bool :=
  decide (k.layer ≤ x.img.layers ∧ k.grp ≤ x.img.groups ∧ k.page < ceilDiv x.img.maxLen 64)

/-- The index of a key in the level-1 table. -/
def Stall.level1 (x : Stall) (k : PageKey) : Nat :=
  (k.layer * (x.img.groups + 1) + k.grp) * x.img.chunks + k.page / 1024

def State.level1Addr (s : State) (x : Stall) (k : PageKey) : Nat := s.frameAddr x.root + 4 * x.level1 k

/-- The address of a key's level-2 entry, where its frame is present. -/
def State.entryAddr (s : State) (x : Stall) (k : PageKey) : Option Nat :=
  let w := s.tableWord (s.level1Addr x k)
  if x.keyOk k && w.bit 31 then some (s.frameAddr (w.field 19 0) + 4 * (k.page % 1024)) else none

/-- The page a level-2 entry names, resident in its pool. -/
def residentPage (w : Word) : Option Nat := if w.bit 31 && !w.bit 30 then some (w.field 23 0) else none

def State.pageOf (s : State) (x : Stall) (k : PageKey) : Option Nat :=
  (s.entryAddr x k).bind fun a => residentPage (s.tableWord a)

/-- The same under a job's own accesses, as cores and engines read the table (R157). -/
def State.readPage (s : State) (w : Accessor) (x : Stall) (k : PageKey) : Option Nat × State :=
  if !x.keyOk k then (none, s)
  else match s.loadWord w (s.level1Addr x k) with
    | (some v, s) =>
      if v.bit 31 then
        match s.loadWord w (s.frameAddr (v.field 19 0) + 4 * (k.page % 1024)) with
        | (some e, s) => (residentPage e, s)
        | (none, s) => (none, s)
      else (none, s)
    | (none, s) => (none, s)

/-- A key's level-2 entry written, its frame allocated where it is missing; none when no frame is free. -/
def State.enterPage (s : State) (i : Nat) (k : PageKey) (w : Word) : Option State :=
  let x := s.stall i
  match s.entryAddr x k with
  | some a => some (s.setTableWord a w)
  | none =>
    match s.allocFrame with
    | (some f, s) =>
      let s := s.setTableWord (s.level1Addr x k) (BitVec.ofNat 32 (2 ^ 31 + f))
      some (s.setTableWord (s.frameAddr f + 4 * (k.page % 1024)) w)
    | (none, _) => none

def residentWord (n : Nat) : Word := BitVec.ofNat 32 (2 ^ 31 + n)

/-- The entries a stall's table holds, in level-1 then level-2 order: key, address and word. -/
def State.entries (s : State) (x : Stall) : List (PageKey × Nat × Word) :=
  (List.range (x.img.layers + 1)).flatMap fun l => (List.range (x.img.groups + 1)).flatMap fun g =>
    (List.range x.img.chunks).flatMap fun c =>
      let w := s.tableWord (s.level1Addr x ⟨l, g, c * 1024⟩)
      if w.bit 31 then
        (List.range 1024).filterMap fun i =>
          let a := s.frameAddr (w.field 19 0) + 4 * i
          let e := s.tableWord a
          if e.bit 31 then some (⟨l, g, c * 1024 + i⟩, a, e) else none
      else []

/-- The frames of a stall's table, its root among them. -/
def State.framesOf (s : State) (x : Stall) : List Nat :=
  x.root :: (List.range ((x.img.layers + 1) * (x.img.groups + 1) * x.img.chunks)).filterMap fun i =>
    let w := s.tableWord (s.frameAddr x.root + 4 * i)
    if w.bit 31 then some (w.field 19 0) else none

def State.modifyStall (s : State) (i : Nat) (f : Stall → Stall) : State := s.setStall i (f (s.stall i))

/-- A stall's references to the pages of some keys dropped and their entries cleared. -/
def State.dropPages (s : State) (i : Nat) (p : PageKey → Bool) : State :=
  (s.entries (s.stall i)).foldl (fun s (k, a, e) =>
    if p k then
      let s := s.setTableWord a 0
      match residentPage e with
      | some n => (s.dropRef n).modifyStall i fun x => { x with held := x.held - 1 }
      | none => s
    else s) s

/-- A page entered for a stall with the reference it already holds. -/
def State.holdPage (s : State) (i : Nat) (k : PageKey) (n : Nat) : Option State :=
  (s.enterPage i k (residentWord n)).map fun s => s.modifyStall i fun x => { x with held := x.held + 1 }

/-! ### Copies (R192) -/

/-- Bytes copied line by line under a job, and whether every access was applied: poison is never copied as data (R238). -/
def State.copyBytes (s : State) (w : Accessor) (src dst n : Nat) : Bool × State :=
  (splitAt 128 src n).foldl (fun (acc : Bool × State) (a, m) =>
    let got := acc.2.load w a m
    if got.2.1 ≠ .ok then (false, got.2.2)
    else
      let put := got.2.2.store w (dst + (a - src)) got.1
      (acc.1 && put.1 == .ok, put.2)) (true, s)

/-- What copy on write copies of a page: the page, and its sketch where the page is full (R192). -/
def State.copyPage (s : State) (w : Accessor) (from_ to_ : Pool) (n m : Nat) (full : Bool) : Bool × State :=
  let body := s.copyBytes w (from_.pageAddr n) (to_.pageAddr m) (2 ^ to_.log2)
  if full then
    let sketch := body.2.copyBytes w (s.sketchAddr n) (s.sketchAddr m) 128
    (body.1 && sketch.1, sketch.2)
  else body

/-- A page request served or refused (R192), refused too where the page to copy cannot be read or written (R238). -/
def State.servePage (s : State) (i : Nat) (k : PageKey) : Bool × State :=
  let x := s.stall i
  let a := s.pool x.img.pool
  if !(x.st == .prefill || x.st == .decode) || !x.keyOk k then (false, s)
  else match s.pageOf x k with
    | some n =>
      if s.refs n ≤ 1 then (true, s)
      else match s.allocPage a true with
        | (none, s) => (false, s)
        | (some m, s) =>
          let w := stableAccess x.job
          let old := (s.poolOfPage n).getD a
          let got := s.copyPage w old a n m (decide (64 * k.page + 64 ≤ x.seqLen))
          let s := got.2
          if !got.1 then (false, s.dropRef m)
          else match s.enterPage i k (residentWord m) with
          | some s => (true, (s.dropRef n).bump (Reg.STB_CNT_n + 8) 1)
          | none => (false, s.dropRef m)
    | none =>
      match s.allocPage a (x.st == .decode) with
      | (none, s) => (false, s)
      | (some m, s) =>
        match s.holdPage i k m with
        | some s => (true, s)
        | none => (false, s.dropRef m)

/-! ### The prefix directory (R197 to R201) -/

def State.dirOn (s : State) : Bool := s.regF Reg.STB_DIR_CFG 31 31 == 1

/-- The start of a chain (R197). -/
def State.chainStart (s : State) (job pool : Nat) : List Byte :=
  sha256 (natLe job 2 ++ natLe pool 2 ++ natLe (s.reg Reg.STB_SALT_LO).toNat 4 ++ natLe (s.reg Reg.STB_SALT_HI).toNat 4)

/-- Where the history of a stall is read (R194, R206). -/
def Stall.histBase (x : Stall) : Nat := x.histFrom.getD x.img.hist

/-- The next link of a chain from the tokens of a page, none where the history cannot be read. -/
def State.chainNext (s : State) (x : Stall) (h : List Byte) (j : Nat) : Option (List Byte) × State :=
  match s.load (stableAccess x.job) (x.histBase + 256 * j) 256 with
  | (bs, .ok, s) => (some (sha256 (h ++ bs)), s)
  | (_, _, s) => (none, s)

/-- The bucket of a key. -/
def State.bucketAddr (s : State) (h : List Byte) : Nat :=
  let n := leNat ((h.drop 16).take 4) % 2 ^ s.regF Reg.STB_DIR_CFG 4 0
  s.baseOf Reg.STB_DIR_LO Reg.STB_DIR_HI 8 + 256 * n

/-- The words of a directory entry at an address. -/
def State.dirEntry (s : State) (a : Nat) : List Word := (List.range 9).map fun i => s.tableWord (a + 4 * i)

def entryValid (e : List Word) : Bool := (e.getD 4 0).bit 31

/-- An entry matches a key of a stall's job, pool and shape. -/
def entryMatches (x : Stall) (h : List Byte) (e : List Word) : Bool :=
  entryValid e && e.take 4 == wordsOf (h.take 16) && (e.getD 4 0).field 13 12 == x.img.pool
    && (e.getD 4 0).field 11 0 == x.job && (e.getD 8 0).field 11 8 == x.img.groups
    && (e.getD 8 0).field 7 0 == x.img.layers

/-- The address of the entry of a key. -/
def State.dirFind (s : State) (x : Stall) (h : List Byte) : Option Nat :=
  ((List.range 4).map fun i => s.bucketAddr h + 64 * i).find? fun a => entryMatches x h (s.dirEntry a)

/-- The keys of a page over every layer and group, with their positions in a vector. -/
def Stall.vector (x : Stall) (j : Nat) : List (PageKey × Nat) :=
  (List.range (x.img.layers + 1)).flatMap fun l => (List.range (x.img.groups + 1)).map fun g =>
    (⟨l, g, j⟩, l * (x.img.groups + 1) + g)

/-- The pages of a directory entry's vector. -/
def State.vectorPages (s : State) (e : List Word) : List Nat :=
  let n := ((e.getD 8 0).field 7 0 + 1) * ((e.getD 8 0).field 11 8 + 1)
  (List.range n).map fun i => (s.tableWord (s.frameAddr ((e.getD 6 0).field 19 0) + 4 * i)).field 23 0

/-- A hit attached to a stall (R199): its pages entered and their counts raised; none where a count is at its end or a
frame is missing. -/
def State.attach (s : State) (i j : Nat) (a : Nat) : Option State :=
  let e := s.dirEntry a
  let ps := s.vectorPages e
  if ps.any fun n => decide (65535 ≤ s.refs n) then none
  else
    let r := ((s.stall i).vector j).foldl (fun (acc : Option State) (k, v) =>
      acc.bind fun s =>
        let n := ps.getD v 0
        (s.holdPage i k n).map fun s => s.addRef n) (some s)
    r.map fun s => s.setTableWord (a + 28) (BitVec.ofNat 32 s.clk.stride.toNat)

/-- What a page of a lookup answers once its pages are attached, or cannot be. -/
def State.lookupAttached (s : State) (h : List Byte) : Option State → Option (List Byte) × Bool × State
  | none => (none, true, s)
  | some s => (some h, true, s)

/-- The same once its entry is looked for. -/
def State.lookupFound (s : State) (i j : Nat) (h : List Byte) : Option Nat → Option (List Byte) × Bool × State
  | none => (none, true, s)
  | some a => s.lookupAttached h (s.attach i j a)

/-- The same once its history is read. -/
def State.lookupRead (s : State) (i j : Nat) : Option (List Byte) → Option (List Byte) × Bool × State
  | none => (none, false, s)
  | some h => s.lookupFound i j h (s.dirFind (s.stall i) h)

/-- One page of a lookup: its hash where it is found and attached, whether the history could be read, and the state. -/
def State.lookupStep (s : State) (i : Nat) (h : List Byte) (j : Nat) : Option (List Byte) × Bool × State :=
  let got := s.chainNext (s.stall i) h j
  got.2.lookupRead i j got.1

/-- The lookup over pages `j`, `j + 1`, … of which `n` lie wholly before the last token (R199): the hits, and whether
the history could be read. -/
def State.lookupFrom (s : State) (i : Nat) (h : List Byte) (j : Nat) : Nat → Nat × Bool × State
  | 0 => (j, true, s)
  | n + 1 =>
    let got := s.lookupStep i h j
    match got.1 with
    | none => (j, got.2.1, got.2.2)
    | some h => got.2.2.lookupFrom i h (j + 1) n

/-- The prefix lookup of a stall over its first `len` tokens: hits attached, seq_len and attached set (R199). -/
def State.prefixLookup (s : State) (i len : Nat) : Bool × State :=
  let x := s.stall i
  if !s.dirOn then (true, s.setStall i { x with seqLen := 0, attached := 0 })
  else
    let got := s.lookupFrom i (s.chainStart x.job x.img.pool) 0 ((len - 1) / 64)
    let hits := got.1
    let good := got.2.1
    let s := got.2.2
    let s := s.modifyStall i fun x => { x with seqLen := 64 * hits, attached := 64 * hits }
    (good, if hits = 0 then s else s.bump (Reg.STB_CNT_n + 4) hits)

/-- A directory entry removed: its references and its frame are released (R200, R201). -/
def State.dirRemove (s : State) (a : Nat) : State :=
  let e := s.dirEntry a
  let s := (s.vectorPages e).foldl State.dropRef s
  let s := s.freeFrame ((e.getD 6 0).field 19 0)
  (s.storeWords (stableAccess 0) a (List.replicate 16 0)).2

/-- The slot an insertion takes: the lowest that is not valid, else that with the oldest word 7 (R200). -/
def State.dirSlot (s : State) (b : Nat) : Nat :=
  let slots := (List.range 4).map (b + 64 * ·)
  match slots.find? fun a => !entryValid (s.dirEntry a) with
  | some a => a
  | none =>
    let age (a : Nat) : Nat := (BitVec.ofNat 32 s.clk.stride.toNat - (s.dirEntry a).getD 7 0).toNat
    slots.foldl (fun m a => if age m < age a then a else m) b

/-- The words of a directory entry (R198): the first 16 bytes of the hash, then the pool, the job, the page's index, its frame, the stride
and the shape. -/
def entryWords (x : Stall) (j : Nat) (h : List Byte) (f : Nat) (stride : Nat) : List Word :=
  let n (v : Nat) : Word := BitVec.ofNat 32 v
  wordsOf (h.take 16) ++ [n (putBits 31 31 1 + putBits 13 12 x.img.pool + x.job), n j, n f, n stride,
    n (putBits 11 8 x.img.groups + x.img.layers), 0, 0, 0, 0, 0, 0, 0]

/-- The entry of a slot is removed where the slot holds one. -/
def State.clearEntry (s : State) (a : Nat) : State := if entryValid (s.dirEntry a) then s.dirRemove a else s

/-- A slot of the directory is filled: the frame names the pages, each page gains a reference, and the entry is written. -/
def State.fillEntry (s : State) (a : Nat) (x : Stall) (j : Nat) (h : List Byte) (pages : List Nat) (f : Nat) : State :=
  let s := pages.zipIdx.foldl (fun (s : State) e => (s.setTableWord (s.frameAddr f + 4 * e.2) (BitVec.ofNat 32 e.1)).addRef e.1) s
  (s.storeWords (stableAccess 0) a (entryWords x j h f s.clk.stride.toNat)).2

/-- Page `j` of a stall inserted under its key (R200). -/
def State.dirInsert (s : State) (i j : Nat) (h : List Byte) : State :=
  let x := s.stall i
  let pages := (x.vector j).map fun (k, _) => s.pageOf x k
  if !s.dirOn || (s.dirFind x h).isSome || pages.any Option.isNone
      || pages.any (fun n => decide (65535 ≤ s.refs (n.getD 0))) then s
  else match s.allocFrame with
    | (none, s) => s
    | (some f, s) => (s.clearEntry (s.dirSlot (s.bucketAddr h))).fillEntry (s.dirSlot (s.bucketAddr h)) x j h (pages.map fun n => n.getD 0) f

/-- The full pages of a stall from `j` on that a test admits, inserted in order along the chain from page 0. -/
def State.publishFrom (s : State) (i : Nat) (permit : Nat → Bool) (h : List Byte) (j : Nat) : Nat → State
  | 0 => s
  | n + 1 =>
    match s.chainNext (s.stall i) h j with
    | (none, s) => s
    | (some h, s) => (if permit j then s.dirInsert i j h else s).publishFrom i permit h (j + 1) n

/-- Pages below `n` that a test admits are inserted (R200). -/
def State.publish (s : State) (i n : Nat) (permit : Nat → Bool) : State :=
  let x := s.stall i
  if s.dirOn then s.publishFrom i permit (s.chainStart x.job x.img.pool) 0 n else s

/-- The addresses of the valid entries of the directory. -/
def State.dirEntries (s : State) : List Nat :=
  if s.dirOn then
    ((List.range (4 * 2 ^ s.regF Reg.STB_DIR_CFG 4 0)).map fun i =>
      s.baseOf Reg.STB_DIR_LO Reg.STB_DIR_HI 8 + 64 * i).filter fun a => entryValid (s.dirEntry a)
  else []

/-- A pool's entries removed, least recently used first, until its free count exceeds twice the reserve (R201). -/
def State.dirShrink (s : State) (p : Nat) : Nat → State
  | 0 => s
  | fuel + 1 =>
    let a := s.pool p
    if 2 * a.reserve < (s.freePages a).length then s
    else
      let mine := s.dirEntries.filter fun e => ((s.dirEntry e).getD 4 0).field 13 12 == p
      let age (e : Nat) : Nat := (BitVec.ofNat 32 s.clk.stride.toNat - (s.dirEntry e).getD 7 0).toNat
      match mine with
      | [] => s
      | e :: t => (s.dirRemove (t.foldl (fun m e => if age m < age e then e else m) e)).dirShrink p fuel

/-- Entries whose vector names a lost page are removed (R201). -/
def State.dirLose (s : State) (lost : Nat → Bool) : State :=
  s.dirEntries.foldl (fun s a => if (s.vectorPages (s.dirEntry a)).any lost then s.dirRemove a else s) s

/-! ### Changes of state (R184) -/

/-- The length of history whose KV a rebuild recomputes, and the position at which a PREFILL ends (R193, R214). -/
def Stall.target (x : Stall) : Nat := if x.rebuild then x.histLen - 1 else x.img.promptLen

/-- A stall enters a state at a boundary. -/
def Stall.enterState (x : Stall) (st : StallState) (bnd : Nat) : Stall :=
  { x with st := st, next := none, rp := x.rp && st == .draining, parkedAt := if st = .parked then bnd else x.parkedAt }

/-- A rebuild whose lookup alone has reached its target ends at the next boundary (R214). -/
def Stall.endRebuild (x : Stall) : Stall :=
  if x.st = .prefill ∧ x.rebuild ∧ !x.waits ∧ x.next = none ∧ x.target ≤ x.seqLen then
    { x with rebuild := false, next := some (if x.hostPark then .parked else .decode) }
  else x

/-- What a stall does at a boundary, or by a command applied there. -/
def Stall.settle (x : Stall) (bnd : Nat) : Stall :=
  match x.next with
  | some st => (x.enterState st bnd).endRebuild
  | none => x.endRebuild

/-! ### Command rings (R202, R203) -/

def crReg (ring off : Nat) : Nat := off + 0x20 * ring
def State.crJob (s : State) (n : Nat) : Nat := s.regF (crReg n Reg.STB_CRn_CTL) 11 0
def State.crSize (s : State) (n : Nat) : Nat := 2 ^ s.regF (crReg n Reg.STB_CRn_CTL) 20 16
def State.crTail (s : State) (n : Nat) : BitVec 16 := BitVec.ofNat 16 (s.regF (crReg n Reg.STB_CRn_TAIL) 15 0)
def State.crHead (s : State) (n : Nat) : BitVec 16 := BitVec.ofNat 16 (s.regF (crReg n Reg.STB_CRn_HEAD) 15 0)

/-- The address of a command's slot. -/
def State.crSlot (s : State) (n : Nat) (i : BitVec 16) : Nat :=
  s.regF (crReg n Reg.STB_CRn_BASE_LO) 31 6 * 64 + s.regF (crReg n Reg.STB_CRn_BASE_HI) 11 0 * 2 ^ 32
    + 32 * (i.toNat % s.crSize n)

def csOk : Nat := 0
def csBusy : Nat := 1
def csJob : Nat := 2
def csNoStall : Nat := 3
def csNoSpace : Nat := 4
def csBad : Nat := 5

/-- A command completes (R203, R204): word 7, then the signal. -/
def State.completeCommand (s : State) (ring : Nat) (index : BitVec 16) (status stall : Nat) : State :=
  let job := s.crJob ring
  let a := s.crSlot ring index
  let w0 := s.mem.word a
  let w1 := s.mem.word (a + 4)
  let got := s.storeWords (stableAccess job) (a + 28) [BitVec.ofNat 32 (2 ^ 31 + putBits 23 16 status + stall)]
  let s := got.2
  let space := w0.field 22 20
  if w0.bit 23 && (space == 2 || space == 3) then
    s.signalAt space none (w1.field 9 0) 1 job agentStable blkSTB
  else s

/-- A move of a stall's pages ends with a status for the command that started it. -/
def State.endMove (s : State) (i status : Nat) : State :=
  match (s.stall i).move with
  | none => s
  | some m =>
    let s := s.modifyStall i fun x => { x with move := none }
    match m.command with
    | some (ring, index) => s.completeCommand ring index status i
    | none => s

/-! ### Rebuild (R214, R238) -/

/-- The history of a stall can be read. -/
def State.historyReads (s : State) (i : Nat) : Bool × State :=
  let x := s.stall i
  match s.load (stableAccess x.job) x.histBase (4 * x.histLen) with
  | (_, .ok, s) => (true, s)
  | (_, _, s) => (false, s)

/-- A stall whose history is lost drains (R214). -/
def State.historyLost (s : State) (i : Nat) : State :=
  let x := s.stall i
  (s.setStall i { x with next := some .draining, waits := false, drainAt := (s.ctr (.module (stepCtr s))).value }).raiseTo
    Flt.STB_HISTORY_LOST blkSTB x.job i
where
  stepCtr (s : State) : Fin 256 := ⟨s.regF Reg.STB_PLAN_CTL 31 24 % 256, Nat.mod_lt _ (by decide)⟩

/-- The lookup of a rebuild, which then prefills from its hits. -/
def State.rebuildLookup (s : State) (i : Nat) : State :=
  let x := s.stall i
  let got := s.prefixLookup i (max x.histLen x.img.promptLen)
  let s := got.2
  s.modifyStall i fun x => { x with waits := false }

/-- A rebuild (R214). `wait` holds it while its history reads poison (R238). The command of a move under way, which it ends, completes with BUSY.
DESIGN CHOICE, assumption 196. -/
def State.rebuildStall (s : State) (i : Nat) (wait : Bool) : State :=
  let s := ((s.endMove i csBusy).dropPages i fun _ => true).bump (Reg.STB_CNT_n + 24) 1
  let bnd := s.clk.bnd
  let s := s.modifyStall i fun x =>
    { x with specW := 0, seqLen := 0, attached := 0, reported := [], startedAt := bnd,
             rebuild := decide (x.img.promptLen < x.histLen), next := some .prefill, waits := false }
  let got := s.historyReads i
  let good := got.1
  let s := got.2
  if good then s.rebuildLookup i
  else if wait then s.modifyStall i fun x => { x with waits := true }
  else s.historyLost i

/-- Stalls that a rebuild can reach: any but EMPTY, ADMITTED and DRAINING (R184). -/
def Stall.rebuildable (x : Stall) : Bool :=
  match x.st with
  | .empty | .admitted | .draining => false
  | _ => true

/-- Pool pages found lost (R201, R214): the entries that name them go, and every stall that references one is
rebuilt. -/
def State.pagesLost (s : State) (lost : Nat → Bool) : State :=
  let s := s.dirLose lost
  s.stb.stalls.foldl (fun s (i, _) =>
    let x := s.stall i
    if x.rebuildable && (s.entries x).any (fun (_, _, e) => match residentPage e with
        | some n => lost n
        | none => false)
    then s.rebuildStall i false else s) s

/-- The bytes of the work area (R189): 4 for each pool index up to the highest in use and for each table frame, and 64 MiB. -/
def State.workBytes (s : State) : Nat :=
  let top := (List.range 4).foldl (fun m i => let a := s.pool i; if a.on then max m (a.first + a.count) else m) 0
  4 * top + 4 * s.regF Reg.STB_TPOOL_FRAMES 19 0 + 0x4000000

/-- One stall as the map enters FOLDED (R238): a new table; a rebuild of any but an EMPTY or a DRAINING one. A stall that no table frame
is left for names a frame past the last, and is lost with its history. DESIGN CHOICE, assumption 155. -/
def State.stallAfterFold (s : State) (i : Nat) : State :=
  let s := s.endMove i csBusy
  let x := s.stall i
  if x.st = .empty then s
  else
    let got := s.allocFrame
    let s := got.2.setStall i { x with root := got.1.getD (s.regF Reg.STB_TPOOL_FRAMES 19 0), held := 0 }
    if x.st = .draining then s else if got.1.isNone then s.historyLost i else s.rebuildStall i true

/-- What the Stable manager does when the map enters FOLDED (R238): its work area, tables and directory are zeroed, every page is free,
every stall is rebuilt, drains complete without references. -/
def State.stableAfterFold (s : State) : State :=
  let work := s.baseOf Reg.STB_WORK_LO Reg.STB_WORK_HI 12
  let s := s.zeroiseLines work s.workBytes
  let s := s.zeroiseLines (s.frameAddr 0) (4096 * s.regF Reg.STB_TPOOL_FRAMES 19 0)
  let s := if s.dirOn then
      s.zeroiseLines (s.baseOf Reg.STB_DIR_LO Reg.STB_DIR_HI 8) (256 * 2 ^ s.regF Reg.STB_DIR_CFG 4 0) else s
  let s := { s with stb := { s.stb with refs := [], frames := [] } }
  s.stb.stalls.foldl (fun s e => s.stallAfterFold e.1) s

end Sys2Proof.Machine
end

