-- ==== Sys2Proof/Machine/Stable.lean ====
section
/-! DEFINITION. The Stable rows: page requests and reports of cores, commands, drains, evictions, recalls and the work
plan (R184 to R214). -/

namespace Sys2Proof.Machine

/-! ### Cores -/

/-- STB_PAGE_REQUEST (R163, R192): the oldest page request is served, or refused and its ATTEND ends. -/
def execStbPageRequest (s : State) : Host.Outcome State Fault Refusal :=
  .next (match s.stb.requests with
    | [] => s
    | r :: rest =>
      let s := { s with stb := { s.stb with requests := rest } }
      match s.servePage r.stall ⟨r.layer, r.grp, r.page⟩ with
      | (true, s) => s
      | (false, s) =>
        let s := { s with stb := { s.stb with refused := (r.q, r.index) :: s.stb.refused } }
        (s.bump (Reg.STB_CNT_n + 12) 1).raiseTo Flt.STB_POOL_EXHAUSTED blkSTB (s.queue r.q).job r.stall)

/-- Positions of a group reported without a gap from `p` on. -/
def coveredFrom (l : List (Nat × Nat × Nat)) (g : Nat) : Nat → Nat → Nat
  | 0, p => p
  | fuel + 1, p =>
    match l.find? fun (g', a, n) => g' == g && decide (a ≤ p) && decide (p < a + n) with
    | some (_, a, n) => coveredFrom l g fuel (a + n)
    | none => p

/-- seq_len brought up to what every group of the last layer has reported (R193). -/
def State.advanceSeq (s : State) (i : Nat) : State :=
  let x := s.stall i
  let reach := (List.range (x.img.groups + 1)).foldl (fun m g =>
    min m (coveredFrom x.reported g (x.reported.length + 1) x.seqLen)) x.target
  if reach ≤ x.seqLen then s
  else
    let old := x.seqLen
    let s := s.setStall i { x with seqLen := reach, reported := x.reported.filter fun (_, a, n) => decide (reach < a + n) }
    let s := if x.img.publish then
        s.publish i (reach / 64) fun j => decide (old < 64 * j + 64) && decide (64 * j + 64 ≤ x.img.promptLen)
          && decide (j < x.img.pubLimit)
      else s
    if x.rebuild && reach == x.target then
      s.modifyStall i fun x =>
        { x with rebuild := false, next := some (if x.hostPark then .parked else .decode) }
    else s

/-- APPEND_REPORT (R193): the oldest report of appended positions reaches the manager. -/
def execAppendReport (s : State) : Host.Outcome State Fault Refusal :=
  .next (match s.stb.reports with
    | [] => s
    | r :: rest =>
      let s := { s with stb := { s.stb with reports := rest } }
      let x := s.stall r.stall
      if x.st = .prefill ∧ r.layer = x.img.layers then
        (s.setStall r.stall { x with reported := (r.grp, r.first, r.count) :: x.reported }).advanceSeq r.stall
      else s)

/-! ### Command rings (R202 to R204) -/

/-- A write of STB_CRn_TAIL (R202, R204): each command newly present may be applied from the boundary its tail write
reaches. -/
def State.writeCrTail (s : State) (n : Nat) (tail : BitVec 16) : State :=
  let head := s.crHead n
  let len := (tail - head).toNat
  if s.crSize n < len then
    s.raiseTo Flt.STB_TAIL_BAD blkSTB (s.crJob n) (putBits 21 16 n + tail.toNat)
  else
    let kept := s.stb.commands.filter fun c => c.ring != n || decide ((c.index - head).toNat < len)
    let have_ := kept.filter fun c => c.ring == n
    let fresh := ((List.range len).map fun k => head + BitVec.ofNat 16 k).filter fun i =>
      !have_.any fun c => c.index == i
    let s := s.setReg (crReg n Reg.STB_CRn_TAIL) (BitVec.ofNat 32 tail.toNat)
    { s with stb := { s.stb with commands := kept ++ fresh.map fun i => ⟨n, i, s.dueBoundary⟩ } }

def execStbCommandTailWrite (src : Source) (ring : Fin 64) (tail : BitVec 16) (cyc : Nat) (s : State) :
    Host.Outcome State Fault Refusal :=
  let s := s.advance cyc
  .next (if s.mayWrite src (crReg ring.val Reg.STB_CRn_TAIL) then s.writeCrTail ring.val tail else s)

/-- The command waits for a plan publication (R204). -/
def planOpcode (op : Nat) : Bool := op == 6 || op == 7 || op == 8 || op == 9

/-- A command may be applied now: it is due, the next of its ring, and its ring is enabled. -/
def State.commandDue (s : State) (c : StableCommand) : Bool :=
  s.isOn .stable && decide (c.due ≤ s.clk.bnd) && c.index == s.crHead c.ring
    && s.liveF (crReg c.ring Reg.STB_CRn_CTL) 31 31 == 1
    && (s.stb.planDue || !planOpcode ((s.mem.word (s.crSlot c.ring c.index)).field 31 24))

/-- What a command is told (R203): its ring, index, job and words. -/
structure CommandArgs where
  ring : Nat
  index : BitVec 16
  job : Nat
  words : List Word
deriving DecidableEq, Repr

def CommandArgs.w (a : CommandArgs) (i : Nat) : Word := a.words.getD i 0
def CommandArgs.stall (a : CommandArgs) : Nat := (a.w 0).field 13 0
def CommandArgs.any (a : CommandArgs) : Bool := (a.w 0).bit 14

/-- The address operand in words `i` and `i + 1`. -/
def CommandArgs.addr (a : CommandArgs) (i : Nat) : Nat := (a.w i).toNat + (a.w (i + 1)).toNat * 2 ^ 32

/-- The accessor of a command's memory operands (R205). -/
def CommandArgs.access (a : CommandArgs) : Accessor := stableAccess a.job

/-- How a command ends: with a status and the stall acted on, or later, once the move it started has completed. -/
inductive CommandEnd where
  | done (status stall : Nat)
  | later
deriving DecidableEq, Repr

/-- The reserved bits, the any bit and the signal fields of a command (R203). -/
def CommandArgs.fieldsOk (a : CommandArgs) : Bool :=
  let op := (a.w 0).field 31 24
  let space := (a.w 0).field 22 20
  decide (1 ≤ op ∧ op ≤ 13) && (a.w 0).field 19 15 == 0 && (a.w 1).field 31 10 == 0 && a.w 6 == 0
    && (!a.any || op == 1 || op == 9)
    && (!(a.w 0).bit 23 || (counterAt space none ((a.w 1).field 9 0)).isSome)

def CommandArgs.op (a : CommandArgs) : Nat := (a.w 0).field 31 24

/-- A command read from its slot under its ring's job. -/
def State.fetchCommand (s : State) (c : StableCommand) : CommandArgs × State :=
  let job := s.crJob c.ring
  let got := s.loadWords (stableAccess job) (s.crSlot c.ring c.index) 8
  (⟨c.ring, c.index, job, got.1.getD []⟩, got.2)

/-- A command leaves its ring, acts, and completes: BAD where its fields are, or where its opcode is none of R205. -/
def State.endCommand (s1 : State) (c : StableCommand) (a : CommandArgs) (act : CommandArgs → State → CommandEnd × State) : State :=
  let s1 := { s1 with stb := { s1.stb with commands := s1.stb.commands.erase c } }
  let s1 := s1.setReg (crReg c.ring Reg.STB_CRn_HEAD) (BitVec.ofNat 32 (c.index + 1).toNat)
  if !a.fieldsOk then s1.completeCommand c.ring c.index csBad a.stall
  else match act a s1 with
    | (.done st i, s2) => s2.completeCommand c.ring c.index st i
    | (.later, s2) => s2

/-- The next command of a ring applied under the operation `op` (R204, R205). A command of another operation waits for its own row;
one whose opcode is none of R205, or that cannot be read, ends with BAD. Commands of different rings are applied in the order of their
tail writes' arrival. -/
def State.applyCommand (s : State) (ring : Fin 64) (op : Nat) (act : CommandArgs → State → CommandEnd × State) : State :=
  match s.stb.commands.find? s.commandDue with
  | none => s
  | some c =>
    if c.ring ≠ ring.val then s
    else
      let got := s.fetchCommand c
      if 1 ≤ got.1.op ∧ got.1.op ≤ 13 ∧ got.1.op ≠ op then s
      else got.2.endCommand c got.1 act

/-- The JOB check (R204). -/
def CommandArgs.jobOk (a : CommandArgs) (x : Stall) : Bool := a.job == 0 || a.job == x.job

/-- A command on the stall it names: JOB, then BUSY outside the states of its row. -/
def State.onStall (s : State) (a : CommandArgs) (states : List StallState)
    (act : Nat → Stall → State → CommandEnd × State) : CommandEnd × State :=
  let x := s.stall a.stall
  if !a.jobOk x then (.done csJob a.stall, s)
  else if !states.contains x.st then (.done csBusy a.stall, s)
  else act a.stall x s

/-- A record image read under the ring's job (R183, R205). -/
def State.readImage (s : State) (a : CommandArgs) (i : Nat) : Option (List Word) × State :=
  if a.addr i % 64 ≠ 0 then (none, s)
  else match s.loadWords a.access (a.addr i) 64 with
    | (some ws, s) => (if imageValid s ws then some ws else none, s)
    | (none, s) => (none, s)

/-- The stall an ADMIT or FORK takes: the lowest EMPTY one, or the one it names. -/
def State.targetStall (s : State) (a : CommandArgs) : Option Nat :=
  if a.any then (List.range 16384).find? fun i => (s.stall i).st == .empty else some a.stall

/-- The value of the step counter. -/
def State.stepValue (s : State) : Word :=
  (s.ctr (.module ⟨s.regF Reg.STB_PLAN_CTL 31 24 % 256, Nat.mod_lt _ (by decide)⟩)).value

/-- The record of a stall newly admitted (R194, R199). -/
def admittedStall (img : StallImage) (job root : Nat) (stride : BitVec 48) (bnd : Nat) : Stall :=
  { Stall.reset with st := .admitted, img := img, job := job, histLen := img.promptLen, root := root,
                     admitStride := stride, startedAt := bnd }

/-- ADMIT of the image that was read, if it was valid (R185, R205). -/
def State.admitWith (s : State) (a : CommandArgs) (o : Option (List Word)) : CommandEnd × State :=
  match o with
  | none => (.done csBad a.stall, s)
  | some ws =>
    let img := imageOf ws
    match s.targetStall a with
    | none => (.done csNoStall a.stall, s)
    | some i =>
      let x := s.stall i
      match x.st with
      | .empty =>
        match s.allocFrame with
        | (none, s) => (.done csNoSpace i, s)
        | (some f, s) =>
          let s := s.setStall i (admittedStall img a.job f s.clk.stride s.clk.bnd)
          (.done csOk i, s.bump Reg.STB_CNT_n 1)
      | .draining =>
        if !a.jobOk x then (.done csJob i, s)
        else
          let s := s.setStall i { x with rp := true, kept := some (img, s.clk.stride, a.job, s.clk.bnd) }
          (.done csOk i, s.bump Reg.STB_CNT_n 1)
      | _ => if a.jobOk x then (.done csBusy i, s) else (.done csJob i, s)

/-- ADMIT (R185, R199, R205). -/
def State.admitStall (a : CommandArgs) (s : State) : CommandEnd × State :=
  let got := s.readImage a 2
  got.2.admitWith a got.1

def execAdmit (ring : Fin 64) (s : State) : Host.Outcome State Fault Refusal :=
  .next (s.applyCommand ring 1 State.admitStall)

/-- PREFIX_LOOKUP_COMPLETE (R184, R185, R199): the hits are attached and the stall enters PREFILL, or DRAINING where a
RELEASE has been applied, at the next boundary. -/
def execPrefixLookupComplete (i : Fin 16384) (s : State) : Host.Outcome State Fault Refusal :=
  let x := s.stall i.val
  .next (if x.st = .admitted ∧ x.next = none then
      let got := s.prefixLookup i.val x.img.promptLen
      let s := got.2
      s.modifyStall i.val fun x => { x with next := some (if x.release then .draining else .prefill) }
    else s)

/-- A stall is released (R185, R186). -/
def State.releaseStall (s : State) (i : Nat) : State :=
  let v := s.stepValue
  let x := s.stall i
  match x.st with
  | .empty => s
  | .admitted => s.setStall i { x with release := true, drainAt := v, next := if x.next = some .prefill then some .draining else x.next }
  | .draining => s.setStall i { x with rp := false, kept := none }
  | _ => (s.setStall i { x with st := .draining, next := none, waits := false, drainAt := v }).endMove i csBusy

def State.releaseCommand (a : CommandArgs) (s : State) : CommandEnd × State :=
  s.onStall a [.admitted, .prefill, .decode, .parked, .evicted, .draining] fun i _ s => (.done csOk i, s.releaseStall i)

def execRelease (ring : Fin 64) (s : State) : Host.Outcome State Fault Refusal := .next (s.applyCommand ring 2 State.releaseCommand)

/-- STALL_DRAIN_COMPLETE (R185, R186): once the step that was running has ended, tokens, references and frames go and
the record is zeroised; the stall enters EMPTY, or ADMITTED under the kept image with a frame that the drain has freed, at the next
boundary. -/
def execStallDrainComplete (i : Fin 16384) (s : State) : Host.Outcome State Fault Refusal :=
  let x := s.stall i.val
  .next (if x.st = .draining ∧ x.next = none ∧ x.drainAt.toNat < s.stepValue.toNat then
      let frames := s.framesOf x
      let s := s.dropPages i.val fun _ => true
      let s := frames.foldl State.freeFrame s
      match x.kept with
      | some (img, stride, job, bnd) =>
        match s.pick frames with
        | (some f, s) =>
          let s := s.takeFrame f
          let y := admittedStall img job f stride bnd
          s.setStall i.val { y with st := .draining, rp := true, next := some .admitted }
        | (none, s) => s.setStall i.val { Stall.reset with st := .draining, next := some .empty }
      | none => s.setStall i.val { Stall.reset with st := .draining, next := some .empty }
    else s)

/-! ### Tokens (R194 to R196) -/

/-- Tokens of host or draft appended to the history and the output ring (R194, R195). -/
def State.appendTokens (s : State) (i : Nat) (tokens : List Word) : State :=
  let x := s.stall i
  let w := stableAccess x.job
  let s := match x.histFrom with
    | some src => (s.copyBytes w src x.img.hist (4 * x.histLen)).2
    | none => s
  let got := s.storeWords w (x.img.hist + 4 * x.histLen) tokens
  let s := got.2
  let n := tokens.length
  let s := tokens.zipIdx.foldl (fun s (t, k) =>
    let slot := (x.outTail.toNat + k) % 2 ^ x.img.outLog2
    s.hostWrite x.job (x.img.out + 8 * slot)
      (bytesOf [t, BitVec.ofNat 32 (putBits 31 31 (bitOf (k + 1 == n)) + x.histLen + k)])) s
  let s := s.setStall i { x with histLen := x.histLen + n, histFrom := none, outTail := x.outTail + BitVec.ofNat 32 n }
  if x.img.outSig then s.signalAt 3 none x.img.hostCtr n x.job agentStable blkSTB else s

/-- Pages that hold no position below seq_len + 1 + spec_w are dropped (R196). -/
def State.dropTentative (s : State) (i : Nat) : State :=
  let x := s.stall i
  s.dropPages i fun k => decide (x.seqLen + 1 + x.specW ≤ 64 * k.page)

/-- The deadline of a stall's first token in boundaries (R209), none for a class without a target. -/
def State.deadline (s : State) (x : Stall) : Option Nat :=
  let t := s.liveF (Reg.STB_CLASSc + 4 * x.img.cls) 15 0
  if t = 0 then none else some (x.startedAt + ceilDiv (t * 15625) 16)

/-- COMMIT (R195, R196). -/
def State.commitTokens (a : CommandArgs) (s : State) : CommandEnd × State :=
  let n := (a.w 2).field 3 0
  s.onStall a [.decode, .prefill] fun i x s =>
    let good := match x.st with
      | .decode => decide (n ≤ x.specW)
      | _ => n == 0 && !x.rebuild && x.seqLen == x.img.promptLen && x.next == none
    if !good then (.done csBusy i, s)
    else if x.img.maxLen < x.histLen + n + 1 then (.done csNoSpace i, s)
    else
      let s := if x.st = .prefill ∧ (s.deadline x).any (fun d => decide (d < s.clk.bnd)) then
          s.bump (Reg.STB_CNT_n + 28) 1 else s
      let s := s.appendTokens i (x.tent.take n ++ [a.w 3])
      let s := s.modifyStall i fun y =>
        { y with seqLen := if x.st = .decode then y.seqLen + n + 1 else y.seqLen, specW := 0, st := .decode }
      (.done csOk i, s.dropTentative i)

def execCommit (ring : Fin 64) (s : State) : Host.Outcome State Fault Refusal :=
  .next (s.applyCommand ring 3 State.commitTokens)

/-- SPEC_PUT (R196). -/
def State.specPut (a : CommandArgs) (s : State) : CommandEnd × State :=
  let n := (a.w 2).field 3 0
  if n = 0 ∨ 8 < n then (.done csBad a.stall, s)
  else match s.loadWords a.access (a.addr 3) n with
    | (none, s) => (.done csBad a.stall, s)
    | (some ts, s) =>
      s.onStall a [.decode] fun i x s =>
        if x.specW ≠ 0 then (.done csBusy i, s)
        else (.done csOk i, s.setStall i { x with specW := n, tent := ts ++ x.tent.drop n })

def execSpecPut (ring : Fin 64) (s : State) : Host.Outcome State Fault Refusal :=
  .next (s.applyCommand ring 4 State.specPut)

/-- ROLLBACK (R196). -/
def State.rollbackCommand (a : CommandArgs) (s : State) : CommandEnd × State :=
  s.onStall a [.decode] fun i x s => (.done csOk i, (s.setStall i { x with specW := 0 }).dropTentative i)

def execRollback (ring : Fin 64) (s : State) : Host.Outcome State Fault Refusal := .next (s.applyCommand ring 5 State.rollbackCommand)

/-! ### Parking, eviction and recall (R210 to R213) -/

/-- PARK (R205). -/
def State.parkCommand (a : CommandArgs) (s : State) : CommandEnd × State :=
  s.onStall a [.decode, .parked] fun i x s =>
    (.done csOk i, s.setStall i
      { x with hostPark := true, st := .parked, parkedAt := if x.st = .decode then s.clk.bnd else x.parkedAt })

def execPark (ring : Fin 64) (s : State) : Host.Outcome State Fault Refusal := .next (s.applyCommand ring 6 State.parkCommand)

/-- Where a stall's extent lies: in host memory, its address, and its size in bytes (R211). -/
def State.extentOf (s : State) (i : Nat) : Bool × Nat × Nat :=
  let o := 0x10 * (s.stall i).img.cls
  let host := s.liveF (Reg.STB_SPILLc_EXT + o) 31 31 == 1
  let size := s.liveF (Reg.STB_SPILLc_EXT + o) 23 0 * 2 ^ 20
  let hi := if host then s.liveF (Reg.STB_SPILLc_HI + o) 31 0 else s.liveF (Reg.STB_SPILLc_HI + o) 16 0
  (host, hi * 2 ^ 32 + s.liveF (Reg.STB_SPILLc_LO + o) 31 12 * 4096 + i * size, size)

/-- Fabric requests of a stall's move to an extent in another module; `left` counts those without a response (R211, R213). -/
def State.extentIssue (s : State) (i : Nat) (reqs : List RemoteReq) : State :=
  ({ s with toIssue := s.toIssue ++ reqs } : State).modifyStall i fun x =>
    { x with move := x.move.map fun m => { m with left := m.left + reqs.length } }

/-- An address of an extent lies in this module (R29). -/
def State.extentHere (s : State) (a : Nat) : Bool := a / 2 ^ 44 == s.regF Reg.FAB_POS 4 0

/-- Bytes written to an extent, in one module. -/
def State.extentStore (s : State) (i : Nat) (job a : Nat) (bs : List Byte) : Bool × State :=
  if s.extentHere a then
    let got := s.store (stableAccess job) (a % 2 ^ 44) bs
    (got.1 == .ok, got.2)
  else
    (true, s.extentIssue i ((splitAt 256 a bs.length).map fun (b, n) =>
      ⟨.stall i, 2, 0, b, n, (bs.drop (b - a)).take n, job, []⟩))

/-- Bytes written to an extent (R29, R211, R339): to the host, or module by module to this module's memory or to another one's. -/
def State.extentWrite (s : State) (i : Nat) (a : Nat) (bs : List Byte) : Bool × State :=
  let job := (s.stall i).job
  if (s.extentOf i).1 then (true, s.hostWrite job a bs)
  else
    (splitAt (2 ^ 44) a bs.length).foldl (fun (acc : Bool × State) (b, n) =>
      let got := acc.2.extentStore i job b ((bs.drop (b - a)).take n)
      (acc.1 && got.1, got.2)) (true, s)

def State.extentWrites (s : State) (i : Nat) : List (Nat × List Byte) → Bool × State
  | [] => (true, s)
  | (a, bs) :: t =>
    let got := s.extentWrite i a bs
    let g := got.1
    let s := got.2
    let got := s.extentWrites i t
    let g' := got.1
    let s := got.2
    (g && g', s)

/-- A stall's private pages: keys, entry addresses and pages (R211). -/
def State.privatePages (s : State) (i : Nat) : List (PageKey × Nat × Nat) :=
  (s.entries (s.stall i)).filterMap fun (k, a, e) =>
    match residentPage e with
    | some n => if s.refs n = 1 then some (k, a, n) else none
    | none => none

/-- An eviction that cannot be made, or whose stores failed (R211). -/
def State.evictFail (s : State) (i : Nat) : State :=
  (s.raiseTo Flt.STB_EVICT_FAIL blkSTB (s.stall i).job i).endMove i csNoSpace

/-- The pool of a page, and its size. -/
def State.poolFor (s : State) (i n : Nat) : Pool := (s.poolOfPage n).getD (s.pool (s.stall i).img.pool)

/-- Where pages of these sizes start in an extent, one after another (R211). -/
def startsFrom : Nat → List Nat → List Nat
  | _, [] => []
  | a, n :: t => a :: startsFrom (a + n) t

/-- The size of a stall's pages, those of its pool: a recall restores them there. -/
def State.pageSize (s : State) (i : Nat) : Nat := 2 ^ (s.pool (s.stall i).img.pool).log2

/-- An eviction started (R211): the record, the private pages and their sketches are written to the extent. Answers
whether it is under way. A page that reads as poison makes it fail like a store that fails (R238). -/
def State.beginEvict (s : State) (i : Nat) (command : Option (Nat × BitVec 16)) : Bool × State :=
  let (_, base, size) := s.extentOf i
  let pages := s.privatePages i
  let pools := pages.map fun x => s.poolFor i x.2.2
  let sizes := pools.map fun a => 2 ^ a.log2
  let total := sizes.sum
  if size = 0 ∨ size < 4096 + total + 128 * pages.length then (false, s)
  else
    let w := stableAccess (s.stall i).job
    let s := s.modifyStall i fun x => { x with move := some ⟨false, false, command, pages.map fun (_, e, p) => (e, p), 0, []⟩ }
    let got := (pages.zip pools).foldl (fun (acc : List (List Byte) × Status × State) x =>
      let got := acc.2.2.load w (x.2.pageAddr x.1.2.2) (2 ^ x.2.log2)
      (acc.1 ++ [got.1], worse acc.2.1 got.2.1, got.2.2)) ([], .ok, s)
    let bodies := got.1
    let read := got.2.1 == .ok
    let s := got.2.2
    let got := pages.foldl (fun (acc : List (List Byte) × Status × State) x =>
      let got := acc.2.2.load w (acc.2.2.sketchAddr x.2.2) 128
      (acc.1 ++ [got.1], worse acc.2.1 got.2.1, got.2.2)) ([], .ok, s)
    let sketches := got.1
    let read := read && got.2.1 == .ok
    let s := got.2.2
    let head := bytesOf (s.stall i).words ++ List.replicate (4096 - 256) 0
    let got := s.extentWrites i ([(base, head)]
      ++ (startsFrom (base + 4096) sizes).zip bodies
      ++ sketches.zipIdx.map (fun (b, k) => (base + 4096 + total + 128 * k, b)))
    let good := got.1 && read
    let s := got.2
    (true, s.modifyStall i fun x => { x with move := x.move.map fun m => { m with bad := m.bad || !good } })

/-- EVICT (R205, R211). -/
def State.evictCommand (a : CommandArgs) (s : State) : CommandEnd × State :=
  s.onStall a [.parked] fun i x s =>
    if x.move.isSome then (.done csBusy i, s)
    else match s.beginEvict i (some (a.ring, a.index)) with
      | (true, s) => (.later, s)
      | (false, s) => (.done csNoSpace i, s.raiseTo Flt.STB_EVICT_FAIL blkSTB x.job i)

def execEvict (ring : Fin 64) (s : State) : Host.Outcome State Fault Refusal := .next (s.applyCommand ring 8 State.evictCommand)

/-- STALL_EVICTION_COMPLETE (R211): every write of the extent has been acknowledged, or one has failed (`ok` false, or a fabric store
of it). The pages written are those that leave. -/
def execStallEvictionComplete (i : Fin 16384) (ok : Bool) (s : State) : Host.Outcome State Fault Refusal :=
  let x := s.stall i.val
  .next (match x.move with
    | none => s
    | some m =>
      if m.isRecall || m.left != 0 then s
      else if !ok || m.bad then s.evictFail i.val
      else
        let s := m.pages.zipIdx.foldl (fun s ((a, p), k) =>
          ((s.setTableWord a (BitVec.ofNat 32 (3 * 2 ^ 30 + k))).dropRef p).modifyStall i.val fun x =>
            { x with held := x.held - 1 }) s
        ((s.modifyStall i.val fun x => { x with next := some .evicted }).bump (Reg.STB_CNT_n + 16) 1).endMove
          i.val csOk)

/-- The evicted entries of a stall: addresses and ordinals. -/
def State.evictedEntries (s : State) (i : Nat) : List (Nat × Nat) :=
  (s.entries (s.stall i)).filterMap fun (_, a, e) => if e.bit 30 then some (a, e.field 23 0) else none

/-- The pages a recall needs are free without the reserve (R213). -/
def State.recallFits (s : State) (i : Nat) : Bool :=
  let a := s.pool (s.stall i).img.pool
  decide ((s.evictedEntries i).length + a.reserve ≤ (s.freePages a).length)

/-- A recall started: the extent is read over the endpoint (R419), or, in another module, with fabric loads. -/
def State.beginRecall (s : State) (i : Nat) (command : Option (Nat × BitVec 16)) : State :=
  let s := s.modifyStall i fun x => { x with move := some ⟨true, false, command, [], 0, []⟩ }
  let (host, base, size) := s.extentOf i
  if host then
    { s with nextId := s.nextId + 1, out := s.out ++ [.hostRead (s.requester (s.stall i).job) base size]
             pci := { s.pci with reads := s.pci.reads ++ [⟨s.nextId, i, (s.stall i).job, base, size, s.now⟩] } }
  else
    s.extentIssue i (((splitAt 256 (base + 4096) ((s.evictedEntries i).length * (s.pageSize i + 128))).filter
      fun e => !s.extentHere e.1).map fun (b, n) => ⟨.stall i, 1, 0, b, n, [], (s.stall i).job, []⟩)

/-- The host read of a recall is complete. -/
def State.endHostRead (s : State) (i : Nat) : State :=
  { s with pci := { s.pci with reads := s.pci.reads.filter fun r => r.stall != i } }

/-- HOST_READ_TIMEOUT (R419): the read has had no completion within 10 ms, or has ended with Unsupported Request or Completer Abort;
it returns poison. -/
def execHostReadTimeout (id : Nat) (aborted : Bool) (cyc : Nat) (s : State) : Host.Outcome State Fault Refusal :=
  let s := s.advance cyc
  .next (match s.pci.reads.find? fun r => r.id == id with
    | none => s
    | some r =>
      if !aborted && decide (s.now < r.sent + 10000000) then s
      else
        let s := ((s.endHostRead r.stall).raiseTo Flt.PCI_READ_TIMEOUT blkPCI r.job (r.addr % 2 ^ 32)).bump (Reg.PCI_CNT_n + 20) 1
        s.modifyStall r.stall fun x => { x with move := x.move.map fun m => { m with bad := true } })

/-- UNPARK (R205, R213). -/
def State.unparkCommand (a : CommandArgs) (s : State) : CommandEnd × State :=
  s.onStall a [.parked, .evicted] fun i x s =>
    let s := s.setStall i { x with hostPark := false }
    match x.st with
    | .evicted =>
      if x.move.isSome then (.done csOk i, s)
      else if s.recallFits i then (.later, s.beginRecall i (some (a.ring, a.index)))
      else (.done csNoSpace i, s)
    | _ => (.done csOk i, s)

def execUnpark (ring : Fin 64) (s : State) : Host.Outcome State Fault Refusal := .next (s.applyCommand ring 7 State.unparkCommand)

/-- The bytes that the loads of a recall have returned, from address `a` on. -/
def StallMove.bytes (m : StallMove) (a n : Nat) : List Byte :=
  let got := (splitAt 256 a n).flatMap fun (b, k) => match m.parts.find? fun p => decide (p.1 ≤ b ∧ b + k ≤ p.1 + p.2.length) with
    | some p => (p.2.drop (b - p.1)).take k
    | none => List.replicate k 0
  got

/-- Bytes of the extent of a recall in one module: this module's memory, or what another module's loads returned. -/
def State.extentLoad (s : State) (i : Nat) (a n : Nat) : List Byte × Bool × State :=
  if s.extentHere a then
    let got := s.load (stableAccess (s.stall i).job) (a % 2 ^ 44) n
    (got.1, got.2.1 == .ok, got.2.2)
  else match (s.stall i).move with
    | some m => (m.bytes a n, !m.bad, s)
    | none => (List.replicate n 0, false, s)

/-- The extent of a recall (R29): what the host returned, or what the modules it lies in hold. -/
def State.extentRead (s : State) (i : Nat) (given : List Byte) (o n : Nat) : List Byte × Bool × State :=
  let (host, base, _) := s.extentOf i
  if host then (((given.drop o).take n) ++ List.replicate (n - ((given.drop o).take n).length) 0, true, s)
  else
    (splitAt (2 ^ 44) (base + o) n).foldl (fun (acc : List Byte × Bool × State) (a, m) =>
      let got := acc.2.2.extentLoad i a m
      (acc.1 ++ got.1, acc.2.1 && got.2.1, got.2.2)) ([], true, s)

/-- The evicted pages of a stall restored one by one (R213): none when a read returns poison, after releasing what was
restored. -/
def State.restorePages (s : State) (i : Nat) (given : List Byte) (count : Nat) : List (Nat × Nat) → Option State
  | [] => some s
  | (a, o) :: t =>
    let pool := s.pool (s.stall i).img.pool
    let n := s.pageSize i
    let w := stableAccess (s.stall i).job
    let got := s.extentRead i given (4096 + o * n) n
    let body := got.1
    let g1 := got.2.1
    let s := got.2.2
    let got := s.extentRead i given (4096 + count * n + 128 * o) 128
    let sketch := got.1
    let g2 := got.2.1
    let s := got.2.2
    if !(g1 && g2) then none
    else match s.allocPage pool false with
      | (none, _) => none
      | (some p, s) =>
        let got := s.store w (pool.pageAddr p) body
        let s := got.2
        let got := s.store w (s.sketchAddr p) sketch
        let s := got.2
        let s := (s.setTableWord a (residentWord p)).modifyStall i fun x => { x with held := x.held + 1 }
        s.restorePages i given count t

/-- STALL_RECALL_COMPLETE (R213, R214): after the last extent read the stall enters PARKED at the next boundary; a
poison read (`ok` false, of this module's memory, or of a fabric load) rebuilds it. -/
def execStallRecallComplete (i : Fin 16384) (ok : Bool) (extent : List Byte) (s : State) :
    Host.Outcome State Fault Refusal :=
  let x := s.stall i.val
  .next (match x.move with
    | none => s
    | some m =>
      let s := s.endHostRead i.val
      if !m.isRecall || m.left != 0 then s
      else if !s.recallFits i.val then s.endMove i.val csNoSpace
      else
        let es := s.evictedEntries i.val
        let r := if ok && !m.bad then s.restorePages i.val extent es.length es else none
        match r with
        | some s =>
          ((s.modifyStall i.val fun x => { x with next := some .parked }).bump (Reg.STB_CNT_n + 20) 1).endMove i.val
            csOk
        | none => (s.endMove i.val csOk).rebuildStall i.val false)

/-! ### FORK, REBUILD, QUERY, SET and PUBLISH -/

/-- A stall enters the state it was to enter: commands are applied at a boundary (R184, R204). -/
def State.enterNow (s : State) (i : Nat) : State := s.modifyStall i fun x => x.settle s.clk.bnd

/-- The fields under which a FORK's target runs: the image's with the source's L, G and pool (R206). -/
def forkImage (image : StallImage) (y : Stall) : StallImage :=
  { image with groups := y.img.groups, layers := y.img.layers, pool := y.img.pool }

/-- What FORK gives its target stall: a record that shares the source's pages (R206); none where no frame is left for its table. A page
whose key the target's own max_len makes absent (R190) is not shared (DESIGN CHOICE, assumption 137). -/
def State.forkInto (s : State) (job : Nat) (image : StallImage) (y : Stall) (i : Nat) (pages : List (PageKey × Nat)) : Option State :=
  match s.allocFrame with
  | (none, _) => none
  | (some f, s) =>
    let img := forkImage image y
    let x : Stall := { Stall.reset with st := .decode, img := img, job := job, seqLen := y.seqLen, histLen := y.histLen, root := f,
                                        attached := y.attached, histFrom := some y.histBase, startedAt := s.clk.bnd }
    (pages.filter fun p => x.keyOk p.1).foldl (fun (acc : Option State) (k, n) =>
      acc.bind fun s => (s.holdPage i k n).map fun s => s.addRef n) (some (s.setStall i x))

/-- FORK with the image that was read, if it was valid (R206). -/
def State.forkWith (s : State) (a : CommandArgs) (o : Option (List Word)) : CommandEnd × State :=
  match o with
  | none => (.done csBad a.stall, s)
  | some ws =>
    let src := (a.w 2).field 13 0
    let y := s.stall src
    let img := forkImage (imageOf ws) y
    if 1024 < (img.layers + 1) * (img.groups + 1) * img.chunks then (.done csBad a.stall, s)
    else if !a.jobOk y then (.done csJob a.stall, s)
    else match s.targetStall a with
      | none => (.done csNoStall a.stall, s)
      | some i =>
        if (s.stall i).st ≠ .empty ∨ !(y.st == .decode || y.st == .parked) then (.done csBusy i, s)
        else
          let es := s.entries y
          let pages := es.filterMap fun (k, _, e) => (residentPage e).map fun n => (k, n)
          if pages.any fun (_, n) => decide (65535 ≤ s.refs n) then (.done csNoSpace i, s)
          else
            match s.forkInto a.job (imageOf ws) y i pages with
            | some s => (.done csOk i, s)
            | none => (.done csNoSpace i, s)

/-- FORK (R206). -/
def State.forkStall (a : CommandArgs) (s : State) : CommandEnd × State :=
  let got := s.readImage a 3
  got.2.forkWith a got.1

def execFork (ring : Fin 64) (s : State) : Host.Outcome State Fault Refusal :=
  .next (s.applyCommand ring 9 State.forkStall)

/-- REBUILD (R205, R214). -/
def State.rebuildCommand (a : CommandArgs) (s : State) : CommandEnd × State :=
  s.onStall a [.prefill, .decode, .parked, .evicted] fun i _ s =>
    (.done csOk i, (s.rebuildStall i false).enterNow i)

def execRebuild (ring : Fin 64) (s : State) : Host.Outcome State Fault Refusal := .next (s.applyCommand ring 10 State.rebuildCommand)

/-- The end of a QUERY by what its write gave: BAD for a destination that cannot be written, then JOB, which writes nothing. -/
def State.queryAnswer (s : State) (a : CommandArgs) (got : Status × State) : CommandEnd × State :=
  if got.1 ≠ .ok then (.done csBad a.stall, got.2)
  else if !a.jobOk (s.stall a.stall) then (.done csJob a.stall, s)
  else (.done csOk a.stall, got.2)

/-- QUERY (R205): the record copied to the destination under the ring's job. -/
def State.queryStall (a : CommandArgs) (s : State) : CommandEnd × State :=
  if a.addr 2 % 64 ≠ 0 then (.done csBad a.stall, s)
  else s.queryAnswer a (s.storeWords a.access (a.addr 2) (s.stall a.stall).words)

def execQuery (ring : Fin 64) (s : State) : Host.Outcome State Fault Refusal :=
  .next (s.applyCommand ring 11 State.queryStall)

/-- SET with the image that was read, if it was valid (R205). -/
def State.setWith (s : State) (a : CommandArgs) (o : Option (List Word)) : CommandEnd × State :=
  match o with
  | none => (.done csBad a.stall, s)
  | some ws =>
    s.onStall a [.admitted, .prefill, .decode, .parked, .evicted, .draining] fun i x s =>
      let n := imageOf ws
      let img := { x.img with publish := n.publish, cls := n.cls, pool := n.pool, blinkThresh := n.blinkThresh,
                              pubLimit := n.pubLimit, out := n.out, outLog2 := n.outLog2, outSig := n.outSig,
                              hostCtr := n.hostCtr, user := n.user }
      (.done csOk i, s.setStall i { x with img := img })

/-- SET (R182, R205): the software fields that are not ADMIT only. -/
def State.setFields (a : CommandArgs) (s : State) : CommandEnd × State :=
  let got := s.readImage a 2
  got.2.setWith a got.1

def execSet (ring : Fin 64) (s : State) : Host.Outcome State Fault Refusal :=
  .next (s.applyCommand ring 12 State.setFields)

/-- PUBLISH (R200, R205). -/
def State.publishCommand (a : CommandArgs) (s : State) : CommandEnd × State :=
  s.onStall a [.decode, .parked] fun i x s =>
    (.done csOk i, s.publish i (min ((a.w 2).field 17 0) (x.seqLen / 64)) fun _ => true)

def execPublish (ring : Fin 64) (s : State) : Host.Outcome State Fault Refusal := .next (s.applyCommand ring 13 State.publishCommand)

/-! ### The work plan (R207 to R213) -/

/-- Numbered stalls the store lists. -/
def State.stalls (s : State) : List (Nat × Stall) := s.stb.stalls

/-- A stall is settled: no change of state and no move of its pages is under way. -/
def Stall.settled (x : Stall) : Bool := x.next == none && x.move == none

/-- Decode candidates in their order (R209). -/
def State.decodeCandidates (s : State) : List (Nat × Stall) :=
  let l := s.stalls.filter fun (_, x) => x.settled && (x.st == .decode || (x.st == .parked && !x.hostPark))
  sortBy (fun (i, x) (j, y) => decide (y.skips < x.skips)
    || (x.skips == y.skips && (decide (x.img.cls < y.img.cls) || (x.img.cls == y.img.cls && decide (i < j))))) l

/-- Candidates taken while room lasts: the stalls taken and those left, with the entries and tokens used. -/
def takeDecode (maxEntries budget : Nat) : List (Nat × Stall) → Nat → Nat → List Nat × List Nat × Nat
  | [], _, used => ([], [], used)
  | (i, x) :: t, n, used =>
    let c := 1 + x.specW
    if n < maxEntries ∧ used + c ≤ budget then
      let (a, b, u) := takeDecode maxEntries budget t (n + 1) (used + c)
      (i :: a, b, u)
    else
      let (a, b, u) := takeDecode maxEntries budget t n used
      (a, i :: b, u)

/-- Prefill candidates in their order (R209, R238). -/
def State.prefillCandidates (s : State) : List (Nat × Stall) :=
  let l := s.stalls.filter fun (_, x) => x.settled && x.st == .prefill && !x.waits && decide (x.seqLen < x.target)
  let due (x : Stall) : Nat × Nat := match s.deadline x with
    | some d => (0, d)
    | none => (1, 0)
  sortBy (fun (i, x) (j, y) =>
    let (a, b) := due x
    let (c, d) := due y
    decide (a < c) || (a == c && (decide (b < d) || (b == d && (decide (x.img.cls < y.img.cls)
      || (x.img.cls == y.img.cls && decide (i < j))))))) l

/-- The chunks of prefill: stall and tokens (R209). -/
def takePrefill (chunk : Nat) : List (Nat × Stall) → Nat → List (Nat × Nat)
  | [], _ => []
  | (i, x) :: t, budget =>
    let rest := x.target - x.seqLen
    let n := min (min rest chunk) budget
    let n := if n = rest then n else n / 64 * 64
    if n = 0 then [] else (i, n) :: takePrefill chunk t (budget - n)

/-- The words of a plan entry (R208). -/
def planEntry (i : Nat) (x : Stall) (tokens : Nat) : List Word :=
  let kind := if x.st = .prefill then (if x.rebuild then 2 else 1) else 0
  let last := x.st == .prefill && x.seqLen + tokens == x.target
  [BitVec.ofNat 32 (putBits 31 28 kind + putBits 27 27 (bitOf last) + i), BitVec.ofNat 32 x.seqLen,
   BitVec.ofNat 32 tokens, BitVec.ofNat 32 (putBits 14 12 x.img.cls + x.job)]

/-- Held rebuilds whose history now reads clean go on (R238). -/
def State.releaseHeld (s : State) : State :=
  s.stalls.foldl (fun s (i, _) =>
    if (s.stall i).waits then
      let got := s.historyReads i
      let good := got.1
      let s := got.2
      if good then s.rebuildLookup i else s
    else s) s

/-- Directory removal (R201). -/
def State.shrinkDirectory (s : State) : State :=
  (List.range 4).foldl (fun s p =>
    let a := s.pool p
    if a.on && decide ((s.freePages a).length ≤ a.reserve) then s.dirShrink p (4 * 2 ^ s.regF Reg.STB_DIR_CFG 4 0 + 1)
    else s) s

/-- Evictions of a pool begun one after another until enough pages will be free (R212). -/
def State.evictUntil (s : State) (goal : Nat) : List Nat → Nat → State
  | [], _ => s
  | i :: t, free =>
    if goal < free then s
    else
      let n := (s.privatePages i).length
      let got := s.beginEvict i none
      let s := got.2
      if got.1 then s.evictUntil goal t (free + n)
      else (s.raiseTo Flt.STB_EVICT_FAIL blkSTB (s.stall i).job i).evictUntil goal t free

/-- Automatic eviction (R212). -/
def State.autoEvict (s : State) : State :=
  (List.range 4).foldl (fun s p =>
    let a := s.pool p
    let free := (s.freePages a).length
    if a.on && decide (free ≤ a.reserve) then
      let l := s.stalls.filter fun (_, x) => x.st == .parked && x.settled && x.img.pool == p
      let l := sortBy (fun (i, x) (j, y) => decide (y.img.cls < x.img.cls)
        || (x.img.cls == y.img.cls && (decide (x.parkedAt < y.parkedAt)
          || (x.parkedAt == y.parkedAt && decide (i < j))))) l
      s.evictUntil (2 * a.reserve) (l.map (·.1)) free
    else s) s

/-- Automatic recall (R213). -/
def State.autoRecall (s : State) : State :=
  s.stalls.foldl (fun s (i, _) =>
    let x := s.stall i
    let a := s.pool x.img.pool
    if x.st == .evicted && x.settled && !x.hostPark
        && decide (2 * a.reserve + (s.evictedEntries i).length < (s.freePages a).length) then s.beginRecall i none
    else s) s

/-- The prefill reserve R (R209). -/
def State.prefillReserve (s : State) (t : Nat) : Nat :=
  let classes := (List.range 8).filter fun c => s.stalls.any fun (_, x) => x.st == .prefill && x.img.cls == c
  min t ((classes.map fun c => t * min 100 (s.liveF (Reg.STB_CLASSc + 4 * c) 31 24) / 100).sum)

/-- A plan formed (R209, R210): decode stalls in ascending index, then prefill chunks. -/
def State.formPlan (s : State) : List (Nat × Nat) × List (Nat × Nat) × State :=
  let t := s.liveF Reg.STB_BATCH 31 16
  let (taken, left, used) := takeDecode (s.liveF Reg.STB_BATCH 15 0) (t - s.prefillReserve t) s.decodeCandidates 0 0
  let s := taken.foldl (fun s i => s.modifyStall i fun x => { x with st := .decode, skips := 0 }) s
  let s := left.foldl (fun s i => s.modifyStall i fun x => { x with skips := min (x.skips + 1) 65535 }) s
  let chunks := takePrefill (s.liveF Reg.STB_PLAN_CTL 15 0) s.prefillCandidates (t - used)
  let decode := (sortBy (fun i j => decide (i < j)) taken).map fun i => (i, 1 + (s.stall i).specW)
  let park := s.liveF Reg.STB_ADMIT_CTL 7 0
  let bnd := s.clk.bnd
  let s := if park = 0 then s else left.foldl (fun s i => s.modifyStall i fun x =>
    if x.st = .decode ∧ park ≤ x.skips then { x with st := .parked, hostPark := false, parkedAt := bnd } else x) s
  (decode, chunks, s)

/-- A plan written to its half of the plan buffer (R207, R208). -/
def State.writePlan (s : State) (m : Nat) (decode chunks : List (Nat × Nat)) : State :=
  let entries := (decode ++ chunks).flatMap fun (i, n) => planEntry i (s.stall i) n
  let total (l : List (Nat × Nat)) : Nat := (l.map (·.2)).sum
  let stride := s.clk.stride.toNat
  let header := [BitVec.ofNat 32 m, BitVec.ofNat 32 (decode.length + chunks.length), BitVec.ofNat 32 (total decode),
    BitVec.ofNat 32 (total chunks), BitVec.ofNat 32 stride, BitVec.ofNat 32 (stride / 2 ^ 32), 0, 0, 0, 0, 0, 0, 0, 0, 0, 0]
  let base := s.baseOf Reg.STB_PLAN_LO Reg.STB_PLAN_HI 12 + m % 2 * 0x41000
  (s.storeWords (stableAccess 0) base (header ++ entries)).2

/-- WORK_PLAN_PUBLISH (R201, R204, R207 to R213) where a plan is published at this boundary. -/
def State.publishPlan (s : State) : State :=
  let s := s.releaseHeld.shrinkDirectory.autoEvict.autoRecall
  let m := match s.stb.planNum with
    | some n => n + 1
    | none => 0
  let got := s.formPlan
  let decode := got.1
  let chunks := got.2.1
  let s := got.2.2
  let s := s.writePlan m decode chunks
  let s := { s with stb := { s.stb with planNum := some m, planInForce := some m, planDue := false,
                                        stepSeen := s.stepValue } }
  s.signalAt 2 none (s.regF Reg.STB_PLAN_CTL 23 16) 1 0 agentStable blkSTB

def execWorkPlanPublish (s : State) : Host.Outcome State Fault Refusal :=
  .next (if s.isOn .stable && s.stb.planDue then s.publishPlan else s)

/-! ### The boundary -/

/-! ### Commands at a boundary (R204) -/

/-- What a command of an opcode does. -/
def ringAct (op : Nat) : CommandArgs → State → CommandEnd × State :=
  match op with
  | 1 => State.admitStall
  | 2 => State.releaseCommand
  | 3 => State.commitTokens
  | 4 => State.specPut
  | 5 => State.rollbackCommand
  | 6 => State.parkCommand
  | 7 => State.unparkCommand
  | 8 => State.evictCommand
  | 9 => State.forkStall
  | 10 => State.rebuildCommand
  | 11 => State.queryStall
  | 12 => State.setFields
  | _ => State.publishCommand

/-- The commands that are due, applied one after another; as many as are waiting are enough. -/
def State.applyCommands (s : State) : Nat → State
  | 0 => s
  | n + 1 =>
    match s.stb.commands.find? s.commandDue with
    | none => s
    | some c =>
      let got := s.fetchCommand c
      (got.2.endCommand c got.1 (ringAct got.1.op)).applyCommands n

/-- The commands of a boundary, then the plan where one is published (R34, R204, R207). -/
def State.stableOrder (s : State) : State :=
  let s := s.applyCommands s.stb.commands.length
  if s.isOn .stable && s.stb.planDue then s.publishPlan else s

/-- A publication falls due at this boundary: the first after the manager has entered ON, or the first after the step counter has
increased (R207). -/
def State.planFalls (s : State) : Bool :=
  match s.stb.planNum with
  | none => decide (s.stb.onAt < s.clk.bnd)
  | some _ => decide (s.stb.stepSeen.toNat < s.stepValue.toNat)

/-- What the Stable manager does at a boundary: stalls enter the states they were to enter (R184), free counts are taken
(STB_POOLp_FREE), commands are applied and the plan is published (R204, R207). -/
def State.stableBoundary (s : State) : State :=
  let bnd := s.clk.bnd
  let s := { s with stb := { s.stb with stalls := s.stb.stalls.mapVals fun _ (x : Stall) => x.settle bnd } }
  let s := (List.range 4).foldl (fun s p =>
    let a := s.pool p
    s.setReg (Reg.STB_POOLp_FREE + 0x20 * p) (BitVec.ofNat 32 (if a.on then (s.freePages a).length else 0))) s
  ({ s with stb := { s.stb with planDue := s.isOn .stable && s.planFalls } }).stableOrder

/-- The Stable manager stops: every stall drains (R185, R454). -/
def State.stableStopping (s : State) : State := s.stalls.foldl (fun s (i, _) => s.releaseStall i) s

/-- Every stall has drained. -/
def State.stableDrained (s : State) : Bool := s.stalls.all fun (_, x) => x.st == .empty

/-- The Stable manager enters ON: plan 0 is published at the first boundary after (R207). -/
def State.stableStarted (s : State) : State := { s with stb := { s.stb with planNum := none, onAt := s.clk.bnd } }

end Sys2Proof.Machine
end

