-- ==== Sys2Proof/Machine/Elements.lean ====
section
/-! DEFINITION. Elements in scratch and Tally: loading rows and blocks, reading their elements, and writing results
(R91 to R94, R108, R110, R116). -/

namespace Sys2Proof.Machine

/-- Several ranges loaded in order: start and length of each (R545). -/
def State.loadMany (s : State) (w : Accessor) : List (Nat × Nat) → List (List Byte) × Status × State
  | [] => ([], .ok, s)
  | (a, n) :: t =>
    let got := s.load w a n
    let bs := got.1
    let st := got.2.1
    let s := got.2.2
    let got := s.loadMany w t
    let rest := got.1
    let st' := got.2.1
    let s := got.2.2
    (bs :: rest, worse st st', s)

/-- Several ranges stored in order. -/
def State.storeMany (s : State) (w : Accessor) : List (Nat × List Byte) → Status × State
  | [] => (.ok, s)
  | (a, bs) :: t =>
    let got := s.store w a bs
    let st := got.1
    let s := got.2
    let got := s.storeMany w t
    let st' := got.1
    let s := got.2
    (worse st st', s)

/-- The codes of elements of `size` bytes. -/
def wideCodes (size : Nat) : Nat → List Byte → List Nat
  | 0, _ => []
  | n + 1, bs => leNat (bs.take size) :: wideCodes size n (bs.drop size)

/-- The codes of `n` elements of a format from their bytes (R91). -/
def elemCodes (fmt n : Nat) (bs : List Byte) : List Nat :=
  if fmt = 0 then (bs.flatMap fun b => [b.toNat % 16, b.toNat / 16]).take n else wideCodes (formatBits fmt / 8) n bs

/-- Codes packed into bytes (R91). -/
def packCodes (fmt : Nat) : List Nat → List Byte
  | [] => []
  | [c] => if fmt = 0 then [BitVec.ofNat 8 c] else natLe c (formatBits fmt / 8)
  | c :: d :: t =>
    if fmt = 0 then BitVec.ofNat 8 (c % 16 + 16 * (d % 16)) :: packCodes fmt t
    else natLe c (formatBits fmt / 8) ++ packCodes fmt (d :: t)

/-- A list cut into groups of `k`. -/
def chunks {α : Type} (k : Nat) : Nat → List α → List (List α)
  | 0, _ => []
  | fuel + 1, l => if l.isEmpty then [] else l.take k :: chunks k fuel (l.drop k)

def groupsOf {α : Type} (k : Nat) (l : List α) : List (List α) := chunks k (l.length + 1) l

/-- A value is neither NaN nor infinite. -/
def Elem.clean (e : Elem) : Bool := e.value.isFinite

/-- A B4 element under its block's scale byte (R96). -/
def b4Scaled (scale code : Nat) : Num := if scale = 255 then .nan else (b4Value code).scale ((scale : Int) - 127)

/-- The values of a contiguous operand from its bytes (R94, R109). -/
def contiguousValues (fmt n : Nat) (bs : List Byte) : List Num :=
  if fmt = 0 then
    let codes := elemCodes 0 n (bs.take (n / 2))
    let scales := bs.drop (ceilDiv (n / 2) 64 * 64)
    codes.zipIdx.map fun (c, i) => b4Scaled (scales.getD (i / 32) 0).toNat c
  else (elemCodes fmt n bs).map (floatFormat fmt).decode

/-- The ranges in which a contiguous operand lies: codes or elements, then the scale array of B4. -/
def contiguousRanges (fmt n base : Nat) : List (Nat × Nat) :=
  if fmt = 0 then [(base, n / 2), (base + ceilDiv (n / 2) 64 * 64, n / 32)] else [(base, rowBytes fmt n)]

/-- A contiguous operand loaded: its values. -/
def State.loadValues (s : State) (w : Accessor) (fmt n base : Nat) : List Num × Status × State :=
  let got := s.loadMany w (contiguousRanges fmt n base)
  let parts := got.1
  let st := got.2.1
  let s := got.2.2
  let vals := match parts with
    | [codes, scales] =>
      (elemCodes 0 n codes).zipIdx.map fun (c, i) => b4Scaled (scales.getD (i / 32) 0).toNat c
    | [bs] => (elemCodes fmt n bs).map (floatFormat fmt).decode
    | _ => []
  (vals, st, s)

/-- A result with whether none of its operands was NaN or infinite. -/
abbrev Result := Num × Bool

/-- Results converted to a format other than B4 (R108): codes and counts. -/
def convertAll (fmt : Nat) (sat : Bool) (rs : List Result) : List Nat × Exc :=
  rs.foldr (fun (x, clean) (codes, e) =>
    let c := (floatFormat fmt).convert sat x
    (c.code :: codes, e.add (c.exc clean))) ([], .zero)

/-- Results converted to B4 in groups of 32 (R110): scales, codes and counts. -/
def convertBlocks (sat : Bool) (rs : List Result) : List Nat × List Nat × Exc :=
  (groupsOf 32 rs).foldr (fun g (scales, codes, e) =>
    let (sc, cs) := convertB4 sat (g.map (·.1))
    (sc :: scales, cs.map (·.code) ++ codes,
      (cs.zip g).foldl (fun e (c, r) => e.add (c.exc r.2)) e)) ([], [], .zero)

/-- Results written as a contiguous operand (R94, R108, R110). -/
def State.storeResults (s : State) (w : Accessor) (fmt : Nat) (sat : Bool) (base : Nat) (rs : List Result) :
    Exc × Status × State :=
  if fmt = 0 then
    let (scales, codes, e) := convertBlocks sat rs
    let got := s.storeMany w [(base, packCodes 0 codes),
      (base + ceilDiv (rs.length / 2) 64 * 64, scales.map (BitVec.ofNat 8))]
    let st := got.1
    let s := got.2
    (e, st, s)
  else
    let (codes, e) := convertAll fmt sat rs
    let got := s.store w base (packCodes fmt codes)
    let st := got.1
    let s := got.2
    (e, st, s)

end Sys2Proof.Machine
end

