-- ==== Sys2Proof/Machine/Tensor.lean ====
section
/-! DEFINITION. The tensor array: MATMUL over dense and sparse operands (R92, R93, R99 to R107, R120 to R131). -/

namespace Sys2Proof.Machine

/-- An operand's rows as blocks: for each row, each block's scale (none for NaN) and elements. For B a block lists, for
each position along k, the elements that multiply there: one when dense, none or more under 2:4 and 1:4. -/
structure ABlock where
  scale : Option Int
  elems : List Elem
deriving DecidableEq, Repr

structure BBlock where
  scale : Option Int
  elems : List (List Elem)
deriving DecidableEq, Repr

/-- The zero of a format, which stands for a flagged or elided element. -/
def zeroElem (fmt : Nat) : Elem := if fmt = 0 then .code 0 else .num (.fin false 0 0)

/-- The products of one position: each kept element of B, or a zero where B has none (R104, R123, R124). -/
def positionProducts (bFmt : Nat) (a : Elem) (bs : List Elem) : List Num :=
  match bs with
  | [] => [a.product (zeroElem bFmt)]
  | _ => bs.map a.product

/-- One block pair (R101, R103, R104). -/
def blockPair (bFmt : Nat) (a : ABlock) (b : BBlock) : Num × Bool :=
  let scale := match a.scale, b.scale with
    | some x, some y => some (x + y)
    | _, _ => none
  blockSum ((a.elems.zip b.elems).flatMap fun (x, ys) => positionProducts bFmt x ys) scale

/-- One element of C before conversion, with the number of block pairs that R101 narrowed (R105). -/
def dotProduct (bFmt : Nat) (r : Num) (a : List ABlock) (b : List BBlock) : Num × Nat :=
  reduceBlocks r ((a.zip b).map fun (x, y) => blockPair bFmt x y)

def ABlock.clean (a : ABlock) : Bool := a.scale.isSome && a.elems.all Elem.clean
def BBlock.clean (b : BBlock) : Bool := b.scale.isSome && b.elems.all fun l => l.all Elem.clean

/-- The blocks of a row of A (R91, R93, R129, R131): flagged zero groups hold zeros. -/
def aRow (fmt : Nat) (codes : List Nat) (scales : List Byte) (zmap : List Byte) : List ABlock :=
  let elems := codes.zipIdx.map fun (c, i) =>
    if (zmap.getD (i / 512) 0).getLsbD (i / 64 % 8) then zeroElem fmt else elemOf fmt c
  (groupsOf 32 elems).zipIdx.map fun (l, i) => ⟨blockScale (formatScaled fmt) (scales.getD i 0).toNat, l⟩

/-- The blocks of a dense storage row of B. -/
def bRow (fmt : Nat) (codes : List Nat) (scales : List Byte) : List BBlock :=
  (groupsOf 32 (codes.map (elemOf fmt))).zipIdx.map fun (l, i) =>
    ⟨blockScale (formatScaled fmt) (scales.getD i 0).toNat, l.map fun x => [x]⟩

/-- A 2-bit field of metadata (R122). -/
def metaField (bits : List Byte) (i : Nat) : Nat := (bits.getD (i / 4) 0).toNat / 4 ^ (i % 4) % 4

/-- The positions of the kept elements of a compressed row: `per` kept elements a group (R121 to R123). -/
def sparsePositions (fmt per k : Nat) (codes : List Nat) (bits : List Byte) : List (List Elem) :=
  (List.range k).map fun p =>
    (List.range per).filterMap fun j =>
      let i := p / 4 * per + j
      if metaField bits i = p % 4 then some (elemOf fmt (codes.getD i 0)) else none

/-- The blocks of a compressed storage row of B. -/
def sparseRow (fmt per k : Nat) (codes : List Nat) (bits scales : List Byte) : List BBlock :=
  (groupsOf 32 (sparsePositions fmt per k codes bits)).zipIdx.map fun (l, i) =>
    ⟨blockScale (formatScaled fmt) (scales.getD i 0).toNat, l⟩

/-- The block of a tile that is absent (R126). -/
def absentBlock : BBlock := ⟨some 0, List.replicate 32 []⟩

/-- Where A, its scales and its zero-group map lie, row by row. -/
def MatmulArgs.aRanges (x : MatmulArgs) (c : CoreId) : List (Nat × Nat) :=
  let nb := x.k / 32
  (List.range x.m).flatMap fun i =>
    [(scratchAddr c (x.a * 64 + i * x.lda * 64), rowBytes x.aFmt x.k),
     (scratchAddr c (x.aScale * 64 + i * nb), if formatScaled x.aFmt then nb else 0),
     (scratchAddr c (x.zmap * 64 + i * ceilDiv x.k 512), if x.zskip then ceilDiv x.k 512 else 0)]

/-- The rows of A from what was loaded. -/
def MatmulArgs.aRows (x : MatmulArgs) : List (List Byte) → List (List ABlock)
  | bs :: sc :: z :: t => aRow x.aFmt (elemCodes x.aFmt x.k bs) sc z :: x.aRows t
  | _ => []

/-- The address of a byte of B's space. -/
def MatmulArgs.bAddr (x : MatmulArgs) (c : CoreId) (o : Nat) : Nat :=
  if x.bTally then tallyAddr c o else scratchAddr c o

/-- Where the storage rows of B, their metadata and scales lie, for sp_mode 0 to 2. -/
def MatmulArgs.bRanges (x : MatmulArgs) (c : CoreId) : List (Nat × Nat) :=
  let nb := x.k / 32
  let bytes := rowBytes x.bFmt (keptCount x.sp x.k)
  let pitch := if x.sp = 0 then x.ldb * 64 else ceilDiv bytes 64 * 64
  (List.range x.n).flatMap fun j =>
    [(x.bAddr c (x.b * 64 + j * pitch), bytes),
     (x.bAddr c (x.bScale * 64 + j * nb), if formatScaled x.bFmt then nb else 0),
     (x.bAddr c (x.bits * 64 + j * metaBytes x.sp x.k), if x.sp = 0 then 0 else metaBytes x.sp x.k)]

/-- The storage rows of B from what was loaded, for sp_mode 0 to 2. -/
def MatmulArgs.bRows (x : MatmulArgs) : List (List Byte) → List (List BBlock)
  | bs :: sc :: mt :: t =>
    let codes := elemCodes x.bFmt (keptCount x.sp x.k) bs
    (if x.sp = 0 then bRow x.bFmt codes sc
     else sparseRow x.bFmt (if x.sp = 1 then 2 else 1) x.k codes mt sc) :: x.bRows t
  | _ => []

/-- The numbers of the kept tiles among tiles 0, 1, …: the order in storage (R125, R126). -/
def keptTiles (bitmap : List Byte) (tiles : Nat) : List Nat :=
  (List.range tiles).filter fun i => (bitmap.getD (i / 8) 0).getLsbD (i % 8)

/-- Where the kept tiles of block-sparse B and the scales of their columns lie: for each kept tile its bytes, then one
scale for each of its 32 columns. -/
def MatmulArgs.tileRanges (x : MatmulArgs) (c : CoreId) (kept : List Nat) : List (Nat × Nat) :=
  let nb := x.k / 32
  kept.zipIdx.flatMap fun (t, i) =>
    (x.bAddr c (x.b * 64 + i * tileBytes x.bFmt), tileBytes x.bFmt)
      :: (List.range 32).map fun col =>
        (x.bAddr c (x.bScale * 64 + (t / nb * 32 + col) * nb + t % nb), if formatScaled x.bFmt then 1 else 0)

/-- The column blocks of the kept tiles, tile number and column first. -/
def MatmulArgs.tileBlocks (x : MatmulArgs) (kept : List Nat) (parts : List (List Byte)) : List ((Nat × Nat) × BBlock) :=
  (kept.zip (groupsOf 33 parts)).flatMap fun (t, p) =>
    let codes := elemCodes x.bFmt 1024 (p.getD 0 [])
    (List.range 32).map fun col =>
      ((t, col), ⟨blockScale (formatScaled x.bFmt) ((p.getD (col + 1) []).getD 0 0).toNat,
        ((codes.drop (32 * col)).take 32).map fun v => [elemOf x.bFmt v]⟩)

/-- The storage rows of block-sparse B. -/
def MatmulArgs.blockRows (x : MatmulArgs) (blocks : List ((Nat × Nat) × BBlock)) : List (List BBlock) :=
  let nb := x.k / 32
  (List.range x.n).map fun j => (List.range nb).map fun κ =>
    match blocks.find? fun b => b.1 == (j / 32 * nb + κ, j % 32) with
    | some b => b.2
    | none => absentBlock

/-- B loaded. -/
def State.loadB (s : State) (w : Accessor) (c : CoreId) (x : MatmulArgs) : List (List BBlock) × Status × State :=
  if x.sp = 3 then
    let tiles := x.k / 32 * (x.n / 32)
    let got := s.load w (x.bAddr c (x.bits * 64)) (ceilDiv tiles 8)
    let bits := got.1
    let st := got.2.1
    let s := got.2.2
    let kept := keptTiles bits tiles
    let got := s.loadMany w (x.tileRanges c kept)
    let parts := got.1
    let st' := got.2.1
    let s := got.2.2
    (x.blockRows (x.tileBlocks kept parts), worse st st', s)
  else
    let got := s.loadMany w (x.bRanges c)
    let parts := got.1
    let st := got.2.1
    let s := got.2.2
    (x.bRows parts, st, s)

/-- The results of one row of C and the counts of R116. `old` holds the row's old C when it accumulates. -/
def matmulRow (x : MatmulArgs) (a : List ABlock) (bs : List (List BBlock)) (old : List Num) : List Result × Nat :=
  (bs.zipIdx).foldr (fun (b, j) (rs, n) =>
    let c0 : Num := if x.accum then old.getD j (.fin false 0 0) else .fin false 0 0
    let (r, m) := dotProduct x.bFmt c0 a b
    ((r, a.all ABlock.clean && b.all BBlock.clean && c0.isFinite) :: rs, n + m)) ([], 0)

/-- MATMUL (R92, R93, R99 to R105, R120 to R131) of the oldest started MATMUL of the queue. Its result does not depend
on the order in which C is formed (R107). It waits while a range of it is still to be written (R55). -/
def execMatmul (q : QueueId) (s : State) : Host.Outcome State Fault Refusal :=
  .next (match s.running q opMatmul with
    | none => s
    | some e =>
      let x := e.desc.matmul
      if s.hazard q.core (x.reads ++ x.writes) then s
      else
        let w := s.accessor q
        let got := s.loadMany w (x.aRanges q.core)
        let ap := got.1
        let st0 := got.2.1
        let s := got.2.2
        let got := s.loadB w q.core x
        let bs := got.1
        let st1 := got.2.1
        let s := got.2.2
        let cAt (i : Nat) := scratchAddr q.core (x.c * 64 + i * x.ldc * 64)
        let got := s.loadMany w
          ((List.range x.m).map fun i => (cAt i, if x.accum then rowBytes x.cFmt x.n else 0))
        let cp := got.1
        let st2 := got.2.1
        let s := got.2.2
        let rows := (x.aRows ap).zipIdx.map fun (a, i) =>
          matmulRow x a bs ((elemCodes x.cFmt x.n (cp.getD i [])).map (floatFormat x.cFmt).decode)
        let out := rows.map fun (rs, n) =>
          let (codes, exc) := convertAll x.cFmt x.sat rs
          (packCodes x.cFmt codes, exc.add ⟨0, 0, 0, n⟩)
        let got := s.storeMany w (out.zipIdx.map fun ((bytes, _), i) => (cAt i, bytes))
        let st3 := got.1
        let s := got.2
        s.complete q e (accessStatus (worse st0 (worse st1 (worse st2 st3)))) (out.foldl (fun t r => t.add r.2) .zero))

end Sys2Proof.Machine
end

