-- ==== Sys2Proof/Machine/Transactions.lean ====
section
/-! DEFINITION. A core's transactions: where the bytes of a transfer lie, which transaction goes next, and the injection
meters (R28, R29, R53, R55, R73, R79, R82, R84 to R86, R302, R365). -/

namespace Sys2Proof.Machine

/-- How a core reaches a byte range (R29, R53, R73): in place, which is its own scratch, its own Tally slice through the Tally port, or
a hole of this module or a slice that does not serve, where nothing is reached (R219); over Draught inside this module; or at another module. -/
inductive Place where
  | here (a : Nat)
  | inside (a : Nat)
  | away (a : Nat)
deriving DecidableEq, Repr

def State.placeOf (s : State) (c : CoreId) (a n : Nat) : Place :=
  if !s.isHome a then .away a
  else
    let l := a % 2 ^ 44
    match s.regionOf l n with
    | .hole => .here l
    | .scratch d => if d = c then .here l else .inside a
    | .tally d => if d = c ∨ !s.sliceServes d then .here l else .inside a
    | .dram => .inside a

/-- A row any byte of which lies at or above 2^49 (R547). -/
def rowBeyond (a n : Nat) : Bool := decide (2 ^ 49 < a + n)

/-- A range cut into what one transaction carries, blocks of 256 bytes (R73, R297). Such a block goes to the port of its first line, which serves
all of it (R302, worked example). DEDUCED, assumption 138. -/
def cuts (a n : Nat) : List (Nat × Nat) := splitAt 256 a n

/-! ### The list of transactions -/

/-- A transaction handed to the mover, in the place of an earlier one that it follows from, or as the last. -/
def State.putTxn (s : State) (c : CoreId) (slot : Option Nat) (t : Nat → Txn) : State :=
  let k := s.core c
  let t := t s.nextId
  let l := match slot with
    | some i => k.mover.map fun u => if u.id = i then t else u
    | none => k.mover ++ [t]
  { s.setCore c { k with mover := l } with nextId := s.nextId + 1 }

def Core.dropTxn (k : Core) (id : Nat) : Core := { k with mover := k.mover.filter fun u => u.id != id }

/-- A store of a descriptor goes after the loads that stand before it in the descriptor: a row's transactions go in address order (R73). -/
def Core.behind (k : Core) (t : Txn) : Bool :=
  t.kind != 1 && (k.mover.takeWhile fun u => u.id != t.id).any fun u =>
    u.q == t.q && u.index == t.index && u.live && u.ret.isSome && t.kind != 0

/-- Stores and atomics of a queue inside this module that are not complete, other than transaction `id` (R365). -/
def State.storesOpen (s : State) (q : QueueId) (id : Nat) : Bool :=
  (s.core q.core).mover.any fun u =>
    u.id != id && u.q == q.q && u.kind != 0 && (u.ret.isSome || (u.kind != 1 && s.isHome u.addr))

/-- A flagged store inside this module goes once its predecessors are complete (R365). -/
def State.flagWaits (s : State) (c : CoreId) (t : Txn) : Bool :=
  t.kind == 3 && s.isHome t.addr && s.storesOpen ⟨c, t.q⟩ t.id

/-- The transaction a core issues next. -/
def State.nextTxn (s : State) (c : CoreId) : Option Txn :=
  let k := s.core c
  k.mover.find? fun t => !t.issued && t.live && !k.behind t && !s.flagWaits c t

/-! ### The end of a descriptor -/

/-- The oldest descriptor whose record is written leaves (R61, R62): cpl_tail goes on, then the header signal is sent. -/
def State.closeRecord (s : State) (q : QueueId) (x : Ending) : State :=
  let v := s.queue q
  let s := s.setQueue q { v with cplTail := v.cplTail + 1, lastStatus := x.status, ending := v.ending.drop 1 }
  if x.status = stOk ∧ x.desc.sigEn then
    s.signalAt x.desc.sigSpace (some q.core) x.desc.sigIdx 1 (s.queue q).job q.core.gid (coreBlock q.core q.q.val)
  else s

/-- Every record that is written, and has none before it that is not, leaves. -/
def State.closeRecords (s : State) (q : QueueId) : List Ending → State
  | [] => s
  | x :: t => if x.txn.isSome then s else (s.closeRecord q x).closeRecords q t

/-- An ended descriptor put behind those whose records are not written yet. -/
def State.pushEnding (s : State) (q : QueueId) (e : Ending) : State :=
  s.setQueue q { s.queue q with ending := (s.queue q).ending ++ [e] }

/-- The queue leaves the descriptors whose records are written. -/
def State.closeEnded (s : State) (q : QueueId) : State := (s.closeRecords q (s.queue q).ending).settleQueue q

/-- The address of the next completion record (R62). -/
def State.recordAddr (s : State) (q : QueueId) : Nat :=
  let v := s.queue q
  s.global (v.cplHi.field 11 0 * 2 ^ 32 + v.cplLo.field 31 4 * 16
    + 16 * ((v.cplTail + BitVec.ofNat 16 v.ending.length).toNat % 2 ^ v.cplLog2))

/-- A completion record for an address, by where that lies. -/
def State.writeRecord (s : State) (q : QueueId) (d : Fetched) (status a : Nat) (ws : List Word) : Place → State
  | .here l => ((s.storeWords (s.accessor q) l ws).2.pushEnding q ⟨d, status, none⟩).closeEnded q
  | _ => (s.pushEnding q ⟨d, status, some s.nextId⟩).putTxn q.core none fun id =>
      ⟨id, q.q, d.index, 0, a, 16, bytesOf ws, none, false, .zero, false, true⟩

/-- A completion record (R62): written at once through the Tally port or to the core's own scratch, and over Draught as a transaction of its
core, metered like any other (R53, R85). -/
def State.writeCpl (s : State) (q : QueueId) (d : Fetched) (status : Nat) (exc : Word) : State :=
  let a := s.recordAddr q
  s.writeRecord q d status a (cplWords q.q d status s.clk.stride exc) (s.placeOf q.core a 16)

/-- The transaction of a completion record is answered. -/
def State.recordDone (s : State) (q : QueueId) (id : Nat) : State :=
  let v := s.queue q
  (s.setQueue q { v with ending := v.ending.map fun x => if x.txn = some id then { x with txn := none } else x }).closeEnded q

/-- A descriptor ends with a status (R61 to R63): its faults first reach their ring (R527), then the record, then
the header signal; one that does not end OK halts its queue. -/
def State.finish (s : State) (q : QueueId) (d : Fetched) (status : Nat) (exc : Exc) : State :=
  let s := if status = stOk then s else s.flushFaults (coreBlock q.core q.q.val)
  let s := if d.cplEn || status != stOk then s.writeCpl q d status exc.word
    else if d.sigEn then
      s.signalAt d.sigSpace (some q.core) d.sigIdx 1 (s.queue q).job q.core.gid (coreBlock q.core q.q.val)
    else s
  (if status = stOk then s else s.haltQueue q d).settleQueue q

/-- A descriptor that fails a check (R59). -/
def State.rejectDesc (s : State) (q : QueueId) (d : Fetched) (f : FaultCode) : State :=
  (s.raiseQueue q f 0).finish q d stRejected .zero

/-! ### The injection meters (R84 to R86) -/

/-- The share of a core's field (R84), bytes per stride. -/
def State.share (s : State) (c : CoreId) : Nat := if c.east then (s.die c.rkn).shareEast else (s.die c.rkn).shareWest

/-- The most a meter holds, in 1/1,024 of a byte. -/
def meterCap : Nat := 2048 * 1024

/-- An ATTEND under way draws on the meters of its core all the time (R157, R165): what they are given does not overflow. -/
def Core.drawing (k : Core) : Bool :=
  [k.q0, k.q1, k.q2, k.q3].any fun v => v.exec.any fun e => e.desc.opcode == opAttend && !e.complete

/-- The limit of a core's meters now. `drawnCap` is beyond what a stride can bring. -/
def drawnCap : Nat := 2 ^ 48
def Core.cap (k : Core) : Nat := if k.drawing then drawnCap else meterCap

/-- A core's meters refilled up to now. -/
def State.refillCore (s : State) (c : CoreId) : State :=
  let k := s.core c
  let add := s.share c * (s.now - k.meterAt)
  s.setCore c { k with txMeter := min k.cap (k.txMeter + add), rxMeter := min k.cap (k.rxMeter + add), meterAt := s.now }

/-- What the meters must hold for a transaction (R85), in 1/1,024 of a byte: transmit and receive. -/
def Txn.charge (t : Txn) : Nat × Nat :=
  match t.kind with
  | 1 => (16 * 1024, (16 + t.len) * 1024)
  | 0 | 2 => ((16 + t.data.length) * 1024, 0)
  | 3 => ((32 + t.data.length) * 1024, 0)
  | _ => (32 * 1024, 0)

/-- A core's meters while its die borrows: its field, its share, the cycles it has still to be refilled for, what the meters hold and may hold,
and what they must hold. -/
structure Meter where
  core : CoreId
  share : Nat
  lag : Nat
  tx : Nat
  rx : Nat
  cap : Nat
  wantTx : Nat
  wantRx : Nat
deriving DecidableEq, Repr

/-- What each of some meters gets when `extra` is divided equally among them. -/
def equalPart (extra n : Nat) : Nat := if n = 0 then 0 else extra / n

/-- One direction of a meter while its die borrows: its field, what it holds after its own refill, its limit and its charge. -/
structure Vessel where
  east : Bool
  holds : Nat
  cap : Nat
  want : Nat
deriving DecidableEq, Repr

/-- One cycle of borrowing in one direction (R86). What overflows the meters of a field goes in equal parts to the meters below their charge,
not from the slower field to the faster. -/
def lendCycle (slower : Bool → Bool) (l : List Vessel) : List Nat :=
  let over_ (f : Bool) : Nat := ((l.filter fun m => m.east == f).map fun m => m.holds - m.cap).sum
  let takes (f : Bool) (m : Vessel) : Bool := decide (m.holds < m.want) && (m.east == f || !slower f)
  let part (f : Bool) : Nat := equalPart (over_ f) (l.filter (takes f)).length
  l.map fun m => min m.cap (m.holds + (if takes false m then part false else 0) + (if takes true m then part true else 0))

/-- One stride cycle of every meter of a die, `left` cycles before now. -/
def meterCycle (slower : Bool → Bool) (left : Nat) (l : List Meter) : List Meter :=
  let l := l.map fun m => if left < m.lag then { m with tx := m.tx + m.share, rx := m.rx + m.share } else m
  let tx := lendCycle slower (l.map fun m => ⟨m.core.east, m.tx, m.cap, m.wantTx⟩)
  let rx := lendCycle slower (l.map fun m => ⟨m.core.east, m.rx, m.cap, m.wantRx⟩)
  (l.zip (tx.zip rx)).map fun (m, t, r) => { m with tx := t, rx := r }

/-- So many cycles, the last of them now. -/
def meterCycles (slower : Bool → Bool) : Nat → List Meter → List Meter
  | 0, l => l
  | n + 1, l => meterCycles slower n (meterCycle slower n l)

/-- The meter of a core as its die borrows. -/
def State.meterOf (s : State) (c : CoreId) : Meter :=
  let k := s.core c
  let want := if k.drawing then (drawnCap, drawnCap) else match s.nextTxn c with
    | some t => t.charge
    | none => (0, 0)
  ⟨c, s.share c, s.now - k.meterAt, k.txMeter, k.rxMeter, k.cap, want.1, want.2⟩

/-- The meters of a die refilled with borrowing (R86). -/
def State.refillDie (s : State) (r : Fin 8) : State :=
  let d := s.die r
  let slower (e : Bool) : Bool :=
    d.split && (if e then decide (d.shareEast < d.shareWest) else decide (d.shareWest < d.shareEast))
  let l := ((dieCores r).filter fun c => s.isOn (.core c)).map s.meterOf
  let n := (l.map (·.lag)).foldl max 0
  (meterCycles slower n l).foldl (fun (s : State) (m : Meter) =>
    s.setCore m.core { s.core m.core with txMeter := m.tx, rxMeter := m.rx, meterAt := s.now }) s

def State.refillFor (s : State) (c : CoreId) : State :=
  if s.liveF (Reg.RKN_INJ_CTL + c.rkn.val * 0x10000) 0 0 = 1 then s.refillDie c.rkn else s.refillCore c

/-- The charges of loads and stores (R85), each its length and whether it is a store, in transactions of at most 256 bytes. -/
def rangeCharge (l : List (Nat × Bool)) : Nat × Nat :=
  l.foldl (fun c (n, st) =>
    let k := ceilDiv n 256
    if st then (c.1 + (16 * k + n) * 1024, c.2) else (c.1 + 16 * k * 1024, c.2 + (16 * k + n) * 1024)) (0, 0)

/-- A charge taken from a core's meters, refilled up to now; none while they have not come to it. -/
def State.chargeCore (s : State) (c : CoreId) (charge : Nat × Nat) : Option State :=
  let k := s.core c
  if k.txMeter < charge.1 ∨ k.rxMeter < charge.2 then none
  else some (s.setCore c { k with txMeter := k.txMeter - charge.1, rxMeter := k.rxMeter - charge.2 })

end Sys2Proof.Machine
end

