-- ==== Sys2Proof/Machine/Attend.lean ====
section
/-! DEFINITION. ATTEND: attention profiles, page sets, the walk over segments, the append and page sketches (R152 to
R168, R178). -/

namespace Sys2Proof.Machine

/-! ### Profiles (R152, R153) -/

structure Profile where
  kv : Nat
  q : Nat
  out : Nat
  sat : Bool
  shared : Bool
  vInK : Bool
  heads : Nat
  dk : Nat
  dv : Nat
  scale : Num
  skScale : Num
  proj : Nat
  rowUnits : Nat
deriving DecidableEq, Repr

def fp32 (w : Word) : Num := fpFP32.decode w.toNat

def profileOf (ws : List Word) : Profile :=
  let w (i : Nat) : Word := ws.getD i 0
  { kv := (w 0).field 30 27, q := (w 0).field 26 23, out := (w 0).field 22 19, sat := (w 0).bit 18,
    shared := (w 0).bit 17, vInK := (w 0).bit 16, heads := (w 0).field 15 9, dk := (w 1).field 15 0,
    dv := (w 1).field 31 16, scale := fp32 (w 2), skScale := fp32 (w 3),
    proj := (w 4).field 31 4 * 16 + (w 5).field 11 0 * 2 ^ 32, rowUnits := (w 6).field 6 0 }

/-- Where the value of a row starts, in bytes from the row (R154). -/
def Profile.valueAt (p : Profile) : Nat := ceilDiv (contiguousBytes p.kv p.dk) 64 * 64

/-- R153, for pages of `page` bytes. The bits of words 4 and 5 that the rule lists no field for are not looked at. DESIGN CHOICE, assumption 190. -/
def profileValid (ws : List Word) (page : Nat) : Bool :=
  let w (i : Nat) : Word := ws.getD i 0
  let p := profileOf ws
  (w 0).bit 31 && (w 0).field 8 0 == 0 && (w 6).field 31 7 == 0 && w 7 == 0
    && [0, 1, 2, 5].contains p.kv && (if p.kv = 5 then p.q == 5 else p.q == 1 || p.q == 2)
    && [1, 2, 5, 6].contains p.out && decide (1 ≤ p.heads ∧ p.heads ≤ 64)
    && decide (p.dk % 32 = 0 ∧ 32 ≤ p.dk ∧ p.dk ≤ 4096) && decide (p.dv % 32 = 0 ∧ 32 ≤ p.dv ∧ p.dv ≤ 4096)
    && (!p.vInK || decide (p.dv ≤ p.dk)) && decide (1 ≤ p.rowUnits ∧ p.rowUnits ≤ 64)
    && (if p.vInK then decide (contiguousBytes p.kv p.dk ≤ p.rowUnits * 64)
        else decide (p.valueAt + contiguousBytes p.kv p.dv ≤ p.rowUnits * 64))
    && decide (64 * p.rowUnits * 64 ≤ page)

/-- Row pitches in units (R155). -/
def Profile.pq (p : Profile) : Nat := ceilDiv (rowBytes p.q p.dk) 64
def Profile.po (p : Profile) : Nat := ceilDiv (rowBytes p.out p.dv) 64
def Profile.pw (p : Profile) : Nat := ceilDiv (8 + 4 * p.dv) 64

/-- Query rows of an ATTEND. -/
def AttendArgs.rows (x : AttendArgs) (p : Profile) : Nat := x.qCount * p.heads

/-- Every range of R155 lies within scratch. -/
def AttendArgs.rangesOk (x : AttendArgs) (p : Profile) (append : Bool) : Bool :=
  let h := x.rows p
  decide (x.qOff + h * p.pq + (if append then x.qCount * p.rowUnits else 0) ≤ scratchUnits)
    && decide (x.outOff + h * p.po ≤ scratchUnits) && decide (x.workOff + 1 + h * p.pw ≤ scratchUnits)

/-- The scratch ranges an ATTEND touches (R55, R155, R175). -/
def AttendArgs.spans (x : AttendArgs) (p : Profile) : List Span :=
  let h := x.rows p
  [⟨false, x.qOff, x.qOff + h * p.pq + x.qCount * p.rowUnits⟩, ⟨false, x.outOff, x.outOff + h * p.po⟩,
   ⟨false, x.workOff, x.workOff + 1 + h * p.pw⟩] ++ (if x.list then [spanOf false x.listOff (8 + 4 * 1023)] else [])

/-! ### The work header (R158) -/

structure WorkHeader where
  start : Bool
  fin : Bool
  append : Bool
  done : Bool
  quota : Nat
  first : Nat
  last : Nat
  cursor : Nat
deriving DecidableEq, Repr

def headerOf (ws : List Word) : WorkHeader :=
  let w (i : Nat) : Word := ws.getD i 0
  { start := (w 0).bit 31, fin := (w 0).bit 30, append := (w 0).bit 29, done := (w 0).bit 28, quota := (w 0).field 7 0,
    first := (w 1).field 17 0, last := (w 2).field 17 0, cursor := (w 3).field 19 0 }

/-- R158's check of a header. Bits of words 1 to 3 that the rule lists no field for are reserved. DESIGN CHOICE, assumption 191. -/
def headerOk (ws : List Word) : Bool :=
  let w (i : Nat) : Word := ws.getD i 0
  let h := headerOf ws
  h.quota != 0 && (w 0).field 27 8 == 0 && (w 1).field 31 18 == 0 && (w 2).field 31 18 == 0
    && (w 3).field 31 20 == 0 && ((List.range 12).all fun i => w (4 + i) == 0) && decide (h.first ≤ h.last)

/-- Word 0 as ATTEND writes it back: init and append cleared. -/
def WorkHeader.word0 (h : WorkHeader) (done : Bool) : Word :=
  BitVec.ofNat 32 (putBits 30 30 (bitOf h.fin) + putBits 28 28 (bitOf done) + h.quota)

/-! ### Pages and segments (R156, R159, R178) -/

def AttendArgs.group (x : AttendArgs) (p : Profile) : Nat := if p.shared then 0 else x.headGrp

/-- P_last. -/
def AttendArgs.lastPage (x : AttendArgs) : Nat := (x.qPos + x.qCount - 1) / 64

/-- The entries of a page list that may be used, none where R178 runs the walk as EXACT. -/
def AttendArgs.listPages (x : AttendArgs) (ws : List Word) : Option (List Nat) :=
  let w (i : Nat) : Word := ws.getD i 0
  let ok := decide ((w 0).field 31 24 ≤ 1) && (w 0).field 13 0 == x.stall && (w 1).field 31 24 == x.layer
    && (w 1).field 23 16 == x.headGrp
  if ok then some ((List.range ((w 0).field 23 14)).map fun i => (w (2 + i)).field 17 0) else none

/-- A page is in the set of R159. -/
def AttendArgs.inSet (x : AttendArgs) (h : WorkHeader) (list : Option (List Nat)) (j : Nat) : Bool :=
  decide (h.first ≤ j) && (h.last == 0x3FFFF || decide (j ≤ h.last)) && match list with
    | none => true
    | some l => l.contains j || decide (j < x.anchors) || decide (x.lastPage < j + x.window)
        || decide (x.qPos / 64 ≤ j)

/-- The segment set in ascending order. -/
def AttendArgs.segments (x : AttendArgs) (h : WorkHeader) (list : Option (List Nat)) : List Nat :=
  (List.range (4 * (x.lastPage + 1))).filter fun g =>
    x.inSet h list (g / 4) && decide (16 * g ≤ x.qPos + x.qCount - 1)

/-- Pages the append of this descriptor writes (R163). -/
def AttendArgs.appendPages (x : AttendArgs) : List Nat :=
  (List.range (x.lastPage + 1)).filter fun j => decide (x.qPos / 64 ≤ j)

/-! ### Rows -/

/-- The codes and scales of a contiguous row (R94, R154). -/
def rowParts (fmt n : Nat) (bs : List Byte) : List Nat × List Byte :=
  (elemCodes fmt n bs, if fmt = 0 then bs.drop (ceilDiv (n / 2) 64 * 64) else [])

/-- One position's key, as blocks, and its value elements. -/
structure KvRow where
  key : List BBlock
  value : List Num
deriving DecidableEq, Repr

/-- A KV row read from its page (R154, R157). -/
def State.loadKv (s : State) (w : Accessor) (p : Profile) (a : Nat) : KvRow × Status × State :=
  let nk := contiguousBytes p.kv p.dk
  let got := s.load w a nk
  let kb := got.1
  let st := got.2.1
  let s := got.2.2
  let (codes, scales) := rowParts p.kv p.dk kb
  let key := bRow p.kv codes scales
  if p.vInK then (⟨key, (contiguousValues p.kv p.dk kb).take p.dv⟩, st, s)
  else
    let got := s.load w (a + p.valueAt) (contiguousBytes p.kv p.dv)
    let vb := got.1
    let st' := got.2.1
    let s := got.2.2
    (⟨key, contiguousValues p.kv p.dv vb⟩, worse st st', s)

/-- The address of position `o` of page `n` (R156, R188). -/
def State.rowAddr (s : State) (p : Profile) (pool : Pool) (n o : Nat) : Nat :=
  ((s.poolOfPage n).getD pool).pageAddr n + o * p.rowUnits * 64

/-- Several KV rows of one page. -/
def State.loadKvs (s : State) (w : Accessor) (p : Profile) (pool : Pool) (n : Nat) :
    List Nat → List KvRow × Status × State
  | [] => ([], .ok, s)
  | o :: t =>
    let got := s.loadKv w p (s.rowAddr p pool n o)
    let r := got.1
    let st := got.2.1
    let s := got.2.2
    let got := s.loadKvs w p pool n t
    let rs := got.1
    let st' := got.2.1
    let s := got.2.2
    (r :: rs, worse st st', s)

/-! ### The arithmetic of a segment (R161, R162) -/

structure SoftRow where
  m : Num
  l : Num
  acc : List Num
deriving DecidableEq, Repr

def SoftRow.start (dv : Nat) : SoftRow := ⟨.inf true, .fin false 0 0, List.replicate dv (.fin false 0 0)⟩

def SoftRow.words (r : SoftRow) : List Word := r.m.bits32 :: r.l.bits32 :: r.acc.map Num.bits32

def softRowOf (ws : List Word) : SoftRow :=
  ⟨fp32 (ws.getD 0 0), fp32 (ws.getD 1 0), (ws.drop 2).map fp32⟩

/-- One query row over the visible positions of one segment: the row, and the block pairs that were narrowed. -/
def Profile.stepRow (p : Profile) (query : List ABlock) (vis : List KvRow) (r : SoftRow) : SoftRow × Nat :=
  match vis with
  | [] => (r, 0)
  | _ =>
    let dots := vis.map fun v => dotProduct p.kv (.fin false 0 0) query v.key
    let n := (dots.map (·.2)).sum
    let sc := dots.map fun d => fmul p.scale d.1
    let mn := sc.foldl fmax r.m
    if mn = .inf true then (r, n)
    else
      let a := fexp (fadd r.m mn.negated)
      let pf := if p.kv = 5 then fpBF16 else fpE4M3
      let ps := sc.map fun x => pf.decode (pf.convert false (fexp (fadd x mn.negated))).code
      let l := ps.foldl fadd (fmul r.l a)
      let out := (List.range p.dv).map fun i =>
        let (v, b) := blockSum ((ps.zip vis).map fun (x, row) => x.mul (row.value.getD i .nan)) (some 0)
        (fadd (fmul (r.acc.getD i .nan) a) v, bitOf b)
      (⟨mn, l, out.map (·.1)⟩, n + (out.map (·.2)).sum)

/-- One segment over every query row: row r belongs to token r / heads. -/
def Profile.stepSegment (p : Profile) (qPos first : Nat) (queries : List (List ABlock)) (kvs : List KvRow)
    (rows : List SoftRow) : List SoftRow × Nat :=
  let r := ((queries.zip rows).zipIdx).map fun ((q, row), i) =>
    let seen := qPos + i / p.heads
    p.stepRow q (kvs.take (seen + 1 - first)) row
  (r.map (·.1), (r.map (·.2)).sum)

/-- FP32 division under RNE (R162). -/
def fdiv (x y : Num) : Num :=
  match x, y with
  | .nan, _ | _, .nan => .nan
  | .inf _, .inf _ => .nan
  | .inf a, .fin b _ _ => .inf (a != b)
  | .fin a _ _, .inf b => .fin (a != b) 0 0
  | .fin a m e, .fin b n f =>
    if n = 0 then (if m = 0 then .nan else .inf (a != b))
    else
      let k := Nat.log2 n + 64
      let q := m * 2 ^ k / n
      let sticky := bitOf (m * 2 ^ k % n != 0)
      (Num.fin (a != b) (2 * q + sticky) (e - f - k - 1)).toFP32

/-- The output of a row before conversion; whether its operands were finite (R116, R162). A row with l = +0 is +0. -/
def SoftRow.output (r : SoftRow) : List Result :=
  let none_ := match r.l with
    | .fin neg m _ => !neg && m == 0
    | _ => false
  r.acc.map fun a => if none_ then (.fin false 0 0, true) else (fdiv a r.l, a.isFinite && r.l.isFinite)

/-! ### Page sketches (R166, R167) -/

/-- A value rounded to an integer by RNE and clamped to [−8, 7]; NaN gives 0. -/
def sketchInt (x : Num) : Int :=
  match x with
  | .nan => 0
  | .inf neg => if neg then -8 else 7
  | .fin neg m e =>
    let (q, r, d) := alignTo m e 0
    let q := if d < 2 * r ∨ (2 * r = d ∧ q % 2 = 1) then q + 1 else q
    max (-8) (min 7 (if neg then -(q : Int) else q))

/-- The 128 bytes of a sketch. -/
def sketchBytes (l : List Int) : List Byte :=
  (List.range 128).map fun i =>
    BitVec.ofNat 8 (unsignedOf 4 (l.getD (2 * i) 0) + 16 * unsignedOf 4 (l.getD (2 * i + 1) 0))

/-- The sum over the 64 keys of a page, element by element: two blocks of 32 exact products with 1 (R167 step 1). -/
def keySum (keys : List (List Num)) (i : Nat) : Num :=
  let col := keys.map fun k => k.getD i .nan
  (reduceBlocks (.fin false 0 0) [blockSum (col.take 32) (some 0), blockSum (col.drop 32) (some 0)]).1

/-- The sketch of a page from its keys' values and the projection's rows (R167). -/
def Profile.sketchOf (p : Profile) (keys : List (List Num)) (proj : List (List BBlock)) : List Int :=
  let w := (List.range p.dk).map fun i => (fpE4M3.convert true ((keySum keys i).scale (-6))).code
  let a := aRow 1 w [] []
  proj.map fun row => sketchInt (fmul (dotProduct 0 (.fin false 0 0) a row).1 p.skScale)

/-- The projection matrix (R154). -/
def State.loadProjection (s : State) (w : Accessor) (p : Profile) : List (List BBlock) × Status × State :=
  let pitch := ceilDiv (p.dk / 2) 64 * 64
  let nb := p.dk / 32
  let got := s.loadMany w ((List.range 256).map fun j => (p.proj + j * pitch, p.dk / 2))
  let rows := got.1
  let st := got.2.1
  let s := got.2.2
  let got := s.load w (p.proj + 256 * pitch) (256 * nb)
  let scales := got.1
  let st' := got.2.1
  let s := got.2.2
  (rows.zipIdx.map fun (bs, j) => bRow 0 (elemCodes 0 p.dk bs) ((scales.drop (j * nb)).take nb), worse st st', s)

/-- The sketch of a page that an append has filled, computed and written (R163, R167). -/
def State.writeSketch (s : State) (w : Accessor) (p : Profile) (pool : Pool) (n : Nat) : Status × State :=
  let nk := contiguousBytes p.kv p.dk
  let got := s.loadMany w ((List.range 64).map fun o => (s.rowAddr p pool n o, nk))
  let keys := got.1
  let st := got.2.1
  let s := got.2.2
  let got := s.loadProjection w p
  let proj := got.1
  let st' := got.2.1
  let s := got.2.2
  let vals := keys.map fun bs => contiguousValues p.kv p.dk bs
  let got := s.store w (s.sketchAddr n) (sketchBytes (p.sketchOf vals proj))
  let st'' := got.1
  let s := got.2
  (worse st (worse st' st''), s)

/-! ### The descriptor -/

/-- The words of the page table that finding a page reads (R156, R188). -/
def State.pageReads (s : State) (w : Accessor) (x : Stall) (k : PageKey) : Nat :=
  if !x.keyOk k then 0
  else match (s.loadWord w (s.level1Addr x k)).1 with
    | some v => if v.bit 31 then 2 else 1
    | none => 1

/-- Pages looked for under the queue's job: page index and pool index of each that is present, none when one is absent that the append of the
descriptor does not write (R157 check 4); and the words of the page table read. -/
def State.findPages (s : State) (w : Accessor) (x : Stall) (layer grp : Nat) (own : List Nat) :
    List Nat → Option (List (Nat × Nat)) × Nat × State
  | [] => (some [], 0, s)
  | j :: t =>
    let n := s.pageReads w x ⟨layer, grp, j⟩
    match s.readPage w x ⟨layer, grp, j⟩ with
    | (some p, s) =>
      let got := s.findPages w x layer grp own t
      (got.1.map ((j, p) :: ·), n + got.2.1, got.2.2)
    | (none, s) =>
      if own.contains j then
        let got := s.findPages w x layer grp own t
        (got.1, n + got.2.1, got.2.2)
      else (none, n, s)

/-- A row written to its place in a page; the last row of a page has the page's sketch written too (R163). -/
def State.placeRow (s : State) (w : Accessor) (p : Profile) (pool : Pool) (page : Option Nat) (pos : Nat) (bs : List Byte) :
    Status × State :=
  match page with
  | none => (.failed, s)
  | some n =>
    let a := s.store w (s.rowAddr p pool n (pos % 64)) bs
    if pos % 64 = 63 then
      let b := a.2.writeSketch w p pool n
      (worse a.1 b.1, b.2)
    else a

/-- The new rows written to their pages (R163), page `j` being pool page `pages j`. -/
def State.appendRows (s : State) (w : Accessor) (c : CoreId) (x : AttendArgs) (p : Profile) (pool : Pool)
    (pages : Nat → Option Nat) : List Nat → Status × State
  | [] => (.ok, s)
  | t :: rest =>
    let pos := x.qPos + t
    let src := scratchAddr c ((x.qOff + x.rows p * p.pq + t * p.rowUnits) * 64)
    let got := s.load w src (p.rowUnits * 64)
    let st := got.2.1
    let put := got.2.2.placeRow w p pool (pages (pos / 64)) pos got.1
    let more := put.2.appendRows w c x p pool pages rest
    (worse st (worse put.1 more.1), more.2)

/-- Segments processed in order (R160 step 3). -/
def State.walkSegments (s : State) (w : Accessor) (x : AttendArgs) (p : Profile) (pool : Pool)
    (pages : Nat → Option Nat) (queries : List (List ABlock)) :
    List Nat → List SoftRow → List SoftRow × Nat × Status × State
  | [], rows => (rows, 0, .ok, s)
  | g :: t, rows =>
    let n := min 16 (x.qPos + x.qCount - 16 * g)
    match pages (g / 4) with
    | none =>
      let got := s.walkSegments w x p pool pages queries t rows
      let r := got.1
      let k := got.2.1
      let st := got.2.2.1
      let s := got.2.2.2
      (r, k, worse .failed st, s)
    | some pg =>
      let got := s.loadKvs w p pool pg ((List.range n).map fun o => 16 * (g % 4) + o)
      let kvs := got.1
      let st := got.2.1
      let s := got.2.2
      let (rows, k) := p.stepSegment x.qPos (16 * g) queries kvs rows
      let got := s.walkSegments w x p pool pages queries t rows
      let r := got.1
      let k' := got.2.1
      let st' := got.2.2.1
      let s := got.2.2.2
      (r, k + k', worse st st', s)

/-- Rows of a region of scratch loaded: `n` rows of `bytes` bytes, `pitch` units apart. -/
def State.loadRows (s : State) (w : Accessor) (c : CoreId) (base pitch bytes n : Nat) : List (List Byte) × Status × State :=
  s.loadMany w ((List.range n).map fun r => (scratchAddr c ((base + r * pitch) * 64), bytes))

def State.storeRows (s : State) (w : Accessor) (c : CoreId) (base pitch : Nat) (rows : List (List Byte)) : Status × State :=
  s.storeMany w (rows.zipIdx.map fun (b, r) => (scratchAddr c ((base + r * pitch) * 64), b))

/-- The page found for a page index. -/
def foundPage (found : List (Nat × Nat)) (j : Nat) : Option Nat := (found.find? fun f => f.1 == j).map (·.2)

/-- The page requests an append still needs (R163): for a page that is absent or shared. -/
def State.appendNeeds (s : State) (x : AttendArgs) (found : List (Nat × Nat)) : List Nat :=
  x.appendPages.filter fun j => match foundPage found j with
    | some n => decide (1 < s.refs n)
    | none => true

/-- The walk itself, once every check has passed and every page of the append is in place (R160 to R163). -/
def State.attendWalk (s : State) (q : QueueId) (e : Exec) (x : AttendArgs) (p : Profile) (h : WorkHeader)
    (segs rest : List Nat) (found : List (Nat × Nat)) : State :=
  let w := s.accessor q
  let c := q.core
  let n := x.rows p
  let stall := s.stall x.stall
  let pool := s.pool stall.img.pool
  let grp := x.group p
  let pages := foundPage found
  let got := if h.append then
      let (st, s) := s.appendRows w c x p pool pages (List.range x.qCount)
      (st, { s with stb := { s.stb with reports := s.stb.reports ++ [⟨x.stall, x.layer, grp, x.qPos, x.qCount⟩] } })
    else (.ok, s)
  let st0 := got.1
  let s := got.2
  let got := s.loadRows w c x.qOff p.pq (rowBytes p.q p.dk) n
  let qb := got.1
  let st1 := got.2.1
  let s := got.2.2
  let queries := qb.map fun bs => aRow p.q (elemCodes p.q p.dk bs) [] []
  let got := if h.start then (List.replicate n (SoftRow.start p.dv), .ok, s)
    else
      let (bs, st, s) := s.loadRows w c (x.workOff + 1) p.pw (8 + 4 * p.dv) n
      (bs.map fun b => softRowOf (wordsOf b), st, s)
  let rows := got.1
  let st2 := got.2.1
  let s := got.2.2
  let got := s.walkSegments w x p pool pages queries segs rows
  let rows := got.1
  let narrowed := got.2.1
  let st3 := got.2.2.1
  let s := got.2.2.2
  let got := s.storeRows w c (x.workOff + 1) p.pw (rows.map fun r => bytesOf r.words)
  let st4 := got.1
  let s := got.2
  let got := if rest.isEmpty && h.fin then
      let outs := rows.map fun r => convertAll p.out p.sat r.output
      let (st, s) := s.storeRows w c x.outOff p.po (outs.map fun o => packCodes p.out o.1)
      ((outs.map (·.2)).foldl Exc.add .zero, st, s)
    else (.zero, .ok, s)
  let exc := got.1
  let st5 := got.2.1
  let s := got.2.2
  let cursor := match segs.getLast? with
    | some g => g + 1
    | none => if h.start then 0 else h.cursor
  let hdr := scratchAddr c (x.workOff * 64)
  let got := s.storeWords w hdr [h.word0 rest.isEmpty]
  let st6 := got.1
  let s := got.2
  let got := s.storeWords w (hdr + 12) [BitVec.ofNat 32 cursor]
  let st7 := got.1
  let s := got.2
  let st := [st1, st2, st3, st4, st5, st6, st7].foldl worse st0
  s.complete q e (accessStatus st) { exc with acc := narrowed }

/-- Numbers without repeats, first occurrence kept. -/
def distinctNumbers (l : List Nat) : List Nat := l.foldl (fun acc x => if x ∈ acc then acc else acc ++ [x]) []

/-- The page list of an ATTEND, read from scratch (R157). -/
def State.attendList (s : State) (c : CoreId) (x : AttendArgs) : Option (List Nat) :=
  if x.list then x.listPages (wordsOf (s.mem.bytes (scratchAddr c (x.listOff * 64)) (8 + 4 * 1023))) else none

/-- The segments that an ATTEND still has to walk (R160). -/
def AttendArgs.todo (x : AttendArgs) (h : WorkHeader) (list : Option (List Nat)) : List Nat :=
  (x.segments h list).filter fun g => h.start || decide (h.cursor ≤ g)

/-- An ATTEND that ends with a fault of its queue. -/
def State.attendFail (s : State) (q : QueueId) (e : Exec) (f : FaultCode) : State :=
  (s.raiseQueue q f 0).complete q e stAccess .zero

/-- What the walk of an ATTEND reads and writes outside scratch (R157, R163, R165), length by length: the KV rows of its segments, the rows it
appends, and for a page they fill its keys, the projection and the sketch. -/
def AttendArgs.traffic (x : AttendArgs) (p : Profile) (h : WorkHeader) (segs : List Nat) : List (Nat × Bool) :=
  let nk := contiguousBytes p.kv p.dk
  let row := nk + (if p.vInK then 0 else contiguousBytes p.kv p.dv)
  let toks := if h.append then List.range x.qCount else []
  let fills := toks.filter fun t => (x.qPos + t) % 64 == 63
  (segs.flatMap fun g => List.replicate (min 16 (x.qPos + x.qCount - 16 * g)) (row, false))
    ++ (toks.map fun _ => (p.rowUnits * 64, true))
    ++ (fills.flatMap fun _ => List.replicate 64 (nk, false) ++ List.replicate 256 (p.dk / 2, false)
          ++ [(256 * (p.dk / 32), false), (128, true)])

/-- What every ATTEND reads before its walk: the profile, and `n` words of the page table. -/
def attendReads (n : Nat) : List (Nat × Bool) := (32, false) :: List.replicate n (4, false)

/-- What an ATTEND goes on to once its core's meters hold the charge of its accesses (R85, R157); until then it stands still in `s0`. -/
def State.attendPaid (s0 s : State) (q : QueueId) (l : List (Nat × Bool)) (go : State → State) : State :=
  match s.chargeCore q.core (rangeCharge l) with
  | none => s0
  | some s => go s

/-- The last part of an ATTEND, its pages found in `s` by `n` reads of the page table: an append that was refused, or whose pages are still
to be allocated, or the walk. `s0` is the state it stands still in. -/
def State.attendFound (s0 s : State) (q : QueueId) (e : Exec) (x : AttendArgs) (p : Profile) (h : WorkHeader)
    (list : Option (List Nat)) (n : Nat) (found : List (Nat × Nat)) : State :=
  let i := e.desc.index
  if h.append && s.stb.refused.contains (q, i) then
    State.attendPaid s0 s q (attendReads n) fun s => (s.dropRequests q i).complete q e stAccess .zero
  else
    let needs := if h.append then s.appendNeeds x found else []
    if needs ≠ [] then
      if s0.stb.requests.any (fun r => r.q == q && r.index == i) then s0
      else { s0 with stb := { s0.stb with requests := s0.stb.requests ++ needs.map fun j =>
        ⟨q, i, x.stall, x.layer, x.group p, j⟩ } }
    else
      let segs := (x.todo h list).take h.quota
      State.attendPaid s0 s q (attendReads n ++ x.traffic p h segs) fun s =>
        let s := if x.list && list.isNone then s.bump (Reg.RKN_ATT_FALLBACK + q.core.rkn.val * 0x10000) 1 else s
        s.attendWalk q e x p h segs ((x.todo h list).drop h.quota) found

/-- ATTEND once its profile is read, `s` being the state after that read. -/
def State.attendProfile (s0 s : State) (q : QueueId) (e : Exec) (x : AttendArgs) (hw pw : List Word) : State :=
  let stall := s0.stall x.stall
  let h := headerOf hw
  let p := profileOf pw
  let ends (f : FaultCode) : State := State.attendPaid s0 s q (attendReads 0) fun s => s.attendFail q e f
  if !headerOk hw || !profileValid pw (s.pageSize x.stall) || !x.rangesOk p h.append then ends Flt.RKN_ATT_PROFILE
  else if (s0.queue q).job ≠ stall.job then ends Flt.RKN_ATT_JOB
  else if !(stall.st == .prefill || stall.st == .decode) then ends Flt.RKN_ATT_STALL_STATE
  else if !h.start && h.done then State.attendPaid s0 s q (attendReads 0) fun s => s.complete q e stOk .zero
  else if s.hazard q.core (x.spans p) then s0
  else
    let list := s.attendList q.core x
    let own := if h.append then x.appendPages else []
    let got := s.findPages (s0.accessor q) stall x.layer (x.group p) own
      (distinctNumbers (((x.todo h list).take h.quota).map (· / 4) ++ own))
    match got.1 with
    | none => State.attendPaid s0 got.2.2 q (attendReads got.2.1) fun s => s.attendFail q e Flt.RKN_ATT_PAGE_ABSENT
    | some found => State.attendFound s0 got.2.2 q e x p h list got.2.1 found

/-- Where the profile of an ATTEND stands (R152). -/
def State.attendProfileAt (s : State) (q : QueueId) (x : AttendArgs) : Nat :=
  s.baseOf Reg.BLN_PROF_LO Reg.BLN_PROF_HI 12 + ((s.queue q).job * 256 + x.layer) * 32

/-- ATTEND after the read of its profile, whose result is `got`. -/
def State.attendLoaded (s : State) (got : Option (List Word) × State) (q : QueueId) (e : Exec) (x : AttendArgs) : State :=
  match got.1 with
  | none => State.attendPaid s got.2 q (attendReads 0) fun s => s.attendFail q e Flt.RKN_ATT_PROFILE
  | some pw => State.attendProfile s got.2 q e x (wordsOf (s.mem.bytes (scratchAddr q.core (x.workOff * 64)) 64)) pw

/-- The core starts no new access over Draught: its routers or the DRAM map have changed and earlier transactions are not complete (R82, R237), or
32 are under way (R79). -/
def Core.closed (k : Core) : Bool := k.drain || k.drainMem != [] || decide (32 ≤ (k.mover.filter (·.issued)).length)

/-- ATTEND with its checks (R157, R158, R160, R163, R178). While its core starts no access, and while page requests of its append are open, it
stands still. -/
def State.attend (s : State) (q : QueueId) (e : Exec) (x : AttendArgs) : State :=
  let s := s.refillFor q.core
  if (s.core q.core).closed then s
  else s.attendLoaded (s.loadWords (s.accessor q) (s.attendProfileAt q x) 8) q e x

def execAttend (work : QueueId × Nat) (s : State) : Host.Outcome State Fault Refusal :=
  let q := work.1
  let s := s.advance work.2
  .next (match s.running q opAttend with
    | none => s
    | some e => s.attend q e e.desc.attend)

end Sys2Proof.Machine
end

