-- ==== Sys2Proof/Machine/Crc.lean ====
section
/-! DEFINITION. CRC-32C. The manual names the code and not its polynomial, initial value and bit order: those of the code of
that name in common use. PRESUMED, assumption 24. -/

namespace Sys2Proof.Machine

/-- One bit of the shift register, least significant bit first. -/
def crcBit (c : Nat) : Nat := if c % 2 = 1 then (c / 2) ^^^ 0x82F63B78 else c / 2

def crcByte (c : Nat) (b : BitVec 8) : Nat :=
  (List.range 8).foldl (fun c _ => crcBit c) (c ^^^ b.toNat)

/-- CRC-32C of bytes. -/
def crc32c (bs : List (BitVec 8)) : BitVec 32 := BitVec.ofNat 32 ((bs.foldl crcByte 0xFFFFFFFF) ^^^ 0xFFFFFFFF)

end Sys2Proof.Machine
end

