-- ==== Sys2Proof/Machine/Memory.lean ====
section
/-! DEFINITION. Background services of DRAM and Tally, the loss of a stack, the fold and retirement (R220, R230 to
R242). -/

namespace Sys2Proof.Machine

/-! ### Tally patrol (R220) -/

/-- TALLY_PATROL: the patrol comes to a word of an enabled slice whose cells hold `errs` bit errors (2 stands for two or more)
beside those the state records. While the Reckoner is not ON the slice is not read, and what its cells hold stays for the next
access. DESIGN CHOICE, assumption 153. -/
def execTallyPatrol (c : CoreId) (word : Fin 2621440) (errs : Fin 3) (s : State) : Host.Outcome State Fault Refusal :=
  let a := tallyAddr c (8 * word.val)
  let e := max errs.val (s.dram.tallyErr.getD a 0)
  .next (if c.gid ∈ s.groom.sliceDown ∨ e = 0 then s
    else if !s.isOn (.reckoner c.rkn) then s.setTallyErr a e
    else if e = 1 then (s.setTallyErr a 0).bump (tallyReg c Reg.TLY_CE) 1
    else (s.setTallyErr a e).tallyWordsLost c [a])

/-! ### Patrol scrub (R225, R230) -/

/-- Pool pages that hold one of the lines. -/
def State.pageLost (s : State) (lines : List Nat) (n : Nat) : Bool :=
  match s.poolOfPage n with
  | some a =>
    let lo := a.pageAddr n / 128
    lines.any fun l => decide (lo ≤ l) && decide (l < lo + 2 ^ a.log2 / 128)
  | none => false

/-- The Stable manager hears of the lines newly poisoned: pages that hold one are lost (R201, R214, R230). -/
def State.notePoison (s : State) : State :=
  let lines := s.dram.newPoison
  if lines = [] then s
  else
    let s := { s with dram := { s.dram with newPoison := [] } }
    s.pagesLost (s.pageLost lines)

/-- The scrub reaches a line (R230): it is enabled, and the controller of the stack that holds the line serves it. -/
def State.scrubs (s : State) (n : Nat) : Bool :=
  s.power.state != 3 && s.regF Reg.MEM_SCRUB_CTL 31 31 == 1 && (s.lineBlocked n).isNone && s.isOn (.stack (s.holder n))

/-- PATROL_SCRUB: the scrub comes to a line whose cells hold `errs` symbol errors beside those the state records. Where it does not
read the line, what the cells hold stays for the next access. DESIGN CHOICE, assumption 153. -/
def execPatrolScrub (line : BitVec 34) (errs : Fin 8) (s : State) : Host.Outcome State Fault Refusal :=
  let n := line.toNat
  let e := max errs.val (s.dram.lineErr.getD n 0)
  .next (if dramSize / 128 ≤ n ∨ e = 0 then s
    else if !s.scrubs n then s.setLineErr n e
    else if 3 ≤ e then
      ((s.poisonLine n).logFault Flt.MEM_UE_SCRUB (blkMEMS (s.holder n).val) (n * 128 % 2 ^ 32)).notePoison
    else (s.setLineErr n 0).countCorrected n)

/-! ### Refresh management (R231) -/

/-- REFRESH_MANAGEMENT: a bank's activation count has reached the stack's advertised threshold, which the manual does not
give; the bank receives the command. -/
def execRefreshManagement (k : Fin 24) (bank : BitVec 12) (s : State) : Host.Outcome State Fault Refusal :=
  let v := s.stack k
  .next (if s.isOn (.stack k) && !v.lost then
      s.setStack k { v with rfm := v.rfm.put bank.toNat (v.rfm.getD bank.toNat 0 + 1) }
    else s)

/-- The hottest DRAM sensor of a stack in 1/16 °C (R472). -/
def State.stackTemp (s : State) (k : Fin 24) : Int :=
  (List.range 4).foldl (fun m i => max m (s.therm.sensors.getD (7 * 4096 + 4 * k.val + i) .reset).temp)
    (s.therm.sensors.getD (7 * 4096 + 4 * k.val) .reset).temp

/-! ### Retraining (R232) -/

def State.tempDelta (s : State) : Nat := max 2 (min 40 (s.regF Reg.MEM_TRAIN_CTL 31 24))
def State.burstGap (s : State) : Nat := max 16 (s.regF Reg.MEM_TRAIN_CTL 23 16)

/-- A temperature in 1/16 °C as a whole number of °C in a byte. -/
def tempByte (t : Int) : Nat := (t / 16 + 256).toNat % 256

/-- RETRAIN_START: a temperature change, the period, or 16 link errors on one channel within one stride (`links`) start a
full retrain. -/
def execRetrainStart (k : Fin 24) (links : Bool) (s : State) : Host.Outcome State Fault Refusal :=
  let v := s.stack k
  let moved := decide (16 * s.tempDelta ≤ (s.stackTemp k - v.lastTemp).natAbs)
  let period := s.regF Reg.MEM_TRAIN_CTL 15 0
  let due := decide (period ≠ 0 ∧ v.lastRetrain + period * 2 ^ 20 ≤ s.clk.bnd)
  .next (if s.power.state != 3 && s.isOn (.stack k) && !v.lost && v.burstLeft == 0 && (moved || due || links) then
      s.setStack k { v with burstLeft := 192 }
    else s)

/-- Stacks in a training burst. -/
def State.bursting (s : State) : Nat := ((allFin 24).filter fun k => (s.stack k).burst.isSome).length

/-- TRAINING_BURST: one channel leaves service for a burst. -/
def execTrainingBurst (k : Fin 24) (channel : Fin 32) (s : State) : Host.Outcome State Fault Refusal :=
  let v := s.stack k
  let gap := v.lastBurst = 0 ∨ v.lastBurst + s.burstGap ≤ s.clk.bnd
  .next (if s.power.state ≠ 3 ∧ s.isOn (.stack k) ∧ !v.lost ∧ v.burst = none ∧ (0 < v.burstLeft ∨ (v.repairs ≠ [] ∧ s.regF Reg.MEM_REPAIR_CTL 31 31 = 1)) ∧ gap ∧ s.bursting < 6 then
      s.setStack k { v with burst := some channel.val, lastBurst := s.clk.bnd }
    else s)

/-- TRAINING_BURST_COMPLETE: the channel returns to service; a third failure in succession loses the stack. -/
def execTrainingBurstComplete (k : Fin 24) (ok : Bool) (s : State) : Host.Outcome State Fault Refusal :=
  let v := s.stack k
  .next (match v.burst with
    | none => s
    | some ch =>
      if ok then
        let left := v.burstLeft - 1
        let v := { v with burst := none, burstFails := v.burstFails.drop ch, burstLeft := left }
        if left = 0 ∧ 0 < (s.stack k).burstLeft then
          s.setStack k { v with retrains := min (v.retrains + 1) (2 ^ 24 - 1), lastRetrain := s.clk.bnd,
                                lastTemp := s.stackTemp k }
        else s.setStack k v
      else
        let n := v.burstFails.getD ch 0 + 1
        let s := s.setStack k { v with burst := none, burstFails := v.burstFails.put ch n }
        if 3 ≤ n then s.detectLoss k else s)

/-! ### Row repair (R233) -/

/-- ROW_REPAIR of the row that holds a line, inside a training burst on its channel (R233). `spare` says that its bank has a spare row
left and `left` how many the poorest bank has afterwards. The repair is recorded in calibration storage, which makes it hard at the
next bring-up. With auto_soft 0 a candidate stays one. -/
def execRowRepair (line : BitVec 34) (spare : Bool) (left : BitVec 8) (s : State) : Host.Outcome State Fault Refusal :=
  let k := s.holder line.toNat
  let v := s.stack k
  let row := s.lineRow line.toNat
  .next (if !v.repairs.contains row || v.lost || s.regF Reg.MEM_REPAIR_CTL 31 31 == 0 || v.burst != some (row % 32) then s
    else
      let v' := { v with repairs := v.repairs.filter (· != row), rowCount := v.rowCount.drop row }
      if spare then
        let s := s.setStack k { v' with softRepairs := min (v.softRepairs + 1) 255, spareLeft := left.toNat }
        { s with dram := { s.dram with repaired := s.dram.repaired ++ [(k.val, row)], spares := s.dram.spares.put k.val left.toNat } }
      else (s.setStack k v').logFault Flt.MEM_REPAIR_EXHAUSTED (blkMEMS k.val) (line.toNat * 128 % 2 ^ 32))

/-- A stack whose training is complete (R232, R233): the temperature and the stride its next retrain is judged by, and the spare rows
its banks have left. -/
def State.trained (s : State) (k : Fin 24) : State :=
  s.setStack k { s.stack k with lastTemp := s.stackTemp k, lastRetrain := s.clk.bnd,
                                spareLeft := s.dram.spares.getD k.val (Config.spareRows k.val % 256) }

/-! ### Loss and retirement (R234 to R242) -/

/-- STACK_LOST: a power fault, the loss of the PHY lock or a failed start. -/
def execStackLost (k : Fin 24) (s : State) : Host.Outcome State Fault Refusal := .next (s.detectLoss k)

/-- FOLD_FILL_COMPLETE (R236): every surviving controller has filled its slots. -/
def execFoldFillComplete (s : State) : Host.Outcome State Fault Refusal :=
  .next (if s.dram.map = .folding then { s with dram := { s.dram with fillDone := true } } else s)

/-- The lines of a retiring stack as its copy has read them, through R225: what their cells hold is corrected, or is stored poison now. -/
def State.evacuated (s : State) (k : Fin 24) : State :=
  (s.dram.lineErr.filter fun e => s.holder e.1 == k && s.displaced e.1).foldl (fun s (n, e) =>
    if 3 ≤ e then s.poisonLine n else if e = 0 then s else (s.setLineErr n 0).countCorrected n) s

/-- STACK_EVACUATION_COMPLETE (R241): the last line of the retiring stack is copied. -/
def execStackEvacuationComplete (k : Fin 24) (s : State) : Host.Outcome State Fault Refusal :=
  .next (if s.dram.gone = some k ∧ s.dram.retired ∧ s.dram.map = .normal then
      let s := s.evacuated k
      { s with dram := { s.dram with fillDone := true } }
    else s)

/-- A retirement may begin: the map is NORMAL, and no stack is lost or retiring. DESIGN CHOICE, assumption 154, for a second disable
while the first retirement copies. -/
def State.mayRetire (s : State) : Bool := s.dram.map == .normal && s.dram.gone.isNone

/-- A retirement begins at the boundary at which its stack enters STOPPING (R241). -/
def State.beginRetirement (s : State) (k : Fin 24) : State :=
  { s with dram := { s.dram with gone := some k, retired := true, topHole := true, drainOld := true,
                                 fillDone := false } }

/-- HISTORY_WAIT_TIMEOUT (R238): rebuilds still held when the window has passed follow the history-lost outcome. -/
def execHistoryWaitTimeout (cyc : Nat) (s : State) : Host.Outcome State Fault Refusal :=
  let s := s.advance cyc
  .next (match s.dram.windowEnd with
    | none => s
    | some t =>
      if s.now < t then s
      else
        let s := { s with dram := { s.dram with windowEnd := none } }
        s.stalls.foldl (fun s (i, _) => if (s.stall i).waits then s.historyLost i else s) s)

/-- The map enters FOLDED (R236, R238, R241). -/
def State.enterFolded (s : State) : State :=
  let window := s.regF Reg.MEM_LOSS_CTL 15 0 * 1000000
  let s := if s.dram.retired then
      s.logFault Flt.MEM_STACK_RETIRED blkMEM (match s.dram.gone with
        | some k => k.val
        | none => 0)
    else s
  let s := { s with dram := { s.dram with map := .folded, topHole := true, fillDone := false, drainOld := true,
                                          windowEnd := some (s.now + window) } }
  s.stableAfterFold

/-- Jobs whose fault ring is enabled. -/
def State.ringJobs (s : State) : List Nat :=
  (s.live.filterMap fun (k, w) =>
    if k % bankStep = Reg.PDK_FLT_LO ∧ w.bit 0 then some (k / bankStep) else none).filter (· ≠ 0)

/-- The map enters FAILED (R239): every access fails from now on; the fault goes to every job that has a fault ring and to
the log, with the stack of the second loss. -/
def State.enterFailed (s : State) (k : Fin 24) : State :=
  let s := { s with dram := { s.dram with map := .failed, drainOld := true } }
  let s := s.logFault Flt.MEM_SECOND_STACK_LOST blkMEM k.val
  s.ringJobs.foldl (fun s j => s.raiseTo Flt.MEM_SECOND_STACK_LOST blkMEM j k.val) s

/-- The boundary at which a second loss takes effect. -/
def State.secondDue (s : State) : Bool := s.dram.second.isSome && s.dram.map != .failed

/-- Strides of one Tally patrol pass (8 s) and of one DRAM scrub pass (R220, R230). -/
def patrolStrides : Nat := 7812500
def State.scrubStrides (s : State) : Nat := max 1 (min 168 (s.regF Reg.MEM_SCRUB_CTL 7 0)) * 3515625000

/-- A transaction with DRAM of this module. -/
def State.dramTxn (s : State) (t : Txn) : Bool := s.isHome t.addr && decide (t.addr % 2 ^ 44 < tallyBase)

/-- After a change of the map, each core lets the DRAM transactions it has issued end before it starts others (R237). -/
def State.drainCores (s : State) : State :=
  { s with cores := s.cores.mapVals fun _ (k : Core) =>
      { k with drainMem := (k.mover.filter fun t => t.issued && s.dramTxn t).map (·.id) } }

/-- Memory at a boundary: losses and folds (R235, R236, R239, R241), refresh rates (R231), the ends of patrol and scrub
periods, and lines newly poisoned (R230). -/
def State.memoryBoundary (s : State) : State :=
  let s := s.notePoison
  let s := match s.dram.second with
    | some k => if s.dram.map = MapState.failed then s else s.enterFailed k
    | none => s
  let s := match s.dram.lossAt with
    | some b =>
      if b ≤ s.clk.bnd ∧ s.dram.map = MapState.normal then
        { s with dram := { s.dram with map := .folding, topHole := true, lossAt := none, drainOld := true } }
      else s
    | none => s
  let s := if s.dram.fillDone ∧ (s.dram.map = MapState.folding ∨ (s.dram.map = MapState.normal ∧ s.dram.retired)) then s.enterFolded else s
  let s := if s.dram.drainOld then ({ s with dram := { s.dram with drainOld := false } }).drainCores else s
  let scrub := decide (s.clk.bnd % s.scrubStrides = 0)
  let s := (allFin 24).foldl (fun s k =>
    let v := s.stack k
    let hot := decide (85 * 16 < s.stackTemp k)
    s.setStack k { v with hot := hot, fastRefresh := hot, ueStride := 0,
                          rowCount := if scrub then [] else v.rowCount }) s
  if s.clk.bnd % patrolStrides = 0 then { s with groom := { s.groom with sliceUe := [] } } else s

end Sys2Proof.Machine
end

