-- ==== Sys2Proof/Machine/Calib.lean ====
section
/-! DEFINITION. Photonic calibration: its tables, interpolation, trims and corrections (R269, R289 to R293). -/

namespace Sys2Proof

/-- The number of a slot, which is that of its ring of role 0 (R18). -/
def SlotId.number (x : SlotId) : Nat := x.port.val * 512 + x.plane.val * 32 + x.slot.val * 4 + 2 * bitOf x.rx

/-- Ring ID (R18). -/
def RingId.number (r : RingId) : Nat := r.slot.number + bitOf r.standby

/-- The number of a calibration group. -/
def CalGroup.number : CalGroup → Nat
  | .ring r => r.number
  | .driver x => 32768 + x.number / 2
  | .weights p pl rx => 65536 + p.val * 32 + pl.val * 2 + bitOf rx
  | .engine e => 70000 + 16 * e.val

/-- The range of each field of a group (R289). An engine has the codes of its 256 bank rings, a linearisation and an offset for each of its 16 lanes, and a
gain for each of the 5 tints (R169, R179). The manual gives the receiver's gain and the Blinkers figures no width: 8 and 16 bits. DESIGN CHOICE, assumption 32. -/
def CalGroup.ranges : CalGroup → List (Int × Int)
  | .ring _ => List.replicate 2 (0, 65535)
  | .driver x => if x.rx then [(0, 255), (0, 63), (0, 255), (0, 255), (0, 255)] else List.replicate 4 (0, 255)
  | .weights .. => List.replicate 24 (-32768, 32767)
  | .engine _ => List.replicate 256 (0, 65535) ++ (List.replicate 32 (-32768, 32767) ++ List.replicate 5 (0, 65535))

/-- The quantity a field of a group is kept under. -/
def CalGroup.quantity (g : CalGroup) (i : Nat) : Nat := g.number * 32 + i

/-- The slot or ring ID that CAL_RANGE and CAL_DRIFT carry. -/
def CalGroup.ident : CalGroup → Nat
  | .ring r => r.number
  | .driver x => x.number
  | .weights p pl rx => p.val * 512 + pl.val * 32 + 2 * bitOf rx
  | .engine e => e.val

/-- The sensor assigned to a group: the photonic-region sensor of its port and quadrant (R291, R472). DEDUCED, assumption
32. -/
def CalGroup.sensor : CalGroup → Nat
  | .ring r => r.slot.port.val * 4 + r.slot.plane.val / 4
  | .driver x => x.port.val * 4 + x.plane.val / 4
  | .weights p pl _ => p.val * 4 + pl.val / 4
  | .engine e => Config.engineSensor e.val % 256

/-- The range of a field of a group. -/
def CalGroup.range (g : CalGroup) (i : Nat) : Int × Int := g.ranges.getD i (0, 0)

/-- The trim limit of a quantity, beyond which CAL_DRIFT is logged (R292): heater codes, delay units, threshold units; the manual
gives the other quantities none. DESIGN CHOICE, assumption 32. -/
def CalGroup.driftLimit (g : CalGroup) (i : Nat) : Option Nat :=
  match g with
  | .ring _ => some 1024
  | .driver x => if x.rx then (if i = 1 then some 8 else if 2 ≤ i then some 12 else none) else if i = 3 then some 8 else none
  | .weights .. => none
  | .engine _ => none

end Sys2Proof

namespace Sys2Proof.Machine

def State.calTemp (s : State) (g : CalGroup) : Int := (s.therm.sensors.getD (3 * 4096 + g.sensor) .reset).temp

/-- A quotient rounded to an integer with ties to even; the divisor is positive. -/
def roundEven (n : Int) (d : Nat) : Int :=
  let q := n / d
  let r := n % d
  if 2 * r < d then q else if d < 2 * r then q + 1 else if q % 2 = 0 then q else q + 1

/-- The temperatures of the calibration sets in 1/16 °C (R290). -/
def calTemps : List Int := [25 * 16, 45 * 16, 65 * 16, 85 * 16, 100 * 16]

/-- A quantity at a reading, before its trim (R291). -/
def State.interpolate (s : State) (q : Nat) (t : Int) : Int :=
  let sets := (calTemps.zipIdx.filter fun e => s.cal.valid.testBit e.2)
  let below := (sets.filter fun e => decide (e.1 ≤ t)).getLast?
  let above := sets.find? fun e => decide (t ≤ e.1)
  match below, above with
  | some (ta, a), some (tb, b) =>
    let va := Config.calSet a q
    let vb := Config.calSet b q
    if ta = tb then va else roundEven (va * (tb - ta) + (vb - va) * (t - ta)) (tb - ta).toNat
  | some (_, a), none => Config.calSet a q
  | none, some (_, b) => Config.calSet b q
  | none, none => s.cal.measured.getD q (Config.calMeasured q)

/-- A quantity with its trim, clamped, and whether it was clamped. With no valid set the value measured at bring-up is used
(R291). -/
def State.calValue (s : State) (q : Nat) (range : Int × Int) (t : Int) : Int × Bool :=
  let v := s.interpolate q t + (if s.cal.valid % 32 = 0 then 0 else s.cal.trims.getD q 0)
  (max range.1 (min range.2 v), decide (v < range.1 ∨ range.2 < v))

/-- The reading of a group's sensor at bring-up, and that its applied values were computed at (R292, R293). -/
def State.startTemp (s : State) (g : CalGroup) : Int := (s.cal.start.getD []).getD g.sensor 0
def State.calAt (s : State) (g : CalGroup) : Int := s.cal.at_.getD g.number (s.startTemp g)

/-- The value applied of a field: the last correction, or what bring-up computed (R291, R293). -/
def State.calApplied (s : State) (g : CalGroup) (i : Nat) : Int :=
  match s.cal.applied.find? (g.quantity i) with
  | some v => v
  | none => (s.calValue (g.quantity i) (g.range i) (s.startTemp g)).1

/-- The heater code of a ring for a channel: base + n × step of its heater map, within the code's 16 bits (R251, R289). -/
def State.heaterCode (s : State) (r : RingId) (n : Nat) : BitVec 16 :=
  let v := s.calApplied (.ring r) 0 + n * s.calApplied (.ring r) 1
  BitVec.ofNat 16 (max 0 (min 65535 v)).toNat

/-- The heater code of a ring as calibration loads it: that of channel 0 at bring-up (R11, R289); 0 before bring-up. DEDUCED,
assumption 149. -/
def State.heaterStart (s : State) (r : RingId) : BitVec 16 :=
  if s.cal.start.isNone then 0
  else BitVec.ofNat 16 (s.calValue ((CalGroup.ring r).quantity 0) (0, 65535) (s.startTemp (.ring r))).1.toNat

/-! ### The path table (R269) -/

/-- Stitch lines that the path from a source port over a plane to a destination port crosses, 0 to 6 (R269). -/
def stitches (src : Fin 64) (plane : Fin 16) (dst : Fin 64) : Nat := Config.stitchCrossings src.val plane.val dst.val % 7

/-- The loss of a path in 0.1 dB: the fixed elements of R269's budget and 0.1 dB for each crossing. -/
def pathLoss (src : Fin 64) (plane : Fin 16) (dst : Fin 64) : Nat := 10 + 10 + 40 + 30 + 15 + 10 + stitches src plane dst

/-- What the worst path is left with above the receiver's sensitivity of −19.2 dBm, in 0.1 dB, when the comb has faded by `fade`:
−15.2 dBm is received over the path of six crossings (R269). -/
def pathMargin (src : Fin 64) (plane : Fin 16) (dst : Fin 64) (fade : Int) : Int :=
  -152 + (121 - (pathLoss src plane dst : Int)) - fade + 192

/-- A correction in place of those of its quantity that could take effect no sooner. -/
def addCorrection (c : Correction) (l : List Correction) : List Correction :=
  (l.filter fun d => d.quantity != c.quantity || decide (d.due < c.due)) ++ [c]

/-- One field re-evaluated (R291, R293). -/
def State.reevaluate (s : State) (g : CalGroup) (i : Nat) (t : Int) : State :=
  let q := g.quantity i
  let got := s.calValue q (g.range i) t
  let v := got.1
  let old := s.calApplied g i
  let s := if got.2 then s.logFault Flt.CAL_RANGE blkCAL g.ident else s
  if v = old then { s with cal := { s.cal with waiting := s.cal.waiting.filter fun d => d.quantity != q } }
  else { s with cal := { s.cal with waiting := addCorrection ⟨q, v, (v - old).natAbs, s.dueBoundary⟩ s.cal.waiting } }

/-- Every field of a group re-evaluated at a reading (R293). -/
def State.reevaluateGroup (s : State) (g : CalGroup) (t : Int) : State :=
  let s := { s with cal := { s.cal with at_ := s.cal.at_.put g.number t } }
  (List.range g.ranges.length).foldl (fun s i => s.reevaluate g i t) s

/-- CALIBRATION_REEVALUATE (R293): a group whose sensor has moved by 0.25 °C or more since its applied values were
computed. -/
def execCalibrationReevaluate (g : CalGroup) (cyc : Nat) (s : State) : Host.Outcome State Fault Refusal :=
  let s := s.advance cyc
  let t := s.calTemp g
  .next (if s.regF Reg.CAL_CTL 0 0 = 0 ∨ (t - s.calAt g).natAbs < 4 then s else s.reevaluateGroup g t)

/-- Corrections that may take effect at a boundary: of two of one quantity, the later. -/
def dueCorrections (b : Nat) : List Correction → List Correction
  | [] => []
  | c :: t =>
    if c.due ≤ b ∧ !(t.any fun d => d.quantity == c.quantity && decide (d.due ≤ b)) then c :: dueCorrections b t
    else dueCorrections b t

/-- Corrections at a boundary (R293): at most 8,192 of those due, largest change first; while CAL_CTL.track is 0 the applied values stay as they
are. -/
def State.calBoundary (s : State) : State :=
  if s.regF Reg.CAL_CTL 0 0 = 0 then { s with cal := { s.cal with lastApplied := 0 } }
  else
  let l := sortBy (fun a b => decide (b.change < a.change)) (dueCorrections s.clk.bnd s.cal.waiting)
  let later := s.cal.waiting.filter fun c => decide (s.clk.bnd < c.due)
  let now := l.take 8192
  { s with cal := { s.cal with applied := now.foldl (fun t c => t.put c.quantity c.value) s.cal.applied,
                               waiting := l.drop 8192 ++ later, lastApplied := now.length } }

/-- A quantity measured: its trim is measured − interpolated (R292), which counts where trims are written; where no set is valid,
what was measured is what is used (R291). -/
def State.storeTrim (s : State) (g : CalGroup) (i : Nat) (measured : Int) : State :=
  let q := g.quantity i
  let v := measured - s.interpolate q (s.calTemp g)
  if s.cal.valid % 32 = 0 then { s with cal := { s.cal with measured := s.cal.measured.put q measured } }
  else if s.regF Reg.CAL_CTL 1 1 = 0 then s
  else
    let s := match g.driftLimit i with
      | some n => if n < v.natAbs then s.logFault Flt.CAL_DRIFT blkCAL g.ident else s
      | none => s
    { s with cal := { s.cal with trims := s.cal.trims.put q v } }

/-- The values measured of a group, field by field. -/
def State.storeTrims (s : State) (g : CalGroup) (l : List Int) : State :=
  (l.zipIdx.take g.ranges.length).foldl (fun s e => s.storeTrim g e.2 e.1) s

/-- The sets that the copies read from the boot flash leave valid, and those with a failed copy: bit 2i + c of `good` says that
copy c of set i passes its CRC (R290). -/
def State.loadSets (s : State) (good : BitVec 10) : State :=
  let bit (i c : Nat) := bitOf (good.getLsbD (2 * i + c))
  let sum (f : Nat → Nat) := ((List.range 5).map fun i => f i * 2 ^ i).sum
  let valid := sum fun i => max (bit i 0) (bit i 1)
  let s := { s with cal := { s.cal with valid := valid, copyFail := sum fun i => 1 - min (bit i 0) (bit i 1) } }
  if valid = 0 then s.logFault Flt.CAL_SET_MISSING blkCAL 31 else s

/-- The slots of the module (R18). -/
def allSlots : List SlotId :=
  (allFin 64).flatMap fun p => (allFin 16).flatMap fun pl => [false, true].flatMap fun rx => (allFin 8).map fun i => ⟨p, pl, rx, i⟩

/-- The groups of the photonic calibration (R289). -/
def allGroups : List CalGroup :=
  allSlots.flatMap (fun x => [.ring ⟨x, false⟩, .ring ⟨x, true⟩, .driver x])
    ++ ((allFin 64).flatMap fun p => (allFin 16).flatMap fun pl => [.weights p pl false, .weights p pl true])
    ++ [.engine 0, .engine 1]

/-- The clamps of the values that bring-up computes are logged (R291). -/
def State.logClamps (s : State) : State :=
  allGroups.foldl (fun s g => (List.range g.ranges.length).foldl (fun s i =>
    if (s.calValue (g.quantity i) (g.range i) (s.startTemp g)).2 then s.logFault Flt.CAL_RANGE blkCAL g.ident else s) s) s

/-- The calibration of a bring-up (R292, R294): the readings it is made at, the sets loaded, and what was measured. A quantity
that the report does not list measures what its stored trim gives. -/
def State.calibrate (s : State) (good : BitVec 10) (measured : List (CalGroup × List Int)) : State :=
  let temps : Table Int := (s.therm.sensors.filter fun e => e.1 / 4096 == 3).map fun e => (e.1 % 4096, e.2.temp)
  let s := { s with cal := { s.cal with start := some temps } }
  (measured.foldl (fun s e => s.storeTrims e.1 e.2) (s.loadSets good)).logClamps

/-- An engine calibrated again as it returns from RECAL (R179): its new values join the trims, and take effect as corrections, none of which
is issued while CAL_CTL.track is 0 (R293). -/
def State.recalibrate (s : State) (g : CalGroup) (measured : List Int) : State :=
  let held := (List.range g.ranges.length).map fun i => (g.quantity i, s.calApplied g i)
  let s := { s with cal := { s.cal with applied := held.foldl (fun (t : Table Int) (e : Nat × Int) => t.put e.1 e.2) s.cal.applied } }
  let s := s.storeTrims g measured
  if s.regF Reg.CAL_CTL 0 0 = 0 then s else s.reevaluateGroup g (s.calTemp g)

end Sys2Proof.Machine
end

