-- ==== Sys2Proof/Machine/BlinkersUnit.lean ====
section
/-! DEFINITION. The Blinkers engines: requests, scores, page lists, drift checks and recalibration (R169 to R180). -/

namespace Sys2Proof.Machine

def State.engine (s : State) (e : Fin 2) : Engine := if e = 0 then s.bln.e0 else s.bln.e1
def State.setEngine (s : State) (e : Fin 2) (x : Engine) : State :=
  { s with bln := if e = 0 then { s.bln with e0 := x } else { s.bln with e1 := x } }

/-- The engine's mode is NORMAL: not in RECAL or FAILED, its unit ON and not failed, no hot sensor beside it (R177). -/
def State.engineNormal (s : State) (e : Fin 2) : Bool :=
  let x := s.engine e
  x.mode == .normal && s.isOn (.engine e) && !(s.unit (.engine e)).failed && !x.hot

def otherEngine (e : Fin 2) : Fin 2 := if e = 0 then 1 else 0

/-- Status codes of a page list (R175). -/
def lsSelected : Nat := 0
def lsAll : Nat := 1
def lsBelow : Nat := 2
def lsFallback : Nat := 3
def lsRefused : Nat := 4

/-- A list written: the entries first, then the header, and, once every write is acknowledged as applied, the done counter (R175,
R176): a write that is refused or fails leaves the list uncounted and unsignalled. `none` is a list that no engine took. When the BLINK's core has left ON the list and the signal are discarded. -/
def State.writeList (s : State) (r : BlinkRequest) (engine : Option (Fin 2)) (status : Nat) (pages : List Nat) : State :=
  let c := r.q.core
  if r.left ∨ (s.unit (.core c)).st ≠ .on then s
  else
    let block := match engine with
      | some e => blkBLN e.val
      | none => blkBLN (r.stall % 2)
    let a := scratchAddr c (r.list * 64)
    let w : Accessor := ⟨r.job, none, block⟩
    let entries := s.storeWords w (a + 8) (pages.map (BitVec.ofNat 32))
    let head := entries.2.storeWords w a
      [BitVec.ofNat 32 (putBits 31 24 status + putBits 23 14 pages.length + r.stall),
       BitVec.ofNat 32 (putBits 31 24 r.layer + putBits 23 16 r.headGrp + putBits 15 13 r.tint
          + putBits 12 12 (bitOf engine.isNone))]
    if entries.1 ≠ .ok ∨ head.1 ≠ .ok then head.2
    else (head.2.bump (Reg.BLN_CNT_n + 4 * (status + 1)) 1).signalAt r.doneSpace (some c) r.doneIdx 1 r.job (agentBlinkers (match engine with
      | some e => e.val
      | none => r.stall % 2)) block

/-- BLINK (R173): the request goes to its engine, to the other one, or is accepted with none; a full queue keeps it
waiting. -/
def State.blink (s : State) (q : QueueId) (e : Exec) (x : BlinkArgs) : State :=
  let r : BlinkRequest := ⟨q, (s.queue q).job, x.headGrp, x.layer, x.stall, x.tint, x.k, x.sketch, x.list, x.doneSpace,
    x.doneIdx, false⟩
  let own : Fin 2 := ⟨x.stall % 2, Nat.mod_lt _ (by decide)⟩
  let target := if s.liveF Reg.BLN_CTL 31 31 = 1 then none
    else if s.engineNormal own then some own
    else if s.engineNormal (otherEngine own) then some (otherEngine own)
    else none
  match target with
  | none => ((s.bump Reg.BLN_CNT_n 1).writeList r none lsFallback []).complete q e stOk .zero
  | some k =>
    let g := s.engine k
    if 512 ≤ g.waiting then s
    else ((s.setEngine k { g with requests := g.requests ++ [r] }).bump Reg.BLN_CNT_n 1).complete q e stOk .zero

def execBlink (q : QueueId) (s : State) : Host.Outcome State Fault Refusal :=
  .next (match s.running q opBlink with
    | none => s
    | some e => if s.hazard q.core [spanOf false e.desc.blink.sketch 128] then s else s.blink q e e.desc.blink)

/-! ### Scores (R166, R169, R170) -/

/-- The elements of a sketch. -/
def sketchElems (bs : List Byte) : List Int :=
  bs.flatMap fun b => [signedOf 4 (b.toNat % 16), signedOf 4 (b.toNat / 16)]

def absSum (l : List Int) : Nat := (l.map Int.natAbs).sum

def trueScore (q s : List Int) : Int := ((q.zip s).map fun (a, b) => a * b).foldl (· + ·) 0

/-- Effective bits of a tint, in tenths of a bit. -/
def tintBits (tint : Nat) : Nat := match tint with | 0 => 40 | 1 => 46 | 2 => 51 | 3 => 56 | _ => 60

/-- A number of 1/65,536 lies below one LSB: e < 2 × FS / 2^b with FS = 8 × Σ|q| (R169). -/
def belowLsb (sum tint e : Nat) : Bool := decide (e ^ 10 * 2 ^ tintBits tint < (16 * sum * 65536) ^ 10)

/-- A reported score in 1/65,536: the true score and an error of less than one LSB, which of them the manual leaves
open. -/
def State.reportScore (s : State) (q sk : List Int) (tint : Nat) : Int × State :=
  let got := s.takeFree
  let v := got.1
  let s := got.2
  let e : Nat := v / 2
  let err : Int := if belowLsb (absSum q) tint e then (if v % 2 = 0 then (e : Int) else -(e : Int)) else 0
  (trueScore q sk * 65536 + err, s)

/-- One candidate page scored by its sketch; none when it is absent, poisoned or refused. -/
def State.scorePage (s : State) (w : Accessor) (x : Stall) (r : BlinkRequest) (grp : Nat) (q : List Int) (j : Nat) :
    Option (Nat × Int) × State :=
  let got := s.readPage w x ⟨r.layer, grp, j⟩
  let s := got.2
  match got.1 with
  | none => (none, s)
  | some n =>
    let got := s.load w (s.sketchAddr n) 128
    let s := got.2.2
    if got.2.1 ≠ .ok then (none, s)
    else
      let v := s.reportScore q (sketchElems got.1) r.tint
      (some (j, v.1), v.2)

/-- The sketches of candidate pages scored in order; none when one is absent, poisoned or refused (R174 step 6). -/
def State.scorePages (s : State) (w : Accessor) (x : Stall) (r : BlinkRequest) (grp : Nat) (q : List Int) :
    List Nat → Option (List (Nat × Int)) × State
  | [] => (some [], s)
  | j :: t =>
    let got := s.scorePage w x r grp q j
    let s := got.2
    match got.1 with
    | none => (none, s)
    | some v =>
      let got := s.scorePages w x r grp q t
      (got.1.map (v :: ·), got.2)

/-- The k highest reported scores, equal ones to the higher page; in ascending page index (R176). -/
def selectPages (k : Nat) (l : List (Nat × Int)) : List Nat :=
  let best := (sortBy (fun (i, a) (j, b) => decide (b < a) || (a == b && decide (j < i))) l).take k
  sortBy (fun i j => decide (i < j)) (best.map (·.1))

/-- The classification of R174: status and entries. A profile that cannot be read leaves the request's head group, and one that is not valid counts by
its bit. DESIGN CHOICE, assumption 192. A default threshold of 0xFFFFFF lets no page be scored either. DESIGN CHOICE, assumption 193. Sketches count as scored where
the list is SELECTED. DESIGN CHOICE, assumption 194. -/
def State.classify (s : State) (e : Fin 2) (r : BlinkRequest) : Nat × List Nat × State :=
  let x := s.stall r.stall
  let w : Accessor := ⟨r.job, none, blkBLN e.val⟩
  if x.job ≠ r.job then (lsRefused, [], s.raiseTo Flt.BLN_JOB_MISMATCH (blkBLN e.val) r.job 0)
  else if !(x.st == .prefill || x.st == .decode) then (lsFallback, [], s)
  else
    let thresh := if x.img.blinkThresh = 0 then s.liveF Reg.BLN_CTL 23 0 else x.img.blinkThresh
    if thresh = 0xFFFFFF ∨ x.seqLen < thresh then (lsBelow, [], s)
    else
      let n := x.seqLen / 64
      if n ≤ r.k then (lsAll, List.range n, s)
      else
        let got := s.load w (scratchAddr r.q.core (r.sketch * 64)) 128
        let bs := got.1
        let st := got.2.1
        let s := got.2.2
        let q := sketchElems bs
        if st ≠ .ok ∨ absSum q = 0 then (lsFallback, [], s)
        else
          let prof := (s.loadWords w (s.baseOf Reg.BLN_PROF_LO Reg.BLN_PROF_HI 12 + (r.job * 256 + r.layer) * 32) 8)
          let grp := match prof.1 with
            | some ws => if (profileOf ws).shared then 0 else r.headGrp
            | none => r.headGrp
          match prof.2.scorePages w x r grp q (List.range n) with
          | (none, s) => (lsFallback, [], s)
          | (some l, s) => (lsSelected, selectPages r.k l, s.bump (Reg.BLN_CNT_n + 24) n)

/-- BLINKERS_REQUEST_START (R174): the engine starts its oldest request. -/
def execBlinkersRequestStart (e : Fin 2) (s : State) : Host.Outcome State Fault Refusal :=
  let g := s.engine e
  .next (match g.requests, g.formed with
    | r :: _, none =>
      if s.engineNormal e then
        let got := s.classify e r
        let status := got.1
        let pages := got.2.1
        let s := got.2.2
        s.setEngine e { s.engine e with formed := some (status, pages) }
      else s
    | _, _ => s)

/-- BLINKERS_LIST_COMPLETE (R176): the list formed is written and signalled. -/
def execBlinkersListComplete (e : Fin 2) (s : State) : Host.Outcome State Fault Refusal :=
  let g := s.engine e
  .next (match g.requests, g.formed with
    | r :: rest, some (status, pages) =>
      (s.setEngine e { g with requests := rest, formed := none }).writeList r (some e) status pages
    | _, _ => s)

/-- A core has left ON: the lists of its requests and their signals are discarded (R176). -/
def State.blinksLeft (s : State) (c : CoreId) : State :=
  let note := fun (g : Engine) => { g with requests := g.requests.map fun r => if r.q.core = c then { r with left := true } else r }
  { s with bln := { s.bln with e0 := note s.bln.e0, e1 := note s.bln.e1 } }

/-- The requests of an engine that has left NORMAL move, in order, to the other engine where it is NORMAL and has room, or
are written FALLBACK (R177). -/
def State.moveRequests (s : State) (e : Fin 2) : State :=
  let g := s.engine e
  let s := s.setEngine e { g with requests := [], formed := none }
  g.requests.foldl (fun s r =>
    let o := otherEngine e
    let h := s.engine o
    if s.engineNormal o && decide (h.waiting < 512) then s.setEngine o { h with requests := h.requests ++ [r] }
    else s.writeList r (some e) lsFallback []) s

def execBlinkersLeaveNormal (e : Fin 2) (s : State) : Host.Outcome State Fault Refusal :=
  .next (if s.engineNormal e then s else s.moveRequests e)

/-! ### Drift (R180) -/

/-- Measured effective bits in 1/8 bit from the peak error in 1/256 LSB: the largest n below 64 with
2^(n/8) ≤ 2^(b + 8) / error. -/
def measuredBits (tint err : Nat) : Nat :=
  if err = 0 then 63
  else ((List.range 64).filter fun n => decide (err ^ 40 * 2 ^ (5 * n) ≤ 2 ^ (4 * tintBits tint + 320))).getLastD 0

/-- What a drift check records: the peak errors by tint in 1/256 LSB. -/
def Engine.checked (x : Engine) (errs : List Nat) (bnd : Nat) : Engine :=
  { x with peak := min 255 (errs.foldl max 0), ebits := errs.zipIdx.map fun (e, t) => measuredBits t e,
           lastCheck := bnd }

/-- A check passes when every tint's peak error is below 0.75 LSB. -/
def checkPasses (errs : List Nat) : Bool := errs.all fun e => decide (e < 192)

/-- The engine enters RECAL (R180). -/
def State.enterRecal (s : State) (e : Fin 2) : State :=
  let s := s.setEngine e { s.engine e with mode := .recal }
  (s.bump (Reg.BLN_CNT_n + 28) 1).logFault Flt.BLN_RECAL (blkBLN e.val) 0

def checkErrors (p0 p1 p2 p3 p4 : BitVec 16) : List Nat := [p0, p1, p2, p3, p4].map BitVec.toNat

/-- BLINKERS_DRIFT_CHECK (R180) with the peak errors its scores show. -/
def execBlinkersDriftCheck (e : Fin 2) (p0 p1 p2 p3 p4 : BitVec 16) (s : State) : Host.Outcome State Fault Refusal :=
  let x := s.engine e
  let errs := checkErrors p0 p1 p2 p3 p4
  .next (if s.isOn (.engine e) && x.mode == .normal
        && decide (x.lastCheck + s.regF Reg.BLN_CHECK_CTL 15 0 ≤ s.clk.bnd) then
      let s := s.setEngine e (x.checked errs s.clk.bnd)
      if checkPasses errs then s else s.enterRecal e
    else s)

/-- BLINKERS_RECAL_COMPLETE (R179, R180): the repeated check passes and what the calibration measured joins the stored values, or
another RECAL starts, or the third failure in a row fails the engine. -/
def execBlinkersRecalComplete (report : RecalReport) (p0 p1 p2 p3 p4 : BitVec 16) (s : State) : Host.Outcome State Fault Refusal :=
  let e := report.engine
  let x := s.engine e
  let errs := checkErrors p0 p1 p2 p3 p4
  .next (if x.mode ≠ .recal then s
    else
      let x := x.checked errs s.clk.bnd
      if checkPasses errs then (s.setEngine e { x with mode := .normal, recalFail := 0 }).recalibrate (.engine e) report.measured
      else if 2 ≤ x.recalFail then
        let s := s.setEngine e { x with mode := .failed, recalFail := 3 }
        let s := s.setUnit (.engine e) { s.unit (.engine e) with failed := true }
        (s.logFault Flt.BLN_ENGINE_FAIL (blkBLN e.val) 0).scheduleNext (.unitFail (.engine e) false)
      else (s.setEngine e { x with recalFail := x.recalFail + 1 }).enterRecal e)

end Sys2Proof.Machine
end

