-- ==== Sys2Proof/Machine/Photonics.lean ====
section
/-! DEFINITION. Rings, slots, line beacons, quarantine and the Harness allocator (R243 to R261, R265 to R268). -/

namespace Sys2Proof

/-- A ring of a slot. -/
def SlotId.ring (x : SlotId) (standby : Bool) : RingId := ⟨x, standby⟩

/-- The slot of a ring ID. -/
def slotOfNumber (n : Nat) : SlotId :=
  ⟨⟨n / 512 % 64, Nat.mod_lt _ (by decide)⟩, ⟨n / 32 % 16, Nat.mod_lt _ (by decide)⟩, n / 2 % 2 == 1,
    ⟨n / 4 % 8, Nat.mod_lt _ (by decide)⟩⟩

/-- The pair of slots and the channel of a grant (R244, R253). -/
def channelOf (src dst : Fin 64) : Fin 64 := dst - src

end Sys2Proof

namespace Sys2Proof.Machine

def Grant.txSlot (g : Grant) : SlotId := ⟨g.src, g.plane, false, g.tx⟩
def Grant.rxSlot (g : Grant) : SlotId := ⟨g.dst, g.plane, true, g.rx⟩
def Grant.channel (g : Grant) : Fin 64 := channelOf g.src g.dst

def State.ring (s : State) (r : RingId) : Ring := s.drg.rings.getD r.number .reset
def State.setRing (s : State) (r : RingId) (v : Ring) : State :=
  { s with drg := { s.drg with rings := s.drg.rings.put r.number v } }
def State.slot (s : State) (x : SlotId) : Slot := s.drg.slots.getD x.number .reset
def State.setSlot (s : State) (x : SlotId) (v : Slot) : State :=
  { s with drg := { s.drg with slots := s.drg.slots.put x.number v } }

/-- A register of a port's page. -/
def portReg (p : Fin 64) (off : Nat) : Nat := off + p.val * 4096

/-- Port 62 and port 63 have no owning unit; every port's own unit is the one of its page (R454). -/
def State.portOn (s : State) (p : Fin 64) : Bool := s.isOn (.port p)

/-- The ring that serves a slot, and its shadow (R245). -/
def State.servingRing (s : State) (x : SlotId) : RingId := ⟨x, (s.slot x).serving⟩
def State.shadowRing (s : State) (x : SlotId) : RingId := ⟨x, !(s.slot x).serving⟩

/-- The lock state a ring reports (R247): unpowered with its port or its plane. -/
def State.lockOf (s : State) (r : RingId) : Lock :=
  let v := s.ring r
  if v.lock = .failed then .failed
  else if (s.unit (.port r.slot.port)).st = .off ∨ (s.unit (.plane r.slot.plane)).st = .off then
    (if (s.unit (.port r.slot.port)).st = .off then .off else .parked)
  else v.lock

/-- The ring holds a channel it could carry data on. -/
def State.holds (s : State) (r : RingId) (n : Fin 64) : Bool :=
  let l := s.lockOf r
  (l == .locked || l == .drift) && (s.ring r).channel == some n

/-- A slot of a data grant has had a WRONG_LINE or DARK outcome in this stride, not yet attributed to its plane (R256, R257). -/
def State.suspect (s : State) (x : SlotId) : Bool :=
  s.drg.events.any fun e => !e.grant.probe && (e.grant.txSlot == x || e.grant.rxSlot == x)

/-- Health of a slot (R266). A suspect one counts as QUARANTINED at once (R256). -/
def State.health (s : State) (x : SlotId) : Nat :=
  let f := fun b => (s.ring ⟨x, b⟩).lock == .failed
  if f false && f true then 3
  else if (s.slot x).quarantined || s.suspect x then 2
  else if f false || f true then 1 else 0

/-- The slot's own unit, its port and its plane are ON (R253, R454). -/
def State.slotOn (s : State) (x : SlotId) : Bool :=
  s.isOn (.slot x) && s.isOn (.port x.port) && s.isOn (.plane x.plane)

/-- A slot in the pool that a grant in force lets carry data: its plane is ON, or is STOPPING under grants computed before it was
(R267). -/
def State.carries (s : State) (x : SlotId) : Bool :=
  s.isOn (.slot x) && s.isOn (.port x.port) && ((s.unit (.plane x.plane)).st == .on || (s.unit (.plane x.plane)).st == .stopping)
    && decide (s.health x ≤ 1) && (s.slot x).need == 0 && !(s.slot x).dark

/-- A slot in the grant pool (R256, R266). -/
def State.pooled (s : State) (x : SlotId) : Bool :=
  s.slotOn x && decide (s.health x ≤ 1) && (s.slot x).need == 0

/-- All slots of a port in one direction, by plane and slot. -/
def portSlots (p : Fin 64) (rx : Bool) : List SlotId :=
  (allFin 16).flatMap fun pl => (allFin 8).map fun k => ⟨p, pl, rx, k⟩

def State.usable (s : State) (p : Fin 64) (rx : Bool) : Nat := ((portSlots p rx).filter s.pooled).length

/-! ### Lock loops (R248 to R252) -/

/-- A ring that becomes FAILED (R258). A slot with no working ring left is offered to the Farrier; one with a working shadow keeps its
roles until the allocator places a grant on that ring (R245, R261). -/
def State.failRing (s : State) (r : RingId) : State :=
  if (s.ring r).lock = .failed then s
  else
    let s := s.setRing r { s.ring r with lock := .failed, channel := none, target := none, sweepDue := false }
    let s := (s.bump (Reg.HRN_CNT_n + 24) 1).logFault Flt.DRG_RING_FAIL (blkDRG r.slot.port.val) r.number
    if s.health r.slot = 3 then s.logFault Flt.DRG_SLOT_FAIL (blkDRG r.slot.port.val) r.number else s

/-- The slots of a grant leave the pool and are swept to its channel at the next boundary (R256). -/
def State.quarantine (s : State) (x : SlotId) (mate : Option SlotId) (n : Option (Fin 64)) : State :=
  let v := s.slot x
  let s := if v.quarantined then s else s.bump (Reg.HRN_CNT_n + 16) 1
  let s := s.setSlot x { v with quarantined := true, need := 3, good := 0, mate := mate, channel := n, pairFails := 0,
                                isolated := false, probeBy := none }
  [false, true].foldl (fun s b =>
    let r : RingId := ⟨x, b⟩
    if (s.ring r).lock = .failed then s
    else s.setRing r { s.ring r with sweepDue := true, sweepsNow := 0, sweepFails := 0, probeFails := 0, target := n,
                                     reacquireBy := none }) s

/-- The grant in force of a slot. -/
def State.grantOf (s : State) (x : SlotId) : Option Grant :=
  s.drg.grants.find? fun g => if x.rx then g.rxSlot == x else g.txSlot == x

/-- The other slot of a grant. -/
def Grant.other (g : Grant) (x : SlotId) : SlotId := if x.rx then g.txSlot else g.rxSlot

/-- A ring loses lock (R249). A slot that it serves leaves the pool, and, granted, is decoupled at once (R246). -/
def State.loseLock (s : State) (r : RingId) : State :=
  let v := s.ring r
  let s := s.setRing r { v with lock := .acquiring, target := v.channel, heater := some v.lastGood, high := 0,
                                reacquireBy := some (s.clk.bnd + 4) }
  if r = s.servingRing r.slot then
    let x := s.slot r.slot
    let g := s.grantOf r.slot
    s.setSlot r.slot { x with dark := x.dark || g.isSome, need := max 1 x.need, good := 0, okNow := false,
                              mate := g.map (·.other r.slot), channel := v.channel }
  else s

/-- LOCK_LOOP_UPDATE (R248, R249): the drop monitor reads `detune` (units of 0.25 GHz). The heater code follows from loop gains
the manual does not give: a free value. -/
def execLockLoopUpdate (r : RingId) (detune : Int) (cyc : Nat) (s : State) : Host.Outcome State Fault Refusal :=
  let s := s.advance cyc
  let l := s.lockOf r
  .next (if l = .off ∨ l = .failed then s
    else
      let got := s.takeFree
      let h := got.1
      let s := got.2
      let code := BitVec.ofNat 16 h
      let v : Ring := { s.ring r with heater := some code, detune := detune }
      if l = .locked ∨ l = .drift then
        if detune.natAbs ≤ 12 then s.setRing r { v with lock := .locked, high := 0, lastGood := code }
        else if detune.natAbs ≤ 32 then
          let s := if l = .locked then s.bump (portReg r.slot.port (Reg.DRG_CNT_n + 28)) 1 else s
          s.setRing r { v with lock := .drift, high := 0, lastGood := code }
        else if v.high = 0 then s.setRing r { v with high := 1 }
        else (s.setRing r v).loseLock r
      else s.setRing r v)

/-- LOCK_REACQUIRE_TIMEOUT (R249). -/
def execLockReacquireTimeout (r : RingId) (s : State) : Host.Outcome State Fault Refusal :=
  let v := s.ring r
  .next (match v.reacquireBy with
    | none => s
    | some b =>
      if s.clk.bnd < b ∨ v.lock = .locked then s
      else
        let s := s.setRing r { v with reacquireBy := none }
        if r = s.servingRing r.slot then s.quarantine r.slot (s.slot r.slot).mate v.target else s)

/-- RING_ACQUIRED (R251): the ring reports LOCKED on its target. -/
def execRingAcquired (r : RingId) (s : State) : Host.Outcome State Fault Refusal :=
  let v := s.ring r
  .next (match v.lock, v.target with
    | .acquiring, some n => s.setRing r { v with lock := .locked, channel := some n, target := none, reacquireBy := none,
                                                 high := 0, lastGood := v.heater.getD (s.heaterCode r n.val) }
    | _, _ => s)

/-- RING_SWEEP_COMPLETE (R252, R258): the sweep acquires its target, or fails; a third failure fails the ring, and before that
it sweeps again. -/
def execRingSweepComplete (r : RingId) (found : Bool) (s : State) : Host.Outcome State Fault Refusal :=
  let v := s.ring r
  .next (if v.lock ≠ .sweeping then s
    else
      let x := s.slot r.slot
      let s := s.setSlot r.slot { x with sweeps := min (x.sweeps + 1) 31 }
      let v := { v with sweepsNow := v.sweepsNow + 1 }
      if found then
        match v.target with
        | some n => s.setRing r { v with lock := .locked, channel := some n, target := none, high := 0,
                                         heater := some (s.heaterCode r n.val), lastGood := s.heaterCode r n.val }
        | none => s.setRing r { v with lock := .parked, channel := none }
      else if 3 ≤ v.sweepFails + 1 then (s.setRing r { v with sweepFails := v.sweepFails + 1 }).failRing r
      else s.setRing r { v with lock := .parked, channel := none, sweepFails := v.sweepFails + 1, sweepDue := true })

/-! ### Line beacons (R255 to R258) -/

/-- The words of the beacon a granted transmit slot sends (R255). -/
def Grant.beacon (g : Grant) (stride : BitVec 48) : List Word :=
  let w0 := BitVec.ofNat 32 (putBits 31 26 g.src.val + putBits 25 20 g.dst.val + putBits 19 16 g.plane.val
    + putBits 15 13 g.tx.val + putBits 12 10 g.rx.val + putBits 9 4 g.channel.val)
  let w1 := BitVec.ofNat 32 stride.toNat
  let w2 := BitVec.ofNat 32 (putBits 31 31 (bitOf g.probe))
  [w0, w1, w2, crc32c (bytesOf [w0, w1, w2])]

/-- The words of a beacon accepted from the six copies received: at least four agree and have a correct CRC (R255). -/
def acceptBeacon (copies : List (List Word)) : Option (List Word) :=
  let good := (copies.take 6).filter fun c => match c with
    | [w0, w1, w2, w3] => w3 == crc32c (bytesOf [w0, w1, w2])
    | _ => false
  good.find? fun c => decide (4 ≤ (good.filter (· == c)).length)

/-- A LINK packet from `sender` about the reverse pair: op, then its words. Its ack is the next number expected. -/
def linkWords (sender : Fin 64) (op ack w2 : Nat) : List Word :=
  let ws := [putBits 31 28 6 + putBits 27 22 sender.val + putBits 21 18 op, putBits 31 12 ack, w2].map (BitVec.ofNat 32)
  ws ++ [crc32c (bytesOf ws)]

/-- The number a receiver expects next of an ordered pair of ports. -/
def State.expected (s : State) (src dst : Fin 64) : Nat := (s.drg.pairs.getD (src.val * 64 + dst.val) .reset).expect

/-- The SLOT_LOST notice of a grant (R299). -/
def State.slotLostWords (s : State) (g : Grant) : List Word :=
  linkWords g.dst 3 (s.expected g.src g.dst) (putBits 15 12 g.plane.val + putBits 11 9 g.tx.val + putBits 8 6 g.rx.val)

/-- The notices after one more repetition towards a source. -/
def repeated (n : List (Grant × Nat)) (sender src : Fin 64) : List (Grant × Nat) :=
  n.filterMap fun (g, k) =>
    if g.dst = sender ∧ g.src = src then (if k ≤ 1 then none else some (g, k - 1)) else some (g, k)

/-- A LINK packet from `sender` to `src`, followed by the SLOT_LOST notices to that source that are still repeated (R299). -/
def State.sendLink (s : State) (sender src : Fin 64) (op w2 : Nat) : State :=
  let mine := s.drg.notices.filter fun e => e.1.dst == sender && e.1.src == src
  let s := s.emit (.link sender src (linkWords sender op (s.expected src sender) w2))
  let s := mine.foldl (fun (s : State) e => s.emit (.link sender src (s.slotLostWords e.1))) s
  { s with drg := { s.drg with notices := repeated s.drg.notices sender src } }

/-- A negative acknowledgement of a pair: the first number missing (R262, R299). -/
def State.sendNak (s : State) (src dst : Fin 64) : State := s.sendLink dst src 2 (putBits 31 12 (s.expected src dst))

/-- The receiver of a slot discards the packets it still holds from it, each with a negative acknowledgement, and tells the source
(R256, R262, R299). -/
def State.slotLost (s : State) (g : Grant) : State :=
  let x := g.rxSlot
  let s := s.setSlot x { s.slot x with dark := true, discard := true }
  let k := g.src.val * 64 + g.dst.val
  let p := s.drg.pairs.getD k .reset
  let gone (h : Held) := h.slot == x && h.stride == s.clk.bnd
  let s := { s with drg := { s.drg with pairs := s.drg.pairs.put k { p with reorder := p.reorder.filter fun h => !gone h } } }
  let s := s.emit (.link g.dst g.src (s.slotLostWords g))
  let s := { s with drg := { s.drg with notices := s.drg.notices ++ [(g, 8)] } }
  (p.reorder.filter gone).foldl (fun s _ => s.sendNak g.src g.dst) s

/-- A WRONG_LINE or DARK outcome of a granted slot: what the slot brings is discarded at once, and the event waits to be attributed
(R256, R257). A DARK slot counts towards the loss of its plane, whether its grant is of data or a probe (R257). -/
def State.lineEvent (s : State) (g : Grant) (wrong : Bool) : State :=
  let s := if g.probe then s.setSlot g.rxSlot { s.slot g.rxSlot with discard := true } else s.slotLost g
  let s := { s with drg := { s.drg with events := s.drg.events ++ [LineEvent.mk g wrong],
                                        planeDark := if wrong then s.drg.planeDark
                                          else s.drg.planeDark.put g.plane.val (s.drg.planeDark.getD g.plane.val 0 + 1) } }
  if wrong then (s.bump (Reg.HRN_CNT_n + 8) 1).bump (portReg g.dst (Reg.DRG_CNT_n + 20)) 1
  else s.bump (portReg g.dst (Reg.DRG_CNT_n + 24)) 1

/-- A slot out of the pool has received an OK beacon (R249, R256, R268). -/
def State.goodBeacon (s : State) (x : SlotId) : State :=
  let v := s.slot x
  if v.need = 0 then s
  else if v.good + 1 < v.need then s.setSlot x { v with good := v.good + 1, okNow := true }
  else
    let s := if v.quarantined then s.bump (Reg.HRN_CNT_n + 20) 1 else s
    s.setSlot x { v with quarantined := false, need := 0, good := 0, okNow := false, mate := none, pairFails := 0, isolated := false,
                         probeBy := none }

/-- A probe grant of a slot has failed (R258): at its second pairing, or once both its rings have swept twice, it is isolated;
isolated probes count against the ring that serves, which fails at the third. -/
def State.failProbe (s : State) (x : SlotId) (mateGood : Bool) : State :=
  let v := s.slot x
  if v.need = 0 then s
  else
    let s := s.setSlot x { v with good := 0, pairFails := v.pairFails + 1 }
    if !v.quarantined then s
    else if v.isolated && mateGood then
      let r := s.servingRing x
      let n := (s.ring r).probeFails + 1
      let s := s.setRing r { s.ring r with probeFails := n }
      if 3 ≤ n then s.failRing r else s
    else
      let twice := [false, true].all fun b => let q := s.ring (x.ring b); q.lock == Lock.failed || decide (2 ≤ q.sweepsNow)
      if 2 ≤ v.pairFails + 1 ∨ twice then s.setSlot x { s.slot x with isolated := true }
      else [false, true].foldl (fun s b =>
        if (s.ring ⟨x, b⟩).lock = .failed then s
        else s.setRing ⟨x, b⟩ { s.ring ⟨x, b⟩ with sweepDue := true, target := v.channel }) s

/-- LINE_BEACON_CHECK (R255, R256): the copies a granted receive slot has received by stride cycle 32. A decoupled ring receives
none (R246). -/
def execLineBeaconCheck (x : SlotId) (copies : List (List Word)) (s : State) : Host.Outcome State Fault Refusal :=
  let s := s.advance 32
  .next (if !x.rx then s else match s.grantOf x with
    | none => s
    | some g =>
      if (s.slot x).discard then s
      else
        let ok := if (s.slot x).dark then none else acceptBeacon copies
        if ok = some (g.beacon s.clk.stride) then (s.goodBeacon g.rxSlot).goodBeacon g.txSlot
        else s.lineEvent g ok.isSome)

/-- A plane to which the events of the stride are attributed: loss of light at its tap, or 32 DARK slots (R257). -/
def State.planeLost (s : State) (p : Fin 16) : Bool :=
  s.drg.tapDark.contains p || decide (32 ≤ s.drg.planeDark.getD p.val 0)

/-- The failed probe of a slot. One that is out of the pool only because its ring lost lock (R249) is quarantined (R256); one of a returning plane has
its 8 strides (R268). -/
def State.probeFailed (s : State) (x y : SlotId) (n : Fin 64) (mateGood : Bool) : State :=
  let v := s.slot x
  if v.need ≠ 0 ∧ !v.quarantined ∧ v.probeBy.isNone then s.quarantine x (some y) (some n) else s.failProbe x mateGood

/-- One event attributed (R256 to R258): that of a plane lost quarantines nothing; elsewhere both slots of a data grant are
quarantined, and a probe grant has failed. -/
def State.settleEvent (s : State) (e : LineEvent) : State :=
  let g := e.grant
  let s := if e.wrong then s else s.bump (Reg.HRN_CNT_n + 12) 1
  if g.probe then
    let q (y : SlotId) := !(s.slot y).quarantined
    let a := q g.txSlot
    let b := q g.rxSlot
    (s.probeFailed g.rxSlot g.txSlot g.channel a).probeFailed g.txSlot g.rxSlot g.channel b
  else (s.quarantine g.rxSlot (some g.txSlot) (some g.channel)).quarantine g.txSlot (some g.rxSlot) (some g.channel)

/-- The events of the stride attributed at its end (R256, R257). -/
def State.attribute (s : State) : State :=
  let evs := s.drg.events.filter fun e => !s.planeLost e.grant.plane
  evs.foldl (fun s e => s.settleEvent e) { s with drg := { s.drg with events := [] } }

/-! ### The allocator (R259, R260) -/

/-- Most slots an edge router can carry (R83, R316, R320, R476): all 128 at its full clock, less its throttle and its failed
bundles. DEDUCED, assumption 30. -/
def State.portCap (s : State) (p : Fin 64) : Nat :=
  if 56 ≤ p.val ∧ p.val < 60 then
    128 * (100 - min (s.bridleThrottle (Fin.ofNat 4 (p.val - 56))) 100) / 100
  else if 56 ≤ p.val then 128
  else if 32 ≤ p.val then
    let t := (List.range 4).foldl (fun m n => max m (s.therm.sensors.getD (7 * 4096 + (p.val - 32) * 4 + n) .reset).contrib) 0
    128 * (100 - min t 100) / 100
  else
    let i := 4096 + p.val / 4 * 8 + p.val % 4 * 2
    let t := max (s.therm.sensors.getD i .reset).contrib (s.therm.sensors.getD (i + 1) .reset).contrib
    let failed := ((List.range 128).filter fun n =>
      let k := p.val / 4 * 65536 + 3 * 8192 + p.val % 4 * 128 + n
      decide (4 < (s.groom.bundles.getD k []).length) || s.groom.bundleFail.contains k).length
    128 * (100 - min t 100) / 100 * (64 - min failed 64) / 64

/-- The throttle of a port's photonic-region sensors, in per cent (R476). -/
def State.portThrottle (s : State) (p : Fin 64) : Nat :=
  (List.range 4).foldl (fun m q => max m (s.therm.sensors.getD (3 * 4096 + p.val * 4 + q) .reset).contrib) 0

/-- Packets waiting on a pair, replays included (R259). -/
def Pair.demand (p : Pair) : Nat := min 8191 (p.queue.length + (p.unacked.filter (·.again)).length)

/-- The working figures of the allocator: slots counted for each pair, and left at each port. -/
structure Tally where
  count : Table Nat
  txFree : Table Nat
  rxFree : Table Nat

/-- One more slot counted for a pair where both its ports have one left. -/
def Tally.take (t : Tally) (i d : Nat) : Option Tally :=
  let a := t.txFree.getD i 0
  let b := t.rxFree.getD d 0
  if a = 0 ∨ b = 0 then none
  else some ⟨t.count.put (i * 64 + d) (t.count.getD (i * 64 + d) 0 + 1), t.txFree.put i (a - 1), t.rxFree.put d (b - 1)⟩

def Tally.takeSome (t : Tally) (i d : Nat) : Tally := (t.take i d).getD t

/-- Up to `n` further slots of a pair. -/
def Tally.takeMany (t : Tally) (i d : Nat) : Nat → Tally
  | 0 => t
  | n + 1 => match t.take i d with
    | none => t
    | some t' => t'.takeMany i d n

/-- One round of step 4. -/
def fillRound (wants : List (Nat × Nat)) (weight : Nat → Nat) (t : Tally) : Tally :=
  wants.foldl (fun t (k, w) =>
    let have_ := t.count.getD k 0
    t.takeMany (k / 64) (k % 64) (min (weight (k % 64)) (w - have_))) t

/-- Rounds until no pair gains a slot. -/
def fillRounds (wants : List (Nat × Nat)) (weight : Nat → Nat) : Nat → Tally → Tally
  | 0, t => t
  | n + 1, t =>
    let t' := fillRound wants weight t
    if t'.count = t.count then t else fillRounds wants weight n t'

/-- The weight of a destination port in force (HRN_WEIGHTn); 0 acts as 1. -/
def State.weight (s : State) (d : Nat) : Nat :=
  max 1 (s.liveF (Reg.HRN_WEIGHTn + 4 * (d / 8)) (4 * (d % 8) + 3) (4 * (d % 8)))

/-- The set under construction: its grants and the slots they use, and the slots to be retuned. -/
def GrantSet.uses (g : GrantSet) (x : SlotId) : Bool := g.grants.any fun h => h.txSlot == x || h.rxSlot == x

/-- The set has a grant of a pair on a plane: another would name the same channel on the plane's buses (R246). -/
def GrantSet.joins (g : GrantSet) (p : Fin 16) (i d : Fin 64) : Bool := g.grants.any fun h => h.plane == p && h.src == i && h.dst == d

/-- A ring the set gives a target. -/
def GrantSet.aims (gs : GrantSet) (r : RingId) : Bool := gs.targets.any fun t => t.1 == r

/-- A slot that can be placed at an end: by its serving ring, or by a locked shadow ring. -/
def State.canPlace (s : State) (gs : GrantSet) (x : SlotId) (n : Fin 64) (shadow : Bool) : Option Bool :=
  if !s.pooled x || gs.uses x then none
  else if s.holds (s.servingRing x) n then some false
  else if shadow && s.holds (s.shadowRing x) n then some true
  else none

/-- The best placement of one slot of a pair (R259 step 5): the plane with the fewest grants, the lowest plane, the lowest
slot; each plane carries a pair once (R246, R253). -/
def State.place (s : State) (gs : GrantSet) (i d : Fin 64) (shadow : Bool) : Option (Grant × List SlotId) :=
  let n := channelOf i d
  let on (p : Fin 16) := (gs.grants.filter fun g => g.plane == p).length
  let options := (allFin 16).filterMap fun p =>
    let a := (allFin 8).findSome? fun k => (s.canPlace gs ⟨i, p, false, k⟩ n shadow).map fun b => (k, b)
    let b := (allFin 8).findSome? fun k => (s.canPlace gs ⟨d, p, true, k⟩ n shadow).map fun b => (k, b)
    match a, b with
    | some (a, sa), some (b, sb) =>
      let g : Grant := ⟨p, i, a, d, b, false⟩
      if gs.joins p i d then none else some (g, (if sa then [g.txSlot] else []) ++ (if sb then [g.rxSlot] else []))
    | _, _ => none
  options.foldl (fun best o => match best with
    | none => some o
    | some m => if on o.1.plane < on m.1.plane then some o else some m) none

/-- The ring that may be given a target at a slot: the shadow, or the only working ring of a slot left ungranted (R266). -/
def State.targetRing (s : State) (gs : GrantSet) (x : SlotId) : Option RingId :=
  if !s.pooled x then none
  else
    let sh := s.shadowRing x
    let r := if (s.ring sh).lock = .failed then (if gs.uses x then none else some (s.servingRing x)) else some sh
    match r with
    | some r => if gs.swaps.contains x || gs.aims r || s.lockOf r == .off then none else some r
    | none => none

/-- The set already sends a ring of a port's transmit bus on a plane to a channel. -/
def GrantSet.sends (gs : GrantSet) (p : Fin 16) (i : Fin 64) (n : Fin 64) : Bool :=
  gs.targets.any fun t => t.2 == n && t.1.slot.port == i && t.1.slot.plane == p && !t.1.slot.rx

/-- Shadow targets for a slot that could not be placed (R259 step 6), on a plane that does not carry the pair yet. -/
def State.aim (s : State) (gs : GrantSet) (i d : Fin 64) : GrantSet :=
  let n := channelOf i d
  let pick (p : Fin 16) : Option (RingId × RingId) :=
    match (allFin 8).findSome? fun k => s.targetRing gs ⟨i, p, false, k⟩,
        (allFin 8).findSome? fun k => s.targetRing gs ⟨d, p, true, k⟩ with
    | some a, some b => if gs.joins p i d || gs.sends p i n then none else some (a, b)
    | _, _ => none
  match (allFin 16).findSome? pick with
  | some (a, b) => { gs with targets := gs.targets ++ [(a, n), (b, n)] }
  | none => gs

/-- One counted slot of a pair placed, or left over. -/
def State.placeOne (s : State) (acc : GrantSet × List (Fin 64 × Fin 64)) (i d : Fin 64) : GrantSet × List (Fin 64 × Fin 64) :=
  let gs := acc.1
  match s.place gs i d false with
  | some (g, _) => ({ gs with grants := gs.grants ++ [g] }, acc.2)
  | none => match s.place gs i d true with
    | some (g, w) => ({ gs with grants := gs.grants ++ [g], swaps := gs.swaps ++ w }, acc.2)
    | none => (gs, acc.2 ++ [(i, d)])

/-- The return rule of R253 kept in what was placed: a pair whose reverse holds no grant gives its grants up, and with them the
changes of role made for them (R261). -/
def GrantSet.paired (gs : GrantSet) : GrantSet :=
  let kept := gs.grants.filter fun g => gs.grants.any fun h => h.src == g.dst && h.dst == g.src
  let left : GrantSet := { gs with grants := kept }
  { left with swaps := gs.swaps.filter fun x => left.uses x }

/-- A slot that a probe grant may name (R253, R268): its port is ON, and its own unit and its plane are ON or STARTING. -/
def State.probeable (s : State) (x : SlotId) : Bool :=
  let up (u : UnitId) := (s.unit u).st == .on || (s.unit u).st == .starting
  s.isOn (.port x.port) && up (.slot x) && up (.plane x.plane) && s.health x != 3

/-- A port's edge router has room for another grant of the set in a direction (R83, R253). -/
def State.hasRoom (s : State) (gs : GrantSet) (x : SlotId) : Bool :=
  decide ((gs.grants.filter fun g => (if x.rx then g.dst else g.src) == x.port).length < s.portCap x.port)

/-- The ring that probes a slot: the one that serves, or the other where that is FAILED. -/
def State.probeRing (s : State) (x : SlotId) : RingId :=
  if (s.ring (s.servingRing x)).lock = .failed then s.shadowRing x else s.servingRing x

/-- The slots of a probe whose working ring is the shadow change roles (R261). -/
def State.probeSwaps (s : State) (g : Grant) : List SlotId :=
  [g.txSlot, g.rxSlot].filter fun x => s.probeRing x != s.servingRing x

/-- A probe grant for a slot out of the pool: on the channel its ring holds; quarantined, with its mate first, and, once that pairing
has failed for good, with a slot that is not quarantined (R256, R258, R268). -/
def State.probe (s : State) (gs : GrantSet) (x : SlotId) : GrantSet :=
  let v := s.slot x
  let open_ (y : SlotId) := s.probeable y && !gs.uses y && s.hasRoom gs y
  if v.need = 0 || !open_ x then gs
  else match (s.ring (s.probeRing x)).channel with
    | none => gs
    | some n =>
      if !s.holds (s.probeRing x) n || n.val == 0 then gs
      else
        let far : Fin 64 := if x.rx then x.port - n else x.port + n
        let cands := ((allFin 8).map fun k => (⟨far, x.plane, !x.rx, k⟩ : SlotId)).filter fun y => open_ y && s.holds (s.probeRing y) n
        let mates := cands.filter fun y => v.mate == some y
        let choice := if v.isolated then cands.filter fun y => s.health y ≤ 1
          else if v.quarantined && v.mate.isSome then mates
          else mates ++ (cands.filter fun y => (s.slot y).need != 0) ++ cands
        match choice with
        | [] => gs
        | y :: _ =>
          let g : Grant := if x.rx then ⟨x.plane, y.port, y.slot, x.port, x.slot, true⟩
            else ⟨x.plane, x.port, x.slot, y.port, y.slot, true⟩
          if gs.joins g.plane g.src g.dst then gs
          else { gs with grants := gs.grants ++ [g], swaps := gs.swaps ++ s.probeSwaps g }

/-- A slot of a returning plane that holds no channel, and the first such slot facing it, are given one to be probed on. DEDUCED,
assumption 151. -/
def State.probeAim (s : State) (gs : GrantSet) (x : SlotId) : GrantSet :=
  let bare (y : SlotId) := (s.slot y).need != 0 && s.probeable y && !gs.uses y && (s.ring (s.probeRing y)).lock == .parked
    && !(s.ring (s.probeRing y)).sweepDue && !gs.aims (s.probeRing y)
  if x.rx || !bare x then gs
  else
    let facing := (allFin 64).findSome? fun d => if d = x.port then none
      else ((allFin 8).find? fun k => bare ⟨d, x.plane, true, k⟩).map fun k => (⟨d, x.plane, true, k⟩ : SlotId)
    match facing with
    | none => gs
    | some y =>
      let n := channelOf x.port y.port
      { gs with targets := gs.targets ++ [(s.probeRing x, n), (s.probeRing y, n)] }

/-- Slots out of the pool that the state lists. -/
def State.probeSlots (s : State) : List SlotId :=
  (s.drg.slots.filter fun e => e.2.need != 0).map fun e => slotOfNumber e.1

/-- The grant set for the next stride (R259). -/
def State.computeGrants (s : State) : GrantSet :=
  let stride := s.clk.stride.toNat
  let pairs := s.drg.pairs.filterMap fun (k, p) =>
    let w := min 128 (ceilDiv p.demand 45)
    if w = 0 then none else some (k, w)
  let before := fun (a b : Nat × Nat) => decide ((a.1 + stride) % 4096 < (b.1 + stride) % 4096)
  let wants := sortBy before pairs
  let cap (p : Nat) (rx : Bool) := min (s.usable (portOf p) rx * (100 - s.portThrottle (portOf p)) / 100) (s.portCap (portOf p))
  let t : Tally := ⟨[], Table.ofFn 0 64 (cap · false), Table.ofFn 0 64 (cap · true)⟩
  let t := wants.foldl (fun t (k, _) => t.takeSome (k / 64) (k % 64)) t
  let t := wants.foldl (fun t (k, _) =>
    let (i, d) := (k / 64, k % 64)
    if t.count.getD k 0 = 0 ∨ t.count.getD (d * 64 + i) 0 ≠ 0 then t else t.takeSome d i) t
  let t := fillRounds wants s.weight 129 t
  let order := sortBy before (t.count.filter fun e => e.2 != 0)
  let placed := order.foldl (fun acc (k, n) =>
    (List.range n).foldl (fun acc _ => s.placeOne acc (portOf (k / 64)) (portOf (k % 64))) acc) ((⟨[], [], []⟩ : GrantSet), [])
  let gs := s.probeSlots.foldl (fun gs x => s.probe gs x) placed.1.paired
  let gs := placed.2.foldl (fun gs (i, d) => s.aim gs i d) gs
  s.probeSlots.foldl (fun gs x => s.probeAim gs x) gs

/-- ALLOCATOR_CYCLE (R259): at stride cycle L − 384 the set for the next stride is computed. -/
def execAllocatorCycle (s : State) : Host.Outcome State Fault Refusal :=
  let s := s.advance (s.clk.len - 384)
  .next (if !s.isOn .allocator then s
    else
      let gs := s.computeGrants
      let starved := (s.drg.pairs.filter fun (k, p) => p.demand != 0 &&
        !gs.grants.any fun g => g.src.val * 64 + g.dst.val == k && !g.probe).length
      let s := if starved = 0 then s else s.bump (Reg.HRN_CNT_n + 28) starved
      { s with drg := { s.drg with computed := some gs } })

/-! ### The boundary -/

/-- Planes to be withdrawn at this boundary (R257). -/
def State.lostPlanes (s : State) : List (Fin 16) :=
  (allFin 16).filter fun p => (s.isOn (.plane p) || (s.unit (.plane p)).st == .starting) && s.planeLost p

/-- The slot changes its serving ring (R261). -/
def State.retune (s : State) (x : SlotId) : State :=
  (s.setSlot x { s.slot x with serving := !(s.slot x).serving }).bump Reg.HRN_CNT_n 1

/-- A target given to a ring (R251, R259, R261): it moves by heater offset from its calibrated code for the channel. A ring that is to
sweep, or that serves a grant of the set, is not moved. -/
def State.giveTarget (s : State) (gs : GrantSet) (r : RingId) (n : Fin 64) : State :=
  let v := s.ring r
  if v.lock = Lock.failed ∨ v.lock = Lock.sweeping ∨ v.sweepDue ∨ (gs.uses r.slot ∧ r = s.servingRing r.slot) then s
  else s.setRing r { v with lock := .acquiring, target := some n, channel := none, high := 0, heater := some (s.heaterCode r n.val) }

/-- Sweeps due start (R256); a slot of a returning plane whose time is up is quarantined (R268). -/
def State.startSweeps (s : State) : State :=
  let s := { s with drg := { s.drg with rings := s.drg.rings.mapVals fun _ (r : Ring) =>
    if r.sweepDue && r.lock != Lock.failed then
      { r with sweepDue := false, lock := .sweeping, channel := none }
    else { r with sweepDue := false } } }
  s.probeSlots.foldl (fun s x => match (s.slot x).probeBy with
    | some b => if b ≤ s.clk.bnd ∧ s.probeable x then s.quarantine x none (s.ring (s.servingRing x)).channel else s
    | none => s) s

/-- The grants of a held stride (R260, R267): those of the last stride, less the slots quarantined or failed since and the planes that
had already left ON then. -/
def State.heldGrants (s : State) : List Grant :=
  let ok (g : Grant) (x : SlotId) := decide (s.health x ≤ (if g.probe then 2 else 1))
  let gone (p : Fin 16) := (s.unit (.plane p)).st != .on && (s.unit (.plane p)).st != .starting
    && decide (s.drg.leftAt.getD p.val 0 < s.clk.bnd)
  s.drg.grants.filter fun g => ok g g.txSlot && ok g g.rxSlot && !gone g.plane

/-- Grants in force from this boundary: those computed, or, held, those of the last stride (R260). -/
def State.takeGrants (s : State) : State :=
  if !s.isOn .allocator then { s with drg := { s.drg with grants := [], computed := none, holds := 0 } }
  else match s.drg.computed with
    | some gs =>
      let s := gs.swaps.foldl (fun s x => s.retune x) s
      let s := gs.targets.foldl (fun s t => s.giveTarget gs t.1 t.2) s
      { s with drg := { s.drg with grants := gs.grants, computed := none, holds := 0 } }
    | none =>
      let s := { s with drg := { s.drg with grants := s.heldGrants, holds := s.drg.holds + 1 } }
      (s.bump (Reg.HRN_CNT_n + 4) 1).logFault Flt.HRN_HOLD blkHRN 0

/-- A slot at the start of a stride: a serving ring couples only where it is LOCKED or DRIFT (R246), and a stride without an OK beacon
ends a run of them (R256). -/
def State.newStride (s : State) (k : Nat) (x : Slot) : Slot :=
  let l := (s.ring ⟨slotOfNumber k, x.serving⟩).lock
  { x with dark := l != .locked && l != .drift, discard := false, sent := 400, good := if x.okNow then x.good else 0, okNow := false }

/-- What the granted slots send first in the new stride (R254): the beacons of coupled transmit slots, and, on data grants, idle fill
that carries the acknowledgement of the reverse pair. -/
def State.openStride (s : State) : State :=
  let live := s.drg.grants.filter fun g => !(s.slot g.txSlot).dark
  let s := live.foldl (fun (s : State) g => s.emit (.lineBeacon g.txSlot (g.beacon s.clk.stride))) s
  (live.filter fun g => !g.probe).foldl (fun s g => s.sendLink g.src g.dst 0 0) s

/-- Photonics at a boundary, orders 2 and 3 of R34: attribution, grants, sweeps, and the new stride's slots. A slot that is
quarantined, failed or off the pool in a published set carries no data (R35). -/
def State.photonicBoundary (s : State) : State :=
  let s := s.attribute
  let s := s.takeGrants
  let s := s.startSweeps
  let s := { s with drg := { s.drg with planeDark := [], tapDark := [], slots := s.drg.slots.mapVals fun k x => s.newStride k x } }
  s.openStride

/-- A plane leaves ON (R267, R268): the rings that are LOCKED or DRIFT keep their channel and their calibrated code for the return. -/
def State.planeLeaves (s : State) (p : Fin 16) : State :=
  { s with drg := { s.drg with
      leftAt := s.drg.leftAt.put p.val s.clk.bnd
      rings := s.drg.rings.mapVals fun k (r : Ring) =>
        if k / 32 % 16 = p.val ∧ r.lock ≠ Lock.failed then
          match (if r.lock = Lock.locked ∨ r.lock = Lock.drift then r.channel else none) with
          | some n => { r with was := some n, wasCode := s.heaterCode ⟨slotOfNumber k, k % 2 == 1⟩ n.val }
          | none => { r with was := none }
        else r } }

/-- A ring PARKED with its last heater code, holding no channel. -/
def Ring.parked (r : Ring) : Ring :=
  if r.lock = Lock.failed then r
  else { r with lock := .parked, channel := none, target := none, sweepDue := false, reacquireBy := none, high := 0 }

/-- The rings of a plane that reaches OFF are PARKED with their last heater codes (R267). -/
def State.parkPlane (s : State) (p : Fin 16) : State :=
  { s with drg := { s.drg with rings := s.drg.rings.mapVals fun k (r : Ring) => if k / 32 % 16 = p.val then r.parked else r } }

/-- The rings of a port that reaches OFF lose power, and hold no channel from then on (R247). -/
def State.parkPort (s : State) (p : Fin 64) : State :=
  { s with drg := { s.drg with rings := s.drg.rings.mapVals fun k (r : Ring) =>
      if k / 512 % 64 = p.val then { r.parked with was := none } else r } }

/-- A ring returns with its plane (R268): it acquires its old channel from its last heater code, corrected by what the calibrated code
of that channel has moved by since. -/
def State.wakeRing (s : State) (k : Nat) (r : Ring) : Ring :=
  match r.was with
  | some n =>
    let now := s.heaterCode ⟨slotOfNumber k, k % 2 == 1⟩ n.val
    { r with lock := .acquiring, target := some n, was := none, heater := some (r.heater.getD now + (now - r.wasCode)) }
  | none => r

/-- A slot is to be probed: it returns with one OK beacon, and is quarantined without one within 8 strides (R268). -/
def State.probeSlot (s : State) (x : SlotId) : State :=
  let v := s.slot x
  if v.quarantined then s
  else s.setSlot x { v with need := 1, good := 0, okNow := false, mate := none, probeBy := some (s.clk.bnd + 8) }

/-- The slots of a plane. -/
def planeSlots (p : Fin 16) : List SlotId :=
  (allFin 64).flatMap fun d => (allFin 8).flatMap fun k => [⟨d, p, false, k⟩, ⟨d, p, true, k⟩]

/-- A plane enters STARTING (R268): rings that held a channel acquire it again, and each slot is probed. -/
def State.wakePlane (s : State) (p : Fin 16) : State :=
  let s := { s with drg := { s.drg with rings := s.drg.rings.mapVals fun k (r : Ring) =>
      if k / 32 % 16 = p.val ∧ r.lock ≠ Lock.failed then s.wakeRing k r else r } }
  (planeSlots p).foldl (fun s x => s.probeSlot x) s

/-- A plane may reach OFF (R267): the two strides of its withdrawal have passed, and every packet last sent on it is acknowledged. -/
def State.planeDrained (s : State) (p : Fin 16) : Bool :=
  decide (s.drg.leftAt.getD p.val 0 + 2 ≤ s.clk.bnd) &&
    s.drg.pairs.all fun e => e.2.unacked.all fun u => u.slot.plane != p && !u.owed.contains p

/-- The packets last sent on a plane are to be replayed on others (R267). -/
def State.replayPlane (s : State) (p : Fin 16) : State :=
  { s with drg := { s.drg with pairs := s.drg.pairs.mapVals fun _ (q : Pair) =>
      { q with unacked := q.unacked.map fun u =>
          if u.slot.plane = p then { u with again := true, owed := if u.owed.contains p then u.owed else p :: u.owed } else u } } }

/-- A plane in STARTING may reach ON: each of its slots is in the pool, QUARANTINED or FAILED (R268). -/
def State.planeReady (s : State) (p : Fin 16) : Bool :=
  s.drg.slots.all fun e => e.1 / 32 % 16 != p.val || e.2.need == 0 || e.2.quarantined
    || s.health (slotOfNumber e.1) == 3

end Sys2Proof.Machine
end

