-- ==== Sys2Proof/Machine/DraughtLink.lean ====
section
/-! DEFINITION. Draught packets and the link between two ports: sending, sequence numbers, acknowledgement, replay, credits
and withdrawal (R254, R262 to R265, R295 to R301). -/

namespace Sys2Proof.Machine

/-! ### Packets as bytes (R295 to R298) -/

/-- Words named by a len field. -/
def lenWords (len : Nat) : Nat := if len % 64 = 0 then 64 else len % 64

/-- The line flit of a packet (R295 to R298). -/
def Packet.flit (p : Packet) (src : Fin 64) (seq : Nat) : List Byte :=
  let w0 := putBits 31 28 p.kind + putBits 27 22 src.val + putBits 21 16 p.len
  let ws : List Nat :=
    if p.kind = 5 then
      [w0 + putBits 15 15 (bitOf (p.data ≠ [])) + putBits 11 8 p.status, putBits 31 12 seq, putBits 31 12 p.reqSeq]
    else
      [w0 + putBits 15 4 p.job + putBits 3 1 (p.addr / 4 % 8), putBits 31 12 seq + putBits 11 0 (p.addr / 2 ^ 37),
       p.addr / 32 % 2 ^ 32]
  let head := bytesOf (ws.map (BitVec.ofNat 32))
  head ++ natLe (crc32c (head ++ p.data)).toNat 4 ++ p.data

/-- A line flit read: its source port, the low 20 bits of its number and the packet; none where its CRC, its kind or its
length fails (R295, R296). LINK packets answer with kind 6 and their words as payload. -/
def readFlit (bs : List Byte) : Option (Fin 64 × Nat × Packet) :=
  match wordsOf (bs.take 16) with
  | [w0, w1, w2, w3] =>
    let payload := bs.drop 16
    let kind := w0.field 31 28
    let src := portOf (w0.field 27 22)
    let len := w0.field 21 16
    if crc32c (bs.take 12 ++ payload) ≠ w3 ∨ kind = 0 ∨ 8 ≤ kind then none
    else if kind = 6 then
      (if payload = [] then some (src, w1.field 31 12, ⟨6, w0.field 21 18, 0, 0, bytesOf [w0, w1, w2], 0, 0⟩) else none)
    else if kind = 5 then
      let want := if w0.bit 15 then 4 * lenWords len else 0
      if payload.length = want then
        some (src, w1.field 31 12, ⟨5, len, 0, 0, payload, w0.field 11 8, w2.field 31 12⟩)
      else none
    else
      let addr := w1.field 11 0 * 2 ^ 37 + w2.toNat * 32 + w0.field 3 1 * 4
      let want := if kind = 1 then 0 else 4 * lenWords len
      if payload.length = want then some (src, w1.field 31 12, ⟨kind, len, w0.field 15 4, addr, payload, 0, 0⟩) else none
  | _ => none

/-! ### Pairs -/

/-- The number under which a pair is kept. -/
def pairKey (src dst : Fin 64) : Nat := src.val * 64 + dst.val

def State.pair (s : State) (k : Nat) : Pair := s.drg.pairs.getD k .reset
def State.setPair (s : State) (k : Nat) (v : Pair) : State :=
  { s with drg := { s.drg with pairs := s.drg.pairs.put k v } }

/-- Bytes a packet takes on the line and in the replay and reorder buffers. -/
def Packet.size (p : Packet) : Nat := 16 + p.data.length

/-- A request needs a credit (R301). -/
def Packet.isRequest (p : Packet) : Bool := p.kind != 5 && p.kind != 6

/-- The 4 MiB replay buffer of a port (R263). -/
def State.replayUsed (s : State) (p : Fin 64) : Nat :=
  s.drg.pairs.foldl (fun n e => if e.1 / 64 = p.val then n + (e.2.unacked.map fun u => u.packet.size).sum else n) 0

def State.replayFull (s : State) (p : Fin 64) (n : Nat) : Bool := decide (4 * 2 ^ 20 < s.replayUsed p + n)

/-- The 1 MiB reorder buffer of a port (R262). -/
def State.reorderUsed (s : State) (p : Fin 64) : Nat :=
  s.drg.pairs.foldl (fun n e => if e.1 % 64 = p.val then n + (e.2.reorder.map fun u => u.packet.size).sum else n) 0

/-- The first byte of line rate at which a packet can start on a slot now, where it still ends before the guard (R254). -/
def State.slotStart (s : State) (x : SlotId) (size : Nat) : Option Nat :=
  let start := max (s.slot x).sent (max 400 (ceilDiv (25 * s.clk.cycle) 2))
  if 2 * (start + size) ≤ 25 * (s.clk.len - 8) then some start else none

/-- The slot that carries the next packet of a pair (R254): it becomes free earliest, then the lowest plane and slot. A slot
that has left the pool or is decoupled carries none (R35, R246, R249). -/
def State.chooseSlot (s : State) (src dst : Fin 64) (size : Nat) : Option (Grant × Nat) :=
  let opts := s.drg.grants.filterMap fun g =>
    if g.src = src ∧ g.dst = dst ∧ !g.probe ∧ s.carries g.txSlot ∧ s.health g.rxSlot ≤ 1 then
      (s.slotStart g.txSlot size).map fun t => (g, t)
    else none
  opts.foldl (fun best o => match best with
    | none => some o
    | some m =>
      if o.2 < m.2 ∨ (o.2 = m.2 ∧ o.1.txSlot.number < m.1.txSlot.number) then some o else some m) none

/-- A packet sent on a slot: the line flit leaves, and the slot is busy to its end. -/
def State.putLine (s : State) (g : Grant) (start seq : Nat) (p : Packet) : State :=
  let x := g.txSlot
  let s := s.setSlot x { s.slot x with sent := start + p.size }
  (s.emit (.line x (p.flit g.src seq))).bump (portReg g.src Reg.DRG_CNT_n) 1

/-- The next packet of a queue that may go: a request only with a credit (R301). -/
def Pair.nextOut (p : Pair) : Option (Packet × List Packet) :=
  let spare := decide (p.reqSent - p.reqBack < p.credits)
  go spare p.queue
where
  go (spare : Bool) : List Packet → Option (Packet × List Packet)
    | [] => none
    | x :: t => if x.isRequest && !spare then (go spare t).map fun (y, r) => (y, x :: r) else some (x, t)

/-- A request of the table is numbered as it is first sent. -/
def State.numberRequest (s : State) (k seq : Nat) (p : Packet) : State :=
  match s.drg.requests.find? fun r => r.pair == k && r.seq.isNone && r.packet == p with
  | none => s
  | some q => { s with drg := { s.drg with requests := s.drg.requests.map fun (r : DrgRequest) =>
      if r.id = q.id then { r with seq := some seq } else r } }

/-- One packet of a pair sent, replays first (R254, R262, R263). -/
def State.sendOne (s : State) (src dst : Fin 64) : Option State :=
  let k := pairKey src dst
  let p := s.pair k
  match p.unacked.find? fun u => u.again with
  | some u =>
    match s.chooseSlot src dst u.packet.size with
    | none => none
    | some (g, t) =>
      let u' := { u with last := s.clk.bnd, slot := g.txSlot, replays := u.replays + 1, again := false }
      let s := s.setPair k { p with unacked := p.unacked.map fun v => if v.seq = u.seq then u' else v }
      some ((s.putLine g t u.seq u.packet).bump (portReg src (Reg.DRG_CNT_n + 8)) 1)
  | none =>
    match p.nextOut with
    | none => none
    | some (x, rest) =>
      if s.replayFull src x.size ∨ 2 ^ 18 ≤ p.unacked.length then none
      else match s.chooseSlot src dst x.size with
        | none => none
        | some (g, t) =>
          let seq := p.next
          let s := s.setPair k { p with next := (seq + 1) % 2 ^ 24, queue := rest,
                                        reqSent := p.reqSent + bitOf x.isRequest,
                                        unacked := p.unacked ++ [⟨seq, x, s.clk.bnd, g.txSlot, 0, false, []⟩] }
          some ((s.numberRequest k seq x).putLine g t seq x)

/-- Packets of a pair sent while slots and credits allow. -/
def State.sendMany (s : State) (src dst : Fin 64) : Nat → State
  | 0 => s
  | n + 1 => match s.sendOne src dst with
    | none => s
    | some s' => s'.sendMany src dst n

/-- The number lies ahead of the expected one. -/
def seqAhead (expect seq : Nat) : Bool :=
  let d := (seq + 2 ^ 24 - expect) % 2 ^ 24
  decide (0 < d ∧ d < 2 ^ 23)

/-- The later of two 24-bit numbers. -/
def laterSeq (a b : Nat) : Nat := if seqAhead a b then b else a

/-- A discarded or withdrawn packet: both ends go on past it at the next boundary (R263, R264). A request that has not been delivered
holds its credit no longer. DEDUCED, assumption 152. -/
def State.resyncPast (s : State) (k seq : Nat) : State :=
  let p := s.pair k
  let past := (seq + 1) % 2 ^ 24
  let freed := p.unacked.any fun u => u.seq == seq && u.packet.isRequest && (u.seq == p.expect || seqAhead p.expect u.seq)
  s.setPair k { p with unacked := p.unacked.filter fun u => u.seq != seq, reqSent := p.reqSent - bitOf freed,
                       resync := some (laterSeq (p.resync.getD past) past) }

/-- A withdrawn request that its port's agent has not taken is not applied any more (R264); its credit returns (R301). -/
def State.dropDelivered (s : State) (k seq : Nat) : State :=
  let src := portOf (k / 64)
  let dst := portOf (k % 64)
  let mine (e : Delivered) : Bool := e.src == src && e.seq == seq
  let l := s.drg.inbox.getD dst.val []
  if !l.any mine then s
  else
    let s := { s with drg := { s.drg with inbox := s.drg.inbox.put dst.val (l.filter fun e => !mine e) } }
    if src = dst then s
    else
      let v := s.pair k
      (s.setPair k { v with taken := (v.taken + 1) % 2 ^ 20 }).sendLink dst src 4 ((v.taken + 1) % 2 ^ 20)

/-- The request a packet carried ends as a withdrawn one at the next boundary (R264). -/
def State.withdraw (s : State) (k seq : Nat) : State :=
  let s := s.dropDelivered k seq
  { s with drg := { s.drg with requests := s.drg.requests.map fun (r : DrgRequest) =>
      if r.pair = k ∧ r.seq = some seq then { r with verdict := true } else r } }

/-- Packets that are to be replayed a ninth time are discarded instead (R263). -/
def State.limitReplays (s : State) (k : Nat) : State :=
  ((s.pair k).unacked.filter fun u => u.again && decide (8 ≤ u.replays)).foldl (fun (s : State) u =>
    ((s.resyncPast k u.seq).withdraw k u.seq).logFault Flt.DRG_REPLAY_LIMIT (blkDRG (k / 64)) k) s

/-- What a pair may send now. -/
def State.pumpPair (s : State) (src dst : Fin 64) : State := (s.limitReplays (pairKey src dst)).sendMany src dst 8192

/-- A packet handed to the agent of its port. -/
def State.handOver (s : State) (src dst : Fin 64) (seq : Nat) (p : Packet) : State :=
  let e : Delivered := ⟨src, seq, p⟩
  if p.kind = 5 then
    { s with drg := { s.drg with resps := s.drg.resps.put dst.val (s.drg.resps.getD dst.val [] ++ [e]) } }
  else { s with drg := { s.drg with inbox := s.drg.inbox.put dst.val (s.drg.inbox.getD dst.val [] ++ [e]) } }

/-- A packet joins the queue of its pair. One whose port is the port it leaves by crosses no light and is handed over at once. DEDUCED,
assumption 138. -/
def State.portSend (s : State) (src dst : Fin 64) (p : Packet) : State :=
  let k := pairKey src dst
  let v := s.pair k
  if src = dst then
    ((s.setPair k { v with next := (v.next + 1) % 2 ^ 24 }).numberRequest k v.next p).handOver src dst v.next p
  else (s.setPair k { v with queue := v.queue ++ [p] }).pumpPair src dst

/-- A request sent through a port, on behalf of its owner. -/
def State.portRequest (s : State) (src dst : Fin 64) (p : Packet) (owner : DrgOwner) (remote : Bool) : State :=
  let r : DrgRequest := ⟨s.nextId, pairKey src dst, none, p, s.now, owner, remote, false⟩
  let s := { s with nextId := s.nextId + 1, drg := { s.drg with requests := s.drg.requests ++ [r] } }
  s.portSend src dst p

/-! ### Receiving -/

/-- The 24-bit number nearest the expected one with the given low 20 bits (R300). -/
def rebuildSeq (expect low : Nat) : Nat :=
  let d := (low + 2 ^ 20 - expect % 2 ^ 20) % 2 ^ 20
  if d < 2 ^ 19 then (expect + d) % 2 ^ 24 else (expect + 2 ^ 24 + d - 2 ^ 20) % 2 ^ 24

/-- A packet handed to the agent of its port, exactly once and in order (R262). -/
def State.deliver (s : State) (src dst : Fin 64) (seq : Nat) (p : Packet) : State :=
  (s.bump (portReg dst (Reg.DRG_CNT_n + 4)) 1).handOver src dst seq p

/-- Packets held ahead of a gap that is closed are delivered (R262). -/
def State.drainReorder (s : State) (src dst : Fin 64) : Nat → State
  | 0 => s
  | n + 1 =>
    let k := pairKey src dst
    let p := s.pair k
    match p.reorder.find? fun h => h.seq == p.expect with
    | none => s.setPair k { p with gapAt := if p.reorder = [] then none else some (p.gapAt.getD s.now) }
    | some h =>
      let s := s.setPair k { p with expect := (p.expect + 1) % 2 ^ 24, gapAt := none,
                                    reorder := p.reorder.filter fun u => u.seq != h.seq }
      (s.deliver src dst h.seq h.packet).drainReorder src dst n

/-- An acknowledgement of everything a receiver has delivered of a pair (R262, R299). -/
def State.sendAck (s : State) (src dst : Fin 64) : State :=
  s.sendLink dst src 1 0

/-- A sequenced packet that has arrived on a receive slot (R262). -/
def State.arrive (s : State) (src dst : Fin 64) (x : SlotId) (low : Nat) (p : Packet) : State :=
  let k := pairKey src dst
  let v := s.pair k
  let seq := rebuildSeq v.expect low
  if seq = v.expect then
    let s := s.setPair k { v with expect := (v.expect + 1) % 2 ^ 24, gapAt := none }
    ((s.deliver src dst seq p).drainReorder src dst (v.reorder.length + 1)).sendAck src dst
  else if seqAhead v.expect seq then
    (if v.reorder.any (fun h => h.seq == seq) ∨ 2 ^ 20 < s.reorderUsed dst + p.size then s
     else s.setPair k { v with reorder := v.reorder ++ [⟨seq, p, x, s.clk.bnd⟩], gapAt := some (v.gapAt.getD s.now) })
  else (s.bump (portReg dst (Reg.DRG_CNT_n + 12)) 1).sendAck src dst

/-- The agent of a port takes the oldest request delivered to it, and returns its credit (R301). -/
def State.takeInbox (s : State) (p : Fin 64) : Option (Delivered × State) :=
  match s.drg.inbox.getD p.val [] with
  | [] => none
  | e :: rest =>
    let k := pairKey e.src p
    let v := s.pair k
    let s := { s with drg := { s.drg with inbox := s.drg.inbox.put p.val rest } }
    if e.src = p then some (e, s)
    else
    let s := s.setPair k { v with taken := (v.taken + 1) % 2 ^ 20 }
    some (e, s.sendLink p e.src 4 ((v.taken + 1) % 2 ^ 20))

/-! ### LINK packets at the source (R299) -/

/-- A cumulative acknowledgement: every lower number has been delivered. -/
def State.takeAck (s : State) (src dst : Fin 64) (low : Nat) : State :=
  let k := pairKey src dst
  let p := s.pair k
  let base := match p.unacked with
    | u :: _ => u.seq
    | [] => p.next
  let ack := rebuildSeq base low
  let s := s.setPair k { p with unacked := p.unacked.filter fun u => !(seqAhead u.seq ack) }
  s.pumpPair src dst

/-- A negative acknowledgement: replay from the first missing number (R263). -/
def State.takeNak (s : State) (src dst : Fin 64) (low : Nat) : State :=
  let k := pairKey src dst
  let p := s.pair k
  let base := match p.unacked with
    | u :: _ => u.seq
    | [] => p.next
  let seq := rebuildSeq base low
  let s := s.setPair k { p with unacked := p.unacked.map fun u => if seqAhead u.seq seq then u else { u with again := true } }
  s.pumpPair src dst

/-- A slot-lost notice: the slot sends no more in this stride, and every packet sent on it that is not acknowledged is replayed, of whichever pair
of the port (R256). -/
def State.takeSlotLost (s : State) (x : SlotId) : State :=
  let s := s.setSlot x { s.slot x with dark := true }
  let s := { s with drg := { s.drg with pairs := s.drg.pairs.mapVals fun k (p : Pair) =>
    if k / 64 = x.port.val then
      { p with unacked := p.unacked.map fun (u : Sent) => if u.slot = x then { u with again := true } else u }
    else p } }
  (s.drg.pairs.filter fun (e : Nat × Pair) => e.1 / 64 == x.port.val).foldl (fun (s : State) (e : Nat × Pair) => s.pumpPair x.port (portOf (e.1 % 64))) s

/-- The running total of credits returned (R299, R301). LINK packets are not numbered: a total older than the last one taken is let be. -/
def State.takeCredit (s : State) (src dst : Fin 64) (total : Nat) : State :=
  let k := pairKey src dst
  let p := s.pair k
  let d := (total + 2 ^ 20 - p.reqBack % 2 ^ 20) % 2 ^ 20
  (if p.reqSent < p.reqBack + d then s else s.setPair k { p with reqBack := p.reqBack + d }).pumpPair src dst

/-- A LINK packet received by `src` from `dst` (R299). -/
def State.takeLink (s : State) (src dst : Fin 64) (op ack : Nat) (w2 : Word) : State :=
  let s := s.takeAck src dst ack
  if op = 2 then s.takeNak src dst (w2.field 31 12)
  else if op = 3 then s.takeSlotLost ⟨src, ⟨w2.field 15 12 % 16, Nat.mod_lt _ (by decide)⟩, false,
      ⟨w2.field 11 9 % 8, Nat.mod_lt _ (by decide)⟩⟩
  else if op = 4 then s.takeCredit src dst (w2.field 19 0)
  else s

def execLinkIdle (src : Fin 64) (dst : Fin 64) (ack : BitVec 20) (s : State) : Host.Outcome State Fault Refusal :=
  .next (s.takeLink src dst 0 ack.toNat 0)

def execLinkAck (src : Fin 64) (dst : Fin 64) (ack : BitVec 20) (s : State) : Host.Outcome State Fault Refusal :=
  .next (s.takeLink src dst 1 ack.toNat 0)

def execLinkNak (src : Fin 64) (dst : Fin 64) (ack : BitVec 20) (missing : BitVec 20) (s : State) :
    Host.Outcome State Fault Refusal :=
  .next (s.takeLink src dst 2 ack.toNat (BitVec.ofNat 32 (putBits 31 12 missing.toNat)))

def execLinkSlotLost (src : Fin 64) (dst : Fin 64) (ack : BitVec 20) (plane : Fin 16) (tx : Fin 8) (rx : Fin 8)
    (s : State) : Host.Outcome State Fault Refusal :=
  .next (s.takeLink src dst 3 ack.toNat
    (BitVec.ofNat 32 (putBits 15 12 plane.val + putBits 11 9 tx.val + putBits 8 6 rx.val)))

def execLinkCredit (src : Fin 64) (dst : Fin 64) (ack : BitVec 20) (credits : BitVec 20) (s : State) :
    Host.Outcome State Fault Refusal :=
  .next (s.takeLink src dst 4 ack.toNat (BitVec.ofNat 32 credits.toNat))

/-- DRAUGHT_PACKET_RECEIVE (R255, R256, R262, R295, R296): a line flit on a granted receive slot. A slot already WRONG_LINE or DARK in
this stride has its packets discarded, each with a negative acknowledgement; a decoupled ring receives nothing; a probe grant carries no
data, but a header that names another source is WRONG_LINE on it too. -/
def execDraughtPacketReceive (x : SlotId) (flit : List Byte) (cyc : Nat) (s : State) :
    Host.Outcome State Fault Refusal :=
  let s := s.advance cyc
  .next (if !x.rx then s else match s.grantOf x with
    | none => s
    | some g =>
      if (s.slot x).discard then (if g.probe then s else s.sendNak g.src g.dst)
      else if (s.slot x).dark then s
      else match readFlit flit with
        | none => s.bump (portReg x.port (Reg.DRG_CNT_n + 16)) 1
        | some (src, low, p) =>
          if src ≠ g.src then (if g.probe then s.lineEvent g true else (s.lineEvent g true).sendNak g.src g.dst)
          else if g.probe || !s.carries x then s
          else if p.kind = 6 then
            match wordsOf p.data with
            | [_, w1, w2] => s.takeLink x.port src p.len (w1.field 31 12) w2
            | _ => s
          else s.arrive src x.port x low p)

/-- DRAUGHT_GAP_NAK (R262): a gap of 128 stride cycles is negatively acknowledged. -/
def execDraughtGapNak (src : Fin 64) (dst : Fin 64) (cyc : Nat) (s : State) : Host.Outcome State Fault Refusal :=
  let s := s.advance cyc
  let k := pairKey src dst
  let p := s.pair k
  .next (match p.gapAt with
    | none => s
    | some t =>
      if s.now < t + 128 then s
      else (s.setPair k { p with gapAt := some s.now }).sendNak src dst)

/-! ### Time-outs (R263, R264) -/

/-- DRAUGHT_REPLAY_TIMEOUT (R43, R263): two boundaries since the last transmission; after 8 replays the packet is discarded. -/
def execDraughtReplayTimeout (src : Fin 64) (dst : Fin 64) (seq : BitVec 24) (cyc : Nat) (s : State) :
    Host.Outcome State Fault Refusal :=
  let s := s.advance cyc
  let k := pairKey src dst
  let p := s.pair k
  .next (match p.unacked.find? fun u => u.seq == seq.toNat with
    | none => s
    | some u =>
      if s.clk.bnd < u.last + 2 ∨ u.again then s
      else
        (s.setPair k { p with unacked := p.unacked.map fun v => if v.seq = u.seq then { v with again := true } else v }).pumpPair
          src dst)

/-- DRAUGHT_REQUEST_TIMEOUT (R264): 8 µs after its issue a request for a port of this module is withdrawn. -/
def execDraughtRequestTimeout (id : Nat) (cyc : Nat) (s : State) : Host.Outcome State Fault Refusal :=
  let s := s.advance cyc
  .next (match s.drg.requests.find? fun r => r.id == id with
    | none => s
    | some r =>
      if r.remote || r.verdict || decide (s.now < r.issued + 8000) then s
      else
        let s := { s with drg := { s.drg with requests := s.drg.requests.map fun (q : DrgRequest) =>
          if q.id = id then { q with verdict := true } else q } }
        match r.seq with
        | some q =>
          let s := s.dropDelivered r.pair q
          if ((s.pair r.pair).unacked.any fun u => u.seq == q) then s.resyncPast r.pair q else s
        | none =>
          let p := s.pair r.pair
          s.setPair r.pair { p with queue := p.queue.erase r.packet })

/-! ### The boundary -/

/-- Packets renumbered from `n` on, to be sent again. -/
def renumber (n : Nat) (l : List Sent) : List Sent :=
  l.zipIdx.map fun (u, i) => { u with seq := (n + i) % 2 ^ 24, again := true }

/-- A pair resynchronises past what was discarded or withdrawn (R263 to R265). Both ends agree on what has been delivered, which is
acknowledged with it. What is left goes on at its first number, which is past every packet discarded; an undelivered packet older than
one of those has all that is left renumbered from the next new number, so that none is lost, repeated or held behind a number that
never comes. DEDUCED, assumption 152. -/
def Pair.resynced (p : Pair) : Pair :=
  match p.resync with
  | none => p
  | some past =>
    let left := p.unacked.filter fun u => u.seq == p.expect || seqAhead p.expect u.seq
    let p := { p with resync := none, gapAt := none }
    if left.any fun u => seqAhead u.seq past then
      { p with unacked := renumber p.next left, expect := p.next, reorder := [], next := (p.next + left.length) % 2 ^ 24 }
    else
      let q := match left with
        | u :: _ => u.seq
        | [] => p.next
      { p with unacked := left, expect := q, reorder := p.reorder.filter fun h => seqAhead q h.seq || h.seq == q }

/-- The new number of a request's packet where its pair was renumbered. -/
def Pair.renamed (old new : Pair) (seq : Nat) : Nat :=
  match (old.unacked.filter fun u => u.seq == old.expect || seqAhead old.expect u.seq).findIdx? fun u => u.seq == seq with
  | some i => ((new.unacked.map (·.seq)).getD i seq)
  | none => seq

/-- The pairs that resynchronise at a boundary, with the numbers of their requests. -/
def State.resyncPairs (s : State) : State :=
  let moved := s.drg.pairs.filter fun e => e.2.resync.isSome
  { s with drg := { s.drg with
      pairs := s.drg.pairs.mapVals fun _ (p : Pair) => p.resynced
      requests := s.drg.requests.map fun (r : DrgRequest) => match Table.find? moved r.pair, r.seq with
        | some p, some q => { r with seq := some (p.renamed p.resynced q) }
        | _, _ => r } }

/-- Every pair that holds a data grant is listed, and so has its share of the credits from the start of the stride (R301). -/
def State.openPairs (s : State) : State :=
  { s with drg := { s.drg with pairs := (s.drg.grants.filter fun g => !g.probe).foldl (fun (t : Table Pair) g =>
      t.put (pairKey g.src g.dst) (t.getD (pairKey g.src g.dst) .reset)) s.drg.pairs } }

/-- Pairs resynchronise, the receivers divide their shared credits (R301), and queued packets leave on the new stride's
slots. -/
def State.linkBoundary (s : State) : State :=
  let shared (d : Nat) : Nat := (s.drg.grants.filter fun g => g.dst.val == d && !g.probe).length
  let held (k : Nat) : Nat := (s.drg.grants.filter fun g => g.src.val * 64 + g.dst.val == k && !g.probe).length
  let s := s.resyncPairs.openPairs
  let s := { s with drg := { s.drg with pairs := s.drg.pairs.mapVals fun k (p : Pair) =>
    let n := shared (k % 64)
    { p with credits := 16 + (if n = 0 then 0 else 2048 * held k / n) } } }
  s.drg.pairs.foldl (fun s e =>
    (s.drainReorder (portOf (e.1 / 64)) (portOf (e.1 % 64)) (e.2.reorder.length + 1)).pumpPair
      (portOf (e.1 / 64)) (portOf (e.1 % 64))) s

/-- The requests whose verdict has fallen, taken from the table at the boundary (R264). -/
def State.takeVerdicts (s : State) : List DrgRequest × State :=
  (s.drg.requests.filter (·.verdict), { s with drg := { s.drg with requests := s.drg.requests.filter fun r => !r.verdict } })

/-- Every pair that includes a port is reset as its unit leaves ON; its requests in flight are withdrawn (R265). -/
def State.resetPort (s : State) (p : Fin 64) : State :=
  let mine (k : Nat) : Bool := k / 64 == p.val || k % 64 == p.val
  { s with drg := { s.drg with
      pairs := s.drg.pairs.filter fun e => !mine e.1
      inbox := s.drg.inbox.mapVals fun d (l : List Delivered) =>
        if d = p.val then [] else l.filter fun e => e.src != p
      resps := s.drg.resps.mapVals fun d (l : List Delivered) =>
        if d = p.val then [] else l.filter fun e => e.src != p
      requests := s.drg.requests.map fun (r : DrgRequest) => if mine r.pair then { r with verdict := true } else r } }

end Sys2Proof.Machine
end

