-- ==== Sys2Proof/Machine/Adverts.lean ====
section
/-! DEFINITION. The routing tables as a unit of state, and route advertisements as they arrive (R376, R384, R386, R401). -/

namespace Sys2Proof.Machine

/-- The routing tables. -/
def State.routing (s : State) : Routing := s.fab.routing
def State.setRouting (s : State) (r : Routing) : State := { s with fab := { s.fab with routing := r } }
def Routing.table (r : Routing) (e : Bool) : RoutingTable := if e then r.b else r.a
def Routing.setTable (r : Routing) (e : Bool) (t : RoutingTable) : Routing := if e then { r with b := t } else { r with a := t }
def Routing.active (r : Routing) : Bool := r.b.st == .active
def RoutingTable.word (t : RoutingTable) (i : Nat) : Word := t.words.getD i 0

/-- The table that is DRAINING. -/
def Routing.draining (r : Routing) : Option Bool :=
  if r.a.st = .draining then some false else if r.b.st = .draining then some true else none

/-- Stride numbers of 32 bits: `a` is `b` or later. -/
def notBefore (a b : Word) : Bool := decide ((a - b).toNat < 2 ^ 31)

/-- An advertisement differs from what this module said for the same stride number in its epoch, or in its epoch or generation (R375,
R376). -/
def Routing.otherEpoch (r : Routing) (a : Advert) : Bool := r.said.any fun (k, e, _) => k == a.stride && e != a.epoch
def Routing.differs (r : Routing) (a : Advert) : Bool :=
  r.said.any fun (k, e, g) => k == a.stride && (e != a.epoch || g != a.generation)
def Routing.agrees (r : Routing) (a : Advert) : Bool := r.said.any fun (k, e, g) => k == a.stride && e == a.epoch && g == a.generation

/-- The sender of an advertisement has gone to the other epoch and this module has not (R384): it was heard in this module's epoch before, or this
module has never switched. Where it is heard for the first time after a switch of this module, which of the two has missed one cannot be told, and
the split is the fault of R391. DESIGN CHOICE, assumption 202. -/
def Routing.goes (r : Routing) (team : Nat) (a : Advert) : Bool :=
  (match r.adverts.find? team with
    | some p => p.epoch != a.epoch || p.went
    | none => r.switched.isNone)
  && !r.said.any fun (k, e, _) => k == a.stride && e == a.epoch

/-- An advertisement says that its sender has drained the DRAINING table, and is stamped at or after the switch (R386). -/
def Routing.saysDrained (r : Routing) (a : Advert) : Bool :=
  match r.draining with
  | some e => a.drained.testBit (bitOf e) && r.switched.all (notBefore a.stride) && !r.drained.contains a.sender
  | none => false

/-- An advertisement of a team's peer taken (R376). The first that names the other epoch, from a peer that has gone to it where this module has not,
logs FAB_EPOCH_MISS (R384). -/
def State.takeAdvert (s : State) (team : Nat) (a : Advert) : State :=
  let r := s.routing
  let a := { a with went := r.goes team a }
  let miss := a.went && r.otherEpoch a && !r.missed
  let s := s.setRouting { r with adverts := r.adverts.put team a, missed := r.missed || miss
                                 drained := if r.saysDrained a then r.drained ++ [a.sender] else r.drained }
  if miss then s.logFault Flt.FAB_EPOCH_MISS blkFAB a.sender else s

/-- The words of a ROUTE_ADV frame (R401). -/
def advertOf (ws : List Word) : Advert :=
  let w (i : Nat) : Word := ws.getD i 0
  { sender := (w 0).field 21 17, stride := w 1, master := (w 0).field 16 12, aligned := (w 0).bit 11, epoch := (w 0).bit 10,
    drained := (w 0).field 9 8, generation := (w 2).field 31 16, teams := (w 2).field 9 0,
    relay := (List.range 10).map fun t => ((w (3 + t)).bit 31, (w (3 + t)).field 25 16, (w (3 + t)).field 15 0), age := 0, went := false }

end Sys2Proof.Machine
end

