-- ==== Sys2Proof/Machine/BridleLink.lean ====
section
/-! DEFINITION. Bridle lanes, strands and the link layer (R373, R374, R395 to R410, R503). -/

namespace Sys2Proof.Machine

/-! ### Lanes and strands (R373, R388, R396, R398) -/

/-- The strand of a lane on its Bridle: 0 to 9 a team's, 10 to 13 an uplink's. -/
def strandOf (l : Fin 32) : Option (Fin 14) :=
  if l.val < 14 then some ⟨l.val / 2 % 14, Nat.mod_lt _ (by decide)⟩
  else if l.val < 26 then some ⟨(7 + (l.val - 14) / 4) % 14, Nat.mod_lt _ (by decide)⟩
  else if 28 ≤ l.val then some ⟨(10 + l.val - 28) % 14, Nat.mod_lt _ (by decide)⟩
  else none

/-- The lanes of a strand, by position. -/
def strandLanes (n : Fin 14) : List (Fin 32) := (allFin 32).filter fun l => strandOf l == some n

def State.lane (s : State) (b : Fin 4) (l : Fin 32) : Lane := s.brd.lanes.getD (b.val * 32 + l.val) .reset
def State.setLane (s : State) (b : Fin 4) (l : Fin 32) (v : Lane) : State :=
  { s with brd := { s.brd with lanes := s.brd.lanes.put (b.val * 32 + l.val) v } }
def State.strand (s : State) (b : Fin 4) (n : Fin 14) : Strand := s.brd.strands.getD (b.val * 16 + n.val) .reset
def State.setStrand (s : State) (b : Fin 4) (n : Fin 14) (v : Strand) : State :=
  { s with brd := { s.brd with strands := s.brd.strands.put (b.val * 16 + n.val) v } }

/-- A register of a Bridle's page. -/
def bridleReg (b : Fin 4) (off : Nat) : Nat := off + b.val * 4096

/-- The global lane number that lane faults carry. -/
def laneDetail (b : Fin 4) (l : Fin 32) : Nat := b.val * 32 + l.val

/-- A lane that may carry a new codeword: UP and its transmit direction not suspended (R405). -/
def State.laneSends (s : State) (b : Fin 4) (l : Fin 32) : Bool :=
  let v := s.lane b l
  v.link == .up && !v.txSusp

def State.lanesUp (s : State) (b : Fin 4) (n : Fin 14) : Nat :=
  ((strandLanes n).filter fun l => (s.lane b l).link == .up).length

def State.lanesSending (s : State) (b : Fin 4) (n : Fin 14) : Nat :=
  ((strandLanes n).filter fun l => s.laneSends b l).length

/-! ### Sending (R396, R398, R402, R403) -/

/-- The straps as FAB_POS reports them (R372). -/
def State.posX (s : State) : Nat := s.regF Reg.FAB_POS 7 5
def State.posY (s : State) : Nat := s.regF Reg.FAB_POS 9 8
def State.posZ (s : State) : Nat := s.regF Reg.FAB_POS 13 10

/-- The nonce of a codeword that a strand sends, with its counter (R502). -/
def State.linkNonce (s : State) (b : Fin 4) (n : Fin 14) (counter : Nat) : List Byte :=
  natBe (putBits 95 64 s.groom.boot.toNat + putBits 63 59 (s.posY * 8 + s.posX) + putBits 58 55 s.posZ + putBits 54 53 b.val
    + putBits 52 49 n.val + putBits 47 0 counter) 12

/-- The flits of a new codeword under encryption (R502): flits 0 to 38 encrypted under the active link slot, and the tag in flit 39. The
additional data is the codeword's number as the lane header has it, the same for every transmission. DESIGN CHOICE, assumption 167. -/
def State.sealFlits (s : State) (b : Fin 4) (n : Fin 14) (seq counter : Nat) (flits : List (List Word)) : List (List Word) :=
  if !s.link.on then flits
  else
    let key := (s.sec.slots.getD (256 + bitOf s.link.key) .reset).key
    let text := ((bytesOf flits.flatten) ++ List.replicate 624 0).take 624
    let got := gcmSeal key (s.linkNonce b n counter) (natLe (putBits 17 8 (seq % 1024)) 3) text
    cut 4 41 (wordsOf (got.1 ++ got.2))

/-- The lane that becomes free earliest, on a tie the lowest position. -/
def State.nextLane (s : State) (b : Fin 4) (n : Fin 14) : Option (Fin 32) :=
  ((strandLanes n).filter fun l => s.laneSends b l).foldl (fun best l => match best with
    | none => some l
    | some m => if (s.lane b l).free < (s.lane b m).free then some l else some m) none

/-- A lane's position in its strand (R396). -/
def lanePosition (l : Fin 32) : Fin 4 :=
  match strandOf l with
  | some n => Fin.ofNat 4 ((strandLanes n).takeWhile fun k => k != l).length
  | none => 0

/-- The 40 flits of a codeword: what it carries, and fill (R396, R399). -/
def fillFlits (flits : List (List Word)) : List (List Word) := (flits ++ List.replicate 40 [0, 0, 0, 0]).take 40

/-- A codeword put on a lane; it takes 5,440 units of 1/224 ns. A throttle of its Bridle thins out new codewords (R476). -/
def State.putCodeword (s : State) (b : Fin 4) (l : Fin 32) (seq : Nat) (retx : Bool) (flits : List (List Word)) : State :=
  let v := s.lane b l
  let s := s.setLane b l { v with free := max v.free (224 * s.now) + if retx then 5440 else 544000 / (100 - s.bridleThrottle b) }
  (s.emit (.codeword b l ⟨false, BitVec.ofNat 10 seq, retx, lanePosition l⟩ (fillFlits flits))).bump (bridleReg b Reg.BRD_CNT_n) 1

/-- A TRAIN codeword (R396, R408), which no strand numbers. It is sent in the clear (DESIGN CHOICE, assumption 203). -/
def State.putTrain (s : State) (b : Fin 4) (l : Fin 32) (flits : List (List Word)) : State :=
  s.emit (.codeword b l ⟨true, 0, false, lanePosition l⟩ (fillFlits flits))

/-- Words cut into flits of four, the last padded with zeros (R399). -/
def flitsOf : List Word → List (List Word)
  | a :: b :: c :: d :: t => [a, b, c, d] :: flitsOf t
  | [] => []
  | l => [(l ++ [0, 0, 0]).take 4]

/-- Words of the payload of a transaction packet, by its header (R346 to R349). -/
def payloadWords (h : List Word) : Nat :=
  let w0 := h.getD 0 0
  let k := w0.field 31 28
  if k = 1 ∨ k = 9 then 0
  else if k = 5 ∧ !w0.bit 10 then 0
  else lenWords ((h.getD 2 0).field 13 8)

/-- The age that a transaction packet has as it leaves its strand's queue (R346), in units of 64 ns. -/
def Outgoing.age (o : Outgoing) (now : Nat) : Nat :=
  match o.epoch with
  | some _ => min 1023 ((o.flits.flatten.getD 3 0).field 31 22 + (now - o.since) / 64)
  | none => 0

/-- A packet as it leaves its queue: its age, and with it its CRC, takes in the time it has waited there. -/
def Outgoing.aged (o : Outgoing) (now : Nat) : Outgoing :=
  if o.epoch.isNone ∨ (now - o.since) / 64 = 0 then o
  else
    let ws := o.flits.flatten
    let ws := ws.set 3 ((ws.getD 3 0).setField 31 22 (o.age now))
    let ws := ws.set 7 (crc32c (bytesOf (ws.take 7 ++ (ws.drop 8).take (payloadWords ws))))
    { o with flits := cut 4 ws.length ws }

/-- A packet too old to be sent: a transaction packet past 48 µs (R381), a request past 19.968 µs (R359). -/
def Outgoing.stale (o : Outgoing) (now : Nat) : Bool :=
  decide (750 < o.age now) || (decide (312 < o.age now) && (o.flits.flatten.getD 0 0).field 31 28 != 5)

/-- Flits of an item that need a credit: those of packets, not of control frames (R403). -/
def Outgoing.credits (o : Outgoing) : Nat := if o.control then 0 else o.flits.length

/-- The lane on which an item leaves: its own, where it has one. -/
def State.laneFor (s : State) (b : Fin 4) (n : Fin 14) (o : Outgoing) : Option (Fin 32) :=
  match o.lane with
  | some l => if s.laneSends b l then some l else none
  | none => s.nextLane b n

/-- A strand may start a codeword with an item (R402, R403): it has room in the replay buffer and a credit for each of the item's flits; under
encryption a counter that stands at its end starts none (R503). -/
def State.mayStartCodeword (s : State) (v : Strand) (o : Outgoing) : Bool :=
  !(s.link.on && decide (2 ^ 48 - 1 ≤ v.counter)) && decide (v.unacked.length < 512)
    && decide (v.sentFlits + o.credits ≤ v.freedFlits + 4096)

/-- The next item of a strand leaves in a codeword of its own, padded with fill (DESIGN CHOICE, assumption 33). -/
def State.sendCodeword (s : State) (b : Fin 4) (n : Fin 14) : Option State :=
  let v := s.strand b n
  match v.queue with
  | [] => none
  | w :: rest =>
    let o := w.aged s.now
    if w.stale s.now then some ((s.setStrand b n { v with queue := rest }).bump (Reg.FAB_RT_CNT_n + 4) 1)
    else match s.laneFor b n o with
      | none => if o.lane.isSome then some (s.setStrand b n { v with queue := rest }) else none
      | some l =>
        if !s.mayStartCodeword v o then none
        else
          let out := s.sealFlits b n v.next v.counter o.flits
          let v := { v with queue := rest, next := v.next + 1, sentFlits := v.sentFlits + o.credits,
                            counter := v.counter + bitOf s.link.on,
                            unacked := v.unacked ++ [⟨v.next, l, s.now, out, o.epoch⟩] }
          some ((s.setStrand b n v).putCodeword b l (v.next - 1) false out)

def State.sendCodewords (s : State) (b : Fin 4) (n : Fin 14) : Nat → State
  | 0 => s
  | k + 1 => match s.sendCodeword b n with
    | none => s
    | some s' => s'.sendCodewords b n k

def State.pumpStrand (s : State) (b : Fin 4) (n : Fin 14) : State :=
  s.sendCodewords b n (s.strand b n).queue.length

/-- A packet handed to a strand. -/
def State.strandSend (s : State) (b : Fin 4) (n : Fin 14) (flits : List (List Word)) (epoch : Option Bool) : State :=
  let v := s.strand b n
  (s.setStrand b n { v with queue := v.queue ++ [⟨flits, epoch, s.now, false, none⟩] }).pumpStrand b n

/-- The type of a control frame (R399). -/
def Outgoing.ctype (o : Outgoing) : Nat := (o.flits.flatten.getD 0 0).field 27 24

/-- A strand's queue with a control frame more (R399, R400): control frames go before the packets, the BEACON before all; a newer BEACON, ROUTE_ADV
or LINK frame takes the place of one that still waits. DESIGN CHOICE, assumption 204. -/
def queueControl (queue : List Outgoing) (o : Outgoing) : List Outgoing :=
  let kept := queue.filter fun x => x.control && (x.ctype != o.ctype || o.ctype == 4)
  let packets := queue.filter fun x => !x.control
  (if o.ctype = 1 then o :: kept else kept ++ [o]) ++ packets

/-- A control frame handed to a strand, on any of its lanes or on the one given. -/
def State.controlSend (s : State) (b : Fin 4) (n : Fin 14) (lane : Option (Fin 32)) (ws : List Word) : State :=
  let v := s.strand b n
  (s.setStrand b n { v with queue := queueControl v.queue ⟨flitsOf ws, none, s.now, true, lane⟩ }).pumpStrand b n

/-- A codeword retransmitted on any lane of its strand that sends, with its own number (R402). -/
def State.retransmit (s : State) (b : Fin 4) (n : Fin 14) (seq : Nat) : State :=
  let v := s.strand b n
  match v.unacked.find? fun u => u.seq == seq, s.nextLane b n with
  | some u, some l =>
    let s := s.setStrand b n { v with unacked := v.unacked.map fun w =>
      if w.seq = seq then { w with lane := l, last := s.now } else w }
    (s.putCodeword b l seq true u.flits).bump (bridleReg b (Reg.BRD_CNT_n + 4)) 1
  | _, _ => s

/-- A control frame: kind 0xE, type, its other words, its CRC (R399). -/
def controlFrame (ctype : Nat) (w0 : Nat) (rest : List Nat) : List Word :=
  let flits := (rest.length + 2) / 4
  let ws := ((putBits 31 28 14 + putBits 27 24 ctype + putBits 23 22 (flits - 1) + w0) :: rest).map (BitVec.ofNat 32)
  ws ++ [crc32c (bytesOf ws)]

/-- The LINK frame of a strand (R402): the number expected, a missing number, and the flits freed. -/
def State.linkFrame (s : State) (b : Fin 4) (n : Fin 14) (nak : Option Nat) : State :=
  let v := s.strand b n
  let w0 := putBits 21 21 (bitOf nak.isSome) + putBits 20 11 v.expect + putBits 10 1 (nak.getD 0)
  s.controlSend b n none (controlFrame 3 w0 [v.returned % 2 ^ 24, 0])

/-! ### Link frames received -/

/-- A number of the 1,024 nearest the base. -/
def nearSeq (base low : Nat) : Nat :=
  let d := (low + 1024 - base % 1024) % 1024
  if d < 512 then base + d else base + d - 1024

/-- A LINK frame about a strand this module sends on (R402, R403). -/
def State.takeLinkFrame (s : State) (b : Fin 4) (n : Fin 14) (ack : Nat) (nak : Option Nat) (freed : Nat) : State :=
  let v := s.strand b n
  let base := match v.unacked with
    | u :: _ => u.seq
    | [] => v.next
  let a := nearSeq base ack
  let add := (freed + 2 ^ 24 - v.freedFlits % 2 ^ 24) % 2 ^ 24
  let s := s.setStrand b n { v with unacked := v.unacked.filter fun u => decide (a ≤ u.seq),
                                    freedFlits := min v.sentFlits (v.freedFlits + add) }
  let s := match nak with
    | some m => s.retransmit b n (nearSeq base m)
    | none => s
  s.pumpStrand b n

/-- BRIDLE_LINK_FRAME (R402). -/
def execBridleLinkFrame (b : Fin 4) (n : Fin 14) (ack : BitVec 10) (nak : Option (BitVec 10)) (freed : BitVec 24) (cyc : Nat)
    (s : State) : Host.Outcome State Fault Refusal :=
  .next ((s.advance cyc).takeLinkFrame b n ack.toNat (nak.map (·.toNat)) freed.toNat)

/-- LANE DROP received for a lane by its position: this module stops sending on it and sends again what it carried (R406). -/
def State.takeDrop (s : State) (b : Fin 4) (l : Fin 32) : State :=
  let v := s.lane b l
  if v.txSusp then s
  else
    let s := s.setLane b l { v with txSusp := true, suspended := some (v.suspended.getD s.clk.bnd) }
    match strandOf l with
    | none => s
    | some n => ((s.strand b n).unacked.filter fun u => u.lane == l).foldl (fun s u => s.retransmit b n u.seq) s

def execLaneDrop (b : Fin 4) (l : Fin 32) (cyc : Nat) (s : State) : Host.Outcome State Fault Refusal :=
  .next ((s.advance cyc).takeDrop b l)

/-- LANE RESUME: the lane is used again from the next boundary (R406). -/
def State.takeResume (s : State) (b : Fin 4) (l : Fin 32) : State :=
  if (s.lane b l).txSusp then s.scheduleNext (.laneResume b l) else s

def execLaneResume (b : Fin 4) (l : Fin 32) (cyc : Nat) (s : State) : Host.Outcome State Fault Refusal :=
  .next ((s.advance cyc).takeResume b l)

/-! ### Suspension (R406) -/

/-- A LANE frame sent in the next codeword of each other UP lane of the strand, and in the three after it (R406). -/
def State.laneFrame (s : State) (b : Fin 4) (l : Fin 32) (resume : Bool) : State :=
  match strandOf l with
  | none => s
  | some n =>
    let pos := ((strandLanes n).filter fun k => decide (k.val < l.val)).length
    let others := (strandLanes n).filter fun k => k != l && (s.lane b k).link == .up
    let f := controlFrame 4 (putBits 21 20 pos + putBits 19 19 (bitOf resume)) [0, 0]
    (others.flatMap fun k => List.replicate 4 k).foldl (fun (s : State) k => s.controlSend b n (some k) f) s

/-- A receiver suspends its direction of a lane. -/
def State.suspend (s : State) (b : Fin 4) (l : Fin 32) : State :=
  let v := s.lane b l
  if v.rxSusp ∨ v.link ≠ .up then s
  else
    let s := s.setLane b l { v with rxSusp := true, suspended := some (v.suspended.getD s.clk.bnd), clean := 0 }
    ((s.bump (bridleReg b (Reg.BRD_CNT_n + 12)) 1).logFault Flt.BRD_LANE_SUSPEND (blkBRD b.val) (laneDetail b l)).laneFrame
      b l false

/-- A suspended direction resumes: lock regained and 1,024 consecutive decodable codewords since. -/
def State.unsuspend (s : State) (b : Fin 4) (l : Fin 32) : State :=
  let v := s.lane b l
  if v.rxSusp && v.locked && decide (1024 ≤ v.clean) then
    ((s.setLane b l { v with rxSusp := false, suspended := if v.txSusp then v.suspended else none }).bump (bridleReg b (Reg.BRD_CNT_n + 16)) 1).laneFrame
      b l true
  else s

/-! ### Lanes going DOWN, strands reset (R404, R407) -/

/-- A strand all of whose lanes are DOWN is reset: what it has not sent yet waits on. DEDUCED, assumption 206. -/
def State.resetStrand (s : State) (b : Fin 4) (n : Fin 14) : State :=
  let v := s.strand b n
  let s := s.setStrand b n { Strand.reset with counter := v.counter, warned := v.warned, queue := v.queue.filter fun o => !o.control }
  let lane := match strandLanes n with
    | l :: _ => l
    | [] => 0
  (s.bump (bridleReg b (Reg.BRD_CNT_n + 28)) 1).logFault Flt.BRD_STRAND_RESET (blkBRD b.val) (laneDetail b lane)

/-- The IDENT frame this module sends on a lane (R374, R408), in units of 0.125 ns: what it announces, the time it is sent, and the
peer's time last received with the time since its arrival. It answers each frame of the peer at once. DESIGN CHOICE, assumption 166. -/
def State.sendIdent (s : State) (b : Fin 4) (l : Fin 32) (tx arrival : Word) : State :=
  if (strandOf l).isNone then s
  else
    let w0 := putBits 21 18 s.posZ + putBits 17 13 (s.posY * 8 + s.posX) + putBits 12 11 b.val + putBits 10 6 l.val
      + putBits 5 5 (bitOf (s.lane b l).admitted)
    let t := BitVec.ofNat 32 (8 * s.now)
    s.putTrain b l (flitsOf (controlFrame 5 w0 [s.sec.serial.toNat, t.toNat, tx.toNat, (t - arrival).toNat, 0, 0]))

/-- A lane enters TRAINING (R408), and announces this module to its peer in a TRAIN codeword, with no time of the peer's yet. -/
def State.enterTraining (s : State) (b : Fin 4) (l : Fin 32) (v : Lane) : State :=
  (s.setLane b l { v with link := .training, trainAt := some s.now, retryAt := none }).sendIdent b l 0 (BitVec.ofNat 32 (8 * s.now))

/-- A lane's unit is STARTING or ON. -/
def State.laneAlive (s : State) (b : Fin 4) (l : Fin 32) : Bool :=
  let st := (s.unit (.lane b l)).st
  st == .on || st == .starting

/-- A lane goes DOWN, and, while its unit is STARTING or ON, starts TRAINING at once (R408). One whose unit is OFF as failed is FAILED (R405). -/
def State.laneDown (s : State) (b : Fin 4) (l : Fin 32) : State :=
  let v := s.lane b l
  let was := v.link == .up
  let on := s.laneAlive b l
  let failed := !on && (s.unit (.lane b l)).failed
  let fresh := { Lane.reset with link := if failed then .failed else .down, delay := v.delay, peer := v.peer, trainFail := v.trainFail,
                                 ucwLast := v.ucwLast, csymLast := v.csymLast }
  let s := if on then s.enterTraining b l fresh else s.setLane b l fresh
  let s := if was then s.bump (bridleReg b (Reg.BRD_CNT_n + 20)) 1 else s
  match strandOf l with
  | none => s
  | some n =>
    if was && s.lanesUp b n == 0 then s.resetStrand b n
    else if was then
      ((s.strand b n).unacked.filter fun u => u.lane == l).foldl (fun s u => s.retransmit b n u.seq) s
    else s

/-- LANE_SUSPEND_TIMEOUT (R406): a lane suspended for 64 strides goes DOWN. -/
def execLaneSuspendTimeout (b : Fin 4) (l : Fin 32) (s : State) : Host.Outcome State Fault Refusal :=
  .next (match (s.lane b l).suspended with
    | some k => if k + 64 ≤ s.clk.bnd then s.laneDown b l else s
    | none => s)

/-- BEACON_LOSS_TIMEOUT (R407): a strand whose receiver has had no BEACON, or an uplink no decodable codeword, for 3 strides takes its
lanes DOWN at the boundary. -/
def execBeaconLossTimeout (b : Fin 4) (n : Fin 14) (s : State) : Host.Outcome State Fault Refusal :=
  .next (if 4 ≤ (s.strand b n).silent then
      (strandLanes n).foldl (fun s l => if (s.lane b l).link = .up then s.laneDown b l else s) s
    else s)

/-! ### Training (R408, R409) -/

/-- The peer a lane is to find (R373, R374): module index of the team's peer, and the peer's lane. -/
def teamPeer (x y : Nat) (t : Nat) : Nat :=
  if t < 7 then y * 8 + (x + 1 + t) % 8 else (y + t - 6) % 4 * 8 + x

/-- The lane of the peer's Bridle a team lane is cabled to: the same position in the peer's team that names this module. -/
def cabledLane (l : Fin 32) : Nat :=
  match strandOf l with
  | none => l.val
  | some n =>
    if n.val < 7 then 2 * (6 - n.val) + l.val % 2
    else if n.val < 10 then 14 + 4 * (16 - n.val - 7) + (l.val - 14) % 4
    else l.val

/-- The admission checks of R374 and R388. -/
def State.admissible (s : State) (b : Fin 4) (l : Fin 32) (p : LanePeer) : Bool :=
  match strandOf l with
  | none => false
  | some n =>
    if 10 ≤ n.val then p.z != s.posZ
    else p.z == s.posZ && p.index == teamPeer s.posX s.posY n.val && p.bridle == b.val && p.lane == cabledLane l

/-- The serial number that the strands of a team up to a lane's own have been admitted with, the lowest-numbered first (R374). -/
def State.teamSerial (s : State) (n : Fin 14) (b : Fin 4) (l : Fin 32) : Option Word :=
  (((allFin 4).filter fun c => c ≤ b).flatMap fun c => (strandLanes n).map fun k => (c, k)).findSome? fun (c, k) =>
    let v := s.lane c k
    if (c, k) != (b, l) && v.admitted then v.peer.map (·.serial) else none

/-- The admitted lanes of higher-numbered strands of the team that report another serial number than a strand now admitted (R374). -/
def State.displacedLanes (s : State) (n : Fin 14) (b : Fin 4) (serial : Word) : List (Fin 4 × Fin 32) :=
  (((allFin 4).filter fun c => b < c).flatMap fun c => (strandLanes n).map fun k => (c, k)).filter fun (c, k) =>
    let v := s.lane c k
    v.admitted && v.peer.any fun q => q.serial != serial

/-- A training attempt has failed (R409); from the third on attempts start 1 s apart. -/
def State.trainFails (s : State) (b : Fin 4) (l : Fin 32) : State :=
  let v := s.lane b l
  let n := v.trainFail + 1
  let fresh := { Lane.reset with trainFail := min n 255, delay := v.delay, peer := v.peer }
  let s := if 3 ≤ n then s.setLane b l { fresh with retryAt := some (v.trainAt.getD s.now + 10 ^ 9) } else s.enterTraining b l fresh
  (s.bump (bridleReg b (Reg.BRD_CNT_n + 24)) 1).logFault Flt.BRD_LANE_TRAIN_FAIL (blkBRD b.val) (laneDetail b l)

/-- A lane that fails the admission checks fails its attempt (R374, R388, R409). -/
def State.refuseLane (s : State) (b : Fin 4) (l : Fin 32) (f : FaultCode) : State :=
  (s.logFault f blkFAB (laneDetail b l)).trainFails b l

/-- An admitted lane gives way to a strand of a lower number (R374): it goes DOWN and trains again. DEDUCED, assumption 201. -/
def State.displace (s : State) (b : Fin 4) (l : Fin 32) : State :=
  if (s.lane b l).link = .up then (s.logFault Flt.FAB_DUP_INDEX blkFAB (laneDetail b l)).laneDown b l
  else s.refuseLane b l Flt.FAB_DUP_INDEX

/-- A lane admitted to its strand. -/
def State.joinStrand (s : State) (b : Fin 4) (l : Fin 32) : State := s.setLane b l { s.lane b l with admitted := true }

/-- A lane of a team whose peer has passed the checks: the strands of a team report one serial number, that of the lowest (R374). -/
def State.admitTeam (s : State) (n : Fin 14) (b : Fin 4) (l : Fin 32) (serial : Word) : State :=
  if (s.teamSerial n b l).any fun w => w != serial then s.refuseLane b l Flt.FAB_DUP_INDEX
  else (s.displacedLanes n b serial).foldl (fun (s : State) x => s.displace x.1 x.2) (s.joinStrand b l)

/-- What a peer announces judged by the admission checks (R374, R388). -/
def State.admitLane (s : State) (b : Fin 4) (l : Fin 32) (p : LanePeer) : State :=
  if !s.admissible b l p then s.refuseLane b l Flt.FAB_CABLE_MISMATCH
  else match strandOf l with
    | some n => if n.val < 10 then s.admitTeam n b l p.serial else s.joinStrand b l
    | none => s

/-- An IDENT frame taken by a lane in TRAINING: `stamps` are the time it was sent and the echo of this module's, `turn` the peer's time between, and
`arrival` that of its codeword, in units of 0.125 ns. The delay is the mean of 64 exchanges; a frame that answers none of this module's, which echoes no
time, is none. DESIGN CHOICE, assumption 166. -/
def State.takeIdent (s : State) (b : Fin 4) (l : Fin 32) (p : LanePeer) (stamps : Word × Word) (turn arrival : Word) : State :=
  let v := s.lane b l
  if v.link ≠ .training then s
  else
    let ex := if stamps.2 = 0 ∧ turn = 0 then v.exchanges else (v.exchanges ++ [(arrival - stamps.2 - turn).toNat / 2]).take 64
    let v := { v with peer := some p, exchanges := ex, delay := if ex.length = 64 then ex.sum / 64 % 65536 else v.delay }
    ((s.setLane b l v).admitLane b l p).sendIdent b l stamps.1 arrival

/-- IDENT_FRAME (R374, R388, R408): what the peer announces, with the timestamps of the delay measurement. -/
def execIdentFrame (b : Fin 4) (l : Fin 32) (z : Fin 16) (index : Fin 32) (peerBridle : Fin 4) (peerLane : Fin 32)
    (admitted : Bool) (serial : Word) (stamps : Word × Word) (turn : Word) (arrival : Word) (s : State) :
    Host.Outcome State Fault Refusal :=
  .next (s.takeIdent b l ⟨z.val, index.val, peerBridle.val, peerLane.val, serial, admitted⟩ stamps turn arrival)

/-- LANE_TRAINING_COMPLETE (R408): each end has sent admitted and seen it from the peer; the lane comes UP at the next boundary. While
link encryption waits for the boot count, a lane that must be encrypted does not (R503). -/
def execLaneTrainingComplete (b : Fin 4) (l : Fin 32) (s : State) : Host.Outcome State Fault Refusal :=
  let v := s.lane b l
  .next (if v.link = .training ∧ v.admitted ∧ (v.peer.map (·.admitted)).getD false ∧ 64 ≤ v.exchanges.length
        ∧ !(s.link.on ∧ s.flt.deferred.contains .bootCount) then
      s.setLane b l { v with upDue := true }
    else s)

/-- LANE_TRAINING_TIMEOUT (R409): a lane not UP within 50 ms. -/
def execLaneTrainingTimeout (b : Fin 4) (l : Fin 32) (cyc : Nat) (s : State) : Host.Outcome State Fault Refusal :=
  let s := s.advance cyc
  let v := s.lane b l
  .next (match v.trainAt with
    | some t => if v.link = .training ∧ !v.upDue ∧ t + 50000000 ≤ s.now then s.trainFails b l else s
    | none => s)

/-- LANE_TRAINING_RETRY (R409): after 3 failed attempts a further one starts 1 s later. -/
def execLaneTrainingRetry (b : Fin 4) (l : Fin 32) (cyc : Nat) (s : State) : Host.Outcome State Fault Refusal :=
  let s := s.advance cyc
  let v := s.lane b l
  .next (match v.retryAt with
    | some t =>
      if t ≤ s.now ∧ s.laneAlive b l then
        s.enterTraining b l v
      else s
    | none => s)

/-- A write of BRD_LANE_CTL.retrain (R410): the lane goes DOWN at the next boundary, then trains. -/
def State.writeRetrain (s : State) (b : Fin 4) (l : Fin 32) : State := s.schedule (.laneRetrain b l)

def execLaneRetrain (src : Source) (b : Fin 4) (l : Fin 32) (cyc : Nat) (s : State) : Host.Outcome State Fault Refusal :=
  let s := s.advance cyc
  .next (if s.mayWrite src (bridleReg b Reg.BRD_LANE_CTL) then s.writeRetrain b l else s)

/-! ### Receiving codewords (R397 to R402, R406) -/

/-- Flits of a strand as they lie in its stream: packets whole so far, and the flits of one not yet whole. -/
inductive StreamItem where
  | packet (flits : List (List Word))
  | control (words : List Word)
deriving DecidableEq, Repr

/-- The flit that an uplink message of so many words goes behind: kind 0xF, which no other item has, and the number of its flits
(DESIGN CHOICE, assumption 34). -/
def messageHead (words : Nat) : List Word := [BitVec.ofNat 32 (putBits 31 28 15 + putBits 7 0 (ceilDiv words 4)), 0, 0, 0]

/-- Number of flits of the item that begins with a flit (R346, R399): 0 for fill. -/
def itemFlits (uplink : Bool) (f : List Word) : Nat :=
  let w0 := f.getD 0 0
  if w0 = 0 then 0
  else if w0.field 31 28 = 14 then w0.field 23 22 + 1
  else if uplink then 1 + w0.field 7 0
  else 2

/-- Flits of the payload of a transaction packet. -/
def payloadFlits (h : List Word) : Nat := ceilDiv (payloadWords h) 4

/-- The items at the front of a strand's flits. -/
def readItems (uplink : Bool) : Nat → List (List Word) → List StreamItem × List (List Word)
  | 0, fs => ([], fs)
  | _, [] => ([], [])
  | k + 1, f :: fs =>
    let n := itemFlits uplink f
    if n = 0 then readItems uplink k fs
    else
      let isCtl := (f.getD 0 0).field 31 28 == 14
      let head := (f :: fs).take n
      let total := if isCtl ∨ uplink then n else n + payloadFlits head.flatten
      if (f :: fs).length < total then ([], f :: fs)
      else
        let item := (f :: fs).take total
        let (l, rest) := readItems uplink k ((f :: fs).drop total)
        ((if isCtl then .control item.flatten else .packet item) :: l, rest)

/-- A control frame whose CRC is right applied (R399 to R406). A BEACON counts as a heartbeat; what it measures needs the time of its codeword's first
symbol, and reaches the model by BEACON_RECEIVED. An IDENT frame is taken in TRAIN codewords only. -/
def State.takeControl (s : State) (b : Fin 4) (n : Fin 14) (ws : List Word) : State :=
  match ws.getLast? with
  | none => s
  | some c =>
    if crc32c (bytesOf ws.dropLast) ≠ c then s
    else
      let w0 := ws.getD 0 0
      match w0.field 27 24 with
      | 1 => s.setStrand b n { s.strand b n with silent := 0 }
      | 2 => if n.val < 10 then s.takeAdvert n.val (advertOf ws) else s
      | 3 => s.takeLinkFrame b n (w0.field 20 11) (if w0.bit 21 then some (w0.field 10 1) else none)
          ((ws.getD 1 0).field 23 0)
      | 4 =>
        match (strandLanes n)[w0.field 21 20]? with
        | some l => if w0.bit 19 then s.takeResume b l else s.takeDrop b l
        | none => s
      | _ => s

/-- A transaction packet handed to its Bridle, which frees its flits (R403); those of an uplink message are freed when its slot is
written or refused (R390). -/
def State.takePacket (s : State) (b : Fin 4) (n : Fin 14) (delay : Nat) (flits : List (List Word)) : State :=
  let up := decide (10 ≤ n.val)
  let v := s.strand b n
  let s := if up then s else s.setStrand b n { v with returned := v.returned + flits.length }
  let ws := (if up then flits.drop 1 else flits).flatten
  let head := if up then 4 else 8
  let a : Arrived := ⟨ws.take head, bytesOf (ws.drop head), s.now, delay, n.val, flits.length⟩
  let key := b.val + if up then 4 else 0
  let all := s.brd.arrived.getD key [] ++ [a]
  { s with brd := { s.brd with arrived := s.brd.arrived.put key all } }

/-- The flits of a codeword delivered in order. -/
def State.takeFlits (s : State) (b : Fin 4) (n : Fin 14) (delay : Nat) (flits : List (List Word)) : State :=
  let v := s.strand b n
  let all := v.partial_ ++ flits
  let (items, rest) := readItems (decide (10 ≤ n.val)) (all.length + 1) all
  let s := s.setStrand b n { v with partial_ := rest }
  items.foldl (fun s i => match i with
    | .packet f => s.takePacket b n delay f
    | .control ws => s.takeControl b n ws) s

/-- Codewords at the front of the reorder window delivered. -/
def State.takeReordered (s : State) (b : Fin 4) (n : Fin 14) : Nat → State
  | 0 => s
  | k + 1 =>
    let v := s.strand b n
    match v.reorder.find? v.expect with
    | none => s.setStrand b n { v with gapAt := if v.reorder = [] then none else some (v.gapAt.getD s.now) }
    | some (d, f) =>
      let s := s.setStrand b n { v with reorder := v.reorder.drop v.expect, expect := v.expect + 1, gapAt := none }
      (s.takeFlits b n d f).takeReordered b n k

/-- A decodable codeword of a strand: exactly once, in order, within a window of 512 (R398). -/
def State.takeCodeword (s : State) (b : Fin 4) (n : Fin 14) (delay low : Nat) (flits : List (List Word)) : State :=
  let v := s.strand b n
  let seq := nearSeq v.expect low
  let s := if seq = v.expect then
      ((s.setStrand b n { v with expect := v.expect + 1, gapAt := none }).takeFlits b n delay flits).takeReordered b n
        (v.reorder.length + 1)
    else if v.expect < seq then
      s.setStrand b n { v with reorder := v.reorder.put seq (delay, flits), gapAt := some (v.gapAt.getD s.now) }
    else s
  s.linkFrame b n none

/-- The IDENT frames in a TRAIN codeword that a lane receives; it arrives now (R408). -/
def State.takeTrain (s : State) (b : Fin 4) (l : Fin 32) (flits : List (List Word)) : State :=
  (readItems false (flits.length + 1) flits).1.foldl (fun (s : State) (i : StreamItem) => match i with
    | .packet _ => s
    | .control ws =>
      let w (i : Nat) : Word := ws.getD i 0
      if (w 0).field 27 24 = 5 ∧ crc32c (bytesOf ws.dropLast) = ws.getLast?.getD 0 then
        s.takeIdent b l ⟨(w 0).field 21 18, (w 0).field 17 13, (w 0).field 12 11, (w 0).field 10 6, w 1, (w 0).bit 5⟩ (w 2, w 3) (w 4)
          (BitVec.ofNat 32 (8 * s.now))
      else s) s

/-- What a codeword gives a receiver whose encryption is on or off (R504): one that is encrypted while it is off, or whose tag holds under
neither key while it is on, is undecodable. A TRAIN codeword is in the clear (assumption 203). -/
def codewordOpened (cw : Codeword) (on : Bool) : Option (Nat × LaneHeader × List (List Word)) :=
  match cw with
  | .undecodable => none
  | .decoded csym h flits tag =>
    if (if on && !h.train then tag == .underKey else tag == .plain) then some (csym, h, flits) else none

/-- CODEWORD_RECEIVE (R397, R398, R402, R406, R502, R504). -/
def execCodewordReceive (b : Fin 4) (l : Fin 32) (cw : Codeword) (cyc : Nat) (s : State) :
    Host.Outcome State Fault Refusal :=
  let s := s.advance cyc
  let v := s.lane b l
  .next (match strandOf l with
    | none => s
    | some n =>
      if v.link = .down ∨ v.link = .failed then s
      else match codewordOpened cw s.link.on with
        | some (csym, h, flits) =>
          let good := v.good + 1
          let v := { v with good := good, bad := 0, locked := v.locked || decide (8 ≤ good), csym := v.csym + csym,
                            clean := if v.rxSusp ∧ v.locked then v.clean + 1 else v.clean }
          let s := s.setLane b l v
          if h.train then (s.takeTrain b l flits).unsuspend b l
          else if v.link ≠ .up then s
          else
            let s := if 10 ≤ n.val then s.setStrand b n { s.strand b n with silent := 0 } else s
            let s := if s.liveF (bridleReg b Reg.BRD_CFG) 15 0 < v.csym then s.suspend b l else s
            (s.takeCodeword b n v.delay h.seq.toNat flits).unsuspend b l
        | none =>
          let bad := v.bad + 1
          let lost := v.locked && decide (4 ≤ bad)
          let s := s.setLane b l { v with bad := bad, good := 0, ucw := v.ucw + 1, locked := v.locked && !lost, clean := 0 }
          if v.link ≠ .up then s
          else
            let s := s.bump (bridleReg b (Reg.BRD_CNT_n + 8)) 1
            let s := if lost ∨ 4 ≤ v.ucw + 1 then s.suspend b l else s
            s.linkFrame b n (some ((s.strand b n).expect % 1024)))

/-- CODEWORD_GAP_NAK (R402): a gap of 64 ns. -/
def execCodewordGapNak (b : Fin 4) (n : Fin 14) (cyc : Nat) (s : State) : Host.Outcome State Fault Refusal :=
  let s := s.advance cyc
  let v := s.strand b n
  .next (match v.gapAt with
    | some t => if t + 64 ≤ s.now then (s.setStrand b n { v with gapAt := some s.now }).linkFrame b n (some (v.expect % 1024)) else s
    | none => s)

/-- CODEWORD_RETX_TIMEOUT (R402): 2 µs without an acknowledgement. -/
def execCodewordRetxTimeout (b : Fin 4) (n : Fin 14) (seq : BitVec 10) (cyc : Nat) (s : State) :
    Host.Outcome State Fault Refusal :=
  let s := s.advance cyc
  .next (match (s.strand b n).unacked.find? fun u => u.seq % 1024 == seq.toNat with
    | some u => if u.last + 2000 ≤ s.now then s.retransmit b n u.seq else s
    | none => s)

/-- LINK_COUNTER_EXHAUST (R503): the codeword counter of an encrypted strand has reached 2^47. -/
def execLinkCounterExhaust (b : Fin 4) (n : Fin 14) (cyc : Nat) (s : State) : Host.Outcome State Fault Refusal :=
  let s := s.advance cyc
  let v := s.strand b n
  .next (if s.link.on ∧ 2 ^ 47 ≤ v.counter ∧ !v.warned then
      let lane := match strandLanes n with
        | l :: _ => l
        | [] => 0
      (s.setStrand b n { v with warned := true }).logFault Flt.SEC_LINK_EXHAUST blkSEC (laneDetail b lane)
    else s)

/-! ### The boundary -/

/-- The strands, with one for each lane that comes UP. -/
def State.risingStrands (s : State) : Table Strand :=
  s.brd.lanes.foldl (fun t (k, v) => match strandOf (Fin.ofNat 32 k) with
    | some n => if v.upDue then t.put (k / 32 * 16 + n.val) (t.getD (k / 32 * 16 + n.val) .reset) else t
    | none => t) s.brd.strands

/-- Bridle links at a boundary: trained lanes come UP, and the figures of the stride close (R406 to R408). -/
def State.bridleBoundary (s : State) : State :=
  { s with brd := { s.brd with
      lanes := s.brd.lanes.mapVals fun _ (v : Lane) =>
        let v := { v with ucwLast := min v.ucw 65535, csymLast := min v.csym 65535, ucw := 0, csym := 0 }
        if v.upDue then { v with link := .up, upDue := false, trainFail := 0, trainAt := none, exchanges := [] } else v
      strands := s.risingStrands.mapVals fun k (v : Strand) =>
        { v with silent := if s.lanesUp (Fin.ofNat 4 (k / 16)) (Fin.ofNat 14 (k % 16)) = 0 then 1 else v.silent + 1 } } }

/-- Every strand sends what it may. -/
def State.pumpStrands (s : State) : State := (allFin 4).foldl (fun s b => (allFin 14).foldl (fun s n => s.pumpStrand b n) s) s

end Sys2Proof.Machine
end

