-- ==== Sys2Proof/Machine/EduUnit.lean ====
section
/-! DEFINITION. The expert dispatch unit: acceptance of a DISPATCH, batches, mailboxes, resolutions and combine (R132 to
R151, R370). -/

namespace Sys2Proof.Machine

def eduAccess (job : Nat) : Accessor := engineAccess job blkEDU

/-! ### Tables (R133, R134, R238) -/

def State.eduBase (s : State) (b : Bool) : Nat :=
  if b then s.baseOf Reg.EDU_TBL_B_LO Reg.EDU_TBL_B_HI 12 else s.baseOf Reg.EDU_TBL_A_LO Reg.EDU_TBL_A_HI 12

/-- Bytes of an element of a row format. -/
def elemSize (fmt : Nat) : Nat := formatBits fmt / 8

/-- The row pitch in units (R139). -/
def rowUnits (fmt n : Nat) : Nat := ceilDiv (n * elemSize fmt) 64

/-- A layer entry (R133). Its reserved fields are ignored. DESIGN CHOICE, assumption 148. -/
def layerOf (ws : List Word) : EduLayer :=
  let w (i : Nat) : Word := ws.getD i 0
  let act := (w 0).field 28 25
  let res := (w 0).field 24 21
  let ret := (w 0).field 20 17
  let d := (w 1).field 15 0
  let experts := (w 0).field 9 0
  { valid := (w 0).bit 31 && decide ((w 0).field 30 29 ≤ 2) && [1, 2, 5].contains act && [1, 2, 5].contains res
      && [1, 2, 5, 6].contains ret && decide (1 ≤ experts ∧ experts ≤ 512)
      && decide (d % 32 = 0 ∧ 32 ≤ d ∧ d ≤ 16384) && decide (d * max (elemSize act) (elemSize res) ≤ 16384),
    policy := (w 0).field 30 29, act := act, res := res, ret := ret, sat := (w 0).bit 16, experts := experts,
    dModel := d, place := (w 2).field 31 4 * 16 + (w 3).field 11 0 * 2 ^ 32 }

/-- The layer entry of the active set; a read that fails is an entry that is not valid (R238). The EDU reads its tables as
job 0. DEDUCED, assumption 27. -/
def State.readLayer (s : State) (layer : Nat) : EduLayer × State :=
  match s.loadWords (eduAccess 0) (s.eduBase s.edu.active + 32 * layer) 8 with
  | (some ws, s) => (layerOf ws, s)
  | (none, s) => (layerOf [], s)

/-- The words of a placement entry, none where its valid bit is 0 or its read fails (R238). -/
def State.readPlace (s : State) (l : EduLayer) (inst : Nat) : Option (List Word) × State :=
  match s.loadWords (eduAccess 0) (l.place + 16 * inst) 4 with
  | (some ws, s) => (if (ws.getD 0 0).bit 31 then some ws else none, s)
  | (none, s) => (none, s)

/-! ### Staging slots (R141, R142) -/

/-- Result slots of a token: one for each entry dispatched until its row is written. -/
def EduToken.slots (t : EduToken) : Nat :=
  if t.written || t.barred then 0 else (t.entries.filter fun e => e.res != .discarded).length

/-- Staging slots in use. -/
def Edu.slotsUsed (e : Edu) : Nat :=
  ((e.dispatches.flatMap (·.tokens)).map EduToken.slots).sum + (e.held.filter (·.slot)).length
    + ((e.batches.flatMap (·.sels)).filter fun x => x.slot && !x.gone).length

def State.eduSlotsFree (s : State) : Nat := s.regF Reg.EDU_STAGE_SLOTS 15 0 - s.edu.slotsUsed

/-- The boundary at which what arrives now is grouped (R141, R142). -/
def State.eduBoundaryOf (s : State) : Nat :=
  let cutoff := min (s.liveF Reg.EDU_CUTOFF 9 0) (s.clk.len - 128)
  if s.clk.cycle < cutoff then s.clk.bnd + 1 else s.clk.bnd + 2

def State.setEdu (s : State) (e : Edu) : State := { s with edu := e }

/-! ### Messages (R142, R370, R387) -/

def meshX (m : Nat) : Nat := m % 8
def meshY (m : Nat) : Nat := m / 8

/-- A list of bytes cut into the parts of a message: `first` bytes, then 240 each. -/
def messageParts (first : Nat) (bs : List Byte) : List (List Byte) :=
  bs.take first :: groupsOf 240 (bs.drop first)

/-- The prefix of a part (R370). `w2` is its word 2: the entry position, or what a SPILL forward adds. -/
def eduPrefix (kind layer part parts tag token w2 : Nat) : List Byte :=
  bytesOf [BitVec.ofNat 32 (putBits 31 28 kind + putBits 23 16 layer + putBits 15 8 part + parts),
    BitVec.ofNat 32 (putBits 31 16 tag + putBits 15 4 token), BitVec.ofNat 32 w2, 0]

/-- Word 2 of a SPILL forward: that it is one, and the module whose DISPATCH the selection belongs to. R370 gives the message no field for
either. Its entry position tells the parts of one token's forwards apart. DESIGN CHOICE, assumption 143. -/
def spillWord (origin pos : Nat) : Nat := putBits 31 31 1 + putBits 30 26 origin + pos

/-- A message handed to the fabric, part by part. -/
def State.eduSend (s : State) (dst : List Nat) (job kind layer tag token w2 : Nat) (block row : List Byte) : State :=
  let parts := if kind = 1 ∨ kind = 2 then messageParts (240 - block.length) row else [[]]
  { s with toIssue := s.toIssue ++ parts.zipIdx.map fun (bs, i) =>
      let data := eduPrefix kind layer i parts.length tag token w2 ++ (if i = 0 then block ++ bs else bs)
      ⟨.engine blkEDU, 8, 0, 0, data.length, data, job, dst⟩ }

/-- The selection block of a token's selections that live on other modules (R370). -/
def selectionBlock (l : List (Nat × Nat × Nat)) : List Byte :=
  let ws := l.map fun (m, pos, expert) =>
    (BitVec.ofNat 32 (putBits 31 27 m + putBits 26 24 pos + putBits 23 23 1 + expert) : Word)
  bytesOf ((ws ++ List.replicate 8 0).take 8)

/-- The transfers of one token row (R142): a multicast where two or more homes share the sender's row or column, else
unicasts. -/
def eduTargets (me : Nat) (homes : List Nat) : List (List Nat) :=
  let row := homes.filter fun m => meshY m == meshY me
  let col := homes.filter fun m => meshX m == meshX me && meshY m != meshY me
  let rest := homes.filter fun m => meshX m != meshX me && meshY m != meshY me
  (if 2 ≤ row.length then [row] else row.map fun m => [m])
    ++ (if 2 ≤ col.length then [col] else col.map fun m => [m]) ++ rest.map fun m => [m]

/-! ### Resolutions at the origin (R146, R147) -/

/-- A resolution recorded for an entry that has none yet; an abandonment poisons its token's row and raises the fault, once for the token. The
row of a token that is poisoned, or written already, does not change any more. -/
def State.recordResolution (s : State) (tag token pos : Nat) (r : Resolution) : State :=
  match s.edu.dispatches.find? fun d => d.tag == tag with
  | none => s
  | some d =>
    let t := d.tokens.getD token ⟨false, [], true, true, false⟩
    match t.entries[pos]? with
    | none => s
    | some e =>
      if e.res ≠ .waiting then s
      else
        let t' := { t with entries := t.entries.set pos { e with res := r }, poisoned := t.poisoned || r == .abandoned }
        let d' := { d with tokens := d.tokens.set token t' }
        let s := s.setEdu { s.edu with dispatches := s.edu.dispatches.map fun x => if x.tag = tag then d' else x }
        if r = .abandoned ∧ !t.poisoned then s.raiseTo Flt.EDU_RESULT_TIMEOUT blkEDU d.job d.offset else s

/-- A home's resolution of a selection sent to its origin (R146, R147). -/
def State.resolve (s : State) (x : EduSelection) (r : Resolution) : State :=
  if x.source = s.regF Reg.FAB_POS 4 0 then s.recordResolution x.tag x.token x.pos r
  else
    let (kind, row) := match r with
      | .result row => (2, row)
      | .dropped => (3, [])
      | _ => (4, [])
    s.eduSend [x.source] x.job kind x.layer x.tag x.token x.pos [] row

/-! ### Overflow (R145) -/

/-- A selection dropped, and its slot freed. -/
def State.dropSelection (s : State) (x : EduSelection) : State :=
  (s.bump (Reg.EDU_CNT_n + 16) 1).resolve x .dropped

/-- One overflowing selection under its layer's policy. It is not among the held ones when this is called. One that arrived to find no row slot is
deferred, or spilled to a replica here, without a slot. DESIGN CHOICE, assumption 144. A selection forwarded keeps its origin, and its replica's
number, which may take 10 bits, stands in the block's word where others have the expert. DESIGN CHOICE, assumption 143. A selection whose own placement entry
is not valid names no replica. DESIGN CHOICE, assumption 189. -/
def State.overflow (s : State) (l : EduLayer) (place : Option (List Word)) (x : EduSelection) : State :=
  if x.spilled then s.dropSelection x
  else match l.policy with
    | 1 =>
      if x.deferred < 4 then
        let s := s.setEdu { s.edu with
          held := s.edu.held ++ [{ x with deferred := x.deferred + 1, eligible := s.clk.bnd + 1 }] }
        s.bump (Reg.EDU_CNT_n + 8) 1
      else s.dropSelection x
    | 2 =>
      match place with
      | none => s.dropSelection x
      | some ws =>
        let replica := (ws.getD 1 0).field 29 20
        if replica = 0x3FF then s.dropSelection x
        else match s.readPlace l replica with
          | (none, s) => s.dropSelection x
          | (some rw, s) =>
            let s := s.bump (Reg.EDU_CNT_n + 12) 1
            let home := (rw.getD 0 0).field 29 25
            if home = s.regF Reg.FAB_POS 4 0 then
              s.setEdu { s.edu with
                held := s.edu.held ++ [{ x with inst := replica, spilled := true, eligible := s.clk.bnd + 1 }] }
            else s.eduSend [home] x.job 1 x.layer x.tag x.token (spillWord x.source x.pos) (selectionBlock [(home, x.pos, replica)]) x.row
    | _ => s.dropSelection x

/-- A selection arrives at its home with a row slot, or is overflow at once (R142). -/
def State.eduArrive (s : State) (l : EduLayer) (x : EduSelection) : State :=
  if 0 < s.eduSlotsFree then s.setEdu { s.edu with held := s.edu.held ++ [{ x with slot := true }] }
  else
    let got := s.readPlace l x.inst
    let place := got.1
    let s := got.2
    s.overflow l place x

/-! ### Acceptance (R137 to R142) -/

/-- The entries of one token from its selection words: those out of range or repeated are discarded (R138). -/
def tokenOf (experts : Nat) (ws : List Word) : EduToken :=
  let exited := (ws.getD 0 0).bit 15
  let entries := ws.foldl (fun (acc : List EduEntry) w =>
    let e := w.field 8 0
    let bad := exited || decide (experts ≤ e) || acc.any fun x => x.expert == e
    acc ++ [⟨e, w.field 31 16, if bad then .discarded else .waiting⟩]) []
  ⟨exited, entries, false, false, false⟩

/-- Entries discarded for one of the other reasons of R138; those of an exited token are not looked at. DESIGN CHOICE, assumption 147. -/
def EduToken.discards (t : EduToken) : Nat :=
  if t.exited then 0 else (t.entries.filter fun e => e.res == .discarded).length

/-- The dispatched entries of a token: position and expert. -/
def EduToken.chosen (t : EduToken) : List (Nat × Nat) :=
  t.entries.zipIdx.filterMap fun (e, i) => if e.res = .waiting then some (i, e.expert) else none

/-- The homes of a token's selections; where the placement entry is not valid or cannot be read, this module, which finds it so again at
grouping. DESIGN CHOICE, assumption 145. -/
def State.homesOf (s : State) (l : EduLayer) : List (Nat × Nat) → List (Nat × Nat × Nat) × State
  | [] => ([], s)
  | (pos, expert) :: t =>
    let got := s.readPlace l expert
    let p := got.1
    let s := got.2
    let home := match p with
      | some ws => (ws.getD 0 0).field 29 25
      | none => s.regF Reg.FAB_POS 4 0
    let got := s.homesOf l t
    let r := got.1
    let s := got.2
    ((home, pos, expert) :: r, s)

/-- A selection abandoned and counted at the EDU that abandons it (R147, R151). -/
def State.abandon (s : State) (x : EduSelection) : State := (s.bump (Reg.EDU_CNT_n + 28) 1).resolve x .abandoned

/-- One token of an accepted DISPATCH: its row goes to the homes of its selections (R142). An access for it that is refused or fails
abandons its selections (R140, R147, R238). -/
def State.sendToken (s : State) (d : EduDispatch) (layer tok i : Nat) (t : EduToken) : State :=
  if t.chosen = [] then s
  else
    let me := s.regF Reg.FAB_POS 4 0
    let pitch := rowUnits d.cfg.act d.cfg.dModel
    let got := s.load (eduAccess d.job) (scratchAddr d.q.core ((tok + i * pitch) * 64))
      (d.cfg.dModel * elemSize d.cfg.act)
    let row := got.1
    let st := got.2.1
    let s := got.2.2
    if st ≠ .ok then
      t.chosen.foldl (fun s (pos, _) => (s.bump (Reg.EDU_CNT_n + 28) 1).recordResolution d.tag i pos .abandoned) s
    else
      let got := s.homesOf d.cfg t.chosen
      let homes := got.1
      let s := got.2
      let away := homes.filter fun h => h.1 != me
      let s := (eduTargets me (distinctNat (away.map (·.1)))).foldl (fun s dst =>
        s.eduSend dst d.job 1 layer d.tag i 0 (selectionBlock away) row) s
      let due := s.eduBoundaryOf
      (homes.filter fun h => h.1 == me).foldl (fun s (_, pos, expert) =>
        s.eduArrive d.cfg ⟨me, d.q.core.gid, d.tag, i, pos, layer, expert, d.job, d.offset, row, 0, false, due, false, false⟩) s
where
  /-- Numbers without repeats. -/
  distinctNat (l : List Nat) : List Nat := l.foldl (fun acc x => if x ∈ acc then acc else acc ++ [x]) []

/-- The tokens of a DISPATCH as it is accepted (R138): from its layer and its selection array, poisoned where the layer is not valid or the array
could not be read, which abandons every selection (R140, R147). -/
def acceptedTokens (l : EduLayer) (x : DispatchArgs) (read : Bool) (sel : List Byte) : List EduToken :=
  if l.valid && read then
    (List.range x.tokens).map fun t => tokenOf l.experts ((wordsOf (sel.drop (4 * x.topk * t))).take x.topk)
  else List.replicate x.tokens ⟨false, [], true, false, false⟩

/-- Every selection of a DISPATCH abandoned because the selection array could not be read: counted, with the fault once for each token. -/
def State.abandonAll (s : State) (job offset : Nat) (x : DispatchArgs) : State :=
  (List.range x.tokens).foldl (fun s _ => s.raiseTo Flt.EDU_RESULT_TIMEOUT blkEDU job offset) (s.bump (Reg.EDU_CNT_n + 28) (x.tokens * x.topk))

/-- DISPATCH (R138, R139, R141, R142): the EDU accepts it once the result slots it needs are free together. DESIGN CHOICE, assumption 186. -/
def State.dispatch (s0 : State) (q : QueueId) (e : Exec) (x : DispatchArgs) : State :=
  if !s0.isOn .edu then s0
  else
    let job := (s0.queue q).job
    let got := s0.readLayer x.layer
    let l := got.1
    let s := got.2
    let got := s.load (eduAccess job) (scratchAddr q.core (x.sel * 64)) (4 * x.topk * x.tokens)
    let sel := got.1
    let st := got.2.1
    let s := got.2.2
    let tokens := acceptedTokens l x (st == .ok) sel
    let need := (tokens.map EduToken.slots).sum
    if need ≠ 0 ∧ s0.eduSlotsFree < need then s0
    else
      let d : EduDispatch := ⟨s.edu.nextTag, q, job, e.desc.offset, l, x.ret, x.doneSpace, x.doneIdx, s.now, tokens⟩
      let s := s.setEdu { s.edu with nextTag := (s.edu.nextTag + 1) % 65536, dispatches := s.edu.dispatches ++ [d] }
      let s := if !l.valid then s.raiseTo Flt.EDU_LAYER_INVALID blkEDU job d.offset
        else if st = .ok then s else s.abandonAll job d.offset x
      let bad := (tokens.map EduToken.discards).sum
      let s := if bad = 0 then s
        else (s.bump (Reg.EDU_CNT_n + 24) bad).raiseTo Flt.EDU_SEL_INVALID blkEDU job d.offset
      let exits := (tokens.filter (·.exited)).length
      let s := if exits = 0 then s else s.bump (Reg.EDU_CNT_n + 20) exits
      let s := if need = 0 then s else s.bump Reg.EDU_CNT_n need
      let s := tokens.zipIdx.foldl (fun s (t, i) => s.sendToken d x.layer x.tok i t) s
      s.complete q e (accessStatus st) .zero

def execDispatch (q : QueueId) (s : State) : Host.Outcome State Fault Refusal :=
  .next (match s.running q opDispatch with
    | none => s
    | some e =>
      let x := e.desc.dispatch
      if s.hazard q.core [spanOf false x.sel (4 * x.topk * x.tokens)] then s else s.dispatch q e x)

/-- A complete message of another module taken by the EDU (R142, R145 to R147, R370). A SPILL forward names, after its sender, the
origin of its selection, which is then spilled, and its place in ten bits. An EDU that is stopping takes no selection any more, but the resolutions it
waits for (R454). -/
def State.eduMessage (s : State) (source : Nat) (origin : Option Nat) (kind job layer tag token pos : Nat) (block : List Word) (row : List Byte) :
    State :=
  if kind = 1 then
    if !s.isOn .edu then s
    else
      let got := s.readLayer layer
      let l := got.1
      let s := got.2
      let me := s.regF Reg.FAB_POS 4 0
      let due := s.eduBoundaryOf
      ((block.takeWhile fun w => w.bit 23).filter fun w => w.field 31 27 == me).foldl (fun s w =>
        let inst := w.field (if origin.isSome then 9 else 8) 0
        s.eduArrive l ⟨origin.getD source, 0, tag, token, w.field 26 24, layer, inst, job, 0, row, 0, origin.isSome, due, false, false⟩) s
  else if !(s.isOn .edu || (s.unit .edu).st == .stopping) then s
  else match kind with
    | 2 => s.recordResolution tag token pos (.result row)
    | 3 => s.recordResolution tag token pos .dropped
    | 4 => s.recordResolution tag token pos .abandoned
    | _ => s

/-- EDU_MESSAGE_RECEIVE (R370): a complete message. -/
def execEduMessageReceive (source : Fin 32 × Option (Fin 32)) (kind : Fin 16) (job : BitVec 12) (layer : BitVec 8) (tag : BitVec 16)
    (token : BitVec 12) (pos : Fin 8) (block : List Word) (row : List Byte) (cyc : Nat)
    (s : State) : Host.Outcome State Fault Refusal :=
  .next ((s.advance cyc).eduMessage source.1.val (source.2.map Fin.val) kind.val job.toNat layer.toNat tag.toNat token.toNat pos.val block row)

/-- A message of which every part has arrived, in the order of its parts; the first of a SEL starts with the selection block (R370). -/
def State.eduComplete (s : State) (p : EduParts) (job : Nat) : State :=
  let w (i : Nat) : Word := p.head.getD i 0
  let kind := (w 0).field 31 28
  let bytes := (List.range ((w 0).field 7 0)).flatMap fun i => p.got.getD i []
  let at_ := if kind = 1 then 32 else 0
  s.eduMessage p.source (if kind = 1 ∧ (w 2).bit 31 then some ((w 2).field 30 26) else none) kind job ((w 0).field 23 16) ((w 1).field 31 16)
    ((w 1).field 15 4) ((w 2).field 2 0) (wordsOf (bytes.take at_)) (bytes.drop at_)

/-- A part of a message arrives from a module; the message is used once every part of it has (R370). -/
def State.eduPart (s : State) (source job : Nat) (data : List Byte) : State :=
  let ws := wordsOf (data.take 16)
  let w0 : Word := ws.getD 0 0
  let head := ws.set 0 (w0.setField 15 8 0)
  let mine := fun (p : EduParts) => p.source == source && p.head == head
  let p : EduParts := (s.edu.parts.find? mine).getD ⟨source, head, []⟩
  let p := { p with got := p.got.put (w0.field 15 8) (data.drop 16) }
  let rest := s.edu.parts.filter fun x => !mine x
  if (List.range (w0.field 7 0)).all fun i => (p.got.find? i).isSome then (s.setEdu { s.edu with parts := rest }).eduComplete p job
  else s.setEdu { s.edu with parts := rest ++ [p] }

/-! ### Batches (R143 to R147) -/

/-- Of two 16-bit tags given in turn, the first was given before the second. -/
def tagBefore (x y : Nat) : Bool :=
  let d := (y + 65536 - x % 65536) % 65536
  decide (0 < d ∧ d < 32768)

/-- The order of R143 among the eligible selections of an instance. Selections of another module carry no core number and
are ordered by their DISPATCH's tag, given in acceptance order. DEDUCED, assumption 28. -/
def eduBefore (x y : EduSelection) : Bool :=
  before [4 - x.deferred, x.source, x.core] [4 - y.deferred, y.source, y.core]
    ([4 - x.deferred, x.source, x.core] == [4 - y.deferred, y.source, y.core]
      && (tagBefore x.tag y.tag || (x.tag == y.tag && before [x.token, x.pos] [y.token, y.pos] false)))
where
  /-- Lexicographic order; `e` where the lists are equal. -/
  before : List Nat → List Nat → Bool → Bool
    | a :: t, b :: u, e => decide (a < b) || (a == b && before t u e)
    | _, _, e => e

/-- The jobs of selections and the offset of each one's first DISPATCH, without repeats. -/
def jobsOf (l : List EduSelection) : List (Nat × Nat) :=
  l.foldl (fun acc x => if acc.any fun a => a.1 == x.job then acc else acc ++ [(x.job, x.offset)]) []

/-- The batches of an instance whose selections have not resolved. -/
def Edu.openBatches (e : Edu) (layer inst : Nat) : List EduBatch :=
  e.batches.filter fun b => b.layer == layer && b.inst == inst && !b.gone

/-- Where the done counter of an instance's batches is kept. -/
def seenKey (layer inst ctr : Nat) : Nat := (layer * 1024 + inst) * 256 + ctr % 256

/-- How often the module counter that an instance's descriptors signal has been increased by signals; INIT and SET are no increase (R144, R326).
DEDUCED, assumption 183. -/
def State.doneTotal (s : State) (ctr : Nat) : Nat := s.edu.pulses.getD (ctr % 256) 0

/-- The selections of an instance without a batch: overflow. -/
def State.overflowAll (s : State) (l : EduLayer) (place : Option (List Word)) (l' : List EduSelection) : State :=
  l'.foldl (fun s x => s.overflow l place x) s

/-- A batch formed of an instance's first selections (R143, R144). The cap and the ready handle of an entry count as they stand. DESIGN CHOICE,
assumption 184. Increases of its done counter count from now where no batch of the
instance waits for that counter. -/
def State.formBatch (s : State) (layer inst : Nat) (l : EduLayer) (ws : List Word) (sels : List EduSelection) : State :=
  let cap := (ws.getD 3 0).field 31 21
  let half := s.edu.halves.getD (layer * 1024 + inst) false
  let done := (ws.getD 3 0).field 14 7
  let key := seenKey layer inst done
  let waits := s.edu.batches.any fun b => b.layer == layer && b.inst == inst && b.doneCtr == done
  let b : EduBatch :=
    { layer := layer, inst := inst, sels := sels.take cap, half := half, setB := s.edu.active, cfg := l,
      lead := (ws.getD 0 0).field 24 14, bufTally := (ws.getD 0 0).bit 30, inOff := (ws.getD 1 0).field 18 0,
      outOff := (ws.getD 2 0).field 18 0, cap := cap, readyH := (ws.getD 3 0).field 20 15, doneCtr := done,
      stride := s.clk.stride, readyAt := none, gone := false }
  if b.sels = [] then s
  else
    (s.setEdu { s.edu with batches := s.edu.batches ++ [b], halves := s.edu.halves.put (layer * 1024 + inst) (!half),
                           seen := if waits then s.edu.seen else s.edu.seen.put key (s.doneTotal done) }).bump
      (Reg.EDU_CNT_n + 4) b.sels.length

/-- The selections of an instance that may be grouped now. -/
def State.eligible_ (s : State) (layer inst : Nat) (x : EduSelection) : Bool :=
  x.layer == layer && x.inst == inst && decide (x.eligible ≤ s.clk.bnd)

/-- One instance at a boundary (R143, R145): its batch is formed, the rest are overflow. The jobs whose selections find the instance
unavailable, with the offset of a DISPATCH of each. A layer entry that is not valid makes the instance unavailable, and its policy counts as it stands.
DESIGN CHOICE, assumption 188. -/
def State.groupInstance (s : State) (layer inst : Nat) : List (Nat × Nat) × State :=
  let sels := sortBy eduBefore (s.edu.held.filter fun x => s.eligible_ layer inst x)
  let s := s.setEdu { s.edu with held := s.edu.held.filter fun x => !s.eligible_ layer inst x }
  let got := s.readLayer layer
  let l := got.1
  let s := got.2
  let got := if l.valid then s.readPlace l inst else (none, s)
  let s := got.2
  let lead := got.1.bind fun ws => coreOf ((ws.getD 0 0).field 24 14)
  let live := match lead with
    | some c => s.isOn (.core c)
    | none => false
  match got.1 with
  | some ws =>
    if !live then (jobsOf sels, s.overflowAll l got.1 sels)
    else if 2 ≤ (s.edu.openBatches layer inst).length then ([], s.overflowAll l got.1 sels)
    else ([], (s.formBatch layer inst l ws sels).overflowAll l got.1 (sels.drop ((ws.getD 3 0).field 31 21)))
  | none => (jobsOf sels, s.overflowAll l none sels)

/-- Instances in turn; the jobs to be told are gathered. -/
def State.groupInstances (s : State) : List (Nat × Nat) → List (Nat × Nat) × State
  | [] => ([], s)
  | (l, i) :: t =>
    let got := s.groupInstance l i
    let more := got.2.groupInstances t
    (got.1 ++ more.1, more.2)

/-- EDU_EXPERT_UNAVAILABLE, once to each job of a list (R143), with the offset of its first DISPATCH here, 0 where there is none. DESIGN CHOICE,
assumption 187. -/
def State.tellUnavailable (s : State) (l : List (Nat × Nat)) : State :=
  (l.foldl (fun (acc : List (Nat × Nat)) x => if acc.any fun a => a.1 == x.1 then acc else acc ++ [x]) []).foldl
    (fun s x => s.raiseTo Flt.EDU_EXPERT_UNAVAILABLE blkEDU x.1 x.2) s

/-- The EDU at a boundary (R135, R141, R143): a table switch first, then one batch per instance. -/
def State.eduBoundary (s : State) : State :=
  let keys := (s.edu.held.filter fun x => decide (x.eligible ≤ s.clk.bnd)).foldl (fun (acc : List (Nat × Nat)) x =>
    if (x.layer, x.inst) ∈ acc then acc else acc ++ [(x.layer, x.inst)]) []
  let keys := sortBy (fun (a, b) (c, d) => decide (a < c) || (a == c && decide (b < d))) keys
  let s := if s.isOn .edu ∨ (s.unit .edu).st = .stopping then 
      let got := s.groupInstances keys
      got.2.tellUnavailable got.1
    else s
  s.setReg Reg.EDU_STAGE_FREE (BitVec.ofNat 32 s.eduSlotsFree)

def EduBatch.is (b : EduBatch) (layer inst : Nat) : Bool := b.layer == layer && b.inst == inst

/-- A batch replaced. -/
def State.mapBatches (s : State) (f : EduBatch → EduBatch) : State :=
  s.setEdu { s.edu with batches := s.edu.batches.map f }

/-- The address of a unit of a batch's mailbox. -/
def EduBatch.mailbox (b : EduBatch) (unit : Nat) : Nat :=
  let c : CoreId := (coreOf b.lead).getD ⟨0, 0⟩
  if b.bufTally then tallyAddr c (unit * 64) else scratchAddr c (unit * 64)

/-- Rows of a batch written one by one: the state, and the batch's selections, those marked whose access was refused or failed, which abandons
them (R140, R147). -/
def State.writeRows (s : State) (b : EduBatch) (base pitch : Nat) : List (EduSelection × Nat) → List EduSelection × State
  | [] => ([], s)
  | (x, i) :: t =>
    let got := s.store (eduAccess x.job) (b.mailbox (base + i * pitch)) x.row
    let ok := got.1 == .ok
    let more := (if ok then got.2 else got.2.abandon x).writeRows b base pitch t
    ({ x with gone := x.gone || !ok } :: more.1, more.2)

/-- The selections of a batch that are not gone yet, abandoned. -/
def State.abandonBatch (s : State) (l : List EduSelection) : State :=
  (l.filter fun x => !x.gone).foldl (fun s x => s.abandon x) s

/-- The zero rows and the header of a batch written (R144), under the job of the batch's first selection. DESIGN CHOICE, assumption 142. -/
def State.writeBatchHeader (s : State) (b : EduBatch) (start pitch : Nat) : Status × State :=
  let n := b.sels.length
  let tiles := ceilDiv n 32
  let job := (b.sels.head?.map (·.job)).getD 0
  let pad := s.store (eduAccess job) (b.mailbox (start + 1 + n * pitch)) (List.replicate ((tiles * 32 - n) * pitch * 64) 0)
  let head := pad.2.storeWords (eduAccess job) (b.mailbox start)
    ([BitVec.ofNat 32 (n + putBits 31 16 tiles), BitVec.ofNat 32 b.stride.toNat,
      BitVec.ofNat 32 (b.layer + putBits 17 8 b.inst + putBits 18 18 (bitOf b.half))] ++ List.replicate 13 0)
  (worse pad.1 head.1, head.2)

/-- EDU_MAILBOX_WRITTEN (R140, R144): the rows and header of the oldest batch of an instance that awaits them are applied
and the lead core's ready counter gains the tiles. A header that is refused or fails abandons the batch, which is never ready. -/
def execEduMailboxWritten (layer : BitVec 8) (inst : Fin 1024) (s : State) : Host.Outcome State Fault Refusal :=
  .next (match s.edu.batches.find? fun b => b.is layer.toNat inst.val && b.readyAt.isNone && !b.gone with
    | none => s
    | some b =>
      let pitch := rowUnits b.cfg.act b.cfg.dModel
      let start := b.inOff + bitOf b.half * (1 + b.cap * pitch)
      let rows := s.writeRows b (start + 1) pitch b.sels.zipIdx
      let head := rows.2.writeBatchHeader b start pitch
      let s := head.2
      if head.1 ≠ .ok then
        (s.setEdu { s.edu with batches := s.edu.batches.erase b }).abandonBatch rows.1
      else
        (s.mapBatches fun y => if y = b then { y with readyAt := some s.now, sels := rows.1 } else y).signalAt 0
          (coreOf b.lead) b.readyH (ceilDiv b.sels.length 32) 0 agentEdu blkEDU)

/-- The result rows of a completed batch read and sent (R146). A read that fails abandons its selection (R238). -/
def State.sendResults (s : State) (b : EduBatch) (base pitch : Nat) : List (EduSelection × Nat) → State
  | [] => s
  | (x, i) :: t =>
    let got := s.load (eduAccess x.job) (b.mailbox (base + i * pitch)) (b.cfg.dModel * elemSize b.cfg.res)
    let s := if x.gone then s else if got.2.1 = .ok then got.2.2.resolve x (.result got.1) else got.2.2.abandon x
    s.sendResults b base pitch t

/-- The oldest ready batch of an instance whose done counter has an increase not yet taken. -/
def State.doneBatch (s : State) (layer inst : Nat) : Option EduBatch :=
  s.edu.batches.find? fun b => b.is layer inst && b.readyAt.isSome
    && decide (s.edu.seen.getD (seenKey layer inst b.doneCtr) 0 < s.doneTotal b.doneCtr)

/-- EDU_BATCH_COMPLETE (R144, R146, R147): an increase of the done counter not yet taken completes the oldest batch of
the instance that waits for it; one that was abandoned only takes the increase. -/
def execEduBatchComplete (layer : BitVec 8) (inst : Fin 1024) (s : State) : Host.Outcome State Fault Refusal :=
  .next (match s.doneBatch layer.toNat inst.val with
    | none => s
    | some b =>
      let key := seenKey layer.toNat inst.val b.doneCtr
      let s := s.setEdu { s.edu with batches := s.edu.batches.erase b, seen := s.edu.seen.put key (s.edu.seen.getD key 0 + 1) }
      if b.gone then s
      else
        let pitch := rowUnits b.cfg.res b.cfg.dModel
        s.sendResults b (b.outOff + bitOf b.half * b.cap * pitch) pitch b.sels.zipIdx)

/-- EDU_BATCH_TIMEOUT (R147): a batch not complete 24 µs after its ready signal is abandoned. -/
def execEduBatchTimeout (layer : BitVec 8) (inst : Fin 1024) (cyc : Nat) (s : State) :
    Host.Outcome State Fault Refusal :=
  let s := s.advance cyc
  .next (match s.edu.batches.find? fun b => b.is layer.toNat inst.val && !b.gone
        && b.readyAt.any (fun t => decide (t + 24000 ≤ s.now)) with
    | none => s
    | some b => (s.mapBatches fun y => if y = b then { y with gone := true, sels := [] } else y).abandonBatch b.sels)

/-- EDU_RESULT_TIMEOUT (R147): a selection without resolution 32 µs after acceptance is abandoned. -/
def execEduResultTimeout (tag : BitVec 16) (token : BitVec 12) (pos : Fin 8) (cyc : Nat) (s : State) :
    Host.Outcome State Fault Refusal :=
  let s := s.advance cyc
  .next (match s.edu.dispatches.find? fun d => d.tag == tag.toNat with
    | none => s
    | some d =>
      let waits : Bool := match (d.tokens.getD token.toNat ⟨false, [], true, true, false⟩).entries[pos.val]? with
        | some e => e.res == .waiting
        | none => false
      if waits ∧ d.atCycle + 32000 ≤ s.now then
        (s.bump (Reg.EDU_CNT_n + 28) 1).recordResolution tag.toNat token.toNat pos.val .abandoned
      else s)

/-! ### Combine (R148 to R150) -/

/-- The combined row of a token whose selections have all resolved. -/
def combineRow (l : EduLayer) (t : EduToken) : List Byte :=
  let kept := t.entries.filterMap fun e => match e.res with
    | .result row => some (fpBF16.decode e.gate, (elemCodes l.res l.dModel row).map (floatFormat l.res).decode)
    | _ => none
  let dropped := t.entries.any fun e => e.res == .dropped
  let sum := kept.foldl (fun a k => fadd a k.1) (.fin false 0 0)
  let renorm := dropped && !sum.isZero && sum.isFinite
  let weights := kept.map fun k => (if renorm then fdiv k.1 sum else k.1, k.2)
  let out := (List.range l.dModel).map fun i =>
    weights.foldl (fun r (g, y) => ffma g (y.getD i .nan) r) (.fin false 0 0)
  packCodes l.ret (convertAll l.ret l.sat (out.map fun v => (v, true))).1

/-- Every selection of a token has resolved, or it is poisoned. -/
def EduToken.ready (t : EduToken) : Bool := t.poisoned || t.entries.all fun e => e.res != .waiting

/-- The row of a token that is ready (R138, R147, R148). The rows of a DISPATCH whose layer is not valid have the length that the entry's own d_model
and ret_fmt give. DESIGN CHOICE, assumption 146. -/
def EduToken.row (l : EduLayer) (t : EduToken) : List Byte :=
  let n := l.dModel * elemSize l.ret
  if t.poisoned then poisonBytes n else if t.exited then List.replicate n 0 else combineRow l t

/-- The token's row is to be written next: it is ready, and no earlier row of the DISPATCH that is ready remains (R149). -/
def EduDispatch.nextRow (d : EduDispatch) (i : Nat) : Bool :=
  let due (t : EduToken) : Bool := !t.written && !t.barred && t.ready
  (d.tokens[i]?).any due && !(d.tokens.take i).any due

/-- An entry of a token whose row cannot be written: its selection is abandoned (R140). -/
def EduEntry.abandoned (e : EduEntry) : EduEntry := if e.res = .discarded then e else { e with res := .abandoned }

/-- EDU_COMBINE (R138, R140, R147 to R149): the combined row of a token is formed and written. A write that is refused or fails abandons the token's
selections, whose row is then never applied. The row has the formats of the layer entry read at acceptance. DESIGN CHOICE, assumption 185. -/
def execEduCombine (tag : BitVec 16) (token : BitVec 12) (s : State) : Host.Outcome State Fault Refusal :=
  .next (match s.edu.dispatches.find? fun d => d.tag == tag.toNat with
    | none => s
    | some d =>
      match d.tokens[token.toNat]? with
      | none => s
      | some t =>
        if !d.nextRow token.toNat then s
        else
          let pitch := rowUnits d.cfg.ret d.cfg.dModel
          let got := s.store (eduAccess d.job) (scratchAddr d.q.core ((d.ret + token.toNat * pitch) * 64)) (t.row d.cfg)
          let ok := got.1 == .ok
          let t' := if ok then { t with written := true } else { t with poisoned := true, barred := true, entries := t.entries.map EduEntry.abandoned }
          let d' := { d with tokens := d.tokens.set token.toNat t' }
          let s := got.2.setEdu { got.2.edu with dispatches := got.2.edu.dispatches.map fun x => if x.tag = d.tag then d' else x }
          if ok then s
          else
            let s := s.bump (Reg.EDU_CNT_n + 28) (t.entries.filter fun e => e.res != .discarded && e.res != .abandoned).length
            if t.poisoned then s else s.raiseTo Flt.EDU_RESULT_TIMEOUT blkEDU d.job d.offset)

/-- EDU_DONE_SIGNAL (R149): every row is applied. A DISPATCH of which a row could not be applied ends without its signal. -/
def execEduDoneSignal (tag : BitVec 16) (s : State) : Host.Outcome State Fault Refusal :=
  .next (match s.edu.dispatches.find? fun d => d.tag == tag.toNat with
    | none => s
    | some d =>
      if !d.tokens.all fun t => t.written || t.barred then s
      else
        let s := s.setEdu { s.edu with dispatches := s.edu.dispatches.filter fun x => x.tag != d.tag }
        if d.tokens.all (·.written) then s.signalAt d.doneSpace (some d.q.core) d.doneIdx 1 d.job agentEdu blkEDU else s)

/-- A core has left ON: its DISPATCHes lose the rows not yet written, their done signals and their result slots (R149). -/
def State.eduCoreLeft (s : State) (c : CoreId) : State :=
  s.setEdu { s.edu with dispatches := s.edu.dispatches.filter fun d => d.q.core != c || d.tokens.all (·.written) }

/-! ### Table sets (R135) -/

/-- EDU_TBL_CTL.pending: a switch is requested, or a batch of the other set is unresolved. -/
def State.eduPending (s : State) : Bool :=
  s.edu.switching || s.edu.batches.any fun b => !b.gone && b.setB != s.edu.active

/-- A write of EDU_TBL_CTL: refused is cleared by writing 1, and a switch is scheduled, or refused while pending. -/
def State.writeTblCtl (s : State) (val : Word) : State :=
  let s := if val.bit 28 then s.setEdu { s.edu with refused := false } else s
  if !val.bit 31 then s
  else if s.eduPending then s.setEdu { s.edu with refused := true }
  else (s.setEdu { s.edu with switching := true }).schedule .eduSwitch

/-- The switch at its boundary. -/
def State.eduSwitchSets (s : State) : State := s.setEdu { s.edu with active := !s.edu.active, switching := false }

def execEduTableSwitch (src : Source) (val : Word) (cyc : Nat) (s : State) : Host.Outcome State Fault Refusal :=
  let s := s.advance cyc
  .next (if s.mayWrite src Reg.EDU_TBL_CTL then s.writeTblCtl (val ||| 0x80000000) else s)

/-- A write of a base register of a table set: ignored while pending, or where the set is active (R135). -/
def State.writeTableBase (s : State) (off : Nat) (setB : Bool) (val : Word) : State :=
  if s.eduPending || setB == s.edu.active then s.setEdu { s.edu with refused := true } else s.setReg off val

/-- The EDU has stopped: every selection has resolved or been abandoned (R454). -/
def State.eduIdle (s : State) : Bool := s.edu.dispatches.isEmpty && s.edu.held.isEmpty && s.edu.batches.all (·.gone)

end Sys2Proof.Machine
end

