-- ==== Sys2Proof/Machine/Sequencer.lean ====
section
/-! DEFINITION. The Rein sequencer: fetch, start, overrun, retirement and restart of descriptors, and the control
descriptors SIGNAL, WAIT, BRANCH and LOOP. -/

namespace Sys2Proof.Machine

/-- DESCRIPTOR_FETCH (R57, R59): the descriptor at the fetch index is read from scratch as its loops patch it (R78)
and passes the fetch checks, or is rejected and halts its queue. Nothing is fetched while a LOOP or BRANCH of the queue
has yet to say where execution continues. A rejected descriptor, like any other, waits for a completion entry. -/
def State.fetch (s : State) (q : QueueId) : State :=
  let v := s.queue q
  if !s.coreLive q.core || !v.on || v.st == .halted || v.fetched.isSome || v.wait.isSome || !v.present v.pc
      || v.exec.any (fun e => !e.complete && (e.desc.opcode == opLoop || e.desc.opcode == opBranch)) then s
  else
    let off := v.slotOffset v.pc
    let ws := wordsOf (s.mem.bytes (scratchAddr q.core off) 64)
    let d : Fetched := ⟨patchWords v.pc ws v.loops, v.pc, off, v.loops⟩
    match d.check v.ringSize with
    | none => s.setQueue q { v with fetched := some d }
    | some f => if v.cplFull then s.setQueue q { v with st := .cplFull } else s.rejectDesc q d f

/-- A descriptor enters execution: it is among the started ones and the queue goes on after it. A LOOP or BRANCH says
itself where. -/
def State.enter (s : State) (q : QueueId) (d : Fetched) (complete : Bool) : State :=
  let s := if d.opcode = opAttend then s.refillFor q.core else s
  let v := s.queue q
  let v := { v with fetched := none, exec := v.exec ++ [⟨d, s.clk.cycle, s.clk.bnd, complete, stOk, .zero, s.clk.cycle⟩], st := .running }
  let v := if d.opcode = opBranch then v else if d.opcode = opLoop then { v with pc := d.index + 1 }
    else v.goTo v.loops (d.index + 1)
  (s.setQueue q v).settleQueue q

/-- R39 and R40 applied to a descriptor that could otherwise start. -/
def State.letStart (s : State) (q : QueueId) (d : Fetched) (go : State → State) : State :=
  match s.admission q.core d.bound s.clk.cycle with
  | .fits => go s
  | .held => s.setQueue q { s.queue q with st := .boundaryHold }
  | .clockHeld =>
    if (s.queue q).st = .clockHeld then s
    else (s.setQueue q { s.queue q with st := .clockHeld }).logFault Flt.RKN_DESC_CLOCK_HELD
      (coreBlock q.core q.q.val) 0

/-- The queue cannot start anything now: its core or queue is not in service, or it is held until a boundary. -/
def State.queueStopped (s : State) (q : QueueId) : Bool :=
  let v := s.queue q
  !s.coreLive q.core || !v.on || v.st == .halted || v.st == .boundaryHold || v.st == .clockHeld

/-- What R60 asks of a fetched descriptor beside its clock: its queue in service, its predecessor through, its engines free, a LOOP's whole body
present (R78). WAIT and BRANCH start in their own way (R76). -/
def State.readyDesc (s : State) (q : QueueId) (d : Fetched) : Bool :=
  !s.queueStopped q && d.opcode != opWait && d.opcode != opBranch && s.predecessorsOk q d
    && (s.core q.core).enginesBusy &&& enginesOf d.opcode == 0
    && !(d.opcode == opLoop && decide (((s.queue q).tail - d.index - 1).toNat < d.bodyLen))

/-- The engines that a queue could take now for its fetched descriptor (R60). -/
def State.couldTake (s : State) (q : QueueId) : Nat :=
  match (s.queue q).fetched with
  | none => 0
  | some d =>
    if s.readyDesc q d ∧ ¬(s.queue q).cplFull ∧ s.admission q.core d.bound s.clk.cycle = .fits then enginesOf d.opcode else 0

/-- A queue of lower number could take an engine that the descriptor needs (R60). -/
def State.yields (s : State) (q : QueueId) (d : Fetched) : Bool :=
  (allFin 4).any fun p => decide (p < q.q) && s.couldTake ⟨q.core, p⟩ &&& enginesOf d.opcode != 0

/-- DESCRIPTOR_START (R60) of the fetched descriptor at stride cycle `cyc`. -/
def State.start (s : State) (q : QueueId) (cyc : Nat) : State :=
  let s := s.advance cyc
  let v := s.queue q
  match v.fetched with
  | none => s
  | some d =>
    if !s.readyDesc q d then s
    else if v.cplFull then s.setQueue q { v with st := .cplFull }
    else if s.yields q d then s
    else s.letStart q d fun s => s.enter q d false

/-- Outstanding transactions of a stopped descriptor: those not issued are withdrawn, answers to the others are
discarded (R41). -/
def Core.stopTxns (k : Core) (q : Fin 4) (i : BitVec 16) : Core :=
  { k with mover := (k.mover.filter fun t => !(t.q == q && t.index == i && t.live && t.kind != 0) || t.issued).map fun t =>
      if t.q = q ∧ t.index = i ∧ t.kind ≠ 0 then { t with live := false, ret := none } else t }

/-- A started descriptor stopped at its bound (R41). Work already complete stays; work of a step not reached is not
done. -/
def State.overrun (s : State) (q : QueueId) (i : BitVec 16) : State :=
  let v := s.queue q
  match v.exec.find? fun e => e.desc.index == i with
  | none => s
  | some e =>
    let s := (s.setCore q.core ((s.core q.core).stopTxns q.q i)).dropRequests q i
    let v := (s.queue q).dropExec i
    let v := if v.wait.any (fun w => w.branch && w.desc.index == i) then { v with wait := none } else v
    ((s.setQueue q v).raiseQueue q Flt.RKN_DESC_OVERRUN e.desc.offset).finish q e.desc stOverrun e.exc

/-- A frame of the descriptor is still on its way (R61). -/
def State.frameInFlight (s : State) (q : QueueId) (i : BitVec 16) : Bool :=
  s.hitch.flight.any fun f => f.origin == .desc q i

/-- What a descriptor had to do was done within its bound (R61). -/
def State.inBound (s : State) (c : CoreId) (e : Exec) : Bool :=
  decide (e.stride = s.clk.bnd) && decide (e.doneAt ≤ e.start + s.strideCycles c e.desc.bound)

/-- DESCRIPTOR_RETIRE (R61): the descriptor's operations are complete and everything it issued is acknowledged. One that has come to this only
after its bound is stopped (R41). -/
def State.retire (s : State) (q : QueueId) (i : BitVec 16) : State :=
  let k := s.core q.core
  let v := k.queue q.q
  match v.exec.find? fun e => e.desc.index == i with
  | none => s
  | some e =>
    if !e.complete || !(k.pendingOf q.q i).isEmpty || s.frameInFlight q i then s
    else if !s.inBound q.core e then s.overrun q i
    else (s.setQueue q (v.dropExec i)).finish q e.desc e.status e.exc

def execDescriptorFetch (q : QueueId) (s : State) : Host.Outcome State Fault Refusal := .next (s.fetch q)

def execDescriptorStart (q : QueueId) (cyc : Nat) (s : State) : Host.Outcome State Fault Refusal :=
  .next (s.start q cyc)

/-- The bound of a started descriptor has run out (R41). -/
def State.boundOver (s : State) (q : QueueId) (i : BitVec 16) : Bool :=
  match (s.queue q).exec.find? fun e => e.desc.index == i with
  | none => false
  | some e => decide (e.stride < s.clk.bnd ∨ e.start + s.strideCycles q.core e.desc.bound ≤ s.clk.cycle)

/-- DESCRIPTOR_OVERRUN (R41): a descriptor that has not retired when its bound has elapsed since its start;
`found` is its ring index and the cycle at which that is seen. -/
def execDescriptorOverrun (q : QueueId) (found : BitVec 16 × Nat) (s : State) : Host.Outcome State Fault Refusal :=
  let index := found.1
  let s := s.advance found.2
  .next (if s.boundOver q index then s.overrun q index else s)

def execDescriptorRetire (q : QueueId) (index : BitVec 16) (s : State) : Host.Outcome State Fault Refusal :=
  .next (s.retire q index)

/-- A started descriptor as the stride ends (R41, R42): it retires if it can, and is stopped if not, so that none executes at a boundary. -/
def State.endDescriptor (s : State) (q : QueueId) (i : BitVec 16) : State :=
  let s := s.retire q i
  if (s.queue q).exec.any fun e => e.desc.index == i then s.overrun q i else s

def State.endDescriptors (s : State) : State :=
  s.cores.foldl (fun (s : State) (x : Nat × Core) => match coreOf x.1 with
    | some c => (allFin 4).foldl (fun (s : State) k =>
        ((s.queue ⟨c, k⟩).exec.map (·.desc.index)).foldl (fun s i => s.endDescriptor ⟨c, k⟩ i) s) s
    | none => s) s

/-! ### Producer and restart -/

/-- A write of RKN_Qq_TAIL (R57). -/
def State.writeTail (s : State) (q : QueueId) (tail : BitVec 16) : State :=
  let v := s.queue q
  if v.ringSize < (tail - v.head).toNat then s.raiseQueue q Flt.RKN_TAIL_BAD 0
  else (s.setQueue q { v with tail := tail }).settleQueue q

def execQueueTailWrite (src : Source) (q : QueueId) (tail : BitVec 16) (s : State) :
    Host.Outcome State Fault Refusal :=
  .next (if s.mayWrite src (queueReg q 8) then s.writeTail q tail else s)

/-- A resume write waits for its boundary; one to a queue that is not HALTED is ignored (R64). -/
def State.resume (s : State) (q : QueueId) (skip : Bool) : State :=
  if (s.queue q).st = .halted then s.schedule (.queueResume q skip) else s

def execQueueResumeRetry (src : Source) (q : QueueId) (cyc : Nat) (s : State) : Host.Outcome State Fault Refusal :=
  let s := s.advance cyc
  .next (if s.mayWrite src (queueReg q 0) then s.resume q false else s)

def execQueueResumeSkip (src : Source) (q : QueueId) (cyc : Nat) (s : State) : Host.Outcome State Fault Refusal :=
  let s := s.advance cyc
  .next (if s.mayWrite src (queueReg q 0) then s.resume q true else s)

/-! ### SIGNAL -/

/-- The rack global address of HCH_MCi of a module (R29, R340). -/
def mcAddress (module i : Nat) : Nat := module * 2 ^ 44 + registerBase + Reg.HCH_MCi + 4 * i

/-- Every store and atomic of earlier descriptors of the queue is acknowledged as applied (R75). -/
def State.earlierStoresDone (s : State) (q : QueueId) : Bool :=
  (s.core q.core).mover.all fun t => t.q != q.q || t.kind == 0 || (t.kind == 1 && t.ret.isNone)

/-- An earlier descriptor of the queue has not ended OK, so the queue halts, or has halted, at it: no later one signals (R363). -/
def Queue.signalBarred (v : Queue) (i : BitVec 16) : Bool :=
  (v.exec.takeWhile fun x => x.desc.index != i).any (fun x => x.status != stOk)
    || (v.st == .halted && v.haltIndex != i && decide ((i - v.haltIndex).toNat < 2 ^ 15))

/-- SIGNAL (R74, R75, R313, R328, R341): once its queue's earlier stores and atomics are acknowledged it launches its
frame, or, towards another module, sends the ADD32 of R341. -/
def execSignal (q : QueueId) (s : State) : Host.Outcome State Fault Refusal :=
  .next (match s.running q opSignal with
    | none => s
    | some e =>
      let d := e.desc
      let job := (s.queue q).job
      if !s.earlierStoresDone q ∨ (s.queue q).signalBarred d.index then s
      else if d.ctrSpace = 4 ∧ d.ctrModule ≠ s.moduleIndex then
        (s.putTxn q.core none fun id => ⟨id, q.q, d.index, 4, mcAddress d.ctrModule d.ctrIndex, 4,
          natLe (unsignedOf 32 d.amount) 8, none, false, .zero, false, true⟩).complete q e stOk .zero
      else match d.counter q.core with
        | none => s.complete q e stAccess .zero
        | some c =>
          let got := s.signal c d.amount job q.core.gid (coreBlock q.core q.q.val) (.desc q d.index)
          let ok := got.1
          let s := got.2
          s.complete q e (if ok then stOk else stAccess) .zero)

/-! ### WAIT and BRANCH -/

/-- What the counter says to a waiter of a job (R331, R333). A counter that is not LIVE has no owner, so its state is
judged first. DEDUCED, assumption 21. -/
inductive WaitAnswer where
  | holds
  | notHeld
  | orphan
  | refused
deriving DecidableEq, Repr

def State.judge (s : State) (c : CounterId) (job cmp : Nat) (t : Word) : WaitAnswer :=
  let v := s.ctr c
  if v.st ≠ .live then .orphan
  else if job ≠ 0 ∧ job ≠ v.job then .refused
  else if cmpHolds cmp v.value t then .holds else .notHeld

/-- What an own-core counter says to a queue of a job: the owner job must be the queue's, 0 too (R331). -/
def State.judgeJob (s : State) (c : CounterId) (job cmp : Nat) (t : Word) : WaitAnswer :=
  if (s.ctr c).st = .live ∧ job ≠ (s.ctr c).job then .refused else s.judge c job cmp t

/-- A WAIT or a BRANCH ends with a status other than OK. -/
def State.endWait (s : State) (q : QueueId) (d : Fetched) (status : Nat) : State :=
  let v := s.queue q
  (s.setQueue q { v.dropExec d.index with wait := none, fetched := none }).finish q d status .zero

/-- A BRANCH goes to its target, or on to the next descriptor (R77), and its operation is complete. -/
def State.branchTo (s : State) (q : QueueId) (d : Fetched) (taken : Bool) : State :=
  let v := { s.queue q with wait := none }
  let target := d.index + BitVec.ofInt 16 d.branchOffset
  let v := if !taken then v.goTo v.loops (d.index + 1)
    else match v.loops with
      | [] => { v with pc := target }
      | f :: fs =>
        if target = f.first + BitVec.ofNat 16 f.len then v.goTo fs target else { v with pc := target }
  let v := { v with exec := v.exec.map fun e => if e.desc.index = d.index then { e with complete := true } else e }
  (s.setQueue q v).settleQueue q

/-- A WAIT ends at its time-out and withdraws its watch (R76, R334). -/
def State.timeoutWait (s : State) (q : QueueId) (d : Fetched) : State :=
  ((s.withdrawWatches q).raiseQueue q Flt.RKN_WAIT_TIMEOUT 0).endWait q d stWaitTimeout

/-- The answer to a WAIT or BRANCH of a queue reaches its core (R331, R333, R335). A condition that comes to hold after the time-out has
elapsed comes too late (R76). -/
def State.answerWait (s : State) (q : QueueId) (a : WaitAnswer) : State :=
  match (s.queue q).wait with
  | none => s
  | some w =>
    match a with
    | .orphan => s.endWait q w.desc stOrphan
    | .refused => s.endWait q w.desc stAccess
    | .holds => if w.branch then s.branchTo q w.desc true
      else if w.timeout = some 0 then s.timeoutWait q w.desc
      else (s.setQueue q { s.queue q with wait := some { w with held := true, watch := false } }).settleQueue q
    | .notHeld => if w.branch then s.branchTo q w.desc false else s

/-- An own-core counter judged for a waiting descriptor of the queue, with the faults of R331 and R335. -/
def State.judgeOwn (s : State) (q : QueueId) : State :=
  match (s.queue q).wait with
  | none => s
  | some w =>
    if w.held || w.desc.ctrSpace != 0 then s
    else match w.desc.counter q.core with
      | none => s
      | some c =>
        match s.judgeJob c (s.queue q).job w.desc.cmp w.desc.threshold with
        | .orphan => (s.raiseQueue q Flt.HCH_ORPHAN (ctrDetail c)).answerWait q .orphan
        | .refused => (s.raiseQueue q Flt.HCH_JOB_MISMATCH 0).answerWait q .refused
        | a => s.answerWait q a

/-- A WAIT whose condition holds starts under R39; it is then complete (R67, R76). -/
def State.startWait (s : State) (q : QueueId) : State :=
  match (s.queue q).wait with
  | none => s
  | some w =>
    if !w.held || s.queueStopped q then s
    else s.letStart q w.desc fun s => (s.setQueue q { s.queue q with wait := none }).enter q w.desc true

/-- The base of the Hitch root page (R304, R332). -/
def rootPage : Nat := registerBase + Reg.HCH_CTR_SEL / 4096 * 4096

/-- The payload of the watch message of a WAIT or BRANCH (R332). -/
def watchWords (q : QueueId) (d : Fetched) : List Word :=
  [BitVec.ofNat 32 (putBits 31 29 d.ctrSpace + putBits 28 28 (bitOf (d.opcode == opBranch)) + putBits 27 26 q.q.val + putBits 25 24 d.cmp),
   d.threshold, BitVec.ofNat 32 (putBits 31 22 d.ctrIndex + q.core.gid), 0]

/-- The watch message of a WAIT or BRANCH on a root counter leaves for the Hitch root (R332), a Rein request of the queue's job and class 1
to node 63. Its source node, agent and tag are the first node of the die, the core and the queue. DESIGN CHOICE, assumption 199. -/
def State.askRoot (s : State) (q : QueueId) (d : Fetched) : State :=
  if d.ctrSpace = 0 then s
  else
    let old := s.rein.map fun (r : ReinRequest) => if r.watch = some q then { r with watch := none } else r
    { s with rein := old ++ [⟨Fin.ofNat 64 (4 * q.core.rkn.val), BitVec.ofNat 8 q.core.idx.val, BitVec.ofNat 8 q.q.val, false, 0,
        (s.queue q).job, rootPage, s.now, some q, none, 1, 63, none⟩] }

/-- WAIT (R76, R331, R332). The first time it waits for its condition: an own-core counter is judged at once, a root
counter is watched at the Hitch root. Once the condition holds it starts with its bound. -/
def State.waitStep (s : State) (q : QueueId) (cyc : Nat) : State :=
  let s := s.advance cyc
  let v := s.queue q
  match v.fetched with
  | none => s.startWait q
  | some d =>
    if d.opcode ≠ opWait ∨ s.queueStopped q ∨ !s.predecessorsOk q d then s
    else if v.cplFull then s.setQueue q { v with st := .cplFull }
    else
      let w : Waiting := ⟨d, if d.timeout = 0 then none else some d.timeout, false, d.ctrSpace != 0, false⟩
      ((((s.setQueue q { v with fetched := none, wait := some w }).settleQueue q).askRoot q d).judgeOwn q).startWait q

def execWait (q : QueueId) (cyc : Nat) (s : State) : Host.Outcome State Fault Refusal := .next (s.waitStep q cyc)

/-- A WAIT's time-out, once its boundaries have elapsed (R76). -/
def execWaitTimeout (q : QueueId) (s : State) : Host.Outcome State Fault Refusal :=
  .next (match (s.queue q).wait with
    | some w =>
      if w.timeout = some 0 ∧ !w.held ∧ !w.branch then s.timeoutWait q w.desc else s
    | none => s)

/-- The target of a BRANCH obeys R77: inside a loop it lies in the innermost body or just after it, outside it lies
ahead. -/
def Queue.branchOk (v : Queue) (d : Fetched) : Bool :=
  let target := d.index + BitVec.ofInt 16 d.branchOffset
  match v.loops with
  | [] => decide (0 < d.branchOffset)
  | f :: _ => decide ((target - f.first).toNat ≤ f.len)

/-- BRANCH (R76, R77, R331 to R334): a target out of rule rejects it; outside a loop it is WAITING until its target is
present; then it starts and its condition is judged once. -/
def State.branchStep (s : State) (q : QueueId) (cyc : Nat) : State :=
  let s := s.advance cyc
  let v := s.queue q
  let d? := match v.fetched, v.wait with
    | some d, _ => some d
    | none, some w => if w.branch then none else some w.desc
    | none, none => none
  match d? with
  | none => s
  | some d =>
    if d.opcode ≠ opBranch ∨ s.queueStopped q ∨ !s.predecessorsOk q d then s
    else if v.cplFull then s.setQueue q { v with st := .cplFull }
    else if !v.branchOk d then
      (s.setQueue q { v with wait := none }).rejectDesc q d Flt.RKN_BRANCH_RANGE
    else if v.loops = [] ∧ !v.present (d.index + BitVec.ofInt 16 d.branchOffset) then
      (s.setQueue q { v with fetched := none, wait := some ⟨d, none, false, false, false⟩ }).settleQueue q
    else s.letStart q d fun s =>
      let s := (s.setQueue q { s.queue q with wait := none }).enter q d false
      ((s.setQueue q { s.queue q with wait := some ⟨d, none, false, d.ctrSpace != 0, true⟩ }).askRoot q d).judgeOwn q

def execBranch (q : QueueId) (cyc : Nat) (s : State) : Host.Outcome State Fault Refusal := .next (s.branchStep q cyc)

/-! ### LOOP -/

/-- LOOP (R78): its body begins at iteration 0; a fifth level is rejected. -/
def execLoop (q : QueueId) (s : State) : Host.Outcome State Fault Refusal :=
  .next (match s.running q opLoop with
    | none => s
    | some e =>
      let v := s.queue q
      let d := e.desc
      if 4 ≤ v.loops.length then (s.setQueue q (v.dropExec d.index)).rejectDesc q d Flt.RKN_LOOP_DEPTH
      else
        let f : LoopFrame := ⟨d.index + 1, d.bodyLen, 0, d.loopCount, d.patches⟩
        let s := s.setQueue q { v with loops := f :: v.loops, pc := d.index + 1 }
        (s.complete q e stOk .zero).settleQueue q)

end Sys2Proof.Machine
end

