-- ==== Sys2Proof/Machine/FabricOps.lean ====
section
/-! DEFINITION. Grenzin packets, teams and routes, and the state of a fabric request (R343 to R350, R375 to R381). -/

namespace Sys2Proof.Machine

/-! ### Packets (R346 to R349) -/

/-- A header of R346. -/
structure FabHeader where
  kind : Nat
  dst : Nat
  src : Nat
  srcBridle : Nat
  epoch : Bool
  hops : Nat
  route : Nat
  hasData : Bool
  seq : Nat
  job : Nat
  port : Nat
  len : Nat
  flagEpoch : Nat
  age : Nat
  retx : Bool
  status : Nat
  count : Nat
  addr : Nat                  -- of a RESP: fault class and code
  mcast : Nat
deriving DecidableEq, Repr

def FabHeader.words (h : FabHeader) : List Nat :=
  [putBits 31 28 h.kind + putBits 27 23 h.dst + putBits 22 18 h.src + putBits 17 16 h.srcBridle + putBits 15 15 (bitOf h.epoch)
     + putBits 14 13 h.hops + putBits 12 11 h.route + putBits 10 10 (bitOf h.hasData),
   h.seq % 2 ^ 32,
   putBits 31 20 h.job + putBits 19 14 h.port + putBits 13 8 (h.len % 64) + putBits 7 0 h.flagEpoch,
   putBits 31 22 (min h.age 1023) + putBits 20 20 (bitOf h.retx) + putBits 19 16 h.status + putBits 15 0 h.count,
   h.addr % 2 ^ 32, h.addr / 2 ^ 32 % 4096, putBits 7 0 h.mcast]

/-- A packet as flits: its header with the CRC, and its payload (R346, R399). -/
def FabHeader.flits (h : FabHeader) (payload : List Byte) : List (List Word) :=
  let ws := h.words.map (BitVec.ofNat 32)
  flitsOf (ws ++ [crc32c (bytesOf ws ++ payload)] ++ wordsOf payload)

/-- Bytes of the payload a header announces (R346, R347). -/
def FabHeader.payloadLen (h : FabHeader) : Nat :=
  if h.kind = 1 ∨ h.kind = 9 then 0
  else if h.kind = 5 then (if h.hasData then 4 * lenWords h.len else 0)
  else 4 * lenWords h.len

/-- The reserved bits of the prefix of an EDU part, and of the selection block of a part 0 of a SEL, are 0 (R347, R370). A SPILL forward
has in them what assumption 143 gives it. -/
def eduBitsOk (payload : List Byte) : Bool :=
  let ws := wordsOf (payload.take 48)
  let w (i : Nat) : Word := ws.getD i 0
  let sel := (w 0).field 31 28 == 1
  let spill := sel && (w 2).bit 31
  (w 0).field 27 24 == 0 && (w 1).field 3 0 == 0 && w 3 == 0
    && (if spill then (w 2).field 25 3 == 0 else if sel then w 2 == 0 else (w 2).field 31 3 == 0)
    && (!sel || (w 0).field 15 8 != 0 || (ws.drop 4).all fun x => x.field 22 10 == 0 && (spill || !x.bit 9))

/-- The reserved bits of the prefix of a FLAG_STORE, an ATOMIC or an EDU part are 0 (R347 to R349, R370). -/
def prefixOk (kind : Nat) (payload : List Byte) : Bool :=
  let ws := wordsOf (payload.take 16)
  let w (i : Nat) : Word := ws.getD i 0
  if kind = 3 then (w 0).field 31 13 == 0 && w 1 == 0 && w 2 == 0 && w 3 == 0
  else if kind = 4 then (w 0).field 27 0 == 0 && w 3 == 0
  else if kind = 8 then eduBitsOk payload
  else true

/-- The header and payload of a packet that has arrived; none where its CRC, its kind or a reserved bit is wrong (R347). -/
def Arrived.read (a : Arrived) : Option (FabHeader × List Byte) :=
  let w (i : Nat) : Word := a.words.getD i 0
  let k := (w 0).field 31 28
  let h : FabHeader :=
    { kind := k, dst := (w 0).field 27 23, src := (w 0).field 22 18, srcBridle := (w 0).field 17 16, epoch := (w 0).bit 15,
      hops := (w 0).field 14 13, route := (w 0).field 12 11, hasData := (w 0).bit 10, seq := (w 1).toNat,
      job := (w 2).field 31 20, port := (w 2).field 19 14, len := (w 2).field 13 8, flagEpoch := (w 2).field 7 0,
      age := (w 3).field 31 22, retx := (w 3).bit 20, status := (w 3).field 19 16, count := (w 3).field 15 0,
      addr := (w 5).field 11 0 * 2 ^ 32 + (w 4).toNat, mcast := (w 6).field 7 0 }
  let payload := a.payload.take h.payloadLen
  let kindOk := decide (1 ≤ k ∧ k ≤ 5) || k == 8 || k == 9
  let reservedOk := (w 0).field 9 0 == 0 && !(w 3).bit 21 && (w 5).field 31 12 == 0 && (w 6).field 31 8 == 0
    && (k == 5 || ((w 4).field 1 0 == 0 && h.status == 0)) && (k == 3 || h.count == 0)
  if kindOk && reservedOk && prefixOk k payload && payload.length == h.payloadLen && crc32c (bytesOf (a.words.take 7) ++ payload) == w 7 then
    some (h, payload)
  else none

/-! ### Teams (R373, R375) -/

def modX (m : Nat) : Nat := m % 8
def modY (m : Nat) : Nat := m / 8

/-- The team of module `m` that leads to module `d` of its row or column. -/
def teamTo (m d : Nat) : Option (Fin 10) :=
  if m = d then none
  else if modY m = modY d then some ⟨(modX d + 7 - modX m) % 8 % 10, Nat.mod_lt _ (by decide)⟩
  else if modX m = modX d then some ⟨(6 + (modY d + 4 - modY m) % 4) % 10, Nat.mod_lt _ (by decide)⟩
  else none

/-- The module a team of module `m` leads to. -/
def teamMate (m : Nat) (t : Fin 10) : Nat := teamPeer (modX m) (modY m) t.val

/-- The strand of a team on a Bridle. -/
def teamStrand (t : Fin 10) : Fin 14 := ⟨t.val, by omega⟩

/-- A team is up while one of its lanes is UP (R375). -/
def State.teamUp (s : State) (t : Fin 10) : Bool := (allFin 4).any fun b => decide (0 < s.lanesUp b (teamStrand t))

def State.teamsUp (s : State) : Nat := ((allFin 10).map fun t => bitOf (s.teamUp t) * 2 ^ t.val).sum

/-- A control frame sent on every strand of every team that is up (R399). -/
def State.teamFrames (s : State) (ws : List Word) : State :=
  ((allFin 10).filter s.teamUp).foldl (fun (s : State) t =>
    ((allFin 4).filter fun b => decide (0 < s.lanesUp b (teamStrand t))).foldl (fun (s : State) b => s.controlSend b (teamStrand t) none ws) s) s

/-- A team is usable for packets of an epoch (R375). -/
def State.teamUsable (s : State) (e : Bool) (t : Fin 10) : Bool :=
  s.routing.ready.testBit t.val && ((s.routing.table e).word 32).bit t.val

/-- The module is aligned (R375). -/
def State.aligned (s : State) : Bool := s.sync.st != .alone && s.sync.st != .resync

/-! ### Routes (R377 to R379) -/

/-- The rack map shows a team of a module up (R377). -/
def State.mapUp (s : State) (m : Nat) (t : Fin 10) : Bool :=
  match s.routing.map.find? m with
  | some e => decide (e.age < 4) && e.teams.testBit t.val
  | none => false

/-- From a module `m` the hop to `d` of its row or column is up. -/
def State.hopUp (s : State) (m d : Nat) : Bool :=
  match teamTo m d with
  | some t => s.mapUp m t
  | none => false

/-- A minimal route from a relay `m` to `d` is up; it may come back through this module. -/
def State.relayUp (s : State) (m d : Nat) : Bool :=
  if m = d then true
  else if modX m = modX d ∨ modY m = modY d then s.hopUp m d
  else
    let a := modY m * 8 + modX d
    let b := modY d * 8 + modX m
    (s.hopUp m a && s.hopUp a d) || (s.hopUp m b && s.hopUp b d)

/-- The minimal routes to `d` from this module: first team, whether it is COL_FIRST, and whether it is up for an epoch. -/
def State.minimalRoutes (s : State) (e : Bool) (d : Nat) : List (Fin 10 × Bool × Bool) :=
  let m := s.moduleIndex
  match teamTo m d with
  | some t => [(t, false, s.teamUsable e t)]
  | none =>
    if m = d then []
    else
      let a := modY m * 8 + modX d
      let b := modY d * 8 + modX m
      (match teamTo m a with
        | some t => [(t, false, s.teamUsable e t && s.hopUp a d)]
        | none => [])
      ++ (match teamTo m b with
        | some t => [(t, true, s.teamUsable e t && s.hopUp b d)]
        | none => [])

/-- A DETOUR via relay team `t` to `d` is up (R378). -/
def State.detourUp (s : State) (e : Bool) (d : Nat) (t : Fin 10) : Bool :=
  teamTo s.moduleIndex d != some t && s.teamUsable e t && s.relayUp (teamMate s.moduleIndex t) d

/-- The routes to `d` that are up and allowed by a table, in the order in which ties fall: team and whether by DETOUR (R378). -/
def State.routes (s : State) (e : Bool) (d : Nat) : List (Fin 10 × Bool) × List (Fin 10 × Bool) :=
  let w := (s.routing.table e).word d
  let minimal := (s.minimalRoutes e d).filterMap fun (t, col, up) =>
    if up && (if col then w.bit 29 else w.bit 30) then some (t, false) else none
  let detour := if !w.bit 28 then [] else
    (allFin 10).filterMap fun t =>
      if w.bit t.val && s.detourUp e d t then some (t, true) else none
  (minimal, detour)

/-- A module is reachable while a route to it is up, whether or not a table allows it (R377). -/
def State.reachable (s : State) (d : Nat) : Bool :=
  let e := s.routing.active
  d == s.moduleIndex || ((s.minimalRoutes e d).any fun r => r.2.2) || (allFin 10).any (s.detourUp e d)

/-- Bytes queued on a strand. -/
def State.strandLoad (s : State) (b : Fin 4) (t : Fin 10) : Nat :=
  ((s.strand b (teamStrand t)).queue.map fun o => 16 * o.flits.length).sum

/-- The route of least cost among those open to a Bridle; a tie falls to the first (R379 steps 3 and 4). -/
def State.cheapest (s : State) (b : Fin 4) (l : List (Fin 10 × Bool)) : Option (Fin 10 × Bool) :=
  (l.filter fun r => decide (0 < s.lanesSending b (teamStrand r.1))).foldl (fun best r => match best with
    | none => some r
    | some m =>
      if s.strandLoad b r.1 * s.lanesSending b (teamStrand m.1) < s.strandLoad b m.1 * s.lanesSending b (teamStrand r.1)
      then some r else some m) none

/-- The route R379 gives a Bridle for a destination. -/
def State.chooseRoute (s : State) (b : Fin 4) (e : Bool) (d : Nat) : Option (Fin 10 × Bool) :=
  let (minimal, detour) := s.routes e d
  match s.cheapest b minimal with
  | some r => some r
  | none => s.cheapest b detour

/-- A packet put on a Bridle's strand of a team. -/
def State.sendPacket (s : State) (b : Fin 4) (t : Fin 10) (h : FabHeader) (payload : List Byte) : State :=
  s.strandSend b (teamStrand t) (h.flits payload) (some h.epoch)

/-- Stride-clock time in units of 64 ns between two times. -/
def ageOf (since now : Nat) : Nat := (now - since) / 64

/-- The age of a packet as a Bridle finds it: with the link delay and the time it has stood here (R346). -/
def State.ageHere (s : State) (a : Arrived) (h : FabHeader) : Nat := min 1023 (h.age + (a.delay / 8 + (s.now - a.at_)) / 64)

/-! ### Sources (R343, R345) -/

/-- The issuing Bridle of a source for a target module (R343): the first ON Bridle from B((g + M) mod 4). -/
def State.issuingBridle (s : State) (g m : Nat) : Option (Fin 4) :=
  ((List.range 4).map fun i => (⟨(g + m + i) % 4, Nat.mod_lt _ (by decide)⟩ : Fin 4)).find? fun b => s.isOn (.bridle b)

/-- Agent ID and Draught port of an engine by its source block (R20, R330). The fabric block itself is taken as B0's agent.
DESIGN CHOICE, assumption 35. -/
def engineAgent (blk : Word) : Nat × Nat :=
  match blk.field 31 16 with
  | 0x0C => (agentEdu, 63)
  | 0x0D => (agentStable, 63)
  | 0x19 => (agentBlinkers (blk.field 15 8), 60 + blk.field 15 8 % 2)
  | 0x0F => (agentBridle 0, 56)
  | _ => (agentGroom 0, 62)

def State.stream (s : State) (i : StreamId) : Stream :=
  match s.fab.streams.find? fun e => e.1 == i with
  | some e => e.2
  | none => .reset

def State.setStream (s : State) (i : StreamId) (v : Stream) : State :=
  { s with fab := { s.fab with streams := (s.fab.streams.filter fun e => e.1 != i) ++ [(i, v)] } }

def State.mapRequests (s : State) (f : FabRequest → FabRequest) : State :=
  { s with fab := { s.fab with requests := s.fab.requests.map f } }

/-- A store, atomic or flagged store carries a flag epoch (R345). -/
def FabRequest.isWrite (r : FabRequest) : Bool := r.kind == 2 || r.kind == 3 || r.kind == 4

/-- The 128-byte lines a request touches. -/
def FabRequest.lines (r : FabRequest) : List Nat :=
  let n := if r.kind = 1 then r.len else if r.kind = 2 then r.data.length else if r.kind = 3 then r.data.length - 16 else 8
  if r.kind = 8 ∨ r.kind = 9 then [] else (List.range ((r.addr % 128 + max n 1 - 1) / 128 + 1)).map fun i => r.addr / 128 + i

/-- Numbers of a pair are kept by (Bridle, target) (R344). -/
def pairStream (b : Fin 4) (target : Nat) : StreamId := ⟨b, 0, 0, target⟩

def State.nextNumber (s : State) (b : Fin 4) (target : Nat) : Nat × State :=
  let i := pairStream b target
  let n := match s.fab.nextSeq.find? fun e => e.1 == i with
    | some e => e.2
    | none => 0
  (n, { s with fab := { s.fab with nextSeq := (s.fab.nextSeq.filter fun e => e.1 != i) ++ [(i, n + 1)] } })

/-- The epoch a new store of a stream may carry now: not while an earlier use of its value may still hold an entry at the receiver,
nor beyond 65,535 stores (R345, R369). -/
def Stream.open_ (v : Stream) : Bool := decide (v.sent < 65535) && (decide (0 < v.sent) || (v.uses.find? v.epoch).isNone)

/-- Epochs given, in order, to the stores of a stream that wait for one (R345, R366). -/
def State.assignEpochs (s : State) (i : StreamId) : List Nat → State
  | [] => s
  | id :: ids =>
    let v := s.stream i
    if !v.open_ then s
    else
      match s.fab.requests.find? fun r => r.id == id with
      | none => s.assignEpochs i ids
      | some r =>
        let flag := r.kind == 3
        let s := s.mapRequests fun q => if q.id = id then { q with epoch := some v.epoch, count := if flag then v.sent else 0 } else q
        let v := { v with uses := v.uses.put v.epoch s.now, broken := if v.sent = 0 then v.broken.erase v.epoch else v.broken }
        (s.setStream i (if flag then { v with epoch := (v.epoch + 1) % 256, sent := 0 }
          else { v with sent := v.sent + 1 })).assignEpochs i ids

def State.giveEpochs (s : State) (i : StreamId) : State :=
  s.assignEpochs i ((s.fab.requests.filter fun r => r.stream == i && r.isWrite && r.epoch.isNone).map (·.id))

/-- The detail word of a fabric fault (R350). -/
def FabRequest.detail (r : FabRequest) : Nat := putBits 31 27 r.stream.target + r.addr % 2 ^ 27

/-- What a Draught RESP gives as status for a fabric status (R350). -/
def coreStatus (st : Nat) : Nat := if st ≤ 3 then st else 1

/-- The response of a Bridle to the Draught request of a core (R298, R350). -/
def State.answerOrigin (s : State) (r : FabRequest) (st : Nat) (data : List Byte) : State :=
  match r.origin with
  | none => s
  | some o => s.portSend (portOf (56 + r.stream.bridle.val)) o.port ⟨5, data.length / 4 % 64, 0, 0, data, coreStatus st, o.seq⟩

/-- The lease entries (R354). -/
def State.lease (s : State) (i : Nat) : Lease := s.fab.leases.getD i .reset
def State.setLease (s : State) (i : Nat) (v : Lease) : State := { s with fab := { s.fab with leases := s.fab.leases.put i v } }

/-- A holder's lease expires: its fault is raised once to its job (R355). -/
def State.expireLease (s : State) (i : Nat) : State :=
  let v := s.lease i
  (s.setLease i { v with st := .expired }).raiseTo Flt.FAB_LEASE_EXPIRED blkFAB v.job
    (putBits 31 27 v.home + v.region * 2 ^ 21 % 2 ^ 27)

/-- The answer to a LEASE request at the holder (R354, R355). An ACQUIRE that is neither granted nor refused leaves the entry FREE.
DESIGN CHOICE, assumption 36. -/
def State.leaseAnswer (s : State) (i op bnd st : Nat) : State :=
  let v := s.lease i
  match op with
  | 1 =>
    if v.st ≠ .acquiring then s
    else if st = 0 then s.setLease i { v with st := .held, start := bnd, asked := bnd }
    else s.setLease i { v with st := if st = 3 then .refused else .free }
  | 2 =>
    if v.st ≠ .held then s
    else if st = 0 then s.setLease i { v with start := max v.start bnd }
    else if st = 3 then s.expireLease i
    else s
  | _ => s.setLease i { v with st := .free }

/-- The stores of a stream's epoch fail: its flagged stores not yet sent fail at once (R367). -/
def FabRequest.doomed (r : FabRequest) (i : StreamId) (e : Nat) : Bool :=
  r.stream == i && r.kind == 3 && r.first.isNone && r.epoch == some e

/-- The response to an access of a stall's extent in another module (R211, R213): one fewer is awaited, a load's bytes are kept, and one
that gave no data or was not made ends the move badly. -/
def State.moveAnswer (s : State) (r : FabRequest) (st : Nat) (data : List Byte) : State :=
  match r.who with
  | some (.stall i) =>
    match s.stb.stalls.find? i with
    | none => s
    | some x =>
      let a := r.stream.target * 2 ^ 44 + r.addr
      let step := fun (m : StallMove) =>
        { m with left := m.left - 1, bad := m.bad || st != 0, parts := if r.kind = 1 then m.parts ++ [(a, data)] else m.parts }
      { s with stb := { s.stb with stalls := s.stb.stalls.put i { x with move := x.move.map step } } }
  | _ => s

/-- The first response to a flagged store clears the use of its epoch (R369). -/
def State.clearUse (s : State) (r : FabRequest) : State :=
  match r.kind, r.epoch with
  | 3, some e =>
    let v := s.stream r.stream
    s.setStream r.stream { v with uses := v.uses.drop e }
  | _, _ => s

/-- A fabric request ends at its source with a fabric status, a fault to its job and data (R350, R360). -/
def State.endRequest (s : State) (r : FabRequest) (st : Nat) (fault : Option FaultCode) (data : List Byte) : State :=
  let s := { s with fab := { s.fab with requests := s.fab.requests.filter fun q => q.id != r.id } }
  let s := match fault with
    | some f => s.raiseTo f blkFAB r.stream.job r.detail
    | none => s
  let s := match r.lease with
    | some (i, op, bnd) => s.leaseAnswer i op bnd st
    | none => s
  let s := (s.answerOrigin r st data).moveAnswer r st data
  let v := s.stream r.stream
  let quiet := !(s.fab.requests.any fun q => q.stream == r.stream && !(q.isWrite && q.epoch.isNone)) && decide (0 < v.sent)
  if quiet then s.setStream r.stream { v with epoch := (v.epoch + 1) % 256, sent := 0 } else s

/-- A flagged store fails at its source, unsent: a predecessor has failed (R367). -/
def State.failFlag (s : State) (q : FabRequest) : State :=
  (s.bump (Reg.FAB_CNT_n + 24) 1).endRequest q 1 (some Flt.FAB_FLAG_ABANDONED) []

/-- A store or atomic has failed: the flagged stores of its epoch fail without being sent (R367). -/
def State.breakAtSource (s : State) (r : FabRequest) : State :=
  match r.epoch with
  | none => s
  | some e =>
    let v := s.stream r.stream
    let s := s.setStream r.stream { v with broken := e :: v.broken.erase e }
    (s.fab.requests.filter fun q => q.doomed r.stream e).foldl (fun s q => s.failFlag q) s

/-- A request ends, with what follows for its epoch. -/
def State.finishRequest (s : State) (r : FabRequest) (st : Nat) (fault : Option FaultCode) (data : List Byte) : State :=
  let s := s.endRequest r st fault data
  let s := if st ≠ 0 ∧ (r.kind = 2 ∨ r.kind = 4) then s.breakAtSource r else s
  s.giveEpochs r.stream

/-- The outcome of R360 and R379 step 1: poison for a load, failure for the rest. -/
def State.failRequest (s : State) (r : FabRequest) (fault : FaultCode) : State :=
  if r.kind = 1 then s.finishRequest r 2 (some fault) (poisonBytes r.len) else s.finishRequest r 1 (some fault) []

/-- The verdict of the dead-target rule (R360). EDU parts and LEASE requests have no job fault named for them (R360, R370). -/
def State.timeoutRequest (s : State) (r : FabRequest) : State :=
  let s := s.bump (Reg.FAB_CNT_n + 28) 1
  if r.kind = 1 then s.failRequest r Flt.FAB_LOAD_TIMEOUT
  else if r.isWrite then s.failRequest r Flt.FAB_WRITE_TIMEOUT
  else s.finishRequest r 1 none []

/-! ### Sending a request (R355, R357, R362, R379) -/

/-- An earlier request of the same stream to a line of this one awaits its first response (R362). -/
def State.sameLine (s : State) (r : FabRequest) : Bool :=
  (s.fab.requests.takeWhile fun q => q.id != r.id).any fun q =>
    q.stream == r.stream && q.lines.any fun l => r.lines.contains l

/-- The lease entry that bars a write (R355). -/
def State.leaseBars (s : State) (r : FabRequest) : Bool :=
  r.isWrite && s.fab.leases.any fun (_, v) =>
    v.st == .expired && v.home == r.stream.target && v.region == r.addr / 2 ^ 21 % 2 ^ 23 && v.job == r.stream.job

/-- The header of a request on its way. -/
def State.requestHeader (s : State) (r : FabRequest) (detour : Bool) : FabHeader :=
  let first := r.first.getD s.now
  { kind := r.kind, dst := r.stream.target, src := s.moduleIndex, srcBridle := r.stream.bridle.val, epoch := s.routing.active,
    hops := if r.mcast = 0 then 0 else 1,
    route := if r.mcast = 0 then bitOf detour else if modY r.stream.target = modY s.moduleIndex then 2 else 3,
    hasData := false, seq := r.seq, job := r.stream.job, port := r.stream.port,
    len := if r.kind = 1 then r.len / 4 else r.data.length / 4, flagEpoch := if r.kind = 9 then r.count else r.epoch.getD 0,
    age := ageOf first s.now, retx := r.first.isSome, status := 0, count := if r.kind = 3 then r.count else 0, addr := r.addr,
    mcast := r.mcast }

/-- A request leaves on a route. -/
def State.transmit (s : State) (r : FabRequest) (t : Fin 10) (detour : Bool) : State :=
  let h := s.requestHeader r detour
  let s := if r.first.isSome then s.bump (Reg.FAB_CNT_n + 8) 1 else s.bump Reg.FAB_CNT_n 1
  let s := if detour then s.bump (Reg.FAB_RT_CNT_n + 8) 1 else s
  let now := s.now
  let s := s.mapRequests fun q => if q.id = r.id then
      { q with first := some (q.first.getD now), last := now, route := some (t, detour), busy := none, mcast := 0
               lease := if r.first.isSome then q.lease else q.lease.map fun (i, op, _) => (i, op, s.clk.bnd) } else q
  let v := s.stream r.stream
  let s := match r.epoch with
    | some e => s.setStream r.stream { v with uses := v.uses.put e now }
    | none => s
  s.sendPacket r.stream.bridle t h r.data

/-- One attempt to send a request, or to send it again: R355, R357, R362, R379, R387. -/
def State.trySend (s : State) (id : Nat) : State :=
  match s.fab.requests.find? fun r => r.id == id with
  | none => s
  | some r =>
    let d := r.stream.target
    let e := s.routing.active
    if r.cut ∨ r.route.isSome ∨ (r.isWrite ∧ r.epoch.isNone) ∨ (r.first.isNone ∧ s.sameLine r) then s
    else if r.first.isSome ∧ 312 < ageOf (r.first.getD 0) s.now then s
    else if r.first.isNone ∧ s.leaseBars r then s.finishRequest r 1 (some Flt.FAB_LEASE_EXPIRED) []
    else if r.first.isNone ∧ r.kind = 3 ∧ (s.stream r.stream).broken.contains (r.epoch.getD 256) then
      (s.failFlag r).giveEpochs r.stream
    else if r.mcast ≠ 0 ∧ !((s.routing.table e).word d).bit 31 then s.failRequest r Flt.FAB_NO_ROUTE
    else
      let direct := match teamTo s.moduleIndex d with
        | some t => if r.mcast ≠ 0 ∧ s.teamUsable e t ∧ 0 < s.lanesSending r.stream.bridle (teamStrand t) then some t else none
        | none => none
      match direct with
      | some t => s.transmit r t false
      | none =>
        let r := { r with mcast := 0 }
        if !((s.routing.table e).word d).bit 31 then s.failRequest r Flt.FAB_NO_ROUTE
        else match s.chooseRoute r.stream.bridle e d with
          | some (t, detour) => s.transmit r t detour
          | none =>
            if r.held then s
            else (s.mapRequests fun q => if q.id = id then { q with held := true, mcast := 0 } else q).bump (Reg.FAB_RT_CNT_n + 12) 1

/-- Every request that may go is sent, in the order in which they reached their Bridle. -/
def State.fabPump (s : State) : State := (s.fab.requests.map (·.id)).foldl (fun s id => s.trySend id) s

end Sys2Proof.Machine
end

