-- ==== Sys2Proof/Machine/Fabric.lean ====
section
/-! DEFINITION. The Grenzin fabric: issuing, receiving, retransmission, flagged stores and leases (R343 to R370). -/

namespace Sys2Proof.Machine

/-! ### Issuing (R343, R344, R387) -/

/-- A request enters the pool of a Bridle with the next number of its pair (R344). -/
def State.enterPool (s : State) (r : FabRequest) : State :=
  let got := s.nextNumber r.stream.bridle r.stream.target
  let n := got.1
  let s := got.2
  let r := { r with id := s.nextId, seq := n, reached := s.now }
  ({ s with nextId := s.nextId + 1, fab := { s.fab with requests := s.fab.requests ++ [r] } }).giveEpochs r.stream

/-- A fabric request not yet numbered. -/
def freshRequest (i : StreamId) (kind addr len : Nat) (data : List Byte) : FabRequest :=
  { id := 0, stream := i, who := none, origin := none, kind := kind, addr := addr, len := len, data := data, seq := 0, epoch := none,
    count := 0, reached := 0, first := none, last := 0, tries := 0, busy := none, route := none, held := false, lease := none,
    mcast := 0, cut := false }

/-- The copies of an engine's request: one for each target (R387). The multicast field names the targets of the copy's row or
column. -/
def State.engineCopies (s : State) (b : Fin 4) (q : RemoteReq) : List FabRequest :=
  let blk := match q.who with
    | .engine w => w
    | .stall _ => blkSTB
    | .core .. => 0
  let port := (engineAgent blk).2
  let me := s.moduleIndex
  let mask := match q.dst with
    | d :: _ :: _ => (q.dst.map fun t => if modY d = modY me then 2 ^ modX t else 2 ^ modY t).sum
    | _ => 0
  let targets := if q.dst = [] then [q.addr / 2 ^ 44] else q.dst
  targets.map fun d =>
    { freshRequest ⟨b, port, q.job, d⟩ q.kind (q.addr % 2 ^ 44) q.len q.data with
      who := some q.who, mcast := mask, count := if q.kind = 9 then q.op else 0,
      lease := if q.kind = 9 then some (q.len, q.op, s.clk.bnd) else none }

/-- The Bridle an engine's request leaves by (R343); a multicast takes that of its first target. DESIGN CHOICE, assumption 35. -/
def State.bridleOf (s : State) (q : RemoteReq) : Option (Fin 4) :=
  let g := match q.who with
    | .engine w => (engineAgent w).1
    | .stall _ => (engineAgent blkSTB).1
    | .core c _ => c.gid
  s.issuingBridle g (match q.dst with
    | d :: _ => d
    | [] => q.addr / 2 ^ 44)

/-- The agent of a request, where it is an engine's. -/
def Requester.agent : Requester → Option Nat
  | .engine w => some (engineAgent w).1
  | .stall _ => some (engineAgent blkSTB).1
  | .core .. => none

/-- An engine starts no new request while one that it issued before the set of ON Bridles changed is not complete (R82, R343). -/
def State.engineWaits (s : State) (q : RemoteReq) : Bool :=
  s.fab.requests.any fun r => s.fab.engineWait.contains r.id && (r.who.map Requester.agent) == some q.who.agent

/-- The set of ON Bridles has changed: the requests of engines under way are waited for. -/
def State.drainEngines (s : State) : State :=
  { s with fab := { s.fab with engineWait := (s.fab.requests.filter fun r => r.who.isSome).map (·.id) } }

/-- FABRIC_REQUEST_ISSUE (R343, R344): the oldest request at a Bridle's port, or else the oldest of an engine that leaves by it,
enters the pool while it has an entry; what may be sent is sent. -/
def execFabricRequestIssue (b : Fin 4) (cyc : Nat) (s : State) : Host.Outcome State Fault Refusal :=
  let s := s.advance cyc
  let port := portOf (56 + b.val)
  .next (if 8192 ≤ s.fab.requests.length ∨ !s.isOn (.bridle b) then s.fabPump
    else
      let fromPort := match s.drg.inbox.getD port.val [] with
        | e :: _ => decide (e.packet.kind ≤ 4)
        | [] => false
      if fromPort then
        match s.takeInbox port with
        | none => s
        | some (e, s) =>
          let p := e.packet
          let r := freshRequest ⟨b, e.src.val, p.job, p.addr / 2 ^ 44⟩ p.kind (p.addr % 2 ^ 44)
            (if p.kind = 1 then 4 * lenWords p.len else p.data.length) p.data
          (s.enterPool { r with origin := some ⟨e.src, e.seq⟩ }).fabPump
      else
        match s.toIssue.find? fun q => s.bridleOf q == some b && !s.engineWaits q with
        | none => s.fabPump
        | some q =>
          let copies := s.engineCopies b q
          if 8192 < s.fab.requests.length + copies.length then s.fabPump
          else
          (copies.foldl (fun (s : State) r => s.enterPool r) { s with toIssue := s.toIssue.erase q }).fabPump)

/-! ### Responses (R350) -/

/-- A request by its issuing Bridle, target and number; one whose pair has been reset takes no response any more (R344). -/
def State.requestAt (s : State) (b : Fin 4) (target : Nat) (seq : Word) : Option FabRequest :=
  s.fab.requests.find? fun r => !r.cut && r.stream.bridle == b && r.stream.target == target && r.seq % 2 ^ 32 == seq.toNat

/-- The fault that a response raises to the issuing job (R350). -/
def responseFault (st word : Nat) : Option FaultCode :=
  if st = 0 then none
  else if st = 3 then some (if word = Flt.FAB_NOT_HOLDER.cls * 4096 + Flt.FAB_NOT_HOLDER.code then Flt.FAB_NOT_HOLDER
    else Flt.FAB_INGRESS_REFUSED)
  else some ⟨word / 4096, word % 4096⟩

/-- A response delivered to its issuing Bridle (R350): the first for its number ends the request, a BUSY one has it sent again. -/
def State.takeResponse (s : State) (h : FabHeader) (data : List Byte) : State :=
  match s.requestAt ⟨h.srcBridle % 4, Nat.mod_lt _ (by decide)⟩ h.src (BitVec.ofNat 32 h.seq) with
  | none => s
  | some r =>
    if h.status = 4 then s.mapRequests fun q => if q.id = r.id then { q with busy := some s.now } else q
    else
      let fault := if r.kind = 8 ∨ r.kind = 9 then none else responseFault h.status (h.addr % 65536)
      let data := if h.status = 2 ∧ data = [] then poisonBytes r.len else data
      ((s.clearUse r).finishRequest r h.status fault data).fabPump

/-! ### The receiver's numbers (R358) -/

def State.window (s : State) (p : InPair) : InWindow :=
  match s.fab.windows.find? fun e => e.1 == p with
  | some e => e.2
  | none => .reset

def State.setWindow (s : State) (p : InPair) (v : InWindow) : State :=
  { s with fab := { s.fab with windows := (s.fab.windows.filter fun e => e.1 != p) ++ [(p, v)] } }

/-- The full number of a 32-bit one, nearest the highest seen; none where it lies before the first. -/
def InWindow.full (v : InWindow) (low : Nat) : Option Nat :=
  match v.top with
  | none => some low
  | some t =>
    let d := (low + 2 ^ 32 - t % 2 ^ 32) % 2 ^ 32
    if d < 2 ^ 31 then some (t + d) else if 2 ^ 32 ≤ t + d then some (t + d - 2 ^ 32) else none

/-- A number's state noted; only the 65,536 numbers at or below the highest are kept. -/
def State.noteNumber (s : State) (p : InPair) (n : Nat) (st : Option SeqState) : State :=
  let v := s.window p
  let top := max n (v.top.getD n)
  let seen := match st with
    | some x => v.seen.put n x
    | none => v.seen
  s.setWindow p { top := some top, seen := seen.filter fun e => decide (top < e.1 + 65536) }

/-! ### Answers -/

/-- A RESP sent to the source of a request (R350): on the receiving Bridle where it has a route, else on the lowest-numbered that has
one. -/
def State.respond (s : State) (x : Inbound) (st : Nat) (data : List Byte) (fault : Nat) : State :=
  let e := s.routing.active
  let h : FabHeader :=
    { kind := 5, dst := x.pair.src, src := s.moduleIndex, srcBridle := x.pair.bridle, epoch := e, hops := 0, route := 0,
      hasData := data != [], seq := x.seq, job := x.job, port := x.port, len := data.length / 4, flagEpoch := x.epoch, age := 0,
      retx := false, status := st, count := 0, addr := fault, mcast := 0 }
  match (x.bridle :: allFin 4).findSome? fun b => (s.chooseRoute b e x.pair.src).map fun r => (b, r) with
  | some (b, t, detour) => s.sendPacket b t { h with route := bitOf detour } data
  | none => s

/-! ### The flag table (R366 to R368) -/

def FlagEntry.is (e : FlagEntry) (p : InPair) (port job epoch : Nat) : Bool :=
  e.pair == p && e.port == port && e.job == job && e.epoch == epoch

def Inbound.entryIs (x : Inbound) (e : FlagEntry) : Bool := e.is x.pair x.port x.job x.epoch

def State.setFlags (s : State) (l : List FlagEntry) : State := { s with fab := { s.fab with flags := l } }

def State.freeFlag (s : State) (x : Inbound) : State := s.setFlags (s.fab.flags.filter fun e => !x.entryIs e)

/-- A request of an epoch has arrived: its entry is not idle (R368). -/
def State.touchFlag (s : State) (x : Inbound) : State :=
  s.setFlags (s.fab.flags.map fun e => if x.entryIs e then { e with last := s.now } else e)

/-- A store, atomic or flagged store that arrives touches its entry (R368). -/
def State.touched (s : State) (x : Inbound) : State := if x.kind == 2 || x.kind == 3 || x.kind == 4 then s.touchFlag x else s

/-- The entry of a request's epoch, allocated where there is none; none where the table is full. -/
def State.openFlag (s : State) (x : Inbound) : Option State :=
  if s.fab.flags.any x.entryIs then some (s.touchFlag x)
  else if 16384 ≤ s.fab.flags.length then none
  else some (s.setFlags (s.fab.flags ++ [⟨x.pair, x.port, x.job, x.epoch, [], false, s.now⟩]))

/-- An inbound request answered with its final status (R350, R358). -/
def State.finishInbound (s : State) (x : Inbound) (st : Nat) (data : List Byte) (fault : Nat) : State :=
  let s := { s with fab := { s.fab with inbound := s.fab.inbound.filter fun y => y.key != x.key } }
  let s := s.noteNumber x.pair x.seq (some (.done x.kind st fault))
  let s := if x.kind = 4 ∧ st = 0 then
      { s with fab := { s.fab with atomics := s.fab.atomics ++ [⟨x.pair, x.seq, data, s.now + 48000⟩] } }
    else s
  (s.bump (Reg.FAB_CNT_n + 4) 1).respond x st data fault

def faultWord (f : FaultCode) : Nat := f.cls * 4096 + f.code

/-- A flagged store that is not applied: FAILED with FAB_FLAG_ABANDONED (R367), and its entry freed (R368). -/
def State.abandonFlag (s : State) (x : Inbound) : State :=
  ((s.finishInbound x 1 [] (faultWord Flt.FAB_FLAG_ABANDONED)).freeFlag x).bump (Reg.FAB_CNT_n + 24) 1

/-- The epoch of a request is broken: a flagged store of it that is held is abandoned (R367). -/
def State.breakEpoch (s : State) (x : Inbound) : State :=
  let s := s.setFlags (s.fab.flags.map fun e => if x.entryIs e then { e with broken := true } else e)
  match s.fab.inbound.find? fun y => y.held && y.pair == x.pair && y.port == x.port && y.job == x.job && y.epoch == x.epoch with
  | some y => s.abandonFlag y
  | none => s

/-- A request completes at the target: a store or atomic counts for its epoch, or breaks it (R366, R367). -/
def State.completeInbound (s : State) (x : Inbound) (st : Nat) (data : List Byte) (fault : Nat) : State :=
  let s := s.finishInbound x st data fault
  if x.kind = 2 ∨ x.kind = 4 then
    if st = 0 then
      s.setFlags (s.fab.flags.map fun e =>
        if x.entryIs e ∧ x.seq ∉ e.applied then { e with applied := e.applied ++ [x.seq] } else e)
    else s.breakEpoch x
  else s

/-! ### Arrivals -/

/-- An inbound request, by its header, its number and its age. -/
def State.inboundOf (s : State) (b : Fin 4) (h : FabHeader) (data : List Byte) (age n : Nat) : Inbound :=
  { key := s.nextId, pair := ⟨h.src, h.srcBridle⟩, bridle := b, seq := n, kind := h.kind, job := h.job, port := h.port, epoch := h.flagEpoch,
    len := h.len, addr := h.addr, to_ := 0, data := data, count := h.count, born := s.now - 64 * age, held := false, fault := 0 }

/-- A packet discarded for its age at the module it is for (R359): a store or atomic breaks its epoch (R367), and a flagged store leaves no
entry (R368). -/
def State.dropAged (s : State) (x : Inbound) : State :=
  if x.kind = 3 then s.freeFlag x
  else if x.kind = 2 ∨ x.kind = 4 then (match s.openFlag x with
    | some s => s.breakEpoch x
    | none => s)
  else s

/-- The packet at the front of a Bridle's arrivals. One that is malformed is discarded and counted (R347), as is one older than 48 µs
(R381); of the others, those a row is for are taken. -/
def State.takeHead (s : State) (b : Fin 4) (want : FabHeader → List Byte → Bool)
    (act : FabHeader → List Byte → Nat → State → State) : State :=
  match s.brd.arrived.getD b.val [] with
  | [] => s
  | a :: rest =>
    let popped := { s with brd := { s.brd with arrived := s.brd.arrived.put b.val rest } }
    match a.read with
    | none => popped.bump (Reg.FAB_CNT_n + 16) 1
    | some (h, data) =>
      let age := s.ageHere a h
      if 750 < age then
        let s := popped.bump (Reg.FAB_RT_CNT_n + 4) 1
        if h.dst = s.moduleIndex then s.dropAged (s.inboundOf b h data age h.seq) else s
      else if want h data then act h data age popped
      else s

/-- FABRIC_RESP (R350). -/
def execFabricResp (b : Fin 4) (cyc : Nat) (s : State) : Host.Outcome State Fault Refusal :=
  let s := s.advance cyc
  let me := s.moduleIndex
  .next (s.takeHead b (fun h _ => h.kind == 5 && h.dst == me) fun h data _ s => s.takeResponse h data)

/-- A request refused by the Bridle (R351). -/
def State.refuseInbound (s : State) (x : Inbound) (f : FaultCode) : State :=
  let s := s.completeInbound x 3 [] (faultWord f)
  if x.kind = 3 then s.freeFlag x else s

/-! ### Ingress and forwarding (R351 to R355) -/

/-- The set an entry of a key lies in (R352). -/
def ingressSet (job region : Nat) : Nat := ((region ^^^ region / 2 ^ 14) ^^^ job * 5) &&& 0x3FFF

def State.ingress (s : State) (i : Nat) : Ingress := s.fab.ingress.getD i .reset
def State.setIngress (s : State) (i : Nat) (v : Ingress) : State := { s with fab := { s.fab with ingress := s.fab.ingress.put i v } }

/-- The lowest way of the set that holds a valid entry for a job and region. -/
def State.ingressOf (s : State) (job region : Nat) : Option (Nat × Ingress) :=
  ((List.range 4).map fun w => ingressSet job region * 4 + w).findSome? fun i =>
    let v := s.ingress i
    if v.w0.bit 31 && v.w0.field 11 0 == job && v.w1.field 22 0 == region then some (i, v) else none

/-- An entry lets a kind of request through (R351 step 6). -/
def Ingress.permits (v : Ingress) (kind : Nat) : Bool := if kind = 1 then v.w0.bit 30 else if kind = 4 then v.w0.bit 28 else v.w0.bit 29

/-- The recorded holder, while the home clock has not expired. -/
def State.liveHolder (s : State) (v : Ingress) : Option Nat :=
  match v.holder with
  | some h => if s.clk.bnd < v.expires then some h else none
  | none => none

/-- What a Tally slice whose port does not serve makes of a request at once (R219). -/
def State.sliceBar (s : State) (x : Inbound) : Option FaultCode :=
  match s.regionOf x.to_ 4 with
  | .tally c => if s.sliceServes c then none else some Flt.TLY_SLICE_UNAVAILABLE
  | _ => none

/-- A request forwarded over Draught to the port that serves it (R351 step 9). -/
def State.forward (s : State) (x : Inbound) : State :=
  match s.sliceBar x with
  | some f =>
    let s := s.raiseTo f blkFAB x.job (x.to_ % 2 ^ 32)
    if x.kind = 1 then s.completeInbound x 2 (poisonBytes (4 * lenWords x.len)) (faultWord f)
    else s.completeInbound x 1 [] (faultWord f)
  | none =>
  let p : Packet := ⟨x.kind, x.len % 64, x.job, x.to_, x.data, 0, 0⟩
  s.portRequest (portOf (56 + x.bridle.val)) (s.servingPort x.to_) p (.fabric x.key) false

/-- The page of the Hitch module counters (R340). -/
def inHitchPage (a : Nat) : Bool := a / 4096 == (registerBase + Reg.HCH_MCi) / 4096

/-- A counter is the rack counter of snapshot triggers (R507). -/
def State.rackCounter (s : State) (c : CounterId) : Bool :=
  s.regF Reg.SNP_RACK_CTL 31 31 == 1 && c == .module (Fin.ofNat 256 (s.regF Reg.SNP_RACK_CTL 7 0))

/-- ADD32 to HCH_MCi as a signal (R340, R341), or to the rack counter as a trigger, which leaves it as it is (R507); anything else on that page is refused. -/
def State.hitchRequest (s : State) (x : Inbound) : State :=
  let off := x.addr % 4096
  let ws := wordsOf x.data
  let op := (ws.getD 0 0).field 31 28
  if h : x.kind = 4 ∧ op = 1 ∧ off % 4 = 0 ∧ 0x100 ≤ off ∧ (off - 0x100) / 4 < 256 then
    let c : CounterId := .module ⟨(off - 0x100) / 4, h.2.2.2.2⟩
    if s.rackCounter c && s.admits c x.job then
      (s.rackArrive ((ws.getD 1 0).field 14 0)).completeInbound x 0 (natLe (s.ctr c).value.toNat 4) 0
    else
    let got := s.signal c (signedOf 16 ((ws.getD 1 0).field 15 0)) x.job (agentBridle x.bridle.val) blkFAB (.atomic x.key)
    let ok := got.1
    let s := got.2
    if ok then { s with fab := { s.fab with inbound := s.fab.inbound ++ [x] } }
    else s.completeInbound x 1 [] (faultWord Flt.HCH_SIG_REJECTED)
  else s.refuseInbound x Flt.FAB_INGRESS_REFUSED

/-- Steps 5 to 9 of R351. -/
def State.admitRequest (s : State) (x : Inbound) : State :=
  match s.ingressOf x.job (x.addr / 2 ^ 21) with
  | none => s.refuseInbound x Flt.FAB_INGRESS_REFUSED
  | some (_, v) =>
    let a := v.w2.field 22 0 * 2 ^ 21 + x.addr % 2 ^ 21
    if !v.permits x.kind then s.refuseInbound x Flt.FAB_INGRESS_REFUSED
    else if x.kind ≠ 1 ∧ v.w0.bit 27 ∧ s.liveHolder v ≠ some x.pair.src then s.refuseInbound x Flt.FAB_NOT_HOLDER
    else if !(decide (a < dramSize) || (decide (tallyBase ≤ a) && decide (a < tallyEnd))) then
      s.refuseInbound x Flt.FAB_INGRESS_REFUSED
    else
      let x := { x with to_ := a }
      let add (x : Inbound) (s : State) : State := { s with fab := { s.fab with inbound := s.fab.inbound ++ [x] } }
      if x.kind ≠ 3 then (add x s).forward x
      else
        match s.fab.flags.find? x.entryIs with
        | none => (add x s).forward x
        | some e =>
          if e.broken then s.abandonFlag x
          else if x.count ≤ e.applied.length then ((add x s).freeFlag x).forward x
          else (add { x with held := true } s).bump (Reg.FAB_CNT_n + 20) 1

/-- A duplicate of a number already seen (R358). Answers whether the request is to be applied now. -/
def State.duplicate (s : State) (x : Inbound) : Option State :=
  match (s.window x.pair).seen.find? x.seq with
  | none => none
  | some .inProgress => some (s.bump (Reg.FAB_CNT_n + 12) 1)
  | some (.done kind st fault) =>
    if kind = 1 then none
    else
      let s := s.bump (Reg.FAB_CNT_n + 12) 1
      let data := match s.fab.atomics.find? fun r => r.pair == x.pair && r.seq == x.seq with
        | some r => r.data
        | none => []
      some (s.respond x st data fault)

/-- A request that has come to its module (R351). -/
def State.receiveRequest (s : State) (b : Fin 4) (h : FabHeader) (data : List Byte) (age : Nat) (lease : Inbound → State → State) :
    State :=
  let p : InPair := ⟨h.src, h.srcBridle⟩
  match (s.window p).full h.seq with
  | none => s
  | some n =>
    let x := s.inboundOf b h data age n
    let write := h.kind == 2 || h.kind == 3 || h.kind == 4
    let s := s.touched x
    if 312 < age then s.dropAged x
    else if n + 65536 ≤ (s.window p).top.getD n then s
    else match s.duplicate x with
      | some s => s
      | none =>
        let s := { s with nextId := s.nextId + 1 }
        let busy (s : State) : State := (s.noteNumber p n none).respond x 4 [] 0
        if h.kind = 8 then (s.eduPart h.src x.job data).finishInbound x 0 [] 0
        else if h.kind = 9 then lease x s
        else if h.kind = 4 ∧ 8192 ≤ s.fab.atomics.length + (s.fab.inbound.filter fun y => y.kind == 4).length then busy s
        else
          match (if write then s.openFlag x else some s) with
          | none => busy s
          | some s =>
            let s := s.noteNumber p n (some .inProgress)
            if inHitchPage h.addr then s.hitchRequest x else s.admitRequest x

/-- One row of the receiver: the kinds it is for, at a stride cycle. -/
def State.receiveRow (s : State) (b : Fin 4) (cyc : Nat) (kinds : List Nat) : State :=
  let s := s.advance cyc
  let me := s.moduleIndex
  s.takeHead b (fun h _ => kinds.contains h.kind && h.dst == me) fun h data age s => s.receiveRequest b h data age fun _ s => s

def execFabricLoad (b : Fin 4) (cyc : Nat) (s : State) : Host.Outcome State Fault Refusal := .next (s.receiveRow b cyc [1])

/-- FABRIC_STORE; the parts of EDU messages, which have no row of their own, are handed to the EDU here (R351 step 3, R370; assumption 27). -/
def execFabricStore (b : Fin 4) (cyc : Nat) (s : State) : Host.Outcome State Fault Refusal := .next (s.receiveRow b cyc [2, 8])

def execFabricFlagStore (b : Fin 4) (cyc : Nat) (s : State) : Host.Outcome State Fault Refusal :=
  .next (s.receiveRow b cyc [3])

/-- The answers the Hitch root owes to atomics of other modules (R341); the old value is the counter's before the amount. -/
def State.flushAnswers (s : State) : State :=
  let l := s.hitch.answers
  l.foldl (fun s (key, ok) =>
    match s.fab.inbound.find? fun x => x.key == key with
    | none => s
    | some x =>
      let amount := signedOf 16 (((wordsOf x.data).getD 1 0).field 15 0)
      let v := match counterAt 2 none ((x.addr % 4096 - 0x100) / 4) with
        | some c => (s.ctr c).value
        | none => 0
      if ok then s.completeInbound x 0 (bytesOf [v - BitVec.ofInt 32 amount]) 0
      else s.completeInbound x 1 [] (faultWord Flt.HCH_SIG_REJECTED)) { s with hitch := { s.hitch with answers := [] } }

/-- FLAG_STORE_RELEASE (R366). -/
def State.heldFlag (s : State) (source : Fin 32) (b : Fin 4) (seq : Word) : Option Inbound :=
  s.fab.inbound.find? fun x => x.held && x.pair == ⟨source.val, b.val⟩ && x.seq % 2 ^ 32 == seq.toNat

def execFlagStoreRelease (source : Fin 32) (b : Fin 4) (seq : Word) (s : State) : Host.Outcome State Fault Refusal :=
  .next (match s.heldFlag source b seq with
    | none => s
    | some x =>
      match s.fab.flags.find? x.entryIs with
      | none => s
      | some e =>
        if e.applied.length < x.count then s
        else
          let s := { s with fab := { s.fab with inbound := s.fab.inbound.map fun (y : Inbound) =>
            if y.key = x.key then { y with held := false } else y } }
          (s.freeFlag x).forward x)

/-- FLAG_STORE_EXPIRED (R367): its age has passed 312. -/
def execFlagStoreExpired (source : Fin 32) (b : Fin 4) (seq : Word) (cyc : Nat) (s : State) : Host.Outcome State Fault Refusal :=
  let s := s.advance cyc
  .next (match s.heldFlag source b seq with
    | none => s
    | some x => if 312 < ageOf x.born s.now then s.abandonFlag x else s)

/-- FLAG_ENTRY_IDLE_FREE (R368). -/
def execFlagEntryIdleFree (source : Fin 32) (b : Fin 4) (port : Fin 64) (job : BitVec 12) (epoch : BitVec 8) (cyc : Nat) (s : State) :
    Host.Outcome State Fault Refusal :=
  let s := s.advance cyc
  let p : InPair := ⟨source.val, b.val⟩
  let held := s.fab.inbound.any fun x => x.held && x.pair == p && x.port == port.val && x.job == job.toNat && x.epoch == epoch.toNat
  .next (if held then s
    else s.setFlags (s.fab.flags.filter fun e =>
      !(e.is p port.val job.toNat epoch.toNat && decide (e.last + 64000 ≤ s.now))))

/-- ATOMIC_RESULT_EXPIRY (R358): 48 µs after application. -/
def execAtomicResultExpiry (source : Fin 32) (b : Fin 4) (seq : Word) (cyc : Nat) (s : State) :
    Host.Outcome State Fault Refusal :=
  let s := s.advance cyc
  .next { s with fab := { s.fab with atomics := s.fab.atomics.filter fun r =>
    !(r.pair == ⟨source.val, b.val⟩ && r.seq % 2 ^ 32 == seq.toNat && decide (r.expiry ≤ s.now)) } }

/-! ### Retransmission and verdicts at the source (R357, R360, R369) -/

/-- The route a request last used is up still. -/
def State.routeStands (s : State) (r : FabRequest) : Bool :=
  match r.route with
  | none => true
  | some (t, detour) =>
    let (minimal, det) := s.routes s.routing.active r.stream.target
    (if detour then det else minimal).any fun x => x.1 == t

/-- A request is to be sent again: it loses its route. -/
def State.sendAgain (s : State) (r : FabRequest) (tries : Nat) : State :=
  (s.mapRequests fun q => if q.id = r.id then { q with route := none, busy := none, tries := tries } else q).trySend r.id

/-- FABRIC_RETRANSMIT_TIMEOUT (R357): 8 or 16 µs without a response, or the route withdrawn. -/
def execFabricRetransmitTimeout (b : Fin 4) (target : Fin 32) (seq : Word) (cyc : Nat) (s : State) :
    Host.Outcome State Fault Refusal :=
  let s := s.advance cyc
  .next (match s.requestAt b target.val seq with
    | none => s
    | some r =>
      match r.first with
      | none => s
      | some t =>
        if r.tries < 2 ∧ t + 8000 * (r.tries + 1) ≤ s.now then s.sendAgain r (r.tries + 1)
        else if !s.routeStands r then s.sendAgain r r.tries
        else s)

/-- FABRIC_BUSY_RETRY (R350). -/
def execFabricBusyRetry (b : Fin 4) (target : Fin 32) (seq : Word) (cyc : Nat) (s : State) : Host.Outcome State Fault Refusal :=
  let s := s.advance cyc
  .next (match s.requestAt b target.val seq with
    | none => s
    | some r =>
      match r.busy with
      | some t => if t + 1000 ≤ s.now then s.sendAgain r r.tries else s
      | none => s)

/-- FABRIC_REQUEST_TIMEOUT (R360, R379): 24 µs after its first transmission, or after it reached its Bridle while no route is open. -/
def execFabricRequestTimeout (b : Fin 4) (target : Fin 32) (seq : Word) (cyc : Nat) (s : State) :
    Host.Outcome State Fault Refusal :=
  let s := s.advance cyc
  let due? (r : FabRequest) : Bool := r.stream.bridle == b && r.stream.target == target.val && r.seq % 2 ^ 32 == seq.toNat
  .next (match s.fab.requests.find? due? with
    | none => s
    | some r =>
      let due := match r.first with
        | some t => decide (t + 24000 ≤ s.now)
        | none => (r.held || r.cut) && decide (r.reached + 24000 ≤ s.now)
      if due then (s.timeoutRequest r).fabPump else s)

/-- FLAG_EPOCH_USE_CLEAR (R369). -/
def execFlagEpochUseClear (b : Fin 4) (port : Fin 64) (job : BitVec 12) (target : Fin 32) (epoch : BitVec 8) (cyc : Nat)
    (s : State) : Host.Outcome State Fault Refusal :=
  let s := s.advance cyc
  let i : StreamId := ⟨b, port.val, job.toNat, target.val⟩
  let v := s.stream i
  let current := v.epoch == epoch.toNat && decide (0 < v.sent)
  .next (match v.uses.find? epoch.toNat with
    | some t =>
      if current ∨ s.now < t + 64000 then s
      else ((s.setStream i { v with uses := v.uses.drop epoch.toNat }).giveEpochs i).fabPump
    | none => s)

/-! ### Leases at the home (R353, R354, R355) -/

/-- A LEASE request answered. -/
def State.leaseStatus (s : State) (x : Inbound) (ok : Bool) : State :=
  s.finishInbound x (if ok then 0 else 3) [] (if ok then 0 else faultWord Flt.FAB_INGRESS_REFUSED)

/-- A LEASE request at the home: 1 ACQUIRE, 2 RENEW, 3 RELEASE (R354, R355). -/
def State.leaseRequest (s : State) (x : Inbound) : State :=
  match s.ingressOf x.job (x.addr / 2 ^ 21) with
  | none => s.leaseStatus x false
  | some (i, v) =>
    let free : Bool := match s.liveHolder v with
      | some h => h == x.pair.src
      | none => true
    let ok := v.w0.bit 27 && v.w0.bit 29
    if x.epoch = 2 ∧ v.cleared = some x.pair.src then (s.setIngress i { v with cleared := none }).leaseStatus x false
    else if x.epoch = 3 then
      (if v.holder = some x.pair.src then s.setIngress i { v with holder := none } else s).leaseStatus x true
    else if ok ∧ free ∧ (x.epoch = 1 ∨ x.epoch = 2) then
      (s.setIngress i { v with holder := some x.pair.src, expires := s.clk.bnd + 4001, cleared := none }).leaseStatus x true
    else s.leaseStatus x false

/-- One row of the home: a LEASE request of an op. -/
def State.leaseRow (s : State) (b : Fin 4) (cyc op : Nat) : State :=
  let s := s.advance cyc
  let me := s.moduleIndex
  s.takeHead b (fun h _ => h.kind == 9 && h.dst == me && h.flagEpoch == op) fun h data age s =>
    s.receiveRequest b h data age fun x s => s.leaseRequest x

def execLeaseAcquire (b : Fin 4) (cyc : Nat) (s : State) : Host.Outcome State Fault Refusal := .next (s.leaseRow b cyc 1)
def execLeaseRenew (b : Fin 4) (cyc : Nat) (s : State) : Host.Outcome State Fault Refusal := .next (s.leaseRow b cyc 2)
def execLeaseRelease (b : Fin 4) (cyc : Nat) (s : State) : Host.Outcome State Fault Refusal := .next (s.leaseRow b cyc 3)

/-- LEASE_HOME_EXPIRY (R354): the holder is cleared and FAB_LEASE_LAPSED logged. -/
def execLeaseHomeExpiry (index : Fin 65536) (s : State) : Host.Outcome State Fault Refusal :=
  let v := s.ingress index.val
  .next (match v.holder with
    | none => s
    | some h =>
      if s.clk.bnd < v.expires then s
      else (s.setIngress index.val { v with holder := none }).logFault Flt.FAB_LEASE_LAPSED blkFAB
        (putBits 31 27 h + v.w1.field 22 0))

/-! ### Leases at the holder (R354, R355, R371) -/

/-- A LEASE request of the lease table handed to the issuing Bridle. -/
def State.askLease (s : State) (i op : Nat) : State :=
  let v := s.lease i
  let q : RemoteReq := ⟨.engine blkFAB, 9, op, v.home * 2 ^ 44 + v.region * 2 ^ 21, i, [], v.job, []⟩
  { s with toIssue := s.toIssue ++ [q] }

/-- The lease entry FAB_LSE_IDX selects. -/
def State.leaseIndex (s : State) : Nat := s.regF Reg.FAB_LSE_IDX 9 0

/-- A write of FAB_LSE_CMD: ACQUIRE of an entry that is FREE, EXPIRED or REFUSED; RELEASE of one that is HELD or EXPIRED. -/
def State.leaseCommand (s : State) (op : Nat) : State :=
  let i := s.leaseIndex
  let v := s.lease i
  match op with
  | 1 => if v.st = .held ∨ v.st = .acquiring then s else (s.setLease i { v with st := .acquiring }).askLease i 1
  | 2 => if v.st = .held ∨ v.st = .expired then s.askLease i 3 else s
  | _ => s

def State.leaseWrite (s : State) (src : Source) (op cyc : Nat) : State :=
  let s := s.advance cyc
  if s.mayWrite src Reg.FAB_LSE_CMD then s.leaseCommand op else s

def execLseCmdAcquire (src : Source) (cyc : Nat) (s : State) : Host.Outcome State Fault Refusal := .next (s.leaseWrite src 1 cyc)
def execLseCmdRelease (src : Source) (cyc : Nat) (s : State) : Host.Outcome State Fault Refusal := .next (s.leaseWrite src 2 cyc)

/-- LEASE_RENEW_DUE (R354): 1,000 boundaries after the clock started, then at each boundary until granted. -/
def execLeaseRenewDue (index : Fin 1024) (s : State) : Host.Outcome State Fault Refusal :=
  let v := s.lease index.val
  .next (if v.st = .held ∧ v.start + 1000 ≤ s.clk.bnd ∧ v.asked < s.clk.bnd then
      (s.setLease index.val { v with asked := s.clk.bnd }).askLease index.val 2
    else s)

/-- LEASE_HOLDER_EXPIRY (R354, R355). -/
def execLeaseHolderExpiry (index : Fin 1024) (s : State) : Host.Outcome State Fault Refusal :=
  let v := s.lease index.val
  .next (if v.st = .held ∧ v.start + 4000 ≤ s.clk.bnd then s.expireLease index.val else s)

/-! ### Ingress entries (R352, R353, R371) -/

/-- A write of FAB_ING_CMD: WRITE stages the entry for a boundary, READ copies it at once. -/
def State.ingressCommand (s : State) (op : Nat) : State :=
  let i := s.regF Reg.FAB_ING_IDX 15 0
  if s.fab.ingressPending then s
  else match op with
    | 1 =>
      let s := { s with fab := { s.fab with ingressPending := true } }
      s.schedule (.ingress i (s.reg Reg.FAB_ING_W0) (s.reg Reg.FAB_ING_W1) (s.reg Reg.FAB_ING_W2))
    | 2 =>
      let v := s.ingress i
      let w3 := match v.holder with
        | some h => putBits 31 31 1 + putBits 30 26 h + putBits 11 0 (min 4095 (v.expires - s.clk.bnd))
        | none => 0
      (((s.setReg Reg.FAB_ING_W0 v.w0).setReg Reg.FAB_ING_W1 v.w1).setReg Reg.FAB_ING_W2 v.w2).setReg Reg.FAB_ING_W3
        (BitVec.ofNat 32 w3)
    | _ => s

/-- A staged entry comes into force at its boundary; a leased entry that changes loses its holder (R353). -/
def State.applyIngress (s : State) (i : Nat) (w0 w1 w2 : Word) : State :=
  let v := s.ingress i
  let same := v.w0 == w0 && v.w1 == w1 && v.w2 == w2
  let s := { s with fab := { s.fab with ingressPending := false } }
  s.setIngress i (if same then v
    else { w0 := w0, w1 := w1, w2 := w2, holder := none, expires := v.expires, cleared := if v.holder.isSome then v.holder else v.cleared })

def State.ingressOp (s : State) (src : Source) (op cyc : Nat) : State :=
  let s := s.advance cyc
  if s.mayWrite src Reg.FAB_ING_CMD then s.ingressCommand op else s

def execIngressEntryWrite (src : Source) (cyc : Nat) (s : State) : Host.Outcome State Fault Refusal := .next (s.ingressOp src 1 cyc)
def execIngressEntryRead (src : Source) (s : State) : Host.Outcome State Fault Refusal := .next (s.ingressOp src 2 0)

/-! ### Transit (R380, R381) -/

/-- FABRIC_TRANSIT_FORWARD (R380): a packet for another module. A request older than 312 goes no further (R359). -/
def State.transit (s : State) (b : Fin 4) (h : FabHeader) (data : List Byte) (age : Nat) : State :=
  let lost := s.bump (Reg.FAB_RT_CNT_n + 4) 1
  let st := (s.routing.table h.epoch).st
  let bridles := b :: allFin 4
  let pick : Option (Fin 4 × Fin 10) :=
    if h.route = 1 then
      let minimal := (s.routes h.epoch h.dst).1
      bridles.findSome? fun c => (s.cheapest c minimal).map fun r => (c, r.1)
    else if h.route = 0 then
      match teamTo s.moduleIndex h.dst with
      | some t => if s.teamUsable h.epoch t then
          (bridles.find? fun c => decide (0 < s.lanesUp c (teamStrand t))).map fun c => (c, t) else none
      | none => none
    else none
  if (st ≠ .active ∧ st ≠ .draining) ∨ 3 ≤ h.hops ∨ (h.kind ≠ 5 ∧ 312 < age) then lost
  else match pick with
    | none => lost
    | some (c, t) => (s.bump Reg.FAB_RT_CNT_n 1).sendPacket c t { h with route := 0, hops := h.hops + 1, age := age } data

def execFabricTransitForward (b : Fin 4) (cyc : Nat) (s : State) : Host.Outcome State Fault Refusal :=
  let s := s.advance cyc
  let me := s.moduleIndex
  .next (s.takeHead b (fun h _ => h.dst != me) fun h data age s => s.transit b h data age)

/-! ### Pair resets (R344) -/

/-- A Bridle of this module leaves ON: its pairs are reset at both ends, numbers and windows; requests in flight end by timeout. How the
reset of a pair by the other module is learned, no rule says. DEDUCED, assumption 200. -/
def State.resetFabricBridle (s : State) (b : Fin 4) : State :=
  { s with fab := { s.fab with
      nextSeq := s.fab.nextSeq.filter fun e => e.1.bridle != b
      windows := s.fab.windows.filter fun e => e.1.bridle != b.val
      requests := s.fab.requests.map fun (r : FabRequest) => if r.stream.bridle = b then { r with cut := true, busy := none } else r } }

end Sys2Proof.Machine
end

