-- ==== Sys2Proof/Machine/Routing.lean ====
section
/-! DEFINITION. Route advertisements, the rack map, routing tables and uplinks (R372 to R394). -/

namespace Sys2Proof.Machine

/-! ### Advertisements and the rack map (R375 to R377) -/

/-- The generation word of a table. -/
def RoutingTable.generation (t : RoutingTable) : Nat := (t.word 33).field 15 0

/-- ROUTE_ADV (R376): what a team's peer says of itself and of its peers. -/
def execRouteAdv (team : Fin 10) (sender : Fin 32) (stride : Word) (master : Fin 32) (aligned : Bool) (epoch : Bool)
    (drained : Fin 4) (generation : BitVec 16) (teams : BitVec 10) (relay : List (Bool × BitVec 10 × BitVec 16)) (s : State) :
    Host.Outcome State Fault Refusal :=
  .next (s.takeAdvert team.val
    { sender := sender.val, stride := stride, master := master.val, aligned := aligned, epoch := epoch, drained := drained.val,
      generation := generation.toNat, teams := teams.toNat,
      relay := relay.map fun (x : Bool × BitVec 10 × BitVec 16) => (x.1, x.2.1.toNat, x.2.2.toNat), age := 0, went := false })

/-- An entry of the rack map taken from a report of module `m`, where it is newer (R377, R401). -/
def mergeEntry (map : Table MapEntry) (m teams stride : Nat) : Table MapEntry :=
  match map.find? m with
  | some e => if (stride + 65536 - e.stride) % 65536 - 1 < 32767 ∧ stride ≠ e.stride then map.put m ⟨teams, stride, 0⟩ else map
  | none => map.put m ⟨teams, stride, 0⟩

/-- The rack map after the advertisements of the stride that ends: all 32 indices, this module's own among them as it stands. -/
def State.mergeMap (s : State) : Table MapEntry :=
  let r := s.routing
  let aged := r.map.mapVals fun _ (e : MapEntry) => { e with age := e.age + 1 }
  let aged := aged.put s.moduleIndex ⟨s.teamsUp, s.clk.stride.toNat % 65536, 0⟩
  (r.adverts.filter fun (_, a) => a.age == 0).foldl (fun map (_, a) =>
    let map := mergeEntry map a.sender a.teams (a.stride.toNat % 65536)
    (a.relay.zipIdx).foldl (fun map ((ok, teams, stride), t) =>
      let m := teamPeer (modX a.sender) (modY a.sender) t
      if ok && t < 10 && m != s.moduleIndex then mergeEntry map m teams stride else map) map) aged

/-- RACK_MAP_ENTRY_STALE (R377): an entry not refreshed for 4 strides has all its teams down. -/
def execRackMapEntryStale (index : Fin 32) (s : State) : Host.Outcome State Fault Refusal :=
  let r := s.routing
  .next (match r.map.find? index.val with
    | some e => if 4 ≤ e.age then s.setRouting { r with map := r.map.put index.val { e with teams := 0 } } else s
    | none => s)

/-- A team's peer agrees with this module: aligned to the same master, and of one epoch and generation for the same stride number
(R375). -/
def State.peerAgrees (s : State) (t : Fin 10) : Bool :=
  let r := s.routing
  match r.adverts.find? t.val with
  | some a =>
    decide (a.age ≤ 1) && s.aligned && a.aligned && a.master == s.sync.master.val && r.agrees a
  | none => false

/-- A team's peer names another epoch or generation for a stride number (R391). -/
def State.peerSplit (s : State) (t : Fin 10) : Bool :=
  let r := s.routing
  match r.adverts.find? t.val with
  | some a => s.teamUp t && decide (a.age ≤ 1) && r.differs a
  | none => false

/-- A boundary more since the last switch, and the switch named by FAB_RT_AT, at its boundary or, where a rebase has skipped it, at the first after (R384). -/
def State.routingSwitch (s : State) (rebased : Bool) : State :=
  let r := { s.routing with since := min 255 (s.routing.since + 1) }
  let s := s.setRouting r
  let now := BitVec.ofNat 32 s.clk.stride.toNat
  match r.pending with
  | none => s
  | some n =>
    if now = n ∨ (rebased ∧ notBefore now n) then
      let new := !r.active
      let r := (r.setTable new { r.table new with st := .active }).setTable (!new) { r.table (!new) with st := .draining }
      let s := s.setRouting { r with pending := none, since := 0, drained := [], switched := some now, missed := false }
      if now = n then s else s.logFault Flt.FAB_EPOCH_SKEWED blkFAB s.moduleIndex
    else s

/-- Packets of an epoch held in the Bridles (R386). -/
def State.drainCount (s : State) (e : Bool) : Nat :=
  (s.brd.strands.map fun (_, v) =>
    (v.unacked.filter fun c => c.epoch == some e).length + (v.queue.filter fun c => c.epoch == some e).length).sum
  + (s.brd.arrived.map fun (k, l) => (l.filter fun a => decide (k < 4) && (a.words.getD 0 0).bit 15 == e).length).sum

/-- Every reachable peer of a team, and this module, has said since the switch that the DRAINING table is drained (R386): an advertisement reaches a
module's peers only. DEDUCED, assumption 70. -/
def State.allDrained (s : State) : Bool :=
  match s.routing.draining with
  | none => false
  | some e => decide (0 < s.routing.since) && s.drainCount e == 0
    && (allFin 10).all fun t => let m := teamMate s.moduleIndex t; !s.reachable m || s.routing.drained.contains m

/-- A DRAINING table becomes EDITABLE (R386). -/
def Routing.endDrain (r : Routing) : Routing :=
  let fix (t : RoutingTable) : RoutingTable := if t.st = .draining then { t with st := .editable } else t
  { r with a := fix r.a, b := fix r.b }

/-- The fabric at a boundary, after any switch: the rack map, the usable teams and the drain (R375 to R378, R386). -/
def State.fabricBoundary (s : State) : State :=
  let map := s.mergeMap
  let r := s.routing
  let e := r.active
  let r := { r with map := map,
                    said := (BitVec.ofNat 32 s.clk.stride.toNat, e, (r.table e).generation) :: r.said.take 3,
                    missed := r.missed && r.adverts.any fun (_, a) => decide (a.age ≤ 1) && r.otherEpoch a,
                    adverts := r.adverts.mapVals fun _ (a : Advert) => { a with age := a.age + 1 } }
  let s := s.setRouting r
  let ready := ((allFin 10).map fun t => bitOf (s.teamUp t && s.peerAgrees t) * 2 ^ t.val).sum
  let s := s.setRouting { r with ready := ready }
  let s := if s.allDrained then s.setRouting s.routing.endDrain else s
  let s := (allFin 10).foldl (fun s t =>
    let m := teamMate s.moduleIndex t
    let r := s.routing
    if s.peerSplit t then
      (if r.split.contains m then s
       else (s.setRouting { r with split := r.split ++ [m] }).logFault Flt.FAB_EPOCH_SPLIT blkFAB m)
    else s.setRouting { r with split := r.split.erase m }) s
  s

/-- The ROUTE_ADV of the stride that begins, on every strand of every team that is up (R376, R401). -/
def State.sendRouteAdv (s : State) : State :=
  let r := s.routing
  let e := r.active
  let w0 := putBits 21 17 s.moduleIndex + putBits 16 12 s.sync.master.val + putBits 11 11 (bitOf s.aligned) + putBits 10 10 (bitOf e)
    + putBits 9 9 (bitOf (s.drainCount true == 0)) + putBits 8 8 (bitOf (s.drainCount false == 0))
  let relay := (allFin 10).map fun t => match r.adverts.find? t.val with
    | some a => putBits 31 31 1 + putBits 25 16 a.teams + a.stride.toNat % 2 ^ 16
    | none => 0
  s.teamFrames (controlFrame 2 w0
    ([s.clk.stride.toNat % 2 ^ 32, putBits 31 16 (r.table e).generation + s.teamsUp] ++ relay ++ [0, 0]))

/-- ROUTING_DRAIN_TIMEOUT (R386): 64 boundaries after the switch. -/
def execRoutingDrainTimeout (s : State) : Host.Outcome State Fault Refusal :=
  .next (if 64 ≤ s.routing.since then s.setRouting s.routing.endDrain else s)

/-! ### Routing tables (R382, R383) -/

/-- The reserved bits of a table word read as zero (R382). -/
def tableWordMask (i : Nat) : Word := if i < 32 then 0xF00003FF else if i = 32 then 0x3FF else 0xFFFF

/-- A write of FAB_RT_DATA (R383). -/
def State.writeTable (s : State) (val : Word) : State :=
  let r := s.routing
  let e := (s.reg Reg.FAB_RT_SEL).bit 8
  let i := s.regF Reg.FAB_RT_SEL 5 0
  let t := r.table e
  match t.st with
  | .editable =>
    if i < 34 then
      s.setRouting { r.setTable e { t with words := t.words.set i (val &&& tableWordMask i) } with status := 0 }
    else s.setRouting { r with status := 0 }
  | .armed => s.setRouting { r with status := 2 }
  | _ => s.setRouting { r with status := 1 }

def execRoutingTableWrite (src : Source) (val : Word) (s : State) : Host.Outcome State Fault Refusal :=
  .next (if s.mayWrite src Reg.FAB_RT_DATA then s.writeTable val else s)

/-- An op of FAB_RT_CTL (R383): 1 ARM, 2 DISARM, 3 SWITCH. -/
def State.routingOp (s : State) (op : Nat) : State :=
  let r := s.routing
  let e := !r.active
  let t := r.table e
  let set (st : TableState) : State := s.setRouting { r.setTable e { t with st := st } with status := 0 }
  match op with
  | 1 => if t.st = .editable then set .armed else s.setRouting { r with status := 1 }
  | 2 => if t.st = .armed ∧ r.pending.isNone then set .editable else s.setRouting { r with status := 1 }
  | 3 =>
    let n := s.reg Reg.FAB_RT_AT
    let ahead := (n - BitVec.ofNat 32 s.clk.stride.toNat).toNat
    if t.st ≠ .armed then s.setRouting { r with status := 3 }
    else if ahead < 16 ∨ 2 ^ 31 ≤ ahead then s.setRouting { r with status := 4 }
    else s.setRouting { r with pending := some n, status := 0 }
  | _ => s

def State.routingWrite (s : State) (src : Source) (op : Nat) : State :=
  if s.mayWrite src Reg.FAB_RT_CTL then s.routingOp op else s

def execRoutingArm (src : Source) (s : State) : Host.Outcome State Fault Refusal := .next (s.routingWrite src 1)
def execRoutingDisarm (src : Source) (s : State) : Host.Outcome State Fault Refusal := .next (s.routingWrite src 2)
def execRoutingSwitch (src : Source) (s : State) : Host.Outcome State Fault Refusal := .next (s.routingWrite src 3)

/-! ### Uplinks (R388 to R390) -/

def State.uplink (s : State) (u : Fin 16) : Uplink := s.fab.uplinks.getD u.val .reset
def State.setUplink (s : State) (u : Fin 16) (v : Uplink) : State :=
  { s with fab := { s.fab with uplinks := s.fab.uplinks.put u.val v } }

def uplinkBridle (u : Fin 16) : Fin 4 := ⟨u.val / 4, by omega⟩
def uplinkStrand (u : Fin 16) : Fin 14 := ⟨10 + u.val % 4, by omega⟩
def uplinkReg (u : Fin 16) (off : Nat) : Nat := bank u.val off

def State.uplinkUp (s : State) (u : Fin 16) : Bool := decide (0 < s.lanesUp (uplinkBridle u) (uplinkStrand u))
def State.uplinkJob (s : State) (u : Fin 16) : Nat := s.regF (uplinkReg u Reg.FAB_UPL_CTL) 11 0
def State.uplinkTxSize (s : State) (u : Fin 16) : Nat := 2 ^ s.regF (uplinkReg u Reg.FAB_UPL_CTL) 28 25
def State.uplinkRxSize (s : State) (u : Fin 16) : Nat := 2 ^ s.regF (uplinkReg u Reg.FAB_UPL_CTL) 24 21
def State.uplinkTxBase (s : State) (u : Fin 16) : Nat :=
  s.regF (uplinkReg u Reg.FAB_UPL_TXB_HI) 11 0 * 2 ^ 32 + s.regF (uplinkReg u Reg.FAB_UPL_TXB_LO) 31 8 * 256
def State.uplinkRxBase (s : State) (u : Fin 16) : Nat :=
  s.regF (uplinkReg u Reg.FAB_UPL_RXB_HI) 11 0 * 2 ^ 32 + s.regF (uplinkReg u Reg.FAB_UPL_RXB_LO) 31 8 * 256

def uplinkHalted (st : UplinkState) : Bool := st == .haltedRefused || st == .haltedDown

/-- One slot of the transmit ring read and sent, with the sender's z, index and stride (R389, R390). -/
def State.sendSlot (s : State) (u : Fin 16) (i : BitVec 16) : State :=
  let job := s.uplinkJob u
  let got := s.load (engineAccess job blkFAB) (s.uplinkTxBase u + 256 * (i.toNat % s.uplinkTxSize u)) 256
  let bs := got.1
  let s := got.2.2
  let ws := wordsOf bs
  let n := min 60 ((ws.getD 0 0).field 7 0)
  let k := s.clk.stride.toNat
  let w3 := BitVec.ofNat 32 (putBits 24 21 s.posZ + putBits 20 16 s.moduleIndex + k / 2 ^ 32)
  let msg := [ws.getD 0 0, ws.getD 1 0, BitVec.ofNat 32 k, w3] ++ (ws.drop 4).take n
  s.strandSend (uplinkBridle u) (uplinkStrand u) (messageHead (4 + n) :: flitsOf msg) none

/-- The transmit slots that are present and not yet sent leave (R390). -/
def State.pumpUplink (s : State) (u : Fin 16) : Nat → State
  | 0 => s
  | k + 1 =>
    let v := s.uplink u
    if v.st = .disabled ∨ uplinkHalted v.st ∨ v.sent = v.txTail then s
    else ((s.setUplink u { v with sent := v.sent + 1, st := .running }).sendSlot u v.sent).pumpUplink u k

/-- A ring whose uplink is down halts (R390). -/
def State.serveUplink (s : State) (u : Fin 16) : State :=
  let v := s.uplink u
  if v.st = .disabled ∨ uplinkHalted v.st then s
  else if !s.uplinkUp u then s.setUplink u { v with st := .haltedDown, sent := v.txHead }
  else s.pumpUplink u (v.txTail - v.sent).toNat

/-- A write of FAB_UPL_TX_TAIL (R389). A tail beyond the ring's size is ignored. DEDUCED, assumption 37. -/
def State.writeUplinkTail (s : State) (u : Fin 16) (tail : BitVec 16) : State :=
  let v := s.uplink u
  if s.uplinkTxSize u < (tail - v.txHead).toNat then s
  else (s.setUplink u { v with txTail := tail }).serveUplink u

def execUplinkTxTailWrite (src : Source) (u : Fin 16) (tail : BitVec 16) (cyc : Nat) (s : State) :
    Host.Outcome State Fault Refusal :=
  let s := s.advance cyc
  .next (if s.mayWrite src Reg.FAB_UPL_TX_TAIL then s.writeUplinkTail u tail else s)

/-- A write of resume (R390): a halted ring goes on from its head. -/
def State.resumeUplink (s : State) (u : Fin 16) : State :=
  let v := s.uplink u
  if uplinkHalted v.st then (s.setUplink u { v with st := .idle, sent := v.txHead }).serveUplink u else s

def execUplinkResume (src : Source) (u : Fin 16) (cyc : Nat) (s : State) : Host.Outcome State Fault Refusal :=
  let s := s.advance cyc
  .next (if s.mayWrite src Reg.FAB_UPL_CTL then s.resumeUplink u else s)

/-- The flits of a message are freed in the receive buffer of its strand (R403). -/
def State.freeFlits (s : State) (u : Fin 16) (n : Nat) : State :=
  let v := s.strand (uplinkBridle u) (uplinkStrand u)
  (s.setStrand (uplinkBridle u) (uplinkStrand u) { v with returned := v.returned + n }).linkFrame (uplinkBridle u) (uplinkStrand u)
    none

/-- The signal to rx_ctr after the slot of a message is written (R390): none where the store was refused. -/
def State.signalReceived (s : State) (u : Fin 16) (job : Nat) : Status → State
  | .ok => s.signalAt 2 none (s.regF (uplinkReg u Reg.FAB_UPL_CTL) 19 12) 1 job (agentBridle (uplinkBridle u).val) blkFAB
  | _ => s

/-- The oldest message of an uplink handled at its receiver (R390). -/
def State.receiveMessage (s : State) (u : Fin 16) : State :=
  let key := (uplinkBridle u).val + 4
  let l := s.brd.arrived.getD key []
  match l.find? fun a => a.strand == (uplinkStrand u).val with
  | none => s
  | some a =>
    let v := s.uplink u
    let job := s.uplinkJob u
    let popped := { s with brd := { s.brd with arrived := s.brd.arrived.put key (l.erase a) } }
    if !v.rx ∨ (a.words.getD 0 0).field 31 20 ≠ job then popped.freeFlits u a.flits
    else if s.uplinkRxSize u ≤ (v.rxTail - v.rxHead).toNat then s
    else
      let at_ := s.uplinkRxBase u + 256 * (v.rxTail.toNat % s.uplinkRxSize u)
      let n := min 60 ((a.words.getD 0 0).field 7 0)
      let got := (popped.freeFlits u a.flits).store (engineAccess job blkFAB) at_ (bytesOf a.words ++ a.payload.take (4 * n))
      (got.2.setUplink u { v with rxTail := v.rxTail + 1 }).signalReceived u job got.1

/-- UPLINK_MESSAGE_RECEIVE (R390): a message that has come here, or what became of the oldest one sent. -/
def execUplinkMessageReceive (u : Fin 16) (event : UplinkEvent) (cyc : Nat) (s : State) : Host.Outcome State Fault Refusal :=
  let s := s.advance cyc
  let v := s.uplink u
  let out := decide (v.st ≠ .disabled) && v.txHead != v.sent
  .next (match event with
    | .here => s.receiveMessage u
    | .written =>
      if out then s.setUplink u { v with txHead := v.txHead + 1, st := if v.txHead + 1 = v.txTail then .idle else .running } else s
    | .withheld => if out ∧ !uplinkHalted v.st then s.setUplink u { v with st := .waitCredit } else s
    | .refused =>
      if out ∧ !uplinkHalted v.st then
        (s.setUplink u { v with st := .haltedRefused, sent := v.txHead }).raiseTo Flt.FAB_UPL_REFUSED blkFAB (s.uplinkJob u) u.val
      else s)

/-- The enables of an uplink come into force (R390). -/
def State.uplinkTxEnable (s : State) (u : Fin 16) (on : Bool) : State :=
  let v := s.uplink u
  if on then
    (if v.st = .disabled then (s.setUplink u { v with st := .idle, sent := v.txHead }).serveUplink u else s)
  else s.setUplink u { v with st := .disabled }

def State.uplinkRxEnable (s : State) (u : Fin 16) (on : Bool) : State := s.setUplink u { s.uplink u with rx := on }

/-- Uplinks at a boundary: rings whose uplink has gone down halt. -/
def State.uplinkBoundary (s : State) : State := (allFin 16).foldl (fun s u => s.serveUplink u) s

end Sys2Proof.Machine
end

