-- ==== Sys2Proof/Machine/DataMover.lean ====
section
/-! DEFINITION. The data mover: MOVE and GATHER (R53, R55, R73, R112, R302, R365, R547). Accesses to the core's own scratch and Tally slice
are made in the descriptor's own step; every other becomes a transaction that leaves over Draught (R29, R53). -/

namespace Sys2Proof.Machine

/-- A piece of a transfer: source address and length, destination address and length. -/
structure Piece where
  src : Nat
  srcLen : Nat
  dst : Nat
  dstLen : Nat
deriving DecidableEq, Repr

/-- Bytes of one element of a MOVE, source and destination (R112); a MOVE that converts nothing moves bytes. -/
def MoveArgs.elemSizes (x : MoveArgs) : Nat × Nat :=
  if x.converts then (formatBits x.srcFmt / 8, formatBits x.dstFmt / 8) else (1, 1)

/-- The pieces of one row: no piece crosses a block of its destination (R73) or of its source (R297). -/
def MoveArgs.rowPieces (x : MoveArgs) (src dst : Nat) : List Piece :=
  let sz := x.elemSizes.1
  let dz := x.elemSizes.2
  (cuts dst x.dstLen).flatMap fun (a, n) =>
    let s0 := src + (a - dst) / dz * sz
    (cuts s0 (n / dz * sz)).map fun (b, m) => ⟨b, m, a + (b - s0) / sz * dz, m / sz * dz⟩

/-- The last piece cut so that a flagged store carries at most 240 bytes (R302). -/
def MoveArgs.cutLast (x : MoveArgs) : List Piece → List Piece
  | [] => []
  | [p] =>
    if x.flagLast && decide (240 < p.dstLen) then
      let n := p.dstLen - 240
      let m := n / x.elemSizes.2 * x.elemSizes.1
      [⟨p.src, m, p.dst, n⟩, ⟨p.src + m, p.srcLen - m, p.dst + n, 240⟩]
    else [p]
  | p :: t => p :: x.cutLast t

/-- The data of a piece as it is stored: copied, or converted element by element (R108, R112). -/
def MoveArgs.convert (x : MoveArgs) (bs : List Byte) : List Byte × Exc :=
  if x.converts then
    let n := bs.length / (formatBits x.srcFmt / 8)
    let vals := (elemCodes x.srcFmt n bs).map (floatFormat x.srcFmt).decode
    let (codes, e) := convertAll x.dstFmt x.sat (vals.map fun v => (v, v.isFinite))
    (packCodes x.dstFmt codes, e)
  else (bs, .zero)

/-- An access beyond the rack global space (R26, R547). -/
def State.unmapped (s : State) (w : Accessor) (a : Nat) : State :=
  s.raiseTo Flt.DRG_ADDR_UNMAPPED w.block w.job (a % 2 ^ 32)

/-- One store of a transfer, which may follow from the load `slot`: made here, or handed on as a transaction. A flagged store waits for its
predecessors (R365). The counts of R116 that go with it are answered where it is made at once, and kept with the transaction where not. -/
def State.moveStore (s : State) (q : QueueId) (i : BitVec 16) (slot : Option Nat) (a : Nat) (flag : Bool) (exc : Exc)
    (bs : List Byte) : Status × Exc × State :=
  let push (s : State) : State := s.putTxn q.core slot fun id =>
    ⟨id, q.q, i, (if flag then 3 else 2), a, bs.length, bs, none, false, exc, false, true⟩
  match s.placeOf q.core a bs.length with
  | .here l =>
    if flag && s.storesOpen q (slot.getD s.nextId) then (.ok, .zero, push s)
    else
      let s := match slot with
        | some id => s.setCore q.core ((s.core q.core).dropTxn id)
        | none => s
      let got := s.store (s.accessor q) l bs
      (got.1, exc, got.2)
  | _ => (.ok, .zero, push s)

/-- What is known of a row before any piece of it (R547): that the source, or the destination, lies partly at or above 2^49. -/
structure RowFate where
  noSrc : Bool
  noDst : Bool
deriving DecidableEq, Repr

/-- The bytes of a piece stored; a destination at or above 2^49 takes none (R547). -/
def State.movePut (s : State) (q : QueueId) (e : Exec) (x : MoveArgs) (f : RowFate) (p : Piece) (flag : Bool) (bs : List Byte) :
    Status × Exc × State :=
  if f.noDst then (.failed, .zero, s)
  else
    let out := x.convert bs
    s.moveStore q e.desc.index none p.dst flag out.2 out.1

/-- One piece of a MOVE. -/
def State.movePiece (s : State) (q : QueueId) (e : Exec) (x : MoveArgs) (f : RowFate) (p : Piece) (flag : Bool) :
    Status × Exc × State :=
  if f.noSrc then s.movePut q e x f p flag (poisonBytes p.srcLen)
  else match s.placeOf q.core p.src p.srcLen with
    | .here a =>
      let got := s.load (s.accessor q) a p.srcLen
      let put := got.2.2.movePut q e x f p flag got.1
      (worse got.2.1 put.1, put.2)
    | _ =>
      (.ok, .zero, s.putTxn q.core none fun id =>
        ⟨id, q.q, e.desc.index, 1, p.src, p.srcLen, [], if f.noDst then none else some p.dst, flag, .zero, false, true⟩)

/-- The pieces of a row in order; the last piece of the last row may be flagged. -/
def State.movePieces (s : State) (q : QueueId) (e : Exec) (x : MoveArgs) (f : RowFate) (last : Bool) : List Piece → Status × Exc × State
  | [] => (.ok, .zero, s)
  | p :: t =>
    let got := s.movePiece q e x f p (x.flagLast && last && t.isEmpty)
    let more := got.2.2.movePieces q e x f last t
    (worse got.1 more.1, got.2.1.add more.2.1, more.2.2)

/-- One row of a MOVE (R73, R547): a row beyond the rack global space is one access to an unmapped range. -/
def State.moveRow (s : State) (q : QueueId) (e : Exec) (x : MoveArgs) (r : Nat) : Status × Exc × State :=
  let src := x.src + r * x.srcPitch
  let dst := x.dst + r * x.dstPitch
  let last := r + 1 == x.rows
  let f : RowFate := ⟨rowBeyond src x.len && x.len != 0, rowBeyond dst x.dstLen && x.dstLen != 0⟩
  let s := if f.noSrc then s.unmapped (s.accessor q) src else s
  let s := if f.noDst then s.unmapped (s.accessor q) dst else s
  let ps := x.rowPieces src dst
  let got := s.movePieces q e x f last (if last then x.cutLast ps else ps)
  (worse (if f.noDst then .failed else if f.noSrc then .poison else .ok) got.1, got.2)

/-- The rows of a MOVE in order. -/
def State.moveRows (s : State) (q : QueueId) (e : Exec) (x : MoveArgs) : List Nat → Status × Exc × State
  | [] => (.ok, .zero, s)
  | r :: t =>
    let got := s.moveRow q e x r
    let more := got.2.2.moveRows q e x t
    (worse got.1 more.1, got.2.1.add more.2.1, more.2.2)

/-- The scratch ranges a MOVE touches (R55). -/
def State.moveSpans (s : State) (c : CoreId) (x : MoveArgs) : List Span :=
  (List.range x.rows).flatMap fun r =>
    s.scratchSpan c (x.src + r * x.srcPitch) x.len ++ s.scratchSpan c (x.dst + r * x.dstPitch) x.dstLen

/-- MOVE (R55, R73, R112, R302, R365, R547) of the oldest started MOVE of the queue. -/
def execMove (q : QueueId) (s : State) : Host.Outcome State Fault Refusal :=
  .next (match s.running q opMove with
    | none => s
    | some e =>
      let x := e.desc.move
      if s.hazard q.core (s.moveSpans q.core x) then s
      else
        let got := (s.refillFor q.core).moveRows q e x (List.range x.rows)
        got.2.2.complete q e (accessStatus got.1) got.2.1)

/-- One piece of a GATHER row, `o` bytes into the destination. -/
def State.gatherPiece (s : State) (q : QueueId) (e : Exec) (p : Nat × Nat) (dst : Nat) : Status × State :=
  match s.placeOf q.core p.1 p.2 with
  | .here a =>
    let got := s.load (s.accessor q) a p.2
    (got.2.1, (got.2.2.store (s.accessor q) dst got.1).2)
  | _ =>
    (.ok, s.putTxn q.core none fun id =>
      ⟨id, q.q, e.desc.index, 1, p.1, p.2, [], some (s.global dst), false, .zero, false, true⟩)

def State.gatherPieces (s : State) (q : QueueId) (e : Exec) (src dst : Nat) : List (Nat × Nat) → Status × State
  | [] => (.ok, s)
  | p :: t =>
    let got := s.gatherPiece q e p (dst + (p.1 - src))
    let more := got.2.gatherPieces q e src dst t
    (worse got.1 more.1, more.2)

/-- One row of a GATHER, written contiguously in scratch (R547). -/
def State.gatherRow (s : State) (q : QueueId) (e : Exec) (x : GatherArgs) (i idx : Nat) : Status × State :=
  let src := x.base + idx * x.pitch
  let dst := scratchAddr q.core (x.dst * 64 + i * x.rowBytes)
  if rowBeyond src x.rowBytes && x.rowBytes != 0 then
    (.poison, ((s.unmapped (s.accessor q) src).store (s.accessor q) dst (poisonBytes x.rowBytes)).2)
  else s.gatherPieces q e src dst (cuts src x.rowBytes)

def State.gatherRows (s : State) (q : QueueId) (e : Exec) (x : GatherArgs) : List (Nat × Nat) → Status × State
  | [] => (.ok, s)
  | (idx, i) :: t =>
    let got := s.gatherRow q e x i idx
    let more := got.2.gatherRows q e x t
    (worse got.1 more.1, more.2)

/-- GATHER (R26, R55, R547) of the oldest started GATHER of the queue. -/
def execGather (q : QueueId) (s : State) : Host.Outcome State Fault Refusal :=
  .next (match s.running q opGather with
    | none => s
    | some e =>
      let x := e.desc.gather
      if s.hazard q.core (x.reads ++ x.writes) then s
      else
        let size := if x.idx32 then 4 else 2
        let got := (s.refillFor q.core).load (s.accessor q) (scratchAddr q.core (x.idx * 64)) (x.count * size)
        let rows := got.2.2.gatherRows q e x (wideCodes size x.count got.1).zipIdx
        rows.2.complete q e (accessStatus (worse got.2.1 rows.1)) .zero)

/-- The status and counts of a started descriptor raised by what a transaction of it met (R62, R350), and when that was. -/
def State.noteTxn (s : State) (q : QueueId) (i : BitVec 16) (st : Status) (exc : Exc) : State :=
  let v := s.queue q
  s.setQueue q { v with exec := v.exec.map fun e =>
    if e.desc.index = i then { e with status := max e.status (accessStatus st), exc := e.exc.add exc, doneAt := s.clk.cycle } else e }

/-- The MOVE a transaction belongs to, whose conversion its data takes. -/
def Queue.moveOf (v : Queue) (i : BitVec 16) : Option MoveArgs :=
  match v.exec.find? fun e => e.desc.index == i && e.desc.opcode == opMove with
  | some e => some e.desc.move
  | none => none

/-- What a load's data becomes at its destination. -/
def Queue.converted (v : Queue) (i : BitVec 16) (data : List Byte) : List Byte × Exc :=
  match v.moveOf i with
  | some x => x.convert data
  | none => (data, .zero)

/-- A transaction leaves its core's list. -/
def State.dropTxn (s : State) (c : CoreId) (id : Nat) : State :=
  let k := (s.core c).dropTxn id
  s.setCore c { k with drain := k.drain && k.mover.any (·.issued), drainMem := k.drainMem.filter (· != id) }

/-- The bound of the descriptor that a transaction belongs to has run out. -/
def State.txnLate (s : State) (c : CoreId) (t : Txn) : Bool :=
  (s.queue ⟨c, t.q⟩).exec.any fun e => e.desc.index == t.index && s.boundPast c e

/-- The answer to a transaction reaches its core (R61, R73, R341): the transaction ends, its status counts, and a
load's data goes on to its destination. A stopped descriptor's answer is discarded, and so is one that comes when the bound has run out (R41). -/
def State.txnDone (s : State) (c : CoreId) (id : Nat) (st : Status) (data : List Byte) : State :=
  match (s.core c).mover.find? fun t => t.id == id && t.issued with
  | none => s
  | some t =>
    let q : QueueId := ⟨c, t.q⟩
    if t.kind = 0 then (s.dropTxn c id).recordDone q id
    else if !t.live then s.dropTxn c id
    else if s.txnLate c t then (s.overrun q t.index).dropTxn c id
    else
      let s := (s.refillFor c).noteTxn q t.index st .zero
      match t.ret with
      | none => s.dropTxn c id
      | some a =>
        let out := (s.queue q).converted t.index data
        let got := s.moveStore q t.index (some id) a t.flag out.2 out.1
        (got.2.2.dropTxn c id).noteTxn q t.index got.1 got.2.1

end Sys2Proof.Machine
end

