-- ==== Sys2Proof/Machine/Serve.lean ====
section
/-! DEFINITION. Draught requests served at a port, atomics, and the transactions a core sends to other modules (R79, R82 to R86, R226,
R264, R296 to R298, R341, R349). -/

namespace Sys2Proof.Machine

/-! ### Serving a port (R296 to R298) -/

/-- The status a RESP carries (R298). -/
def statusCode : Status → Nat
  | .ok => 0 | .failed => 1 | .poison => 2 | .refused => 3

def statusOf (n : Nat) : Status :=
  match n with
  | 0 => .ok | 2 => .poison | 3 => .refused | _ => .failed

/-- The fault an access that does not succeed meets first: what the RESP of R350 reports of it. -/
def State.accessFault (s : State) (w : Accessor) (a n : Nat) (store : Bool) : FaultCode :=
  match s.accessBar w a n store with
  | some (f, _) => f
  | none =>
    match s.regionOf a n with
    | .tally _ => Flt.TLY_UE
    | _ =>
      ((splitAt 128 a n).findSome? fun p =>
        let l := p.1 / 128
        match s.lineBlocked l with
        | some f => some f
        | none =>
          if 3 ≤ s.dram.lineErr.getD l 0 ∨ (s.lineMeta l).poison then some Flt.MEM_UE
          else if (s.lineMeta l).tag ≠ s.keyTag w.job then some Flt.MEM_KEY_MISMATCH
          else none).getD Flt.MEM_UE

/-- The accessor of a request served at a port. -/
def portAccess (p : Fin 64) (k : Packet) : Accessor := engineAccess k.job (blkDRG p.val)

/-- A RESP sent by a port for a request taken from it. -/
def State.reply (s : State) (p : Fin 64) (e : Delivered) (st : Status) (data : List Byte) : State :=
  s.portSend p e.src ⟨5, data.length / 4 % 64, 0, 0, data, statusCode st, e.seq⟩

/-- What a port found is kept for the inbound fabric request it serves, whose RESP reports it (R350). -/
def State.noteFault (s : State) (p : Fin 64) (e : Delivered) (f : FaultCode) : State :=
  match s.drg.requests.find? fun r => r.pair == pairKey e.src p && r.seq == some e.seq with
  | some r =>
    match r.owner with
    | .fabric key => { s with fab := { s.fab with inbound := s.fab.inbound.map fun (x : Inbound) =>
        if x.key = key then { x with fault := faultWord f } else x } }
    | _ => s
  | none => s

/-- The module-local part of a request's address (R297). -/
def Packet.local_ (k : Packet) : Nat := k.addr % 2 ^ 44

/-- The channel of an address is out of service for a training burst (R232). -/
def State.channelHeld (s : State) (a : Nat) : Bool :=
  let l := s.lineAt (a / 128)
  decide (a < dramSize) && (s.stack l.1).burst == some (channelAt l.2)

/-- The number of requests of a port's buffer before the one served next: those of a channel in a training burst wait, 64 of them at
most on a pseudo-channel, and the others go past them (R232). `w` counts the waiting ones of each pseudo-channel. -/
def State.nextServed (s : State) (w : Nat × Nat) : List Delivered → Option Nat
  | [] => none
  | e :: t =>
    let a := e.packet.local_
    if !s.channelHeld a then some 0
    else
      let odd := Config.pseudoOf (channelIndex (s.lineAt (a / 128)).2) % 2 == 1
      if 64 ≤ (if odd then w.2 else w.1) then none
      else (s.nextServed (if odd then (w.1, w.2 + 1) else (w.1 + 1, w.2)) t).map (· + 1)

/-- The oldest request that a port may serve, where it is of a kind, served by `act`. -/
def State.servePort (s : State) (p : Fin 64) (cyc : Nat) (want : Packet → Bool) (act : Delivered → State → State) : State :=
  let s := s.advance cyc
  let l := s.drg.inbox.getD p.val []
  match s.nextServed (0, 0) l with
  | none => s
  | some i =>
    match l[i]? with
    | none => s
    | some e =>
      if !want e.packet then s
      else
        let s := { s with drg := { s.drg with inbox := s.drg.inbox.put p.val (e :: l.eraseIdx i) } }
        match s.takeInbox p with
        | none => s
        | some (e, s) => act e s

/-- DRAUGHT_LOAD (R297, R298). -/
def execDraughtLoad (p : Fin 64) (cyc : Nat) (s : State) : Host.Outcome State Fault Refusal :=
  .next (s.servePort p cyc (fun k => k.kind == 1) fun e s =>
    let k := e.packet
    let w := portAccess p k
    let n := 4 * lenWords k.len
    let f := s.accessFault w k.local_ n false
    let got := s.load w k.local_ n
    let bs := got.1
    let st := got.2.1
    let s := got.2.2
    (if st = .ok then s else s.noteFault p e f).reply p e st bs)

/-- A store of bytes at a port. -/
def State.servedStore (s : State) (p : Fin 64) (e : Delivered) (bs : List Byte) : State :=
  let k := e.packet
  let w := portAccess p k
  let f := s.accessFault w k.local_ bs.length true
  let got := s.store w k.local_ bs
  let st := got.1
  let s := got.2
  (if st = .ok then s else s.noteFault p e f).reply p e st []

/-- DRAUGHT_STORE (R297). -/
def execDraughtStore (p : Fin 64) (cyc : Nat) (s : State) : Host.Outcome State Fault Refusal :=
  .next (s.servePort p cyc (fun k => k.kind == 2) fun e s => s.servedStore p e e.packet.data)

/-- DRAUGHT_FLAG_STORE (R348, R365): the data after the 16-byte prefix applied as a store. -/
def execDraughtFlagStore (p : Fin 64) (cyc : Nat) (s : State) : Host.Outcome State Fault Refusal :=
  .next (s.servePort p cyc (fun k => k.kind == 3) fun e s => s.servedStore p e (e.packet.data.drop 16))

/-- DRAUGHT_SERVICE (R296): the packet is handed to the engine that owns the port, whose definition of its payload the manual does not
give. -/
def execDraughtService (p : Fin 64) (cyc : Nat) (s : State) : Host.Outcome State Fault Refusal :=
  .next (s.servePort p cyc (fun k => k.kind == 7) fun _ s => s)

/-! ### Atomics (R226, R349) -/

/-- The operations of R349 that a prefix can name. -/
def atomicListed (op : Nat) : Bool := decide (1 ≤ op ∧ op ≤ 5)

def atomicWidth (op : Nat) : Nat := if op = 2 ∨ op = 4 then 8 else 4

/-- A sum kept to `n` bits. -/
def addMod (n a b : Nat) : Nat := (a + b) % 2 ^ n

/-- Two words as one number, the first the low half (R7). -/
def pairOf (lo hi : Word) : Nat := lo.toNat + hi.toNat * 2 ^ 32

/-- What an atomic leaves at its target (R349). -/
def atomicResult (op : Nat) (w1 w2 : Word) (old : Nat) : Nat :=
  match op with
  | 1 => addMod 32 old w1.toNat
  | 2 => addMod 64 old (pairOf w1 w2)
  | 3 => w1.toNat
  | 4 => pairOf w1 w2
  | _ => if old = w1.toNat then w2.toNat else old

/-- The operation of an ATOMIC payload. -/
def atomicOp (data : List Byte) : Nat := ((wordsOf data).getD 0 0).field 31 28

/-- An atomic at the port that serves its line (R226, R349). -/
def State.servedAtomic (s : State) (p : Fin 64) (e : Delivered) : State :=
  let k := e.packet
  let ws := wordsOf k.data
  let op := atomicOp k.data
  let n := atomicWidth op
  let w := portAccess p k
  if !atomicListed op ∨ k.local_ % n ≠ 0 then (s.noteFault p e Flt.FAB_ATOMIC_BAD).reply p e .failed []
  else
    let f := s.accessFault w k.local_ n true
    match s.modify w k.local_ n (atomicResult op (ws.getD 1 0) (ws.getD 2 0)) with
    | (some old, st, s) => s.reply p e st (natLe old n)
    | (none, st, s) => (s.noteFault p e f).reply p e st []

/-- An atomic of one operation, where it is met; one whose operation is not listed is taken by any of the rows. -/
def State.atomicRow (s : State) (w : AtomicAt) (op cyc : Nat) : State :=
  let mine (data : List Byte) : Bool := atomicOp data == op || !atomicListed (atomicOp data)
  match w with
  | .port p => s.servePort p cyc (fun k => k.kind == 4 && mine k.data) fun e s => s.servedAtomic p e
  | .fabric b =>
    let s := s.advance cyc
    let me := s.moduleIndex
    s.takeHead b (fun h data => h.kind == 4 && h.dst == me && mine data) fun h data age s =>
      s.receiveRequest b h data age fun _ s => s

def execAtomicAdd32 (w : AtomicAt) (cyc : Nat) (s : State) : Host.Outcome State Fault Refusal := .next (s.atomicRow w 1 cyc)
def execAtomicAdd64 (w : AtomicAt) (cyc : Nat) (s : State) : Host.Outcome State Fault Refusal := .next (s.atomicRow w 2 cyc)
def execAtomicSwap32 (w : AtomicAt) (cyc : Nat) (s : State) : Host.Outcome State Fault Refusal := .next (s.atomicRow w 3 cyc)
def execAtomicSwap64 (w : AtomicAt) (cyc : Nat) (s : State) : Host.Outcome State Fault Refusal := .next (s.atomicRow w 4 cyc)
def execAtomicCas32 (w : AtomicAt) (cyc : Nat) (s : State) : Host.Outcome State Fault Refusal := .next (s.atomicRow w 5 cyc)

/-! ### Responses at the requester (R298, R264) -/

/-- A Draught request ends: its core's transaction, or its inbound fabric request, is answered. A port's REFUSED is reported over the
fabric as a failed access with its fault (R350). -/
def State.endDraught (s : State) (r : DrgRequest) (st : Status) (data : List Byte) (fault : Option FaultCode) : State :=
  let s := { s with drg := { s.drg with requests := s.drg.requests.filter fun q => q.id != r.id } }
  match r.owner with
  | .core c id => s.txnDone c id st data
  | .fabric key =>
    match s.fab.inbound.find? fun x => x.key == key with
    | none => s
    | some x =>
      let f := match fault with
        | some f => faultWord f
        | none => x.fault
      s.completeInbound x (if st = .refused then 1 else statusCode st) data (if st = .ok then 0 else f)
  | .none => s

/-- DRAUGHT_RESP (R298): the oldest response at a port completes the request it answers. -/
def execDraughtResp (p : Fin 64) (cyc : Nat) (s : State) : Host.Outcome State Fault Refusal :=
  let s := s.advance cyc
  .next (match s.drg.resps.getD p.val [] with
    | [] => s
    | e :: rest =>
      let s := { s with drg := { s.drg with resps := s.drg.resps.put p.val rest } }
      match s.drg.requests.find? fun r => r.pair == pairKey p e.src && !r.verdict &&
          (match r.seq with
            | some q => q % 2 ^ 20 == e.packet.reqSeq % 2 ^ 20
            | none => false) with
      | none => s
      | some r => s.endDraught r (statusOf e.packet.status) e.packet.data none)

/-- A withdrawn request ends at the boundary (R264): the poison line for a load, failure for the rest, DRG_REQ_TIMEOUT to its job. -/
def State.endVerdict (s : State) (r : DrgRequest) : State :=
  let k := r.packet
  let s := s.raiseTo Flt.DRG_REQ_TIMEOUT (blkDRG (r.pair / 64)) k.job (k.addr % 2 ^ 32)
  if k.kind = 1 then s.endDraught r .poison (poisonBytes (4 * lenWords k.len)) (some Flt.DRG_REQ_TIMEOUT)
  else s.endDraught r .failed [] (some Flt.DRG_REQ_TIMEOUT)

def State.endVerdicts (s : State) : State :=
  let got := s.takeVerdicts
  let l := got.1
  let s := got.2
  l.foldl (fun s r => s.endVerdict r) s

/-! ### Issuing (R79, R82, R365) -/

/-- The edge router by which a core's transaction with a line leaves for a port (R17, R82): its port. Towards a Bridle the hash takes the
port alone (R343). -/
def State.routerPort (s : State) (c : CoreId) (port : Fin 64) (line : Nat) : Fin 64 :=
  let h := Config.routerHash port.val (if 56 ≤ port.val ∧ port.val < 60 then 0 else line)
  let side := if (s.die c.rkn).split then (match h % 3 with
      | 0 => if c.east then 1 else 3
      | 1 => 0
      | _ => 2) else h % 4
  portOf (4 * c.rkn.val + if c.rkn.val < 4 then side else (side + 2) % 4)

/-- Entries of the pool in use: requests at their Bridle (R344). -/
def State.poolUsed (s : State) : Nat := s.fab.requests.length

/-- The Draught packet of a transaction (R297, R302, R348, R349); towards a port of this module its address names no module. -/
def State.txnPacket (s : State) (t : Txn) (c : CoreId) : Packet :=
  let issuer := putBits 12 11 t.q.val + c.gid
  let data := match t.kind with
    | 3 => bytesOf [BitVec.ofNat 32 issuer, 0, 0, 0] ++ t.data
    | 4 => bytesOf [0x10000000] ++ t.data ++ bytesOf [0]
    | _ => t.data
  ⟨if t.kind = 0 then 2 else t.kind, (if t.kind = 1 then ceilDiv t.len 4 else data.length / 4) % 64, (s.queue ⟨c, t.q⟩).job,
    if s.isHome t.addr then t.addr % 2 ^ 44 else t.addr, data, 0, 0⟩

/-- The port a transaction goes to: that of its line, or of the Bridle that issues for the core (R343). -/
def State.txnPort (s : State) (c : CoreId) (t : Txn) : Option (Fin 64) :=
  if s.isHome t.addr then some (s.servingPort (t.addr % 2 ^ 44))
  else (s.issuingBridle c.gid (t.addr / 2 ^ 44)).map fun b => portOf (56 + b.val)

/-- The scratch that a load is to write. -/
def State.loadSpan (s : State) (c : CoreId) (t : Txn) : List Span :=
  match t.ret with
  | some a => s.scratchSpan c a t.len
  | none => []

/-- A transaction that may not go yet: its core's routers or the DRAM map have changed and earlier ones are not complete (R82, R237), its core has
32 out or the module pool no entry (R79), a meter is below the charge (R85), or the scoreboard holds its range (R55). -/
def State.txnHeld (s : State) (c : CoreId) (t : Txn) : Bool :=
  let k := s.core c
  k.drain || (k.drainMem != [] && s.isHome t.addr && decide (t.addr % 2 ^ 44 < tallyBase))
    || decide (32 ≤ (k.mover.filter (·.issued)).length) || (!s.isHome t.addr && decide (8192 ≤ s.poolUsed))
    || decide (k.txMeter < t.charge.1) || decide (k.rxMeter < t.charge.2)
    || (t.kind == 1 && t.ret.isSome && s.hazard c (s.loadSpan c t))

/-- A transaction leaves for a port: its charge is taken, and the counts that go with a store's data stand. -/
def State.issueTxn (s : State) (c : CoreId) (t : Txn) (port : Fin 64) : State :=
  let k := s.core c
  let s := s.setCore c { k with
    txMeter := k.txMeter - t.charge.1, rxMeter := k.rxMeter - t.charge.2
    mover := k.mover.map fun u => if u.id = t.id then { u with issued := true } else u }
  let s := if t.kind = 0 then s else s.noteTxn ⟨c, t.q⟩ t.index .ok t.exc
  s.portRequest (s.routerPort c port (t.addr / 128)) port (s.txnPacket t c) (.core c t.id) (!s.isHome t.addr)

/-- A flagged store to the core's own scratch or slice, made once its predecessors are complete (R365). -/
def State.issueHere (s : State) (c : CoreId) (t : Txn) (a : Nat) : State :=
  let q : QueueId := ⟨c, t.q⟩
  let got := (s.dropTxn c t.id).store (s.accessor q) a t.data
  got.2.noteTxn q t.index got.1 t.exc

/-- DATA_MOVER_ISSUE (R53, R79, R82, R85, R343): the core's oldest transaction that may go leaves. -/
def execDataMoverIssue (core : CoreId) (cyc : Nat) (s : State) : Host.Outcome State Fault Refusal :=
  let s := (s.advance cyc).refillFor core
  .next (match s.nextTxn core with
    | none => s
    | some t =>
      match s.placeOf core t.addr t.data.length, t.kind with
      | .here a, 3 => s.issueHere core t a
      | _, _ =>
        match s.txnPort core t with
        | none => s
        | some p => if s.txnHeld core t then s else s.issueTxn core t p)

/-! ### The boundary -/

/-- Shares of a die for the stride that begins (R84). -/
def State.setShares (s : State) (r : Fin 8) : State :=
  let slots := (s.drg.grants.filter fun g => (g.src.val / 4 == r.val && decide (g.src.val < 32)) && !g.probe).length
  let n := ((dieCores r).filter fun c => s.isOn (.core c)).length
  let share := if n = 0 then 0 else 12800 * slots / n
  let d := s.die r
  let w := s.fieldClock r false
  let e := s.fieldClock r true
  let scale (mine other : Nat) : Nat := if d.split ∧ mine < other then (if n = 0 then 0 else 12800 * slots * mine / (n * other)) else share
  s.setDie r { d with shareWest := scale w e / 16 * 16, shareEast := scale e w / 16 * 16 }

/-- Meters brought up to date before the shares change. -/
def State.meterBoundary (s : State) : State :=
  let s := s.cores.foldl (fun (s : State) (g, _) => match coreOf g with
    | some c => if s.isOn (.core c) then s.refillFor c else s
    | none => s) s
  (allFin 8).foldl (fun s r => s.setShares r) s

end Sys2Proof.Machine
end

