-- ==== Sys2Proof/Machine/Groom.lean ====
section
/-! DEFINITION. The grade (R438, R439, R461), the fail-stop (R450, R451) and the Groom pair (R464 to R469). -/

namespace Sys2Proof.Machine

/-! ### The grade -/

/-- Enabled cores of a Reckoner: those selected and not failed; a failed Reckoner or field has none (R438, R460). -/
def State.enabledOf (s : State) (r : Fin 8) : Nat :=
  if (s.unit (.reckoner r)).failed then 0
  else (s.cores.filter fun (g, k) => decide (g / 256 = r.val) && k.selected
    && !(s.unit (.field r (decide (8 ≤ g % 16)))).failed).length

/-- Hot spares of a die: LOADED and OFF (RKN_CORE_COUNT.spares). -/
def State.hotSpares (s : State) (r : Fin 8) : List Nat :=
  (s.cores.filter fun (g, k) => decide (g / 256 = r.val) && k.spare && k.load == LoadState.loaded
    && match coreOf g with
      | some c => (s.unit (.core c)).st == .off && !(s.unit (.core c)).failed
      | none => false).map (·.1)

/-- The word of GRM_GRADE for the state as it stands. -/
def State.gradeWord (s : State) : Word :=
  let groom := s.groom.role0 == .absent || s.groom.role1 == .absent
  let blinkers := (allFin 2).any fun e => (s.unit (.engine e)).failed
  let bridle := (allFin 4).any fun b => !s.isOn (.bridle b)
  let plane := (allFin 16).any fun p => !s.isOn (.plane p)
  let memory := s.dram.map != .normal
  let failed := (allFin 8).any fun r => (s.unit (.reckoner r)).failed
  let low := (allFin 8).any fun r => decide (s.enabledOf r < 192)
  let any := groom || blinkers || bridle || plane || memory || failed || low
  let grade := if s.groom.fatal then 2 else if any then 1 else 0
  let enabled := ((allFin 8).map s.enabledOf).sum
  BitVec.ofNat 32 (putBits 31 30 grade + putBits 22 22 (bitOf groom) + putBits 21 21 (bitOf blinkers)
    + putBits 20 20 (bitOf bridle) + putBits 19 19 (bitOf plane) + putBits 18 18 (bitOf memory)
    + putBits 17 17 (bitOf failed) + putBits 16 16 (bitOf low) + putBits 10 0 enabled)

/-- Where words 1 and 2 of the grade capability's body are kept. -/
def gradeCores0 : Nat := 0x10F0C
def gradeCores1 : Nat := 0x10F10

/-- Words 1 and 2 of the grade capability: the enabled cores of each Reckoner (R439). -/
def State.gradeCores (s : State) : State :=
  let n (r : Nat) := s.enabledOf (Fin.ofNat 8 r)
  let four (a : Nat) : Word :=
    BitVec.ofNat 32 (putBits 7 0 (n a) + putBits 15 8 (n (a + 1)) + putBits 23 16 (n (a + 2)) + putBits 31 24 (n (a + 3)))
  (s.setReg gradeCores0 (four 0)).setReg gradeCores1 (four 4)

/-- GRM_GRADE and the grade capability brought up to date: ALERT_N while the grade is not FULL, and an in-band interrupt on each
change of GRM_GRADE. -/
def State.updateGrade (s : State) : State :=
  if !s.groom.ready && !s.groom.fatal then s
  else
    let s := s.gradeCores
    let w := s.gradeWord
    if s.reg Reg.GRM_GRADE = w then s
    else
      let s := (s.setReg Reg.GRM_GRADE w).emit (.inBand w)
      { s with groom := { s.groom with alert := decide (w.field 31 30 ≠ 0) } }

/-! ### Everything OFF (R451, R480, R536) -/

def Queue.stopped (v : Queue) : Queue :=
  { v with on := false, enable := false, st := .disabled, fetched := none, exec := [], wait := none, loops := [], pc := v.head,
           ending := [] }

/-- Every unit OFF at once: nothing is in progress any more, and no unit serves until the next module start. -/
def State.unitsOff (s : State) : State :=
  let s := s.units.foldl (fun (s : State) (p : Nat × UnitId × UnitRec) =>
    match p.2.1 with
    | .slot _ => s
    | u => s.setUnit u { s.unit u with st := .off, rp := false, done := false, disable := false, cancel := false }) s
  { s with
      cores := s.cores.mapVals fun _ (k : Core) =>
        { k with q0 := k.q0.stopped, q1 := k.q1.stopped, q2 := k.q2.stopped, q3 := k.q3.stopped, mover := [],
                 drain := false, drainMem := [] }
      hitch := { s.hitch with flight := [], watches := [], releases := [], orphans := [], answers := [] }
      stb := .reset, bln := .reset, edu := .reset, drg := .reset, toIssue := [], rein := [], due := []
      fab := { Fabric.reset with routing := s.fab.routing, ingress := s.fab.ingress, leases := s.fab.leases }
      brd := .reset }

/-- The module fail-stops for the fault of a block (R451): lanes dark without a LANE DROP, grade FAILED, ALERT_N, the log. -/
def State.moduleFatal (s : State) (block : Word) : State :=
  if s.groom.fatal then s
  else
    let s := s.unitsOff
    let s := { s with groom := { s.groom with fatal := true, alert := true } }
    (s.logFault Flt.GRM_MODULE_FATAL blkGRM block.toNat).updateGrade

/-- MODULE_FAIL_STOP: a module-fatal fault of R450 that no other command brings about; `block` is the block ID of the faulting
unit. -/
def execModuleFailStop (block : Word) (s : State) : Host.Outcome State Fault Refusal := .next (s.moduleFatal block)

/-! ### The Farrier's record (R471) -/

/-- GRM_FAR_LAST and GRM_FAR_STRIDE, written also for what a routine that is switched off would have done. -/
def State.noteFarrier (s : State) (cls failed subst : Nat) : State :=
  (s.setReg Reg.GRM_FAR_LAST (BitVec.ofNat 32 (putBits 31 29 cls + putBits 26 16 failed + putBits 10 0 subst))).setReg
    Reg.GRM_FAR_STRIDE (BitVec.ofNat 32 s.clk.stride.toNat)

/-- A routine of the Farrier is switched on: bits of GRM_FAR_CTL. -/
def State.farrier (s : State) (bit : Nat) : Bool := s.regF Reg.GRM_FAR_CTL bit bit == 1

def State.farCount (s : State) (n : Nat) : State := s.bump (Reg.GRM_FAR_CNT_n + 4 * n) 1

/-! ### The Groom pair -/

def State.role (s : State) (g : Fin 2) : GroomRole := if g = 0 then s.groom.role0 else s.groom.role1
def State.setRole (s : State) (g : Fin 2) (v : GroomRole) : State :=
  if g = 0 then { s with groom := { s.groom with role0 := v } } else { s with groom := { s.groom with role1 := v } }

def otherGroom (g : Fin 2) : Fin 2 := 1 - g

/-- How a Groom's restart stands: 0 none, 1 in progress, 2 ended. -/
def State.restarting (s : State) (g : Fin 2) : Nat := if g = 0 then s.groom.restart0 else s.groom.restart1
def State.setRestarting (s : State) (g : Fin 2) (n : Nat) : State :=
  if g = 0 then { s with groom := { s.groom with restart0 := n } } else { s with groom := { s.groom with restart1 := n } }

/-- Restarts of a Groom within the last 2³⁶ strides (R469). -/
def State.restartsOf (s : State) (g : Fin 2) : List Nat :=
  (if g = 0 then s.groom.restarts0 else s.groom.restarts1).filter fun b => decide (s.clk.bnd < b + 2 ^ 36)

/-- The Farrier restarts a Groom, at most three times within the window (R469). -/
def State.restartGroom (s : State) (g : Fin 2) : State :=
  let l := s.restartsOf g
  if 3 ≤ l.length then s.setRestarting g 0
  else
    let s := s.noteFarrier 3 g.val 0x7FF
    if !s.farrier 2 then s.setRestarting g 0
    else
      let s := if g = 0 then { s with groom := { s.groom with restarts0 := l ++ [s.clk.bnd] } }
        else { s with groom := { s.groom with restarts1 := l ++ [s.clk.bnd] } }
      (s.setRestarting g 1).farCount 6

/-- A Groom becomes ABSENT and is restarted. -/
def State.groomLost (s : State) (g : Fin 2) : State := (s.setRole g .absent).restartGroom g

/-- The ACTIVE Groom fails: the gate switches to the STANDBY Groom, or the module fail-stops (R450, R466, R469). In DUAL the
other Groom goes on without a gap (R465). -/
def State.activeFails (s : State) (g : Fin 2) : State :=
  let o := otherGroom g
  match s.role g, s.role o with
  | .active, .standby =>
    let s := s.setRole o .active
    let s := { s with groom := { s.groom with active := decide (o = 1), epoch := s.groom.epoch + 1,
                                              switchovers := min (s.groom.switchovers + 1) 65535, overlap := true } }
    ((s.logFault Flt.GRM_SWITCHOVER blkGRM 0).farCount 5).groomLost g
  | .dual, .dual =>
    let s := s.setRole o .active
    ({ s with groom := { s.groom with active := decide (o = 1) } }).groomLost g
  | .active, _ => (s.setRole g .absent).moduleFatal blkGRM
  | .dual, _ => (s.setRole g .absent).moduleFatal blkGRM
  | _, _ => s

/-- GROOM_HEARTBEAT_TIMEOUT (R466): no heartbeat of the ACTIVE Groom for 1,536 Groom cycles. -/
def execGroomHeartbeatTimeout (g : Fin 2) (s : State) : Host.Outcome State Fault Refusal := .next (s.activeFails g)

/-- GROOM_SELF_FAULT (R466): an ACTIVE Groom reports an uncorrectable SRAM error or fails its health check. -/
def execGroomSelfFault (g : Fin 2) (s : State) : Host.Outcome State Fault Refusal := .next (s.activeFails g)

/-- A write of GRM_PAIR_CTL.switch (R468). -/
def State.pairSwitch (s : State) : State :=
  if s.groom.role0 = .standby ∨ s.groom.role1 = .standby then s.schedule .groomSwitch else s

/-- The planned switch at its boundary: the roles are exchanged, under a new epoch. -/
def State.groomSwitch (s : State) : State :=
  let a := s.groom.role0
  let b := s.groom.role1
  if (a = .active ∧ b = .standby) ∨ (a = .standby ∧ b = .active) then
    { s with groom := { s.groom with role0 := b, role1 := a, active := decide (a = .active),
                                     epoch := s.groom.epoch + 1 } }
  else s

/-- GROOM_PLANNED_SWITCH (R468, R471). -/
def execGroomPlannedSwitch (src : Source) (cyc : Nat) (s : State) : Host.Outcome State Fault Refusal :=
  let s := s.advance cyc
  .next (if s.mayWrite src Reg.GRM_PAIR_CTL then s.pairSwitch else s)

/-- STANDBY_HEALTH_TIMEOUT (R469): a STANDBY Groom's report is missing for 3 strides, or reports a failure. -/
def execStandbyHealthTimeout (g : Fin 2) (s : State) : Host.Outcome State Fault Refusal :=
  .next (match s.role g with
    | .standby => (s.logFault Flt.GRM_STANDBY_LOST blkGRM 0).groomLost g
    | _ => s)

/-- GROOM_RESTART_COMPLETE (R469): the Groom has booted from the booted slot and holds the journal, or has failed again. -/
def execGroomRestartComplete (g : Fin 2) (ok : Bool) (s : State) : Host.Outcome State Fault Refusal :=
  .next (if s.restarting g ≠ 1 then s else if ok then s.setRestarting g 2 else s.restartGroom g)

/-- The pair at a boundary: a restarted Groom becomes STANDBY; both are DUAL while a Reckoner restart runs under the Farrier
(R465). -/
def State.groomBoundary (s : State) : State :=
  let s := { s with groom := { s.groom with overlap := false } }
  let s := (allFin 2).foldl (fun s g =>
    if s.restarting g = 2 ∧ s.role g = .absent then (s.setRole g .standby).setRestarting g 0 else s) s
  let runs := s.dies.any fun d => d.2.farrier && d.2.resetting
  match s.groom.role0, s.groom.role1 with
  | .active, .standby => if runs then { s with groom := { s.groom with role0 := .dual, role1 := .dual } } else s
  | .standby, .active => if runs then { s with groom := { s.groom with role0 := .dual, role1 := .dual } } else s
  | .dual, .dual =>
    if runs || !s.groom.ready then s
    else if s.groom.active then { s with groom := { s.groom with role0 := .standby, role1 := .active } }
    else { s with groom := { s.groom with role0 := .active, role1 := .standby } }
  | _, _ => s

end Sys2Proof.Machine
end

