-- ==== Sys2Proof/Machine/HitchOps.lean ====
section
/-! DEFINITION. Hitch counters: changes, firing of host counters, release of waiters, and the changes that take
effect at a boundary (R324 to R342). -/

namespace Sys2Proof.Machine

/-! ### The host's view (R338, R339) -/

/-- The mirror of a function is enabled. -/
def State.mirrorOn (s : State) (fn : Nat) : Bool := s.regF (bank fn Reg.HCH_MIRROR_LO) 0 0 == 1

/-- The mirror base of a function, a host bus address. -/
def State.mirrorBase (s : State) (fn : Nat) : Nat :=
  (s.reg (bank fn Reg.HCH_MIRROR_HI)).toNat * 2 ^ 32 + s.regF (bank fn Reg.HCH_MIRROR_LO) 31 13 * 8192

/-- Word 1 of a mirror entry, and of the Hitch region: state and mirror sequence. -/
def Counter.stateWord (v : Counter) : Word := BitVec.ofNat 32 (putBits 31 30 v.st.code + putBits 29 0 v.mirSeq)

/-- One mirror write of a host counter, made now with the latest value. -/
def State.mirrorWrite (s : State) (i : Fin 1024) : State :=
  let c : CounterId := .host i
  let v := s.ctr c
  if s.mirrorOn v.fn then
    let v := { v with mirSeq := (v.mirSeq + 1) % 2 ^ 30, mirLast := some s.now, mirDirty := false }
    (s.setCtr c v).hostWrite v.job (s.mirrorBase v.fn + 8 * i.val) (bytesOf [v.value, v.stateWord])
  else s.setCtr c { v with mirDirty := false }

/-- Firing (R338): the mirror write, the MSI-X message, arm cleared. -/
def State.fire (s : State) (i : Fin 1024) : State :=
  let s := s.mirrorWrite i
  let v := s.ctr (.host i)
  ((s.sendMsix v.fn v.vector).bump (Reg.HCH_CNT_n + 28) 1).setCtr (.host i) { v with arm := false }

/-- A host counter's change noted: a mirror write is due, and the counter fires when it is armed and its condition
holds. -/
def State.hostChanged (s : State) (i : Fin 1024) : State :=
  let v := s.ctr (.host i)
  let s := if s.mirrorOn v.fn then s.setCtr (.host i) { v with mirDirty := true } else s
  if v.arm && cmpHolds v.cmp v.value v.thresh then s.fire i else s

/-! ### Waiters -/

/-- Queues of a core whose descriptor waits on an own-core counter. -/
def State.ownWaiters (s : State) (c : CoreId) (h : Fin 48) : List QueueId :=
  ((allFin 4).map fun q => (⟨c, q⟩ : QueueId)).filter fun q =>
    match (s.queue q).wait with
    | some w => !w.held && w.desc.ctrSpace == 0 && w.desc.counter c == some (.core c h)
    | none => false

/-- The first slot from `slot` up in which the delivery limit of a hub has room (R312). -/
def State.roomySlot (s : State) (hub : Nat) : Nat → Nat → Nat
  | 0, slot => slot
  | n + 1, slot => if s.slotLoad slot hub < 4 then slot else s.roomySlot hub n (s.slotAt (slot + 1))

/-- RELEASE frames in the order of their slots. -/
def insertRelease (r : Release) : List Release → List Release
  | [] => [r]
  | x :: t => if r.slot < x.slot then r :: x :: t else x :: insertRelease r t

/-- A RELEASE frame for a queue launched at the root in the next Hitch slot that has room (R312, R333). -/
def State.pushRelease (s : State) (q : QueueId) (c : CounterId) (status : Nat) : State :=
  let slot := s.roomySlot q.core.rkn.val (s.hitch.slots.length + 1) (s.slotAt (s.now + 1))
  { s.loadSlot slot q.core.rkn.val with hitch := { (s.loadSlot slot q.core.rkn.val).hitch with
      releases := insertRelease ⟨q, c, status, slot⟩ s.hitch.releases } }

/-- Watches on a counter judged after a change: those whose condition holds are removed and released (R333). -/
def State.evalWatches (s : State) (c : CounterId) : State :=
  let v := s.ctr c
  let due := s.hitch.watches.filter fun w => w.ctr == c && cmpHolds w.cmp v.value w.threshold
  let s := { s with hitch := { s.hitch with
      watches := s.hitch.watches.filter fun w => !(w.ctr == c && cmpHolds w.cmp v.value w.threshold) } }
  due.foldl (fun s w => s.pushRelease w.q c 0) s

/-- What follows a change of a counter's value (R331, R333, R338). -/
def State.counterChanged (s : State) (c : CounterId) : State :=
  match c with
  | .core k h => (s.ownWaiters k h).foldl (fun s q => s.judgeOwn q) s
  | .module _ => s.evalWatches c
  | .host i => (s.evalWatches c).hostChanged i

/-- Numbers without repeats, first occurrence kept. -/
def distinct (l : List Nat) : List Nat := l.foldl (fun acc x => if x ∈ acc then acc else acc ++ [x]) []

/-- Every waiter of a counter released with ORPHAN; HCH_ORPHAN is raised once to each job that had one (R335). -/
def State.releaseWaiters (s : State) (c : CounterId) : State :=
  let own := match c with
    | .core k h => s.ownWaiters k h
    | _ => []
  let root := s.hitch.watches.filter fun w => w.ctr == c
  let jobs := distinct (own.map (fun q => (s.queue q).job) ++ root.map (·.job))
  let s := jobs.foldl (fun s j => s.raiseTo Flt.HCH_ORPHAN blkHCH j (ctrDetail c)) s
  let s := own.foldl (fun s q => s.answerWait q .orphan) s
  let s := { s with hitch := { s.hitch with watches := s.hitch.watches.filter fun w => w.ctr != c } }
  root.foldl (fun s w => s.pushRelease w.q c 2) s

/-- A change of a host counter's state is to be mirrored (R338). -/
def State.mirrorDue (s : State) (c : CounterId) : State :=
  match c with
  | .host _ => if s.mirrorOn (s.ctr c).fn then s.setCtr c { s.ctr c with mirDirty := true } else s
  | _ => s

/-- A host counter that leaves LIVE: an armed one fires, and the change of state is mirrored (R338). -/
def State.leftLive (s : State) (c : CounterId) : State :=
  match c with
  | .host i => if (s.ctr c).arm then (s.mirrorDue c).fire i else s.mirrorDue c
  | _ => s

/-- A LIVE counter enters ORPHANED at a boundary (R335). -/
def State.enterOrphaned (s : State) (c : CounterId) (cause : Nat) : State :=
  let v := s.ctr c
  if v.st ≠ .live then s
  else
    let s := (s.setCtr c { v with st := .orphaned, cause := cause }).bump (Reg.HCH_CNT_n + 24) 1
    (s.releaseWaiters c).leftLive c

/-- An ORPHANED counter of a core that is OFF already is FREE (R336). -/
def State.freeIfOff (s : State) (c : CounterId) : State :=
  match c with
  | .core k _ =>
    if (s.unit (.core k)).st = .off ∧ (s.ctr c).st = .orphaned then s.setCtr c { s.ctr c with st := .free } else s
  | _ => s

/-- A counter is to enter ORPHANED at the next boundary (R327, R335). -/
def State.orphanLater (s : State) (c : CounterId) (cause : Nat) : State :=
  { s with hitch := { s.hitch with orphans := s.hitch.orphans ++ [(c, cause)] } }

/-- The counters entering ORPHANED at this boundary. -/
def State.applyOrphans (s : State) : State :=
  let l := s.hitch.orphans
  l.foldl (fun s e => (s.enterOrphaned e.1 e.2).freeIfOff e.1) { s with hitch := { s.hitch with orphans := [] } }

/-- Every LIVE counter of a job enters ORPHANED (R335, cause 2). -/
def State.revokeJob (s : State) (job : Nat) : State :=
  (counterList s).foldl (fun s c => if (s.ctr c).job = job then s.enterOrphaned c 2 else s) s
where
  /-- The counters the table lists. -/
  counterList (s : State) : List CounterId := s.hitch.ctrs.filterMap fun (k, _) =>
    if k < 2 ^ 20 then (coreOf (k / 64)).bind fun c => counterAt 0 (some c) (k % 64)
    else if k < 2 ^ 20 + 1024 then counterAt 2 none (k - 2 ^ 20)
    else counterAt 3 none (k - 2 ^ 20 - 1024)

/-! ### INIT, FREE and SET at their boundary (R326, R336) -/

/-- INIT of a LIVE counter first releases its waiters, an armed host counter, which fires, among them (R335, R336). DEDUCED, assumption
182. -/
def State.counterInit (s : State) (c : CounterId) (value : Word) (job fn : Nat) : State :=
  let s := if (s.ctr c).st = .live then (s.releaseWaiters c).leftLive c else s
  let v := s.ctr c
  (s.setCtr c { v with st := .live, value := value, job := job, fn := fn, gen := v.gen + 1 }).counterChanged c

def State.counterFree (s : State) (c : CounterId) : State :=
  let live := decide ((s.ctr c).st = .live)
  let changes := decide ((s.ctr c).st ≠ .free)
  let s := if live then s.releaseWaiters c else s
  let v := s.ctr c
  let s := s.setCtr c { v with st := .free, cause := 6, gen := v.gen + 1 }
  if live then s.leftLive c else if changes then s.mirrorDue c else s

def State.counterSet (s : State) (c : CounterId) (value : Word) : State :=
  let v := s.ctr c
  if v.st = .live then (s.setCtr c { v with value := value }).counterChanged c else s

/-- Core counters when their core leaves ON: they enter ORPHANED at this boundary (R335, cause 1). -/
def State.orphanCore (s : State) (k : CoreId) : State :=
  (allFin 48).foldl (fun s h => s.enterOrphaned (.core k h) 1) s

/-- Core counters when their core reaches OFF: an ORPHANED one becomes FREE (R336). -/
def State.freeCore (s : State) (k : CoreId) : State :=
  (allFin 48).foldl (fun s h =>
    let v := s.ctr (.core k h)
    if v.st = .orphaned then s.setCtr (.core k h) { v with st := .free } else s) s

/-- Host counters of a function enter ORPHANED (R335, cause 5). -/
def State.orphanFunction (s : State) (fn : Nat) : State :=
  s.hitch.ctrs.foldl (fun s (k, v) =>
    if 2 ^ 20 + 1024 ≤ k ∧ v.fn = fn ∧ v.st = .live then
      match counterAt 3 none (k - 2 ^ 20 - 1024) with
      | some c => s.orphanLater c 5
      | none => s
    else s) s

/-! ### Frames (R311 to R315, R326 to R328) -/

/-- The hub a frame to a counter is delivered to: the die hub of a core counter; root counters are at the root. -/
def hubOf : CounterId → Option Nat
  | .core c _ => some c.rkn.val
  | _ => none

/-- The frames that combine with the first: those of its slot to its counter, as long as the running sum stays in 16
bits (R312). Answers the sum, the parts and the frames left. -/
def combine (slot : Nat) (c : CounterId) (sum : Int) (more : Bool) :
    List Frame → Int × List Frame × List Frame
  | [] => (sum, [], [])
  | f :: t =>
    if more && f.slot == slot && f.ctr == c then
      if -32768 ≤ sum + f.amount ∧ sum + f.amount ≤ 32767 then
        let (r, ps, rest) := combine slot c (sum + f.amount) true t
        (r, f :: ps, rest)
      else
        let (r, ps, rest) := combine slot c sum false t
        (r, ps, f :: rest)
    else
      let (r, ps, rest) := combine slot c sum more t
      (r, ps, f :: rest)

/-- The outcome of a frame told to what it is owed to: an atomic of another module is answered (R341); a SIGNAL that
was refused at its relaunch completes with ACCESS_FAULT (R328). An applied one ends the descriptor's work there and then (R61). -/
def State.frameOutcome (s : State) (f : Frame) (ok : Bool) : State :=
  match f.origin with
  | .plain => s
  | .desc q i => if ok then noteDone s q i else noteStatus s q i stAccess
  | .atomic id => { s with hitch := { s.hitch with answers := s.hitch.answers ++ [(id, ok)] } }
where
  noteStatus (s : State) (q : QueueId) (i : BitVec 16) (st : Nat) : State :=
    let v := s.queue q
    s.setQueue q { v with exec := v.exec.map fun e =>
      if e.desc.index = i then { e with status := max e.status st } else e }
  noteDone (s : State) (q : QueueId) (i : BitVec 16) : State :=
    let v := s.queue q
    s.setQueue q { v with exec := v.exec.map fun e => if e.desc.index = i then { e with doneAt := s.clk.cycle } else e }

/-- An increase of a module counter by a signal, counted for the EDU's done counters (R144). -/
def State.notePulse (s : State) (c : CounterId) (amount : Int) : State :=
  match c with
  | .module i =>
    { s with edu := { s.edu with pulses := s.edu.pulses.put i.val (s.edu.pulses.getD i.val 0 + amount.toNat) } }
  | _ => s

/-- A signal, or a combination judged as one, applied to its counter or refused (R326, R327). -/
def State.applySignal (s : State) (c : CounterId) (amount : Int) (source : Nat) : State :=
  let v := s.ctr c
  let r : Int := (v.value.toNat : Int) + amount
  if r < 0 ∨ 2 ^ 32 ≤ r then
    let s := (s.bump (Reg.HCH_CNT_n + 20) 1).orphanLater c 4
    s.raiseTo Flt.HCH_COUNTER_RANGE blkHCH v.job (putBits 26 16 source + unsignedOf 16 amount)
  else ((s.setCtr c { v with value := BitVec.ofInt 32 r }).notePulse c amount).counterChanged c

end Sys2Proof.Machine
end

