-- ==== Sys2Proof/Machine/Hitch.lean ====
section
/-! DEFINITION. The Hitch rows: frames, releases, watches, counter operations and host counters (R311 to R315, R324 to
R342). -/

namespace Sys2Proof.Machine

/-! ### Frames -/

/-- A frame that is applied at a hub counts there for its slot (R312). -/
def State.countDelivery (s : State) (f : Frame) : State :=
  match hubOf f.ctr with
  | some h => s.loadSlot f.slot h
  | none => s

/-- The delivery limit of R312 has been reached for a frame's hub in its slot. -/
def State.hubFull (s : State) (f : Frame) : Bool :=
  match hubOf f.ctr with
  | some h => decide (4 ≤ s.slotLoad f.slot h)
  | none => false

/-- A frame still counts for its counter: LIVE, and no INIT or FREE since its launch (R326). -/
def State.frameCounts (s : State) (f : Frame) : Bool :=
  (s.ctr f.ctr).st == .live && (s.ctr f.ctr).gen == f.gen

/-- A combination applied as one change (R312, R327). -/
def State.applyParts (s : State) (c : CounterId) (parts : List Frame) : State :=
  let good := parts.filter s.frameCounts
  let s := match good with
    | [] => s
    | f :: _ => s.applySignal c ((good.map (·.amount)).foldl (· + ·) 0) f.source
  parts.foldl (fun s f => s.frameOutcome f true) s

/-- An uncorrectable frame is discarded (R315): its counter, where it has one, enters ORPHANED, or, where it cannot be read, the Reckoner of
the hub is stopped and restarted. -/
def State.dropFrame (s : State) (c : Option CounterId) (hub : Word) (rkn : Option (Fin 8)) : State :=
  let s := (s.bump (Reg.HCH_CNT_n + 4) 1).logFault Flt.HCH_FRAME_LOST blkHCH hub.toNat
  match rkn, c with
  | some r, _ => s.scheduleNext (.farrierReset r)
  | none, some c => s.orphanLater c 3
  | none, none => s
def State.loseFrame (s : State) (c : CounterId) (hub : Word) (rkn : Option (Fin 8)) : State := s.dropFrame (some c) hub rkn

/-- A single-bit error of a frame is corrected and counted (R315). -/
def State.noteCorrected (s : State) (err : FrameError) : State :=
  if err = .corrected then s.bump (Reg.HCH_CNT_n + 12) 1 else s

/-- The frames lost with the first of a combination: past the root, at the hub of its counter, the combination is one frame and all its
parts are; before the root the first alone is. -/
def lostWith (hub : Word) (f : Frame) (rest : List Frame) : List Frame :=
  if hubOf f.ctr = some hub.toNat then (combine f.slot f.ctr f.amount true rest).2.2 else rest

/-- The frame at the front, with those of its slot that combine with it, is applied at its cycle of this stride. Beyond the delivery
limit it waits for its NAK. -/
def State.signalFrame (s : State) (err : FrameError) : State :=
  match s.hitch.flight with
  | [] => s
  | f :: rest =>
    if s.strideEnd ≤ f.land then s
    else
    let s := s.advanceTo f.land
    match err with
    | .lost hub rkn => ({ s with hitch := { s.hitch with flight := lostWith hub f rest } }).loseFrame f.ctr hub rkn
    | _ =>
      if s.hubFull f then s
      else
        let (_, parts, left) := combine f.slot f.ctr f.amount true rest
        let s := ({ s with hitch := { s.hitch with flight := left } }).noteCorrected err
        let s := if parts = [] then s else s.bump (Reg.HCH_CNT_n + 8) parts.length
        (s.countDelivery f).applyParts f.ctr (f :: parts)

/-- A frame launched in another slot. -/
def State.frameIn (s : State) (slot : Nat) (f : Frame) : Frame := { f with slot := slot, land := s.landing slot f.ctr f.source }

/-- Frames, by the slots they were to leave in, that a relaunched one of their source delays: they take the slots after it, in order. -/
def State.delayFrames (s : State) (slot : Nat) : List Frame → List Frame
  | [] => []
  | f :: t =>
    let next := max f.slot (s.slotAt (slot + 1))
    s.frameIn next f :: s.delayFrames next t

/-- The frames on their way when one of a source is relaunched in a slot: the source's own leave after it. -/
def State.afterRelaunch (s : State) (source slot : Nat) (l : List Frame) : List Frame :=
  let own := sortBy (fun a b : Frame => decide (a.slot < b.slot)) (l.filter fun f => f.source == source)
  (s.delayFrames slot own).foldl (fun l g => insertFrame g l) (l.filter fun f => f.source != source)

/-- A frame relaunched by its source after its NAK: the first slot after c + 48, and a new launch that is checked
again (R312, R328). -/
def State.relaunch (s : State) (f : Frame) : State :=
  let s := s.bump Reg.HCH_CNT_n 1
  if s.admits f.ctr f.job then
    let slot := s.slotAt (f.slot + 49)
    let f := { s.frameIn slot f with gen := (s.ctr f.ctr).gen }
    { s with hitch := { s.hitch with flight := insertFrame f (s.afterRelaunch f.source slot s.hitch.flight) } }
  else
    let s := (s.bump (Reg.HCH_CNT_n + 16) 1).raiseTo Flt.HCH_SIG_REJECTED (blockOf f) f.job (ctrDetail f.ctr)
    s.frameOutcome f false
where
  /-- The block that raises the rejection of a frame. -/
  blockOf (f : Frame) : Word :=
    match f.origin with
    | .desc q _ => coreBlock q.core q.q.val
    | _ => match coreOf f.source with
      | some c => coreBlock c 0
      | none => blkHCH

/-- The frame or combination at the front beyond its hub's limit is returned to every source of a part (R312). A NAK that is lost takes
its frame with it (R315). -/
def State.nakFrame (s : State) (err : FrameError) : State :=
  match s.hitch.flight with
  | [] => s
  | f :: rest =>
    if s.strideEnd ≤ f.slot + 48 then s
    else if s.hubFull f then
      let s := s.advanceTo (f.slot + 48)
      let (_, parts, left) := combine f.slot f.ctr f.amount true rest
      match err with
      | .lost hub rkn =>
        (parts.foldl (fun (s : State) g => s.relaunch g) { s with hitch := { s.hitch with flight := left } }).loseFrame f.ctr hub rkn
      | _ => (f :: parts).foldl (fun (s : State) g => s.relaunch g) (({ s with hitch := { s.hitch with flight := left } }).noteCorrected err)
    else s

/-! ### Releases and watches -/

def waitAnswerOf (status : Nat) : WaitAnswer :=
  match status with | 0 => .holds | 1 => .notHeld | 2 => .orphan | _ => .refused

/-- What a RELEASE that reaches its core does there (R333 to R335); one for a watch withdrawn is discarded. -/
def State.takeRelease (s : State) (r : Release) : State :=
  match (s.queue r.q).wait with
  | none => s
  | some w =>
    if w.watch && !w.held && w.desc.counter r.q.core == some r.ctr then
      let s := if r.status = 3 then s.raiseQueue r.q Flt.HCH_JOB_MISMATCH 0 else s
      s.answerWait r.q (waitAnswerOf r.status)
    else s

/-- A RELEASE lost on its way (R315): its counter enters ORPHANED, and its waiter is among those that are then released. -/
def State.loseRelease (s : State) (r : Release) (hub : Word) (rkn : Option (Fin 8)) : State :=
  let s := s.loseFrame r.ctr hub rkn
  match (s.queue r.q).wait with
  | none => s
  | some w =>
    if w.watch && !w.held && w.desc.counter r.q.core == some r.ctr then
      { s with hitch := { s.hitch with
          watches := s.hitch.watches ++ [⟨r.q, r.ctr, w.branch, w.desc.cmp, w.desc.threshold, (s.queue r.q).job⟩] } }
    else s

/-- The oldest RELEASE reaches its core, or is lost (R315, R333). -/
def State.releaseFrame (s : State) (err : FrameError) : State :=
  match s.hitch.releases with
  | [] => s
  | r :: rest =>
    if s.strideEnd ≤ r.slot + 48 then s
    else
    let s := s.advanceTo (r.slot + 48)
    let s := { s with hitch := { s.hitch with releases := rest } }
    match err with
    | .lost hub rkn => s.loseRelease r hub rkn
    | _ => (s.noteCorrected err).takeRelease r

/-- HITCH_RELEASE (R333). -/
def execHitchRelease (s : State) : Host.Outcome State Fault Refusal := .next (s.releaseFrame .none)

/-- The watch spelled by the payload of R332, where it names a queue and a root counter. -/
def watchOf (job : Nat) (w0 w1 w2 : Word) : Option Watch :=
  match coreOf (w2.field 10 0), counterAt (w0.field 31 29) none (w2.field 31 22) with
  | some c, some k =>
    some ⟨⟨c, ⟨w0.field 27 26 % 4, Nat.mod_lt _ (by decide)⟩⟩, k, w0.bit 28, w0.field 25 24, w1, job⟩
  | _, _ => none

/-- The root judges a watch as it is registered (R333). -/
def State.registerWatch (s : State) (w : Watch) : State :=
  match s.judge w.ctr w.job w.cmp w.threshold with
  | .orphan => (s.raiseTo Flt.HCH_ORPHAN (coreBlock w.q.core w.q.q.val) w.job (ctrDetail w.ctr)).pushRelease w.q w.ctr 2
  | .refused => s.pushRelease w.q w.ctr 3
  | .holds => s.pushRelease w.q w.ctr 0
  | .notHeld =>
    if w.query then s.pushRelease w.q w.ctr 1
    else { s with hitch := { s.hitch with watches := s.hitch.watches ++ [w] } }

/-- A watch message is the one that the waiting WAIT or BRANCH of its queue has sent (R332), and the root has not had it yet. -/
def State.asked (s : State) (w : Watch) (job : Nat) (w0 w1 w2 : Word) : Bool :=
  let v := s.queue w.q
  (match v.wait with
    | some x => x.watch && !x.held && v.job == job && (watchWords w.q x.desc).take 3 == [w0, w1, w2]
    | none => false)
    && (s.hitch.watches.all fun x => x.q != w.q) && s.hitch.releases.all fun r => r.q != w.q

/-- The root answers a watch message with WACK (R332). -/
def State.ackWatch (s : State) (q : QueueId) : State :=
  { s with rein := s.rein.map fun (r : ReinRequest) => if r.watch = some q ∧ r.answer = none then { r with answer := some (.ok, []) } else r }

/-- A watch message reaches the Hitch root (R332, R333). -/
def State.takeWatch (s : State) (job : Nat) (w0 w1 w2 : Word) : State :=
  match watchOf job w0 w1 w2 with
  | some w => if s.asked w job w0 w1 w2 then (s.registerWatch w).ackWatch w.q else s
  | none => s

/-- HITCH_WATCH_REGISTER (R332, R333, R335). -/
def execHitchWatchRegister (job : BitVec 12) (w0 w1 w2 : Word) (s : State) : Host.Outcome State Fault Refusal :=
  .next (s.takeWatch job.toNat w0 w1 w2)

/-- A withdrawal reaches the root (R334): the queue's watch on the counter is removed, and a RELEASE on its way for it is discarded. -/
def State.withdrawWatch (s : State) (w : Watch) : State :=
  { s with hitch := { s.hitch with
      watches := s.hitch.watches.filter fun x => !(x.q == w.q && x.ctr == w.ctr)
      releases := s.hitch.releases.filter fun r => !(r.q == w.q && r.ctr == w.ctr) } }

/-- HITCH_WATCH_WITHDRAW (R334). -/
def execHitchWatchWithdraw (job : BitVec 12) (w0 w1 w2 : Word) (s : State) : Host.Outcome State Fault Refusal :=
  .next (match watchOf job.toNat w0 w1 w2 with
    | some w => s.withdrawWatch w
    | none => s)

/-! ### Counter operations through the registers -/

/-- The counter HCH_CTR_SEL selects. -/
def State.selectedCounter (s : State) : Option CounterId :=
  counterAt (s.regF Reg.HCH_CTR_SEL 31 29) (coreOf (s.regF Reg.HCH_CTR_SEL 28 18)) (s.regF Reg.HCH_CTR_SEL 9 0)

/-- A write of HCH_CTR_CTL: its job and fn fields are kept, its op waits for its boundary (R326, R336). -/
def State.writeCtrCtl (s : State) (val : Word) : State :=
  match s.selectedCounter with
  | none => s
  | some c =>
    let s := s.setReg (bank c.code Reg.HCH_CTR_CTL) (val &&& 0x00FC0FFF)
    let fn := match c with
      | .host _ => val.field 23 18
      | _ => 0
    match val.field 29 28 with
    | 1 => s.schedule (.counterInit c s.hitch.staged (val.field 11 0) fn)
    | 2 => s.schedule (.counterFree c)
    | 3 => s.schedule (.counterSet c s.hitch.staged)
    | _ => s

/-- A counter operation of a source at a stride cycle. -/
def State.counterOp (s : State) (src : Source) (op : Nat) (val : Word) (cyc : Nat) : State :=
  let s := s.advance cyc
  if s.mayWrite src Reg.HCH_CTR_CTL then s.writeCtrCtl (val.setField 29 28 op) else s

def execCounterInit (src : Source) (val : Word) (cyc : Nat) (s : State) : Host.Outcome State Fault Refusal :=
  .next (s.counterOp src 1 val cyc)

def execCounterFree (src : Source) (val : Word) (cyc : Nat) (s : State) : Host.Outcome State Fault Refusal :=
  .next (s.counterOp src 2 val cyc)

def execCounterSet (src : Source) (val : Word) (cyc : Nat) (s : State) : Host.Outcome State Fault Refusal :=
  .next (s.counterOp src 3 val cyc)

/-- A write of HCH_REVOKE (R335): job 0 is ignored. -/
def State.writeRevoke (s : State) (job : Nat) : State := if job = 0 then s else s.schedule (.revoke job)

def execCounterRevoke (src : Source) (job : BitVec 12) (cyc : Nat) (s : State) : Host.Outcome State Fault Refusal :=
  let s := s.advance cyc
  .next (if s.mayWrite src Reg.HCH_REVOKE then s.writeRevoke job.toNat else s)

/-! ### The host -/

/-- A host doorbell (R328, R337): the amount is signalled under the counter's owner job. A rejection is logged and
counted. -/
def State.hostDoorbell (s : State) (fn : Fin 64) (i : Fin 1024) (val : Word) : State :=
  let c : CounterId := .host i
  let v := s.ctr c
  let amount := signedOf 16 (val.field 15 0)
  if val.field 31 16 ≠ 0 ∨ amount = 0 then s
  else if v.fn ≠ fn.val then s.logFault Flt.HCH_DB_REFUSED blkHCH (ctrDetail c)
  else if v.st = .live then
    (s.signal c amount v.job (agentBridle 0) blkHCH .plain).2
  else (s.bump (Reg.HCH_CNT_n + 16) 1).logFault Flt.HCH_SIG_REJECTED blkHCH (ctrDetail c)

/-- A doorbell as a request to BAR2, while the link is UP. A virtual function whose job is 0 has its writes refused (R414). -/
def State.takeDoorbell (s : State) (fn : Fin 64) (i : Fin 1024) (val : Word) : State :=
  if (s.reg Reg.PCI_LINK_STAT).field 31 29 ≠ 2 then s
  else
    let s := s.bump Reg.PCI_CNT_n 1
    if fn.val ≠ 0 ∧ s.liveF (bank fn.val Reg.PCI_FN_JOB) 11 0 = 0 then s else s.hostDoorbell fn i val

/-- HOST_COUNTER_DOORBELL (R337). -/
def execHostCounterDoorbell (fn : Fin 64) (i : Fin 1024) (val : Word) (s : State) :
    Host.Outcome State Fault Refusal := .next (s.takeDoorbell fn i val)

/-- A write of HCH_CTR_ARM (R338): its arm bit is ignored unless a host counter is selected. -/
def State.writeArm (s : State) (val : Word) : State :=
  match s.selectedCounter with
  | some (.host i) =>
    let v := { s.ctr (.host i) with arm := val.bit 31, cmp := val.field 30 29, vector := val.field 10 0 }
    let s := s.setCtr (.host i) v
    if v.arm && cmpHolds v.cmp v.value v.thresh then s.fire i else s
  | some c => s.setCtr c { s.ctr c with cmp := val.field 30 29, vector := val.field 10 0 }
  | none => s

def execHostCounterArm (src : Source) (val : Word) (s : State) : Host.Outcome State Fault Refusal :=
  .next (if s.mayWrite src Reg.HCH_CTR_ARM then s.writeArm val else s)

/-- MIRROR_WRITE (R338): a due mirror write of a host counter, 64 stride cycles after the last at the earliest. -/
def execMirrorWrite (i : Fin 1024) (cyc : Nat) (s : State) : Host.Outcome State Fault Refusal :=
  let s := s.advance cyc
  let v := s.ctr (.host i)
  let spaced := match v.mirLast with
    | some t => decide (t + 64 ≤ s.now)
    | none => true
  .next (if v.mirDirty && spaced then s.mirrorWrite i else s)

end Sys2Proof.Machine
end

