-- ==== Sys2Proof/Machine/Farrier.lean ====
section
/-! DEFINITION. Failures in service and their substitutes: die-to-die bundles (R316 to R320), cores (R456 to R459), fields and
Reckoners (R446, R448, R460). -/

namespace Sys2Proof.Machine

/-- A unit fails: it stops from the next boundary, or is OFF at once there (R452, R455). -/
def State.failUnit (s : State) (u : UnitId) (atOnce : Bool) : State :=
  (s.setUnit u { s.unit u with failed := true }).scheduleNext (.unitFail u atOnce)

/-- Jobs with a queue enabled on a core. -/
def State.coreJobs (s : State) (c : CoreId) : List Nat :=
  distinct (((allFin 4).filter fun q => (s.queue ⟨c, q⟩).on).map fun q => (s.queue ⟨c, q⟩).job)

/-- Jobs with a queue enabled on a Reckoner. -/
def State.reckonerJobs (s : State) (r : Fin 8) : List Nat :=
  distinct (s.cores.flatMap fun (g, _) => match coreOf g with
    | some c => if c.rkn = r then s.coreJobs c else []
    | none => [])

/-- A core is FIELD_FAIL with a test code: logged, counted, listed, and out of service (R432, R440, R456). -/
def State.listCore (s : State) (c : CoreId) (code : Nat) : State :=
  let s := s.setCore c { s.core c with selected := false, spare := false, failCode := 0 }
  let s := s.setUnit (.core c) { s.unit (.core c) with failed := true, barred := true }
  let s := { s with groom := { s.groom with
      fieldFail := if c.gid ∈ s.groom.fieldFail then s.groom.fieldFail else s.groom.fieldFail ++ [c.gid] } }
  (s.logFieldFail 0 c.gid code).countFieldFail 0 c.rkn.val

/-- Every enabled queue of a failing core halts: at its executing descriptors, stopped as at their bounds (R41), or at its
head (R456). -/
def State.haltCore (s : State) (c : CoreId) : State :=
  (allFin 4).foldl (fun s q =>
    let id : QueueId := ⟨c, q⟩
    let v := s.queue id
    if !v.on then s
    else if v.exec = [] then
      (if v.st = .halted then s
       else (s.withdrawWatches id).setQueue id
         { v with st := .halted, haltIndex := v.head, pc := v.head, loops := [], fetched := none, wait := none })
    else v.exec.foldl (fun s e => s.overrun id e.desc.index) s) s

/-- A core fails in service (R456): `cause` is that of RKN_CORE_FAIL, `code` the test code of its FIELD_FAIL. -/
def State.coreFails (s : State) (c : CoreId) (cause code : Nat) : State :=
  let u := s.unit (.core c)
  if u.failed then s
  else
    let jobs := s.coreJobs c
    let s := s.haltCore c
    let s := s.logFault Flt.RKN_CORE_FAIL (coreBlock c 0) (putBits 26 16 c.gid + cause)
    if u.st = .off then s.listCore c code
    else
      let k := s.core c
      (s.setCore c { k with failCode := code, owes := if k.selected then some (c.gid, jobs) else none }).failUnit (.core c)
        false

/-- CORE_FAIL_IN_SERVICE (R456). -/
def execCoreFailInService (c : CoreId) (cause : CoreFault) (s : State) : Host.Outcome State Fault Refusal :=
  .next (match cause with
    | .controlStore => s.coreFails c 1 8
    | .scratch => s.coreFails c 2 9
    | .ownerBundle => s.coreFails c 3 10)

/-- The spare that stands in for a core: LOADED and OFF, of the lowest index in its field, else in the other (R457). -/
def State.chooseSpare (s : State) (c : CoreId) : Option CoreId :=
  let l := (s.hotSpares c.rkn).filterMap coreOf
  match l.find? fun k => k.east == c.east with
  | some k => some k
  | none => l.head?

/-- FARRIER_CORE_SUBSTITUTION (R457, R458): a failed core is OFF. The spare starts at the next boundary; the jobs hear of it
when it is ON. A substitute that fails its own start is replaced in the same way. -/
def execFarrierCoreSubstitution (c : CoreId) (s : State) : Host.Outcome State Fault Refusal :=
  let k := s.core c
  .next (match k.owes with
    | none => s
    | some (gid, jobs) =>
      if (s.unit (.core c)).st ≠ .off then s
      else
        let s := s.setCore c { k with owes := none }
        match s.chooseSpare c with
        | some x =>
          if !s.farrier 0 then s.noteFarrier 0 gid x.gid
          else
            let s := s.setCore x { s.core x with subst := some (gid, jobs) }
            (s.setUnit (.core x) { s.unit (.core x) with barred := false, enable := true }).scheduleNext
              (.unitEnable (.core x))
        | none =>
          let s := (s.noteFarrier 0 gid 0x7FF).farCount 1
          jobs.foldl (fun s j => s.raiseTo Flt.GRM_CORE_LOST blkGRM j (putBits 26 16 gid + 0x7FF)) s)

/-- A substitute reaches ON: it is no spare any more, and the jobs of the core it stands in for are told (R457). -/
def State.substituteOn (s : State) (c : CoreId) : State :=
  let k := s.core c
  match k.subst with
  | none => s
  | some (gid, jobs) =>
    let s := s.setCore c { k with subst := none, spare := false, selected := true }
    let s := (s.noteFarrier 0 gid c.gid).farCount 0
    jobs.foldl (fun s j => s.raiseTo Flt.GRM_CORE_SUBST blkGRM j (putBits 26 16 gid + c.gid)) s

/-- A failed core reaches OFF (R456). A substitute that failed owes what it was to stand in for. -/
def State.failedCoreOff (s : State) (c : CoreId) : State :=
  let k := s.core c
  let s := match k.subst with
    | some w => s.setCore c { k with subst := none, owes := some w }
    | none => s
  if (s.core c).failCode = 0 then s else s.listCore c (s.core c).failCode

/-- SPARE_PERIODIC_CHECK (R459): the next hot spare of a die is tested in place; `code` is 0 for a pass, 1 for its logic
self-test, 2 for its scratch march. The march leaves its scratch at zero (R433). -/
def execSparePeriodicCheck (r : Fin 8) (code : Fin 3) (s : State) : Host.Outcome State Fault Refusal :=
  let l := s.hotSpares r
  let next := s.groom.checkNext.getD r.val 0
  let due := decide (s.groom.lastCheck.getD r.val 0 + 2 ^ 22 ≤ s.clk.bnd)
  let pick := match l.find? fun g => decide (next ≤ g) with
    | some g => some g
    | none => l.head?
  .next (match pick.bind coreOf with
    | none => s
    | some c =>
      if !due then s
      else
        let s := { s with groom := { s.groom with lastCheck := s.groom.lastCheck.put r.val s.clk.bnd,
                                                  checkNext := s.groom.checkNext.put r.val (c.gid + 1) } }
        let s := s.zeroRange (scratchAddr c 0) 0x180000
        if code = 0 then s else s.coreFails c 4 code.val)

/-! ### Fields and Reckoners -/

/-- FIELD_FAIL_IN_SERVICE (R460): without its clock a field cannot stop in order and is OFF at once, with its cores. -/
def execFieldFailInService (r : Fin 8) (east : Bool) (s : State) : Host.Outcome State Fault Refusal :=
  .next (let u := s.unit (.field r east)
    if u.failed || u.st == .off then s else s.failUnit (.field r east) true)

/-- A field that failed is OFF: the Farrier restarts it once within 2³⁶ strides. -/
def State.failedFieldOff (s : State) (r : Fin 8) (east : Bool) : State :=
  let d := s.die r
  let last := if east then d.fieldRestartE else d.fieldRestart
  let again := match last with
    | some b => decide (s.clk.bnd < b + 2 ^ 36)
    | none => false
  if again then s
  else
    let s := s.noteFarrier 1 (2 * r.val + bitOf east) 0x7FF
    if !s.farrier 1 then s
    else
      let s := s.setDie r (if east then { d with fieldRestartE := some s.clk.bnd } else { d with fieldRestart := some s.clk.bnd })
      let u : UnitId := .field r east
      ((s.setUnit u { s.unit u with failed := false }).farCount 2).scheduleNext (.unitEnable u)

/-- A Reckoner fails in service (R460): its jobs are told and it stops. -/
def State.reckonerFails (s : State) (r : Fin 8) (atOnce : Bool) : State :=
  if (s.unit (.reckoner r)).failed then s
  else
    let s := (s.reckonerJobs r).foldl (fun s j => s.raiseTo Flt.GRM_RKN_LOST blkGRM j r.val) s
    (s.farCount 4).failUnit (.reckoner r) atOnce

/-- RECKONER_FAIL (R320, R460). -/
def execReckonerFail (r : Fin 8) (s : State) : Host.Outcome State Fault Refusal :=
  .next (if (s.unit (.reckoner r)).st = .off then s else s.reckonerFails r false)

/-- A Reckoner that failed is OFF: the Farrier performs one partial reset, unless it is shut down for heat (R460, R479). -/
def State.failedReckonerOff (s : State) (r : Fin 8) : State :=
  let s := s.setDie r { s.die r with resetting := false, farrier := false, restartAt := none }
  if r.val ∈ s.therm.shut ∨ (s.die r).resetOnce then s
  else
    let s := s.noteFarrier 2 r.val 0x7FF
    if !s.farrier 1 then s
    else
      let s := s.setDie r { s.die r with resetOnce := true }
      s.scheduleNext (.farrierReset r)

/-- 50 ms in stride cycles (R448). -/
def restartLimit : Nat := 50000000

/-- RECKONER_RESTART_TIMEOUT (R448): a restart that has not reached ON within 50 ms leaves the Reckoner OFF as failed. -/
def execReckonerRestartTimeout (r : Fin 8) (cyc : Nat) (s : State) : Host.Outcome State Fault Refusal :=
  let s := s.advance cyc
  .next (match (s.die r).restartAt with
    | some t => if s.now < t + restartLimit ∨ (s.unit (.reckoner r)).st ≠ .starting then s else s.reckonerFails r true
    | none => s)

/-- A write of GRM_RST_CTL (R446). -/
def State.writeRstCtl (s : State) (val : Word) : State :=
  let s := if val.bit 30 then s.setRegF Reg.GRM_RST_CTL 30 30 0 else s
  let z := val.bit 31
  let mask := val.field 7 0
  let clash := s.dies.any fun d => d.2.resetting && d.2.zeroiseReset != z
  if mask = 0 then s.setRegF Reg.GRM_RST_CTL 31 31 (bitOf z)
  else if !s.groom.ready || clash then s.setRegF Reg.GRM_RST_CTL 30 30 1
  else
    let s := s.setRegF Reg.GRM_RST_CTL 31 31 (bitOf z)
    let s := (allFin 8).foldl (fun s r =>
      if mask.testBit r.val then s.setDie r { s.die r with resetting := true, zeroiseReset := z } else s) s
    s.schedule (.reckonerReset mask z)

/-- RECKONER_PARTIAL_RESET (R446). -/
def execReckonerPartialReset (src : Source) (val : Word) (cyc : Nat) (s : State) : Host.Outcome State Fault Refusal :=
  let s := s.advance cyc
  .next (if s.mayWrite src Reg.GRM_RST_CTL then s.writeRstCtl val else s)

/-! ### Die-to-die bundles -/

/-- The key of a bundle. -/
def bundleKey (r cls bundle : Nat) : Nat := r * 65536 + cls * 8192 + bundle

/-- The detail word of a lane's record: class, bundle and lane (R320). -/
def laneWord (key lane : Nat) : Nat := putBits 31 29 (key % 65536 / 8192) + putBits 28 16 (key % 8192) + lane

/-- Bundles of a class on a Reckoner stack (R316). -/
def bundleCount (cls : Nat) : Nat := if cls ≤ 2 then 1664 else if cls = 3 then 512 else if cls = 4 then 16 else 2

/-- The lanes that a bundle's working map named at the start, and those it left as spares (R316). -/
def State.startLanes (s : State) (key : Nat) : List Nat × List Nat :=
  let swaps := s.groom.swaps.getD key []
  let bad := (s.groom.bundles.getD key []).filter fun l => !(swaps.any fun x => x.1 == l)
  let good := (List.range 68).filter fun l => !bad.contains l
  (good.take 64, good.drop 64)

/-- A lane carries traffic: it is in the working map, or is the spare of one that has left it. -/
def State.laneWorks (s : State) (key lane : Nat) : Bool :=
  !(s.groom.bundles.getD key []).contains lane
    && ((s.startLanes key).1.contains lane || (s.groom.swaps.getD key []).any fun x => x.2 == lane)

/-- The swaps of a bundle that wait for their boundary. -/
def State.lanesDue (s : State) (key : Nat) : List (Nat × Nat) :=
  s.due.filterMap fun e => match e.2 with
    | .bundleLane k lane spare => if k = key then some (lane, spare) else none
    | _ => none

/-- The lowest spare lane of a bundle that is clean, `clean` holding a bit for each of lanes 64 to 67, and that takes no traffic yet
(R319). -/
def State.laneSpare (s : State) (key : Nat) (clean : BitVec 4) : Option Nat :=
  let taken := (s.groom.swaps.getD key [] ++ s.lanesDue key).map (·.2)
  (s.startLanes key).2.find? fun l => 64 ≤ l && clean.getLsbD (l - 64) && !taken.contains l && !(s.groom.bundles.getD key []).contains l

/-- A lane leaves the working map of its bundle at the boundary, and a spare takes its traffic (R319). -/
def State.swapLane (s : State) (key lane spare : Nat) : State :=
  let l := s.groom.bundles.getD key []
  if lane ∈ l then s
  else
    let s := { s with groom := { s.groom with
        bundles := s.groom.bundles.put key (sortBy (fun a b => decide (a < b)) (lane :: l))
        swaps := s.groom.swaps.put key ((lane, spare) :: s.groom.swaps.getD key []) } }
    s.logFault Flt.RKN_LANE_SWAP (blkRKN (key / 65536)) (laneWord key lane)

/-- LANE_SPARE_SWAP (R319): a working lane has had 16 corrected errors in a stride; bit i of `spare` says that lane 64 + i of its bundle
has been clean for 1,024 strides. -/
def execLaneSpareSwap (r : Fin 8) (cls : Fin 6) (bundle : Fin 1664) (lane : Fin 68) (spare : BitVec 4) (s : State) :
    Host.Outcome State Fault Refusal :=
  let key := bundleKey r.val cls.val bundle.val
  .next (if bundleCount cls.val ≤ bundle.val ∨ !s.laneWorks key lane.val ∨ (s.lanesDue key).any (fun x => x.1 == lane.val) then s
    else match s.laneSpare key spare with
    | some x => s.scheduleNext (.bundleLane key lane.val x)
    | none =>
    if s.groom.noSpare.contains (key * 128 + lane.val) then s
    else ({ s with groom := { s.groom with noSpare := (key * 128 + lane.val) :: s.groom.noSpare } }).logFault
      Flt.RKN_LANE_NOSPARE (blkRKN r.val) (laneWord key lane.val))

/-- A bundle has failed (R320). A mesh-port bundle fails its half of the slice as a start-up test of its lanes would. -/
def State.bundleFails (s : State) (r : Fin 8) (cls bundle : Nat) : State :=
  let key := bundleKey r.val cls bundle
  if s.groom.bundleFail.contains key then s
  else
    let s := { s with groom := { s.groom with bundleFail := s.groom.bundleFail ++ [key] } }
    if cls ≤ 2 then
      match coreOf (256 * r.val + bundle / 8) with
      | none => s
      | some c =>
        if cls < 2 then s.coreFails c 3 10
        else
          let half := c.gid * 2 + bundle % 8 / 4
          if 0x10000 + half ∈ s.groom.fieldFail then s
          else
            let s := { s with groom := { s.groom with
                sliceDown := if c.gid ∈ s.groom.sliceDown then s.groom.sliceDown else c.gid :: s.groom.sliceDown
                fieldFail := s.groom.fieldFail ++ [0x10000 + half] } }
            (s.logFieldFail 1 half 4).countFieldFail 1 r.val
    else if cls = 3 then s
    else if cls = 4 then
      if (List.range 16).all fun n => s.groom.bundleFail.contains (bundleKey r.val 4 n) then s.reckonerFails r false else s
    else s.reckonerFails r false

/-- BUNDLE_FAIL (R320): two uncorrectable transfers within one stride. -/
def execBundleFail (r : Fin 8) (cls : Fin 6) (bundle : Fin 1664) (s : State) : Host.Outcome State Fault Refusal :=
  .next (if bundleCount cls.val ≤ bundle.val then s else s.bundleFails r cls.val bundle.val)

end Sys2Proof.Machine
end

