-- ==== Sys2Proof/Machine/Laser.lean ====
section
/-! DEFINITION. Laser cartridges, feed switches and photonic calibration (R270 to R294). -/

namespace Sys2Proof.Machine

/-! ### Cartridges, feeds and quadrants (R270 to R273) -/

def State.cart (s : State) (k : Fin 8) : Cartridge := s.las.carts.getD k.val .reset
def State.setCart (s : State) (k : Fin 8) (v : Cartridge) : State :=
  { s with las := { s.las with carts := s.las.carts.put k.val v } }
def State.feed (s : State) (p : Fin 16) : Feed := s.las.feeds.getD p.val .reset
def State.setFeed (s : State) (p : Fin 16) (v : Feed) : State :=
  { s with las := { s.las with feeds := s.las.feeds.put p.val v } }
def State.quad (s : State) (q : Fin 4) : Quadrant := s.las.quads.getD q.val .reset
def State.setQuad (s : State) (q : Fin 4) (v : Quadrant) : State :=
  { s with las := { s.las with quads := s.las.quads.put q.val v } }

/-- The cartridges and planes of a quadrant (R270). -/
def cartOf (q : Fin 4) (odd : Bool) : Fin 8 := ⟨2 * q.val + bitOf odd, by cases odd <;> simp [bitOf] <;> omega⟩
def quadOfCart (k : Fin 8) : Fin 4 := ⟨k.val / 2, by omega⟩
def cartOdd (k : Fin 8) : Bool := k.val % 2 == 1
def quadOfPlane (p : Fin 16) : Fin 4 := ⟨p.val / 4, by omega⟩
def quadPlanes (q : Fin 4) : List (Fin 16) := (allFin 16).filter fun p => quadOfPlane p == q

/-- The planes a cartridge is the source of. -/
def State.fedBy (s : State) (k : Fin 8) : List (Fin 16) :=
  (quadPlanes (quadOfCart k)).filter fun p => (s.feed p).src == cartOdd k

/-- Role of a cartridge (R270): 0 none, 1 ACTIVE, 2 SPARE. -/
def State.cartRole (s : State) (k : Fin 8) : Nat :=
  if (s.unit (.cartridge k)).st ≠ .on then 0 else if s.fedBy k = [] then 2 else 1

/-- Temperature of a cartridge, in 1/16 °C (R472). -/
def State.cartTemp (s : State) (k : Fin 8) : Int := (s.therm.sensors.getD (8 * 4096 + k.val) .reset).temp

/-- The cartridge can give light at once. -/
def State.lit (s : State) (k : Fin 8) : Bool :=
  let c := s.cart k
  (s.unit (.cartridge k)).st == .on && c.cond == 0 && c.health != .failed

/-- A SPARE that is fit (R273); one found UNFIT is not (R281, R285). -/
def State.fit (s : State) (k : Fin 8) : Bool :=
  let c := s.cart k
  s.lit k && c.health != .unfit && decide (c.monitor.natAbs ≤ 50) && decide (s.cartTemp k < 70 * 16)

/-- A WARM or COLD spare that can be brought to HOT. -/
def State.canWarm (s : State) (k : Fin 8) : Bool :=
  let c := s.cart k
  (s.unit (.cartridge k)).st == .on && c.cond != 0 && c.health != .failed && c.health != .unfit

/-! ### Tap monitors and fade (R274 to R277) -/

/-- 10^(x/1000) in units of 10^-118, for x from −100,000 up. -/
def dbLinear (x : Int) : Nat :=
  let n := (x + 100000).toNat
  let frac := (Config.dbStep.zipIdx.foldl (fun v (c, j) => if (n % 1000).testBit j then v * c / 10 ^ 18 else v) (10 ^ 18))
  frac * 10 ^ (n / 1000)

/-- The largest figure in 0.01 dB at or below a linear power, by bisection. -/
def dbSearch (m : Nat) : Nat → Int → Int → Int
  | 0, lo, _ => lo
  | n + 1, lo, hi =>
    let mid := (lo + hi) / 2
    if dbLinear mid ≤ m then dbSearch m n mid hi else dbSearch m n lo mid

/-- The fade average of samples in 0.05 dB: the mean of their linear power, in 0.01 dB rounded down (R274). The rounding is a
DESIGN CHOICE, assumption 31. -/
def fadeAverage (l : List Int) : Int :=
  if l = [] then 0 else dbSearch ((l.map fun x => dbLinear (5 * x)).sum / l.length) 18 (-100000) 100000

/-- Twice the median of a list. -/
def median2 (l : List Int) : Int :=
  let l := sortBy (fun a b => decide (a < b)) l
  let n := l.length
  if n = 0 then 0 else (l.getD (n / 2) 0) + (l.getD ((n - 1) / 2) 0)

/-- Fade of a cartridge (R275, R276), in 0.01 dB. -/
def State.cartFade (s : State) (k : Fin 8) : Int :=
  let l := ((s.fedBy k).filter fun p => !(s.feed p).pathFault).map fun p => (s.feed p).average
  if l = [] then (s.cart k).monitor else l.sum / l.length

/-- warn and swap of LAS_FADE_CFG in 0.01 dB, within their limits. -/
def State.fadeWarn (s : State) : Int := 10 * (max 5 (min 25 (s.regF Reg.LAS_FADE_CFG 7 0)) : Nat)
def State.fadeSwap (s : State) : Int :=
  let w : Nat := max 5 (min 25 (s.regF Reg.LAS_FADE_CFG 7 0))
  let v : Nat := max 10 (min 28 (s.regF Reg.LAS_FADE_CFG 15 8))
  10 * ((if v ≤ w then w + 5 else v : Nat) : Int)

def State.logLas (s : State) (f : FaultCode) (detail : Nat) : State := s.logFault f blkLAS detail

/-- A planned swap of a quadrant to a cartridge begins its preparation (R273, R278). -/
def State.prepareSwap (s : State) (q : Fin 4) (target : Bool) : State :=
  let k := cartOf q target
  let s := s.setQuad q { s.quad q with swap := .prepare, target := target, plane := none, gapEnd := none }
  if s.fit k then s else s.setCart k { s.cart k with warming := true }

/-- The swap that a fade, a temperature or a write asks for starts, or its absence is logged once (R277). -/
def State.wantSwap (s : State) (k : Fin 8) (once : Bool) : State :=
  let q := quadOfCart k
  let j := cartOf q (!cartOdd k)
  if (s.quad q).swap ≠ .idle then s
  else if s.fit j ∨ s.canWarm j then s.prepareSwap q (!cartOdd k)
  else if once && (s.cart k).noSwap then s
  else
    (s.setCart k { s.cart k with noSwap := true }).logLas
      (if (s.unit (.cartridge j)).st = .on then Flt.LAS_SPARE_UNFIT else Flt.LAS_NO_SPARE) k.val

/-- A fade at or below −swap, or a temperature treated as one (R277). -/
def State.fadeAtSwap (s : State) (k : Fin 8) : State :=
  let q := quadOfCart k
  if s.regF (Reg.LAS_QUADq_CTL + 16 * q.val) 30 30 = 1 then s.wantSwap k true
  else if (s.quad q).swap ≠ .idle ∨ (s.cart k).noSwap then s
  else
    let j := cartOf q (!cartOdd k)
    (s.setCart k { s.cart k with noSwap := true }).logLas
      (if (s.unit (.cartridge j)).st = .on then Flt.LAS_SPARE_UNFIT else Flt.LAS_NO_SPARE) k.val

/-- The switch of a plane commanded to a source. -/
def State.command (s : State) (p : Fin 16) (to_ : Bool) : State :=
  s.setFeed p { s.feed p with moving := some to_, waits := false }

/-- A plane under way in an aborted swap goes back to the old cartridge (R281): switched back where its switch has moved or is
moving, and re-enabled once it is OFF; one that is already STARTING under the spare is withdrawn again first. -/
def State.switchBack (s : State) (spare : Bool) (p : Fin 16) : State :=
  let f := s.feed p
  if (s.unit (.plane p)).st = .starting then s.schedule (.planeOut p)
  else
    let s := if f.moving.isSome ∨ f.src = spare then s.command p (!spare) else s
    s.setFeed p { s.feed p with again := true }

/-- The planes under way in a swap: the one being moved, or, moved together, all that have not come back under the spare. -/
def State.underWay (s : State) (q : Fin 4) : List (Fin 16) :=
  let v := s.quad q
  if v.swap = .allAtOnce then (quadPlanes q).filter fun p => (s.feed p).src != v.target || (s.unit (.plane p)).st != .on
  else v.plane.toList

/-- A planned swap aborted (R281): the spare is UNFIT and every plane goes back to the old cartridge, one at a time. -/
def State.abortSwap (s : State) (q : Fin 4) : State :=
  let v := s.quad q
  let k := cartOf q v.target
  let s := s.setCart k { s.cart k with health := if (s.cart k).health = .failed then .failed else .unfit }
  let back := (s.underWay q).filter fun p => v.swap != .allAtOnce || (s.unit (.plane p)).st != .starting
  let s := s.setQuad q { v with swap := .reverting, target := !v.target, gapEnd := none, together := false }
  (back.foldl (fun s p => s.switchBack v.target p) s).logLas Flt.LAS_SWAP_ABORT k.val

/-- The remaining planes of a swap enter STOPPING at one boundary, to be moved and re-enabled together (R282). -/
def State.swapAll (s : State) (q : Fin 4) : State :=
  let v := s.quad q
  let rest := (quadPlanes q).filter fun p => (s.feed p).src != v.target && v.plane != some p
  let s := s.setQuad q { v with swap := .allAtOnce, plane := none, gapEnd := none, together := true }
  rest.foldl (fun s p => s.schedule (.planeOut p)) s

/-- Sudden loss of a cartridge (R283 to R285): it goes to OFF with health FAILED; its planes go to the other cartridge of the
quadrant if that is lit, wait for it if it can be brought to HOT, and else stay OFF. A spare lost while a swap moves planes to it
leaves the swap REVERTING to the old cartridge, and an old cartridge lost ends the swap (R283). -/
def State.suddenLoss (s : State) (k : Fin 8) : State :=
  let q := quadOfCart k
  let j := cartOf q (!cartOdd k)
  let side := !cartOdd k
  let fed := s.fedBy k
  let swapping : Bool := (s.quad q).swap != .idle
  let spareLost := swapping && (s.quad q).target == cartOdd k
  let under := (s.underWay q).filter fun p => !fed.contains p
  let s := s.setCart k { s.cart k with health := .failed, warming := false, leave := false }
  let s := s.setUnit (.cartridge k) { s.unit (.cartridge k) with st := .off, rp := false, done := false, disable := false }
  let s := s.logLas Flt.LAS_CART_LOST k.val
  let s := { s with drg := { s.drg with tapDark := s.drg.tapDark ++ fed } }
  let fed := fed ++ under.filter fun p => (s.feed p).moving.isSome
  let s := under.foldl (fun (s : State) p => if s.isOn (.plane p) then s else s.setFeed p { s.feed p with again := true }) s
  let back := spareLost && s.lit j
  let s := if back then s.setQuad q { s.quad q with swap := .reverting, target := side, plane := none, gapEnd := none,
                                                    together := false }
    else if swapping then s.setQuad q { s.quad q with swap := .idle, plane := none, gapEnd := none, together := false } else s
  let s := if spareLost then s.logLas Flt.LAS_SWAP_ABORT k.val else s
  if s.fit j ∨ (s.lit j ∧ swapping) then
    fed.foldl (fun s p => (s.command p side).setFeed p { (s.command p side).feed p with again := true }) s
  else if s.canWarm j then
    fed.foldl (fun s p => s.setFeed p { s.feed p with waits := true, moving := none, again := true })
      (s.setCart j { s.cart j with warming := true })
  else if fed = [] then s else s.logLas Flt.LAS_NO_SPARE k.val

/-- The first row of R277: health is FADING at or below −warn, GOOD again above −(warn − 0.3) dB. -/
def State.noteFade (s : State) (k : Fin 8) : State :=
  let f := s.cartFade k
  let c := s.cart k
  if f ≤ -s.fadeWarn ∧ c.health = .good then (s.setCart k { c with health := .fading }).logLas Flt.LAS_FADE_WARN k.val
  else if -(s.fadeWarn - 30) < f ∧ c.health = .fading then s.setCart k { c with health := .good }
  else s

/-- A fade at or below −3.0 dB is logged once (R277). -/
def State.noteCrit (s : State) (k : Fin 8) : State :=
  if s.cartFade k ≤ -300 then
    (if (s.cart k).crit then s else (s.setCart k { s.cart k with crit := true }).logLas Flt.LAS_FADE_CRIT k.val)
  else s.setCart k { s.cart k with crit := false }

/-- The conditions of R277 judged for the cartridge that feeds a plane. -/
def State.judgeFade (s : State) (k : Fin 8) : State :=
  let f := s.cartFade k
  let s := s.noteFade k
  let s := if f ≤ -s.fadeSwap then s.fadeAtSwap k else s.setCart k { s.cart k with noSwap := false }
  let s := s.noteCrit k
  let v := s.quad (quadOfCart k)
  if f ≤ -300 ∧ (v.swap = .moving ∨ v.swap = .gap) ∧ v.target ≠ cartOdd k then s.swapAll (quadOfCart k) else s

/-- The fade of a HOT SPARE, read from its monitor (R275), judged by the rows of R277 that ask for no source. -/
def State.judgeSpare (s : State) (k : Fin 8) : State :=
  if s.cartRole k = 2 ∧ (s.cart k).cond = 0 then (s.noteFade k).noteCrit k else s

/-- The path fault of a plane (R276): its average differs by more than 0.5 dB from the median of the others of its source. -/
def State.judgePath (s : State) (p : Fin 16) (k : Fin 8) : State :=
  let others := ((s.fedBy k).filter (· != p)).map fun p => (s.feed p).average
  let f := s.feed p
  let bad := others ≠ [] ∧ 100 < (2 * f.average - median2 others).natAbs
  let s := if bad ∧ !f.pathFault then s.logLas Flt.LAS_PLANE_PATH p.val else s
  let s := s.setFeed p { s.feed p with pathFault := decide bad }
  if bad ∧ f.average ≤ -300 ∧ s.isOn (.plane p) then s.schedule (.planeOut p) else s

/-- The calibrated nominal of a cartridge and a plane, in 0.01 dB (R275). -/
def State.nominal (s : State) (k : Fin 8) (p : Fin 16) : Option Int :=
  (s.las.nominals.find? fun e => e.1 == ((s.cart k).serial, p)).map (·.2)

/-- A tap reading becomes the nominal of a pair that has none (R275). -/
def State.recordNominal (s : State) (k : Fin 8) (p : Fin 16) (reading : Int) : State :=
  if (s.nominal k p).isSome then s
  else { s with las := { s.las with nominals := s.las.nominals ++ [(((s.cart k).serial, p), reading)] } }

/-- A tap reading as a sample: 0.05 dB against the nominal of the pair, to the nearest. The rounding is a DESIGN CHOICE, assumption
31. -/
def State.tapSample (s : State) (k : Fin 8) (p : Fin 16) (reading : Int) : Int :=
  roundEven (reading - (s.nominal k p).getD reading) 5

/-- The cartridge of a quadrant that does not feed a plane. -/
def Feed.otherCart (f : Feed) (q : Fin 4) : Fin 8 := cartOf q (!f.src)

/-- The internal monitors of a quadrant's two cartridges read. -/
def State.readMonitors (s : State) (q : Fin 4) (even odd : Int) : State :=
  let s := s.setCart (cartOf q false) { s.cart (cartOf q false) with monitor := even }
  s.setCart (cartOf q true) { s.cart (cartOf q true) with monitor := odd }

/-- A plane's sample kept: the 1,024 last make its average. -/
def State.keepSample (s : State) (p : Fin 16) (sample : Int) : State :=
  let f := s.feed p
  let l := (sample :: f.samples).take 1024
  s.setFeed p { f with samples := l, average := fadeAverage l }

/-- A sample of a plane fed by a cartridge judged: a sudden loss, a fade, or a swap that darkens its plane. -/
def State.judgeSample (s : State) (p : Fin 16) (k : Fin 8) (f : Feed) (sample : Int) : State :=
  let q := quadOfPlane p
  if (s.unit (.cartridge k)).st ≠ .on then s
  else if sample ≤ -120 then
    (if f.moving.isSome ∨ f.waits then s else s.suddenLoss k)
  else
    let s := (s.judgePath p k).judgeFade k
    let v := s.quad q
    if (v.swap = .moving ∨ v.swap = .gap ∨ v.swap = .allAtOnce) ∧ f.src = v.target ∧ (s.feed p).average ≤ -100 then s.abortSwap q
    else s

/-- TAP_SAMPLE (R274 to R277, R281): the tap of a plane reads `reading` (0.01 dB), and the internal monitors of the quadrant's two
cartridges `even` and `odd` (0.01 dB against factory nominal). -/
def execTapSample (p : Fin 16) (reading : Int) (even : Int) (odd : Int) (s : State) : Host.Outcome State Fault Refusal :=
  let q := quadOfPlane p
  let k := cartOf q (s.feed p).src
  let s := s.readMonitors q even odd
  let s := if (s.unit (.cartridge k)).st = .on ∧ (s.feed p).moving = none then s.recordNominal k p reading else s
  let sample := s.tapSample k p reading
  let f := s.feed p
  .next (((s.keepSample p sample).judgeSpare (f.otherCart q)).judgeSample p k f sample)

/-! ### Planned swap (R278 to R283) -/

/-- A write of 1 to LAS_QUADq_CTL.swap (R278, R283). -/
def State.writeSwap (s : State) (q : Fin 4) : State :=
  let v := s.quad q
  if v.swap ≠ .idle then s.setQuad q { v with refused := true }
  else
    match [false, true].find? fun b => s.cartRole (cartOf q b) == 1 with
    | some b => s.wantSwap (cartOf q b) false
    | none => s

def execPlannedSwap (src : Source) (q : Fin 4) (s : State) : Host.Outcome State Fault Refusal :=
  .next (if s.mayWrite src (Reg.LAS_QUADq_CTL + 16 * q.val) then s.writeSwap q else s)

/-- The gap of LAS_SWAP_GAP within its limits. -/
def State.swapGap (s : State) : Nat := max 16 (min 4096 (s.regF Reg.LAS_SWAP_GAP 15 0))

/-- A swap that has moved its last plane ends: the old cartridge stops, UNFIT; after an abort the old one goes on. LAS_SWAP_DONE
carries the cartridge that has become ACTIVE. DESIGN CHOICE, assumption 31. -/
def State.endSwap (s : State) (q : Fin 4) : State :=
  let v := s.quad q
  let k := cartOf q (!v.target)
  let s := s.setQuad q { v with swap := .idle, plane := none, gapEnd := none, together := false }
  if v.swap = .reverting then s
  else
    let s := s.setCart k { s.cart k with health := .unfit }
    (s.scheduleNext (.unitDisable (.cartridge k))).logLas Flt.LAS_SWAP_DONE (cartOf q v.target).val

/-- The planes a swap has still to move; one left without light from either cartridge is not among them (R281). -/
def State.toMove (s : State) (q : Fin 4) : List (Fin 16) :=
  (quadPlanes q).filter fun p => (s.feed p).src != (s.quad q).target && !(s.unit (.plane p)).failed

/-- The next plane of a swap is withdrawn at the coming boundary; disabled already, it has its switch moved while it is OFF (R278,
R283). -/
def State.nextPlane (s : State) (q : Fin 4) : State :=
  let v := s.quad q
  match s.toMove q with
  | [] => s.endSwap q
  | p :: _ => (s.setQuad q { v with plane := some p, gapEnd := none, swap := if v.swap = .gap then .moving else v.swap }).scheduleNext
      (.planeOut p)

/-- A plane is through with a swap: it is ON under its source, or is not to be re-enabled. -/
def State.settled (s : State) (p r : Fin 16) : Bool :=
  let u := s.unit (.plane r)
  (s.feed r).moving.isNone && (r == p || u.st == .on || !u.enable || u.failed || (s.feed r).pathFault)

/-- A plane of a swap has moved, and is not to be withdrawn again (R281): the next follows after the gap (R278), or, moved together, the swap ends with the last (R282). -/
def State.planeMoved (s : State) (p : Fin 16) : State :=
  let q := quadOfPlane p
  let v := s.quad q
  if s.due.any fun e => e.2 == .planeOut p then s
  else if v.swap = .allAtOnce then
    (if (s.toMove q).isEmpty && (quadPlanes q).all fun r => s.settled p r then s.endSwap q else s)
  else if v.plane = some p ∧ (v.swap = .moving ∨ v.swap = .reverting) then
    (if (s.toMove q).isEmpty then s.endSwap q
     else s.setQuad q { v with plane := none, gapEnd := some (s.clk.bnd + s.swapGap),
                               swap := if v.swap = .moving then .gap else v.swap })
  else s

/-- A plane whose tap has confirmed its source returns once it is OFF; one that software has disabled does not (R283). -/
def State.returnPlane (s : State) (p : Fin 16) : State := s.setFeed p { s.feed p with again := true }

/-- What confirms a source at a plane's tap (R278 step 3, R284): within 0.5 dB of the pair's nominal, or, with none, within 1.0 dB of
what the cartridge's monitor predicts. A plane that goes back to the old cartridge of an aborted swap is not held to it (R281).
DEDUCED, assumption 150. -/
def State.tapConfirms (s : State) (k : Fin 8) (p : Fin 16) (reading predicted : Int) : Bool :=
  (s.quad (quadOfPlane p)).swap == .reverting || match s.nominal k p with
    | some n => decide ((reading - n).natAbs ≤ 50)
    | none => decide ((reading - predicted).natAbs ≤ 100)

/-- The switch of a plane has settled with the light of `src` at its tap. -/
def State.settleFeed (s : State) (p : Fin 16) (src : Bool) : State :=
  s.setFeed p { s.feed p with src := src, moving := none, backed := false, samples := [], average := 0, pathFault := false,
                              again := false }

/-- FEED_SWITCH_SETTLED (R278, R281, R284): 8 µs after a command the tap of a plane sees the light of `source`: `tap` is what it
reads and what the monitor of the cartridge it was switched to predicts (0.01 dB). A switch that has not moved is commanded
back; the plane then returns under the light it has, or stays OFF without any. -/
def execFeedSwitchSettled (p : Fin 16) (source : Option Bool) (tap : Int × Int) (cyc : Nat) (s : State) :
    Host.Outcome State Fault Refusal :=
  let reading := tap.1
  let predicted := tap.2
  let s := s.advance cyc
  let f := s.feed p
  let q := quadOfPlane p
  let swapping := p ∈ s.underWay q ∧ ((s.quad q).swap = .moving ∨ (s.quad q).swap = .allAtOnce)
  .next (match f.moving with
    | none => s
    | some t =>
      if f.backed then
        match source with
        | some o => (s.settleFeed p o).returnPlane p
        | none =>
          let s := (s.setFeed p { f with moving := none, backed := false, again := false }).setUnit (.plane p)
            { s.unit (.plane p) with failed := true }
          s.planeMoved p
      else if source = some t then
        let k := cartOf q t
        if s.tapConfirms k p reading predicted then ((s.settleFeed p t).recordNominal k p reading).returnPlane p
        else if swapping then (s.settleFeed p t).abortSwap q
        else s.settleFeed p t
      else
        let s := s.logLas Flt.LAS_FEED_FAIL p.val
        let s := if swapping then s.abortSwap q else s
        s.setFeed p { s.feed p with moving := some (!t), backed := true })

/-- SWAP_GAP_EXPIRY (R278): in the stride before the boundary at which the gap ends, the next plane is told to stop there. -/
def execSwapGapExpiry (q : Fin 4) (s : State) : Host.Outcome State Fault Refusal :=
  .next (match (s.quad q).gapEnd with
    | none => s
    | some b => if s.clk.bnd + 1 < b then s else s.nextPlane q)

/-! ### Cartridges -/

/-- CARTRIDGE_SUDDEN_LOSS (R277, R284): loss of comb lock, laser failure or shutdown temperature. -/
def execCartridgeSuddenLoss (k : Fin 8) (s : State) : Host.Outcome State Fault Refusal :=
  .next (if (s.unit (.cartridge k)).st = .on then s.suddenLoss k else s)

/-- CARTRIDGE_REMOVED (R286). -/
def execCartridgeRemoved (k : Fin 8) (s : State) : Host.Outcome State Fault Refusal :=
  .next (if !(s.cart k).present then s
    else
      let role := s.cartRole k
      let s := s.logLas Flt.LAS_CART_PULLED k.val
      let s := if role = 1 then s.suddenLoss k
        else if role = 2 then
          (if (s.quad (quadOfCart k)).swap ≠ .idle ∧ (s.quad (quadOfCart k)).target = cartOdd k then
            s.abortSwap (quadOfCart k) else s).logLas Flt.LAS_NO_SPARE k.val
        else s
      (s.setCart k { s.cart k with present := false, serial := 0, warming := false }).setUnit (.cartridge k)
        { s.unit (.cartridge k) with st := .off, rp := false, done := false, disable := false, cancel := false })

/-- CARTRIDGE_INSERTED (R287). -/
def execCartridgeInserted (k : Fin 8) (serial : Word) (s : State) : Host.Outcome State Fault Refusal :=
  .next (if (s.cart k).present then s
    else (s.setCart k { Cartridge.reset with serial := serial }).setUnit (.cartridge k)
      { s.unit (.cartridge k) with st := .off, failed := false, rp := false, done := false })

/-- A disable of a cartridge (R288). -/
def State.cartDisable (s : State) (k : Fin 8) (force : Bool) : State :=
  let q := quadOfCart k
  let j := cartOf q (!cartOdd k)
  if s.cartRole k ≠ 1 then s.requestDisable (.cartridge k)
  else if s.fit j then
    let s := s.setUnit (.cartridge k) { s.unit (.cartridge k) with enable := false }
    if (s.quad q).swap = .idle then s.prepareSwap q (!cartOdd k) else s
  else if force then
    let s := (s.setCart k { s.cart k with leave := true }).setUnit (.cartridge k)
      { s.unit (.cartridge k) with enable := false }
    let on := (s.fedBy k).filter fun p => (s.unit (.plane p)).st != .off
    if on = [] then s.schedule (.unitDisable (.cartridge k)) else on.foldl (fun s p => s.schedule (.planeOut p)) s
  else s.setCart k { s.cart k with refused := true }

/-- A write of LAS_CARTk_CTL. -/
def State.writeCartCtl (s : State) (k : Fin 8) (val : Word) : State :=
  let s := s.setReg (Reg.LAS_CARTk_CTL + 16 * k.val) (val &&& 2)
  let e := (s.unit (.cartridge k)).enable
  if val.bit 0 then s.requestEnable (.cartridge k) else if e then s.cartDisable k (val.bit 1) else s

def execCartridgeDisable (src : Source) (k : Fin 8) (force : Bool) (cyc : Nat) (s : State) :
    Host.Outcome State Fault Refusal :=
  let s := s.advance cyc
  .next (if s.mayWrite src (Reg.LAS_CARTk_CTL + 16 * k.val) then
      s.writeCartCtl k (BitVec.ofNat 32 (2 * bitOf force)) else s)

/-- A planned swap whose spare turns out not to be fit does not start (R273, R277). -/
def State.dropPrepare (s : State) (q : Fin 4) : State :=
  let k := cartOf q (!(s.quad q).target)
  let s := s.setQuad q { s.quad q with swap := .idle }
  (s.setCart k { s.cart k with noSwap := true }).logLas Flt.LAS_SPARE_UNFIT k.val

/-- SPARE_BECOMES_FIT (R272, R273, R285): a spare brought to HOT, its monitor at `monitor` (0.01 dB). -/
def execSpareBecomesFit (k : Fin 8) (monitor : Int) (s : State) : Host.Outcome State Fault Refusal :=
  let c := s.cart k
  let q := quadOfCart k
  .next (if (s.unit (.cartridge k)).st ≠ .on ∨ !c.warming then s
    else
      let s := s.setCart k { c with cond := 0, warming := false, monitor := monitor }
      if s.fit k then (quadPlanes q).foldl (fun s p => if (s.feed p).waits then s.command p (cartOdd k) else s) s
      else if (s.quad q).swap = .prepare ∧ (s.quad q).target = cartOdd k then s.dropPrepare q
      else s)

/-- A cartridge reaches ON (R287): SPARE in its quadrant's mode, or ACTIVE where the quadrant has none. -/
def State.cartOn (s : State) (k : Fin 8) : State :=
  let q := quadOfCart k
  let j := cartOf q (!cartOdd k)
  let mode := s.liveF (Reg.LAS_QUADq_CTL + 16 * q.val) 29 28
  let active := s.cartRole j = 1
  let s := s.setCart k { s.cart k with health := .good, cond := if active then mode % 3 else 0, leave := false }
  if active then s
  else (quadPlanes q).foldl (fun s p =>
    if (s.feed p).src = cartOdd k then s.setFeed p { s.feed p with waits := false, again := true }
    else (s.command p (cartOdd k)).setFeed p { (s.command p (cartOdd k)).feed p with again := true })
    (s.setQuad q { s.quad q with together := true })

/-- A plane reaches OFF: one of a forced cartridge waits for a source, and the cartridge stops once its last plane is OFF (R288). -/
def State.laserPlaneOff (s : State) (p : Fin 16) : State :=
  let k := cartOf (quadOfPlane p) (s.feed p).src
  let s := if (s.cart k).leave then s.setFeed p { s.feed p with waits := true, again := true } else s
  if (s.cart k).leave ∧ (s.fedBy k).all fun r => (s.unit (.plane r)).st == .off then
    s.scheduleNext (.unitDisable (.cartridge k))
  else s

/-- The switches of a swap's planes are commanded once the planes are OFF: that of the plane under way, or, moved together, all of
them at one time (R278, R282). -/
def State.commandOff (s : State) (q : Fin 4) : State :=
  let v := s.quad q
  let off (p : Fin 16) := (s.unit (.plane p)).st == .off && (s.feed p).moving.isNone
  let go := if v.swap = .allAtOnce then (if (s.toMove q).all off then s.toMove q else [])
    else if v.swap = .moving ∨ v.swap = .reverting then (s.toMove q).filter fun p => v.plane == some p && off p
    else []
  go.foldl (fun s p => s.command p v.target) s

/-- A SPARE follows its quadrant's mode (R272); while a swap or a plane has need of it, it is not taken below HOT. -/
def State.followMode (s : State) (k : Fin 8) : State :=
  let c := s.cart k
  let q := quadOfCart k
  let mode := s.liveF (Reg.LAS_QUADq_CTL + 16 * q.val) 29 28 % 3
  let needed := (s.quad q).swap != .idle || (quadPlanes q).any fun p => (s.feed p).waits || (s.feed p).moving.isSome
  if s.cartRole k ≠ 2 then s
  else if mode = 0 then (if c.cond = 0 ∨ c.warming then s else s.setCart k { c with warming := true })
  else if needed then s
  else if c.cond = mode ∧ !c.warming then s
  else s.setCart k { c with cond := mode, warming := false }

/-- Planes that wait for a source take the light of the other cartridge of the quadrant once it is fit (R285, R288). -/
def State.takeLight (s : State) (p : Fin 16) : State :=
  let f := s.feed p
  if f.waits && f.moving.isNone && s.fit (cartOf (quadOfPlane p) (!f.src)) then s.command p (!f.src) else s

/-- The swaps at a boundary: one under way goes on; else that of the deepest fade among those whose spare is fit starts (R280). -/
def State.swapBoundary (s : State) : State :=
  match (allFin 4).filter fun q => (s.quad q).swap != .idle && (s.quad q).swap != .prepare with
  | q :: _ =>
    let v := s.quad q
    let quiet := (quadPlanes q).all fun p => !(s.feed p).again
    if v.plane = none ∧ v.gapEnd = none ∧ quiet ∧ (v.swap = .moving ∨ v.swap = .reverting) then s.nextPlane q else s
  | [] =>
    let ready := (allFin 4).filter fun q => (s.quad q).swap == .prepare && s.fit (cartOf q (s.quad q).target)
    let fade (q : Fin 4) := s.cartFade (cartOf q (!(s.quad q).target))
    match sortBy (fun a b => decide (fade a < fade b)) ready with
    | [] => s
    | q :: _ =>
      ((s.setQuad q { s.quad q with swap := .moving }).logLas Flt.LAS_SWAP_START (cartOf q (s.quad q).target).val).nextPlane q

/-- A cartridge whose start ends after the others' at bring-up: C(2q) becomes ACTIVE, and C(2q+1) only where C(2q) is not ON
(R270). -/
def State.cartStarted (s : State) (k : Fin 8) : State :=
  let q := quadOfCart k
  if cartOdd k && s.isOn (.cartridge (cartOf q false)) then s
  else (quadPlanes q).foldl (fun s p =>
    let s := s.setFeed p { s.feed p with src := cartOdd k, shown := cartOdd k, samples := [], average := 0 }
    let u := s.unit (.plane p)
    if u.st = .off ∧ u.enable ∧ !u.failed then s.setUnit (.plane p) { u with st := .on } else s) s

end Sys2Proof.Machine
end

