-- ==== Sys2Proof/Machine/Bringup.lean ====
section
/-! DEFINITION. The module start, yield and core firmware (R422 to R445). -/

namespace Sys2Proof.Machine

/-! ### Yield and selection (R431 to R437) -/

/-- Counts of GRM_YIELD_STAT raised: fuse-bad, pessimistic, field-fail. -/
def State.countYield (s : State) (cls inst a b c : Nat) : State :=
  let k := cls * 256 + inst
  let (x, y, z) := s.groom.yieldCnt.getD k (0, 0, 0)
  { s with groom := { s.groom with yieldCnt := s.groom.yieldCnt.put k (x + a, y + b, z + c) } }

/-- The union rule for one unit (R432): class, instance, identifier, its entry of the field-fail list if it may have one, whether
the fuse map marks it, and the code of the test it fails. -/
def State.unionRule (s : State) (cls inst ident : Nat) (entry : Option Nat) (fuse : Bool) (code : Option Nat) : State :=
  let s := if fuse then s.countYield cls inst 1 0 0 else s
  match fuse, code with
  | true, none =>
    (s.logFault Flt.FUSE_PESSIMISTIC blkGRM (putBits 31 29 cls + putBits 28 8 ident)).countYield cls inst 0 1 0
  | false, some n =>
    let s := match entry with
      | some e => { s with groom := { s.groom with
          fieldFail := if e ∈ s.groom.fieldFail then s.groom.fieldFail else s.groom.fieldFail ++ [e] } }
      | none => s
    (s.logFieldFail cls ident n).countYield cls inst 0 0 1
  | _, _ => s

/-- A core is good: neither the fuse map nor the field-fail list, which every failed test enters, marks it (R432, R436). -/
def State.goodCore (s : State) (c : CoreId) : Bool :=
  !(s.groom.fuseBad.contains c.gid) && !(s.groom.fieldFail.contains c.gid)

def State.selectedIn (s : State) (r : Fin 8) (east : Bool) : Nat :=
  ((fieldCores r east).filter fun c => (s.core c).selected).length

/-- Step 2 of R437 over the spares that `ok` admits. -/
def State.promote (s : State) (r : Fin 8) (ok : State → CoreId → Bool) : Nat → State
  | 0 => s
  | n + 1 =>
    let w := s.selectedIn r false
    let e := s.selectedIn r true
    if 192 ≤ w + e then s
    else
      let pick (east : Bool) := (fieldCores r east).find? fun c => (s.core c).spare && ok s c
      let first := decide (e < w)
      let found := match pick first with
        | some c => some c
        | none => pick !first
      match found with
      | none => s
      | some c =>
        let s := s.setCore c { s.core c with selected := true, spare := false }
        (s.setUnit (.core c) { s.unit (.core c) with barred := false, enable := true }).promote r ok n

/-- Core selection on a die (R436, R437). -/
def State.selectDie (s : State) (r : Fin 8) : State :=
  let s := (dieCores r).foldl (fun s c =>
    let good := s.goodCore c
    let spare := s.groom.fuseSpares.contains c.idx.val
    let s := s.setCore c { s.core c with selected := good && !spare, spare := good && spare, owes := none, subst := none }
    s.setUnit (.core c) { s.unit (.core c) with barred := !(good && !spare), failed := false, enable := good && !spare }) s
  s.promote r (fun _ _ => true) 16

/-- A spare that may stand in once firmware is loaded (R444): it is LOADED. -/
def State.loadedSpare (s : State) (c : CoreId) : Bool := (s.core c).load == .loaded && !(s.unit (.core c)).failed

/-- A selected core fails during a start or a restart: it is charged against the spares (R432, R444). A spare at rest that is
promoted starts at the next boundary. -/
def State.replaceCore (s : State) (c : CoreId) (code : Nat) (ok : State → CoreId → Bool) : State :=
  let was := (s.core c).selected
  let s := s.listCore c code
  if !was then s
  else
    let s := s.promote c.rkn ok 16
    (dieCores c.rkn).foldl (fun s k =>
      if (s.core k).selected && (s.unit (.core k)).enable && (s.unit (.core k)).st == .off && !(s.unit (.core k)).failed then
        s.scheduleNext (.unitEnable (.core k)) else s) s

/-! ### Secure boot (R427 to R430) -/

/-- A slot verifies: its rollback index is at least the counter in OTP too. -/
def State.slotVerifies (s : State) (x : SlotReport) : Bool := x.good && decide (s.groom.rollback ≤ x.index.val)

/-- The slot booted: slot B only where it has the higher version (R427). -/
def State.bootSlot (s : State) (r : StartReport) : Option (Bool × SlotReport) :=
  match s.slotVerifies r.slotA, s.slotVerifies r.slotB with
  | true, true => if r.slotA.version < r.slotB.version then some (true, r.slotB) else some (false, r.slotA)
  | true, false => some (false, r.slotA)
  | false, true => some (true, r.slotB)
  | false, false => none

/-- The debug level at a module start (R494). -/
def defaultLevel (lifecycle : Nat) : Nat := if lifecycle = 0 then 2 else if lifecycle = 2 then 0 else 1

/-- What lasts from one module start to the next: OTP and fuses, the calibration area, the event-log store and the deferred records,
sensors and supplies. The key store is erased (R498). -/
def State.fresh (s : State) : State :=
  let g := s.groom
  { State.reset with
      pending := s.pending, out := s.out, freeCount := s.freeCount, nextId := s.nextId
      regs := if s.pci.perst then [(Reg.PCI_LINK_STAT, 0x80080000)] else []
      pci := { Pci.reset with perst := s.pci.perst }
      snap := { State.reset.snap with trigIn := s.snap.trigIn }
      groom := { Groom.reset with
          rollback := g.rollback, fuseBad := g.fuseBad, fuseSpares := g.fuseSpares, fuseSliceBad := g.fuseSliceBad,
          fuseRings := g.fuseRings, fuseLanes := g.fuseLanes, fieldFail := if g.clearList then [] else g.fieldFail,
          bootCfg := g.bootCfg, boot := g.boot }
      flt := { s.flt with flight := [] }
      therm := { Thermal.reset with
          sensors := s.therm.sensors.mapVals fun _ (x : Sensor) => { Sensor.reset with temp := x.temp }
          hold := s.therm.hold, trip := s.therm.trip }
      sec := { Security.reset with
          lifecycle := s.sec.otp, otp := s.sec.otp, rootHash := s.sec.rootHash, debugHash := s.sec.debugHash,
          deviceKey := s.sec.deviceKey, serial := s.sec.serial, level := defaultLevel s.sec.otp }
      las := { Laser.reset with nominals := s.las.nominals }
      cal := { Cal.reset with trims := s.cal.trims, valid := s.cal.valid, copyFail := s.cal.copyFail }
      dram := { State.reset.dram with repaired := s.dram.repaired, spares := s.dram.spares }
      sup := s.sup }

/-- Warn threshold of a sensor class, in °C (R475). -/
def warnAt (cls : Nat) : Int :=
  if cls = 7 then 85 else if cls = 8 then 70 else if cls = 3 ∨ cls = 4 then 90 else 95

/-- Shutdown threshold of a class, in °C (R475). -/
def shutdownAt (cls : Nat) : Int := if cls = 8 then 85 else warnAt cls + 20

/-- Every sensor reads below its shutdown threshold less 10 °C (R480). -/
def State.cooled (s : State) : Bool := s.therm.sensors.all fun (k, v) => decide (v.temp < (shutdownAt (k / 4096) - 10) * 16)

/-- THERMTRIP_N is asserted, and not released by MOD_RESET_N over sensors that have cooled (R480). -/
def State.tripHolds (s : State) : Bool := s.therm.trip && !(s.sup.modReset && s.cooled)

/-- A sensor of codes 0 to 6 reads at or above its warn threshold (R481). -/
def State.startHeld (s : State) : Bool :=
  s.therm.hold && s.therm.sensors.any fun (k, x) => decide (k / 4096 ≤ 6 ∧ warnAt (k / 4096) * 16 ≤ x.temp)

/-! ### The tests of a start (R431 to R435) -/

def testCode (r : StartReport) (u : TestUnit) : Option Nat := (r.tests.find? fun t => t.1 == u).map (·.2.toNat)

/-- The code a listed unit fails with: 7 without a test, unless it is to be tested afresh (R440). -/
def State.listedCode (s : State) (entry : Nat) (tested : Option Nat) : Option Nat :=
  if s.groom.fieldFail.contains entry && !s.groom.bootCfg.bit 30 then some 7 else tested

/-- A listed unit that passes afresh leaves the list. -/
def State.unlist (s : State) (entry : Nat) (code : Option Nat) : State :=
  if code.isNone then { s with groom := { s.groom with fieldFail := s.groom.fieldFail.filter (· != entry) } } else s

/-- A core has ended its test, with the code it fails with, if any. -/
def State.coreTested (s : State) (c : CoreId) (tested : Option Nat) : State :=
  let code := s.listedCode c.gid tested
  (s.unlist c.gid code).unionRule 0 c.rkn.val c.gid (some c.gid) (s.groom.fuseBad.contains c.gid) code

/-- The cores of a start are tested. One that hangs in its test is waited for (R425). -/
def State.testCores (s : State) (r : StartReport) : State :=
  (allFin 8).foldl (fun s d => (dieCores d).foldl (fun s c =>
    if r.hung.contains (.core c) then { s with groom := { s.groom with waiting := s.groom.waiting ++ [.core c] } }
    else s.coreTested c (testCode r (.core c))) s) s

def State.testHalves (s : State) (r : StartReport) : State :=
  (allFin 8).foldl (fun s d => (dieCores d).foldl (fun s c => [false, true].foldl (fun s b =>
    let half := c.gid * 2 + bitOf b
    let code := s.listedCode (0x10000 + half) (testCode r (.half c b))
    let fuse := s.groom.fuseSliceBad.contains half
    let s := (s.unlist (0x10000 + half) code).unionRule 1 d.val half (some (0x10000 + half)) fuse code
    if (fuse || code.isSome) && !s.groom.sliceDown.contains c.gid then
      { s with groom := { s.groom with sliceDown := c.gid :: s.groom.sliceDown } } else s) s) s) s

/-- A bundle with more than four bad lanes at a start (R320). -/
def State.startBundle (s : State) (key : Nat) : State :=
  let r := key / 65536
  let cls := key % 65536 / 8192
  let bundle := key % 8192
  let s := { s with groom := { s.groom with bundleFail := s.groom.bundleFail ++ [key] } }
  let lost (s : State) : State :=
    if h : r < 8 then
      let u : UnitId := .reckoner ⟨r, h⟩
      s.setUnit u { s.unit u with failed := true }
    else s
  if cls < 2 then
    (if s.groom.fieldFail.contains (256 * r + bundle / 8) then s
     else s.unionRule 0 r (256 * r + bundle / 8) (some (256 * r + bundle / 8)) false (some 10))
  else if cls = 2 then
    let gid := 256 * r + bundle / 8
    let half := gid * 2 + bundle % 8 / 4
    let s := if s.groom.sliceDown.contains gid then s
      else { s with groom := { s.groom with sliceDown := gid :: s.groom.sliceDown } }
    if s.groom.fieldFail.contains (0x10000 + half) then s
    else s.unionRule 1 r half (some (0x10000 + half)) false (some 4)
  else if cls = 3 then s
  else if cls = 4 then
    if (List.range 16).all fun n => s.groom.bundleFail.contains (bundleKey r 4 n) then lost s else s
  else lost s

/-- A lane that fails its test at a start: it leaves its bundle's working map, and is recorded where the fuses do not mark it (R318). -/
def State.failLane (s : State) (d : Fin 8) (cls bundle lane : Nat) : State :=
  let key := bundleKey d.val cls bundle
  let l := s.groom.bundles.getD key []
  if bundleCount cls ≤ bundle ∨ lane ∈ l then s
  else
    let s := { s with groom := { s.groom with
        bundles := s.groom.bundles.put key (sortBy (fun a b => decide (a < b)) (lane :: l)) } }
    (s.logFault Flt.RKN_LANE_FIELD_FAIL (blkRKN d.val) (laneWord key lane)).countYield 2 d.val 0 0 1

/-- A bundle with more than four bad lanes at a Reckoner's restart (R320): the core of an owner bundle is disabled as FIELD_FAIL, and
another is selected for it (R432). -/
def State.restartBundle (s : State) (d : Fin 8) (cls bundle : Nat) : State :=
  match coreOf (256 * d.val + bundle / 8) with
  | some c =>
    if cls < 2 then
      let s := { s with groom := { s.groom with bundleFail := s.groom.bundleFail ++ [bundleKey d.val cls bundle] } }
      (if s.groom.fieldFail.contains c.gid then s
       else (s.setUnit (.core c) { s.unit (.core c) with st := .off, done := false, disable := false }).replaceCore c 10 fun _ _ => true)
    else s.bundleFails d cls bundle
  | none => s.bundleFails d cls bundle

/-- The lanes of a Reckoner that starts in service (R318): its working maps are those of the fuses and of this test; a bundle with more
than four bad lanes fails (R320). -/
def State.retestLanes (s : State) (d : Fin 8) (bad : List (Fin 6 × Fin 1664 × Fin 68)) : State :=
  let mine (k : Nat) : Bool := k / 65536 == d.val
  let s := { s with groom := { s.groom with
      swaps := s.groom.swaps.filter fun e => !mine e.1
      bundles := s.groom.fuseLanes.foldl (fun (t : Table (List Nat)) e => if mine e.1 then t.put e.1 e.2 else t)
        (s.groom.bundles.filter fun e => !mine e.1)
      bundleFail := s.groom.bundleFail.filter fun k => !mine k } }
  let s := bad.foldl (fun (s : State) e => s.failLane d e.1.val e.2.1.val e.2.2.val) s
  (s.groom.bundles.filter fun (p : Nat × List Nat) => mine p.1 && decide (4 < p.2.length)).foldl
    (fun (s : State) p => s.restartBundle d (p.1 % 65536 / 8192) (p.1 % 8192)) s

/-- A slice half that fails its march at a Reckoner's restart (R432, R433): the slice is disabled, and a half the fuses do not mark is
FIELD_FAIL and listed. -/
def State.failHalf (s : State) (d : Fin 8) (i : Fin 256) (dieB : Bool) : State :=
  let gid := 256 * d.val + i.val
  let half := gid * 2 + bitOf dieB
  if 208 ≤ i.val ∨ s.groom.fieldFail.contains (0x10000 + half) ∨ s.groom.fuseSliceBad.contains half then s
  else
    let s := { s with groom := { s.groom with
        sliceDown := if gid ∈ s.groom.sliceDown then s.groom.sliceDown else gid :: s.groom.sliceDown } }
    s.unionRule 1 d.val half (some (0x10000 + half)) false (some 3)

/-- Cores and, where they have been tested, slice halves that the fuse map marks bad have passed the test of a Reckoner's restart (R432,
R448). -/
def State.fusePasses (s : State) (d : Fin 8) (halves : Option (List (Fin 256 × Bool))) : State :=
  let listed (e : Nat) : Bool := s.groom.fieldFail.contains e && !s.groom.bootCfg.bit 30
  let cores := s.groom.fuseBad.filter fun g => g / 256 == d.val && !listed g && match coreOf g with
    | some c => !(s.unit (.core c)).failed
    | none => false
  let halves := match halves with
    | none => []
    | some l => s.groom.fuseSliceBad.filter fun h => h / 512 == d.val && !listed (0x10000 + h)
        && !l.any fun x => 512 * d.val + 2 * x.1.val + bitOf x.2 == h
  let s := cores.foldl (fun (s : State) g => s.logFault Flt.FUSE_PESSIMISTIC blkGRM (putBits 28 8 g)) s
  halves.foldl (fun (s : State) h => s.logFault Flt.FUSE_PESSIMISTIC blkGRM (putBits 31 29 1 + putBits 28 8 h)) s

/-- The lanes of a start (R318): fuse map and test together, working maps rebuilt. -/
def State.testLanes (s : State) (r : StartReport) : State :=
  let s := s.groom.fuseLanes.foldl (fun (s : State) (p : Nat × List Nat) => s.countYield 2 (p.1 / 65536) p.2.length 0 0)
    { s with groom := { s.groom with bundles := s.groom.fuseLanes } }
  let s := r.tests.foldl (fun (s : State) (t : TestUnit × BitVec 8) => match t.1 with
    | .lane d cls bundle lane => s.failLane d cls.val bundle.val lane.val
    | _ => s) s
  (s.groom.bundles.filter fun (p : Nat × List Nat) => decide (4 < p.2.length)).foldl (fun (s : State) p => s.startBundle p.1) s

/-- The rings of a start: a bad one is FAILED from the start (R432). -/
def State.testRings (s : State) (r : StartReport) : State :=
  let bad := s.groom.fuseRings ++ r.tests.filterMap fun (t : TestUnit × BitVec 8) => match t.1 with
    | .ring x => some x.number
    | _ => none
  (distinct bad).foldl (fun (s : State) n =>
    let id : RingId := ⟨slotOfNumber n, n % 2 == 1⟩
    let s := s.unionRule 3 0 n none (s.groom.fuseRings.contains n) (testCode r (.ring id))
    s.setRing id { s.ring id with lock := .failed }) s

/-! ### The start (R422 to R426) -/

/-- A unit that its step of the start brings to ON, unless it fails or hangs. -/
def State.startUnit (r : StartReport) (s : State) (u : UnitId) : State :=
  let v := { UnitRec.reset u with enable := true, failed := (s.unit u).failed }
  if v.failed then s.setUnit u { v with st := .off }
  else if r.failed.contains u then s.setUnit u { v with st := .off, failed := true }
  else if r.hung.contains u then
    let s := s.setUnit u { v with st := .starting }
    { s with groom := { s.groom with waiting := s.groom.waiting ++ [u] } }
  else s.setUnit u { v with st := .on }

/-- The lanes of a Bridle that reaches ON begin training (R408). -/
def State.trainLanes (s : State) (b : Fin 4) : State :=
  (allFin 32).foldl (fun s l =>
    let u := s.unit (.lane b l)
    if u.enable && !u.failed && (strandOf l).isSome then
      (s.setUnit (.lane b l) { u with st := .starting }).enterTraining b l { s.lane b l with trainFail := 0 }
    else s) s

/-- The cores of a die at the end of a start (R437, R445): the selected ones ON, hot spares LOADED and OFF. -/
def State.releaseCores (s : State) (r : Fin 8) : State :=
  (dieCores r).foldl (fun s c =>
    let k := s.core c
    let s := s.setCore c { k with load := if k.selected || k.spare then .loaded else .idle }
    if k.selected && s.isOn (.field r c.east) then s.setUnit (.core c) { s.unit (.core c) with st := .on } else s) s

/-- A unit below one whose start ended late: ON, unless it has failed. -/
def State.startUnder (s : State) (u : UnitId) : State :=
  let v := s.unit u
  if v.st = .off ∧ !v.failed then s.setUnit u { UnitRec.reset u with enable := true, st := .on } else s

/-- What starts with a unit whose step of the start ended after the others': its fields, ports and lanes, and the planes that a
cartridge then feeds. -/
def State.startedLate (s : State) (u : UnitId) : State :=
  match u with
  | .reckoner d =>
    let s := s.setDie d { s.die d with westGait := 3, eastGait := 3 }
    let s := (s.startUnder (.field d false)).startUnder (.field d true)
    (List.range 4).foldl (fun s e => s.startUnder (.port (portOf (4 * d.val + e)))) s
  | .stack k => (s.trained k).startUnder (.port (portOf (32 + k.val)))
  | .bridle b => (s.startUnder (.port (portOf (56 + b.val)))).trainLanes b
  | .engine e => s.startUnder (.port (portOf (60 + e.val)))
  | .cartridge k => s.cartStarted k
  | _ => s

/-- A unit that the start waits for has completed its step: a core its test; another is ON, with what starts with it. -/
def State.stepEndsLate (s : State) (u : UnitId) : State :=
  match u with
  | .core c => s.coreTested c none
  | u => (s.setUnit u { s.unit u with st := .on }).startedLate u

/-- The map is FOLDED at ready where a stack was lost at the start; its slots have been written to zero. -/
def State.foldAtStart (s : State) : State :=
  if s.dram.gone.isSome ∧ s.dram.second.isNone then
    { s with dram := { s.dram with map := .folded, topHole := true, lossAt := none, retired := true } }
  else s

/-- From ready, the roles of R465 apply. -/
def State.becomeReady (s : State) : State :=
  let both := s.groom.role0 = .dual ∧ s.groom.role1 = .dual
  { s with groom := { s.groom with ready := true, phase := 8, role0 := if both then .active else s.groom.role0
                                   role1 := if both then .standby else s.groom.role1 } }

/-- The last steps of the start: selection, firmware, ready (R423, R424 steps 12 to 15). -/
def State.finishStart (s : State) : State :=
  let s := (allFin 8).foldl (fun s r => s.selectDie r) s
  let s := (allFin 8).foldl (fun s r => if s.isOn (.reckoner r) then s.releaseCores r else s) s
  let s := (allFin 8).foldl (fun s r => s.setShares r) s
  let s := s.foldAtStart.becomeReady
  if s.dram.second.isSome then s.moduleFatal blkMEM else s.updateGrade

/-- A unit has failed its part of the start (R425, R432, R435). -/
def State.startFails (s : State) (u : UnitId) : State :=
  let s := s.setUnit u { s.unit u with st := .off, failed := true }
  match u with
  | .stack k => (s.setUnit u { s.unit u with failed := false }).detectLoss k
  | .core c => s.coreTested c (some 1)
  | .cartridge k => s.setCart k { s.cart k with health := .failed }
  | _ => s

/-- A cartridge at the start (R287, R294 step 2). -/
def State.startCart (r : StartReport) (s : State) (k : Fin 8) (serial : Word) : State :=
  let s := (s.setCart k { Cartridge.reset with serial := serial }).startUnit r (.cartridge k)
  if (s.unit (.cartridge k)).failed then s.startFails (.cartridge k) else s

/-- The block ID of a unit's page, for GRM_STEP_TIMEOUT. -/
def unitBlock (u : UnitId) : Word :=
  match u with
  | .reckoner r => blkRKN r.val
  | .field r _ => blkRKN r.val
  | .core c => coreBlock c 0
  | .port p => blkDRG p.val
  | .slot x => blkDRG x.port.val
  | .plane _ => blkHRN
  | .allocator => blkHRN
  | .cartridge _ => blkLAS
  | .stack k => blkMEMS k.val
  | .bridle b => blkBRD b.val
  | .lane b _ => blkBRD b.val
  | .engine e => blkBLN e.val
  | .edu => blkEDU
  | .stable => blkSTB

/-- MEM_MAP_CTL.fold_reserve locks as software has left it (R240). -/
def State.lockReserve (s : State) (written : Bool) : State :=
  let on := written || s.regF Reg.MEM_MAP_CTL 0 0 == 1
  let s := s.setRegF Reg.MEM_MAP_CTL 0 0 (bitOf on)
  { s with dram := { s.dram with reserveLocked := true, topHole := s.dram.topHole || on } }

/-- The stride clock after `n` strides of the start. -/
def State.startClock (s : State) (n : Nat) : State :=
  { s with clk := { stride := BitVec.ofNat 48 n, cycle := 0, len := 1024, bnd := n, base := n * 1024 } }

/-- The host step (R424): configuration requests are answered. -/
def State.hostStep (s : State) : State := s.setRegF Reg.PCI_LINK_STAT 19 19 0

/-- Steps 4 to 11 of the start under the Groom that booted. -/
def State.runStart (s : State) (r : StartReport) : State :=
  let s := (s.startClock r.strides).hostStep
  let s := s.testCores r
  let s := s.testHalves r
  let s := s.testLanes r
  let s := s.testRings r
  let s := (allFin 8).foldl (fun s d =>
    if r.mismatch.contains d then
      let s := s.setDie d { s.die d with mismatch := true }
      (s.setUnit (.reckoner d) { s.unit (.reckoner d) with st := .starting, failed := true }).logFault Flt.RKN_ORIENT_MISMATCH
        (blkRKN d.val) 0
    else
      let s := s.startUnit r (.reckoner d)
      let s := s.setDie d { s.die d with westGait := 3, eastGait := 3 }
      if s.isOn (.reckoner d) then
        let s := (s.startUnit r (.field d false)).startUnit r (.field d true)
        (List.range 4).foldl (fun s e => s.startUnit r (.port (portOf (4 * d.val + e)))) s
      else s) s
  let s := (allFin 24).foldl (fun s k =>
    let s := s.startUnit r (.stack k)
    if (s.unit (.stack k)).failed then s.startFails (.stack k)
    else
      let s := s.trained k
      if s.isOn (.stack k) then s.startUnit r (.port (portOf (32 + k.val))) else s) s
  let s := s.lockReserve r.reserve
  let s := r.noSpareRow.foldl (fun (s : State) l =>
    s.logFault Flt.MEM_REPAIR_EXHAUSTED (blkMEMS (lineStack l.toNat).val) (l.toNat * 128 % 2 ^ 32)) s
  let s := (allFin 24).foldl (fun s k =>
    if 64 ≤ (r.noSpareRow.filter fun l => lineStack l.toNat == k).length ∧ !(s.unit (.stack k)).failed ∧ !(s.stack k).lost then
      s.startFails (.stack k)
    else s) s
  let s := (allFin 8).foldl (fun s k => match r.carts.find? fun c => c.1 == k with
    | some (_, serial) => s.startCart r k serial
    | none => s.setCart k { Cartridge.reset with present := false }) s
  let s := r.nominals.foldl (fun (s : State) (e : (Fin 8 × Fin 16) × Int) =>
    if s.isOn (.cartridge e.1.1) ∧ quadOfPlane e.1.2 = quadOfCart e.1.1 then s.recordNominal e.1.1 e.1.2 e.2 else s) s
  let s := s.calibrate r.calSets r.measured
  let s := (allFin 16).foldl (fun s p =>
    let q := quadOfPlane p
    let src := !(s.isOn (.cartridge (cartOf q false)))
    let s := s.setFeed p { Feed.reset with src := src, shown := src }
    if s.isOn (.cartridge (cartOf q src)) then s.startUnit r (.plane p)
    else s.setUnit (.plane p) { s.unit (.plane p) with enable := true }) s
  let s := s.startUnit r .allocator
  let s := (allFin 4).foldl (fun s b =>
    let s := s.startUnit r (.bridle b)
    if s.isOn (.bridle b) then (s.startUnit r (.port (portOf (56 + b.val)))).trainLanes b else s) s
  let s := (allFin 2).foldl (fun s e =>
    let s := s.startUnit r (.engine e)
    if s.isOn (.engine e) then s.startUnit r (.port (portOf (60 + e.val))) else s) s
  (s.startUnit r (.port 62)).startUnit r (.port 63)

/-- The straps are latched as MOD_RESET_N is deasserted (R372). -/
def State.latchStraps (s : State) (r : StartReport) : State :=
  let pos := putBits 13 10 r.z.val + putBits 9 8 r.y.val + putBits 7 5 r.x.val + putBits 4 0 (r.y.val * 8 + r.x.val)
  { s.setReg Reg.FAB_POS (BitVec.ofNat 32 pos) with sync := { s.sync with master := Fin.ofNat 32 (r.y.val * 8 + r.x.val) } }

/-- The supplies are in range and MOD_RESET_N is deasserted. A start that was held goes on with the straps it has. -/
def State.leaveReset (s : State) (r : StartReport) : State :=
  { s with
      sup := { s.sup with vin48 := true, vana := true, vio := true, modReset := false, open_ := false, stuck := false,
                          startDue := false }
      therm := { s.therm with trip := false }
      groom := { s.groom with elapsed := r.elapsed.toNat } }

/-- The start ends with phase FAILED and grade FAILED, after the host step (R429, R438). -/
def State.startFailed (s : State) : State :=
  let s := s.hostStep
  { s with groom := { s.groom with phase := 10, fatal := true } }.updateGrade

def State.startPhase (s : State) (n : Nat) : State := { s with groom := { s.groom with phase := n } }

/-- The Grooms run the booted slot (R427, R430). -/
def State.bootGrooms (s : State) (g0 g1 : Bool) (b : Bool) (x : SlotReport) (again : Bool) : State :=
  let s := { s with groom := { s.groom with
      slotB := b, outVersion := x.version.toNat, outIndex := x.index.val, active := !g0
      role0 := if g0 then (if g1 then .dual else .active) else .absent
      role1 := if g1 then (if g0 then .dual else .active) else .absent } }
  if (g0 && g1) || again then s else s.logFault Flt.GRM_RECOVERY blkGRM 0

/-- The boot count increases once, when the event-log store may be written (R503). -/
def State.countBoot (s : State) : State :=
  if s.logInRange then { s with groom := { s.groom with boot := s.groom.boot + 1 } } else s.defer .bootCount

def State.noGroom (s : State) : State := ({ s with groom := { s.groom with role0 := .absent, role1 := .absent } }).startFailed

/-- A start waits at phase HOST (R481). -/
def State.holdStart (s : State) : State :=
  let s := s.hostStep.startPhase 3
  { s with sup := { s.sup with startDue := true } }

def State.endHold (s : State) : State := { s with therm := { s.therm with hold := false } }

/-- The start from step 4 on. -/
def State.startUnits (s : State) (r : StartReport) : State :=
  let s := (s.endHold.countBoot).runStart r
  if s.groom.waiting.isEmpty then s.finishStart else s.startPhase 5

/-- A module start that its trigger begins (R422), with what it finds. -/
def State.moduleStart (s0 : State) (r : StartReport) : State :=
  let held := s0.groom.phase = 3 ∧ s0.sup.startDue
  let s := (if held then s0 else s0.fresh.latchStraps r).leaveReset r
  if s.sec.lifecycle = 0 then s.startPhase 9
  else
    let s := if s.slotVerifies r.slotA ∨ held then s else s.logFault Flt.GRM_BOOT_SLOT_FAIL blkGRM 0
    let s := if s.slotVerifies r.slotB ∨ held then s else s.logFault Flt.GRM_BOOT_SLOT_FAIL blkGRM 0
    match s.bootSlot r with
    | none => s.noGroom
    | some (b, x) =>
      if !r.groom0 && !r.groom1 then s.noGroom
      else
        let s := s.bootGrooms r.groom0 r.groom1 b x held
        if s.startHeld then s.holdStart else if r.faulty then s.startFailed else s.startUnits r

/-- A module start may begin (R422, R480, R536): MOD_RESET_N is deasserted, or a start is due without it, all five supplies being in
range, and THERMTRIP_N is not asserted. VLAS_12 and VSTBY_3V3 have returned by commands of their own; the others are in range when
the start begins. -/
def State.mayStart (s : State) : Bool :=
  (s.sup.modReset || (s.sup.startDue && !s.sup.stuck)) && s.sup.vlas && s.sup.vstby && !s.tripHolds

/-- MODULE_START (R422). -/
def execModuleStart (r : StartReport) (s : State) : Host.Outcome State Fault Refusal :=
  .next (if s.mayStart then s.moduleStart r else s)

/-- A unit of the start has completed its step, or its time has passed; the last one lets the start end. -/
def State.stepDone (s : State) (u : UnitId) : State :=
  let s := { s with groom := { s.groom with waiting := s.groom.waiting.filter (· != u) } }
  if s.groom.waiting.isEmpty then s.finishStart else s

/-- START_STEP_TIMEOUT (R425). -/
def execStartStepTimeout (unit : UnitId) (s : State) : Host.Outcome State Fault Refusal :=
  .next (if s.groom.waiting.contains unit then
      ((s.logFault Flt.GRM_STEP_TIMEOUT blkGRM (unitBlock unit).toNat).startFails unit).stepDone unit
    else s)

/-- The commit of the rollback counter (R428). -/
def State.commitRollback (s : State) : State :=
  if !s.groom.ready ∨ s.groom.outIndex ≤ s.groom.rollback then s
  else if s.logInRange && s.flt.deferred.isEmpty then { s with groom := { s.groom with rollback := s.groom.outIndex } }
  else s.defer (.rollback s.groom.outIndex)

/-- ROLLBACK_COMMIT (R428). -/
def execRollbackCommit (src : Source) (s : State) : Host.Outcome State Fault Refusal :=
  .next (if s.mayWrite src Reg.GRM_IMG_CTL then s.commitRollback else s)

/-- FIELD_FAIL_LIST_CLEAR (R440): the list is emptied at the next module start. -/
def execFieldFailListClear (src : Source) (s : State) : Host.Outcome State Fault Refusal :=
  .next (if s.mayWrite src Reg.GRM_YIELD_CTL then { s with groom := { s.groom with clearList := true } } else s)

/-! ### Core firmware (R441 to R445) -/

/-- The bytes of a block in a core's staging area. -/
def State.stagedBlock (s : State) (c : CoreId) (b : Nat) : List Byte := s.mem.bytes (scratchAddr c (4096 * b)) 4096

/-- Blocks 0 to last are all marked. -/
def Core.fwComplete (k : Core) : Bool :=
  k.fwMap.testBit 0 && (List.range (k.fwLast + 1)).all fun i => k.fwMap.testBit i

/-- The complete image is checked against the digest of block 0 (R442). A selected core then completes its start, and a spare comes
to rest (R445). -/
def State.installFirmware (s : State) (c : CoreId) : State :=
  let k := s.core c
  let payload (b : Nat) := (s.stagedBlock c b).drop 32
  let image := (List.range k.fwLast).flatMap fun i => payload (i + 1)
  if sha384 image = (payload 0).take 48 then
    let s := s.setCore c { k with load := .loaded }
    let s := s.zeroRange (scratchAddr c 0) 0x100000
    s.setUnit (.core c) { s.unit (.core c) with done := true }
  else s.setCore c { k with load := .hashBad, fwMap := 0 }

/-- The loader of a core has the whole of block `b` (R442). -/
def State.takeBlock (s : State) (c : CoreId) (b : Fin 256) : State :=
  let k := s.core c
  if (s.unit (.core c)).st ≠ .starting ∨ k.load = .loaded then s
  else
    let bs := s.stagedBlock c b.val
    let ws := wordsOf (bs.take 32)
    let good := decide (crc32c (bs.take 28 ++ bs.drop 32) = ws.getD 7 0 ∧ (ws.getD 0 0).field 7 0 = b.val)
    let k := { k with load := .receiving }
    if good then
      let k := { k with fwMap := k.fwMap ||| 2 ^ b.val, fwLast := (ws.getD 1 0).field 7 0 }
      let s := s.setCore c k
      if k.fwComplete then s.installFirmware c else s
    else s.setCore c k

/-- FIRMWARE_BLOCK_RECEIVED (R442): the last 64 bytes of a block have been written. -/
def execFirmwareBlockReceived (c : CoreId) (b : Fin 256) (s : State) : Host.Outcome State Fault Refusal :=
  .next (s.takeBlock c b)

/-- One repair of a core (R443), or, after the third, its failure (R444). `image` holds the blocks of the booted slot's core
image. -/
def State.repairCore (s : State) (image : List (List Byte)) (c : CoreId) : State :=
  let k := s.core c
  if 3 ≤ k.repairs then
    let s := s.setUnit (.core c) { s.unit (.core c) with st := .off }
    s.replaceCore c 6 State.loadedSpare
  else
    let todo := image.zipIdx.filter fun p => k.load == .hashBad || !(k.fwMap.testBit p.2)
    let s := s.setCore c { k with repairs := k.repairs + 1 }
    let s := todo.foldl (fun (s : State) p =>
      if h : p.2 < 256 then
        let s := s.poke (scratchAddr c (4096 * p.2)) (p.1.take 4096)
        s.takeBlock c ⟨p.2, h⟩
      else s) s
    s.logFault Flt.RKN_FW_REPAIR blkGRM (putBits 26 16 c.gid + todo.length)

/-- FIRMWARE_REPAIR_CHECK (R443): every core of the die that is STARTING and not LOADED. -/
def execFirmwareRepairCheck (r : Fin 8) (image : List (List Byte)) (s : State) : Host.Outcome State Fault Refusal :=
  .next (((dieCores r).filter fun c => (s.unit (.core c)).st == .starting && (s.core c).load != .loaded).foldl
    (fun (s : State) c => s.repairCore image c) s)

end Sys2Proof.Machine
end

