-- ==== Sys2Proof/Machine/Faults.lean ====
section
/-! DEFINITION. Fault records and fault rings (R524 to R530). -/

namespace Sys2Proof.Machine

/-- FAULT_RECORD (R526): a record of a fault that a unit reports, raised to a job, logged, or both; `same` says that it falls in the
Paddock digital cycle of its page's last record (R518). A code that R530 does not list is never written. -/
def execFaultRecord (cls : Fin 16) (code : BitVec 12) (source detail : Word) (job : Option (BitVec 12)) (logged same : Bool)
    (s : State) : Host.Outcome State Fault Refusal :=
  let f : FaultCode := ⟨cls.val, code.toNat⟩
  .next (if f.listed then s.raiseRecord ⟨f, s.clk.stride, source, detail⟩ (job.map (·.toNat)) (logged || job.isNone) same else s)

/-- FAULT_RING_WRITE_COMPLETE (R527). -/
def execFaultRingWriteComplete (job : BitVec 12) (ok : Bool) (s : State) : Host.Outcome State Fault Refusal :=
  .next (s.ringWriteDone job.toNat ok)

/-- A write of PDK_FLT_HEAD for the selected job (R528). -/
def State.writeFaultHead (s : State) (val : Word) : State :=
  let j := s.regF Reg.PDK_FLT_SEL 11 0
  let head := s.reg (bank j Reg.PDK_FLT_HEAD)
  let tail := s.reg (bank j Reg.PDK_FLT_TAIL)
  if (val - head).toNat ≤ (tail - head).toNat then s.setReg (bank j Reg.PDK_FLT_HEAD) val else s

def execFaultRingHeadWrite (src : Source) (val : Word) (s : State) : Host.Outcome State Fault Refusal :=
  .next (if s.mayWrite src Reg.PDK_FLT_HEAD then s.writeFaultHead val else s)

/-- The enable of a fault ring at its boundary (R528): judged against the configuration in force. -/
def State.faultRing (s : State) (job : Nat) (on : Bool) : State :=
  let k := bank job Reg.PDK_FLT_LO
  let n := s.ringLog2 job
  let space := s.regF (bank job Reg.PDK_FLT_CFG) 14 12
  if !on then s.setLive k 0
  else if 4 ≤ n ∧ n ≤ 16 ∧ (space = 2 ∨ space = 3) then s.setLive k 1
  else (s.setRegF k 0 0 0).setLive k 0

end Sys2Proof.Machine
end

