-- ==== Sys2Proof/Machine/Thermal.lean ====
section
/-! DEFINITION. Sensors, throttles, rates of rise, thermal shutdown, event-log temperature, and the power limit (R472 to R484). -/

namespace Sys2Proof.Machine

/-! ### Sensors (R472 to R475) -/

def sensorKey (cls index : Nat) : Nat := cls * 4096 + index

/-- Sensors of a class (R472). -/
def sensorExists (cls index : Nat) : Bool :=
  match cls with
  | 0 => (coreOf index).isSome
  | 1 => decide (index < 64)
  | 2 => decide (index < 128)
  | 3 => decide (index < 256)
  | 4 => decide (index < 4)
  | 5 => decide (index < 96)
  | 6 => decide (index < 32)
  | 7 => decide (index < 96)
  | _ => decide (index < 8)

/-- Throttle threshold of a class, in °C (R475). -/
def throttleAt (cls : Nat) : Int := warnAt cls + 5

def State.sensor (s : State) (k : Nat) : Sensor := s.therm.sensors.getD k .reset
def State.setSensor (s : State) (k : Nat) (v : Sensor) : State :=
  { s with therm := { s.therm with sensors := s.therm.sensors.put k v } }

/-- Detail word of a sensor record. -/
def sensorWord (k : Nat) (temp : Int) : Nat := putBits 31 28 (k / 4096) + putBits 27 16 (k % 4096) + unsignedOf 16 temp

/-- SENSOR_SAMPLE (R473): the sample of this stride, compared at the next boundary. A BAD sensor reports its neighbours. -/
def execSensorSample (cls : Fin 9) (index : BitVec 12) (reading : BitVec 16) (s : State) : Host.Outcome State Fault Refusal :=
  let k := sensorKey cls.val index.toNat
  let v := s.sensor k
  .next (if !sensorExists cls.val index.toNat || v.bad then s else s.setSensor k { v with temp := reading.toInt })

/-- SENSOR_BAD (R474): a ring-oscillator sensor reads outside −40 °C to 150 °C, or has differed by more than 20 °C from both of its
nearest neighbours, named by the command, for 16 strides. A DRAM or cartridge sensor without a reading for 16 strides is taken at
its throttle threshold. -/
def execSensorBad (cls : Fin 9) (index near0 near1 : BitVec 12) (s : State) : Host.Outcome State Fault Refusal :=
  let k := sensorKey cls.val index.toNat
  let v := s.sensor k
  let far (n : BitVec 12) := decide (320 < (v.temp - (s.sensor (sensorKey cls.val n.toNat)).temp).natAbs)
  .next (if !sensorExists cls.val index.toNat || v.bad then s
    else if 7 ≤ cls.val then s.setSensor k { v with temp := throttleAt cls.val * 16 }
    else if v.temp < -640 ∨ 2400 < v.temp ∨ (far near0 ∧ far near1) then
      let s := s.setSensor k { v with bad := true, near := [sensorKey cls.val near0.toNat, sensorKey cls.val near1.toNat] }
      (s.logFault Flt.THM_SENSOR_BAD blkTHM (sensorWord k v.temp)).bump (Reg.THM_CNT_n + 20) 1
    else s)

/-- The level of a sensor with a reading, from its last level (R475). Leaving SHUTDOWN is below its threshold. -/
def levelOf (cls old : Nat) (t : Int) : Nat :=
  if shutdownAt cls * 16 ≤ t then 3
  else if throttleAt cls * 16 ≤ t ∨ (2 ≤ old ∧ (throttleAt cls - 3) * 16 ≤ t) then 2
  else if warnAt cls * 16 ≤ t ∨ (1 ≤ old ∧ (warnAt cls - 3) * 16 ≤ t) then 1 else 0

/-- What a sensor in THROTTLE contributes, in per cent (R476). -/
def contribOf (cls level : Nat) (t : Int) : Nat :=
  if level < 2 then 0 else (max 0 (min 75 (10 * (t - throttleAt cls * 16) / 16))).toNat

/-! ### Shutdown (R479) -/

/-- A unit fails and is OFF at this boundary. -/
def State.failNow (s : State) (u : UnitId) : State :=
  let s := s.setUnit u { s.unit u with failed := true }
  { s with due := s.due ++ [(s.clk.bnd, .unitFail u true)] }

/-- A Reckoner whose converters open. -/
def State.shutReckoner (s : State) (r : Fin 8) : State :=
  let s := { s with therm := { s.therm with shut := if r.val ∈ s.therm.shut then s.therm.shut else s.therm.shut ++ [r.val]
                                            cool := s.therm.cool.put r.val 0 } }
  let s := (s.reckonerJobs r).foldl (fun s j => s.raiseTo Flt.GRM_RKN_LOST blkGRM j r.val) s
  (s.farCount 4).failNow (.reckoner r)

def State.thermalFatal (s : State) (block : Word) : State :=
  ({ s with therm := { s.therm with hold := true } }).moduleFatal block

/-- The Reckoner a sensor of codes 0 to 2 lies on. -/
def sensorDie (k : Nat) : Fin 8 :=
  ⟨(if k / 4096 = 0 then k % 4096 / 256 else if k / 4096 = 1 then k % 4096 / 8 else k % 4096 / 16) % 8,
    Nat.mod_lt _ (by decide)⟩

/-- A sensor has entered SHUTDOWN. -/
def State.sensorShutdown (s : State) (k : Nat) : State :=
  let i := k % 4096
  match k / 4096 with
  | 3 => s.thermalFatal (blkDRG (i / 4))
  | 4 => s.thermalFatal (blkBLN (i / 2))
  | 5 => s.thermalFatal blkTHM
  | 6 =>
    if i < 8 then s.thermalFatal (blkBRD 0)
    else s.failNow (.bridle ⟨i / 8 % 4, Nat.mod_lt _ (by decide)⟩)
  | 7 => s.detectLoss ⟨i / 4 % 24, Nat.mod_lt _ (by decide)⟩
  | 8 =>
    let c : Fin 8 := ⟨i % 8, Nat.mod_lt _ (by decide)⟩
    if s.isOn (.cartridge c) then s.suddenLoss c else s
  | _ => s.shutReckoner (sensorDie k)

/-- One sensor compared with its thresholds at a boundary. -/
def State.compareSensor (s : State) (k : Nat) : State :=
  let v := s.sensor k
  let t := if v.bad then v.near.foldl (fun m n => max m (s.sensor n).temp) (match v.near with
    | n :: _ => (s.sensor n).temp
    | [] => v.temp) else v.temp
  let cls := k / 4096
  let l := levelOf cls v.level t
  let s := s.setSensor k { v with temp := t, level := l, contrib := contribOf cls l t }
  let s := if v.level = 0 ∧ 1 ≤ l then (s.logFault Flt.THM_WARN blkTHM (sensorWord k t)).bump Reg.THM_CNT_n 1 else s
  let s := if v.level < 2 ∧ 2 ≤ l then
      let s := s.bump (Reg.THM_CNT_n + 4) 1
      if cls = 8 ∧ s.cartRole ⟨k % 8, Nat.mod_lt _ (by decide)⟩ = 1 then s.fadeAtSwap ⟨k % 8, Nat.mod_lt _ (by decide)⟩
      else s
    else s
  if v.level < 3 ∧ l = 3 then
    ((s.logFault Flt.THM_SHUTDOWN blkTHM (sensorWord k t)).bump (Reg.THM_CNT_n + 16) 1).sensorShutdown k
  else s

/-! ### Throttles (R476 to R478, R484) -/

/-- A sensor governs a field: its core sensors, Tally sensors under it, digital sensors assigned to it or to the spine. -/
def governsField (r : Fin 8) (east : Bool) (k : Nat) : Bool :=
  let i := k % 4096
  match k / 4096 with
  | 0 => decide (i / 256 = r.val) && (decide (8 ≤ i % 16) == east)
  | 2 => decide (i / 16 = r.val) && (decide (4 ≤ i % 8) == east)
  | 5 => Config.digitalSensor i == 2 * r.val + bitOf east || decide (16 ≤ Config.digitalSensor i)
  | _ => false

def State.thermalThrottle (s : State) (r : Fin 8) (east : Bool) : Nat :=
  s.therm.sensors.foldl (fun m (k, v) => if 0 < v.contrib && governsField r east k then max m v.contrib else m) 0

def State.rate (s : State) (r : Fin 8) : Rate := s.therm.rates.getD r.val .reset
def State.setRate (s : State) (r : Fin 8) (v : Rate) : State := { s with therm := { s.therm with rates := s.therm.rates.put r.val v } }

/-- THM_RATE_CTL.arm_temp in force, in 1/16 °C. -/
def State.armTemp (s : State) : Int := 16 * (max 60 (min 95 (s.liveF Reg.THM_RATE_CTL 7 0)) : Nat)

/-- The hottest core, edge-router or Tally reading of a die. -/
def State.hottest (s : State) (r : Fin 8) : Option Int :=
  (s.therm.sensors.filter fun (k, _) => decide (k / 4096 ≤ 2) && sensorDie k == r).foldl (fun (m : Option Int) (p : Nat × Sensor) =>
    some (match m with
      | some x => max x p.2.temp
      | none => p.2.temp)) none

/-- The rise of a die and its rate level at a boundary (R478). -/
def State.rateBoundary (s : State) (r : Fin 8) : State :=
  match s.hottest r with
  | none => s
  | some t =>
    let v := s.rate r
    let h := (t :: v.history).take 1041
    let diff := if h.length < 1041 then 0 else (h.take 64).sum - ((h.drop 977).take 64).sum
    let armed := decide (s.armTemp ≤ t)
    let level := if armed ∧ 10 * 16 * 64 < diff then 2 else if armed ∧ 2 * 16 * 64 < diff then max 1 v.level else v.level
    let calm := if diff ≤ 2 * 16 * 64 then v.calm + 1 else 0
    let s := s.setRate r { hottest := t, history := h, rise := diff / 64, level := level, calm := calm }
    if level = v.level then s
    else if level = 2 then (s.logFault Flt.THM_RATE_EMERG blkTHM r.val).bump (Reg.THM_CNT_n + 12) 1
    else (s.logFault Flt.THM_RATE_PRE blkTHM r.val).bump (Reg.THM_CNT_n + 8) 1

/-- RATE_LEVEL_HOLD_EXPIRY (R478): 977 strides at a low rise take an emergency to the pre-emptive level, and that to none. -/
def execRateLevelHoldExpiry (r : Fin 8) (s : State) : Host.Outcome State Fault Refusal :=
  let v := s.rate r
  .next (if v.level = 0 ∨ v.calm < 977 then s else s.setRate r { v with level := v.level - 1, calm := 0 })

/-- The throttles of a die at a boundary: those locked in the last stride come into force, those of the samples now compared are
locked for the next boundary, and an emergency acts at once (R477). -/
def State.throttleDie (s : State) (r : Fin 8) : State :=
  let d := s.die r
  let lv := (s.rate r).level
  let rateP := if lv = 2 then 75 else if lv = 1 then 25 else 0
  let due (east : Bool) := min 75 (max (s.thermalThrottle r east) (max rateP s.power.throttle))
  let now := lv = 2 ∨ s.power.emergency.any fun b => decide (s.clk.bnd < b)
  s.setDie r { d with westThrottle := if now then 75 else d.westDue, eastThrottle := if now then 75 else d.eastDue
                      westDue := due false, eastDue := due true }

/-- Whether a die is split in the stride that begins; at a change its cores let their transactions end first (R80, R82). -/
def State.splitDie (s : State) (r : Fin 8) : State :=
  let d := s.die r
  let split := decide (s.fieldClock r false ≠ s.fieldClock r true)
  if split = d.split then s
  else
    (s.setDie r { d with split := split }).drainRouters fun g => g / 256 == r.val

/-- Whether an engine or the photonics of its port call for it to leave NORMAL (R177, R476). -/
def State.engineHot (s : State) (e : Fin 2) : Bool :=
  (List.range 2).any (fun n => decide (2 ≤ (s.sensor (sensorKey 4 (2 * e.val + n))).level))
    || (List.range 4).any fun n => decide (2 ≤ (s.sensor (sensorKey 3 ((60 + e.val) * 4 + n))).level)

/-- Every sensor of a Reckoner reads below its shutdown threshold less 10 °C (R479). -/
def State.dieCool (s : State) (r : Fin 8) : Bool :=
  s.therm.sensors.all fun (k, v) => !(decide (k / 4096 ≤ 2) && sensorDie k == r)
    || decide (v.temp < (shutdownAt (k / 4096) - 10) * 16)

/-- Both event-log sensors read 2 °C to 83 °C (R482). -/
def State.flushRange (s : State) : Bool :=
  [94, 95].all fun i => let t := (s.sensor (sensorKey 5 i)).temp; decide (32 ≤ t ∧ t ≤ 83 * 16)

/-- Temperature and power at a boundary (R473 to R484). -/
def State.thermalBoundary (s : State) : State :=
  let s := s.therm.sensors.foldl (fun (s : State) (p : Nat × Sensor) => s.compareSensor p.1) s
  let s := (allFin 8).foldl (fun s r => (s.rateBoundary r).throttleDie r) s
  let s := (allFin 2).foldl (fun s e => s.setEngine e { s.engine e with hot := s.engineHot e }) s
  let s := if 0 < s.power.throttle then s.bump (Reg.THM_CNT_n + 28) 1 else s
  { s with
      therm := { s.therm with
        cool := s.therm.cool.mapVals fun r (n : Nat) => if s.dieCool ⟨r % 8, Nat.mod_lt _ (by decide)⟩ then n + 1 else 0
        inRange := if s.flushRange then s.therm.inRange + 1 else 0 }
      power := { s.power with sinceStep := s.power.sinceStep + 1 } }

/-- SHUTDOWN_COOLDOWN_COMPLETE (R479): the failure of a shut-down Reckoner is cleared and the Farrier restart applies. -/
def execShutdownCooldownComplete (r : Fin 8) (s : State) : Host.Outcome State Fault Refusal :=
  .next (if r.val ∉ s.therm.shut ∨ s.therm.cool.getD r.val 0 < 977 then s
    else
      let s := { s with therm := { s.therm with shut := s.therm.shut.erase r.val, cool := s.therm.cool.drop r.val } }
      let s := s.setUnit (.reckoner r) { s.unit (.reckoner r) with failed := false }
      if (s.unit (.reckoner r)).st = .off then s.failedReckonerOff r else s)

/-- THERMTRIP (R480): a sensor reads 5 °C or more above its shutdown threshold. -/
def execThermtrip (cls : Fin 7) (index : BitVec 12) (s : State) : Host.Outcome State Fault Refusal :=
  let k := sensorKey cls.val index.toNat
  .next (if !sensorExists cls.val index.toNat ∨ (s.sensor k).temp < (shutdownAt cls.val + 5) * 16 ∨ s.therm.trip then s
    else
      let s := s.unitsOff
      { s with therm := { s.therm with trip := true, hold := true }, sup := { s.sup with open_ := true }
               groom := { s.groom with ready := false } })

/-! ### Deferred records (R482) -/

/-- A deferred record or fuse write is made. -/
def State.makeDeferred (s : State) : Deferred → State
  | .record r => s.storeLog r
  | .rollback n => { s with groom := { s.groom with rollback := max s.groom.rollback n } }
  | .bootCount => { s with groom := { s.groom with boot := s.groom.boot + 1 } }
  | .lifecycle n => { s with sec := { s.sec with
      otp := n, deviceKey := if n = 3 then 2 ^ 384 - 1 else s.sec.deviceKey } }
  | .provision root debug serial key =>
    { s with sec := { s.sec with rootHash := root, debugHash := debug, serial := serial, deviceKey := key, otp := 1 } }

/-- A fuse write under the temperature rule. -/
def State.fuseWrite (s : State) (d : Deferred) : State :=
  if s.logInRange && s.flt.deferred.isEmpty then s.makeDeferred d else s.defer d

/-- The deferred list emptied. -/
def State.clearDeferred (s : State) : State := { s with flt := { s.flt with deferred := [] } }

/-- DEFERRED_RECORD_FLUSH (R482): in order, after 977 strides in range. -/
def execDeferredRecordFlush (s : State) : Host.Outcome State Fault Refusal :=
  .next (if s.therm.inRange < 977 then s
    else s.flt.deferred.foldl (fun s d => s.makeDeferred d) s.clearDeferred)

/-! ### The power limit (R484) -/

/-- PWR_LIMIT in force. -/
def State.powerLimit (s : State) : Nat := max 1000 (min 3200 (s.liveF Reg.PWR_LIMIT 15 0))

/-- POWER_SAMPLE (R484): the averages as measured in this stride; above 3,600 W over 10 ms every field takes the emergency throttle
from the next boundary for 977 strides. -/
def execPowerSample (avg10ms avg1s : BitVec 16) (s : State) : Host.Outcome State Fault Refusal :=
  .next { s with power := { s.power with
      avg10ms := avg10ms.toNat, avg1s := avg1s.toNat
      emergency := if 3600 < avg10ms.toNat then some (s.clk.bnd + 978) else s.power.emergency } }

/-- POWER_EMERGENCY_HOLD_EXPIRY (R484). -/
def execPowerEmergencyHoldExpiry (s : State) : Host.Outcome State Fault Refusal :=
  .next (match s.power.emergency with
    | some b => if s.clk.bnd < b then s else { s with power := { s.power with emergency := none } }
    | none => s)

/-- POWER_THROTTLE_STEP (R484): every 977 strides. The record is logged once per episode, which ends when the throttle is back at 0. -/
def execPowerThrottleStep (s : State) : Host.Outcome State Fault Refusal :=
  let p := s.power
  .next (if p.sinceStep < 977 then s
    else if s.powerLimit < p.avg1s then
      let s' := { s with power := { p with throttle := min 75 (p.throttle + 5), sinceStep := 0, hitLogged := true } }
      if p.hitLogged then s' else s'.logFault Flt.PWR_LIMIT_HIT blkPWR p.avg1s
    else if p.avg1s * 100 < s.powerLimit * 95 then
      { s with power := { p with throttle := p.throttle - 5, sinceStep := 0, hitLogged := p.hitLogged && decide (5 < p.throttle) } }
    else s)

end Sys2Proof.Machine
end

