-- ==== Sys2Proof/Machine/Units.lean ====
section
/-! DEFINITION. The common unit state machine (R452 to R455): enables, disables and resets, what each unit does as it enters each
state, and the partial reset (R446 to R448). -/

namespace Sys2Proof.Machine

/-! ### Starting -/

/-- A parent lets a unit start: it is ON, or a Reckoner whose start includes its fields and cores (R448). -/
def State.parentReady (s : State) (p : UnitId) : Bool :=
  s.isOn p || match p with
    | .reckoner _ => (s.unit p).st == .starting
    | _ => false

/-- The power state the module is in, or moves to, has a unit in service (R485). A zeroisation starts Reckoners in PARKED (R495). -/
def State.powered (s : State) (u : UnitId) : Bool :=
  match u with
  | .reckoner _ => decide (s.powerLevel ≤ 1) || (s.sec.zeroising && s.powerLevel == 2)
  | .field .. => decide (s.powerLevel ≤ 1) || (s.sec.zeroising && s.powerLevel == 2)
  | .core _ => decide (s.powerLevel ≤ 1) || (s.sec.zeroising && s.powerLevel == 2)
  | .stable => decide (s.powerLevel ≤ 3)
  | .stack _ => decide (s.powerLevel ≤ 3)
  | .bridle _ => decide (s.powerLevel ≤ 3)
  | _ => decide (s.powerLevel ≤ 2)

/-- A unit may start (R452, R455, R457): the module runs, the unit's parents are ready and it has not failed. A cartridge needs its
seat filled and VLAS_12, a plane light from its source. -/
def State.canStart (s : State) (u : UnitId) : Bool :=
  let v := s.unit u
  s.groom.ready && !s.groom.fatal && s.powered u && v.st == .off && !v.failed && !v.barred && u.parents.all s.parentReady && match u with
    | .cartridge k => (s.cart k).present && s.sup.vlas
    | .plane p => s.lit (cartOf (quadOfPlane p) (s.feed p).src)
    | .reckoner r => !(s.therm.shut.contains r.val)
    | .lane _ l => (strandOf l).isSome
    | _ => true

/-- A core enters STARTING: its staging area is zero, and in a Reckoner's restart or as a substitute its whole scratch is (R433, R441,
R457). Firmware is loaded in a Reckoner's start only. -/
def State.coreStarts (s : State) (c : CoreId) : State :=
  let load := (s.unit (.reckoner c.rkn)).st == .starting
  let k := s.core c
  let s := s.zeroRange (scratchAddr c 0) (if load || k.subst.isSome then 0x180000 else 0x100000)
  if load then s.setCore c { k with load := .idle, fwMap := 0, repairs := 0 } else s

/-- The Tally slices and the scratch of a Reckoner set to zero. -/
def State.zeroReckoner (s : State) (r : Fin 8) : State :=
  let lo := tallyBase + r.val * 256 * 0x2000000
  let s := (s.zeroRange lo (256 * 0x2000000)).zeroRange (scratchBase + r.val * 256 * 0x200000) (256 * 0x200000)
  { s with dram := { s.dram with
      tallyErr := s.dram.tallyErr.filter fun e => !(decide (lo ≤ e.1) && decide (e.1 < lo + 256 * 0x2000000)) } }

/-- A unit enters STARTING. -/
def State.begin (s : State) (u : UnitId) : State :=
  let v := s.unit u
  let s := s.setUnit u { v with st := .starting, rp := false, done := false, disable := false, cancel := false }
  match u with
  | .reckoner r =>
    let d := s.die r
    let s := s.setDie r { d with resetting := true, restartAt := some s.now }
    let s := if d.zeroiseReset then s.zeroReckoner r else s
    s.selectDie r
  | .core c => s.coreStarts c
  | .plane p => s.wakePlane p
  | .slot x => s.probeSlot x
  | .lane b l => s.enterTraining b l { s.lane b l with trainFail := 0 }
  | .engine e => s.setEngine e { s.engine e with recalFail := 0, requests := [], formed := none }
  | .stable => s.judgePools
  | _ => s

/-- A unit started where it may. -/
def State.startIf (s : State) (u : UnitId) : State := if s.canStart u then s.begin u else s

/-- The fields of a Reckoner that starts, and the children of a unit that is ON, start where their enables are 1 (R454). A spare
starts to load firmware (R437). -/
def State.startChildren (s : State) (u : UnitId) : State :=
  u.children.foldl (fun s v =>
    let spare := match v with
      | .core c => (s.core c).spare && (s.unit (.reckoner c.rkn)).st == UState.starting && !(s.unit v).failed
      | _ => false
    if spare then (if (s.unit v).st = UState.off then s.begin v else s)
    else if (s.unit v).enable then s.startIf v else s) s

/-! ### Reaching ON -/

/-- The queues of a core that reaches ON are judged where their enable is 1 (R65, R89), and its meters are empty (R85). -/
def State.coreOn (s : State) (c : CoreId) : State :=
  let k := s.core c
  let s := s.setCore c { k with txMeter := 0, rxMeter := 0, meterAt := s.now }
  let s := (allFin 4).foldl (fun s q => if (s.queue ⟨c, q⟩).enable then s.queueEnabled ⟨c, q⟩ true else s) s
  s.substituteOn c

/-- A unit enters ON. -/
def State.enterOn (s : State) (u : UnitId) : State :=
  let v := s.unit u
  let s := s.setUnit u { v with st := .on, done := false, cancel := v.disable, disable := false }
  let s := match u with
    | .reckoner r => s.setDie r { s.die r with resetting := false, farrier := false, restartAt := none, zeroiseReset := false }
    | .core c => s.coreOn c
    | .cartridge k => s.cartOn k
    | .plane p => s.planeMoved p
    | .stack k => s.trained k
    | .bridle _ => (s.drainRouters fun _ => true).drainEngines
    | .engine e => s.setEngine e { s.engine e with mode := .normal, lastCheck := s.clk.bnd }
    | .stable => s.stableStarted
    | _ => s
  if v.disable then s else s.startChildren u

/-- The start of a unit is complete: by the model where the state shows it, else where the command has said so (R454). -/
def State.startReady (s : State) (u : UnitId) : Bool :=
  match u with
  | .reckoner r =>
    !(s.die r).mismatch && (s.unit u).done
      && [false, true].all (fun e => let f := s.unit (.field r e); f.st == .on || f.st == .off)
      && (dieCores r).all fun c => (s.unit (.core c)).st != .starting
  | .core c => (s.core c).load == .loaded && (s.unit u).done
  | .plane p => s.planeReady p
  | .slot x => (s.slot x).need == 0 || (s.slot x).quarantined || s.health x == 3
  | .lane b l => (s.lane b l).link == .up
  | .stack _ => (s.unit u).done
  | .cartridge _ => (s.unit u).done
  | .engine _ => (s.unit u).done
  | .stable => s.badPool.isNone || (s.unit u).disable
  | _ => true

/-! ### Stopping -/

/-- What a unit does as it leaves ON. -/
def State.leaveOn (s : State) (u : UnitId) : State :=
  match u with
  | .core c =>
    (allFin 48).foldl (fun s h => if (s.ctr (.core c h)).st = .live then s.orphanLater (.core c h) 1 else s) ((s.eduCoreLeft c).blinksLeft c)
  | .port p => s.resetPort p
  | .plane p => s.planeLeaves p
  | .stack k => if (s.stack k).lost then s else s.beginRetirement k
  | .bridle b => ((s.resetFabricBridle b).drainRouters fun _ => true).drainEngines
  | .lane b l =>
    (s.setLane b l { s.lane b l with txSusp := true, rxSusp := true, suspended := some s.clk.bnd }).laneFrame b l false
  | .engine e => s.moveRequests e
  | .stable => s.stableStopping
  | _ => s

/-- A unit that is ON enters STOPPING, with its children; one that is STARTING stops at its first consistent point (R453, R454). The
ports of a Reckoner leave ON when it reaches OFF (R447), and so does the port of a stack, which serves until then (R241). `fuel` bounds the depth of the unit tree. -/
def State.stop (s : State) (u : UnitId) : Nat → State
  | 0 => s
  | fuel + 1 =>
    let v := s.unit u
    match v.st with
    | .starting => s.setUnit u { v with disable := true }
    | .on =>
      let s := (s.setUnit u { v with st := .stopping, rp := false, done := false, cancel := false }).leaveOn u
      let kids : List UnitId := match u with
        | .reckoner r => [.field r false, .field r true]
        | .stack _ => []
        | _ => u.children
      kids.foldl (fun s k => s.stop k fuel) s
    | _ => s

/-- A plane is withdrawn (R257, R267): one that is STARTING enters STOPPING at once. -/
def State.withdrawPlane (s : State) (p : Fin 16) : State :=
  let u := s.unit (.plane p)
  if u.st = .starting then
    (s.setUnit (.plane p) { u with st := .stopping, rp := false, done := false, disable := false, cancel := false }).leaveOn (.plane p)
  else s.stop (.plane p) 4

/-- The fields of a Reckoner are OFF. -/
def State.fieldsOff (s : State) (r : Fin 8) : Bool := [false, true].all fun e => (s.unit (.field r e)).st == .off

/-- The Reckoners that one starts again together with have stopped too (R446). -/
def State.matesStopped (s : State) (r : Fin 8) : Bool :=
  let m := (s.die r).together
  m == 0 || (allFin 8).all fun x => (s.die x).together != m || (s.unit (.reckoner x)).st == .off
    || ((s.unit (.reckoner x)).st == .stopping && s.fieldsOff x)

/-- The stop of a unit is complete. -/
def State.stopReady (s : State) (u : UnitId) : Bool :=
  match u with
  | .reckoner r => s.fieldsOff r && s.matesStopped r
  | .field r e => (fieldCores r e).all fun c => (s.unit (.core c)).st == .off
  | .core c =>
    let k := s.core c
    k.mover.isEmpty && (allFin 4).all fun q => (k.queue q).exec.isEmpty && (k.queue q).ending.isEmpty
  | .plane p => s.planeDrained p
  | .cartridge _ => (s.unit u).done
  | .stack k => (s.dram.map != .normal || s.dram.gone != some k) && (s.drg.inbox.getD (32 + k.val) []).isEmpty
  | .bridle b => (allFin 32).all fun l => (s.unit (.lane b l)).st == .off
  | .lane b l =>
    match strandOf l with
    | some n => ((s.strand b n).unacked.all fun x => x.lane != l) || match (s.lane b l).suspended with
        | some k => decide (k + 2 ≤ s.clk.bnd)
        | none => true
    | none => true
  | .edu => s.eduIdle
  | .stable => s.stableDrained
  | _ => true

/-! ### Reaching OFF -/

/-- A core that reaches OFF (R87, R336): its queues, DISABLED now, withdraw their watches (R334). -/
def State.coreOff (s : State) (c : CoreId) : State :=
  let k := s.core c
  let s := s.setCore c { k with q0 := k.q0.stopped, q1 := k.q1.stopped, q2 := k.q2.stopped, q3 := k.q3.stopped, mover := [],
                                drain := false, drainMem := [] }
  let s := (allFin 4).foldl (fun s q => s.withdrawWatches ⟨c, q⟩) s
  let s := if k.zeroise then s.zeroRange (scratchAddr c 0) 0x180000 else s
  let s := s.freeCore c
  if (s.unit (.core c)).failed then s.failedCoreOff c else s

/-- A failed engine is restarted once within 2³⁶ strides ("Other substitutions"). -/
def State.failedEngineOff (s : State) (e : Fin 2) : State :=
  let again := match s.groom.engineRetry.find? e.val with
    | some b => decide (s.clk.bnd < b + 2 ^ 36)
    | none => false
  if again then s
  else
    let s := s.noteFarrier 4 e.val 0x7FF
    if !s.farrier 3 then s
    else
      let s := { s with groom := { s.groom with engineRetry := s.groom.engineRetry.put e.val s.clk.bnd } }
      ((s.setUnit (.engine e) { s.unit (.engine e) with failed := false }).farCount 7).scheduleNext (.unitEnable (.engine e))

/-- A port outside ON has no pairs. -/
def State.portOff (s : State) (p : Fin 64) : State :=
  let u : UnitId := .port p
  if (s.unit u).st = .off then s else ((s.resetPort p).parkPort p).setUnit u { s.unit u with st := .off, done := false, disable := false }

/-- A Reckoner that is OFF starts again (R446), unless it is too hot (R479). -/
def State.startAgain (s : State) (r : Fin 8) : State :=
  let u : UnitId := .reckoner r
  let s := if s.therm.shut.contains r.val then s else s.setUnit u { s.unit u with failed := false }
  let s := s.startIf u
  if (s.unit u).st = .starting then s.startChildren u else s.setDie r { s.die r with resetting := false, farrier := false }

/-- A Reckoner is OFF: those of its reset that wait OFF to start together with it start (R446). -/
def State.startMates (s : State) (m : Nat) : State :=
  ((allFin 8).filter fun x => m != 0 && (s.die x).together == m && (s.unit (.reckoner x)).st == .off).foldl
    (fun s x => (s.setDie x { s.die x with together := 0 }).startAgain x) s

/-- A unit enters OFF, and STARTING at once where restart_pending is 1 (R452). -/
def State.enterOff (s : State) (u : UnitId) : State :=
  let v := s.unit u
  let mates := match u with
    | .reckoner r => (s.die r).together
    | _ => 0
  let s := s.setUnit u { v with st := .off, rp := false, done := false, disable := false, cancel := false }
  let s : State := match u with
    | .reckoner r =>
      let s := s.setDie r { s.die r with together := 0 }
      let s := (List.range 4).foldl (fun (s : State) e => s.portOff (portOf (4 * r.val + e))) s
      let s := if v.rp then s else s.setDie r { s.die r with resetting := false, farrier := false, restartAt := none }
      if (s.unit u).failed then s.failedReckonerOff r else s
    | .field r e => if (s.unit u).failed then s.failedFieldOff r e else s
    | .core c => s.coreOff c
    | .port p => s.parkPort p
    | .plane p => (s.parkPlane p).laserPlaneOff p
    | .lane b l => s.laneDown b l
    | .stack k => if (s.stack k).lost then s else s.portOff (portOf (32 + k.val))
    | .engine e => if (s.unit u).failed then s.failedEngineOff e else s
    | _ => s
  let s : State := if v.rp then
      let s := s.startIf u
      match u with
      | .reckoner _ => if (s.unit u).st = UState.starting then s.startChildren u else s
      | _ => s
    else s
  s.startMates mates

/-- What a unit takes OFF with it at once; the controller of a lost stack goes on answering at its port (R234). -/
def State.offWith (s : State) (u : UnitId) : List UnitId :=
  match u with
  | .stack k => if (s.stack k).lost then [] else u.children
  | _ => u.children

/-- What a unit does as it leaves ON for OFF at once: as for STOPPING, but a lane sends no LANE DROP (R451, R479). -/
def State.leaveNow (s : State) (u : UnitId) : State :=
  match u with
  | .lane .. => s
  | _ => s.leaveOn u

/-- A unit and its children OFF at once (R452). -/
def State.offNow (s : State) (u : UnitId) : Nat → State
  | 0 => s
  | fuel + 1 =>
    let v := s.unit u
    if v.st = .off then s
    else
      let s := if v.st = .on then s.leaveNow u else s
      let s := (s.offWith u).foldl (fun s k => s.offNow k fuel) s
      (s.setUnit u { s.unit u with rp := false }).enterOff u

/-! ### Writes at their boundary (R453) -/

def State.unitEnabled (s : State) (u : UnitId) : State :=
  let v := s.unit u
  match v.st with
  | .off =>
    let s := s.startIf u
    match u with
    | .reckoner _ => if (s.unit u).st = .starting then s.startChildren u else s
    | _ => s
  | .starting => s.setUnit u { v with disable := false }
  | .on => s.setUnit u { v with cancel := false }
  | .stopping => s.setUnit u { v with rp := true }

/-- A stack that is ON refuses a disable or a reset while it may not retire (R241). -/
def State.refusesStop (s : State) (u : UnitId) : Bool :=
  match u with
  | .stack _ => s.isOn u && !s.mayRetire
  | _ => false

def State.refuseStop (s : State) (u : UnitId) : State :=
  match u with
  | .stack k => s.setStack k { s.stack k with refused := true }
  | _ => s

def State.unitDisabled (s : State) (u : UnitId) : State :=
  if s.refusesStop u then s.refuseStop u
  else
  let v := s.unit u
  match v.st with
  | .starting => s.setUnit u { v with disable := true }
  | .stopping => s.setUnit u { v with rp := false }
  | .on => s.stop u 4
  | .off => s

def State.unitReset (s : State) (u : UnitId) : State :=
  if s.refusesStop u then s.refuseStop u else (s.unitDisabled u).unitEnabled u

/-- A unit that has failed stops by the shortest stop it can make (R455). -/
def State.unitFailed (s : State) (u : UnitId) (atOnce : Bool) : State :=
  let v := s.unit u
  if v.st = .off then s
  else if atOnce || v.st == .starting then s.offNow u 4
  else s.stop u 4

/-- A Reckoner of a partial reset (R446): one that is STARTING completes its start, then stops and restarts; one that failed at start
starts again, unless it is too hot (R479). -/
def State.resetReckoner (s : State) (r : Fin 8) (zeroise : Bool) : State :=
  let u : UnitId := .reckoner r
  let s := s.setDie r { s.die r with resetting := true, zeroiseReset := zeroise }
  let s := s.setUnit u { s.unit u with enable := true }
  let v := s.unit u
  match v.st with
  | .starting => s.setUnit u { v with disable := true, rp := true }
  | .off => s.startAgain r
  | _ => s.unitReset u

/-- A partial reset by the Farrier, where its routine is on (R315, R460). -/
def State.farrierReset (s : State) (r : Fin 8) : State :=
  if !s.farrier 1 then s.noteFarrier 2 r.val 0x7FF
  else
    let s := ((s.setDie r { s.die r with farrier := true }).noteFarrier 2 r.val 0x7FF).farCount 3
    s.resetReckoner r false

/-! ### The boundary -/

/-- A unit found complete: STOPPING to OFF. -/
def State.finishStop (s : State) (u : UnitId) : State :=
  match u with
  | .plane p =>
    let s := s.replayPlane p
    if (s.unit u).st = .stopping ∧ s.stopReady u then s.enterOff u else s
  | _ => if (s.unit u).st = .stopping ∧ s.stopReady u then s.enterOff u else s

/-- A unit found complete: STARTING to ON. A spare that is loaded rests in OFF (R445). -/
def State.finishStart' (s : State) (u : UnitId) : State :=
  if (s.unit u).st ≠ .starting ∨ !s.startReady u then s
  else
    let rests := match u with
      | .core c => (s.core c).spare && (s.core c).subst.isNone
      | _ => false
    if rests then s.setUnit u { s.unit u with st := .off, done := false, disable := false, barred := true }
    else s.enterOn u

/-- Completions at a boundary, stops first and children before parents; then units that were ON only as the consistent point of a
disabled start (R453). -/
def State.unitsBoundary (s : State) : State :=
  let stopping := (s.units.filter fun e => e.2.2.st == .stopping).reverse
  let starting := s.units.filter fun e => e.2.2.st == .starting
  let cancelled := s.units.filter fun e => e.2.2.st == .on && e.2.2.cancel
  let s := stopping.foldl (fun (s : State) (e : Nat × UnitId × UnitRec) => s.finishStop e.2.1) s
  let s := starting.foldl (fun (s : State) (e : Nat × UnitId × UnitRec) => s.finishStart' e.2.1) s
  cancelled.foldl (fun (s : State) (e : Nat × UnitId × UnitRec) =>
    let rp := e.2.2.rp
    if (s.unit e.2.1).cancel then
      let s := s.stop e.2.1 4
      if rp then s.setUnit e.2.1 { s.unit e.2.1 with rp := true } else s
    else s) s

/-- After a change of source in a quadrant the Farrier re-enables, once, its planes that are OFF for a path fault or a feed failure
("Other substitutions"). -/
def State.planeRetries (s : State) : State :=
  (allFin 4).foldl (fun s q =>
    if (quadPlanes q).any fun p => (s.feed p).shown != (s.feed p).src then
      (quadPlanes q).foldl (fun s p =>
        let u := s.unit (.plane p)
        if u.st = .off ∧ u.enable ∧ (u.failed ∨ (s.feed p).pathFault) then
          let s := s.noteFarrier 5 p.val 0x7FF
          if !s.farrier 4 then s
          else
            let s := s.setFeed p { s.feed p with pathFault := false }
            ((s.setUnit (.plane p) { u with failed := false }).farCount 7).scheduleNext (.planeIn p)
        else s) s
    else s) s

/-! ### The laser block at a boundary -/

/-- A plane that waits to return is re-enabled, or, disabled by software, is left OFF (R283). -/
def State.comeBack (s : State) (p : Fin 16) : State :=
  let s := s.setFeed p { s.feed p with again := false }
  if (s.unit (.plane p)).enable then s.startIf (.plane p) else s.planeMoved p

/-- Planes of a quadrant whose taps have confirmed their source return (R278, R284); those that return together wait for the last. -/
def State.comeBackAll (s : State) (q : Fin 4) : State :=
  let waiting := (quadPlanes q).filter fun p => (s.feed p).again
  let ready := waiting.filter fun p =>
    (s.feed p).moving.isNone && !(s.feed p).waits && (s.unit (.plane p)).st == .off
  if (s.quad q).together then
    (if waiting.length = ready.length ∧ ((s.quad q).swap ≠ .allAtOnce ∨ s.toMove q = []) then
       ready.foldl (fun s p => s.comeBack p)
         (if (s.quad q).swap = .allAtOnce then s else s.setQuad q { s.quad q with together := false })
     else s)
  else ready.foldl (fun s p => s.comeBack p) s

/-- The laser block at a boundary: the sources shown follow, switches of planes now OFF are commanded, planes whose taps have
confirmed a source return, modes take effect, and swaps go on. LAS_SWAP_START carries the cartridge the planes move to. DESIGN
CHOICE, assumption 31. -/
def State.laserBoundary (s : State) : State :=
  let s := (allFin 16).foldl (fun s p =>
    let f := s.feed p
    if f.shown = f.src then s else s.setFeed p { f with shown := f.src }) s
  let s := (allFin 16).foldl (fun s p => s.takeLight p) s
  let s := (allFin 4).foldl (fun s q => (s.commandOff q).comeBackAll q) s
  ((allFin 8).foldl (fun s k => s.followMode k) s).swapBoundary

/-! ### The commands -/

/-- UNIT_ENABLE (R452): a Reckoner's start is through GRM_RST_CTL and its page alike. -/
def execUnitEnable (unit : UnitId) (cyc : Nat) (s : State) : Host.Outcome State Fault Refusal :=
  .next ((s.advance cyc).requestEnable unit)

/-- A write of 0 to a unit's enable. A memory stack refuses it while the map is not NORMAL (R241), and an ACTIVE cartridge has its own
rule (R288). -/
def State.writeDisable (s : State) (u : UnitId) : State :=
  match u with
  | .stack _ => if s.refusesStop u then s.refuseStop u else s.requestDisable u
  | .cartridge k => s.cartDisable k (s.regF (Reg.LAS_CARTk_CTL + 16 * k.val) 1 1 == 1)
  | _ => s.requestDisable u

def execUnitDisable (unit : UnitId) (cyc : Nat) (s : State) : Host.Outcome State Fault Refusal :=
  .next ((s.advance cyc).writeDisable unit)

/-- A reset write: enable reads 1 from now on (R452, R515). -/
def State.writeReset (s : State) (u : UnitId) : State :=
  if s.refusesStop u then s.refuseStop u else (s.setUnit u { s.unit u with enable := true }).schedule (.unitReset u)

def execUnitReset (unit : UnitId) (cyc : Nat) (s : State) : Host.Outcome State Fault Refusal :=
  .next ((s.advance cyc).writeReset unit)

/-- What a Reckoner's start has tested, where it is one: the lanes of its die-to-die bundles (R318), and the halves of its slices
when its reset zeroises (R433, R448). -/
def State.dieTested (s : State) (u : UnitId) (lanes : List (Fin 6 × Fin 1664 × Fin 68)) (halves : List (Fin 256 × Bool)) : State :=
  match u with
  | .reckoner d =>
    let s := s.retestLanes d lanes
    let z := (s.die d).zeroiseReset
    let s := s.fusePasses d (if z then some halves else none)
    if z then halves.foldl (fun (s : State) h => s.failHalf d h.1 h.2) s else s
  | _ => s

/-- UNIT_START_COMPLETE: the unit enters ON at the next boundary. A unit the module start waits for has completed its step, and the start
goes on. `lanes` are the lanes of a Reckoner's bundles that have failed their test, by class, bundle and lane, and
`halves` the slice halves that have, by core and die. -/
def execUnitStartComplete (report : UnitReport) (s : State) : Host.Outcome State Fault Refusal :=
  let unit := report.unit
  .next (if s.groom.waiting.contains unit then
      (s.stepEndsLate unit).stepDone unit
    else if (s.unit unit).st = .starting then (s.setUnit unit { s.unit unit with done := true }).dieTested unit report.lanes report.halves else s)

/-- UNIT_STOP_COMPLETE: what of the stop the model does not see is complete. -/
def execUnitStopComplete (unit : UnitId) (s : State) : Host.Outcome State Fault Refusal :=
  .next (if (s.unit unit).st = .stopping then s.setUnit unit { s.unit unit with done := true } else s)

/-- UNIT_FAIL (R455). A core that is STARTING has failed a start-up test (R432, R433), or, as a substitute, its own; a Reckoner, a
stack and a Bridle B0 have their own outcomes (R234, R450, R460); a cartridge that fails STARTING has health FAILED (R287). -/
def State.failByCommand (s : State) (u : UnitId) (atOnce : Bool) : State :=
  if (s.unit u).failed then s
  else match u with
    | .core c =>
      if (s.unit u).st ≠ .starting then s.failUnit u atOnce
      else if (s.core c).subst.isSome then (s.setCore c { s.core c with failCode := 1 }).failUnit u true
      else
        let s := s.setUnit u { s.unit u with st := .off, done := false, disable := false }
        s.replaceCore c 1 fun _ _ => true
    | .reckoner r => if (s.unit u).st = .off then s else s.reckonerFails r atOnce
    | .stack k => s.detectLoss k
    | .bridle b => if b = 0 then s.moduleFatal (blkBRD 0) else s.failUnit u atOnce
    | .edu => s.moduleFatal blkEDU
    | .stable => s.moduleFatal blkSTB
    | .cartridge k =>
      if (s.unit u).st = .starting then (s.setCart k { s.cart k with health := .failed }).failUnit u true
      else if s.isOn u then s.suddenLoss k else s
    | .field r e => if (s.unit u).st = .off then s else s.failUnit (.field r e) true
    | _ => s.failUnit u atOnce

def execUnitFail (unit : UnitId) (atOnce : Bool) (s : State) : Host.Outcome State Fault Refusal :=
  .next (s.failByCommand unit atOnce)

end Sys2Proof.Machine
end

