-- ==== Sys2Proof/Machine/Power.lean ====
section
/-! DEFINITION. The power states (R485 to R488). -/

namespace Sys2Proof.Machine

/-- The next state on the way from state `a` to target `t` (R486). -/
def powerEdge (a t : Nat) : Option Nat :=
  if a = t then none
  else if t = 4 then some 4
  else if a = 0 then some (if t = 1 then 1 else 2)
  else if a = 1 then some (if t = 0 then 0 else 2)
  else if a = 2 then some (if t = 3 then 3 else 0)
  else some 0

/-- The lanes of every Bridle. -/
def laneUnits : List UnitId := (allFin 4).flatMap fun b => (allFin 32).map fun l => UnitId.lane b l

/-- The units that a return from STANDBY starts, in order; the planes follow their cartridges. -/
def standbyUnits : List UnitId :=
  (allFin 8).map .cartridge ++ [.allocator, .edu] ++ (allFin 2).map .engine
    ++ laneUnits ++ (allFin 16).map .plane

def reckonerUnits : List UnitId := (allFin 8).map .reckoner

/-- Units whose enables are 1 start; a Reckoner with its fields (R448). -/
def State.startEnabled (s : State) (l : List UnitId) : State :=
  l.foldl (fun s u => if (s.unit u).enable && (s.unit u).st == UState.off then s.unitEnabled u else s) s

/-- Units stop. A lane that trains is dark at once: it carries nothing. -/
def State.stopAll (s : State) (l : List UnitId) : State :=
  l.foldl (fun s u => match u with
    | .lane .. => if (s.unit u).st = .starting then s.offNow u 4 else s.stop u 4
    | _ => s.stop u 4) s

/-- Everything on VIN_48 OFF (R485). -/
def State.powerOff (s : State) : State :=
  let s := s.unitsOff
  { s with sup := { s.sup with open_ := true }, groom := { s.groom with ready := false } }

/-- The step to state `n` begins. On the way to OFF the lanes stop first (R487). -/
def State.beginMove (s : State) (n : Nat) : State :=
  let was := s.power.state
  let s := { s with power := { s.power with moving := some n, stepAt := s.clk.bnd } }
  match n with
  | 2 => s.stopAll reckonerUnits
  | 3 => s.stopAll standbyUnits
  | 4 => s.stopAll laneUnits
  | 0 =>
    if was = 4 then { s with sup := { s.sup with startDue := true } }
    else if was = 3 then (s.startEnabled standbyUnits).startEnabled reckonerUnits
    else if was = 2 then s.startEnabled reckonerUnits
    else s
  | _ => s

/-- The module moves on towards its target unless a step is in progress or a zeroisation runs (R486, R495). -/
def State.moveOn (s : State) : State :=
  if s.power.moving.isSome || s.sec.zeroising then s
  else match powerEdge s.power.state s.power.target with
    | some n => s.beginMove n
    | none => s

/-- A target that takes effect at its boundary. -/
def State.powerTarget (s : State) (t : Nat) : State := ({ s with power := { s.power with target := t } }).moveOn

def State.allIdle (s : State) (l : List UnitId) (st : UState) : Bool := l.all fun u => (s.unit u).st != st

/-- The step in progress has come to its end, as far as the model shows it. -/
def State.moveReady (s : State) (n : Nat) : Bool :=
  let off (l : List UnitId) := l.all fun u => (s.unit u).st == UState.off
  match n with
  | 1 => decide (s.power.stepAt + 2 ≤ s.clk.bnd)
  | 2 => off reckonerUnits
  | 3 => off standbyUnits
  | 4 => off laneUnits
  | _ =>
    if s.power.state = 1 then decide (s.power.stepAt + 2 ≤ s.clk.bnd)
    else if s.power.state = 4 then false
    else s.allIdle reckonerUnits .starting && s.allIdle (standbyUnits.filter fun u => match u with
      | .lane .. => false
      | _ => true) .starting

/-- What a state entered brings: STANDBY loses the Tally contents, which the next start of each Reckoner sets to zero; in OFF everything on
VIN_48 is OFF. -/
def State.enterPower (s : State) (n : Nat) : State :=
  if n = 4 then s.powerOff
  else if n = 3 then (allFin 8).foldl (fun s r => s.setDie r { s.die r with zeroiseReset := true }) s else s

/-- POWER_STATE_STEP_COMPLETE (R486): a completed step moves on towards the newest target. OFF to ACTIVE completes with the module
start. -/
def execPowerStateStepComplete (s : State) : Host.Outcome State Fault Refusal :=
  .next (match s.power.moving with
    | none => s
    | some n =>
      if !s.moveReady n then s
      else (({ s with power := { s.power with state := n, moving := none } }).enterPower n).moveOn)

/-- A write of PWR_STATE_CTL (R486): 5 to 7 are ignored and set refused. -/
def State.writePower (s : State) (val : Word) : State :=
  let t := val.field 2 0
  if 4 < t then { s with power := { s.power with refused := true } }
  else (s.setReg Reg.PWR_STATE_CTL (BitVec.ofNat 32 t)).schedule (.powerTarget t)

/-- POWER_STATE_TARGET (R486, R488). -/
def execPowerStateTarget (src : Source) (val : Word) (cyc : Nat) (s : State) : Host.Outcome State Fault Refusal :=
  let s := s.advance cyc
  .next (if s.mayWrite src Reg.PWR_STATE_CTL then s.writePower val else s)

/-- Gaits at a boundary (R32, R483): each field runs at what RKN_GAIT_CTL requests in force, capped at WALK in IDLE. -/
def State.applyGaits (s : State) : State :=
  (allFin 8).foldl (fun s r =>
    let k := Reg.RKN_GAIT_CTL + r.val * 0x10000
    let cap (g : Nat) := if s.power.state = 1 then 0 else g
    s.setDie r { s.die r with westGait := cap (s.liveF k 31 30), eastGait := cap (s.liveF k 29 28) }) s

end Sys2Proof.Machine
end

