-- ==== Sys2Proof/Machine/Security.lean ====
section
/-! DEFINITION. Lifecycle, debug levels and their authentication, zeroisation, the key store and link encryption (R489 to R504). -/

namespace Sys2Proof.Machine

/-! ### Challenge and response (R492 to R494) -/

/-- The OTP hash of the key that a request needs (R489, R494); none where no key grants it. `req` is laid out as SEC_DBG_CTL. -/
def State.keyFor (s : State) (req : Word) : Option (List Word) :=
  let level := req.field 29 28
  let target := req.field 27 26
  let c := s.sec
  if req.bit 25 then
    (if (c.lifecycle = 1 ∧ (target = 2 ∨ target = 3)) ∨ (c.lifecycle = 2 ∧ target = 3) then some c.rootHash else none)
  else if c.lifecycle = 2 ∧ level = 2 ∧ c.level < 2 then some c.rootHash
  else if c.lifecycle = 2 ∧ level = 1 ∧ c.level < 1 then some c.debugHash
  else if (c.lifecycle = 1 ∨ c.lifecycle = 3) ∧ level = 2 ∧ c.level < 2 then some c.debugHash
  else none

def State.setStatus (s : State) (n : Nat) : State := { s with sec := { s.sec with dbgStatus := n } }

/-- Eight words of a fresh nonce. -/
def State.nonce (s : State) : List Word × State :=
  ((List.range 8).map fun i => BitVec.ofNat 32 (Config.freeValue (s.freeCount + i)), { s with freeCount := s.freeCount + 8 })

/-- CHALLENGE is refused after three failed SUBMITs until 2^26 strides have passed. -/
def State.lockedOut (s : State) : Bool :=
  match s.sec.lockout with
  | some b => decide (s.clk.bnd < b)
  | none => false

/-- op CHALLENGE. -/
def State.challengeOp (s : State) (val : Word) : State :=
  if s.lockedOut then s.setStatus 4
  else if (s.keyFor val).isNone then s.setStatus 2
  else
    let got := s.nonce
    let n := got.1
    let s := got.2
    let block := n ++ [s.sec.serial, BitVec.ofNat 32 (putBits 29 25 (val.field 29 25)), s.groom.boot, 0]
    { s with sec := { s.sec with challenge := some (block, s.clk.bnd + 2 ^ 20), request := val, readFifo := block,
                                 writeFifo := [], dbgStatus := 0 } }

/-- A submission verifies: the digest of the key is the OTP hash, and the signature is over the digest of the challenge block. -/
def submissionGood (hash block sub : List Word) : Bool :=
  let key := (bytesOf (sub.take 25)).take 97
  decide (sub.length = 49) && sha384 key == bytesOf hash && ecdsaVerify key (sha384 (bytesOf block)) (bytesOf (sub.drop 25))

/-- A failed SUBMIT. -/
def State.submitFails (s : State) : State :=
  let n := s.sec.fails + 1
  let s := { s with sec := { s.sec with
      dbgStatus := 1, challenge := none, writeFifo := [], authFail := min 255 (s.sec.authFail + 1)
      fails := if n = 3 then 0 else n, lockout := if n = 3 then some (s.clk.bnd + 2 ^ 26) else s.sec.lockout } }
  s.logFault Flt.SEC_AUTH_FAIL blkSEC 0

/-- An accepted SUBMIT: the grant, or first the zeroisation, is for the next boundary. -/
def State.submitGood (s : State) (req : Word) : State :=
  let s := { s with sec := { s.sec with dbgStatus := 0, challenge := none, writeFifo := [], authFail := 0, fails := 0 } }
  let target := req.field 27 26
  let level := req.field 29 28
  if req.bit 25 then
    (if target = 3 then ({ s with sec := { s.sec with lcRequest := true } }).schedule .zeroise
     else s.schedule (.levelGrant (4 + target)))
  else if s.sec.lifecycle = 2 ∧ level = 2 then s.schedule .zeroise
  else s.schedule (.levelGrant level)

/-- op SUBMIT. -/
def State.submitOp (s : State) : State :=
  match s.sec.challenge with
  | none => s.setStatus 3
  | some (block, until_) =>
    if until_ ≤ s.clk.bnd then ({ s with sec := { s.sec with challenge := none } }).setStatus 3
    else match s.keyFor s.sec.request with
      | none => s.submitFails
      | some hash =>
        if submissionGood hash block (s.sec.writeFifo.take 49) then s.submitGood s.sec.request else s.submitFails

/-- op REVOKE (R493, R496). BLANK is always INTRUSIVE. -/
def State.revokeOp (s : State) (val : Word) : State :=
  let n := val.field 29 28
  if s.sec.lifecycle = 0 then s.setStatus 2
  else if s.sec.zeroising ∧ n < 2 then
    ({ s with sec := { s.sec with revokeTo := some n } }).setStatus 0
  else if n < s.sec.level then ({ s with sec := { s.sec with level := n } }).setStatus 0
  else s.setStatus 2

/-- op PROVISION (R489): the record is 25 words. -/
def State.provisionOp (s : State) : State :=
  let ws := s.sec.writeFifo
  if s.sec.lifecycle ≠ 0 ∨ s.sec.otp ≠ 0 ∨ ws.length < 25 then s.setStatus 2
  else
    let got := s.takeFree
    let k := got.1
    let s := got.2
    let s := { s with sec := { s.sec with writeFifo := [], lcPending := true, lcTarget := 1, dbgStatus := 0 } }
    s.fuseWrite (.provision (ws.take 12) ((ws.drop 12).take 12) (ws.getD 24 0) (1 + k % (p384N - 1)))

/-- op PUBKEY (R499): the device public key in 25 words. -/
def State.pubkeyOp (s : State) : State :=
  let key := writePoint (publicKey s.sec.deviceKey) ++ [0, 0, 0]
  { s with sec := { s.sec with readFifo := wordsOf key, dbgStatus := 0 } }

/-- A write of SEC_DBG_CTL. -/
def State.writeDebug (s : State) (val : Word) : State :=
  let s := s.setReg Reg.SEC_DBG_CTL (val &&& 0x3E000000)
  match val.field 24 22 with
  | 1 => s.challengeOp val
  | 2 => s.submitOp
  | 3 => s.revokeOp val
  | 4 => s.provisionOp
  | 5 => s.pubkeyOp
  | _ => s

def State.debugWrite (s : State) (src : Source) (val : Word) (op : Nat) : State :=
  if s.mayWrite src Reg.SEC_DBG_CTL then s.writeDebug (val.setField 24 22 op) else s

def execDebugChallenge (src : Source) (val : Word) (s : State) : Host.Outcome State Fault Refusal := .next (s.debugWrite src val 1)
def execDebugSubmit (src : Source) (val : Word) (cyc : Nat) (s : State) : Host.Outcome State Fault Refusal :=
  .next ((s.advance cyc).debugWrite src val 2)
def execDebugRevoke (src : Source) (val : Word) (s : State) : Host.Outcome State Fault Refusal := .next (s.debugWrite src val 3)
def execProvision (src : Source) (val : Word) (s : State) : Host.Outcome State Fault Refusal := .next (s.debugWrite src val 4)
def execPubkey (src : Source) (val : Word) (s : State) : Host.Outcome State Fault Refusal := .next (s.debugWrite src val 5)

/-- The next word of SEC_AUTH_DATA; with no block to read, the word last written (R9). -/
def State.readAuth (s : State) : Word × State :=
  match s.sec.readFifo with
  | w :: t => (w, { s with sec := { s.sec with readFifo := t } })
  | [] => (s.reg Reg.SEC_AUTH_DATA, s)

/-- AUTH_DATA_READ (R492). -/
def execAuthDataRead (src : Source) (s : State) : Host.Outcome State Fault Refusal :=
  .next (if s.mayRead src Reg.SEC_AUTH_DATA then
      let got := s.readAuth
      let w := got.1
      let s := got.2
      s.emit (.regData src Reg.SEC_AUTH_DATA w)
    else s)

def State.writeAuth (s : State) (val : Word) : State :=
  { s.setReg Reg.SEC_AUTH_DATA val with sec := { s.sec with writeFifo := s.sec.writeFifo ++ [val] } }

/-- AUTH_DATA_WRITE (R492). -/
def execAuthDataWrite (src : Source) (val : Word) (s : State) : Host.Outcome State Fault Refusal :=
  .next (if s.mayWrite src Reg.SEC_AUTH_DATA then s.writeAuth val else s)

/-- CHALLENGE_EXPIRY (R492). -/
def execChallengeExpiry (s : State) : Host.Outcome State Fault Refusal :=
  .next (match s.sec.challenge with
    | some (_, b) => if s.clk.bnd < b then s else { s with sec := { s.sec with challenge := none } }
    | none => s)

/-- AUTH_LOCKOUT_EXPIRY (R492). -/
def execAuthLockoutExpiry (s : State) : Host.Outcome State Fault Refusal :=
  .next (match s.sec.lockout with
    | some b => if s.clk.bnd < b then s else { s with sec := { s.sec with lockout := none } }
    | none => s)

/-! ### Zeroisation (R495 to R497) -/

/-- Every register of `l`, behind each of its selected instances, back at its reset value. -/
def State.clearRegs (s : State) (l : List Nat) : State :=
  let keep (p : Nat × Word) := !(l.contains (p.1 % bankStep))
  { s with regs := s.regs.filter keep, live := s.live.filter keep }

/-- Bit 31 or bit 0 of a register 0, as written and in force. -/
def State.clearBit (s : State) (key bit : Nat) : State :=
  (s.setRegF key bit bit 0).setLive key ((s.live.getD key (regReset (key % bankStep))).setField bit bit 0)

/-- Step 1: windows and rings disabled, lanes stopping. -/
def State.zeroStop (s : State) : State :=
  let s := (List.range 64).foldl (fun s f => s.clearBit (bank f Reg.PCI_WIN_LO) 0) s
  let s := (List.range 64).foldl (fun s n => s.clearBit (crReg n Reg.STB_CRn_CTL) 31) s
  let s := (allFin 16).foldl (fun s u => ((s.setRegF (uplinkReg u Reg.FAB_UPL_CTL) 31 30 0).uplinkTxEnable u false).uplinkRxEnable u false) s
  s.stopAll ((allFin 4).flatMap fun b => (allFin 32).map fun l => UnitId.lane b l)

/-- Step 2: the key store and the key map erased. -/
def State.eraseKeys (s : State) : State :=
  ({ s with
      sec := { s.sec with slots := [] }
      due := s.due.filter fun e => match e.2 with
        | .keyBind .. => false
        | _ => true }).clearRegs [Reg.MEM_KEY_MAP]

def State.allCounters (s : State) : List CounterId := State.revokeJob.counterList s

/-- Step 3: Reckoners reset with zeroise 1, Hitch counters ORPHANED. -/
def State.zeroReckoners (s : State) : State :=
  let got := s.takeFree
  let c := got.1
  let s := got.2
  let s := s.allCounters.foldl (fun s k => s.enterOrphaned k (c % 8)) s
  let n := s.sec.zeroPower
  if n ≤ 1 then (allFin 8).foldl (fun s r => s.resetReckoner r true) s
  else if n = 2 then (allFin 8).foldl (fun s r => (s.setDie r { s.die r with zeroiseReset := true }).unitEnabled (.reckoner r)) s
  else s

/-- A zeroisation begins at its boundary (R497), adapted to the power state (R495). -/
def State.zeroise (s : State) : State :=
  if s.sec.zeroising then s
  else
    let s := { s with sec := { s.sec with zeroising := true, zeroWait := none, zeroPower := s.power.state, revokeTo := none } }
    if s.power.state = 4 then s.eraseKeys else s.zeroStop.eraseKeys.zeroReckoners

/-- The Reckoners have ended step 3. -/
def State.reckonersZeroed (s : State) : Bool :=
  (allFin 8).all fun r => let u := s.unit (.reckoner r)
    u.st != .starting && u.st != .stopping && !u.rp && !(s.due.any fun e => match e.2 with
      | .unitReset v => v == .reckoner r
      | .unitEnable v => v == .reckoner r
      | _ => false)

/-- Step 4: the Stable manager and the EDU OFF, the Stable store and the Bridles' replay buffers zeroised. -/
def State.zeroStore (s : State) : State :=
  let s := (s.offNow .stable 4).offNow .edu 4
  { s with
      stb := .reset, edu := .reset
      brd := { s.brd with strands := s.brd.strands.mapVals fun _ (v : Strand) =>
        { v with unacked := [], queue := [], reorder := [], partial_ := [] } } }

/-- Step 5: every DRAM line zero with tag 0, but for a stack whose write failed; tables and tags at their reset values. -/
def State.zeroMemory (s : State) : State :=
  let s := { s with
      mem := s.mem.filter fun c => decide (tallyBase ≤ c.1)
      dram := { s.dram with lines := [], slotMeta := [], slotClean := [], retired := true, lineErr := [], newPoison := [] }
      fab := { s.fab with ingress := [], leases := [] } }
  s.clearRegs [Reg.SEC_TAG_DATA]

/-- Hitch counters ORPHANED become FREE. -/
def State.freeOrphans (s : State) : State :=
  s.allCounters.foldl (fun s k => let v := s.ctr k; if v.st = .orphaned then s.setCtr k { v with st := .free } else s) s

/-- The zeroisation ends at the next boundary. -/
def State.zeroLast (s : State) : State := s.scheduleNext (.levelGrant 3)

/-- ZEROISATION_COMPLETE (R497): the steps are done; a stack that fails a write of step 5 has its supply opened, and step 6 then waits
1 s. -/
def execZeroisationComplete (failed : Option (Fin 24)) (s : State) : Host.Outcome State Fault Refusal :=
  .next (if !s.sec.zeroising then s
    else if s.sec.zeroPower = 4 then s.zeroLast
    else match s.sec.zeroWait with
      | some b => if s.clk.bnd < b then s else s.zeroLast
      | none =>
        if !s.reckonersZeroed then s
        else
          let s := if s.sec.zeroPower = 2 then s.stopAll reckonerUnits else s
          let s := s.freeOrphans.zeroStore.zeroMemory
          match failed with
          | some k =>
            let s := s.detectLoss k
            { s with sec := { s.sec with zeroWait := some (s.clk.bnd + 976563) } }
          | none => s.zeroLast)

/-- Step 6: the level is INTRUSIVE, or what a REVOKE has asked for; a transition to RETURNED is blown. -/
def State.endZeroise (s : State) : State :=
  if !s.sec.zeroising then s
  else
    let lc := s.sec.lcRequest
    let s := { s with sec := { s.sec with zeroising := false, zeroWait := none, level := s.sec.revokeTo.getD 2, revokeTo := none,
                                          lcRequest := false } }
    let s := s.logFault Flt.SEC_ZEROISED blkSEC 0
    let s := if lc then ({ s with sec := { s.sec with lcPending := true, lcTarget := 3 } }).fuseWrite (.lifecycle 3) else s
    s.moveOn

/-- A grant at its boundary: a level, the end of a zeroisation, or a lifecycle. -/
def State.levelGrant (s : State) (n : Nat) : State :=
  if n < 3 then { s with sec := { s.sec with level := n } }
  else if n = 3 then s.endZeroise
  else ({ s with sec := { s.sec with lcPending := true, lcTarget := n - 4 } }).fuseWrite (.lifecycle (n - 4))

/-! ### The key store (R498 to R500) -/

/-- A job is bound to a memory slot. -/
def State.slotBound (s : State) (slot : Nat) : Bool :=
  (s.regs ++ s.live).any fun (k, w) => decide (k % bankStep = Reg.MEM_KEY_MAP) && w.bit 31 && w.field 11 4 == slot

/-- The address of the blob. -/
def State.blobAddr (s : State) : Nat := s.regF Reg.SEC_KEY_ADDR_HI 11 0 * 2 ^ 32 + s.regF Reg.SEC_KEY_ADDR_LO 31 8 * 256

/-- The key in a blob, where it names the slot and unwraps. -/
def State.unwrapBlob (s : State) (blob : List Byte) (slot : Nat) : Option (List Byte) :=
  let info := (blob.drop 100).take 4
  if leNat info ≠ slot ∨ 257 < slot then none
  else match readPoint (blob.take 97) with
    | none => none
    | some q =>
      let kek := hkdf384 (natLe s.sec.serial.toNat 4) (ecdh s.sec.deviceKey q) info
      (keyUnwrap kek ((blob.drop 104).take 72)).map fun k => if slot < 256 then k else k.take 32

def State.slotOf_ (s : State) (slot : Nat) : KeySlot := s.sec.slots.getD slot .reset
def State.keyStatus (s : State) (n : Nat) : State := { s with sec := { s.sec with keyStatus := n } }

/-- The key of the blob in memory for a slot, where the blob is good (R503). -/
def State.readBlob (s : State) (slot : Nat) : Option (List Byte) × State :=
  let got := s.load (engineAccess 0 blkSEC) s.blobAddr 256
  let s := got.2.2
  (if got.2.1 = .ok then s.unwrapBlob got.1 slot else none, s)

/-- op LOAD. -/
def State.keyLoad (s : State) (slot : Nat) : State :=
  if s.slotBound slot then s.keyStatus 1
  else
    let got := s.readBlob slot
    let s := got.2
    match got.1 with
    | none => s.keyStatus 2
    | some k =>
      ({ s with sec := { s.sec with slots := s.sec.slots.put slot ⟨k, ((s.slotOf_ slot).gen + 1) % 16⟩ } }).keyStatus 0

/-- op ERASE. -/
def State.keyErase (s : State) (slot : Nat) : State :=
  if s.slotBound slot then s.keyStatus 1
  else ({ s with sec := { s.sec with slots := s.sec.slots.put slot { s.slotOf_ slot with key := [] } } }).keyStatus 0

/-- MEM_KEY_MAP of a job written, with effect at its boundary (R229). -/
def State.mapKey (s : State) (job tag : Nat) : State :=
  let w := BitVec.ofNat 32 (tag / 4096 * 2 ^ 31 + tag % 4096)
  (s.setReg (bank job Reg.MEM_KEY_MAP) w).schedule (.keyBind job tag)

/-- The mapping of a job comes into force. -/
def State.keyBound (s : State) (job tag : Nat) : State :=
  s.setLive (bank job Reg.MEM_KEY_MAP) (BitVec.ofNat 32 (tag / 4096 * 2 ^ 31 + tag % 4096))

/-- op BIND. -/
def State.keyBind (s : State) (slot job : Nat) : State :=
  if job = 0 then s.keyStatus 3
  else if 255 < slot ∨ (s.slotOf_ slot).key = [] then s.keyStatus 2
  else (s.mapKey job (4096 + slot * 16 + (s.slotOf_ slot).gen)).keyStatus 0

/-- A write of SEC_KEY_CMD (R500). -/
def State.writeKeyCmd (s : State) (val : Word) : State :=
  let s := s.setReg Reg.SEC_KEY_CMD (val &&& 0x001FFFFF)
  let slot := val.field 20 12
  let job := val.field 11 0
  let op := val.field 31 29
  if op = 0 ∨ 4 < op then s
  else if s.sec.lifecycle = 0 ∨ s.sec.lifecycle = 3 then s.keyStatus 3
  else match op with
    | 1 => s.keyLoad slot
    | 2 => s.keyErase slot
    | 3 => s.keyBind slot job
    | _ => (s.mapKey job 0).keyStatus 0

def State.keyCommand (s : State) (src : Source) (val : Word) (op : Nat) : State :=
  if s.mayWrite src Reg.SEC_KEY_CMD then s.writeKeyCmd (val.setField 31 29 op) else s

def execKeyLoad (src : Source) (val : Word) (s : State) : Host.Outcome State Fault Refusal := .next (s.keyCommand src val 1)
def execKeyErase (src : Source) (val : Word) (s : State) : Host.Outcome State Fault Refusal := .next (s.keyCommand src val 2)
def execKeyBind (src : Source) (val : Word) (cyc : Nat) (s : State) : Host.Outcome State Fault Refusal :=
  .next ((s.advance cyc).keyCommand src val 3)
def execKeyUnbind (src : Source) (val : Word) (cyc : Nat) (s : State) : Host.Outcome State Fault Refusal :=
  .next ((s.advance cyc).keyCommand src val 4)

/-! ### Link encryption (R502 to R504) -/

/-- A write of SEC_LINK_CTL: with switch 1 its enable and key are staged for the boundary SEC_LINK_AT names, at least 16 boundaries
ahead (R383). -/
def State.writeLink (s : State) (val : Word) : State :=
  let s := s.setReg Reg.SEC_LINK_CTL (val &&& 0xC0000000)
  let n := s.reg Reg.SEC_LINK_AT
  let ahead := (n - BitVec.ofNat 32 s.clk.stride.toNat).toNat
  if !val.bit 26 then s
  else if ahead < 16 ∨ 2 ^ 31 ≤ ahead then { s with link := { s.link with status := 4 } }
  else { s with link := { s.link with pending := some n, stEnable := val.bit 31, stKey := val.bit 30, status := 0 } }

/-- LINK_ENCRYPTION_SWITCH (R504). -/
def execLinkEncryptionSwitch (src : Source) (val : Word) (s : State) : Host.Outcome State Fault Refusal :=
  .next (if s.mayWrite src Reg.SEC_LINK_CTL then s.writeLink (val.setField 26 26 1) else s)

/-- The staged switch at its boundary, or after a rebase that has skipped it (R384, R504). The codeword counters restart with a key. -/
def State.linkSwitch (s : State) (rebased : Bool) : State :=
  let now := BitVec.ofNat 32 s.clk.stride.toNat
  match s.link.pending with
  | none => s
  | some n =>
    if now = n ∨ (rebased ∧ notBefore now n) then
      let fresh := s.link.stKey != s.link.key
      { s with
          link := { s.link with pending := none, on := s.link.stEnable && s.sec.lifecycle != 3, key := s.link.stKey }
          brd := { s.brd with strands := if fresh then s.brd.strands.mapVals fun _ (v : Strand) =>
            { v with counter := 0, warned := false } else s.brd.strands } }
    else s

end Sys2Proof.Machine
end

