-- ==== Sys2Proof/Machine/Supplies.lean ====
section
/-! DEFINITION. Supplies and MOD_RESET_N (R531 to R536). -/

namespace Sys2Proof.Machine

/-- The state of the endpoint's link, as PCI_LINK_STAT shows it. -/
def State.setLink (s : State) (n : Nat) : State := s.setReg Reg.PCI_LINK_STAT ((s.reg Reg.PCI_LINK_STAT).setField 31 20 (n * 512))

/-- A supply of the module is lost: module-fatal, and the module stays stopped until MOD_RESET_N has been asserted; in OFF, and while
MOD_RESET_N is asserted, nothing more follows (R536). -/
def State.supplyLost (s : State) : State :=
  if s.power.state = 4 ∨ s.sup.modReset then s
  else
    let s := s.moduleFatal blkPWR
    { s with sup := { s.sup with stuck := true, open_ := true } }

/-- VIN48_LOSS (R533, R536). -/
def execVin48Loss (s : State) : Host.Outcome State Fault Refusal :=
  .next ({ s with sup := { s.sup with vin48 := false } }).supplyLost

/-- ANALOG_RAIL_LOSS (R536). Without VIO_1V2 the endpoint's SerDes has no supply (R531). -/
def execAnalogRailLoss (vio : Bool) (s : State) : Host.Outcome State Fault Refusal :=
  let s := if vio then ({ s with sup := { s.sup with vio := false } }).setLink 0 else { s with sup := { s.sup with vana := false } }
  .next s.supplyLost

/-- A cartridge loses its supply: a sudden loss that leaves its health as it is (R536). -/
def State.cartUnfed (s : State) (k : Fin 8) : State :=
  let h := (s.cart k).health
  let s := s.suddenLoss k
  s.setCart k { s.cart k with health := h }

/-- VLAS12_LOSS (R536): every cartridge goes dark, so that no spare is fit. -/
def execVlas12Loss (s : State) : Host.Outcome State Fault Refusal :=
  let on := (allFin 8).filter fun k => s.isOn (.cartridge k)
  let s := { s with sup := { s.sup with vlas := false } }
  let s := (allFin 8).foldl (fun s k => s.setUnit (.cartridge k)
    { s.unit (.cartridge k) with st := .off, rp := false, done := false, disable := false, cancel := false }) s
  .next (on.foldl (fun s k => s.cartUnfed k) s)

/-- VLAS12_RETURN (R536): each cartridge whose enable is 1 starts under R287. -/
def execVlas12Return (s : State) : Host.Outcome State Fault Refusal :=
  .next (if s.sup.vlas then s
    else
      let s := { s with sup := { s.sup with vlas := true } }
      (allFin 8).foldl (fun s k =>
        if (s.unit (.cartridge k)).enable then s.scheduleNext (.unitEnable (.cartridge k)) else s) s)

/-- VSTBY_LOSS (R536): a hardware shutdown. Deferred records and keys are lost; no event-log write is started. -/
def execVstbyLoss (s : State) : Host.Outcome State Fault Refusal :=
  let s := s.unitsOff
  let s := { s with
      sup := { s.sup with vstby := false, open_ := true }
      flt := { s.flt with deferred := [], flight := [] }
      sec := { s.sec with slots := [] }
      groom := { s.groom with ready := false, phase := 0 } }
  .next (s.setLink 0)

/-- VSTBY_RETURN (R422): a module start follows. -/
def execVstbyReturn (s : State) : Host.Outcome State Fault Refusal :=
  .next (if s.sup.vstby then s else { s with sup := { s.sup with vstby := true, stuck := false, startDue := true } })

/-- MOD_RESET_ASSERT (R536): every unit OFF at once, every lane dark. THERMTRIP_N is released where every sensor has cooled (R480). -/
def execModResetAssert (s : State) : Host.Outcome State Fault Refusal :=
  let s := s.unitsOff
  .next { s with
      sup := { s.sup with modReset := true, stuck := false, startDue := false }
      therm := { s.therm with trip := s.therm.trip && !s.cooled }
      groom := { s.groom with ready := false, phase := 0 } }

end Sys2Proof.Machine
end

