-- ==== Sys2Proof/Machine/RegView.lean ====
section
/-! DEFINITION. What the registers read whose contents live elsewhere in the state than where the last written word is kept. -/

namespace Sys2Proof.Machine

/-- A word with the bits of `m` taken from `v`. -/
def blend (old v m : Word) : Word := (old &&& ~~~m) ||| (v &&& m)

/-- A word of a number. -/
def word (n : Nat) : Word := BitVec.ofNat 32 n

/-- A signed number saturated to 16 bits. -/
def sat16 (v : Int) : Nat := unsignedOf 16 (max (-32768) (min 32767 v))

/-- The unit of a page's header (R516, R523). -/
def pageUnit (t i : Nat) : Option UnitId :=
  match t with
  | 0x9 => some .allocator
  | 0xC => some .edu
  | 0xD => some .stable
  | 0x19 => some (.engine (Fin.ofNat 2 i))
  | 0x11 => some (.bridle (Fin.ofNat 4 i))
  | 0x18 => some (.stack (Fin.ofNat 24 i))
  | 0x13 => some (.port (Fin.ofNat 64 i))
  | 0x14 => some (.reckoner (Fin.ofNat 8 i))
  | _ => none

/-- The word of BLK_STATE of a unit; the same layout heads the status words of slots, lanes, cartridges and cores. -/
def UnitRec.word (v : UnitRec) : Nat := putBits 31 30 v.st.code + putBits 29 29 (bitOf v.rp)

/-! ### Paddock identity and Groom pages -/

/-- The words of the event-log record with a number, 0 where the log does not hold it (R529). -/
def State.logWord (s : State) (number : Word) (n : Nat) : Word :=
  let first := s.flt.written - BitVec.ofNat 32 s.flt.log.length
  match s.flt.log[(number - first).toNat]? with
  | some r => r.words.getD n 0
  | none => 0

/-- GRM_YIELD_STAT for the class and instance of GRM_YIELD_SEL. -/
def State.yieldWord (s : State) : Nat :=
  let cls := s.regF Reg.GRM_YIELD_SEL 10 8
  let inst := s.regF Reg.GRM_YIELD_SEL 7 0
  let (a, b, c) := s.groom.yieldCnt.getD (cls * 256 + if cls = 3 then 0 else inst) (0, 0, 0)
  let spares := if cls = 0 ∧ inst < 8 then (s.hotSpares (Fin.ofNat 8 inst)).length else 0
  if 3 < cls then 0
  else putBits 31 24 (min a 255) + putBits 23 16 (min b 255) + putBits 15 8 (min c 255) + spares

def State.viewGroom (s : State) (off : Nat) (old : Word) : Word :=
  let g := s.groom
  match off with
  | 0x100 =>
    let other := if g.active then g.role0 else g.role1
    word (putBits 31 28 g.phase + putBits 27 27 (bitOf g.active) + putBits 26 26 (bitOf g.slotB)
      + putBits 25 25 (bitOf (other != .absent)) + min g.elapsed 65535)
  | 0x104 => g.bootCfg
  | 0x110 => word s.yieldWord
  | 0x11C => word (putBits 31 16 g.outVersion + putBits 15 8 g.outIndex + putBits 7 0 g.rollback)
  | 0x180 =>
    word (putBits 31 30 g.role0.code + putBits 29 28 g.role1.code + putBits 27 26 (s.restartsOf 0).length
      + putBits 25 24 (s.restartsOf 1).length + putBits 23 16 g.epoch.toNat + min g.switchovers 65535)
  | 0x188 => word g.seq.toNat
  | 0x18C => word (g.seq.toNat / 2 ^ 32)
  | 0x1C0 => s.flt.written
  | 0x1C8 => s.logWord (s.reg Reg.GRM_LOG_SEL) 0
  | 0x1CC => s.logWord (s.reg Reg.GRM_LOG_SEL) 1
  | 0x1D0 => s.logWord (s.reg Reg.GRM_LOG_SEL) 2
  | 0x1D4 => s.logWord (s.reg Reg.GRM_LOG_SEL) 3
  | _ => old

/-! ### Power, thermal, security and snapshot pages -/

def State.viewPower (s : State) (off : Nat) (old : Word) : Word :=
  let p := s.power
  match off with
  | 0x104 =>
    word (putBits 31 29 p.state + putBits 28 26 p.target + putBits 25 25 (bitOf p.moving.isSome) + putBits 24 24 (bitOf p.refused))
  | 0x10C => word (putBits 31 16 p.avg1s + putBits 15 0 p.avg10ms)
  | 0x110 => word p.throttle
  | _ => old

def State.viewThermal (s : State) (off : Nat) (old : Word) : Word :=
  let cls := s.regF Reg.THM_SENS_SEL 15 12
  let index := s.regF Reg.THM_SENS_SEL 11 0
  let k := sensorKey cls index
  match off with
  | 0x104 =>
    if !sensorExists cls index then 0
    else
      let v := s.sensor k
      word (putBits 31 30 v.level + putBits 29 29 (bitOf v.bad) + putBits 22 16 v.contrib + sat16 v.temp)
  | 0x108 =>
    if !sensorExists cls index then 0
    else let (x, y) := Config.sensorPos k; word (putBits 15 8 x + putBits 7 0 y)
  | 0x110 => word (putBits 31 16 s.flt.deferLost + min s.flt.deferred.length 256)
  | _ => old

def State.viewSecurity (s : State) (off : Nat) (old : Word) : Word :=
  let c := s.sec
  match off with
  | 0x100 =>
    word (putBits 31 30 c.lifecycle + putBits 29 28 s.debugLevel + putBits 27 26 c.lcTarget + putBits 25 25 (bitOf c.lcPending)
      + putBits 24 24 (bitOf c.zeroising) + putBits 23 16 (min c.authFail 255))
  | 0x108 => c.readFifo.headD old
  | 0x104 => (old &&& 0x3E000000) ||| word (putBits 19 16 c.dbgStatus)
  | 0x10C =>
    (old &&& 0x001FFFFF) ||| word (putBits 28 26 c.keyStatus + putBits 25 25 1 + putBits 24 21 (s.slotOf_ (old.field 20 12)).gen)
  | 0x120 =>
    (old &&& 0xC0000000) ||| word (putBits 29 29 (bitOf s.link.pending.isSome) + putBits 28 28 (bitOf s.link.on)
      + putBits 27 27 (bitOf s.link.key) + putBits 25 23 s.link.status)
  | _ => old

def State.viewSnapshot (s : State) (off : Nat) (old : Word) : Word :=
  let p := s.snap
  match off with
  | 0x108 =>
    word (putBits 31 31 (bitOf p.held) + putBits 30 30 (bitOf p.skewed) + putBits 29 29 (bitOf p.immediate)
      + putBits 28 28 (bitOf (p.bndPend.isSome || p.rackPend.isSome)) + putBits 27 25 p.source + min p.missed 65535)
  | 0x10C => word p.stride.toNat
  | 0x110 => word (p.stride.toNat / 2 ^ 32)
  | 0x118 => match p.rackPend with
    | some (n, _) => word n
    | none => 0
  | _ => old

/-! ### Laser and calibration pages -/

/-- The ACTIVE cartridge of a quadrant. -/
def State.activeCart (s : State) (q : Fin 4) : Option (Fin 8) :=
  [cartOf q false, cartOf q true].find? fun k => s.cartRole k == 1

def State.quadWord (s : State) (q : Fin 4) : Nat :=
  let v := s.quad q
  let noSpare := [cartOf q false, cartOf q true].all fun k => s.cartRole k == 1 || !s.fit k
  let src := ((quadPlanes q).map fun p => bitOf (s.feed p).shown * 2 ^ (p.val % 4)).sum
  putBits 31 29 v.swap.code + putBits 28 28 (bitOf v.refused) + putBits 27 27 (bitOf noSpare) + putBits 23 20 src
    + match s.activeCart q with
      | some k => sat16 (s.cartFade k)
      | none => 0

def State.tapWord (s : State) (p : Fin 16) : Nat :=
  let f := s.feed p
  let last := f.samples.headD 0
  putBits 31 31 (bitOf (!f.samples.isEmpty && decide (last ≤ -120))) + putBits 30 30 (bitOf f.pathFault)
    + putBits 29 16 (unsignedOf 14 last) + sat16 f.average

def State.cartWord (s : State) (k : Fin 8) : Nat :=
  let v := s.cart k
  (s.unit (.cartridge k)).word + putBits 28 28 (bitOf v.present) + putBits 27 26 (s.cartRole k) + putBits 25 24 v.health.code
    + putBits 23 23 (bitOf v.refused) + putBits 22 16 (unsignedOf 7 (s.cartTemp k / 16)) + sat16 v.monitor

def State.viewLaser (s : State) (off : Nat) (old : Word) : Word :=
  if 0x180 ≤ off ∧ off < 0x1C0 then word (s.tapWord (Fin.ofNat 16 ((off - 0x180) / 4)))
  else if off < 0x140 ∧ off % 16 = 4 then word (s.quadWord (Fin.ofNat 4 ((off - 0x100) / 16)))
  else if 0x200 ≤ off then
    let k : Fin 8 := Fin.ofNat 8 ((off - 0x200) / 16)
    match off % 16 with
    | 0 => (old &&& 2) ||| word (bitOf (s.unit (.cartridge k)).enable)
    | 4 => word (s.cartWord k)
    | _ => if (s.cart k).present then (s.cart k).serial else 0
  else old

def State.viewCalibration (s : State) (off : Nat) (old : Word) : Word :=
  match off with
  | 0x104 => word (putBits 9 5 s.cal.copyFail + putBits 4 0 s.cal.valid)
  | 0x108 => word (putBits 31 16 (min s.cal.waiting.length 65535) + putBits 15 0 s.cal.lastApplied)
  | _ => old

/-! ### Photonic pages -/

def State.viewAllocator (s : State) (off : Nat) (old : Word) : Word :=
  let planes (f : UnitRec → Nat) (step : Nat) : Word := word ((allFin 16).map fun p => f (s.unit (.plane p)) * 2 ^ (step * p.val)).sum
  match off with
  | 0x100 => word (putBits 31 24 (min s.drg.holds 255) + putBits 13 0 s.drg.grants.length)
  | 0x124 => planes (fun v => bitOf v.enable) 1
  | 0x128 => planes (fun v => v.st.code) 2
  | 0x12C => planes (fun v => bitOf v.rp) 1
  | _ => old

/-- The slot DRG_SLOT_SEL names. -/
def State.selectedSlot (s : State) (p : Fin 64) : SlotId :=
  let v := s.reg (portReg p Reg.DRG_SLOT_SEL)
  ⟨p, Fin.ofNat 16 (v.field 7 4), v.bit 8, Fin.ofNat 8 (v.field 2 0)⟩

/-- The channel a ring holds, or else its target. -/
def Ring.shown (r : Ring) : Nat :=
  match r.channel with
  | some n => n.val
  | none => match r.target with
    | some n => n.val
    | none => 0

def State.slotWord (s : State) (x : SlotId) : Nat :=
  let v := s.slot x
  (s.unit (.slot x)).word + putBits 28 27 (s.health x) + putBits 26 26 (bitOf v.serving)
    + putBits 25 25 (bitOf (s.grantOf x).isSome) + putBits 24 19 (s.ring (s.servingRing x)).shown
    + putBits 18 13 (s.ring (s.shadowRing x)).shown + putBits 12 10 (s.lockOf ⟨x, false⟩).code
    + putBits 9 7 (s.lockOf ⟨x, true⟩).code + putBits 6 5 (if v.quarantined then min v.good 3 else 0)
    + putBits 4 0 (min v.sweeps 31)

def State.viewPort (s : State) (p : Fin 64) (off : Nat) (old : Word) : Word :=
  let x := s.selectedSlot p
  match off with
  | 0x100 =>
    let granted (rx : Bool) := (s.drg.grants.filter fun g => (if rx then g.dst else g.src) == p).length
    word (putBits 31 24 (s.usable p false) + putBits 23 16 (s.usable p true) + putBits 15 8 (granted false)
      + putBits 7 0 (granted true))
  | 0x108 => word (bitOf (s.unit (.slot x)).enable)
  | 0x10C => word (s.slotWord x)
  | 0x110 =>
    let r := s.ring (s.servingRing x)
    word (putBits 31 16 (r.heater.getD (s.heaterStart (s.servingRing x))).toNat + sat16 r.detune)
  | 0x114 =>
    let mine := s.drg.pairs.filter fun e => e.1 / 64 == p.val
    let n := (mine.map fun e => e.2.unacked.length).sum
    word (putBits 31 20 (min (s.replayUsed p / 1024) 4095) + putBits 19 0 n)
  | _ => old

/-! ### Hitch, EDU, Stable and Blinkers pages -/

/-- What the counter registers show of the selected counter; 0 where none is selected. -/
def State.viewCounter (s : State) (off : Nat) : Word :=
  match s.selectedCounter with
  | none => 0
  | some c =>
    let v := s.ctr c
    match off with
    | 0x114 => (s.reg (bank c.code Reg.HCH_CTR_CTL) &&& 0x00FC0FFF)
        ||| word (putBits 31 30 v.st.code + putBits 27 24 v.cause)
    | 0x118 => v.value
    | 0x11C => word (putBits 31 31 (bitOf v.arm) + putBits 30 29 v.cmp + putBits 10 0 v.vector)
    | _ => v.thresh

def State.viewHitch (s : State) (off : Nat) (old : Word) : Word :=
  if 0x114 ≤ off ∧ off ≤ 0x120 then s.viewCounter off
  else match off with
    | 0x100 => word s.clk.stride.toNat
    | 0x104 => word (s.clk.stride.toNat / 2 ^ 32)
    | 0x108 =>
      word (putBits 31 31 (old.field 31 31) + putBits 30 28 s.sync.st.code + putBits 27 23 s.sync.master.val
        + unsignedOf 16 (max (-32767) (min 32767 s.sync.offset)))
    | 0x134 => word s.hitch.watches.length
    | _ => old

def State.viewEdu (s : State) (off : Nat) (old : Word) : Word :=
  if off = 0x100 then
    word (putBits 30 30 (bitOf s.edu.active) + putBits 29 29 (bitOf s.eduPending) + putBits 28 28 (bitOf s.edu.refused))
  else old

/-- The registers of an engine's page. Its mode is that of R180 also while the engine is not NORMAL for another reason of R177. DESIGN CHOICE, assumption
195. -/
def State.viewEngine (s : State) (e : Fin 2) (off : Nat) (old : Word) : Word :=
  let x := s.engine e
  match off with
  | 0x100 =>
    word (putBits 31 30 x.mode.code + putBits 25 16 (min x.waiting 512) + putBits 15 8 (min x.peak 255)
      + putBits 1 0 x.recalFail)
  | 0x104 => word ((x.ebits.zipIdx.map fun (b, i) => putBits (6 * i + 5) (6 * i) b).sum)
  | _ => old

/-! ### Fabric and Bridle pages -/

/-- Boundaries until a held lease expires (R355). -/
def State.leaseLeft (s : State) (v : Lease) : Nat := if v.st = .held then v.start + 4000 - s.clk.bnd else 0

/-- The uplink FAB_UPL_SEL names. -/
def State.selectedUplink (s : State) : Fin 16 := Fin.ofNat 16 (s.regF Reg.FAB_UPL_SEL 3 0)

/-- The peer of an uplink, as a lane of it that is UP has learnt it. -/
def State.uplinkPeer (s : State) (u : Fin 16) : Option LanePeer :=
  match (strandLanes (uplinkStrand u)).find? fun l => (s.lane (uplinkBridle u) l).link == .up with
  | some l => (s.lane (uplinkBridle u) l).peer
  | none => none

def State.uplinkWord (s : State) (u : Fin 16) : Nat :=
  putBits 31 31 (bitOf (s.uplinkUp u)) + putBits 30 28 (s.uplink u).st.code + match s.uplinkPeer u with
    | some p => putBits 27 24 p.z + putBits 23 19 p.index
    | none => 0

/-- FAB_RT_CTL and FAB_RT_DRAIN (R383, R386). -/
def State.routingWord (s : State) : Nat :=
  let r := s.routing
  putBits 29 29 (bitOf r.active) + putBits 28 28 (bitOf r.pending.isSome) + putBits 27 26 r.a.st.code
    + putBits 25 24 r.b.st.code + putBits 18 16 r.status

def State.drainWord (s : State) : Nat :=
  let r := s.routing
  let count := if r.a.st = .draining then s.drainCount false else if r.b.st = .draining then s.drainCount true else 0
  putBits 31 24 (min r.since 255) + putBits 23 0 count

def State.viewFabric (s : State) (off : Nat) (old : Word) : Word :=
  let v := s.lease s.leaseIndex
  let u := s.selectedUplink
  match off with
  | 0x100 => word (putBits 29 16 s.poolUsed + putBits 14 0 s.fab.flags.length)
  | 0x118 => word (putBits 29 29 (bitOf s.fab.ingressPending))
  | 0x120 => word (putBits 31 29 v.st.code + putBits 27 23 v.home + putBits 22 0 v.region)
  | 0x124 => word (putBits 23 12 (s.leaseLeft v) + putBits 11 0 v.job)
  | 0x184 =>
    let usable := ((allFin 10).map fun t => bitOf (s.teamUsable s.routing.active t) * 2 ^ t.val).sum
    word (putBits 25 16 s.teamsUp + putBits 9 0 usable)
  | 0x188 => word ((List.range 32).map fun m => bitOf (s.reachable m) * 2 ^ m).sum
  | 0x190 => (s.routing.table (s.regF Reg.FAB_RT_SEL 8 8 == 1)).word (s.regF Reg.FAB_RT_SEL 5 0)
  | 0x194 => word s.routingWord
  | 0x19C => word s.drainWord
  | 0x1B4 => word (s.uplinkWord u)
  | 0x1CC => word (s.uplink u).txTail.toNat
  | 0x1D0 => word (s.uplink u).txHead.toNat
  | 0x1D4 => word (s.uplink u).rxTail.toNat
  | 0x1D8 => word (s.uplink u).rxHead.toNat
  | _ => old

/-- The lane BRD_LANE_SEL names. -/
def State.selectedLane (s : State) (b : Fin 4) : Fin 32 := Fin.ofNat 32 (s.regF (bridleReg b Reg.BRD_LANE_SEL) 4 0)

/-- The team and position codes of a lane (R396): 10 an uplink, 15 dark. -/
def laneTeam (l : Fin 32) : Nat × Nat :=
  match strandOf l with
  | none => (15, 0)
  | some n => (if n.val < 10 then n.val else 10, (strandLanes n).findIdx fun x => x == l)

def State.laneWord (s : State) (b : Fin 4) (l : Fin 32) : Nat :=
  let v := s.lane b l
  (s.unit (.lane b l)).word + putBits 28 26 v.link.code + putBits 25 25 (bitOf v.txSusp) + putBits 24 24 (bitOf v.rxSusp)
    + putBits 23 20 (laneTeam l).1 + putBits 19 18 (laneTeam l).2 + putBits 15 8 (min v.trainFail 255)

def State.viewBridle (s : State) (b : Fin 4) (off : Nat) (old : Word) : Word :=
  let l := s.selectedLane b
  let v := s.lane b l
  match off with
  | 0x104 => word (bitOf (l == 26 || l == 27 || (s.unit (.lane b l)).enable))
  | 0x108 => word (s.laneWord b l)
  | 0x10C => match v.peer with
    | some p => word (putBits 27 24 p.z + putBits 23 19 p.index + putBits 18 17 p.bridle + putBits 16 12 p.lane)
    | none => 0
  | 0x110 => word (putBits 15 0 v.delay)
  | 0x114 => word (putBits 31 16 (min v.csymLast 65535) + putBits 15 0 (min v.ucwLast 65535))
  | _ => old

/-! ### Memory pages -/

def State.viewMemory (s : State) (off : Nat) (old : Word) : Word :=
  if off = 0x104 then
    let cap := if s.dram.map = .failed then 0 else if s.dram.map = .normal ∧ s.regF Reg.MEM_MAP_CTL 0 0 = 0 then 1152 else 1104
    let lost := match s.dram.gone with
      | some k => k.val
      | none => 0
    word (putBits 31 30 s.dram.map.code + putBits 20 16 lost + cap)
  else old

def State.viewStack (s : State) (k : Fin 24) (off : Nat) (old : Word) : Word :=
  let v := s.stack k
  match off with
  | 0x100 =>
    word ((s.unit (.stack k)).word + putBits 28 28 (bitOf v.lost) + putBits 27 27 (bitOf v.burst.isSome)
      + putBits 26 26 (bitOf v.refused) + putBits 15 8 (min v.softRepairs 255) + putBits 7 0 v.spareLeft)
  | 0x10C => word (putBits 31 24 (tempByte v.lastTemp) + putBits 23 0 (min v.retrains (2 ^ 24 - 1)))
  | _ => old

/-- TLY_DIS_n: disabled slices of core indices 32n to 32n + 31; bits above index 207 read 1 (R218). -/
def State.viewTally (s : State) (r : Fin 8) (off : Nat) (old : Word) : Word :=
  if 0x100 ≤ off ∧ off < 0x11C then
    word (((List.range 32).map fun b =>
      let i := (off - 0x100) / 4 * 32 + b
      bitOf (decide (207 < i) || s.groom.sliceDown.contains (r.val * 256 + i)) * 2 ^ b).sum)
  else old

/-! ### Reckoner pages -/

/-- RKN_ORIENT (R321, R322). -/
def State.orientWord (s : State) (r : Fin 8) : Nat :=
  let bad := (s.die r).mismatch
  let rotated := decide (4 ≤ r.val) != bad
  let port (e : Nat) := 4 * r.val + (e + 2 * bitOf rotated) % 4
  putBits 31 31 (bitOf rotated) + putBits 30 30 (bitOf bad) + putBits 23 18 (port 0) + putBits 17 12 (port 1)
    + putBits 11 6 (port 2) + putBits 5 0 (port 3)

/-- RKN_BND_STAT of the bundle RKN_BND_SEL names (R320). The edge that RKN_BND_SEL gives for a vertical bundle is an edge of the module, also
where the die is turned (R16). DESIGN CHOICE, assumption 156. -/
def State.bundleWord (s : State) (r : Fin 8) : Nat :=
  let v := s.reg (Reg.RKN_BND_SEL + r.val * 0x10000)
  let cls := v.field 15 13
  let bundle := v.field 12 0
  let key := bundleKey r.val cls bundle
  let bad := (sortBy (fun a b : Nat => decide (a ≤ b)) (s.groom.bundles.getD key [])).take 4
  if 5 < cls ∨ bundleCount cls ≤ bundle then 0
  else
    let at_ (i : Nat) := bad.getD i 0x7F
    putBits 31 31 (bitOf (s.groom.bundleFail.contains key)) + putBits 30 28 bad.length
      + putBits 27 21 (at_ 0) + putBits 20 14 (at_ 1) + putBits 13 7 (at_ 2) + putBits 6 0 (at_ 3)

/-- RKN_CORE_COUNT: 0 until spare selection. -/
def State.countWord (s : State) (r : Fin 8) : Nat :=
  if s.cores.all fun e => e.1 / 256 != r.val || !(e.2.selected || e.2.spare) then 0
  else
    let e := s.enabledOf r
    let h := (s.hotSpares r).length
    putBits 23 16 e + putBits 15 8 h + putBits 7 0 (208 - e - h)

/-- The number of bits set in a map. -/
def popCount (n : Nat) : Nat := ((List.range 256).filter fun b => n.testBit b).length

def State.viewFirmware (s : State) (r : Fin 8) (map : Bool) : Word :=
  let v := s.reg (Reg.RKN_FW_SEL + r.val * 0x10000)
  match coreOf (r.val * 256 + v.field 7 0) with
  | none => 0
  | some c =>
    let k := s.core c
    if map then word (k.fwMap / 2 ^ (32 * v.field 10 8))
    else word (putBits 31 30 k.load.code + putBits 29 28 k.repairs + putBits 8 0 (popCount k.fwMap))

/-- RKN_FW_PENDn: cores STARTING and not LOADED. -/
def State.pendingWord (s : State) (r : Fin 8) (n : Nat) : Nat :=
  ((List.range 32).map fun b =>
    match coreOf (r.val * 256 + 32 * n + b) with
    | some c => bitOf (decide (32 * n + b < 208) && (s.unit (.core c)).st == .starting && (s.core c).load != .loaded) * 2 ^ b
    | none => 0).sum

def State.fieldWord (s : State) (r : Fin 8) : Nat :=
  let w := s.unit (.field r false)
  let e := s.unit (.field r true)
  putBits 31 31 (bitOf w.enable) + putBits 30 30 (bitOf e.enable) + putBits 29 28 w.st.code + putBits 27 27 (bitOf w.rp)
    + putBits 26 25 e.st.code + putBits 24 24 (bitOf e.rp) + putBits 23 23 (bitOf w.failed) + putBits 22 22 (bitOf e.failed)

/-- RKN_FIELD_STATE: while the fields run at different clocks the slower one's uniform-bandwidth promise is suspended. -/
def State.dieWord (s : State) (r : Fin 8) : Nat :=
  let d := s.die r
  let w := s.fieldClock r false
  let e := s.fieldClock r true
  putBits 31 31 (bitOf d.split) + putBits 30 30 (bitOf !(d.split && decide (w < e)))
    + putBits 29 29 (bitOf !(d.split && decide (e < w))) + putBits 23 22 d.westGait + putBits 21 15 d.westThrottle
    + putBits 14 13 d.eastGait + putBits 12 6 d.eastThrottle

def State.viewDie (s : State) (r : Fin 8) (off : Nat) (old : Word) : Word :=
  if 0x140 ≤ off ∧ off < 0x15C then word (s.pendingWord r ((off - 0x140) / 4))
  else match off with
    | 0x100 => word (s.dieWord r)
    | 0x108 => word (putBits 31 16 ((s.die r).shareWest / 16) + putBits 15 0 ((s.die r).shareEast / 16))
    | 0x114 => word (s.orientWord r)
    | 0x11C => word (s.bundleWord r)
    | 0x124 => word (s.countWord r)
    | 0x12C => s.viewFirmware r true
    | 0x130 => s.viewFirmware r false
    | 0x15C => word (s.fieldWord r)
    | 0x164 =>
      let v := s.rate r
      word (putBits 31 30 v.level + putBits 29 16 (unsignedOf 14 (max (-8192) (min 8191 v.rise))) + sat16 v.hottest)
    | _ => old

/-- The core and the offset within its window of a register of a core row page (R88). -/
def coreWindow (i off : Nat) : Option (CoreId × Nat) :=
  match coreOf (i / 16 * 256 + i % 16 * 16 + (off - 0x100) / 0xF0) with
  | some c => if 0x100 ≤ off ∧ (off - 0x100) / 0xF0 < 16 then some (c, (off - 0x100) % 0xF0) else none
  | none => none

def Queue.regWord (v : Queue) (st : QState) (o : Nat) : Word :=
  match o with
  | 0x00 => word (putBits 31 31 (bitOf v.enable) + putBits 24 21 v.ringLog2 + putBits 20 16 v.cplLog2 + putBits 11 0 v.job)
  | 0x04 => word (putBits 14 0 v.base)
  | 0x08 => word v.tail.toNat
  | 0x0C => word v.head.toNat
  | 0x10 => word (putBits 31 29 st.code + putBits 23 16 v.lastStatus + v.haltIndex.toNat)
  | 0x14 => v.cplLo
  | 0x18 => v.cplHi
  | _ => word (putBits 31 16 v.cplTail.toNat + v.cplHead.toNat)

def State.viewCore (s : State) (c : CoreId) (o : Nat) : Word :=
  let k := s.core c
  let u := s.unit (.core c)
  if o = 0 then word (putBits 2 2 (bitOf k.bcastRx) + putBits 1 1 (bitOf k.zeroise) + bitOf u.enable)
  else if o = 4 then
    word (u.word + putBits 28 28 (bitOf k.spare) + putBits 24 16 (s.hazards c).length
      + putBits 13 8 (k.mover.filter (·.issued)).length + putBits 7 4 k.enginesBusy)
  else
    let q := Fin.ofNat 4 ((o - 0x10) / 0x20)
    (k.queue q).regWord (s.queueState ⟨c, q⟩) ((o - 0x10) % 0x20)

/-! ### Any register -/

/-- The bits of PDK_FLT_HI that are a field: all of a ring in host memory, [11:0] of a module-local one. -/
def State.ringHiBits (s : State) : Word :=
  if (s.reg (bank (s.regF Reg.PDK_FLT_SEL 11 0) Reg.PDK_FLT_CFG)).bit 31 then 0xFFFFFFFF else 0xFFF

def State.viewPaddock (s : State) (off : Nat) (old : Word) : Word :=
  match off with
  | 0x108 => s.sec.serial
  | 0x114 => old &&& s.ringHiBits
  | _ => old

/-- What a register of a page of type `t`, instance `i`, reads: its own view, or the word last written or set. -/
def State.viewOf (s : State) (t i off : Nat) (old : Word) : Word :=
  match t with
  | 0x1 => s.viewPaddock off old
  | 0x2 => s.viewGroom off old
  | 0x3 => s.viewPower off old
  | 0x4 => s.viewThermal off old
  | 0x5 => s.viewSecurity off old
  | 0x6 => s.viewSnapshot off old
  | 0x7 => s.viewLaser off old
  | 0x8 => s.viewCalibration off old
  | 0x9 => s.viewAllocator off old
  | 0xB => s.viewHitch off old
  | 0x17 => (s.ctr (.module (Fin.ofNat 256 ((off - 0x100) / 4)))).value
  | 0xC => s.viewEdu off old
  | 0xD => if off = 0x1D0 then word (s.stb.planNum.getD 0) else old
  | 0x19 => s.viewEngine (Fin.ofNat 2 i) off old
  | 0xF => s.viewFabric off old
  | 0x11 => s.viewBridle (Fin.ofNat 4 i) off old
  | 0x12 => s.viewMemory off old
  | 0x18 => s.viewStack (Fin.ofNat 24 i) off old
  | 0x13 => s.viewPort (Fin.ofNat 64 i) off old
  | 0x14 => s.viewDie (Fin.ofNat 8 i) off old
  | 0x15 => s.viewTally (Fin.ofNat 8 i) off old
  | 0x16 => match coreWindow i off with
    | some (c, o) => s.viewCore c o
    | none => 0
  | _ => old

/-- The header registers (R515, R516). -/
def State.viewHeader (s : State) (t i off : Nat) (old : Word) : Word :=
  match off with
  | 0x000 => blockId t i
  | 0x004 =>
    if t = 1 ∨ t = 0x14 ∨ (t = 5 ∧ s.sec.lifecycle ≠ 3) then 0xF00 else 0
  | 0x008 =>
    let on := match pageUnit t i with
      | some u => (s.unit u).enable
      | none => true
    (old &&& 0x20000000) ||| word (putBits 31 31 (bitOf on))
  | 0x00C => match pageUnit t i with
    | some u => let v := s.unit u; word (v.word + putBits 28 28 (bitOf v.failed))
    | none => word (putBits 31 30 2)
  | _ => old

/-- The capability entries (R519, R520). -/
def State.viewCapability (s : State) (t i off : Nat) : Word :=
  let entry (l : List Word) (base : Nat) : Word := if (off - base) % 4 = 0 then l.getD ((off - base) / 4) 0 else 0
  match t with
  | 0x1 =>
    if off < 0xF20 then entry [0x00010103, 0xF20, s.reg Reg.GRM_GRADE, s.reg gradeCores0, s.reg gradeCores1] 0xF00
    else entry [0x00020104, 0, 0x400000C0, 0x18122000, 0x10000100, 0x04000200] 0xF20
  | 0x14 => entry [0x00030101, 0, s.viewOf t i 0x10C (regReset Reg.RKN_ARITH_CAP)] 0xF00
  | 0x5 => if s.sec.lifecycle = 3 then 0 else entry [0x00040101, 0, 0x01000200] 0xF00
  | _ => 0

end Sys2Proof.Machine
end

