-- ==== Sys2Proof/Machine/RegRead.lean ====
section
/-! DEFINITION. Reading a register of the window (R26, R451, R495, R505, R509 to R521): holes, the directory, blocks without power,
the snapshot area, counters that a read clears, and the shadow of a _HI half. -/

namespace Sys2Proof.Machine

/-! ### Where an offset of the window falls (R509) -/

inductive RegPlace where
  | hole
  | directory (off : Nat)
  | page (t i slot off : Nat)
deriving DecidableEq, Repr

def regPlace (off : Nat) : RegPlace :=
  if off < 0x2000 then .directory off
  else match pageOfSlot (off / 4096) with
    | some (t, i, _) => .page t i (off / 4096) (off % 4096)
    | none => .hole

/-- The slots of the directory's entries, ascending (R521). -/
def directorySlots : List Nat :=
  flatPages.flatMap (fun p => (List.range p.count).map (p.slot + ·))
    ++ (List.range 8).flatMap fun r => (List.range 15).map (0x100 + 16 * r + ·)

/-! ### Power (R451, R485, R495) -/

/-- The state that decides which blocks have power: what a step in progress starts is powered at once. -/
def State.powerShown (s : State) : Nat := min s.powerLevel s.power.state

/-- The block of a page type has power. In OFF, and with every converter fed from VIN_48 open, only the Grooms and what they hold
have. -/
def State.pagePowered (s : State) (t : Nat) : Bool :=
  s.sup.vstby
    && (decide (t ≤ 6) || (!s.sup.open_ && s.powerShown != 4))
    && !(s.powerShown == 3 && [0x7, 0x9, 0xC, 0xE, 0x19, 0x13, 0x14, 0x15, 0x16].contains t)

/-- A page answers: its block has power, and after a fail-stop it is one that goes on being served. -/
def State.pageAnswers (s : State) (t : Nat) : Bool := s.pagePowered t && (!s.groom.fatal || t == 1 || t == 2)

/-- A word of the directory (R521). -/
def State.directoryWord (s : State) (off : Nat) : Word :=
  let e := (off - 0x10) / 8
  if off % 4 ≠ 0 then 0
  else if off = 0 then word (putBits 31 16 232 + 1)
  else if off = 4 then s.reg Reg.PDK_STEP
  else if off < 0x10 then 0
  else match directorySlots[e]? with
    | none => 0
    | some slot =>
      match pageOfSlot slot with
      | none => 0
      | some (t, i, _) => if off % 8 = 0 then blockId t i else word (putBits 31 31 (bitOf (s.pagePowered t)) + slot)

/-! ### Pairs of halves (R514) -/

/-- The register at an offset of a page of type `t` is a _LO half; its _HI is the next word. -/
def isLo (t off : Nat) : Bool :=
  match t with
  | 0x1 => off == 0x110
  | 0x2 => off == 0x188
  | 0x5 => off == 0x110
  | 0x6 => off == 0x10C
  | 0xB => off == 0x100 || off == 0x12C
  | 0xC => off == 0x104 || off == 0x10C || off == 0x114
  | 0xD => [0x104, 0x10C, 0x120, 0x140, 0x160, 0x180, 0x1A0, 0x1AC, 0x1C4].contains off
      || (decide (0x220 ≤ off ∧ off < 0x2A0) && off % 16 == 0) || (decide (0x400 ≤ off ∧ off < 0xC00) && off % 32 == 4)
  | 0xE => off == 0x104 || off == 0x10C
  | 0xF => off == 0x1BC || off == 0x1C4
  | 0x10 => off == 0x110
  | 0x16 => decide (0x100 ≤ off) && decide (0x10 ≤ (off - 0x100) % 0xF0) && (((off - 0x100) % 0xF0 - 0x10) % 0x20 == 0x14)
      && decide ((off - 0x100) % 0xF0 < 0x90)
  | _ => false

def isHi (t off : Nat) : Bool := decide (4 ≤ off) && isLo t (off - 4)

/-- An entry of a list kept by source and offset. -/
def State.shadowOf (s : State) (src : Source) (off : Nat) : Option Word :=
  match s.shadows.find? fun e => e.1 == (src, off) with
  | some e => some e.2
  | none => none

def State.dropShadow (s : State) (src : Source) (off : Nat) : State :=
  { s with shadows := s.shadows.filter fun e => e.1 != (src, off) }

def State.setShadow (s : State) (src : Source) (off : Nat) (v : Word) : State :=
  { s.dropShadow src off with shadows := (s.dropShadow src off).shadows ++ [((src, off), v)] }

/-! ### One register -/

/-- Where the word of a register is kept: the instance its selector names, or the only one. -/
def State.regKey (s : State) (d : RegDef) (slot off : Nat) : Nat :=
  match d.sel with
  | some (sel, hi, lo) => bank (s.regF (slot * 4096 + sel) hi lo) (slot * 4096 + off)
  | none => slot * 4096 + off

/-- The bits of a register's fields with an access code. -/
def RegDef.mask (d : RegDef) (p : Access → Bool) : Word :=
  word ((d.fields.filter fun f => p f.access).map fun f => putBits f.hi f.lo (2 ^ 32 - 1)).sum

/-- What an offset of a page reads, without the effects of reading it. -/
def State.peek (s : State) (t i slot off : Nat) : Word :=
  if 0x40 ≤ off ∧ off < 0x100 then
    if off % 4 = 0 then (s.snap.areas.getD slot []).getD ((off - 0x40) / 4) 0 else 0
  else match findReg t off with
    | none => s.viewCapability t i off
    | some d =>
      let old := s.reg (s.regKey d slot off) &&& ~~~(d.mask (· == .wo))
      if off < 0x100 then s.viewHeader t i off old else s.viewOf t i off old

/-- What an offset of a page reads, with the effects of reading it: a counter is cleared, SEC_AUTH_DATA goes on to its next word, a
_LO half keeps its _HI for the source, and a _HI half gives what was kept; HCH_STRIDE_HI shows what the source's last read of
HCH_STRIDE_LO latched, 0 before one (R44). -/
def State.readAt (s : State) (src : Source) (t i slot off : Nat) : Word × State :=
  let w := slot * 4096 + off
  if t = 5 ∧ off = 0x108 then s.readAuth
  else
    let v := s.peek t i slot off
    if isLo t off then (v, s.setShadow src (w + 4) (s.peek t i slot (off + 4)))
    else if t = 0xB ∧ off = 0x104 then ((s.shadowOf src w).getD 0, s)
    else if isHi t off then
      match s.shadowOf src w with
      | some k => (k, s.dropShadow src w)
      | none => (v, s)
    else match findReg t off with
      | none => (v, s)
      | some d =>
        let rc := d.mask (· == .rc)
        if rc = 0 then (v, s) else (v, s.setReg w (s.reg w &&& ~~~rc))

/-- The job and the block under which a source's access to a hole is raised. DEDUCED, assumption 41. -/
def State.sourceJob (s : State) (src : Source) : Nat × Word :=
  match src with
  | .pcie fn => (s.liveF (bank fn.val Reg.PCI_FN_JOB) 11 0, blkPCI)
  | .rein .. => (0, blkREIN)
  | _ => (0, blkGRM)

/-- DRG_ADDR_UNMAPPED for a register access to a hole (R26, R510). -/
def State.raiseHole (s : State) (src : Source) (off : Nat) : State :=
  let (job, block) := s.sourceJob src
  s.raiseTo Flt.DRG_ADDR_UNMAPPED block job ((registerBase + off) % 2 ^ 32)

/-- A register read of a source at a window offset: the word, whether the offset is not a hole, and the state after it. -/
def State.readReg (s : State) (src : Source) (off : Nat) : Word × Bool × State :=
  match regPlace off with
  | .hole => (poisonWord, false, s.raiseHole src off)
  | .directory o => (if s.sup.vstby then s.directoryWord o else poisonWord, true, s)
  | .page t i slot o =>
    if !s.pageAnswers t then (poisonWord, true, s)
    else
      let got := s.readAt src t i slot o
      let v := got.1
      let s := got.2
      (v, true, s)

/-- A read that a source may make, and its data. A read that R491 does not grant returns nothing. -/
def State.readFor (s : State) (src : Source) (off : Nat) : State :=
  if !s.mayRead src off then s
  else
    let got := s.readReg src off
    let v := got.1
    let s := got.2.2
    s.emit (.regData src off v)

/-- LO_READ_SHADOW (R514): a read, which of a _LO register keeps the _HI half for the source. -/
def execLoReadShadow (src : Source) (off : BitVec 28) (s : State) : Host.Outcome State Fault Refusal := .next (s.readFor src off.toNat)

/-- RC_COUNTER_READ (R9): a read, which of an RC counter clears it. -/
def execRcCounterRead (src : Source) (off : BitVec 28) (s : State) : Host.Outcome State Fault Refusal := .next (s.readFor src off.toNat)

end Sys2Proof.Machine
end

