-- ==== Sys2Proof/Machine/Snapshot.lean ====
section
/-! DEFINITION. Snapshots (R314, R505 to R507): latching the areas, rack-wide triggers, rearming, and the commands of the triggers. -/

namespace Sys2Proof.Machine

/-! ### Latching -/

/-- The header word of an area (R505). -/
def Snap.header (p : Snap) : Word :=
  word (putBits 31 31 1 + putBits 30 30 (bitOf p.skewed) + putBits 29 29 (bitOf p.immediate))

/-- Read-only fields that count: page type, offset, bits. Scoreboard entries and transactions of core 0 of a row, requests and failed RECALs of
an engine, held strides, good beacons, the replay buffer, deferred corrections, pool and flag entries, the drain count, failed trainings, failed
SUBMITs, and triggers missed. -/
def roCounts : List (Nat × Nat × Nat × Nat) :=
  [(0x16, 0x104, 24, 16), (0x16, 0x104, 13, 8), (0x19, 0x100, 25, 16), (0x19, 0x100, 1, 0), (0x9, 0x100, 31, 24), (0x13, 0x10C, 6, 5),
   (0x13, 0x114, 31, 0), (0x8, 0x108, 31, 16), (0xF, 0x100, 29, 16), (0xF, 0x100, 14, 0), (0xF, 0x19C, 23, 0), (0x11, 0x108, 15, 8),
   (0x5, 0x100, 23, 16), (0x6, 0x108, 15, 0)]

/-- The bits of a register that count or accumulate: fields that a read clears, the Hitch counters, and the read-only counts. -/
def countBits (t off : Nat) : Word :=
  if t = 0x17 ∨ (t = 0xB ∧ off = 0x118) then 0xFFFFFFFF
  else
    let ro := word (((roCounts.filter fun c => c.1 == t && c.2.1 == off).map fun c => putBits c.2.2.1 c.2.2.2 (2 ^ 32 - 1)).sum)
    ro ||| match findReg t off with
      | some d => d.mask (· == .rc)
      | none => 0

/-- The area of a page: its header and the 47 words at 0x100 up, counters uncleared (R505) and as `old`, the state before the boundary,
has them (R36). -/
def State.areaOf (s old : State) (t i slot : Nat) : List Word :=
  s.snap.header :: (List.range 47).map fun n =>
    let off := 0x100 + 4 * n
    blend (s.peek t i slot off) (old.peek t i slot off) (countBits t off)

/-- One page latched, where its arm bit is 1 and its block has power. -/
def State.latchPage (s old : State) (slot : Nat) : State :=
  match pageOfSlot slot with
  | none => s
  | some (t, i, _) =>
    if s.pageAnswers t && (s.reg (slot * 4096 + 8)).bit 29 then
      ({ s with snap := { s.snap with areas := s.snap.areas.put slot (s.areaOf old t i slot) } }).setIrq slot 2
    else s

/-- Every armed page latches (R505, R506), and TRIG_OUT pulses. -/
def State.latch (s old : State) (source : Nat) (immediate skewed : Bool) : State :=
  let s := { s with snap := { s.snap with
    held := true, skewed := skewed, immediate := immediate, source := source, stride := s.clk.stride,
    trigOut := s.snap.trigOut + 1 } }
  directorySlots.foldl (fun s slot => s.latchPage old slot) s

/-- One trigger not taken. -/
def State.missTrigger (s : State) : State := { s with snap := { s.snap with missed := min (s.snap.missed + 1) 65535 } }

/-- The latch of an immediate trigger, when its SNAP frame arrives (R314). A boundary trigger it overtakes counts as missed. -/
def State.latchFrame (s : State) (source : Nat) : State :=
  let s := { s with snap := { s.snap with frame := none } }
  if s.snap.held then s.missTrigger
  else
    let s := s.latch s source true false
    if s.snap.bndPend.isSome then ({ s with snap := { s.snap with bndPend := none } }).missTrigger else s

/-- The rack latch at its stride, or at the first boundary after a rebase that skipped it (R51). -/
def State.latchRack (s old : State) (rebased : Bool) : State :=
  match s.snap.rackPend with
  | none => s
  | some (n, source) =>
    let now := s.clk.stride.toNat
    let behind := (now + 2 ^ 48 - n) % 2 ^ 48
    let skipped := rebased && decide (0 < behind) && decide (behind < 2 ^ 47)
    if now = n ∨ skipped then
      let s := { s with snap := { s.snap with rackPend := none } }
      if s.snap.held then s.missTrigger else s.latch old source false skipped
    else s

/-- The latches of a boundary (R34 order 5); `old` is the state before it (R36). -/
def State.snapBoundary (s old : State) (rebased : Bool) : State :=
  let s := match s.snap.bndPend with
    | none => s
    | some source =>
      let s := { s with snap := { s.snap with bndPend := none } }
      if s.snap.held then s.missTrigger else s.latch old source false false
  s.latchRack old rebased

/-! ### Rack-wide triggers (R507) -/

/-- The ADD32 of a rack trigger taken here: one to the rack counter of every reachable module, under job 0. -/
def State.sendRack (s : State) : State :=
  if !s.snap.rackSend then s
  else
    let n := match s.snap.rackPend with
      | some (n, _) => n
      | none => 0
    let data := bytesOf [0x10000000, word (n / 64 % 32768), 0, 0]
    let i := s.regF Reg.SNP_RACK_CTL 7 0
    let others := (List.range 32).filter fun m => m != s.moduleIndex && s.reachable m
    { s with
        snap := { s.snap with rackSend := false }
        toIssue := s.toIssue ++ others.map fun m => ⟨.engine blkGRM, 4, 1, mcAddress m i, 4, data, 0, []⟩ }

def State.rackTrigger (s : State) (source : Nat) : State := (s.trigger 2 source).sendRack

/-- A trigger of a mode of SNP_CTL, with what it sends. -/
def State.triggerNow (s : State) (mode source : Nat) : State := (s.trigger mode source).sendRack

/-- The areas are free again (R506): held and every header's valid bit cleared. -/
def State.rearm (s : State) : State :=
  { s with snap := { s.snap with
      held := false
      areas := s.snap.areas.mapVals fun _ (l : List Word) => match l with
        | h :: t => (h &&& 0x7FFFFFFF) :: t
        | [] => [] } }

/-! ### The commands -/

def State.snapWrite (s : State) (src : Source) (act : State → State) : State :=
  if s.pageAnswers 6 && s.mayWrite src Reg.SNP_CTL then act s else s

/-- SNAPSHOT_REARM, SNAPSHOT_TRIG_NOW, SNAPSHOT_TRIG_BND and SNAPSHOT_TRIG_RACK: writes of SNP_CTL (R506). -/
def execSnapshotRearm (src : Source) (s : State) : Host.Outcome State Fault Refusal := .next (s.snapWrite src State.rearm)
def execSnapshotTrigNow (src : Source) (s : State) : Host.Outcome State Fault Refusal :=
  .next (s.snapWrite src fun s => s.trigger 0 0)
def execSnapshotTrigBnd (src : Source) (s : State) : Host.Outcome State Fault Refusal :=
  .next (s.snapWrite src fun s => s.trigger 1 0)
def execSnapshotTrigRack (src : Source) (s : State) : Host.Outcome State Fault Refusal :=
  .next (s.snapWrite src fun s => s.rackTrigger 0)

/-- TRIG_IN_FALL (R506): a falling edge of TRIG_IN. The pin is not seen while VIO is out of range. -/
def execTrigInFall (s : State) : Host.Outcome State Fault Refusal :=
  .next (if s.sup.vio && s.regF Reg.SNP_CTL 27 27 == 1 then s.triggerNow (s.regF Reg.SNP_CTL 26 25) 2 else s)

/-- The SNAP frame of an immediate trigger reaches every block, 48 stride cycles after the start of its slot (R314). -/
def State.snapFrame (s : State) : State :=
  match s.snap.frame with
  | some (source, slot) => if s.strideEnd ≤ slot + 48 then s else (s.advanceTo (slot + 48)).latchFrame source
  | none => s

/-- HITCH_SNAP (R314). -/
def execHitchSnap (s : State) : Host.Outcome State Fault Refusal := .next s.snapFrame

end Sys2Proof.Machine
end

