-- ==== Sys2Proof/Machine/HitchLate.lean ====
section
/-! DEFINITION. The rows of SIGNAL frames: a frame is applied or returned, and the atomics of other modules that wait for it are answered
(R311 to R315, R326 to R328, R341). -/

namespace Sys2Proof.Machine

/-- The SNAP frame, with what its transmission met (R314, R315): a lost one latches nothing. -/
def State.snapArrives (s : State) (err : FrameError) : State :=
  if s.snap.frame.isNone then s
  else match err with
    | .lost hub rkn => ({ s with snap := { s.snap with frame := none } }).dropFrame none hub rkn
    | _ => (s.noteCorrected err).snapFrame

/-- The frames whose cycle lies in the stride that ends are applied, or returned, in their order (R312). -/
def State.landFrames (s : State) : Nat → State
  | 0 => s
  | n + 1 =>
    match s.hitch.flight with
    | [] => s
    | f :: _ =>
      if s.strideEnd ≤ f.land then s
      else if s.hubFull f then (if s.strideEnd ≤ f.slot + 48 then s else (s.nakFrame .none).landFrames n)
      else (s.signalFrame .none).landFrames n

/-- The RELEASE frames whose cycle lies in the stride that ends reach their cores. -/
def State.landReleases (s : State) : Nat → State
  | 0 => s
  | n + 1 =>
    match s.hitch.releases with
    | [] => s
    | r :: _ => if s.strideEnd ≤ r.slot + 48 then s else (s.releaseFrame .none).landReleases n

/-- What Hitch carries has arrived, as the stride ends, where its cycle lies in the stride (R312, R314). -/
def State.landHitch (s : State) : State :=
  let s := (s.landFrames (4 * s.hitch.flight.length)).flushAnswers
  (s.landReleases s.hitch.releases.length).snapFrame

/-- HITCH_SIGNAL_FRAME (R312, R315, R327): the frame at the front, or the error of a NAK, a RELEASE or a SNAP. DESIGN CHOICE,
assumption 181. -/
def execHitchSignalFrame (frame : FrameEvent) (s : State) : Host.Outcome State Fault Refusal :=
  .next (match frame with
    | .signal err => (s.signalFrame err).flushAnswers
    | .nak err => (s.nakFrame err).flushAnswers
    | .release err => s.releaseFrame err
    | .snap err => s.snapArrives err)

/-- HITCH_NAK (R312, R328). -/
def execHitchNak (s : State) : Host.Outcome State Fault Refusal := .next (s.nakFrame .none).flushAnswers

end Sys2Proof.Machine
end

