-- ==== Sys2Proof/Machine/RegWrite.lean ====
section
/-! DEFINITION. Writing a register of the window (R9, R37, R510, R511, R514 to R516, R544) and what the writes of each page bring
about. -/

namespace Sys2Proof.Machine

/-! ### Which bits a write may change -/

/-- The bits that a register's present condition leaves writable: "while OFF", "while DISABLED", "while enable is 0" (R89, R394, R490,
R528 and the register tables). -/
def State.openBits (s : State) (t slot off : Nat) (key : Nat) : Word :=
  let whenB (b : Bool) (m : Word) : Word := if b then BitVec.allOnes 32 else ~~~m
  let all : Word := BitVec.allOnes 32
  match t with
  | 0x1 =>
    let idle := !s.ringOn (s.regF Reg.PDK_FLT_SEL 11 0)
    if off = 0x110 then whenB idle 0xFFFFFFF0
    else if off = 0x114 then whenB idle all &&& s.ringHiBits
    else if off = 0x118 then whenB idle all else all
  | 0xC => if 0x114 ≤ off ∧ off ≤ 0x11C then whenB ((s.unit .edu).st == .off) all else all
  | 0xD =>
    let off_ := (s.unit .stable).st == .off
    if 0x400 ≤ off then
      let idle := s.live.getD (slot * 4096 + off / 32 * 32) 0 |>.bit 31
      if off % 32 = 0 then whenB (!idle) 0x7FFFFFFF else whenB (!idle) all
    else if off = 0x100 ∨ off = 0x1C0 ∨ 0x200 ≤ off then all
    else if 0x120 ≤ off ∧ off < 0x1A0 ∧ off % 32 = 0x14 then all
    else if off = 0x1AC ∨ off = 0x1B0 then whenB (off_ && decide (s.sec.lifecycle < 2)) all
    else if off = 0x1CC then whenB off_ 0xFFFF0000
    else whenB off_ all
  | 0xF =>
    let u := s.uplink s.selectedUplink
    let idle := u.st == .disabled && !u.rx
    if off = 0x1B8 then whenB idle 0x1FFFFFFF
    else if 0x1BC ≤ off ∧ off ≤ 0x1C8 then whenB idle all else all
  | 0x12 => if off = 0x100 then whenB (!s.dram.reserveLocked) 1 else all
  | _ => if key = 0 then all else all

/-- The bits of a register that software writes. -/
def RegDef.rw (d : RegDef) : Word := d.mask fun a => a == .rw || a == .rwl

/-- The bits of a register whose writes take effect at a boundary come into force there (R544). -/
def State.timedWrite (s : State) (d : RegDef) (key : Nat) (v m : Word) : State :=
  if word d.timed &&& m = 0 then s else s.schedule (.live key (word d.timed &&& m) v)

/-- The bits `m` of a register written, as far as they are writable now. -/
def State.writeBits (s : State) (d : RegDef) (t slot off : Nat) (v m : Word) : State :=
  let key := s.regKey d slot off
  let m := d.rw &&& m &&& s.openBits t slot off key
  let rw1c := d.mask (· == .rw1c) &&& v
  let s := if m = 0 ∧ rw1c = 0 then s else s.setReg key (blend (s.reg key) v m &&& ~~~rw1c)
  s.timedWrite d key v m

/-! ### Halves (R514) -/

/-- The bits of a _LO register that are the low half of its quantity: all but the enables. -/
def lowBits (t off : Nat) : Word :=
  match t with
  | 0x1 => 0xFFFFFFF0
  | 0x10 => 0xC0000000
  | 0xB => if off = 0x12C then 0xFFFFE000 else 0xFFFFFFFF
  | _ => 0xFFFFFFFF

def State.stagedLo (s : State) (src : Source) (off : Nat) : Option Word :=
  match s.staged.find? fun e => e.1 == (src, off) with
  | some e => some e.2
  | none => none

def State.dropStaged (s : State) (src : Source) (off : Nat) : State :=
  { s with staged := s.staged.filter fun e => e.1 != (src, off) }

/-- A _LO half staged for its source. -/
def State.stageLo (s : State) (src : Source) (off : Nat) (v : Word) : State :=
  { s.dropStaged src off with staged := (s.dropStaged src off).staged ++ [((src, off), v)] }

/-- A _HI write of a plain pair: both halves, where they are writable. A _HI write that is ignored leaves the staged half. -/
def State.writePair (s : State) (src : Source) (lo hi : RegDef) (t slot off : Nat) (v : Word) : State :=
  if s.openBits t slot off (s.regKey hi slot off) &&& hi.rw = 0 then s
  else
    let s := match s.stagedLo src (slot * 4096 + off - 4) with
      | some l => s.writeBits lo t slot (off - 4) l (lowBits t (off - 4))
      | none => s
    (s.writeBits hi t slot off v (BitVec.allOnes 32)).dropStaged src (slot * 4096 + off - 4)

/-! ### Enables -/

/-- A unit's enable field written (R452, R453). -/
def State.writeEnable (s : State) (u : UnitId) (on : Bool) : State := if on then s.requestEnable u else s.writeDisable u

/-! ### Headers (R515, R516) -/

def State.writeBlkCtl (s : State) (t i slot : Nat) (v : Word) : State :=
  let k := slot * 4096 + 8
  let s := s.setReg k (blend (s.reg k) v 0x20000000)
  match pageUnit t i with
  | none => s
  | some u => if v.bit 30 then s.writeReset u else s.writeEnable u (v.bit 31)

/-- BLK_IRQ_FORCE sets bits of BLK_IRQ_STAT. -/
def State.forceIrq (s : State) (slot : Nat) (v : Word) : State :=
  let k := slot * 4096 + 0x10
  s.setReg k (s.reg k ||| (v &&& 0xF))

def State.writeHeader (s : State) (t i slot off : Nat) (v : Word) : State :=
  match off with
  | 0x008 => s.writeBlkCtl t i slot v
  | 0x010 => let k := slot * 4096 + 0x10; s.setReg k (s.reg k &&& ~~~(v &&& 0xF))
  | 0x014 => s.setReg (slot * 4096 + 0x14) (v &&& 0xF)
  | 0x018 => s.forceIrq slot v
  | _ => s

/-! ### Pages whose writes act -/

def State.writePdk (s : State) (d : RegDef) (slot off : Nat) (v : Word) : State :=
  if off = 0x120 then s.writeFaultHead v else s.writeBits d 1 slot off v (BitVec.allOnes 32)

def State.writeGroomPage (s : State) (d : RegDef) (slot off : Nat) (v : Word) : State :=
  match off with
  | 0x104 => { s with groom := { s.groom with bootCfg := v &&& 0xC000000F } }
  | 0x114 => if v.bit 31 then { s with groom := { s.groom with clearList := true } } else s
  | 0x118 => s.writeRstCtl v
  | 0x120 => if v.bit 31 then s.commitRollback else s
  | 0x184 => if v.bit 31 then s.pairSwitch else s
  | _ => s.writeBits d 2 slot off v (BitVec.allOnes 32)

def State.writePowerPage (s : State) (d : RegDef) (slot off : Nat) (v : Word) : State :=
  match off with
  | 0x100 => s.writePower v
  | 0x104 => if v.bit 24 then { s with power := { s.power with refused := false } } else s
  | _ => s.writeBits d 3 slot off v (BitVec.allOnes 32)

def State.writeSecurity (s : State) (d : RegDef) (slot off : Nat) (v : Word) : State :=
  match off with
  | 0x104 => s.writeDebug v
  | 0x108 => s.writeAuth v
  | 0x10C => s.writeKeyCmd v
  | 0x120 => s.writeLink v
  | _ => s.writeBits d 5 slot off v (BitVec.allOnes 32)

/-- A write of SNP_CTL: its settings, then its triggers. -/
def State.writeSnapCtl (s : State) (d : RegDef) (slot : Nat) (v : Word) : State :=
  let s := s.writeBits d 6 slot 0x100 v (BitVec.allOnes 32)
  let s := if v.bit 31 then s.rearm else s
  let s := if v.bit 30 then s.trigger 0 0 else s
  let s := if v.bit 29 then s.trigger 1 0 else s
  if v.bit 28 then s.rackTrigger 0 else s

def State.writeSnapshot (s : State) (d : RegDef) (slot off : Nat) (v : Word) : State :=
  if off = 0x100 then s.writeSnapCtl d slot v else s.writeBits d 6 slot off v (BitVec.allOnes 32)

def State.writeQuad (s : State) (d : RegDef) (slot off : Nat) (v : Word) : State :=
  let q : Fin 4 := Fin.ofNat 4 ((off - 0x100) / 16)
  if off % 16 = 4 then if v.bit 28 then s.setQuad q { s.quad q with refused := false } else s
  else
    let s := s.writeBits d 7 slot off v (BitVec.allOnes 32)
    if v.bit 31 then s.writeSwap q else s

def State.writeLaser (s : State) (d : RegDef) (slot off : Nat) (v : Word) : State :=
  if off < 0x140 then s.writeQuad d slot off v
  else if off < 0x200 then s.writeBits d 7 slot off v (BitVec.allOnes 32)
  else
    let k : Fin 8 := Fin.ofNat 8 ((off - 0x200) / 16)
    match off % 16 with
    | 0 => s.writeCartCtl k v
    | 4 => if v.bit 23 then s.setCart k { s.cart k with refused := false } else s
    | _ => s

def State.writePlanes (s : State) (v : Word) : State := (allFin 16).foldl (fun s p => s.writeEnable (.plane p) (v.bit p.val)) s

def State.writeAllocator (s : State) (d : RegDef) (slot off : Nat) (v : Word) : State :=
  if off = 0x124 then s.writePlanes v else s.writeBits d 9 slot off v (BitVec.allOnes 32)

/-- A write of HCH_CTR_THRESH (R338): of the selected counter. -/
def State.writeThresh (s : State) (v : Word) : State :=
  match s.selectedCounter with
  | some c => s.setCtr c { s.ctr c with thresh := v }
  | none => s

def State.writeHitch (s : State) (d : RegDef) (slot off : Nat) (v : Word) : State :=
  match off with
  | 0x114 => s.writeCtrCtl v
  | 0x118 => { s with hitch := { s.hitch with staged := v } }
  | 0x11C => s.writeArm v
  | 0x120 => s.writeThresh v
  | 0x124 => s.writeRevoke (v.field 11 0)
  | _ => s.writeBits d 0xB slot off v (BitVec.allOnes 32)

def State.writeStable (s : State) (d : RegDef) (slot off : Nat) (v : Word) : State :=
  if 0x400 ≤ off ∧ off % 32 = 0xC then s.writeCrTail ((off - 0x400) / 32) (BitVec.ofNat 16 v.toNat)
  else s.writeBits d 0xD slot off v (BitVec.allOnes 32)

/-- The RW fields of a lease entry, while it is FREE, EXPIRED or REFUSED (R371). -/
def State.writeLease (s : State) (w1 : Bool) (v : Word) : State :=
  let i := s.leaseIndex
  let l := s.lease i
  if l.st = .acquiring ∨ l.st = .held then s
  else if w1 then s.setLease i { l with job := v.field 11 0 }
  else s.setLease i { l with home := v.field 27 23, region := v.field 22 0 }

/-- A write of FAB_UPL_CTL (R390, R394): the settings, the enables at their boundary, and resume at once. -/
def State.writeUplinkCtl (s : State) (d : RegDef) (slot : Nat) (v : Word) : State :=
  let u := s.selectedUplink
  let s := s.writeBits d 0xF slot 0x1B8 v (BitVec.allOnes 32)
  let s := (s.schedule (.uplinkTx u (v.bit 31))).schedule (.uplinkRx u (v.bit 30))
  if v.bit 29 then s.resumeUplink u else s

def State.writeFabric (s : State) (d : RegDef) (slot off : Nat) (v : Word) : State :=
  let u := s.selectedUplink
  match off with
  | 0x118 => s.ingressCommand (v.field 31 30)
  | 0x120 => s.writeLease false v
  | 0x124 => s.writeLease true v
  | 0x128 => s.leaseCommand (v.field 31 30)
  | 0x190 => s.writeTable v
  | 0x194 => s.routingOp (v.field 31 30)
  | 0x1B8 => s.writeUplinkCtl d slot v
  | 0x1CC => s.writeUplinkTail u (BitVec.ofNat 16 v.toNat)
  | 0x1D8 => s.setUplink u { s.uplink u with rxHead := BitVec.ofNat 16 v.toNat }
  | _ => s.writeBits d 0xF slot off v (BitVec.allOnes 32)

/-- A write of BRD_LANE_CTL (R410): lanes 26 and 27 ignore the enable. -/
def State.writeLaneCtl (s : State) (b : Fin 4) (v : Word) : State :=
  let l := s.selectedLane b
  let s := if l = 26 ∨ l = 27 then s else s.writeEnable (.lane b l) (v.bit 0)
  if v.bit 1 then s.writeRetrain b l else s

def State.writeBridle (s : State) (d : RegDef) (b : Fin 4) (slot off : Nat) (v : Word) : State :=
  if off = 0x104 then s.writeLaneCtl b v else s.writeBits d 0x11 slot off v (BitVec.allOnes 32)

def State.writeMemory (s : State) (d : RegDef) (slot off : Nat) (v : Word) : State :=
  if off = 0x11C then s.mapKey (s.regF Reg.MEM_KEY_SEL 11 0) (bitOf (v.bit 31) * 4096 + v.field 11 0)
  else s.writeBits d 0x12 slot off v (BitVec.allOnes 32)

def State.writeStack (s : State) (k : Fin 24) (off : Nat) (v : Word) : State :=
  if off = 0x100 ∧ v.bit 26 then s.setStack k { s.stack k with refused := false } else s

def State.writePort (s : State) (d : RegDef) (p : Fin 64) (slot off : Nat) (v : Word) : State :=
  if off = 0x108 then s.writeEnable (.slot (s.selectedSlot p)) (v.bit 0)
  else s.writeBits d 0x13 slot off v (BitVec.allOnes 32)

/-- A gait request counts two boundaries (R32). -/
def State.writeGait (s : State) (key : Nat) (v : Word) : State :=
  let s := s.setReg key (v &&& 0xF0000000)
  { s with due := s.due ++ [(s.clk.bnd + 2, .live key 0xF0000000 v)] }

def State.writeDie (s : State) (d : RegDef) (r : Fin 8) (slot off : Nat) (v : Word) : State :=
  match off with
  | 0x15C => (s.writeEnable (.field r false) (v.bit 31)).writeEnable (.field r true) (v.bit 30)
  | 0x160 => s.writeGait (slot * 4096 + off) v
  | _ => s.writeBits d 0x14 slot off v (BitVec.allOnes 32)

/-! ### The core row page (R87 to R89) -/

/-- A write of RKN_Qq_CTL: the settings while DISABLED, the enable at its boundary, resume of a halted queue. -/
def State.writeQueueCtl (s : State) (q : QueueId) (v : Word) : State :=
  let k := s.queue q
  let k := if s.queueState q = .disabled then { k with ringLog2 := v.field 24 21, cplLog2 := v.field 20 16, job := v.field 11 0 } else k
  let s := (s.setQueue q { k with enable := v.bit 31 }).schedule (.queueEnable q (v.bit 31))
  match v.field 30 29 with
  | 1 => s.resume q false
  | 2 => s.resume q true
  | _ => s

/-- A write of RKN_Qq_HEAD: while DISABLED or HALTED. Loops are left. -/
def State.writeHead (s : State) (q : QueueId) (v : BitVec 16) : State :=
  let k := s.queue q
  if s.queueState q = .disabled ∨ k.st = .halted then s.setQueue q { k with head := v, pc := v, loops := [] } else s

def State.writeQueue (s : State) (src : Source) (q : QueueId) (w o : Nat) (v : Word) : State :=
  let k := s.queue q
  let idle := s.queueState q == .disabled
  match o with
  | 0x00 => s.writeQueueCtl q v
  | 0x04 => if idle then s.setQueue q { k with base := v.field 14 0 } else s
  | 0x08 => s.writeTail q (BitVec.ofNat 16 v.toNat)
  | 0x0C => s.writeHead q (BitVec.ofNat 16 v.toNat)
  | 0x14 => s.stageLo src w (v &&& 0xFFFFFFF0)
  | 0x18 =>
    if idle then
      (s.setQueue q { k with cplLo := (s.stagedLo src (w - 4)).getD k.cplLo, cplHi := v &&& 0xFFF }).dropStaged src (w - 4)
    else s
  | 0x1C => (s.setQueue q { k with cplHead := BitVec.ofNat 16 v.toNat }).settleQueue q
  | _ => s

def State.writeCore (s : State) (src : Source) (i slot off : Nat) (v : Word) : State :=
  match coreWindow i off with
  | none => s
  | some (c, o) =>
    if o = 0 then
      (s.setCore c { s.core c with bcastRx := v.bit 2, zeroise := v.bit 1 }).writeEnable (.core c) (v.bit 0)
    else if o < 0x10 then s
    else s.writeQueue src ⟨c, Fin.ofNat 4 ((o - 0x10) / 0x20)⟩ (slot * 4096 + off) ((o - 0x10) % 0x20) v

/-! ### Any register -/

/-- A write of a register that is no half of a pair. -/
def State.writePlain (s : State) (d : RegDef) (t i slot off : Nat) (v : Word) : State :=
  match t with
  | 0x1 => s.writePdk d slot off v
  | 0x2 => s.writeGroomPage d slot off v
  | 0x3 => s.writePowerPage d slot off v
  | 0x5 => s.writeSecurity d slot off v
  | 0x6 => s.writeSnapshot d slot off v
  | 0x7 => s.writeLaser d slot off v
  | 0x9 => s.writeAllocator d slot off v
  | 0xB => s.writeHitch d slot off v
  | 0xC => if off = 0x100 then s.writeTblCtl v else s.writeBits d t slot off v (BitVec.allOnes 32)
  | 0xD => s.writeStable d slot off v
  | 0xF => s.writeFabric d slot off v
  | 0x11 => s.writeBridle d (Fin.ofNat 4 i) slot off v
  | 0x12 => s.writeMemory d slot off v
  | 0x13 => s.writePort d (Fin.ofNat 64 i) slot off v
  | 0x14 => s.writeDie d (Fin.ofNat 8 i) slot off v
  | 0x18 => s.writeStack (Fin.ofNat 24 i) off v
  | 0xE => s.writeBits d t slot off (if off = 0x114 ∧ v.field 15 0 < 100 then 100 else v) (BitVec.allOnes 32)
  | _ => s.writeBits d t slot off v (BitVec.allOnes 32)

/-- A _LO write: its low-half fields are staged; an enable beside them is applied. A base of an EDU table set that is refused is not
staged (R135). -/
def State.writeLo (s : State) (src : Source) (d : RegDef) (t slot off : Nat) (v : Word) : State :=
  let key := s.regKey d slot off
  let low := lowBits t off
  let setB := off == 0x10C
  if t = 0xC ∧ off ≠ 0x114 ∧ (s.eduPending || setB == s.edu.active) then s.setEdu { s.edu with refused := true }
  else
    let s := s.stageLo src (slot * 4096 + off) (v &&& low)
    if d.rw &&& ~~~low = 0 then s
    else if t = 1 then
      (s.setReg key (blend (s.reg key) v 1)).schedule (.faultRing (s.regF Reg.PDK_FLT_SEL 11 0) (v.bit 0))
    else s.writeBits d t slot off v (~~~low)

/-- A _HI write. -/
def State.writeHi (s : State) (src : Source) (lo hi : RegDef) (t slot off : Nat) (v : Word) : State :=
  let setB := off == 0x110
  if t = 0xC ∧ off ≠ 0x118 ∧ (s.eduPending || setB == s.edu.active) then s.setEdu { s.edu with refused := true }
  else s.writePair src lo hi t slot off v

/-- A write to an offset of a page. -/
def State.writePage (s : State) (src : Source) (t i slot off : Nat) (v : Word) : State :=
  match findReg t off with
  | none => s
  | some d =>
    if off < 0x100 then s.writeHeader t i slot off v
    else if t = 0x16 then s.writeCore src i slot off v
    else if isLo t off then if d.rw = 0 then s else s.writeLo src d t slot off v
    else if isHi t off then match findReg t (off - 4) with
      | some lo => if d.rw = 0 then s else s.writeHi src lo d t slot off v
      | none => s
    else s.writePlain d t i slot off v

/-- A register write of a source at a window offset, where the source may make it (R510): whether the offset is not a hole, and the
state after it. A block without power discards it. -/
def State.writeReg (s : State) (src : Source) (off : Nat) (v : Word) : Bool × State :=
  match regPlace off with
  | .hole => (false, s.raiseHole src off)
  | .directory _ => (true, s)
  | .page t i slot o => (true, if s.pageAnswers t && s.mayWrite src off then s.writePage src t i slot o v else s)

/-- REGISTER_WRITE (R511). -/
def execRegisterWrite (src : Source) (off : BitVec 28) (val : Word) (cyc : Nat) (s : State) : Host.Outcome State Fault Refusal :=
  .next ((s.advance cyc).writeReg src off.toNat val).2

/-- HI_WRITE_APPLY (R514). -/
def execHiWriteApply (src : Source) (off : BitVec 28) (val : Word) (cyc : Nat) (s : State) : Host.Outcome State Fault Refusal :=
  .next ((s.advance cyc).writeReg src off.toNat val).2

/-- BLK_IRQ_FORCE (R515): a write of the mask to the page of a slot. -/
def execBlkIrqForce (src : Source) (slot : BitVec 16) (mask : Word) (s : State) : Host.Outcome State Fault Refusal :=
  .next (s.writeReg src (slot.toNat * 4096 + 0x18) mask).2

end Sys2Proof.Machine
end

