-- ==== Sys2Proof/Machine/Host.lean ====
section
/-! DEFINITION. The PCI Express endpoint (R412 to R418), the management port and the console (R420, R421), the management gate (R464)
and the JTAG memory access port (R491). -/

namespace Sys2Proof.Machine

/-! ### The link (R413) -/

/-- PCI_LINK_STAT: state, width and speed. -/
def State.setPciLink (s : State) (state width speed : Nat) : State :=
  s.setRegF Reg.PCI_LINK_STAT 31 20 (putBits 11 9 state + putBits 8 4 width + putBits 3 0 speed)

def State.pciUp (s : State) : Bool := s.regF Reg.PCI_LINK_STAT 31 29 == 2

/-- The window of a function cleared, with the writes of it that wait for their boundary. -/
def State.clearWindow (s : State) (fn : Nat) : State :=
  let keys := [bank fn Reg.PCI_WIN_LO, bank fn Reg.PCI_WIN_HI]
  let waits (e : Nat × Effect) : Bool := match e.2 with
    | .live k _ _ => keys.contains k
    | _ => false
  { s with regs := keys.foldl Table.drop s.regs, live := keys.foldl Table.drop s.live, due := s.due.filter fun e => !waits e }

/-- The endpoint is reset: MSI-X tables and windows of every function cleared, every host counter orphaned. -/
def State.resetEndpoint (s : State) : State :=
  let s := (List.range 64).foldl (fun (s : State) fn => (s.orphanFunction fn).clearWindow fn) s
  { s with pci := { s.pci with msix := [] } }

/-- PERST_ASSERT (R413). -/
def execPerstAssert (s : State) : Host.Outcome State Fault Refusal :=
  let s := s.resetEndpoint.setPciLink 4 0 0
  .next { s with pci := { s.pci with perst := true } }

/-- PCIE_DL_DOWN (R413): the outcome of PERST_N, without it. -/
def execPcieDlDown (s : State) : Host.Outcome State Fault Refusal :=
  .next (if s.pci.perst then s else s.resetEndpoint.setPciLink 0 0 0)

/-- PERST_DEASSERT (R413): the link trains. -/
def execPerstDeassert (s : State) : Host.Outcome State Fault Refusal :=
  let s := { s with pci := { s.pci with perst := false } }
  .next (s.setPciLink 1 0 0)

/-- PCIE_LINK_UP (R412, R413): a partner without Flit mode leaves the link down. Nothing trains under PERST_N. -/
def execPcieLinkUp (width : Fin 17) (speed : Fin 7) (flit : Bool) (s : State) : Host.Outcome State Fault Refusal :=
  .next (if s.pci.perst then s
    else if flit then s.setPciLink 2 width.val speed.val
    else s.setPciLink 3 0 0)

/-! ### Functions (R414) -/

/-- The job of a function in force. -/
def State.fnJob (s : State) (fn : Fin 64) : Nat := s.liveF (bank fn.val Reg.PCI_FN_JOB) 11 0

/-- The function PCI_RING_FN assigns a command ring to. -/
def State.ringFn (s : State) (n : Nat) : Option Nat :=
  let b := s.regF (Reg.PCI_RING_FNn + 4 * (n / 4)) 31 0 / 2 ^ (8 * (n % 4)) % 256
  if 128 ≤ b then some (b % 64) else none

/-- A command ring disabled at the next boundary; its present commands stay. -/
def State.disableRing (s : State) (n : Nat) : State :=
  let k := crReg n Reg.STB_CRn_CTL
  (s.setRegF k 31 31 0).scheduleNext (.live k 0x80000000 0)

/-- FUNCTION_LEVEL_RESET (R414). -/
def execFunctionLevelReset (fn : Fin 64) (cyc : Nat) (s : State) : Host.Outcome State Fault Refusal :=
  let s := ((s.advance cyc).bump (Reg.PCI_CNT_n + 24) 1).orphanFunction fn.val
  let s := s.clearWindow fn.val
  let s := { s with pci := { s.pci with msix := s.pci.msix.filter fun e => e.1 / 2048 != fn.val } }
  .next (((List.range 64).filter fun n => s.ringFn n == some fn.val).foldl State.disableRing s)

/-! ### BAR0 (R415) -/

/-- A request of one DW: a read is answered, a write is made. -/
def State.bar0 (s : State) (off : Nat) (write : Option Word) : State :=
  match write with
  | some v => (s.writeReg (.pcie 0) off v).2
  | none =>
    let got := s.readReg (.pcie 0) off
    let v := got.1
    let s := got.2.2
    s.emit (.completion 0 .ok (natLe v.toNat 4) false)

/-- BAR0_ACCESS. A request of another shape is refused. -/
def execBar0Access (whole : Bool) (off : BitVec 28) (write : Option Word) (cyc : Nat) (s : State) : Host.Outcome State Fault Refusal :=
  let s := s.advance cyc
  .next (if !s.pciUp then s
    else
      let s := s.bump Reg.PCI_CNT_n 1
      if whole then s.bar0 off.toNat write
      else
        let s := s.bump (Reg.PCI_CNT_n + 4) 1
        if write.isSome then s else s.emit (.unsupported 0 off.toNat))

/-! ### BAR4 (R416) -/

/-- The window of a function in force: its base, while it is enabled. -/
def State.windowBase (s : State) (fn : Fin 64) : Option Nat :=
  let lo := bank fn.val Reg.PCI_WIN_LO
  if s.liveF lo 0 0 = 1 then some (s.liveF lo 31 30 * 2 ^ 30 + s.liveF (bank fn.val Reg.PCI_WIN_HI) 11 0 * 2 ^ 32) else none

/-- The bytes a request touches, and whether it is answered with a completion. -/
def hostLength : HostRequest → Nat
  | .read n => n
  | .write d => d.length
  | .fetchAdd wide _ => if wide then 8 else 4
  | .swap wide _ => if wide then 8 else 4
  | .cas _ _ => 4

/-- The status of a request to a hole (R26): a read gives poison, a store or an atomic fails. -/
def hostMissed : HostRequest → Status
  | .read _ => .poison
  | _ => .failed

/-- The answer of a request that was not made: poison words for a read. -/
def State.hostAnswer (s : State) (fn : Fin 64) (req : HostRequest) (st : Status) : State :=
  match req with
  | .read n => s.emit (.completion fn st (poisonBytes n) false)
  | .write _ => s
  | _ => s.emit (.completion fn st [] false)

/-- A read through the window: data that may not be used is the poison words, counted, and marked EP where PCI_CTL says so. -/
def State.hostLoad (s : State) (fn : Fin 64) (w : Accessor) (a n : Nat) : State :=
  match s.load w a n with
  | (bs, .ok, s) => s.emit (.completion fn .ok bs false)
  | (bs, st, s) => (s.bump (Reg.PCI_CNT_n + 28) 1).emit (.completion fn st bs (s.regF Reg.PCI_CTL 0 0 == 1))

/-- The number of a host atomic among those of R349, and its operands. -/
def hostAtomic : HostRequest → Nat × Word × Word
  | .fetchAdd wide v => ((if wide then 2 else 1), BitVec.ofNat 32 v.toNat, BitVec.ofNat 32 (v.toNat / 2 ^ 32))
  | .swap wide v => ((if wide then 4 else 3), BitVec.ofNat 32 v.toNat, BitVec.ofNat 32 (v.toNat / 2 ^ 32))
  | .cas compare v => (5, compare, v)
  | _ => (0, 0, 0)

/-- An AtomicOp through the window (R226, R349, R412). -/
def State.hostModify (s : State) (fn : Fin 64) (w : Accessor) (a : Nat) (req : HostRequest) : State :=
  let (op, w1, w2) := hostAtomic req
  let n := atomicWidth op
  if a % n ≠ 0 then (s.raiseTo Flt.FAB_ATOMIC_BAD w.block w.job (a % 2 ^ 32)).hostAnswer fn req .failed
  else match s.modify w a n (atomicResult op w1 w2) with
    | (some old, st, s) => s.emit (.completion fn st (natLe old n) false)
    | (none, st, s) => s.emit (.completion fn st [] false)

/-- A request to module memory. -/
def State.hostAccess (s : State) (fn : Fin 64) (w : Accessor) (a : Nat) (req : HostRequest) : State :=
  match req with
  | .read n => s.hostLoad fn w a n
  | .write d => (s.store w a d).2
  | r => s.hostModify fn w a r

/-- A BAR4 access of a function under its job. -/
def State.bar4 (s : State) (fn : Fin 64) (off : Nat) (req : HostRequest) : State :=
  let job := s.fnJob fn
  let a := ((s.windowBase fn).getD 0) + off
  if fn.val ≠ 0 ∧ job = 0 then (s.raiseTo Flt.SEC_ACCESS_REFUSED blkPCI job (a % 2 ^ 32)).hostAnswer fn req .refused
  else if (s.windowBase fn).isNone || s.regionOf a (hostLength req) == .hole then
    let s := (s.raiseTo Flt.DRG_ADDR_UNMAPPED blkPCI job (a % 2 ^ 32)).bump (Reg.PCI_CNT_n + 8) 1
    s.hostAnswer fn req (hostMissed req)
  else s.hostAccess fn (engineAccess job blkPCI) a req

/-- BAR4_ACCESS. The window of a virtual function is 4 GiB. -/
def execBar4Access (fn : Fin 64) (off : BitVec 36) (req : HostRequest) (cyc : Nat) (s : State) : Host.Outcome State Fault Refusal :=
  let s := s.advance cyc
  .next (if !s.pciUp || (fn.val != 0 && decide (2 ^ 32 ≤ off.toNat)) then s
    else (s.bump Reg.PCI_CNT_n 1).bar4 fn off.toNat req)

/-! ### BAR2 (R337, R417) -/

def State.bar2Read (s : State) (fn : Fin 64) (off : Nat) : Word :=
  if off % 4 ≠ 0 then 0
  else if off < 0x800 then
    if off % 0x20 = 0 ∧ s.ringFn (off / 0x20) = some fn.val then BitVec.ofNat 32 (s.crHead (off / 0x20)).toNat else 0
  else if 0x10000 ≤ off ∧ off < 0x12000 then
    let v := s.ctr (.host (Fin.ofNat 1024 ((off - 0x10000) / 8)))
    if v.fn ≠ fn.val then 0 else if off % 8 = 0 then v.value else v.stateWord
  else if 0x20000 ≤ off ∧ off < 0x28000 then
    (s.msixEntry fn.val ((off - 0x20000) / 16)).words.getD ((off - 0x20000) / 4 % 4) 0
  else if 0x28000 ≤ off ∧ off < 0x28100 then
    let first := (off - 0x28000) * 8
    BitVec.ofNat 32 (((List.range 32).map fun i => bitOf (s.msixEntry fn.val (first + i)).pending * 2 ^ i).sum)
  else 0

/-- A write of an MSI-X table word; a vector no longer masked sends its pending message. -/
def State.writeMsix (s : State) (fn vector k : Nat) (v : Word) : State :=
  let e := s.msixEntry fn vector
  let e := { e with words := e.words.set k v }
  if e.pending && !(e.words.getD 3 1).bit 0 then
    (s.setMsix fn vector { e with pending := false }).hostMessage (.msix fn vector)
  else s.setMsix fn vector e

def State.bar2Write (s : State) (fn : Fin 64) (off : Nat) (v : Word) : State :=
  if off % 4 ≠ 0 then s
  else if off < 0x800 then
    if off % 0x20 ≠ 0 then s
    else if s.ringFn (off / 0x20) = some fn.val then s.writeCrTail (off / 0x20) (BitVec.ofNat 16 v.toNat)
    else (s.bump (Reg.PCI_CNT_n + 12) 1).logFault Flt.PCI_DB_REFUSED blkPCI (putBits 13 8 (off / 0x20) + fn.val)
  else if 0x10000 ≤ off ∧ off < 0x12000 then
    if off % 8 = 0 then s.hostDoorbell fn (Fin.ofNat 1024 ((off - 0x10000) / 8)) v else s
  else if 0x20000 ≤ off ∧ off < 0x28000 then s.writeMsix fn.val ((off - 0x20000) / 16) ((off - 0x20000) / 4 % 4) v
  else s

/-- BAR2_RING_DOORBELL: an access of a function to its BAR2. Writes of a virtual function with job 0 are refused (R414). -/
def execBar2RingDoorbell (fn : Fin 64) (off : BitVec 18) (write : Option Word) (cyc : Nat) (s : State) :
    Host.Outcome State Fault Refusal :=
  let s := s.advance cyc
  .next (if !s.pciUp then s
    else
      let s := s.bump Reg.PCI_CNT_n 1
      match write with
      | none => s.emit (.completion fn .ok (natLe (s.bar2Read fn off.toNat).toNat 4) false)
      | some v => if fn.val ≠ 0 ∧ s.fnJob fn = 0 then s else s.bar2Write fn off.toNat v)

/-! ### The management port (R420, R494, R510) -/

/-- I3C_OFFSET_WRITE. In the stride of a fail-over the port NACKs (R420, R467). -/
def execI3cOffsetWrite (off : Word) (s : State) : Host.Outcome State Fault Refusal :=
  .next (if !s.sup.vstby then s
    else if s.groom.overlap then s.emit (.nack .i3c off.toNat)
    else { s with mgmt := { s.mgmt with offset := off } })

/-- I3C_REGISTER_READ: the register at the offset, which advances; an offset that is no multiple of 4 is NACKed. -/
def execI3cRegisterRead (s : State) : Host.Outcome State Fault Refusal :=
  let o := s.mgmt.offset
  .next (if !s.sup.vstby then s
    else if s.groom.overlap ∨ o.toNat % 4 ≠ 0 then s.emit (.nack .i3c o.toNat)
    else
      let got := s.readReg .i3c o.toNat
      let v := got.1
      let s := got.2.2
      ({ s with mgmt := { s.mgmt with offset := o + 4 } }).emit (.regData .i3c o.toNat v))

/-- I3C_REGISTER_WRITE: what R494 does not permit is NACKed. -/
def execI3cRegisterWrite (off val : Word) (cyc : Nat) (s : State) : Host.Outcome State Fault Refusal :=
  let s := s.advance cyc
  .next (if !s.sup.vstby then s
    else if !s.groom.overlap ∧ off.toNat % 4 = 0 ∧ s.mayWrite .i3c off.toNat then (s.writeReg .i3c off.toNat val).2
    else s.emit (.nack .i3c off.toNat))

/-! ### The console (R421, R494) -/

/-- UART_READ_COMMAND. -/
def execUartReadCommand (off : Word) (s : State) : Host.Outcome State Fault Refusal :=
  .next (if s.sup.vstby then s.readFor .uart off.toNat else s)

/-- UART_LOG_COMMAND: the newest records, oldest of them first. -/
def execUartLogCommand (count : Word) (s : State) : Host.Outcome State Fault Refusal :=
  let n := s.flt.log.length
  let shown := (s.flt.log.drop (n - count.toNat)).zipIdx (n - min n count.toNat)
  .next (if s.sup.vstby && decide (1 ≤ s.debugLevel) then
      { s with out := s.out ++ shown.map fun r => .console (s.flt.written - BitVec.ofNat 32 (n - r.2)) r.1 }
    else s)

/-- UART_WRITE_COMMAND: a write that is not permitted is ignored. -/
def execUartWriteCommand (off val : Word) (cyc : Nat) (s : State) : Host.Outcome State Fault Refusal :=
  let s := s.advance cyc
  .next (if s.sup.vstby then (s.writeReg .uart off.toNat val).2 else s)

/-! ### The management gate (R464) -/

/-- The epoch of an action is older than the gate's: numbers of 8 bits, the newer half ahead. -/
def epochOlder (gate action : BitVec 8) : Bool := decide (0 < (gate - action).toNat ∧ (gate - action).toNat < 128)

/-- GATE_ACTION: the first copy of an action number is applied and journalled. -/
def execGateAction (g : Fin 2) (epoch : BitVec 8) (seq : BitVec 64) (off : BitVec 28) (val : Word) (cyc : Nat) (s : State) :
    Host.Outcome State Fault Refusal :=
  let s := s.advance cyc
  let gr := s.groom
  .next (if !s.sup.vstby || epochOlder gr.epoch epoch || gr.journal.contains seq.toNat then s
    else
      let s := { s with groom := { gr with journal := seq.toNat :: gr.journal,
                                           seq := if gr.seq.toNat < seq.toNat then seq else gr.seq } }
      (s.writeReg (.groom g) off.toNat val).2)

/-! ### JTAG (R491) -/

def State.setHalt (s : State) (g : Fin 2) (on : Bool) : State :=
  if g.val = 0 then { s with groom := { s.groom with halt0 := on } } else { s with groom := { s.groom with halt1 := on } }

/-- JTAG_MEMORY_ACCESS: at INTRUSIVE only; memory under job 0. A single step leaves the Groom halted. -/
def execJtagMemoryAccess (access : JtagAccess) (s : State) : Host.Outcome State Fault Refusal :=
  .next (if s.debugLevel ≠ 2 then s
    else match access with
      | .read a n =>
        let got := s.load (engineAccess 0 blkSEC) a.toNat n
        let bs := got.1
        let st := got.2.1
        let s := got.2.2
        s.emit (.jtag st bs)
      | .write a bs =>
        let got := s.store (engineAccess 0 blkSEC) a.toNat bs
        let st := got.1
        let s := got.2
        s.emit (.jtag st [])
      | .halt g => s.setHalt g true
      | .resume g => s.setHalt g false
      | .step g => s.setHalt g true)

end Sys2Proof.Machine
end

