-- ==== Sys2Proof/Machine/Rein.lean ====
section
/-! DEFINITION. Rein (R304 to R310, R323): requests as they are delivered, their answers, their time-out, and broadcasts. -/

namespace Sys2Proof.Machine

/-! ### The fields of a packet (R305) -/

def reinKind (p : ReinPacket) : Nat := p.w0.field 31 28
def reinVc (p : ReinPacket) : Nat := p.w0.field 25 25
def reinNode (p : ReinPacket) : Fin 64 := Fin.ofNat 64 (p.w0.field 21 16)
def reinAgent (p : ReinPacket) : BitVec 8 := BitVec.ofNat 8 (p.w0.field 15 8)
def reinTag (p : ReinPacket) : BitVec 8 := BitVec.ofNat 8 (p.w0.field 7 0)
def reinJob (p : ReinPacket) : Nat := p.w1.field 25 14
def reinClass (p : ReinPacket) : Nat := p.w0.field 27 26
def reinDst (p : ReinPacket) : Fin 64 := Fin.ofNat 64 (p.w1.field 31 26)
def reinAddr (p : ReinPacket) : Nat := p.w1.field 9 0 * 2 ^ 34 + p.w2.toNat * 4

/-- The words a WRITE or a MSG carries: the one of word 3, or its payload. -/
def reinData (p : ReinPacket) : List Word :=
  if p.w0.field 24 22 = 0 then [p.w3] else p.payload.take (4 * p.w0.field 24 22)

/-- A request of a row: its kind is one of the row's, and its virtual channel is that of requests. A READ asks for 1 to 16 words.
DEDUCED, assumption 42. -/
def reinFormed (kinds : List Nat) (p : ReinPacket) : Bool :=
  kinds.contains (reinKind p) && reinVc p == 0 && (reinKind p != 1 || decide (1 ≤ p.w3.field 4 0 ∧ p.w3.field 4 0 ≤ 16))

/-- The source of a register access over Rein: a Groom, by its agent ID, or the node and agent. -/
def reinSource (p : ReinPacket) : Source :=
  if (reinAgent p).toNat = agentGroom 0 then .groom 0
  else if (reinAgent p).toNat = agentGroom 1 then .groom 1
  else .rein (reinNode p) (reinAgent p)

/-! ### Counters -/

/-- A delivery's time kept where it is the longest since the last read. -/
def State.noteLatency (s : State) (latency : Nat) : State :=
  s.setRegF Reg.REIN_STAT 23 16 (max (s.regF Reg.REIN_STAT 23 16) (min latency 255))

/-- What arrives: flits corrected, and its time, or a flit that is lost and the packet with it (R309). -/
def State.reinFlits (s : State) (corrected : Nat) (bad : Bool) (latency : Nat) : State :=
  let s := if corrected = 0 then s else s.bump Reg.REIN_CNT_n corrected
  if bad then s.bump (Reg.REIN_CNT_n + 12) 1 else s.noteLatency latency

/-- A packet arrives. -/
def State.reinArrival (s : State) (p : ReinPacket) : State := s.reinFlits p.corrected p.bad p.latency

/-! ### What a request does at its target -/

/-- The window offset of an address in the register window. -/
def windowOff (a : Nat) : Option Nat := if registerBase ≤ a ∧ a < registerBase + 2 ^ 28 then some (a - registerBase) else none

def isScratch (a : Nat) : Bool := decide (scratchBase ≤ a ∧ a < registerBase)

/-- The node at which the agent of a page of the register window sits (R20, R304); for a Reckoner's, the first of the four of its die.
Where the spec places no agent, none. DEDUCED, assumption 42. -/
def pageNode (slot : Nat) : Option Nat :=
  if 0x100 ≤ slot ∧ slot < 0x180 then some ((slot - 0x100) / 16 * 4)
  else if 0x80 ≤ slot ∧ slot < 0xC0 then some (slot - 0x80)
  else if 0x41 ≤ slot ∧ slot < 0x41 + 24 then some (slot - 0x41 + 32)
  else if 0x34 ≤ slot ∧ slot < 0x38 then some (slot - 0x34 + 56)
  else if slot = 0x27 ∨ slot = 0x28 then some (slot - 0x27 + 60)
  else if slot = 0x24 ∨ slot = 0x25 ∨ slot = 0x22 ∨ slot = 0x23 then some 63
  else none

/-- The node a packet goes to has an agent that serves its address (R304). -/
def reinServed (p : ReinPacket) : Bool :=
  let a := reinAddr p
  let dst := (reinDst p).val
  if isScratch a then dst / 4 == (a - scratchBase) / (256 * 0x200000)
  else match windowOff a with
    | none => true
    | some off =>
      let slot := off / 4096
      match pageNode slot with
      | none => true
      | some n => if 0x100 ≤ slot then dst / 4 == n / 4 else dst == n

/-- The access of a Rein request to what it does not reach (R26). -/
def State.reinHole (s : State) (job a : Nat) : State := s.raiseTo Flt.DRG_ADDR_UNMAPPED blkREIN job (a % 2 ^ 32)

/-- Registers read one after the other. -/
def State.reinReadRegs (s : State) (src : Source) : List Nat → List Word × State
  | [] => ([], s)
  | off :: t =>
    let got := s.readReg src off
    let v := got.1
    let s := got.2.2
    let got := s.reinReadRegs src t
    let rest := got.1
    let s := got.2
    (v :: rest, s)

/-- The window offsets of `n` words. -/
def windowWords (off n : Nat) : List Nat := (List.range n).map fun i => off + 4 * i

/-- Every word lies in the window, outside its holes (R27). -/
def windowSound (offs : List Nat) : Bool := offs.all fun o => decide (o < 2 ^ 28) && regPlace o != .hole

/-- The status that a Rein response gives for that of an access. -/
def reinStatusOf : Status → ReinStatus
  | .ok => .ok
  | .refused => .refused
  | _ => .failed

/-- A READ: its answer. -/
def State.reinReadWindow (s : State) (p : ReinPacket) (off : Nat) : (ReinStatus × List Word) × State :=
  let n := p.w3.field 4 0
  if windowSound (windowWords off n) then
    let got := s.reinReadRegs (reinSource p) (windowWords off n)
    ((.ok, got.1), got.2)
  else ((.failed, List.replicate n poisonWord), s.reinHole (reinJob p) (reinAddr p))

/-- A read of scratch memory; another address is a hole. -/
def State.reinReadScratch (s : State) (p : ReinPacket) : (ReinStatus × List Word) × State :=
  let n := p.w3.field 4 0
  let a := reinAddr p
  if isScratch a then
    let got := s.load (engineAccess (reinJob p) blkREIN) a (4 * n)
    ((reinStatusOf got.2.1, wordsOf got.1), got.2.2)
  else ((.failed, List.replicate n poisonWord), s.reinHole (reinJob p) a)

/-- A read of registers or of scratch memory; what the node has no agent for is a hole. -/
def State.reinDoRead (s : State) (p : ReinPacket) : (ReinStatus × List Word) × State :=
  if !reinServed p then ((.failed, List.replicate (p.w3.field 4 0) poisonWord), s.reinHole (reinJob p) (reinAddr p))
  else match windowOff (reinAddr p) with
  | some off => s.reinReadWindow p off
  | none => s.reinReadScratch p

/-- A message to the Hitch root (R332, R334): a watch, or its withdrawal, which has query 1 and threshold 0 and finds a watch of its queue
on its counter. -/
def State.reinWatch (s : State) (p : ReinPacket) : State :=
  match watchOf (reinJob p) (p.payload.getD 0 0) (p.payload.getD 1 0) (p.payload.getD 2 0) with
  | none => s
  | some w =>
    let there (x : Watch) : Bool := x.q == w.q && x.ctr == w.ctr
    if w.query && w.threshold == 0 && s.hitch.watches.any there then
      { s with hitch := { s.hitch with watches := s.hitch.watches.filter fun x => !there x } }
    else s.takeWatch (reinJob p) (p.payload.getD 0 0) (p.payload.getD 1 0) (p.payload.getD 2 0)

/-- Registers written one after the other. -/
def State.reinWriteRegs (s : State) (src : Source) (offs : List Nat) (ws : List Word) : State :=
  (offs.zip ws).foldl (fun (s : State) (e : Nat × Word) => (s.writeReg src e.1 e.2).2) s

/-- The Hitch module counter page, whose writes are refused (R340). -/
def inCounterPage (off : Nat) : Bool := off / 4096 == Reg.HCH_MCi / 4096

/-- A WRITE or a MSG: its answer. A MSG to the Stable manager or the EDU is taken there; what it says reaches them by rows of their own
(assumption 42). -/
def State.reinWriteWindow (s : State) (p : ReinPacket) (off : Nat) : ReinStatus × State :=
  let a := reinAddr p
  let ws := reinData p
  if reinKind p = 6 then
    if off = Reg.HCH_CTR_SEL / 4096 * 4096 then (.ok, s.reinWatch p)
    else if off / 4096 = 0x24 ∨ off / 4096 = 0x25 then (.ok, s)
    else (.failed, s.reinHole (reinJob p) a)
  else if windowSound (windowWords off ws.length) then
    if inCounterPage off then (.refused, s)
    else (.ok, s.reinWriteRegs (reinSource p) (windowWords off ws.length) ws)
  else (.failed, s.reinHole (reinJob p) a)

/-- A write of scratch memory; another address is a hole. -/
def State.reinWriteScratch (s : State) (p : ReinPacket) : ReinStatus × State :=
  let a := reinAddr p
  if isScratch a && reinKind p == 2 then
    let got := s.store (engineAccess (reinJob p) blkREIN) a (bytesOf (reinData p))
    (reinStatusOf got.1, got.2)
  else (.failed, s.reinHole (reinJob p) a)

/-- A write of registers or of scratch memory; what the node has no agent for is a hole. -/
def State.reinDoWrite (s : State) (p : ReinPacket) : ReinStatus × State :=
  if !reinServed p then (.failed, s.reinHole (reinJob p) (reinAddr p))
  else match windowOff (reinAddr p) with
  | some off => s.reinWriteWindow p off
  | none => s.reinWriteScratch p

/-- What a packet's arrival makes of it (R305, R309): its answer, or none where it is discarded and its source waits for its time-out. -/
def State.reinAnswer (s : State) (p : ReinPacket) (read : Bool) : Option (ReinStatus × List Word) × State :=
  let s := s.reinArrival p
  if p.bad then (none, s)
  else if !reinFormed (if read then [1] else [2, 6]) p then (none, s.bump (Reg.REIN_CNT_n + 8) 1)
  else if read then
    let got := s.reinDoRead p
    (some got.1, got.2)
  else
    let got := s.reinDoWrite p
    (some (got.1, []), got.2)

/-- The request a response or a time-out ends. -/
def ReinRequest.is (r : ReinRequest) (node : Fin 64) (agent tag : BitVec 8) : Bool :=
  r.node == node && r.agent == agent && r.tag == tag

/-- A request of a packet, sent now, or held. -/
def State.reinRequest (s : State) (p : ReinPacket) (read : Bool) (answer : Option (ReinStatus × List Word)) (held : Option ReinPacket) :
    ReinRequest :=
  ⟨reinNode p, reinAgent p, reinTag p, read, p.w3.field 4 0, reinJob p, reinAddr p, s.now, none, answer, reinClass p, reinDst p, held⟩

/-- A request sent: what its source waits for. The watch message of a WAIT or BRANCH is in the list already (R332). -/
def State.reinSent (s : State) (p : ReinPacket) (read : Bool) (answer : Option (ReinStatus × List Word)) : State :=
  if s.rein.any fun r => r.is (reinNode p) (reinAgent p) (reinTag p) && r.watch.isSome && reinKind p == 6 then s
  else { s with rein := s.rein ++ [s.reinRequest p read answer none] }

/-- A source's earlier requests to a packet's destination that it waits for (R308): those of another class, and those that wait
themselves. -/
def reinBlocked (l : List ReinRequest) (p : ReinPacket) : Bool :=
  l.any fun r => r.node == reinNode p && r.agent == reinAgent p && r.dst == reinDst p && (r.cls != reinClass p || r.held.isSome)

/-- A packet is sent and delivered, or waits at its source (R308). -/
def State.reinSend (s : State) (p : ReinPacket) (read : Bool) : State :=
  if reinBlocked s.rein p then { s with rein := s.rein ++ [s.reinRequest p read none (some p)] }
  else
    let got := s.reinAnswer p read
    got.2.reinSent p read got.1

/-- REIN_READ (R305, R308, R309): the request is delivered, or discarded, in which case its source waits for its time-out. -/
def execReinRead (p : ReinPacket) (cyc : Nat) (s : State) : Host.Outcome State Fault Refusal :=
  .next ((s.advance cyc).reinSend p true)

/-- REIN_WRITE (R305, R308, R309, R332), of kind WRITE or MSG. -/
def execReinWrite (p : ReinPacket) (cyc : Nat) (s : State) : Host.Outcome State Fault Refusal :=
  .next ((s.advance cyc).reinSend p false)

/-! ### Responses (R305, R309) -/

/-- The first held request that waits for nothing more. -/
def State.reinFree (s : State) : Option ReinRequest :=
  s.rein.find? fun r => match r.held with
    | some p => !(reinBlocked (s.rein.takeWhile (· != r)) p)
    | none => false

/-- Requests that waited for the responses of another class are sent (R308). -/
def State.reinRelease (s : State) : Nat → State
  | 0 => s
  | n + 1 =>
    match s.reinFree with
    | none => s
    | some r =>
      match r.held with
      | none => s
      | some p =>
        let got := s.reinAnswer p r.read
        let sent := { r with held := none, sent := s.now, answer := got.1 }
        ({ got.2 with rein := got.2.rein.map fun x => if x = r then sent else x }).reinRelease n

/-- A request of a source is over, and what waited for it may go. -/
def State.reinDone (s : State) (r : ReinRequest) : State :=
  ({ s with rein := s.rein.erase r }).reinRelease s.rein.length

/-- A response reaches its source within 2 µs of its request (R309): the request completes. One whose request has timed out is discarded. -/
def State.reinResponse (s : State) (read : Bool) (node : Fin 64) (agent tag : BitVec 8) : State :=
  match s.rein.find? fun r => r.is node agent tag && r.read == read && r.answer.isSome && decide (s.now ≤ r.sent + 2000) with
  | none => s
  | some r =>
    match r.answer with
    | none => s
    | some (status, ws) => (s.reinDone r).emit (.reinDone node agent tag status ws)

/-- A response is delivered, or is lost with a flit of its own, or is discarded for its kind or its channel (R305, R309). -/
def State.reinDelivered (s : State) (read : Bool) (node : Fin 64) (agent tag : BitVec 8) (d : ReinDelivery) : State :=
  let s := s.reinFlits d.corrected d.bad d.latency
  if d.bad then s
  else if d.w0.field 31 28 = (if read then 3 else 4) ∧ d.w0.field 25 25 = 1 then s.reinResponse read node agent tag
  else s.bump (Reg.REIN_CNT_n + 8) 1

def execReinRdata (node : Fin 64) (agent tag : BitVec 8) (d : ReinDelivery) (cyc : Nat) (s : State) : Host.Outcome State Fault Refusal :=
  .next ((s.advance cyc).reinDelivered true node agent tag d)

def execReinWack (node : Fin 64) (agent tag : BitVec 8) (d : ReinDelivery) (cyc : Nat) (s : State) : Host.Outcome State Fault Refusal :=
  .next ((s.advance cyc).reinDelivered false node agent tag d)

/-- A watch whose WACK has not arrived (R332): its WAIT or BRANCH completes with ACCESS_FAULT. -/
def State.watchLost (s : State) (q : QueueId) : State :=
  if (s.queue q).wait.any fun w => w.watch && !w.held then (s.withdrawWatches q).answerWait q .refused else s

/-- A request without response 2 µs after it was sent completes at its source (R309). -/
def State.reinLate (s : State) (node : Fin 64) (agent tag : BitVec 8) : State :=
  match s.rein.find? fun r => r.is node agent tag && r.held.isNone && decide (r.sent + 2000 ≤ s.now) with
  | none => s
  | some r =>
    let s := (s.reinDone r).bump (Reg.REIN_CNT_n + 4) 1
    let s := s.raiseTo Flt.REIN_TIMEOUT blkREIN r.job (r.addr % 2 ^ 32)
    let s := match r.watch with
      | some q => s.watchLost q
      | none => s
    s.emit (.reinDone node agent tag .timeout (if r.read then List.replicate r.words poisonWord else []))

def execReinTimeout (node : Fin 64) (agent tag : BitVec 8) (cyc : Nat) (s : State) : Host.Outcome State Fault Refusal :=
  .next ((s.advance cyc).reinLate node agent tag)

/-! ### Broadcast (R310, R323) -/

/-- A core takes broadcast copies. -/
def State.takesBroadcast (s : State) (c : CoreId) : Bool :=
  let st := (s.unit (.core c)).st
  (st == .starting || st == .on) && (s.core c).bcastRx

/-- The copy of one core: written, or dropped there. -/
def State.bcastCopy (s : State) (off : Nat) (bs : List Byte) (dropped : List CoreId) (c : CoreId) : State :=
  if !s.takesBroadcast c then s
  else if dropped.contains c then s.bump (Reg.RKN_BCAST_DROP + c.rkn.val * 0x10000) 1
  else if 0x180000 < off + bs.length then s
  else s.poke (scratchAddr c off) bs

/-- REIN_BCAST: the payload written to one scratch offset of every core of the named Reckoners that takes it; never answered. -/
def execReinBcast (p : ReinPacket) (dropped : List CoreId) (cyc : Nat) (s : State) : Host.Outcome State Fault Refusal :=
  let s := (s.advance cyc).reinArrival p
  .next (if p.bad then s
    else if !reinFormed [5] p then s.bump (Reg.REIN_CNT_n + 8) 1
    else
      let off := p.w2.field 18 0 * 4
      let bs := bytesOf (p.payload.take (4 * p.w0.field 24 22))
      let dies := (allFin 8).filter fun r => (p.w3.field 31 24).testBit r.val
      (dies.flatMap dieCores).foldl (fun (s : State) c => s.bcastCopy off bs dropped c) s)

end Sys2Proof.Machine
end

