-- ==== Sys2Proof/Machine/Sync.lean ====
section
/-! DEFINITION. Rack alignment (R45 to R51): beacons, the master, and the states of synchronisation. The choice of a master where R47 and
R49 leave the path of agreement open is DEDUCED, assumption 44. -/

namespace Sys2Proof.Machine

def State.setSync (s : State) (v : Sync) : State := { s with sync := v }

def State.logSync (s : State) (f : FaultCode) : State := s.logFault f blkHCH 0

/-- This module's index. -/
def State.ownIndex (s : State) : Fin 32 := Fin.ofNat 32 s.moduleIndex

/-- The senders heard in the last `n` strides, each with its last beacon. -/
def Sync.heard (v : Sync) (n : Nat) : List (Fin 32 × Beacon) :=
  (v.beacons.filter fun e => decide (e.2.age < n)).map fun e => (Fin.ofNat 32 e.1, e.2)

/-- Another module is known to be MASTER: a beacon of the last two strides names one, and gives a distance to it (3 stands for none, R46). -/
def State.otherMaster (s : State) : Bool := (s.sync.heard 2).any fun e => decide (e.2.hops.val ≤ 2) && e.2.master != s.ownIndex

def State.anyTeamUp (s : State) : Bool := (allFin 10).any s.teamUp

/-- The module is eligible (R47). -/
def State.eligible (s : State) : Bool :=
  s.groom.ready && !s.groom.fatal && s.regF Reg.HCH_SYNC_CTL 0 0 == 1 && s.anyTeamUp
    && (decide (4000 ≤ s.sync.lockedFor) || !s.otherMaster)

/-- The masters that beacons of the last two strides propose: eligible senders, and the masters they name but the one lost. -/
def State.proposed (s : State) : List (Fin 32) :=
  (s.sync.heard 2).flatMap fun e =>
    (if e.2.eligible then [e.1] else [])
      ++ (if some e.2.master ≠ s.sync.lost ∧ (e.1 ≠ e.2.master ∨ e.2.eligible) then [e.2.master] else [])

/-- The lowest of the candidates, itself included where it is eligible (R47, R49). -/
def State.candidate (s : State) : Option (Fin 32) :=
  ((if s.eligible then [s.ownIndex] else []) ++ s.proposed).foldl (fun m c => match m with
    | none => some c
    | some d => some (if c < d then c else d)) none

/-- The hops this module sends (R46): 3 while it knows no master. -/
def State.ownHops (s : State) : Nat :=
  match s.sync.st with
  | .master => 0
  | .alone => 3
  | .holdover => 3
  | _ => ((s.sync.heard 2).filter fun e => e.2.master == s.sync.master).foldl (fun m e => min m (e.2.hops.val + 1)) 3

/-! ### Judging an offset (R48 to R50) -/

/-- The bound of R48 in units of 0.125 ns: ±16 ns, and ±32 ns for the 100 strides after a change of master. -/
def State.offsetBound (s : State) : Nat :=
  match s.sync.changed with
  | some b => if s.clk.bnd < b + 100 then 256 else 128
  | none => 128

/-- RESYNC entered, or a further step of it: a step stride, and the master's number where it differs. -/
def State.resync (s : State) (stride : BitVec 48) : State :=
  let entering := s.sync.st ≠ .resync
  let s := s.setSync { s.sync with st := .resync, step := true,
                                   rebase := if stride = s.clk.stride then none else some (stride + 1) }
  if entering then s.logSync Flt.HCH_ALIGN_LOST else s

/-- An offset measured against the master, whose number for this stride is `stride`. While a step stride is due or runs it is only
noted. An offset between 16 and 32 ns in the 100 strides after a change of master is LOCKED, as R48 has it, and not SLEWING. DEDUCED,
assumption 159. -/
def State.judgeOffset (s : State) (offset : Int) (stride : BitVec 48) : State :=
  let s := s.setSync { s.sync with offset := offset }
  if s.sync.step ∨ s.clk.len ≠ 1024 then s
  else if 2048 ≤ offset.natAbs ∨ stride ≠ s.clk.stride ∨ s.sync.st = .alone then s.resync stride
  else if offset.natAbs ≤ s.offsetBound then s.setSync { s.sync with st := .locked }
  else
    let entering := s.sync.st ≠ .slewing
    let s := s.setSync { s.sync with st := .slewing }
    if entering then s.logSync Flt.HCH_ALIGN_WARN else s

/-- Another master from now on. -/
def State.newMaster (s : State) (m : Fin 32) : State :=
  s.setSync { s.sync with master := m, changed := some s.clk.bnd, lost := none, masterSilent := 0 }

/-- The sender lies on the path with the fewest hops to the master, the lowest relay among equals (R48). -/
def State.onPath (s : State) (sender : Fin 32) (hops : Nat) : Bool :=
  (s.sync.heard 2).all fun e => e.2.master != s.sync.master || decide (hops < e.2.hops.val)
    || (e.2.hops.val == hops && decide (sender ≤ e.1))

/-- A beacon of a follower's master: a heartbeat of it, and, on the path of R48, a measurement. `beat` is the offset measured and the
sender's number for the stride that runs here. -/
def State.masterBeacon (s : State) (sender : Fin 32) (hops : Nat) (beat : Option (Int × BitVec 48)) : State :=
  let s := if sender = s.sync.master ∨ hops ≤ 1 then s.setSync { s.sync with masterSilent := 0 } else s
  match beat with
  | some (o, n) => if s.onPath sender hops then s.judgeOffset o n else s
  | none => s

/-- RESYNC entered from ALONE by a beacon that measures nothing: the next measurement says by which step (R49). -/
def State.resyncBlind (s : State) : State :=
  if s.sync.st = .alone then (s.setSync { s.sync with st := .resync }).logSync Flt.HCH_ALIGN_LOST else s

/-- What a beacon means to a module that is ALONE: it becomes MASTER where it is the lowest eligible, else it enters RESYNC (R49). -/
def State.beaconAlone (s : State) (sender master : Fin 32) (hops : Nat) (beat : Option (Int × BitVec 48)) : State :=
  if s.candidate = some s.ownIndex then (s.newMaster s.ownIndex).setSync { (s.newMaster s.ownIndex).sync with st := .master }
  else
    let m := s.candidate.getD master
    ((s.newMaster (if m = s.ownIndex then master else m)).masterBeacon sender hops beat).resyncBlind

/-- A beacon taken by its state (R47 to R50). A MASTER yields to a lower-numbered one that the beacon comes from or names at one hop,
and what the beacon measures says how it is aligned (R49, R393). -/
def State.takeBeacon (s : State) (sender master : Fin 32) (hops : Nat) (eligible : Bool) (beat : Option (Int × BitVec 48)) : State :=
  match s.sync.st with
  | .alone => s.beaconAlone sender master hops beat
  | .master =>
    if hops ≤ 1 ∧ (sender = master → eligible) ∧ master < s.ownIndex then
      let s := s.newMaster master
      (s.setSync { s.sync with st := .locked }).masterBeacon sender hops beat
    else s
  | .holdover =>
    if hops ≤ 1 ∧ master ≠ s.ownIndex then
      (s.newMaster master).masterBeacon sender hops beat
    else s
  | _ =>
    let s := if hops ≤ 1 ∧ master < s.sync.master then s.newMaster master else s
    if master = s.sync.master then s.masterBeacon sender hops beat else s

/-- What a beacon measures (R48, R400), in units of 0.125 ns: the link delay of its lane is taken off the time since this module's
boundary at which it arrived, and the nearer of this boundary and the next is held against the sender's. The number is the sender's for
the stride that runs here. -/
def State.measure (s : State) (b : Fin 4) (l : Fin 32) (stride : BitVec 48) (arrival : BitVec 16) : Int × BitVec 48 :=
  let o : Int := ((s.lane b l).delay : Int) - (arrival.toNat : Int)
  if o < -(4 * s.clk.len : Int) then (o + 8 * s.clk.len, stride - 1) else (o, stride)

/-- A BEACON is heard on the strand of a lane (R407). -/
def State.heardOn (s : State) (b : Fin 4) (l : Fin 32) : State :=
  match strandOf l with
  | some n => s.setStrand b n { s.strand b n with silent := 0 }
  | none => s

/-- A beacon noted and taken. -/
def State.hearBeacon (s : State) (b : Fin 4) (l : Fin 32) (sender : Fin 32) (v : Beacon) (arrival : Option (BitVec 16)) : State :=
  let s := s.heardOn b l
  let s := s.setSync { s.sync with beacons := s.sync.beacons.put sender.val v }
  s.takeBeacon sender v.master v.hops.val v.eligible (arrival.map (s.measure b l v.stride))

/-- BEACON_RECEIVED (R46 to R50, R407): a heartbeat of the strand whose lane (of a Bridle) carried it, and of its sender. A beacon sent again is not
measured, and has no arrival (R400). Only the lanes of teams carry beacons (R388). -/
def execBeaconReceived (lane : Fin 4 × Fin 32) (sender master : Fin 32) (hops : Fin 4) (eligible : Bool) (stride : BitVec 48)
    (arrival : Option (BitVec 16)) (s : State) : Host.Outcome State Fault Refusal :=
  .next (if lane.2.val < 26 then
      s.hearBeacon lane.1 lane.2 sender { master := master, hops := hops, eligible := eligible, stride := stride, age := 0 } arrival
    else s)

/-- HOLDOVER entered (R49). -/
def State.enterHoldover (s : State) : State :=
  (s.setSync { s.sync with st := .holdover, lost := some s.sync.master, step := false, rebase := none }).logSync Flt.HCH_MASTER_LOST

/-- MASTER_LOST_TIMEOUT (R49): a follower in the third stride without a beacon of its master. -/
def execMasterLostTimeout (s : State) : Host.Outcome State Fault Refusal :=
  let follows := s.sync.st = .locked ∨ s.sync.st = .slewing ∨ s.sync.st = .resync
  .next (if follows ∧ 3 ≤ s.sync.masterSilent then s.enterHoldover else s)

/-! ### The boundary -/

/-- The states at a boundary: ALONE where nothing has been heard for four strides (DESIGN CHOICE, assumption 158); a MASTER no longer
eligible, which enters HOLDOVER (DESIGN CHOICE, assumption 157); a take-over by this module; in HOLDOVER the candidate, who becomes
MASTER once every beacon names it. -/
def State.syncState (s : State) : State :=
  let me := s.ownIndex
  if s.sync.st = .alone then s
  else if (s.sync.heard 4).isEmpty then
    s.setSync { s.sync with st := .alone, master := me, lost := none, beacons := [], step := false, rebase := none }
  else match s.sync.st with
    | .master => if s.eligible then s else s.enterHoldover
    | .locked =>
      if s.eligible ∧ me < s.sync.master then
        let s := s.newMaster me
        s.setSync { s.sync with st := .master }
      else s
    | .holdover =>
      match s.candidate with
      | none => s
      | some c =>
        if c = me ∧ (s.sync.heard 1).all fun e => e.2.master == me then
          let s := s.newMaster me
          s.setSync { s.sync with st := .master }
        else s.setSync { s.sync with master := c }
    | _ => s

/-- Alignment at a boundary: the counts of strides, then the states. -/
def State.syncBoundary (s : State) : State :=
  let held := s.sync.st = .locked ∨ s.sync.st = .master
  let s := s.setSync { s.sync with lockedFor := if held then min 4000 (s.sync.lockedFor + 1) else 0
                                   masterSilent := s.sync.masterSilent + 1 }
  let s := s.syncState
  s.setSync { s.sync with beacons := s.sync.beacons.mapVals fun _ (b : Beacon) => { b with age := b.age + 1 } }

/-- The beacon of the stride that begins, on every strand of every team that is up (R46, R400). -/
def State.sendBeacon (s : State) : State :=
  let k := s.clk.stride.toNat
  let w0 := putBits 21 17 s.moduleIndex + putBits 16 12 s.sync.master.val + putBits 11 10 s.ownHops + putBits 9 9 (bitOf s.eligible)
  s.teamFrames (controlFrame 1 w0 [k % 2 ^ 32, k / 2 ^ 32])

/-! ### The clock (R33, R43, R44, R50) -/

/-- The offset rounded to whole stride cycles, of which a stride has 8 units each. -/
def roundedCycles (offset : Int) : Int := (offset + 4) / 8

/-- The length of a step stride (R50). -/
def stepLength (offset : Int) : Nat := (max 512 (min 1535 (1024 - roundedCycles offset))).toNat

/-- A rebase: HCH_STRIDE_REBASE with the old number as its stamp and the low word of the new one as its detail (DEDUCED, assumption 45),
and HCH_SYNC_STAT.rebased. -/
def State.noteRebase (s : State) : State :=
  match s.sync.rebase with
  | none => s
  | some n => (s.logFault Flt.HCH_STRIDE_REBASE blkHCH n.toNat).setRegF Reg.HCH_SYNC_STAT 31 31 1

/-- The stride clock at a boundary: the next number, or the master's, and the length of the stride that begins. -/
def State.tick (s : State) : State :=
  let n := match s.sync.rebase with
    | some n => n
    | none => s.clk.stride + 1
  { s with clk := { stride := n, cycle := 0, len := if s.sync.step then stepLength s.sync.offset else 1024, bnd := s.clk.bnd + 1,
                    base := s.clk.base + s.clk.len }
           sync := { s.sync with step := false, rebase := none } }

end Sys2Proof.Machine
end

