-- ==== Sys2Proof/Machine/Stride.lean ====
section
/-! DEFINITION. The stride boundary (R32 to R37, R42 to R51): what takes effect at it, in order. -/

namespace Sys2Proof.Machine

/-! ### Effects that were left for this boundary (R37, R453, R511) -/

/-- A lane used again, or DOWN for a new training (R406, R410). -/
def State.resumeLane (s : State) (b : Fin 4) (l : Fin 32) : State :=
  let v := s.lane b l
  let s := s.setLane b l { v with txSusp := false, suspended := if v.rxSusp then v.suspended else none }
  match strandOf l with
  | some n => s.pumpStrand b n
  | none => s

/-- Bits of a register come into force. -/
def State.comeLive (s : State) (key : Nat) (mask val : Word) : State :=
  s.setLive key (blend (s.live.getD key (regReset (key % bankStep))) val mask)

/-- A plane that the laser controller lets return, where its enable is 1. -/
def State.planeIn (s : State) (p : Fin 16) : State := if (s.unit (.plane p)).enable then s.startIf (.plane p) else s

/-- A Reckoner that is OFF waits for those of its reset that have yet to stop, to start together with them (R446). -/
def State.awaitMates (s : State) (r : Fin 8) (mask : Nat) (zeroise : Bool) : State :=
  let s := s.setDie r { s.die r with resetting := true, zeroiseReset := zeroise, together := mask }
  s.setUnit (.reckoner r) { s.unit (.reckoner r) with enable := true }

/-- The Reckoners of a mask, reset together: they stop at this boundary, and start when all have stopped (R446). -/
def State.resetReckoners (s : State) (mask : Nat) (zeroise : Bool) : State :=
  let named := (allFin 8).filter fun r => mask.testBit r.val
  let rest := named.filter fun r => (s.unit (.reckoner r)).st == .off
  let stop := named.filter fun r => (s.unit (.reckoner r)).st != .off
  let s := stop.foldl (fun s r =>
    let s := s.resetReckoner r zeroise
    s.setDie r { s.die r with together := mask }) s
  rest.foldl (fun s r => if stop.isEmpty then s.resetReckoner r zeroise else s.awaitMates r mask zeroise) s

/-- One effect. -/
def State.applyEffect (s : State) (e : Effect) : State :=
  match e with
  | .unitEnable u => s.unitEnabled u
  | .unitDisable u => s.unitDisabled u
  | .unitReset u => s.unitReset u
  | .unitFail u atOnce => s.unitFailed u atOnce
  | .live key mask val => s.comeLive key mask val
  | .faultRing job on => s.faultRing job on
  | .queueEnable q on => s.queueEnabled q on
  | .queueResume q skip => s.queueResumed q skip
  | .counterInit c value job fn => s.counterInit c value job fn
  | .counterFree c => s.counterFree c
  | .counterSet c value => s.counterSet c value
  | .revoke job => s.revokeJob job
  | .keyBind job tag => s.keyBound job tag
  | .levelGrant n => s.levelGrant n
  | .zeroise => s.zeroise
  | .powerTarget t => s.powerTarget t
  | .groomSwitch => s.groomSwitch
  | .reckonerReset mask z => s.resetReckoners mask z
  | .farrierReset r => s.farrierReset r
  | .eduSwitch => s.eduSwitchSets
  | .ingress i w0 w1 w2 => s.applyIngress i w0 w1 w2
  | .laneRetrain b l => if s.laneAlive b l then s.laneDown b l else s
  | .laneResume b l => s.resumeLane b l
  | .planeOut p => s.withdrawPlane p
  | .planeIn p => s.planeIn p
  | .bundleLane key lane spare => s.swapLane key lane spare
  | .uplinkTx u on => s.uplinkTxEnable u on
  | .uplinkRx u on => s.uplinkRxEnable u on

/-- An effect changes the state, the owner or the value of counters (R326). -/
def Effect.ofCounter : Effect → Bool
  | .counterInit .. => true
  | .counterFree _ => true
  | .counterSet .. => true
  | .revoke _ => true
  | _ => false

/-- The changes of counters are made before all else at a boundary (R326). -/
def State.applyCounters (s : State) : State :=
  let mine (e : Nat × Effect) : Bool := decide (e.1 ≤ s.clk.bnd) && e.2.ofCounter
  (s.due.filter mine).foldl (fun s e => s.applyEffect e.2) { s with due := s.due.filter fun e => !mine e }

/-- Every effect whose boundary this is, in the order in which they were left; those of later boundaries stay. -/
def State.applyDue (s : State) : State :=
  let now := s.due.filter fun e => decide (e.1 ≤ s.clk.bnd)
  let s := { s with due := s.due.filter fun e => !decide (e.1 ≤ s.clk.bnd) }
  now.foldl (fun s e => s.applyEffect e.2) s

/-! ### Orders 1 to 5 of R34 -/

/-- Planes lost in the stride that has ended are withdrawn (R257), and after 16 holds in a row the module fail-stops (R260, R450). -/
def State.withdrawLost (s : State) : State := s.lostPlanes.foldl (fun s p => s.withdrawPlane p) s
def State.holdLimit (s : State) : State := if 16 ≤ s.drg.holds then s.moduleFatal blkHRN else s

/-- A second stack lost is module-fatal (R239, R450). -/
def State.memoryLimit (s : State) (second : Bool) : State := if second then s.moduleFatal blkMEM else s

/-- Memory at a boundary, with the end of R239. -/
def State.memoryStep (s : State) : State := s.memoryBoundary.memoryLimit s.secondDue

/-- Queues held until a boundary (R39, R40). -/
def State.queuesBoundary (s : State) : State :=
  s.cores.foldl (fun (s : State) (e : Nat × Core) => match coreOf e.1 with
    | some c => (allFin 4).foldl (fun s q => s.queueBoundary ⟨c, q⟩) s
    | none => s) s

/-- The end of the stride: frames that are due, descriptors, alignment; then, first at the boundary, the counters (R326), and the samples
compared. -/
def State.endStride (s : State) : State := s.landHitch.endDescriptors.syncBoundary.noteRebase.tick.applyOrphans.applyCounters.thermalBoundary

/-- Units and registers: completions first, then the writes of this boundary (R453). -/
def State.unitsStep (s : State) : State := s.unitsBoundary.withdrawLost.applyDue

/-- The power grid of the new stride: clocks, splits, and the shares of the injection meters (R32, R80, R84). -/
def State.clocksStep (s : State) : State := ((allFin 8).foldl (fun s r => s.splitDie r) s.applyGaits).meterBoundary

/-- Orders 1 to 3: grants, the work plan, corrections; and the lasers. -/
def State.photonicsStep (s : State) : State :=
  (s.photonicBoundary.holdLimit).stableBoundary.calBoundary.planeRetries.laserBoundary

/-- Order 4, and the links that follow it: each strand begins the stride with its BEACON, then the ROUTE_ADV (R376, R400). -/
def State.routingStep (s : State) (rebased : Bool) : State :=
  (((s.bridleBoundary.linkSwitch rebased).routingSwitch rebased).fabricBoundary.sendBeacon.sendRouteAdv).pumpStrands.fabPump.uplinkBoundary

/-- What the new stride lets move: packets, requests whose time has passed, batches and queues. -/
def State.serveStep (s : State) : State := s.linkBoundary.endVerdicts.eduBoundary.queuesBoundary

/-- Order 5: the grade and the snapshots of the boundary, `old` being the state before it. -/
def State.showStep (s old : State) (rebased : Bool) : State := (s.groomBoundary.updateGrade.snapBoundary old rebased).sendRack

/-- A boundary. -/
def State.boundary (s : State) : State :=
  let old := s
  let rebased := s.syncBoundary.sync.rebase.isSome
  let s := s.endStride.unitsStep.memoryStep
  let s := s.photonicsStep.clocksStep
  ((s.routingStep rebased).serveStep.showStep old rebased)

/-- STRIDE_BOUNDARY. -/
def execStrideBoundary (s : State) : Host.Outcome State Fault Refusal := .next s.boundary

end Sys2Proof.Machine
end

