-- ==== Sys2Proof/Machine/VectorUnit.lean ====
section
/-! DEFINITION. The vector unit (R71, R113 to R116, R546): one meaning per operation over one shared shape. -/

namespace Sys2Proof.Machine

/-- The oldest started VECTOR of an operation that is not complete. -/
def Queue.runningVector (v : Queue) (vop : Nat) : Option Exec :=
  v.exec.find? fun e => e.desc.opcode == opVector && e.desc.vector.vop == vop && !e.complete

/-- That VECTOR, within its bound. -/
def State.runningVop (s : State) (q : QueueId) (vop : Nat) : Option Exec :=
  match (s.queue q).runningVector vop with
  | some e => if s.boundPast q.core e then none else some e
  | none => none

/-- The values of source `i` of a vector descriptor; src1 may be the immediate (R71). -/
def State.vectorSource (s : State) (w : Accessor) (c : CoreId) (x : VectorArgs) (i : Nat) : List Num × Status × State :=
  if i = 1 ∧ x.imm1 then (List.replicate x.count (fpFP32.decode x.imm.toNat), .ok, s)
  else
    let off := if i = 0 then x.src0 else if i = 1 then x.src1 else x.src2
    s.loadValues w x.srcFmt x.count (scratchAddr c (off * 64))

/-- Overflows beside those that conversion counts: RECIP and RSQRT of ±0 count even where the infinite result makes their B4 block a NaN block
(R116). -/
def VectorArgs.zeroOverflows (x : VectorArgs) (src : List Num) : Nat :=
  if (x.vop = 7 ∨ x.vop = 8) ∧ x.dstFmt = 0 ∧ !x.sat then (src.filter Num.isZero).length else 0

/-- A vector descriptor carried out: `f` makes the results of its sources. It waits while a range of it is still to be
written by an earlier operation (R55). -/
def State.vectorStep (s : State) (q : QueueId) (vop : Nat) (f : VectorArgs → List (List Num) → List Result) : State :=
  match s.runningVop q vop with
  | none => s
  | some e =>
    let x := e.desc.vector
    if s.hazard q.core (x.reads ++ x.writes) then s
    else
      let w := s.accessor q
      let n := vectorSources vop
      let got := s.vectorSource w q.core x 0
      let a := got.1
      let st0 := got.2.1
      let s := got.2.2
      let got := if 2 ≤ n then s.vectorSource w q.core x 1 else ([], .ok, s)
      let b := got.1
      let st1 := got.2.1
      let s := got.2.2
      let got := if 3 ≤ n then s.vectorSource w q.core x 2 else ([], .ok, s)
      let c := got.1
      let st2 := got.2.1
      let s := got.2.2
      let got := s.storeResults w x.dstFmt x.sat (scratchAddr q.core (x.dst * 64)) (f x [a, b, c])
      let exc := got.1.add ⟨0, x.zeroOverflows a, 0, 0⟩
      let st3 := got.2.1
      let s := got.2.2
      s.complete q e (accessStatus (worse st0 (worse st1 (worse st2 st3)))) exc

/-- Results of an elementwise operation on one source. -/
def map1 (f : Num → Num) (srcs : List (List Num)) : List Result :=
  (srcs.getD 0 []).map fun x => (f x, x.isFinite)

def map2 (f : Num → Num → Num) (srcs : List (List Num)) : List Result :=
  (List.zip (srcs.getD 0 []) (srcs.getD 1 [])).map fun (x, y) => (f x y, x.isFinite && y.isFinite)

def map3 (f : Num → Num → Num → Num) (srcs : List (List Num)) : List Result :=
  (List.zip (srcs.getD 0 []) (List.zip (srcs.getD 1 []) (srcs.getD 2 []))).map fun (x, y, z) =>
    (f x y z, x.isFinite && y.isFinite && z.isFinite)

/-- Results of a row operation (R115). -/
def mapRows (rowLen : Nat) (f : List Num → Num) (srcs : List (List Num)) : List Result :=
  (groupsOf rowLen (srcs.getD 0 [])).map fun row => (f row, row.all Num.isFinite)

/-- A row folded from its first element in ascending index order. -/
def foldRow (f : Num → Num → Num) : List Num → Num
  | [] => .fin false 0 0
  | x :: xs => xs.foldl f x

def execVectorConvert (q : QueueId) (s : State) : Host.Outcome State Fault Refusal :=
  .next (s.vectorStep q 0 fun _ => map1 id)

def execVectorAdd (q : QueueId) (s : State) : Host.Outcome State Fault Refusal :=
  .next (s.vectorStep q 1 fun _ => map2 fadd)

def execVectorMul (q : QueueId) (s : State) : Host.Outcome State Fault Refusal :=
  .next (s.vectorStep q 2 fun _ => map2 fmul)

def execVectorFma (q : QueueId) (s : State) : Host.Outcome State Fault Refusal :=
  .next (s.vectorStep q 3 fun _ => map3 ffma)

def execVectorMax (q : QueueId) (s : State) : Host.Outcome State Fault Refusal :=
  .next (s.vectorStep q 4 fun _ => map2 fmax)

def execVectorMin (q : QueueId) (s : State) : Host.Outcome State Fault Refusal :=
  .next (s.vectorStep q 5 fun _ => map2 fmin)

def execVectorExp (q : QueueId) (s : State) : Host.Outcome State Fault Refusal :=
  .next (s.vectorStep q 6 fun _ => map1 fexp)

def execVectorRecip (q : QueueId) (s : State) : Host.Outcome State Fault Refusal :=
  .next (s.vectorStep q 7 fun _ => map1 frecip)

def execVectorRsqrt (q : QueueId) (s : State) : Host.Outcome State Fault Refusal :=
  .next (s.vectorStep q 8 fun _ => map1 frsqrt)

def execVectorSilu (q : QueueId) (s : State) : Host.Outcome State Fault Refusal :=
  .next (s.vectorStep q 9 fun _ => map1 fsilu)

def execVectorSumRow (q : QueueId) (s : State) : Host.Outcome State Fault Refusal :=
  .next (s.vectorStep q 10 fun x => mapRows x.rowLen (foldRow fadd))

def execVectorMaxRow (q : QueueId) (s : State) : Host.Outcome State Fault Refusal :=
  .next (s.vectorStep q 11 fun x => mapRows x.rowLen (foldRow fmax))

/-- The bytes and counts of one TOPK_ROW row (R546): topk indices, then topk values, with filler entries. The operand of a value, for R116's ovf, is
the element selected. DESIGN CHOICE, assumption 141. -/
def topkRow (fmt : Nat) (sat : Bool) (topk : Nat) (row : List Num) : List Byte × Exc :=
  let ranked := (rankRow row).take topk
  let fill := topk - ranked.length
  let (codes, e) := convertAll fmt sat (ranked.map fun (_, x) => (x, x.isFinite))
  (ranked.flatMap (fun (i, _) => natLe i 4) ++ List.replicate (4 * fill) 0xFF
    ++ packCodes fmt codes ++ List.replicate (formatBits fmt / 8 * fill) 0, e)

/-- VECTOR TOPK_ROW (R71, R115, R546). -/
def execVectorTopkRow (q : QueueId) (s : State) : Host.Outcome State Fault Refusal :=
  .next (match s.runningVop q 12 with
    | none => s
    | some e =>
      let x := e.desc.vector
      if s.hazard q.core (x.reads ++ x.writes) then s
      else
        let w := s.accessor q
        let got := s.vectorSource w q.core x 0
        let a := got.1
        let st0 := got.2.1
        let s := got.2.2
        let rows := (groupsOf x.rowLen a).map (topkRow x.dstFmt x.sat x.topk)
        let got := s.store w (scratchAddr q.core (x.dst * 64)) (rows.flatMap (·.1))
        let st1 := got.1
        let s := got.2
        s.complete q e (accessStatus (worse st0 st1)) (rows.foldl (fun t r => t.add r.2) .zero))

end Sys2Proof.Machine
end

