-- ==== Sys2Proof/Machine/Families.lean ====
section
/-! DEFINITION. The meanings of all commands, family by family. -/
end

