-- ==== Sys2Proof/Machine/Dispatch.lean ====
section
/-! DEFINITION. The dispatch of a command to its meaning. -/

namespace Sys2Proof.Machine

def exec (i : Instr) (s : State) : Host.Outcome State Fault Refusal :=
  match i with
  | .strideBoundary => Sys2Proof.Machine.execStrideBoundary s
  | .beaconReceived lane sender master hops eligible stride arrival => Sys2Proof.Machine.execBeaconReceived lane sender master hops eligible stride arrival s
  | .masterLostTimeout => Sys2Proof.Machine.execMasterLostTimeout s
  | .loReadShadow src off => Sys2Proof.Machine.execLoReadShadow src off s
  | .hiWriteApply src off val cyc => Sys2Proof.Machine.execHiWriteApply src off val cyc s
  | .registerWrite src off val cyc => Sys2Proof.Machine.execRegisterWrite src off val cyc s
  | .rcCounterRead src off => Sys2Proof.Machine.execRcCounterRead src off s
  | .blkIrqForce src slot mask => Sys2Proof.Machine.execBlkIrqForce src slot mask s
  | .unitEnable unit cyc => Sys2Proof.Machine.execUnitEnable unit cyc s
  | .unitDisable unit cyc => Sys2Proof.Machine.execUnitDisable unit cyc s
  | .unitReset unit cyc => Sys2Proof.Machine.execUnitReset unit cyc s
  | .unitStartComplete report => Sys2Proof.Machine.execUnitStartComplete report s
  | .unitStopComplete unit => Sys2Proof.Machine.execUnitStopComplete unit s
  | .unitFail unit atOnce => Sys2Proof.Machine.execUnitFail unit atOnce s
  | .descriptorFetch q => Sys2Proof.Machine.execDescriptorFetch q s
  | .descriptorStart q cyc => Sys2Proof.Machine.execDescriptorStart q cyc s
  | .descriptorOverrun q found => Sys2Proof.Machine.execDescriptorOverrun q found s
  | .descriptorRetire q index => Sys2Proof.Machine.execDescriptorRetire q index s
  | .queueTailWrite src q tail => Sys2Proof.Machine.execQueueTailWrite src q tail s
  | .queueResumeRetry src q cyc => Sys2Proof.Machine.execQueueResumeRetry src q cyc s
  | .queueResumeSkip src q cyc => Sys2Proof.Machine.execQueueResumeSkip src q cyc s
  | .matmul q => Sys2Proof.Machine.execMatmul q s
  | .vectorConvert q => Sys2Proof.Machine.execVectorConvert q s
  | .vectorAdd q => Sys2Proof.Machine.execVectorAdd q s
  | .vectorMul q => Sys2Proof.Machine.execVectorMul q s
  | .vectorFma q => Sys2Proof.Machine.execVectorFma q s
  | .vectorMax q => Sys2Proof.Machine.execVectorMax q s
  | .vectorMin q => Sys2Proof.Machine.execVectorMin q s
  | .vectorExp q => Sys2Proof.Machine.execVectorExp q s
  | .vectorRecip q => Sys2Proof.Machine.execVectorRecip q s
  | .vectorRsqrt q => Sys2Proof.Machine.execVectorRsqrt q s
  | .vectorSilu q => Sys2Proof.Machine.execVectorSilu q s
  | .vectorSumRow q => Sys2Proof.Machine.execVectorSumRow q s
  | .vectorMaxRow q => Sys2Proof.Machine.execVectorMaxRow q s
  | .vectorTopkRow q => Sys2Proof.Machine.execVectorTopkRow q s
  | .move q => Sys2Proof.Machine.execMove q s
  | .gather q => Sys2Proof.Machine.execGather q s
  | .dataMoverIssue core cyc => Sys2Proof.Machine.execDataMoverIssue core cyc s
  | .attend work => Sys2Proof.Machine.execAttend work s
  | .blink q => Sys2Proof.Machine.execBlink q s
  | .dispatch q => Sys2Proof.Machine.execDispatch q s
  | .signal q => Sys2Proof.Machine.execSignal q s
  | .wait q cyc => Sys2Proof.Machine.execWait q cyc s
  | .waitTimeout q => Sys2Proof.Machine.execWaitTimeout q s
  | .branch q cyc => Sys2Proof.Machine.execBranch q cyc s
  | .loop q => Sys2Proof.Machine.execLoop q s
  | .eduMessageReceive source kind job layer tag token pos block row cyc => Sys2Proof.Machine.execEduMessageReceive source kind job layer tag token pos block row cyc s
  | .eduMailboxWritten layer inst => Sys2Proof.Machine.execEduMailboxWritten layer inst s
  | .eduBatchComplete layer inst => Sys2Proof.Machine.execEduBatchComplete layer inst s
  | .eduBatchTimeout layer inst cyc => Sys2Proof.Machine.execEduBatchTimeout layer inst cyc s
  | .eduResultTimeout tag token pos cyc => Sys2Proof.Machine.execEduResultTimeout tag token pos cyc s
  | .eduCombine tag token => Sys2Proof.Machine.execEduCombine tag token s
  | .eduDoneSignal tag => Sys2Proof.Machine.execEduDoneSignal tag s
  | .eduTableSwitch src val cyc => Sys2Proof.Machine.execEduTableSwitch src val cyc s
  | .stbPageRequest => Sys2Proof.Machine.execStbPageRequest s
  | .appendReport => Sys2Proof.Machine.execAppendReport s
  | .blinkersRequestStart e => Sys2Proof.Machine.execBlinkersRequestStart e s
  | .blinkersListComplete e => Sys2Proof.Machine.execBlinkersListComplete e s
  | .blinkersLeaveNormal e => Sys2Proof.Machine.execBlinkersLeaveNormal e s
  | .blinkersDriftCheck e p0 p1 p2 p3 p4 => Sys2Proof.Machine.execBlinkersDriftCheck e p0 p1 p2 p3 p4 s
  | .blinkersRecalComplete report p0 p1 p2 p3 p4 => Sys2Proof.Machine.execBlinkersRecalComplete report p0 p1 p2 p3 p4 s
  | .stbCommandTailWrite src ring tail cyc => Sys2Proof.Machine.execStbCommandTailWrite src ring tail cyc s
  | .admitStall ring => Sys2Proof.Machine.execAdmit ring s
  | .prefixLookupComplete index => Sys2Proof.Machine.execPrefixLookupComplete index s
  | .release ring => Sys2Proof.Machine.execRelease ring s
  | .stallDrainComplete index => Sys2Proof.Machine.execStallDrainComplete index s
  | .commit ring => Sys2Proof.Machine.execCommit ring s
  | .specPut ring => Sys2Proof.Machine.execSpecPut ring s
  | .rollback ring => Sys2Proof.Machine.execRollback ring s
  | .park ring => Sys2Proof.Machine.execPark ring s
  | .unpark ring => Sys2Proof.Machine.execUnpark ring s
  | .evict ring => Sys2Proof.Machine.execEvict ring s
  | .stallEvictionComplete index ok => Sys2Proof.Machine.execStallEvictionComplete index ok s
  | .stallRecallComplete index ok extent => Sys2Proof.Machine.execStallRecallComplete index ok extent s
  | .fork ring => Sys2Proof.Machine.execFork ring s
  | .rebuild ring => Sys2Proof.Machine.execRebuild ring s
  | .query ring => Sys2Proof.Machine.execQuery ring s
  | .set ring => Sys2Proof.Machine.execSet ring s
  | .publish ring => Sys2Proof.Machine.execPublish ring s
  | .workPlanPublish => Sys2Proof.Machine.execWorkPlanPublish s
  | .draughtLoad p cyc => Sys2Proof.Machine.execDraughtLoad p cyc s
  | .draughtStore p cyc => Sys2Proof.Machine.execDraughtStore p cyc s
  | .draughtFlagStore p cyc => Sys2Proof.Machine.execDraughtFlagStore p cyc s
  | .draughtService p cyc => Sys2Proof.Machine.execDraughtService p cyc s
  | .draughtResp p cyc => Sys2Proof.Machine.execDraughtResp p cyc s
  | .atomicAdd32 w cyc => Sys2Proof.Machine.execAtomicAdd32 w cyc s
  | .atomicAdd64 w cyc => Sys2Proof.Machine.execAtomicAdd64 w cyc s
  | .atomicSwap32 w cyc => Sys2Proof.Machine.execAtomicSwap32 w cyc s
  | .atomicSwap64 w cyc => Sys2Proof.Machine.execAtomicSwap64 w cyc s
  | .atomicCas32 w cyc => Sys2Proof.Machine.execAtomicCas32 w cyc s
  | .draughtPacketReceive x flit cyc => Sys2Proof.Machine.execDraughtPacketReceive x flit cyc s
  | .draughtGapNak src dst cyc => Sys2Proof.Machine.execDraughtGapNak src dst cyc s
  | .draughtReplayTimeout src dst seq cyc => Sys2Proof.Machine.execDraughtReplayTimeout src dst seq cyc s
  | .draughtRequestTimeout id cyc => Sys2Proof.Machine.execDraughtRequestTimeout id cyc s
  | .linkIdle src dst ack => Sys2Proof.Machine.execLinkIdle src dst ack s
  | .linkAck src dst ack => Sys2Proof.Machine.execLinkAck src dst ack s
  | .linkNak src dst ack missing => Sys2Proof.Machine.execLinkNak src dst ack missing s
  | .linkSlotLost src dst ack plane tx rx => Sys2Proof.Machine.execLinkSlotLost src dst ack plane tx rx s
  | .linkCredit src dst ack credits => Sys2Proof.Machine.execLinkCredit src dst ack credits s
  | .lockLoopUpdate r detune cyc => Sys2Proof.Machine.execLockLoopUpdate r detune cyc s
  | .lockReacquireTimeout r => Sys2Proof.Machine.execLockReacquireTimeout r s
  | .ringAcquired r => Sys2Proof.Machine.execRingAcquired r s
  | .ringSweepComplete r found => Sys2Proof.Machine.execRingSweepComplete r found s
  | .lineBeaconCheck x copies => Sys2Proof.Machine.execLineBeaconCheck x copies s
  | .allocatorCycle => Sys2Proof.Machine.execAllocatorCycle s
  | .tapSample p reading even odd => Sys2Proof.Machine.execTapSample p reading even odd s
  | .plannedSwap src q => Sys2Proof.Machine.execPlannedSwap src q s
  | .feedSwitchSettled p source tap cyc => Sys2Proof.Machine.execFeedSwitchSettled p source tap cyc s
  | .swapGapExpiry q => Sys2Proof.Machine.execSwapGapExpiry q s
  | .cartridgeSuddenLoss k => Sys2Proof.Machine.execCartridgeSuddenLoss k s
  | .cartridgeRemoved k => Sys2Proof.Machine.execCartridgeRemoved k s
  | .cartridgeInserted k serial => Sys2Proof.Machine.execCartridgeInserted k serial s
  | .cartridgeDisable src k force cyc => Sys2Proof.Machine.execCartridgeDisable src k force cyc s
  | .calibrationReevaluate g cyc => Sys2Proof.Machine.execCalibrationReevaluate g cyc s
  | .reinRead p cyc => Sys2Proof.Machine.execReinRead p cyc s
  | .reinWrite p cyc => Sys2Proof.Machine.execReinWrite p cyc s
  | .reinRdata node agent tag delivery cyc => Sys2Proof.Machine.execReinRdata node agent tag delivery cyc s
  | .reinWack node agent tag delivery cyc => Sys2Proof.Machine.execReinWack node agent tag delivery cyc s
  | .reinBcast p dropped cyc => Sys2Proof.Machine.execReinBcast p dropped cyc s
  | .reinTimeout node agent tag cyc => Sys2Proof.Machine.execReinTimeout node agent tag cyc s
  | .hitchSignalFrame frame => Sys2Proof.Machine.execHitchSignalFrame frame s
  | .hitchNak => Sys2Proof.Machine.execHitchNak s
  | .hitchSnap => Sys2Proof.Machine.execHitchSnap s
  | .hitchRelease => Sys2Proof.Machine.execHitchRelease s
  | .hitchWatchRegister job w0 w1 w2 => Sys2Proof.Machine.execHitchWatchRegister job w0 w1 w2 s
  | .hitchWatchWithdraw job w0 w1 w2 => Sys2Proof.Machine.execHitchWatchWithdraw job w0 w1 w2 s
  | .counterInit src val cyc => Sys2Proof.Machine.execCounterInit src val cyc s
  | .counterFree src val cyc => Sys2Proof.Machine.execCounterFree src val cyc s
  | .counterSet src val cyc => Sys2Proof.Machine.execCounterSet src val cyc s
  | .counterRevoke src job cyc => Sys2Proof.Machine.execCounterRevoke src job cyc s
  | .hostCounterDoorbell fn index val => Sys2Proof.Machine.execHostCounterDoorbell fn index val s
  | .hostCounterArm src val => Sys2Proof.Machine.execHostCounterArm src val s
  | .mirrorWrite index cyc => Sys2Proof.Machine.execMirrorWrite index cyc s
  | .laneSpareSwap r cls bundle lane spare => Sys2Proof.Machine.execLaneSpareSwap r cls bundle lane spare s
  | .bundleFail r cls bundle => Sys2Proof.Machine.execBundleFail r cls bundle s
  | .fabricRequestIssue b cyc => Sys2Proof.Machine.execFabricRequestIssue b cyc s
  | .fabricLoad b cyc => Sys2Proof.Machine.execFabricLoad b cyc s
  | .fabricStore b cyc => Sys2Proof.Machine.execFabricStore b cyc s
  | .fabricFlagStore b cyc => Sys2Proof.Machine.execFabricFlagStore b cyc s
  | .fabricResp b cyc => Sys2Proof.Machine.execFabricResp b cyc s
  | .fabricTransitForward b cyc => Sys2Proof.Machine.execFabricTransitForward b cyc s
  | .fabricRetransmitTimeout b target seq cyc => Sys2Proof.Machine.execFabricRetransmitTimeout b target seq cyc s
  | .fabricBusyRetry b target seq cyc => Sys2Proof.Machine.execFabricBusyRetry b target seq cyc s
  | .fabricRequestTimeout b target seq cyc => Sys2Proof.Machine.execFabricRequestTimeout b target seq cyc s
  | .flagStoreRelease source b seq => Sys2Proof.Machine.execFlagStoreRelease source b seq s
  | .flagStoreExpired source b seq cyc => Sys2Proof.Machine.execFlagStoreExpired source b seq cyc s
  | .flagEntryIdleFree source b port job epoch cyc => Sys2Proof.Machine.execFlagEntryIdleFree source b port job epoch cyc s
  | .leaseAcquire b cyc => Sys2Proof.Machine.execLeaseAcquire b cyc s
  | .leaseRenew b cyc => Sys2Proof.Machine.execLeaseRenew b cyc s
  | .leaseRelease b cyc => Sys2Proof.Machine.execLeaseRelease b cyc s
  | .leaseRenewDue index => Sys2Proof.Machine.execLeaseRenewDue index s
  | .leaseHolderExpiry index => Sys2Proof.Machine.execLeaseHolderExpiry index s
  | .leaseHomeExpiry index => Sys2Proof.Machine.execLeaseHomeExpiry index s
  | .lseCmdAcquire src cyc => Sys2Proof.Machine.execLseCmdAcquire src cyc s
  | .lseCmdRelease src cyc => Sys2Proof.Machine.execLseCmdRelease src cyc s
  | .ingressEntryWrite src cyc => Sys2Proof.Machine.execIngressEntryWrite src cyc s
  | .ingressEntryRead src => Sys2Proof.Machine.execIngressEntryRead src s
  | .routeAdv team sender stride master aligned epoch drained generation teams relay => Sys2Proof.Machine.execRouteAdv team sender stride master aligned epoch drained generation teams relay s
  | .rackMapEntryStale index => Sys2Proof.Machine.execRackMapEntryStale index s
  | .routingTableWrite src val => Sys2Proof.Machine.execRoutingTableWrite src val s
  | .routingArm src => Sys2Proof.Machine.execRoutingArm src s
  | .routingDisarm src => Sys2Proof.Machine.execRoutingDisarm src s
  | .routingSwitch src => Sys2Proof.Machine.execRoutingSwitch src s
  | .routingDrainTimeout => Sys2Proof.Machine.execRoutingDrainTimeout s
  | .uplinkTxTailWrite src u tail cyc => Sys2Proof.Machine.execUplinkTxTailWrite src u tail cyc s
  | .uplinkMessageReceive u event cyc => Sys2Proof.Machine.execUplinkMessageReceive u event cyc s
  | .uplinkResume src u cyc => Sys2Proof.Machine.execUplinkResume src u cyc s
  | .codewordReceive b l cw cyc => Sys2Proof.Machine.execCodewordReceive b l cw cyc s
  | .codewordGapNak b n cyc => Sys2Proof.Machine.execCodewordGapNak b n cyc s
  | .codewordRetxTimeout b n seq cyc => Sys2Proof.Machine.execCodewordRetxTimeout b n seq cyc s
  | .bridleLinkFrame b n ack nak freed cyc => Sys2Proof.Machine.execBridleLinkFrame b n ack nak freed cyc s
  | .laneDrop b l cyc => Sys2Proof.Machine.execLaneDrop b l cyc s
  | .laneResume b l cyc => Sys2Proof.Machine.execLaneResume b l cyc s
  | .laneSuspendTimeout b l => Sys2Proof.Machine.execLaneSuspendTimeout b l s
  | .beaconLossTimeout b n => Sys2Proof.Machine.execBeaconLossTimeout b n s
  | .identFrame b l z index peerBridle peerLane admitted serial stamps turn arrival => Sys2Proof.Machine.execIdentFrame b l z index peerBridle peerLane admitted serial stamps turn arrival s
  | .laneTrainingComplete b l => Sys2Proof.Machine.execLaneTrainingComplete b l s
  | .laneTrainingTimeout b l cyc => Sys2Proof.Machine.execLaneTrainingTimeout b l cyc s
  | .laneTrainingRetry b l cyc => Sys2Proof.Machine.execLaneTrainingRetry b l cyc s
  | .laneRetrain src b l cyc => Sys2Proof.Machine.execLaneRetrain src b l cyc s
  | .linkCounterExhaust b n cyc => Sys2Proof.Machine.execLinkCounterExhaust b n cyc s
  | .perstAssert => Sys2Proof.Machine.execPerstAssert s
  | .pcieDlDown => Sys2Proof.Machine.execPcieDlDown s
  | .functionLevelReset fn cyc => Sys2Proof.Machine.execFunctionLevelReset fn cyc s
  | .bar0Access whole off write cyc => Sys2Proof.Machine.execBar0Access whole off write cyc s
  | .bar4Access fn off req cyc => Sys2Proof.Machine.execBar4Access fn off req cyc s
  | .bar2RingDoorbell fn off write cyc => Sys2Proof.Machine.execBar2RingDoorbell fn off write cyc s
  | .hostReadTimeout id aborted cyc => Sys2Proof.Machine.execHostReadTimeout id aborted cyc s
  | .i3cOffsetWrite off => Sys2Proof.Machine.execI3cOffsetWrite off s
  | .i3cRegisterRead => Sys2Proof.Machine.execI3cRegisterRead s
  | .i3cRegisterWrite off val cyc => Sys2Proof.Machine.execI3cRegisterWrite off val cyc s
  | .uartReadCommand off => Sys2Proof.Machine.execUartReadCommand off s
  | .uartLogCommand count => Sys2Proof.Machine.execUartLogCommand count s
  | .uartWriteCommand off val cyc => Sys2Proof.Machine.execUartWriteCommand off val cyc s
  | .moduleStart r => Sys2Proof.Machine.execModuleStart r s
  | .startStepTimeout unit => Sys2Proof.Machine.execStartStepTimeout unit s
  | .rollbackCommit src => Sys2Proof.Machine.execRollbackCommit src s
  | .firmwareBlockReceived c b => Sys2Proof.Machine.execFirmwareBlockReceived c b s
  | .firmwareRepairCheck r image => Sys2Proof.Machine.execFirmwareRepairCheck r image s
  | .reckonerPartialReset src val cyc => Sys2Proof.Machine.execReckonerPartialReset src val cyc s
  | .reckonerRestartTimeout r cyc => Sys2Proof.Machine.execReckonerRestartTimeout r cyc s
  | .fieldFailListClear src => Sys2Proof.Machine.execFieldFailListClear src s
  | .coreFailInService c cause => Sys2Proof.Machine.execCoreFailInService c cause s
  | .farrierCoreSubstitution c => Sys2Proof.Machine.execFarrierCoreSubstitution c s
  | .sparePeriodicCheck r code => Sys2Proof.Machine.execSparePeriodicCheck r code s
  | .fieldFailInService r east => Sys2Proof.Machine.execFieldFailInService r east s
  | .reckonerFail r => Sys2Proof.Machine.execReckonerFail r s
  | .moduleFailStop block => Sys2Proof.Machine.execModuleFailStop block s
  | .gateAction g epoch seq off val cyc => Sys2Proof.Machine.execGateAction g epoch seq off val cyc s
  | .groomHeartbeatTimeout g => Sys2Proof.Machine.execGroomHeartbeatTimeout g s
  | .groomSelfFault g => Sys2Proof.Machine.execGroomSelfFault g s
  | .groomPlannedSwitch src cyc => Sys2Proof.Machine.execGroomPlannedSwitch src cyc s
  | .standbyHealthTimeout g => Sys2Proof.Machine.execStandbyHealthTimeout g s
  | .groomRestartComplete g ok => Sys2Proof.Machine.execGroomRestartComplete g ok s
  | .sensorSample cls index reading => Sys2Proof.Machine.execSensorSample cls index reading s
  | .sensorBad cls index near0 near1 => Sys2Proof.Machine.execSensorBad cls index near0 near1 s
  | .rateLevelHoldExpiry r => Sys2Proof.Machine.execRateLevelHoldExpiry r s
  | .shutdownCooldownComplete r => Sys2Proof.Machine.execShutdownCooldownComplete r s
  | .thermtrip cls index => Sys2Proof.Machine.execThermtrip cls index s
  | .deferredRecordFlush => Sys2Proof.Machine.execDeferredRecordFlush s
  | .powerSample avg10ms avg1s => Sys2Proof.Machine.execPowerSample avg10ms avg1s s
  | .powerThrottleStep => Sys2Proof.Machine.execPowerThrottleStep s
  | .powerStateTarget src val cyc => Sys2Proof.Machine.execPowerStateTarget src val cyc s
  | .powerStateStepComplete => Sys2Proof.Machine.execPowerStateStepComplete s
  | .debugChallenge src val => Sys2Proof.Machine.execDebugChallenge src val s
  | .debugSubmit src val cyc => Sys2Proof.Machine.execDebugSubmit src val cyc s
  | .debugRevoke src val => Sys2Proof.Machine.execDebugRevoke src val s
  | .provision src val => Sys2Proof.Machine.execProvision src val s
  | .pubkey src val => Sys2Proof.Machine.execPubkey src val s
  | .authDataRead src => Sys2Proof.Machine.execAuthDataRead src s
  | .authDataWrite src val => Sys2Proof.Machine.execAuthDataWrite src val s
  | .challengeExpiry => Sys2Proof.Machine.execChallengeExpiry s
  | .authLockoutExpiry => Sys2Proof.Machine.execAuthLockoutExpiry s
  | .zeroisationComplete failed => Sys2Proof.Machine.execZeroisationComplete failed s
  | .keyLoad src val => Sys2Proof.Machine.execKeyLoad src val s
  | .keyErase src val => Sys2Proof.Machine.execKeyErase src val s
  | .keyBind src val cyc => Sys2Proof.Machine.execKeyBind src val cyc s
  | .keyUnbind src val cyc => Sys2Proof.Machine.execKeyUnbind src val cyc s
  | .linkEncryptionSwitch src val => Sys2Proof.Machine.execLinkEncryptionSwitch src val s
  | .snapshotRearm src => Sys2Proof.Machine.execSnapshotRearm src s
  | .snapshotTrigNow src => Sys2Proof.Machine.execSnapshotTrigNow src s
  | .snapshotTrigBnd src => Sys2Proof.Machine.execSnapshotTrigBnd src s
  | .snapshotTrigRack src => Sys2Proof.Machine.execSnapshotTrigRack src s
  | .trigInFall => Sys2Proof.Machine.execTrigInFall s
  | .faultRecord cls code source detail job logged same => Sys2Proof.Machine.execFaultRecord cls code source detail job logged same s
  | .faultRingWriteComplete job ok => Sys2Proof.Machine.execFaultRingWriteComplete job ok s
  | .faultRingHeadWrite src val => Sys2Proof.Machine.execFaultRingHeadWrite src val s
  | .tallyPatrol c word errs => Sys2Proof.Machine.execTallyPatrol c word errs s
  | .patrolScrub line errs => Sys2Proof.Machine.execPatrolScrub line errs s
  | .refreshManagement k bank => Sys2Proof.Machine.execRefreshManagement k bank s
  | .retrainStart k links => Sys2Proof.Machine.execRetrainStart k links s
  | .trainingBurst k channel => Sys2Proof.Machine.execTrainingBurst k channel s
  | .rowRepair line spare left => Sys2Proof.Machine.execRowRepair line spare left s
  | .stackLost k => Sys2Proof.Machine.execStackLost k s
  | .foldFillComplete => Sys2Proof.Machine.execFoldFillComplete s
  | .historyWaitTimeout cyc => Sys2Proof.Machine.execHistoryWaitTimeout cyc s
  | .stackEvacuationComplete k => Sys2Proof.Machine.execStackEvacuationComplete k s
  | .vin48Loss => Sys2Proof.Machine.execVin48Loss s
  | .analogRailLoss vio => Sys2Proof.Machine.execAnalogRailLoss vio s
  | .vlas12Loss => Sys2Proof.Machine.execVlas12Loss s
  | .vstbyLoss => Sys2Proof.Machine.execVstbyLoss s
  | .modResetAssert => Sys2Proof.Machine.execModResetAssert s
  | .perstDeassert => Sys2Proof.Machine.execPerstDeassert s
  | .pcieLinkUp width speed flit => Sys2Proof.Machine.execPcieLinkUp width speed flit s
  | .vstbyReturn => Sys2Proof.Machine.execVstbyReturn s
  | .vlas12Return => Sys2Proof.Machine.execVlas12Return s
  | .spareBecomesFit k monitor => Sys2Proof.Machine.execSpareBecomesFit k monitor s
  | .trainingBurstComplete k ok => Sys2Proof.Machine.execTrainingBurstComplete k ok s
  | .atomicResultExpiry source b seq cyc => Sys2Proof.Machine.execAtomicResultExpiry source b seq cyc s
  | .flagEpochUseClear b port job target epoch cyc => Sys2Proof.Machine.execFlagEpochUseClear b port job target epoch cyc s
  | .powerEmergencyHoldExpiry => Sys2Proof.Machine.execPowerEmergencyHoldExpiry s
  | .jtagMemoryAccess access => Sys2Proof.Machine.execJtagMemoryAccess access s

end Sys2Proof.Machine
end

