-- ==== Sys2Proof/Safety.lean ====
section
/-! DEFINITION. What a sound state of the module is, in the terms the statements use. -/

namespace Sys2Proof.Machine

/-- The stride clock is within its bounds (R33, R50): a stride of 512 to 1,535 cycles, and a cycle of it. -/
def Clock.sound (c : Clock) : Prop := 512 ≤ c.len ∧ c.len ≤ 1535 ∧ c.cycle < c.len

/-- The event log holds at most 16,128 records (R529), the deferred list at most 256 (R482). -/
def FaultState.sound (f : FaultState) : Prop := f.log.length ≤ 16128 ∧ f.deferred.length ≤ 256

/-- A sound state: its clock and its fault stores are within their bounds and its memory is in canonical form. -/
def State.sound (s : State) : Prop := s.clk.sound ∧ s.flt.sound ∧ s.mem.wf = true

/-- Between two states only what a fault record writes differs: registers, the fault stores, messages sent, the snapshot and the Hitch
slots that a SNAP frame takes. -/
def FaultsOnly (s t : State) : Prop :=
  t = { s with regs := t.regs, flt := t.flt, out := t.out, snap := t.snap, hitch := { s.hitch with slots := t.hitch.slots } }

/-- Every byte of memory reads the same in two states. -/
def SameBytes (s t : State) : Prop := ∀ a, t.mem.byte a = s.mem.byte a

/-- Every byte of memory outside `n` bytes from `lo` up reads the same in two states. -/
def SameBytesOutside (s t : State) (lo n : Nat) : Prop := ∀ a, (a < lo ∨ lo + n ≤ a) → t.mem.byte a = s.mem.byte a

/-! ### Operands and results in a core's scratch -/

/-- The values of a contiguous operand of `n` elements at scratch unit `off` of a core (R94). -/
def State.scratchValues (s : State) (c : CoreId) (fmt n off : Nat) : List Num :=
  contiguousValues fmt n (s.mem.bytes (scratchAddr c (off * 64)) (contiguousBytes fmt n))

/-- The sources of a vector descriptor that lie in scratch; src1 may be the immediate (R71). -/
def State.vectorOperands (s : State) (c : CoreId) (x : VectorArgs) (n : Nat) : List (List Num) :=
  [s.scratchValues c x.srcFmt x.count x.src0,
   if 2 ≤ n then (if x.imm1 then List.replicate x.count (fpFP32.decode x.imm.toNat) else s.scratchValues c x.srcFmt x.count x.src1)
   else [],
   if 3 ≤ n then s.scratchValues c x.srcFmt x.count x.src2 else []]

/-- Where the bytes of results go, and what they are: elements, or B4 codes and then their scales (R94, R108, R110). -/
def resultPieces (fmt : Nat) (sat : Bool) (base : Nat) (rs : List Result) : List (Nat × List Byte) :=
  if fmt = 0 then
    [(base, packCodes 0 (convertBlocks sat rs).2.1),
     (base + ceilDiv (rs.length / 2) 64 * 64, (convertBlocks sat rs).1.map (BitVec.ofNat 8))]
  else [(base, packCodes fmt (convertAll fmt sat rs).1)]

/-- The exception counts of results (R116), but for the zeros whose reciprocal a B4 element cannot hold. -/
def resultCounts (fmt : Nat) (sat : Bool) (rs : List Result) : Exc :=
  if fmt = 0 then (convertBlocks sat rs).2.2 else (convertAll fmt sat rs).2

/-- Memory with pieces written in order. -/
def State.pokeAll (s : State) (l : List (Nat × List Byte)) : State := l.foldl (fun s p => s.poke p.1 p.2) s

/-- A vector command carries out the started descriptor of its operation whose ranges nothing earlier has yet to write (R55): the bytes
of the results `f` makes of its sources are stored at dst, the descriptor's operations are complete with status OK and its exception
counts (R116), and nothing else of the state changes. -/
def VectorRuns (cmd : QueueId → Instr) (vop : Nat) (f : VectorArgs → List (List Num) → List Result) : Prop :=
  ∀ (q : QueueId) (e : Exec) (s : State),
    let x := e.desc.vector
    let rs := f x (s.vectorOperands q.core x (vectorSources vop))
    s.runningVop q vop = some e → s.hazard q.core (x.reads ++ x.writes) = false → (s.unit (.core q.core)).st ≠ .off →
    x.reads.all Span.fits = true →
    (∀ p ∈ resultPieces x.dstFmt x.sat (x.dst * 64) rs, p.1 + p.2.length ≤ 0x180000) →
    exec (cmd q) s = .next ((s.pokeAll (resultPieces x.dstFmt x.sat (scratchAddr q.core (x.dst * 64)) rs)).complete q e stOk
      ((resultCounts x.dstFmt x.sat rs).add ⟨0, x.zeroOverflows (s.scratchValues q.core x.srcFmt x.count x.src0), 0, 0⟩))

/-! ### The requests at a Draught port -/

/-- The request that a port serves next of those delivered to it, and the state once it is taken and its credit given back (R265,
R298). -/
def State.servedAt (s : State) (p : Fin 64) : Option (Delivered × State) :=
  let l := s.drg.inbox.getD p.val []
  match s.nextServed (0, 0) l with
  | none => none
  | some i =>
    match l[i]? with
    | none => none
    | some e => ({ s with drg := { s.drg with inbox := s.drg.inbox.put p.val (e :: l.eraseIdx i) } }).takeInbox p

/-! ### The packets that arrive from the fabric -/

/-- The packet at the front of what a Bridle has received, where it is whole and not past its life (R347, R381): its header, payload
and age, and the state once it is taken. -/
def State.headAt (s : State) (b : Fin 4) : Option (FabHeader × List Byte × Nat × State) :=
  match s.brd.arrived.getD b.val [] with
  | [] => none
  | a :: rest =>
    match a.read with
    | none => none
    | some (h, data) =>
      let age := s.ageHere a h
      if 750 < age then none
      else some (h, data, age, { s with brd := { s.brd with arrived := s.brd.arrived.put b.val rest } })

/-- The front packet of a Bridle is a request to this module, no older than 20 µs, of a number not seen before: `x`, in the state `t`
once it is taken and has touched its flag-store entry (R351, steps 1 to 4, R368). -/
abbrev Incoming (s : State) (b : Fin 4) (h : FabHeader) (data : List Byte) (age : Nat) (t : State) (x : Inbound) : Prop :=
  (∃ u, s.headAt b = some (h, data, age, u) ∧ t = u.touched x) ∧ h.dst = s.moduleIndex ∧ age ≤ 312 ∧
  (t.window ⟨h.src, h.srcBridle⟩).full h.seq = some x.seq ∧ x = t.inboundOf b h data age x.seq ∧
  (t.window x.pair).top.getD x.seq < x.seq + 65536 ∧ t.duplicate x = none

/-- An ingress entry admits a request to byte `a` of this module's DRAM (R351, steps 4 to 8). -/
abbrev Admitted (s : State) (x : Inbound) (i : Nat) (v : Ingress) (a : Nat) : Prop :=
  inHitchPage x.addr = false ∧ s.ingressOf x.job (x.addr / 2 ^ 21) = some (i, v) ∧ a = v.w2.field 22 0 * 2 ^ 21 + x.addr % 2 ^ 21 ∧
  v.permits x.kind = true ∧ (x.kind = 1 ∨ v.w0.bit 27 = false ∨ s.liveHolder v = some x.pair.src) ∧ a < dramSize

/-- The request is kept until its port answers, and goes on to its port (R351). -/
def State.passOn (s : State) (x : Inbound) : State :=
  ({ s with fab := { s.fab with inbound := s.fab.inbound ++ [x] } }).forward x

/-! ### The Stable's command rings -/

/-- The command that the Stable applies next (R204, R205), where it is one of this ring: its words as read, and the state once it is
read and taken off, HEAD moved past it. -/
def State.frontCommand (s : State) (ring : Fin 64) : Option (CommandArgs × State) :=
  match s.stb.commands.find? s.commandDue with
  | none => none
  | some c =>
    if c.ring ≠ ring.val then none
    else
      let got := s.fetchCommand c
      let t := { got.2 with stb := { got.2.stb with commands := got.2.stb.commands.erase c } }
      some (got.1, t.setReg (crReg c.ring Reg.STB_CRn_HEAD) (BitVec.ofNat 32 (c.index + 1).toNat))

/-- The ring's command with a given opcode is next, its fields are in rule (R205), `a` is what it says and `t` the state it is applied
in. -/
abbrev CommandFront (s : State) (ring : Fin 64) (op : Nat) (a : CommandArgs) (t : State) : Prop :=
  s.frontCommand ring = some (a, t) ∧ (a.w 0).field 31 24 = op ∧ a.fieldsOk = true

end Sys2Proof.Machine
end

