-- ==== Sys2Proof/Certificates/Slice0/Obligations.lean ====
section
/-! DEFINITION. The statements for the provers. Each follows the rules its docstring names; where the manual leaves a value to the model
the docstring says so. -/

open Sys2Proof Sys2Proof.Machine


/-- For every state, command and rest of the queue: step of the state whose queue is the command followed by the rest is exec of that command on the state whose queue is the rest; a command just put at the end of a queue leaves the front as it was. The queue is the model's own (the manual's commands come from outside), first in first out. -/
def Obligations.StepTakesFrontCommand : Prop :=
  ∀ (c : Instr) (rest : List Instr) (s : State),
    step { s with pending := c :: rest } = exec c { s with pending := rest } ∧
    (∀ d : Instr, step { s with pending := (c :: rest) ++ [d] } = exec c { s with pending := rest ++ [d] })

/-- With no command waiting a step answers the state as it was: nothing the manual describes happens without a command, a stride boundary being a command of its own (DESIGN CHOICE, assumption 2). -/
def Obligations.EmptyQueueIdles : Prop :=
  ∀ s : State, s.pending = [] → step s = .next s

/-- Every command with any operands, in every state, answers a next state: no fault and no refusal. It leaves the waiting commands as they are, and what the module had sent before stays sent, in its order: new messages come after it. -/
def Obligations.EveryCommandAnswers : Prop :=
  ∀ (c : Instr) (s : State), ∃ t, exec c s = .next t ∧ t.pending = s.pending ∧ s.out <+: t.out

/-- For every state whose stride is 512 to 1,535 stride cycles long with the stride cycle inside it (R33, R50), whose event log holds at most 16,128 records (R529), whose deferred list holds at most 256 (R482), and whose memory lists its bytes in canonical form (addresses strictly rising, no listed byte equal to what an unlisted one reads as: the model's own form): the state after any step is such a state. -/
def Obligations.StepKeepsSoundness : Prop :=
  ∀ s t : State, s.sound → step s = .next t → t.sound

/-- The state right after reset has a stride of 1,024 stride cycles at cycle 0, an empty event log and deferred list, and memory that lists nothing: it meets the invariant of StepKeepsSoundness, and no command waits. -/
def Obligations.ResetIsSound : Prop :=
  State.reset.sound ∧ State.reset.pending = [] ∧ State.reset.mem = []

/-- For every state with a sound clock: a step whose command is neither STRIDE_BOUNDARY nor MODULE_START leaves the stride number, the length of the stride, the count of elapsed boundaries and the count of elapsed strides as they are, and does not turn the stride cycle back or past the end of the stride. A register write that asks for an effect at a boundary thus finds its boundary (R37) by the same stride whatever other commands come before it. -/
def Obligations.OnlyBoundariesMoveTheStride : Prop :=
  ∀ (s t : State) (c : Instr) (rest : List Instr), s.pending = c :: rest → c ≠ .strideBoundary →
    (∀ r, c ≠ .moduleStart r) → s.clk.sound → step s = .next t →
    t.clk.stride = s.clk.stride ∧ t.clk.len = s.clk.len ∧ t.clk.bnd = s.clk.bnd ∧ t.clk.base = s.clk.base ∧
      s.clk.cycle ≤ t.clk.cycle ∧ t.clk.cycle < t.clk.len

/-- The rollback counter is OTP bits used as a thermometer code: its value is the number of bits blown. Whatever command a step runs, a module start, a reset, a loss of a supply, a zeroisation and a flush of deferred fuse writes among them, the value after the step is not below the value before it. -/
def Obligations.RollbackCounterNeverFalls : Prop :=
  ∀ s t : State, step s = .next t → s.groom.rollback ≤ t.groom.rollback

/-- A write that takes effect at the boundary and reaches its block in stride cycle c of a stride of L cycles is left for boundary k + 1 if c is below L - 128 and for boundary k + 2 otherwise, behind every effect already left (arrival order); nothing else of the state changes. -/
def Obligations.BoundaryCutoff : Prop :=
  ∀ (s : State) (e : Effect), s.clk.sound →
    s.schedule e = { s with due := s.due ++ [(if s.clk.cycle < s.clk.len - 128 then s.clk.bnd + 1 else s.clk.bnd + 2, e)] } ∧
      (s.clk.len = 1024 → (s.clk.cycle < 896 → s.dueBoundary = s.clk.bnd + 1) ∧
        (896 ≤ s.clk.cycle → s.dueBoundary = s.clk.bnd + 2))

/-- STRIDE_BOUNDARY answers the state of the next stride: one boundary more and the stride that has ended counted, the stride number its successor (a module with no rebase due) or the master's number (a rebase), and a stride of 1,024 cycles or, where a step stride is due, of 1,024 minus the rounded offset clamped to 512 to 1,535, at its cycle 0 or later. BEACON_RECEIVED notes that the strand of its lane is not silent, keeps what the beacon said as heard now, and is taken by the state of synchronisation; it changes only alignment, that strand and what a fault record writes. MASTER_LOST_TIMEOUT, at a follower after three strides without its master, enters HOLDOVER, withdraws a step or rebase that was due and logs HCH_MASTER_LOST, and changes nothing else. -/
def Obligations.StrideAndAlignmentCommands : Prop :=
  -- STRIDE_BOUNDARY (R34)
  (∀ (s : State),
    exec .strideBoundary s = .next s.boundary ∧
      (let b := s.landHitch.endDescriptors.syncBoundary
      let t := s.boundary
      t.clk.bnd = s.clk.bnd + 1 ∧ t.clk.base = s.clk.base + s.clk.len ∧
      (b.sync.rebase = none → t.clk.stride = s.clk.stride + 1) ∧ (∀ n, b.sync.rebase = some n → t.clk.stride = n) ∧
      (b.sync.step = false → t.clk.len = 1024) ∧
      (b.sync.step = true → t.clk.len = (max 512 (min 1535 (1024 - roundedCycles b.sync.offset))).toNat))) ∧
  -- BEACON_RECEIVED (R48, R46, R50, R407, R400, R388)
  (∀ (b : Fin 4) (l sender master : Fin 32) (hops : Fin 4) (eligible : Bool) (stride : BitVec 48) (arrival : Option (BitVec 16)) (s : State),
    l.val < 26 →
    (let heard := s.heardOn b l
     let v := heard.setSync { s.sync with beacons := s.sync.beacons.put sender.val ⟨master, hops, eligible, stride, 0⟩ }
     let t := v.takeBeacon sender master hops.val eligible (arrival.map (heard.measure b l stride))
     exec (.beaconReceived (b, l) sender master hops eligible stride arrival) s = .next t ∧
     t.sync.beacons = s.sync.beacons.put sender.val ⟨master, hops, eligible, stride, 0⟩ ∧
     FaultsOnly { s with sync := t.sync, brd := heard.brd } t)) ∧
  -- MASTER_LOST_TIMEOUT (R49)
  (∀ (s : State),
    s.sync.st = .locked ∨ s.sync.st = .slewing ∨ s.sync.st = .resync →
    3 ≤ s.sync.masterSilent →
    exec .masterLostTimeout s = .next (({ s with sync := { s.sync with st := .holdover, lost := some s.sync.master, step := false, rebase := none } }).logFault
      Flt.HCH_MASTER_LOST blkHCH 0))

/-- Reads and writes of the register window by a source that may make them, on a page that answers. LO_READ_SHADOW: the low word is given and the high word of the same instant kept for that source; RC_COUNTER_READ: the word is given and the counter reads 0 from then on, its other bits kept. REGISTER_WRITE of a register whose writes have no further effect: each bit of an RW field takes the written bit, each RW1C bit written 1 is cleared, every other bit and every other register stays. HI_WRITE_APPLY: the staged low half and the written high half are applied by one command, and the staged half is used up. BLK_IRQ_FORCE: the bits of the mask are set in the BLK_IRQ_STAT of the page. No command here changes a byte of memory. -/
def Obligations.RegisterCommands : Prop :=
  -- LO_READ_SHADOW (R514)
  (∀ (src : Source) (off : BitVec 28) (t i slot o : Nat) (s : State),
    regPlace off.toNat = .page t i slot o →
    s.mayRead src off.toNat = true →
    s.pageAnswers t = true →
    isLo t o = true →
    ¬ (t = 5 ∧ o = 0x108) →
    exec (.loReadShadow src off) s = .next
      ((s.setShadow src (slot * 4096 + o + 4) (s.peek t i slot (o + 4))).emit (.regData src off.toNat (s.peek t i slot o)))) ∧
  -- the read of the high half that follows (R514)
  (∀ (src : Source) (off : BitVec 28) (t i slot o : Nat) (w : Word) (s : State),
    regPlace off.toNat = .page t i slot o →
    s.mayRead src off.toNat = true →
    s.pageAnswers t = true →
    isLo t o = false →
    isHi t o = true →
    ¬ (t = 5 ∧ o = 0x108) →
    ¬ (t = 0xB ∧ o = 0x104) →
    s.shadowOf src (slot * 4096 + o) = some w →
    exec (.loReadShadow src off) s = .next ((s.dropShadow src (slot * 4096 + o)).emit (.regData src off.toNat w))) ∧
  -- the high half of the stride number, kept between reads (R514)
  (∀ (src : Source) (off : BitVec 28) (t i slot o : Nat) (s : State),
    regPlace off.toNat = .page t i slot o →
    s.mayRead src off.toNat = true →
    s.pageAnswers t = true →
    t = 0xB →
    o = 0x104 →
    exec (.loReadShadow src off) s = .next (s.emit (.regData src off.toNat ((s.shadowOf src (slot * 4096 + o)).getD 0)))) ∧
  -- RC_COUNTER_READ (R9)
  (∀ (src : Source) (off : BitVec 28) (t i slot o : Nat) (d : RegDef) (s : State),
    regPlace off.toNat = .page t i slot o →
    s.mayRead src off.toNat = true →
    s.pageAnswers t = true →
    isLo t o = false →
    isHi t o = false →
    ¬ (t = 5 ∧ o = 0x108) →
    findReg t o = some d →
    d.mask (· == .rc) ≠ 0 →
    exec (.rcCounterRead src off) s = .next
      ((s.setReg (slot * 4096 + o) (s.reg (slot * 4096 + o) &&& ~~~(d.mask (· == .rc)))).emit (.regData src off.toNat (s.peek t i slot o)))) ∧
  -- REGISTER_WRITE (R511)
  (∀ (src : Source) (off : BitVec 28) (val : Word) (cyc : Nat) (t i slot o : Nat) (d : RegDef) (s : State),
    regPlace off.toNat = .page t i slot o →
    (s.advance cyc).pageAnswers t = true →
    (s.advance cyc).mayWrite src off.toNat = true →
    0x100 ≤ o →
    t ∈ [4, 8, 0x10, 0x15, 0x19] →
    isLo t o = false →
    isHi t o = false →
    findReg t o = some d →
    ∃ u, exec (.registerWrite src off val cyc) s = .next u ∧ u = { s with clk := (s.advance cyc).clk, regs := u.regs, due := u.due } ∧
      u.due = s.due ++ (if word d.timed &&& d.rw = 0 then [] else [((s.advance cyc).dueBoundary, .live (s.regKey d slot o) (word d.timed &&& d.rw) val)]) ∧
      (∀ k, k ≠ s.regKey d slot o → u.regs.find? k = s.regs.find? k) ∧
      (∀ n, n < 32 → (u.reg (s.regKey d slot o)).getLsbD n =
      if d.rw.getLsbD n then val.getLsbD n && !((d.mask (· == .rw1c)).getLsbD n && val.getLsbD n)
      else (s.reg (s.regKey d slot o)).getLsbD n && !((d.mask (· == .rw1c)).getLsbD n && val.getLsbD n))) ∧
  -- HI_WRITE_APPLY (R514)
  (∀ (src : Source) (off : BitVec 28) (val lo : Word) (cyc : Nat) (t i slot o : Nat) (l d : RegDef) (s : State),
    regPlace off.toNat = .page t i slot o →
    (s.advance cyc).pageAnswers t = true →
    (s.advance cyc).mayWrite src off.toNat = true →
    0x100 ≤ o →
    t ≠ 0x16 →
    t ≠ 0xC →
    isLo t o = false →
    isHi t o = true →
    findReg t o = some d →
    findReg t (o - 4) = some l →
    d.rw ≠ 0 →
    (s.advance cyc).openBits t slot o ((s.advance cyc).regKey d slot o) &&& d.rw ≠ 0 →
    (s.advance cyc).stagedLo src (slot * 4096 + o - 4) = some lo →
    exec (.hiWriteApply src off val cyc) s = .next
      (((((s.advance cyc).writeBits l t slot (o - 4) lo (lowBits t (o - 4))).writeBits d t slot o val (BitVec.allOnes 32)).dropStaged src
      (slot * 4096 + o - 4)))) ∧
  -- BLK_IRQ_FORCE (R515)
  (∀ (src : Source) (slot : BitVec 16) (mask : Word) (t i : Nat) (d : RegDef) (s : State),
    regPlace (slot.toNat * 4096 + 0x18) = .page t i slot.toNat 0x18 →
    s.pageAnswers t = true →
    s.mayWrite src (slot.toNat * 4096 + 0x18) = true →
    findReg t 0x18 = some d →
    exec (.blkIrqForce src slot mask) s = .next
      (s.setReg (slot.toNat * 4096 + 0x10) (s.reg (slot.toNat * 4096 + 0x10) ||| (mask &&& 0xF))))

/-- UNIT_ENABLE and UNIT_RESET: the enable reads 1 from now on and the write is left for its boundary; before it, neither the state nor restart_pending changes. UNIT_DISABLE: the same with 0, for every unit but a cartridge, whose disable has a command of its own. The disable or reset of a memory stack that is ON while no stack may be retired (the map is not NORMAL, or one is being retired) is refused and changes nothing else. UNIT_START_COMPLETE and UNIT_STOP_COMPLETE: the completion is noted for the next boundary; the tests of a die, where a Reckoner completes, are taken down. UNIT_FAIL of a unit of a kind without an outcome of its own: the unit has failed, keeps its enable and stops at the next boundary. Every other unit and the rest of the state stay. -/
def Obligations.UnitCommands : Prop :=
  -- UNIT_ENABLE (R452)
  (∀ (unit : UnitId) (cyc : Nat) (s : State),
    exec (.unitEnable unit cyc) s = .next
      { s with clk := (s.advance cyc).clk, units := s.units.put unit.code (unit, { s.unit unit with enable := true }), due := s.due ++ [((s.advance cyc).dueBoundary, .unitEnable unit)] }) ∧
  -- UNIT_DISABLE (R452)
  (∀ (unit : UnitId) (cyc : Nat) (s : State),
    s.refusesStop unit = false →
    (∀ k, unit ≠ .cartridge k) →
    exec (.unitDisable unit cyc) s = .next
      { s with clk := (s.advance cyc).clk, units := s.units.put unit.code (unit, { s.unit unit with enable := false }), due := s.due ++ [((s.advance cyc).dueBoundary, .unitDisable unit)] }) ∧
  -- their refusal (R452)
  (∀ (k : Fin 24) (cyc : Nat) (s : State),
    s.isOn (.stack k) = true →
    s.mayRetire = false →
    exec (.unitDisable (.stack k) cyc) s = .next ((s.advance cyc).setStack k { s.stack k with refused := true }) ∧
      exec (.unitReset (.stack k) cyc) s = .next ((s.advance cyc).setStack k { s.stack k with refused := true })) ∧
  -- UNIT_RESET (R452)
  (∀ (unit : UnitId) (cyc : Nat) (s : State),
    s.refusesStop unit = false →
    exec (.unitReset unit cyc) s = .next
      { s with clk := (s.advance cyc).clk, units := s.units.put unit.code (unit, { s.unit unit with enable := true }), due := s.due ++ [((s.advance cyc).dueBoundary, .unitReset unit)] }) ∧
  -- UNIT_START_COMPLETE (R452)
  (∀ (unit : UnitId) (lanes : List (Fin 6 × Fin 1664 × Fin 68)) (halves : List (Fin 256 × Bool)) (s : State),
    s.groom.waiting.contains unit = false →
    (s.unit unit).st = .starting →
    exec (.unitStartComplete ⟨unit, lanes, halves⟩) s = .next ((s.setUnit unit { s.unit unit with done := true }).dieTested unit lanes halves) ∧
      ((∀ r, unit ≠ .reckoner r) → (s.setUnit unit { s.unit unit with done := true }).dieTested unit lanes halves =
      { s with units := s.units.put unit.code (unit, { s.unit unit with done := true }) })) ∧
  -- UNIT_STOP_COMPLETE (R452)
  (∀ (unit : UnitId) (s : State),
    (s.unit unit).st = .stopping →
    exec (.unitStopComplete unit) s = .next { s with units := s.units.put unit.code (unit, { s.unit unit with done := true }) }) ∧
  -- UNIT_FAIL (R455)
  (∀ (unit : UnitId) (atOnce : Bool) (s : State),
    (s.unit unit).failed = false →
    ((∃ p, unit = .plane p) ∨ (∃ p, unit = .port p) ∨ (∃ b l, unit = .lane b l) ∨ (∃ e, unit = .engine e) ∨ (∃ x, unit = .slot x) ∨ unit = .allocator ∨ (∃ c, unit = .core c ∧ (s.unit unit).st ≠ .starting) ∨ (∃ b, unit = .bridle b ∧ b ≠ 0)) →
    exec (.unitFail unit atOnce) s = .next { s with units := s.units.put unit.code (unit, { s.unit unit with failed := true }), due := s.due ++ [(s.clk.bnd + 1, .unitFail unit atOnce)] })

/-- Where a SIGNAL has started and the data mover of its core still holds a store, an atomic, or a load whose data a later store writes, of the same queue, not yet acknowledged as applied, SIGNAL sends nothing and changes nothing: for every queue, descriptor, transaction and state. -/
def Obligations.SignalWaitsForStores : Prop :=
  ∀ (q : QueueId) (e : Exec) (t : Txn) (s : State), s.running q opSignal = some e → t ∈ (s.core q.core).mover → t.q = q.q →
    (t.kind = 2 ∨ t.kind = 3 ∨ t.kind = 4 ∨ t.kind = 1 ∧ t.ret ≠ none) → exec (.signal q) s = .next s

/-- For every state, accessor, address and length: where any one byte of the range of an access lies in a hole or an unmapped range of the address map, the whole access is handled as one to a hole: a load returns the poison word in every 32-bit word, a store fails, DRG_ADDR_UNMAPPED is raised to the job with the address, and no byte of memory is read or written. -/
def Obligations.AccessPartlyInAHole : Prop :=
  ∀ (s : State) (w : Accessor) (a i : Nat) (bs : List Byte), i < bs.length → s.regionOf (a + i) 1 = .hole →
    s.load w a bs.length = (poisonBytes bs.length, .poison, s.raiseTo Flt.DRG_ADDR_UNMAPPED w.block w.job (a % 2 ^ 32)) ∧
    s.store w a bs = (.failed, s.raiseTo Flt.DRG_ADDR_UNMAPPED w.block w.job (a % 2 ^ 32)) ∧
    (s.load w a bs.length).2.2.mem = s.mem ∧ (s.store w a bs).2.mem = s.mem

/-- For every state, pool and page number: the page lies at the pool's base plus its number within the pool times the page size, the base, the first number and the size being those of the pool's registers, and its sketch lies at BLN_SKETCH plus 128 times its pool index. -/
def Obligations.PageAndSketchAddress : Prop :=
  ∀ (s : State) (p : Fin 4) (n : Nat),
    (s.pool p.val).pageAddr n = s.baseOf (Reg.STB_POOLp_LO + 0x20 * p.val) (Reg.STB_POOLp_HI + 0x20 * p.val) 14 +
      (n - s.regF (Reg.STB_POOLp_FIRST + 0x20 * p.val) 23 0) * 2 ^ s.regF (Reg.STB_POOLp_CFG + 0x20 * p.val) 4 0 ∧
    s.sketchAddr n = s.regF Reg.BLN_SKETCH_LO 31 12 * 2 ^ 12 + s.regF Reg.BLN_SKETCH_HI 11 0 * 2 ^ 32 + 128 * n

/-- DESCRIPTOR_FETCH of a queue in service whose descriptor is present reads its sixteen words from scratch as the loops patch them and holds it as fetched where it passes the checks, and rejects it where it fails one. DESCRIPTOR_START of a fetched descriptor that may start (its queue is not stopped, its predecessors and engines allow it), with a completion entry left, no lower queue before it and a bound that fits, lets it enter execution. DESCRIPTOR_OVERRUN stops a started descriptor whose bound has passed: its transactions and page requests are withdrawn, RKN_DESC_OVERRUN is raised and it ends OVERRUN. DESCRIPTOR_RETIRE ends a descriptor whose operations are complete and acknowledged with its status and counts; one whose work was done only after its bound is stopped as by DESCRIPTOR_OVERRUN. A TAIL write within the ring is taken, one beyond it raises RKN_TAIL_BAD and is ignored. A resume of a HALTED queue is left for its boundary. -/
def Obligations.SequencerCommands : Prop :=
  -- DESCRIPTOR_FETCH (R59)
  (∀ (q : QueueId) (d : Fetched) (s : State),
    s.coreLive q.core = true →
    (s.queue q).on = true →
    (s.queue q).st ≠ .halted →
    (s.queue q).fetched = none →
    (s.queue q).wait = none →
    (s.queue q).present (s.queue q).pc = true →
    (s.queue q).exec = [] →
    d = ⟨patchWords (s.queue q).pc (wordsOf (s.mem.bytes (scratchAddr q.core ((s.queue q).slotOffset (s.queue q).pc)) 64)) (s.queue q).loops, (s.queue q).pc, (s.queue q).slotOffset (s.queue q).pc, (s.queue q).loops⟩ →
    d.check (s.queue q).ringSize = none →
    exec (.descriptorFetch q) s = .next (s.setQueue q { s.queue q with fetched := some d })) ∧
  -- its rejection (R59)
  (∀ (q : QueueId) (d : Fetched) (f : FaultCode) (s : State),
    s.coreLive q.core = true →
    (s.queue q).on = true →
    (s.queue q).st ≠ .halted →
    (s.queue q).fetched = none →
    (s.queue q).wait = none →
    (s.queue q).present (s.queue q).pc = true →
    (s.queue q).exec = [] →
    d = ⟨patchWords (s.queue q).pc (wordsOf (s.mem.bytes (scratchAddr q.core ((s.queue q).slotOffset (s.queue q).pc)) 64)) (s.queue q).loops, (s.queue q).pc, (s.queue q).slotOffset (s.queue q).pc, (s.queue q).loops⟩ →
    d.check (s.queue q).ringSize = some f →
    (s.queue q).cplFull = false →
    exec (.descriptorFetch q) s = .next ((s.raiseTo f (coreBlock q.core q.q.val) (s.queue q).job 0).finish q d stRejected .zero)) ∧
  -- DESCRIPTOR_START (R60)
  (∀ (q : QueueId) (cyc : Nat) (d : Fetched) (s : State),
    ((s.advance cyc).queue q).fetched = some d →
    (s.advance cyc).readyDesc q d = true →
    ((s.advance cyc).queue q).cplFull = false →
    (s.advance cyc).yields q d = false →
    (s.advance cyc).admission q.core d.bound (s.advance cyc).clk.cycle = .fits →
    exec (.descriptorStart q cyc) s = .next ((s.advance cyc).enter q d false)) ∧
  -- its hold until the boundary (R60)
  (∀ (q : QueueId) (cyc : Nat) (d : Fetched) (s : State),
    ((s.advance cyc).queue q).fetched = some d →
    (s.advance cyc).readyDesc q d = true →
    ((s.advance cyc).queue q).cplFull = false →
    (s.advance cyc).yields q d = false →
    (s.advance cyc).admission q.core d.bound (s.advance cyc).clk.cycle = .held →
    exec (.descriptorStart q cyc) s = .next ((s.advance cyc).setQueue q { (s.advance cyc).queue q with st := .boundaryHold })) ∧
  -- DESCRIPTOR_OVERRUN (R41)
  (∀ (q : QueueId) (index : BitVec 16) (cyc : Nat) (e : Exec) (v s : State),
    v = s.advance cyc →
    (v.queue q).exec.find? (fun e => e.desc.index == index) = some e →
    (v.queue q).wait = none →
    v.boundOver q index = true →
    (let u := v.setCore q.core ((v.core q.core).stopTxns q.q index)
     ∃ t, exec (.descriptorOverrun q (index, cyc)) s = .next (((t.setQueue q ((t.queue q).dropExec index)).raiseTo Flt.RKN_DESC_OVERRUN (coreBlock q.core q.q.val)
     (v.queue q).job e.desc.offset).finish q e.desc stOverrun e.exc) ∧
     t = { u with stb := { u.stb with requests := u.stb.requests.filter fun r => !(r.q == q && r.index == index), refused := u.stb.refused.filter (· != (q, index)) } })) ∧
  -- DESCRIPTOR_RETIRE (R61)
  (∀ (q : QueueId) (index : BitVec 16) (e : Exec) (s : State),
    (s.queue q).exec.find? (fun e => e.desc.index == index) = some e →
    e.complete = true →
    (s.core q.core).pendingOf q.q index = [] →
    s.frameInFlight q index = false →
    s.inBound q.core e = true →
    exec (.descriptorRetire q index) s = .next ((s.setQueue q ((s.queue q).dropExec index)).finish q e.desc e.status e.exc)) ∧
  -- one whose work was done only after its bound is stopped (R61)
  (∀ (q : QueueId) (index : BitVec 16) (e : Exec) (s : State),
    (s.queue q).exec.find? (fun e => e.desc.index == index) = some e →
    e.complete = true →
    (s.core q.core).pendingOf q.q index = [] →
    s.frameInFlight q index = false →
    s.inBound q.core e = false →
    exec (.descriptorRetire q index) s = .next (s.overrun q index)) ∧
  -- QUEUE_TAIL_WRITE (R57)
  (∀ (src : Source) (q : QueueId) (tail : BitVec 16) (s : State),
    s.mayWrite src (queueReg q 8) = true →
    (tail - (s.queue q).head).toNat ≤ 2 ^ (s.queue q).ringLog2 →
    exec (.queueTailWrite src q tail) s = .next ((s.setQueue q { s.queue q with tail := tail }).settleQueue q)) ∧
  -- one beyond the ring (R57)
  (∀ (src : Source) (q : QueueId) (tail : BitVec 16) (s : State),
    s.mayWrite src (queueReg q 8) = true →
    2 ^ (s.queue q).ringLog2 < (tail - (s.queue q).head).toNat →
    exec (.queueTailWrite src q tail) s = .next (s.raiseTo Flt.RKN_TAIL_BAD (coreBlock q.core q.q.val) (s.queue q).job 0)) ∧
  -- QUEUE_RESUME_RETRY (R64)
  (∀ (src : Source) (q : QueueId) (cyc : Nat) (s : State),
    (s.advance cyc).mayWrite src (queueReg q 0) = true →
    (s.queue q).st = .halted →
    exec (.queueResumeRetry src q cyc) s = .next ((s.advance cyc).schedule (.queueResume q false))) ∧
  -- QUEUE_RESUME_SKIP (R64)
  (∀ (src : Source) (q : QueueId) (cyc : Nat) (s : State),
    (s.advance cyc).mayWrite src (queueReg q 0) = true →
    (s.queue q).st = .halted →
    exec (.queueResumeSkip src q cyc) s = .next ((s.advance cyc).schedule (.queueResume q true)))

/-- For each elementwise and row operation: where its started descriptor waits for no earlier operation (R55), its core is not OFF and its operands and results lie in scratch (what the fetch checks of R59 ask), the command reads the sources as elements of src_fmt (B4 with its scale array and src1 as immediate among the forms), applies the operation to them, writes the results converted to dst_fmt at dst, and completes the descriptor's operations with status OK and the exception counts of the results. Every byte outside the written pieces, every register and the rest of the state stay. TOPK_ROW writes its rows of indices and values likewise. -/
def Obligations.VectorCommands : Prop :=
  VectorRuns .vectorConvert 0 (fun _ => map1 id) ∧ VectorRuns .vectorAdd 1 (fun _ => map2 fadd) ∧
  VectorRuns .vectorMul 2 (fun _ => map2 fmul) ∧ VectorRuns .vectorFma 3 (fun _ => map3 ffma) ∧
  VectorRuns .vectorMax 4 (fun _ => map2 fmax) ∧ VectorRuns .vectorMin 5 (fun _ => map2 fmin) ∧
  VectorRuns .vectorExp 6 (fun _ => map1 fexp) ∧ VectorRuns .vectorRecip 7 (fun _ => map1 frecip) ∧
  VectorRuns .vectorRsqrt 8 (fun _ => map1 frsqrt) ∧ VectorRuns .vectorSilu 9 (fun _ => map1 fsilu) ∧
  VectorRuns .vectorSumRow 10 (fun x => mapRows x.rowLen (foldRow fadd)) ∧
  VectorRuns .vectorMaxRow 11 (fun x => mapRows x.rowLen (foldRow fmax)) ∧
  (∀ (q : QueueId) (e : Exec) (s : State),
    let x := e.desc.vector
    let rows := (groupsOf x.rowLen (s.scratchValues q.core x.srcFmt x.count x.src0)).map (topkRow x.dstFmt x.sat x.topk)
    s.runningVop q 12 = some e → s.hazard q.core (x.reads ++ x.writes) = false → (s.unit (.core q.core)).st ≠ .off →
    x.reads.all Span.fits = true → x.dst * 64 + (rows.flatMap (·.1)).length ≤ 0x180000 →
    exec (.vectorTopkRow q) s = .next ((s.poke (scratchAddr q.core (x.dst * 64)) (rows.flatMap (·.1))).complete q e stOk
      (rows.foldl (fun t r => t.add r.2) .zero)))

/-- Each command carries out the oldest started descriptor of its opcode, where no earlier operation has yet to write a range of it (R55). MATMUL loads A, B and, when it accumulates, C as elements, takes each row's products under acc_round, stores the rows converted to c_fmt at C, and completes with the worst status of its accesses and the counts of its rows. MOVE carries its rows out piece by piece in order. GATHER reads its indices and copies its rows. DATA_MOVER_ISSUE sends the oldest transaction of a core not yet issued that its meters, the pool and the drain of the routers admit: it is charged to the meters and goes to its Bridle port; one that the meters do not admit waits, and only the meters are refilled. -/
def Obligations.TensorAndDataMoverCommands : Prop :=
  -- MATMUL (R101, R92, R93, R99, R105, R120)
  (∀ (q : QueueId) (e : Exec) (s : State),
    s.running q opMatmul = some e →
    s.hazard q.core (e.desc.matmul.reads ++ e.desc.matmul.writes) = false →
    (let x := e.desc.matmul
     let w := s.accessor q
     let a := s.loadMany w (x.aRanges q.core)
     let b := a.2.2.loadB w q.core x
     let cAt (i : Nat) := scratchAddr q.core (x.c * 64 + i * x.ldc * 64)
     let c := b.2.2.loadMany w ((List.range x.m).map fun i => (cAt i, if x.accum then rowBytes x.cFmt x.n else 0))
     let rows := (x.aRows a.1).zipIdx.map fun (r, i) => matmulRow x r b.1 ((elemCodes x.cFmt x.n (c.1.getD i [])).map (floatFormat x.cFmt).decode)
     let out := rows.map fun (rs, n) => (packCodes x.cFmt (convertAll x.cFmt x.sat rs).1, (convertAll x.cFmt x.sat rs).2.add ⟨0, 0, 0, n⟩)
     let d := c.2.2.storeMany w (out.zipIdx.map fun ((bytes, _), i) => (cAt i, bytes))
     exec (.matmul q) s = .next (d.2.complete q e (accessStatus (worse a.2.1 (worse b.2.1 (worse c.2.1 d.1)))) (out.foldl (fun t r => t.add r.2) .zero)))) ∧
  -- MOVE (R73, R55, R112, R302, R365, R547)
  (∀ (q : QueueId) (e : Exec) (s : State),
    s.running q opMove = some e →
    s.hazard q.core (s.moveSpans q.core e.desc.move) = false →
    (let x := e.desc.move
     let got := (s.refillFor q.core).moveRows q e x (List.range x.rows)
     exec (.move q) s = .next (got.2.2.complete q e (accessStatus got.1) got.2.1))) ∧
  -- GATHER (R547, R26, R55)
  (∀ (q : QueueId) (e : Exec) (s : State),
    s.running q opGather = some e →
    s.hazard q.core (e.desc.gather.reads ++ e.desc.gather.writes) = false →
    (let x := e.desc.gather
     let size := if x.idx32 then 4 else 2
     let got := (s.refillFor q.core).load (s.accessor q) (scratchAddr q.core (x.idx * 64)) (x.count * size)
     let rows := got.2.2.gatherRows q e x (wideCodes size x.count got.1).zipIdx
     exec (.gather q) s = .next (rows.2.complete q e (accessStatus (worse got.2.1 rows.1)) .zero))) ∧
  -- one whose ranges an earlier operation still holds waits (R73, R55, R112, R302, R365, R547)
  (∀ (q : QueueId) (e : Exec) (s : State),
    s.hazard q.core (s.moveSpans q.core e.desc.move) = true →
    s.hazard q.core (e.desc.gather.reads ++ e.desc.gather.writes) = true →
    s.hazard q.core (e.desc.matmul.reads ++ e.desc.matmul.writes) = true →
    (s.running q opMove = some e → exec (.move q) s = .next s) ∧
      (s.running q opGather = some e → exec (.gather q) s = .next s) ∧
      (s.running q opMatmul = some e → exec (.matmul q) s = .next s)) ∧
  -- DATA_MOVER_ISSUE (R85, R53, R79, R82, R343)
  (∀ (core : CoreId) (cyc : Nat) (t : Txn) (p : Fin 64) (r s : State),
    r = (s.advance cyc).refillFor core →
    r.nextTxn core = some t →
    t.kind ≠ 3 ∨ r.isHome t.addr = false →
    r.txnPort core t = some p →
    r.txnHeld core t = false →
    (let k := r.core core
     let u := r.setCore core { k with txMeter := k.txMeter - t.charge.1, rxMeter := k.rxMeter - t.charge.2, mover := k.mover.map fun v => if v.id = t.id then { v with issued := true } else v }
     let v := if t.kind = 0 then u else u.noteTxn ⟨core, t.q⟩ t.index .ok t.exc
     exec (.dataMoverIssue core cyc) s = .next (v.portRequest (v.routerPort core p (t.addr / 128)) p (v.txnPacket t core) (.core core t.id) (!v.isHome t.addr)))) ∧
  -- one that its meters, the pool or the drain of the routers hold back (R85, R53, R79, R82, R343)
  (∀ (core : CoreId) (cyc : Nat) (t : Txn) (p : Fin 64) (r s : State),
    r = (s.advance cyc).refillFor core →
    r.nextTxn core = some t →
    t.kind ≠ 3 →
    r.txnPort core t = some p →
    r.txnHeld core t = true →
    exec (.dataMoverIssue core cyc) s = .next r)

/-- ATTEND of a core that may start accesses and has paid for them on its meters carries out its started descriptor; one whose core starts no access waits. BLINK, where no descriptor operation has yet to write its sketch, gives its request to the engine of its stall that is NORMAL and has fewer than 512 requests, counts it, and completes. DISPATCH, with the EDU ON, is carried out; with the EDU not ON it waits and nothing changes. SIGNAL, once the earlier stores and atomics of its queue are acknowledged and where no descriptor before it has failed, launches its frame towards a counter that admits its job and completes OK; a counter that does not admit it raises HCH_SIG_REJECTED and completes with an access error; towards another module it sends an ADD32. LOOP at a depth below four opens its body at iteration 0; at the fifth level it is rejected with RKN_LOOP_DEPTH. -/
def Obligations.SpecialUnitCommands : Prop :=
  -- ATTEND of a segment set that appends nothing (R160)
  (∀ (q : QueueId) (e : Exec) (ws pw : List Word) (todo : List Nat) (found : List (Nat × Nat)) (n : Nat) (cyc : Nat) (a s t u v r : State),
    a = r.advance cyc →
    a.running q opAttend = some e →
    s = a.refillFor q.core →
    (s.core q.core).closed = false →
    wordsOf (s.mem.bytes (scratchAddr q.core (e.desc.attend.workOff * 64)) 64) = ws →
    s.loadWords (s.accessor q) (s.attendProfileAt q e.desc.attend) 8 = (some pw, t) →
    headerOk ws = true →
    profileValid pw (t.pageSize e.desc.attend.stall) = true →
    e.desc.attend.rangesOk (profileOf pw) false = true →
    (s.queue q).job = (s.stall e.desc.attend.stall).job →
    (s.stall e.desc.attend.stall).st = .prefill ∨ (s.stall e.desc.attend.stall).st = .decode →
    (headerOf ws).start = true ∨ (headerOf ws).done = false →
    t.hazard q.core (e.desc.attend.spans (profileOf pw)) = false →
    (headerOf ws).append = false →
    e.desc.attend.list = false →
    e.desc.attend.todo (headerOf ws) none = todo →
    t.findPages (s.accessor q) (s.stall e.desc.attend.stall) e.desc.attend.layer (e.desc.attend.group (profileOf pw)) [] (distinctNumbers ((todo.take (headerOf ws).quota).map (· / 4) ++ [])) = (some found, n, u) →
    u.chargeCore q.core (rangeCharge (attendReads n ++ e.desc.attend.traffic (profileOf pw) (headerOf ws) (todo.take (headerOf ws).quota))) = some v →
    exec (.attend (q, cyc)) r = .next (v.attendWalk q e e.desc.attend (profileOf pw) (headerOf ws) (todo.take (headerOf ws).quota) (todo.drop (headerOf ws).quota) found)) ∧
  -- one whose core starts no access (R160)
  (∀ (q : QueueId) (e : Exec) (cyc : Nat) (a s r : State),
    a = r.advance cyc →
    a.running q opAttend = some e →
    s = a.refillFor q.core →
    (s.core q.core).closed = true →
    exec (.attend (q, cyc)) r = .next s) ∧
  -- its profile cannot be read (R160)
  (∀ (q : QueueId) (e : Exec) (cyc : Nat) (a t v s r : State),
    a = r.advance cyc →
    a.running q opAttend = some e →
    s = a.refillFor q.core →
    (s.core q.core).closed = false →
    s.loadWords (s.accessor q) (s.attendProfileAt q e.desc.attend) 8 = (none, t) →
    t.chargeCore q.core (rangeCharge (attendReads 0)) = some v →
    exec (.attend (q, cyc)) r = .next ((v.raiseQueue q Flt.RKN_ATT_PROFILE 0).complete q e stAccess .zero)) ∧
  -- BLINK (R173)
  (∀ (q : QueueId) (e : Exec) (own : Fin 2) (s : State),
    s.running q opBlink = some e →
    s.hazard q.core [spanOf false e.desc.blink.sketch 128] = false →
    s.liveF Reg.BLN_CTL 31 31 ≠ 1 →
    own.val = e.desc.blink.stall % 2 →
    s.engineNormal own = true →
    (s.engine own).waiting < 512 →
    (let x := e.desc.blink
     let r : BlinkRequest := ⟨q, (s.queue q).job, x.headGrp, x.layer, x.stall, x.tint, x.k, x.sketch, x.list, x.doneSpace, x.doneIdx, false⟩
     exec (.blink q) s = .next (((s.setEngine own { s.engine own with requests := (s.engine own).requests ++ [r] }).bump Reg.BLN_CNT_n 1).complete q e stOk .zero))) ∧
  -- DISPATCH (R141)
  (∀ (q : QueueId) (e : Exec) (s : State),
    s.running q opDispatch = some e →
    s.isOn .edu = true →
    s.hazard q.core [spanOf false e.desc.dispatch.sel (4 * e.desc.dispatch.topk * e.desc.dispatch.tokens)] = false →
    exec (.dispatch q) s = .next (s.dispatch q e e.desc.dispatch)) ∧
  -- SIGNAL (R75, R74, R313, R328, R341)
  (∀ (q : QueueId) (e : Exec) (c : CounterId) (s : State),
    s.running q opSignal = some e →
    s.earlierStoresDone q = true →
    (s.queue q).signalBarred e.desc.index = false →
    ¬ (e.desc.ctrSpace = 4 ∧ e.desc.ctrModule ≠ s.moduleIndex) →
    e.desc.counter q.core = some c →
    s.admits c (s.queue q).job = true →
    exec (.signal q) s = .next (({ s with hitch := { s.hitch with flight := insertFrame ⟨c, e.desc.amount, q.core.gid, (s.queue q).job, s.hitchSlot q.core.gid, (s.ctr c).gen, .desc q e.desc.index, s.landing (s.hitchSlot q.core.gid) c q.core.gid⟩ s.hitch.flight } }).complete q e stOk .zero)) ∧
  -- one behind a descriptor of its queue that has failed (R75, R74, R313, R328, R341)
  (∀ (q : QueueId) (e : Exec) (s : State),
    s.running q opSignal = some e →
    (s.queue q).signalBarred e.desc.index = true →
    exec (.signal q) s = .next s) ∧
  -- a signal its counter does not admit (R75, R74, R313, R328, R341)
  (∀ (q : QueueId) (e : Exec) (c : CounterId) (s : State),
    s.running q opSignal = some e →
    s.earlierStoresDone q = true →
    (s.queue q).signalBarred e.desc.index = false →
    ¬ (e.desc.ctrSpace = 4 ∧ e.desc.ctrModule ≠ s.moduleIndex) →
    e.desc.counter q.core = some c →
    s.admits c (s.queue q).job = false →
    exec (.signal q) s = .next (((s.bump (Reg.HCH_CNT_n + 16) 1).raiseTo Flt.HCH_SIG_REJECTED (coreBlock q.core q.q.val) (s.queue q).job (ctrDetail c)).complete q e
      stAccess .zero)) ∧
  -- a signal to another module (R75, R74, R313, R328, R341)
  (∀ (q : QueueId) (e : Exec) (s : State),
    s.running q opSignal = some e →
    s.earlierStoresDone q = true →
    (s.queue q).signalBarred e.desc.index = false →
    e.desc.ctrSpace = 4 →
    e.desc.ctrModule ≠ s.moduleIndex →
    (let d := e.desc
     let t : Txn := ⟨s.nextId, q.q, d.index, 4, mcAddress d.ctrModule d.ctrIndex, 4, natLe (unsignedOf 32 d.amount) 8, none, false, .zero, false, true⟩
     exec (.signal q) s = .next (({ s.setCore q.core { s.core q.core with mover := (s.core q.core).mover ++ [t] } with nextId := s.nextId + 1 }).complete q e stOk .zero))) ∧
  -- LOOP (R78)
  (∀ (q : QueueId) (e : Exec) (s : State),
    s.running q opLoop = some e →
    (s.queue q).loops.length < 4 →
    exec (.loop q) s = .next (((s.setQueue q { s.queue q with loops := ⟨e.desc.index + 1, e.desc.bodyLen, 0, e.desc.loopCount, e.desc.patches⟩ :: (s.queue q).loops, pc := e.desc.index + 1 }).complete
      q e stOk .zero).settleQueue q)) ∧
  -- a fifth level (R78)
  (∀ (q : QueueId) (e : Exec) (s : State),
    s.running q opLoop = some e →
    4 ≤ (s.queue q).loops.length →
    exec (.loop q) s = .next ((s.setQueue q ((s.queue q).dropExec e.desc.index)).rejectDesc q e.desc Flt.RKN_LOOP_DEPTH))

/-- WAIT of a fetched descriptor that may start is WAITING with its time-out; a condition on an own-core counter is judged at once, one on a root counter is asked of the Hitch root, which watches it; once the condition holds it starts under its bound. WAIT_TIMEOUT of a WAIT whose boundaries have elapsed raises RKN_WAIT_TIMEOUT and ends it. BRANCH with a target out of rule is rejected with RKN_BRANCH_RANGE; with a target in rule that is present and a bound that fits it starts, and its condition is judged once. -/
def Obligations.WaitAndBranchCommands : Prop :=
  -- WAIT (R76)
  (∀ (q : QueueId) (cyc : Nat) (d : Fetched) (s : State),
    ((s.advance cyc).queue q).fetched = some d →
    d.opcode = opWait →
    (s.advance cyc).queueStopped q = false →
    (s.advance cyc).predecessorsOk q d = true →
    ((s.advance cyc).queue q).cplFull = false →
    (let r := s.advance cyc
     let w : Waiting := ⟨d, if d.timeout = 0 then none else some d.timeout, false, d.ctrSpace != 0, false⟩
     exec (.wait q cyc) s = .next (((((r.setQueue q { r.queue q with fetched := none, wait := some w }).settleQueue q).askRoot q d).judgeOwn q).startWait q))) ∧
  -- the WAIT whose condition holds starts (R76)
  (∀ (q : QueueId) (cyc : Nat) (w : Waiting) (s : State),
    ((s.advance cyc).queue q).fetched = none →
    ((s.advance cyc).queue q).wait = some w →
    w.held = true →
    (s.advance cyc).queueStopped q = false →
    (s.advance cyc).admission q.core w.desc.bound (s.advance cyc).clk.cycle = .fits →
    exec (.wait q cyc) s = .next (((s.advance cyc).setQueue q { (s.advance cyc).queue q with wait := none }).enter q w.desc true)) ∧
  -- WAIT_TIMEOUT (R76)
  (∀ (q : QueueId) (w : Waiting) (s : State),
    (s.queue q).wait = some w →
    w.timeout = some 0 →
    w.held = false →
    w.branch = false →
    exec (.waitTimeout q) s = .next (((s.withdrawWatches q).raiseQueue q Flt.RKN_WAIT_TIMEOUT 0).endWait q w.desc stWaitTimeout)) ∧
  -- BRANCH to a target out of rule (R77)
  (∀ (q : QueueId) (cyc : Nat) (d : Fetched) (s : State),
    ((s.advance cyc).queue q).fetched = some d →
    d.opcode = opBranch →
    (s.advance cyc).queueStopped q = false →
    (s.advance cyc).predecessorsOk q d = true →
    ((s.advance cyc).queue q).cplFull = false →
    ((s.advance cyc).queue q).branchOk d = false →
    exec (.branch q cyc) s = .next (((s.advance cyc).setQueue q { (s.advance cyc).queue q with wait := none }).rejectDesc q d Flt.RKN_BRANCH_RANGE)) ∧
  -- BRANCH (R77)
  (∀ (q : QueueId) (cyc : Nat) (d : Fetched) (s : State),
    ((s.advance cyc).queue q).fetched = some d →
    d.opcode = opBranch →
    (s.advance cyc).queueStopped q = false →
    (s.advance cyc).predecessorsOk q d = true →
    ((s.advance cyc).queue q).cplFull = false →
    ((s.advance cyc).queue q).branchOk d = true →
    ¬ (((s.advance cyc).queue q).loops = [] ∧ ((s.advance cyc).queue q).present (d.index + BitVec.ofInt 16 d.branchOffset) = false) →
    (s.advance cyc).admission q.core d.bound (s.advance cyc).clk.cycle = .fits →
    (let r := s.advance cyc
     let u := (r.setQueue q { r.queue q with wait := none }).enter q d false
     exec (.branch q cyc) s = .next (((u.setQueue q { u.queue q with wait := some ⟨d, none, false, d.ctrSpace != 0, true⟩ }).askRoot q d).judgeOwn q)))

/-- With the EDU ON, an EDU message of kind 1 brings in the selections of its block whose home this module is, one by one; one of kind 2, 3 or 4 records its resolution (a result row, dropped, abandoned) for the token and position it names. A batch whose mailbox is being written gets its rows, then the zero rows that fill its last tile and its header; where these are stored it is ready from then on and signals its tiles to ready_h, and where they are refused its selections are abandoned. The oldest batch of an instance whose done_ctr has moved past what was seen completes, and its results are sent. A batch 24,000 stride cycles after its mailbox, and a selection 32,000 after its DISPATCH, are abandoned and counted. The lowest ready token of a DISPATCH is combined into its row; one whose row is refused is counted as abandoned and written no more. A DISPATCH whose tokens are all written signals its done counter and ends. A switch of tables asked for with nothing pending is left for the boundary. -/
def Obligations.EduCommands : Prop :=
  -- EDU_MESSAGE_RECEIVE of kinds 2, 3 and 4 (R370)
  (∀ (src : Fin 32) (job : BitVec 12) (layer : BitVec 8) (tag : BitVec 16) (token : BitVec 12) (pos : Fin 8) (block : List Word) (row : List Byte) (origin : Option (Fin 32)) (cyc : Nat) (s : State),
    (s.advance cyc).isOn .edu = true ∨ ((s.advance cyc).unit .edu).st = .stopping →
    exec (.eduMessageReceive (src, origin) 2 job layer tag token pos block row cyc) s = .next ((s.advance cyc).recordResolution tag.toNat token.toNat pos.val (.result row)) ∧
      exec (.eduMessageReceive (src, origin) 3 job layer tag token pos block row cyc) s = .next ((s.advance cyc).recordResolution tag.toNat token.toNat pos.val .dropped) ∧
      exec (.eduMessageReceive (src, origin) 4 job layer tag token pos block row cyc) s = .next ((s.advance cyc).recordResolution tag.toNat token.toNat pos.val .abandoned)) ∧
  -- EDU_MESSAGE_RECEIVE of kind 1 (R370)
  (∀ (src : Fin 32) (job : BitVec 12) (layer : BitVec 8) (tag : BitVec 16) (token : BitVec 12) (pos : Fin 8) (block : List Word) (row : List Byte) (origin : Option (Fin 32)) (cyc : Nat) (s : State),
    (s.advance cyc).isOn .edu = true →
    (let v := s.advance cyc
     let got := v.readLayer layer.toNat
     let mine := (block.takeWhile fun w => w.bit 23).filter fun w => w.field 31 27 == got.2.regF Reg.FAB_POS 4 0
     exec (.eduMessageReceive (src, origin) 1 job layer tag token pos block row cyc) s = .next (mine.foldl (fun u w => u.eduArrive got.1
     ⟨(origin.getD src).val, 0, tag.toNat, token.toNat, w.field 26 24, layer.toNat, w.field (if origin.isSome then 9 else 8) 0, job.toNat, 0, row, 0, origin.isSome, got.2.eduBoundaryOf, false, false⟩) got.2))) ∧
  -- EDU_MAILBOX_WRITTEN (R144, R140)
  (∀ (layer : BitVec 8) (inst : Fin 1024) (b : EduBatch) (s : State),
    (s.edu.batches.find? fun b => b.is layer.toNat inst.val && b.readyAt.isNone && !b.gone) = some b →
    (let pitch := rowUnits b.cfg.act b.cfg.dModel
     let start := b.inOff + bitOf b.half * (1 + b.cap * pitch)
     let rows := s.writeRows b (start + 1) pitch b.sels.zipIdx
     let n := b.sels.length
     let tiles := ceilDiv n 32
     let job := (b.sels.head?.map (·.job)).getD 0
     let pad := rows.2.store (eduAccess job) (b.mailbox (start + 1 + n * pitch)) (List.replicate ((tiles * 32 - n) * pitch * 64) 0)
     let head := pad.2.storeWords (eduAccess job) (b.mailbox start) ([BitVec.ofNat 32 (n + putBits 31 16 tiles), BitVec.ofNat 32 b.stride.toNat, BitVec.ofNat 32 (b.layer + putBits 17 8 b.inst + putBits 18 18 (bitOf b.half))] ++ List.replicate 13 0)
     exec (.eduMailboxWritten layer inst) s = .next (if worse pad.1 head.1 ≠ .ok then (head.2.setEdu { head.2.edu with batches := head.2.edu.batches.erase b }).abandonBatch rows.1
     else (head.2.mapBatches fun y => if y = b then { y with readyAt := some head.2.now, sels := rows.1 } else y).signalAt 0 (coreOf b.lead) b.readyH tiles 0 agentEdu blkEDU))) ∧
  -- EDU_BATCH_COMPLETE (R146, R144, R147)
  (∀ (layer : BitVec 8) (inst : Fin 1024) (b : EduBatch) (s : State),
    s.doneBatch layer.toNat inst.val = some b →
    b.gone = false →
    (let key := seenKey layer.toNat inst.val b.doneCtr
     let pitch := rowUnits b.cfg.res b.cfg.dModel
     exec (.eduBatchComplete layer inst) s = .next ((s.setEdu { s.edu with batches := s.edu.batches.erase b, seen := s.edu.seen.put key (s.edu.seen.getD key 0 + 1) }).sendResults b (b.outOff + bitOf b.half * b.cap * pitch) pitch b.sels.zipIdx))) ∧
  -- EDU_BATCH_TIMEOUT (R147)
  (∀ (layer : BitVec 8) (inst : Fin 1024) (cyc : Nat) (b : EduBatch) (s : State),
    (((s.advance cyc).edu.batches.find? fun b => b.is layer.toNat inst.val && !b.gone && b.readyAt.any (fun t => decide (t + 24000 ≤ (s.advance cyc).now))) = some b) →
    exec (.eduBatchTimeout layer inst cyc) s = .next (((s.advance cyc).mapBatches fun y => if y = b then { y with gone := true, sels := [] } else y).abandonBatch b.sels)) ∧
  -- EDU_RESULT_TIMEOUT (R147)
  (∀ (tag : BitVec 16) (token : BitVec 12) (pos : Fin 8) (cyc : Nat) (d : EduDispatch) (e : EduEntry) (s : State),
    ((s.advance cyc).edu.dispatches.find? fun d => d.tag == tag.toNat) = some d →
    (d.tokens.getD token.toNat ⟨false, [], true, true, false⟩).entries[pos.val]? = some e →
    e.res = .waiting →
    d.atCycle + 32000 ≤ (s.advance cyc).now →
    exec (.eduResultTimeout tag token pos cyc) s = .next (((s.advance cyc).bump (Reg.EDU_CNT_n + 28) 1).recordResolution tag.toNat token.toNat pos.val .abandoned)) ∧
  -- EDU_COMBINE (R148, R138, R140, R147, R149)
  (∀ (tag : BitVec 16) (token : BitVec 12) (d : EduDispatch) (t : EduToken) (u : State) (s : State),
    (s.edu.dispatches.find? fun d => d.tag == tag.toNat) = some d →
    d.tokens[token.toNat]? = some t →
    d.nextRow token.toNat = true →
    s.store (eduAccess d.job) (scratchAddr d.q.core ((d.ret + token.toNat * rowUnits d.cfg.ret d.cfg.dModel) * 64)) (t.row d.cfg) = (.ok, u) →
    (let d' := { d with tokens := d.tokens.set token.toNat { t with written := true } }
     exec (.eduCombine tag token) s = .next (u.setEdu { u.edu with dispatches := u.edu.dispatches.map fun x => if x.tag = d.tag then d' else x }))) ∧
  -- a row that is refused (R148, R138, R140, R147, R149)
  (∀ (tag : BitVec 16) (token : BitVec 12) (d : EduDispatch) (t : EduToken) (st : Status) (u : State) (s : State),
    (s.edu.dispatches.find? fun d => d.tag == tag.toNat) = some d →
    d.tokens[token.toNat]? = some t →
    d.nextRow token.toNat = true →
    t.poisoned = false →
    s.store (eduAccess d.job) (scratchAddr d.q.core ((d.ret + token.toNat * rowUnits d.cfg.ret d.cfg.dModel) * 64)) (t.row d.cfg) = (st, u) →
    st ≠ .ok →
    (let d' := { d with tokens := d.tokens.set token.toNat { t with poisoned := true, barred := true, entries := t.entries.map EduEntry.abandoned } }
     let n := (t.entries.filter fun e => e.res != .discarded && e.res != .abandoned).length
     exec (.eduCombine tag token) s = .next (((u.setEdu { u.edu with dispatches := u.edu.dispatches.map fun x => if x.tag = d.tag then d' else x }).bump (Reg.EDU_CNT_n + 28) n).raiseTo Flt.EDU_RESULT_TIMEOUT blkEDU d.job d.offset))) ∧
  -- EDU_DONE_SIGNAL (R149)
  (∀ (tag : BitVec 16) (d : EduDispatch) (s : State),
    (s.edu.dispatches.find? fun d => d.tag == tag.toNat) = some d →
    d.tokens.all (·.written) = true →
    exec (.eduDoneSignal tag) s = .next ((s.setEdu { s.edu with dispatches := s.edu.dispatches.filter fun x => x.tag != d.tag }).signalAt d.doneSpace (some d.q.core) d.doneIdx 1 d.job agentEdu blkEDU)) ∧
  -- EDU_TABLE_SWITCH (R135)
  (∀ (src : Source) (val : Word) (cyc : Nat) (s : State),
    (s.advance cyc).mayWrite src Reg.EDU_TBL_CTL = true →
    (s.advance cyc).eduPending = false →
    exec (.eduTableSwitch src val cyc) s = .next (((s.advance cyc).setEdu { s.edu with refused := s.edu.refused && !val.bit 28, switching := true }).schedule .eduSwitch))

/-- The oldest page request of an ATTEND is served, or, when no page can be had, refused with STB_POOL_EXHAUSTED and counted. An append report of the last layer of a PREFILL stall is taken down and moves its sequence length on. A NORMAL engine starts its oldest request and forms its list; the list is written and the request ends. An engine that is not NORMAL gives its requests away. A drift check of a NORMAL engine whose period has elapsed keeps its errors, and one that fails starts a recalibration; a recalibration that passes makes the engine NORMAL, the third failure in a row makes it FAILED with BLN_ENGINE_FAIL, and another failure starts it again. -/
def Obligations.PageAndBlinkersCommands : Prop :=
  -- STB_PAGE_REQUEST (R192, R163)
  (∀ (r : PageRequest) (rest : List PageRequest) (t : State) (s : State),
    s.stb.requests = r :: rest →
    ({ s with stb := { s.stb with requests := rest } }).servePage r.stall ⟨r.layer, r.grp, r.page⟩ = (true, t) →
    exec .stbPageRequest s = .next t) ∧
  -- no page (R192, R163)
  (∀ (r : PageRequest) (rest : List PageRequest) (t : State) (s : State),
    s.stb.requests = r :: rest →
    ({ s with stb := { s.stb with requests := rest } }).servePage r.stall ⟨r.layer, r.grp, r.page⟩ = (false, t) →
    exec .stbPageRequest s = .next ((({ t with stb := { t.stb with refused := (r.q, r.index) :: t.stb.refused } }).bump (Reg.STB_CNT_n + 12) 1).raiseTo Flt.STB_POOL_EXHAUSTED blkSTB (t.queue r.q).job r.stall)) ∧
  -- APPEND_REPORT (R193)
  (∀ (r : AppendReport) (rest : List AppendReport) (s : State),
    s.stb.reports = r :: rest →
    (s.stall r.stall).st = .prefill →
    r.layer = (s.stall r.stall).img.layers →
    exec .appendReport s = .next ((({ s with stb := { s.stb with reports := rest } }).setStall r.stall { s.stall r.stall with reported := (r.grp, r.first, r.count) :: (s.stall r.stall).reported }).advanceSeq r.stall)) ∧
  -- BLINKERS_REQUEST_START (R174)
  (∀ (e : Fin 2) (r : BlinkRequest) (rest : List BlinkRequest) (s : State),
    (s.engine e).requests = r :: rest →
    (s.engine e).formed = none →
    s.engineNormal e = true →
    (let got := s.classify e r
     exec (.blinkersRequestStart e) s = .next (got.2.2.setEngine e { got.2.2.engine e with formed := some (got.1, got.2.1) }))) ∧
  -- BLINKERS_LIST_COMPLETE (R176)
  (∀ (e : Fin 2) (r : BlinkRequest) (rest : List BlinkRequest) (status : Nat) (pages : List Nat) (s : State),
    (s.engine e).requests = r :: rest →
    (s.engine e).formed = some (status, pages) →
    exec (.blinkersListComplete e) s = .next ((s.setEngine e { s.engine e with requests := rest, formed := none }).writeList r (some e) status pages)) ∧
  -- BLINKERS_LEAVE_NORMAL (R177)
  (∀ (e : Fin 2) (s : State),
    s.engineNormal e = false →
    exec (.blinkersLeaveNormal e) s = .next (s.moveRequests e)) ∧
  -- BLINKERS_DRIFT_CHECK (R180)
  (∀ (e : Fin 2) (p0 p1 p2 p3 p4 : BitVec 16) (s : State),
    s.isOn (.engine e) = true →
    (s.engine e).mode = .normal →
    (s.engine e).lastCheck + s.regF Reg.BLN_CHECK_CTL 15 0 ≤ s.clk.bnd →
    (let t := s.setEngine e ((s.engine e).checked (checkErrors p0 p1 p2 p3 p4) s.clk.bnd)
     exec (.blinkersDriftCheck e p0 p1 p2 p3 p4) s = .next (if p0 < 192 ∧ p1 < 192 ∧ p2 < 192 ∧ p3 < 192 ∧ p4 < 192 then t else t.enterRecal e))) ∧
  -- BLINKERS_RECAL_COMPLETE (R180, R179)
  (∀ (e : Fin 2) (p0 p1 p2 p3 p4 : BitVec 16) (measured : List Int) (s : State),
    (s.engine e).mode = .recal →
    (let x := (s.engine e).checked (checkErrors p0 p1 p2 p3 p4) s.clk.bnd
     exec (.blinkersRecalComplete ⟨e, measured⟩ p0 p1 p2 p3 p4) s = .next (if p0 < 192 ∧ p1 < 192 ∧ p2 < 192 ∧ p3 < 192 ∧ p4 < 192 then (s.setEngine e { x with mode := .normal, recalFail := 0 }).recalibrate (.engine e) measured
     else if 2 ≤ (s.engine e).recalFail then ((((s.setEngine e { x with mode := .failed, recalFail := 3 }).setUnit (.engine e) { s.unit (.engine e) with failed := true }).logFault Flt.BLN_ENGINE_FAIL (blkBLN e.val) 0).scheduleNext (.unitFail (.engine e) false))
     else (s.setEngine e { x with recalFail := (s.engine e).recalFail + 1 }).enterRecal e)))

/-- Where the command that the Stable applies next is one of the ring, with its fields in rule, of a job that may name its stall, and the stall is in a state its opcode lists: RELEASE releases it; COMMIT of up to its speculative tokens in DECODE appends them and the new token, moves seq_len on, ends speculation and drops the tentative pages; SPEC_PUT keeps 1 to 8 tokens; ROLLBACK ends speculation and drops the tentative pages; PARK makes it PARKED at the host's wish; UNPARK takes that wish back, and recalls an EVICTED stall whose pages fit; EVICT of a PARKED stall begins its eviction, whose completion comes later; REBUILD ends a move with BUSY and rebuilds; PUBLISH publishes its full pages. Each but EVICT and a recall then completes OK. -/
def Obligations.StableRingCommands : Prop :=
  -- RELEASE (R186)
  (∀ (ring : Fin 64) (a : CommandArgs) (t : State) (s : State),
    CommandFront s ring 2 a t →
    a.jobOk (t.stall a.stall) = true →
    (t.stall a.stall).st = .admitted ∨ (t.stall a.stall).st = .prefill ∨ (t.stall a.stall).st = .decode ∨ (t.stall a.stall).st = .parked ∨ (t.stall a.stall).st = .evicted ∨ (t.stall a.stall).st = .draining →
    exec (.release ring) s = .next ((t.releaseStall a.stall).completeCommand a.ring a.index csOk a.stall)) ∧
  -- COMMIT of a DECODE stall (R196)
  (∀ (ring : Fin 64) (a : CommandArgs) (t : State) (s : State),
    CommandFront s ring 3 a t →
    a.jobOk (t.stall a.stall) = true →
    (t.stall a.stall).st = .decode →
    (a.w 2).field 3 0 ≤ (t.stall a.stall).specW →
    (t.stall a.stall).histLen + (a.w 2).field 3 0 + 1 ≤ (t.stall a.stall).img.maxLen →
    exec (.commit ring) s = .next ((((t.appendTokens a.stall ((t.stall a.stall).tent.take ((a.w 2).field 3 0) ++ [a.w 3])).modifyStall a.stall fun y => { y with seqLen := y.seqLen + (a.w 2).field 3 0 + 1, specW := 0, st := .decode }).dropTentative a.stall).completeCommand a.ring a.index csOk a.stall)) ∧
  -- SPEC_PUT (R196)
  (∀ (ring : Fin 64) (a : CommandArgs) (ts : List Word) (t u : State) (s : State),
    CommandFront s ring 4 a t →
    1 ≤ (a.w 2).field 3 0 →
    (a.w 2).field 3 0 ≤ 8 →
    t.loadWords a.access (a.addr 3) ((a.w 2).field 3 0) = (some ts, u) →
    a.jobOk (u.stall a.stall) = true →
    (u.stall a.stall).st = .decode →
    (u.stall a.stall).specW = 0 →
    exec (.specPut ring) s = .next ((u.setStall a.stall { u.stall a.stall with specW := (a.w 2).field 3 0, tent := ts ++ (u.stall a.stall).tent.drop ((a.w 2).field 3 0) }).completeCommand a.ring a.index csOk a.stall)) ∧
  -- ROLLBACK (R196)
  (∀ (ring : Fin 64) (a : CommandArgs) (t : State) (s : State),
    CommandFront s ring 5 a t →
    a.jobOk (t.stall a.stall) = true →
    (t.stall a.stall).st = .decode →
    exec (.rollback ring) s = .next (((t.setStall a.stall { t.stall a.stall with specW := 0 }).dropTentative a.stall).completeCommand a.ring a.index csOk a.stall)) ∧
  -- PARK (R205)
  (∀ (ring : Fin 64) (a : CommandArgs) (t : State) (s : State),
    CommandFront s ring 6 a t →
    a.jobOk (t.stall a.stall) = true →
    (t.stall a.stall).st = .decode ∨ (t.stall a.stall).st = .parked →
    exec (.park ring) s = .next ((t.setStall a.stall { t.stall a.stall with hostPark := true, st := .parked, parkedAt := if (t.stall a.stall).st = .decode then t.clk.bnd else (t.stall a.stall).parkedAt }).completeCommand a.ring a.index csOk a.stall)) ∧
  -- UNPARK of a PARKED stall (R205)
  (∀ (ring : Fin 64) (a : CommandArgs) (t : State) (s : State),
    CommandFront s ring 7 a t →
    a.jobOk (t.stall a.stall) = true →
    (t.stall a.stall).st = .parked →
    exec (.unpark ring) s = .next ((t.setStall a.stall { t.stall a.stall with hostPark := false }).completeCommand a.ring a.index csOk a.stall)) ∧
  -- UNPARK of an EVICTED stall (R205)
  (∀ (ring : Fin 64) (a : CommandArgs) (t : State) (s : State),
    CommandFront s ring 7 a t →
    a.jobOk (t.stall a.stall) = true →
    (t.stall a.stall).st = .evicted →
    (t.stall a.stall).move = none →
    (t.setStall a.stall { t.stall a.stall with hostPark := false }).recallFits a.stall = true →
    exec (.unpark ring) s = .next ((t.setStall a.stall { t.stall a.stall with hostPark := false }).beginRecall a.stall (some (a.ring, a.index)))) ∧
  -- EVICT (R211)
  (∀ (ring : Fin 64) (a : CommandArgs) (t : State) (s : State),
    CommandFront s ring 8 a t →
    a.jobOk (t.stall a.stall) = true →
    (t.stall a.stall).st = .parked →
    (t.stall a.stall).move = none →
    (t.extentOf a.stall).2.2 ≠ 0 →
    4096 + ((t.privatePages a.stall).map fun x => 2 ^ (t.poolFor a.stall x.2.2).log2).sum + 128 * (t.privatePages a.stall).length ≤ (t.extentOf a.stall).2.2 →
    exec (.evict ring) s = .next (t.beginEvict a.stall (some (a.ring, a.index))).2) ∧
  -- REBUILD (R214)
  (∀ (ring : Fin 64) (a : CommandArgs) (t : State) (s : State),
    CommandFront s ring 10 a t →
    a.jobOk (t.stall a.stall) = true →
    (t.stall a.stall).st = .prefill ∨ (t.stall a.stall).st = .decode ∨ (t.stall a.stall).st = .parked ∨ (t.stall a.stall).st = .evicted →
    exec (.rebuild ring) s = .next (((t.rebuildStall a.stall false).enterNow a.stall).completeCommand a.ring a.index csOk a.stall)) ∧
  -- PUBLISH (R200)
  (∀ (ring : Fin 64) (a : CommandArgs) (t : State) (s : State),
    CommandFront s ring 13 a t →
    a.jobOk (t.stall a.stall) = true →
    (t.stall a.stall).st = .decode ∨ (t.stall a.stall).st = .parked →
    exec (.publish ring) s = .next ((t.publish a.stall (min ((a.w 2).field 17 0) ((t.stall a.stall).seqLen / 64)) fun _ => true).completeCommand a.ring a.index csOk a.stall))

/-- A TAIL write of a ring by a source with access, of at most the ring's size past HEAD, is kept and makes its commands present at their boundary. ADMIT of a valid image to an EMPTY stall, with a free table frame, takes a frame and admits it; to a DRAINING stall of the job it sets restart_pending and keeps the image. An ADMITTED stall whose lookup is complete goes on to PREFILL, or to DRAINING if released. A drained stall whose last plan is over frees its pages and frames and becomes EMPTY. FORK of a DECODE or PARKED source to an EMPTY target with pages below 65,535 references shares its pages. QUERY stores the 64-word record. SET replaces the fields not marked ADMIT only. At a due plan the Stable in service publishes it. Each ring command completes OK. -/
def Obligations.StableLifeCommands : Prop :=
  -- STB_COMMAND_TAIL_WRITE (R202)
  (∀ (src : Source) (ring : Fin 64) (tail : BitVec 16) (cyc : Nat) (s : State),
    (s.advance cyc).mayWrite src (crReg ring.val Reg.STB_CRn_TAIL) = true →
    (tail - (s.advance cyc).crHead ring.val).toNat ≤ (s.advance cyc).crSize ring.val →
    (let t := s.advance cyc
     let len := (tail - t.crHead ring.val).toNat
     let kept := t.stb.commands.filter fun c => c.ring != ring.val || decide ((c.index - t.crHead ring.val).toNat < len)
     let fresh := ((List.range len).map fun k => t.crHead ring.val + BitVec.ofNat 16 k).filter fun i => !(kept.filter fun c => c.ring == ring.val).any fun c => c.index == i
     let u := t.setReg (crReg ring.val Reg.STB_CRn_TAIL) (BitVec.ofNat 32 tail.toNat)
     exec (.stbCommandTailWrite src ring tail cyc) s = .next { u with stb := { u.stb with commands := kept ++ fresh.map fun i => ⟨ring.val, i, u.dueBoundary⟩ } })) ∧
  -- ADMIT to an EMPTY stall (R185)
  (∀ (ring : Fin 64) (a : CommandArgs) (t : State) (ws : List Word) (u : State) (i : Nat) (s : State),
    CommandFront s ring 1 a t →
    t.readImage a 2 = (some ws, u) →
    u.targetStall a = some i →
    (u.stall i).st = .empty →
    u.freeFrames ≠ [] →
    ∃ (f : Nat) (v : State), f ∈ u.freeFrames ∧ u.allocFrame = (some f, v) ∧
      exec (.admitStall ring) s = .next (((v.setStall i (admittedStall (imageOf ws) a.job f v.clk.stride v.clk.bnd)).bump Reg.STB_CNT_n 1).completeCommand a.ring a.index csOk i)) ∧
  -- ADMIT to a DRAINING stall (R185)
  (∀ (ring : Fin 64) (a : CommandArgs) (t : State) (ws : List Word) (u : State) (i : Nat) (s : State),
    CommandFront s ring 1 a t →
    t.readImage a 2 = (some ws, u) →
    u.targetStall a = some i →
    (u.stall i).st = .draining →
    a.jobOk (u.stall i) = true →
    exec (.admitStall ring) s = .next (((u.setStall i { u.stall i with rp := true, kept := some (imageOf ws, u.clk.stride, a.job, u.clk.bnd) }).bump Reg.STB_CNT_n 1).completeCommand a.ring a.index csOk i)) ∧
  -- PREFIX_LOOKUP_COMPLETE (R199, R184, R185)
  (∀ (i : Fin 16384) (s : State),
    (s.stall i.val).st = .admitted →
    (s.stall i.val).next = none →
    exec (.prefixLookupComplete i) s = .next ((s.prefixLookup i.val (s.stall i.val).img.promptLen).2.modifyStall i.val fun x => { x with next := some (if x.release then .draining else .prefill) })) ∧
  -- STALL_DRAIN_COMPLETE, and the stall is EMPTY at the next boundary (R186, R185)
  (∀ (i : Fin 16384) (s : State),
    (s.stall i.val).st = .draining →
    (s.stall i.val).next = none →
    (s.stall i.val).drainAt.toNat < s.stepValue.toNat →
    (s.stall i.val).kept = none →
    exec (.stallDrainComplete i) s = .next (((s.framesOf (s.stall i.val)).foldl State.freeFrame (s.dropPages i.val fun _ => true)).setStall i.val { Stall.reset with st := .draining, next := some .empty })) ∧
  -- the same of a stall with a kept image, which restarts in a frame of its own (R186, R185)
  (∀ (i : Fin 16384) (img : StallImage) (stride : BitVec 48) (job bnd f : Nat) (u v : State) (s : State),
    (s.stall i.val).st = .draining →
    (s.stall i.val).next = none →
    (s.stall i.val).drainAt.toNat < s.stepValue.toNat →
    (s.stall i.val).kept = some (img, stride, job, bnd) →
    u = (s.framesOf (s.stall i.val)).foldl State.freeFrame (s.dropPages i.val fun _ => true) →
    u.pick (s.framesOf (s.stall i.val)) = (some f, v) →
    exec (.stallDrainComplete i) s = .next ((v.takeFrame f).setStall i.val { admittedStall img job f stride bnd with st := .draining, rp := true, next := some .admitted })) ∧
  -- FORK (R206)
  (∀ (ring : Fin 64) (a : CommandArgs) (t : State) (ws : List Word) (u v : State) (i : Nat) (s : State),
    CommandFront s ring 9 a t →
    t.readImage a 3 = (some ws, u) →
    ((forkImage (imageOf ws) (u.stall ((a.w 2).field 13 0))).layers + 1) * ((forkImage (imageOf ws) (u.stall ((a.w 2).field 13 0))).groups + 1) * (forkImage (imageOf ws) (u.stall ((a.w 2).field 13 0))).chunks ≤ 1024 →
    a.jobOk (u.stall ((a.w 2).field 13 0)) = true →
    u.targetStall a = some i →
    (u.stall i).st = .empty →
    (u.stall ((a.w 2).field 13 0)).st = .decode ∨ (u.stall ((a.w 2).field 13 0)).st = .parked →
    (∀ p ∈ (u.entries (u.stall ((a.w 2).field 13 0))).filterMap (fun e => (residentPage e.2.2).map fun n => (e.1, n)), u.refs p.2 < 65535) →
    u.forkInto a.job (imageOf ws) (u.stall ((a.w 2).field 13 0)) i ((u.entries (u.stall ((a.w 2).field 13 0))).filterMap fun e => (residentPage e.2.2).map fun n => (e.1, n)) = some v →
    exec (.fork ring) s = .next (v.completeCommand a.ring a.index csOk i)) ∧
  -- QUERY (R205)
  (∀ (ring : Fin 64) (a : CommandArgs) (t : State) (u : State) (s : State),
    CommandFront s ring 11 a t →
    a.addr 2 % 64 = 0 →
    a.jobOk (t.stall a.stall) = true →
    t.storeWords a.access (a.addr 2) (t.stall a.stall).words = (.ok, u) →
    exec (.query ring) s = .next ((u).completeCommand a.ring a.index csOk a.stall)) ∧
  -- SET (R205)
  (∀ (ring : Fin 64) (a : CommandArgs) (t : State) (ws : List Word) (u : State) (s : State),
    CommandFront s ring 12 a t →
    t.readImage a 2 = (some ws, u) →
    a.jobOk (u.stall a.stall) = true →
    (u.stall a.stall).st ≠ .empty →
    (let n := imageOf ws
     let x := u.stall a.stall
     let img := { x.img with publish := n.publish, cls := n.cls, pool := n.pool, blinkThresh := n.blinkThresh, pubLimit := n.pubLimit, out := n.out, outLog2 := n.outLog2, outSig := n.outSig, hostCtr := n.hostCtr, user := n.user }
     exec (.set ring) s = .next ((u.setStall a.stall { x with img := img }).completeCommand a.ring a.index csOk a.stall))) ∧
  -- WORK_PLAN_PUBLISH (R207)
  (∀ (s : State),
    s.isOn .stable = true →
    s.stb.planDue = true →
    exec .workPlanPublish s = .next s.publishPlan)

/-- The oldest request of a port, taken with its credit: a LOAD that reads its bytes is answered with them; a STORE, and a FLAG_STORE past its 16-byte prefix, whose bytes are stored is answered OK; a SERVICE packet is handed over. ADD32 leaves (old + A) mod 2^32 and ADD64 (old + A) mod 2^64 at an aligned target, SWAP32 and SWAP64 leave A, CAS32 leaves B where the old value is A and the old value otherwise; each answers the old value. A RESP ends the request that it answers with its status and data. -/
def Obligations.DraughtPortCommands : Prop :=
  -- DRAUGHT_LOAD (R297, R298)
  (∀ (p : Fin 64) (cyc : Nat) (e : Delivered) (t : State) (bs : List Byte) (u : State) (s : State),
    (s.advance cyc).servedAt p = some (e, t) →
    e.packet.kind = 1 →
    t.load (portAccess p e.packet) e.packet.local_ (4 * lenWords e.packet.len) = (bs, .ok, u) →
    exec (.draughtLoad p cyc) s = .next (u.reply p e .ok bs)) ∧
  -- DRAUGHT_STORE (R297)
  (∀ (p : Fin 64) (cyc : Nat) (e : Delivered) (t : State) (u : State) (s : State),
    (s.advance cyc).servedAt p = some (e, t) →
    e.packet.kind = 2 →
    t.store (portAccess p e.packet) e.packet.local_ e.packet.data = (.ok, u) →
    exec (.draughtStore p cyc) s = .next (u.reply p e .ok [])) ∧
  -- DRAUGHT_FLAG_STORE (R365, R348)
  (∀ (p : Fin 64) (cyc : Nat) (e : Delivered) (t : State) (u : State) (s : State),
    (s.advance cyc).servedAt p = some (e, t) →
    e.packet.kind = 3 →
    t.store (portAccess p e.packet) e.packet.local_ (e.packet.data.drop 16) = (.ok, u) →
    exec (.draughtFlagStore p cyc) s = .next (u.reply p e .ok [])) ∧
  -- DRAUGHT_SERVICE (R296)
  (∀ (p : Fin 64) (cyc : Nat) (e : Delivered) (t : State) (s : State),
    (s.advance cyc).servedAt p = some (e, t) →
    e.packet.kind = 7 →
    exec (.draughtService p cyc) s = .next t) ∧
  -- ADD32 at a port (R349)
  (∀ (p : Fin 64) (cyc : Nat) (e : Delivered) (t : State) (old : Nat) (st : Status) (u : State) (s : State),
    (s.advance cyc).servedAt p = some (e, t) →
    e.packet.kind = 4 →
    atomicOp e.packet.data = 1 →
    e.packet.local_ % 4 = 0 →
    t.modify (portAccess p e.packet) e.packet.local_ 4 (fun old => addMod 32 old ((wordsOf e.packet.data).getD 1 0).toNat) = (some old, st, u) →
    exec (.atomicAdd32 (.port p) cyc) s = .next (u.reply p e st (natLe old 4))) ∧
  -- ADD64 at a port (R349)
  (∀ (p : Fin 64) (cyc : Nat) (e : Delivered) (t : State) (old : Nat) (st : Status) (u : State) (s : State),
    (s.advance cyc).servedAt p = some (e, t) →
    e.packet.kind = 4 →
    atomicOp e.packet.data = 2 →
    e.packet.local_ % 8 = 0 →
    t.modify (portAccess p e.packet) e.packet.local_ 8 (fun old => addMod 64 old (pairOf ((wordsOf e.packet.data).getD 1 0) ((wordsOf e.packet.data).getD 2 0))) = (some old, st, u) →
    exec (.atomicAdd64 (.port p) cyc) s = .next (u.reply p e st (natLe old 8))) ∧
  -- SWAP32 at a port (R349)
  (∀ (p : Fin 64) (cyc : Nat) (e : Delivered) (t : State) (old : Nat) (st : Status) (u : State) (s : State),
    (s.advance cyc).servedAt p = some (e, t) →
    e.packet.kind = 4 →
    atomicOp e.packet.data = 3 →
    e.packet.local_ % 4 = 0 →
    t.modify (portAccess p e.packet) e.packet.local_ 4 (fun _ => ((wordsOf e.packet.data).getD 1 0).toNat) = (some old, st, u) →
    exec (.atomicSwap32 (.port p) cyc) s = .next (u.reply p e st (natLe old 4))) ∧
  -- SWAP64 at a port (R349)
  (∀ (p : Fin 64) (cyc : Nat) (e : Delivered) (t : State) (old : Nat) (st : Status) (u : State) (s : State),
    (s.advance cyc).servedAt p = some (e, t) →
    e.packet.kind = 4 →
    atomicOp e.packet.data = 4 →
    e.packet.local_ % 8 = 0 →
    t.modify (portAccess p e.packet) e.packet.local_ 8 (fun _ => pairOf ((wordsOf e.packet.data).getD 1 0) ((wordsOf e.packet.data).getD 2 0)) = (some old, st, u) →
    exec (.atomicSwap64 (.port p) cyc) s = .next (u.reply p e st (natLe old 8))) ∧
  -- CAS32 at a port (R349)
  (∀ (p : Fin 64) (cyc : Nat) (e : Delivered) (t : State) (old : Nat) (st : Status) (u : State) (s : State),
    (s.advance cyc).servedAt p = some (e, t) →
    e.packet.kind = 4 →
    atomicOp e.packet.data = 5 →
    e.packet.local_ % 4 = 0 →
    t.modify (portAccess p e.packet) e.packet.local_ 4 (fun old => if old = ((wordsOf e.packet.data).getD 1 0).toNat then ((wordsOf e.packet.data).getD 2 0).toNat else old) = (some old, st, u) →
    exec (.atomicCas32 (.port p) cyc) s = .next (u.reply p e st (natLe old 4))) ∧
  -- DRAUGHT_RESP (R298)
  (∀ (p : Fin 64) (cyc : Nat) (e : Delivered) (rest : List Delivered) (r : DrgRequest) (s : State),
    (s.advance cyc).drg.resps.getD p.val [] = e :: rest →
    ((s.advance cyc).drg.requests.find? fun r => r.pair == pairKey p e.src && !r.verdict && (match r.seq with | some q => q % 2 ^ 20 == e.packet.reqSeq % 2 ^ 20 | none => false)) = some r →
    (let t := s.advance cyc
     exec (.draughtResp p cyc) s = .next (({ t with drg := { t.drg with resps := t.drg.resps.put p.val rest } }).endDraught r (statusOf e.packet.status) e.packet.data none)))

/-- A packet of the expected number on a granted receive slot that carries and is lit, from the port granted, is delivered, after it those held ahead of a gap, and acknowledged. A gap 128 stride cycles old sends a negative acknowledgement and waits again. A packet 2 strides past its last transmission is marked for replay. A request 8 us past its issue is withdrawn: from the queue if it was not yet sent. IDLE and ACK drop the packets acknowledged; NAK also marks those from the missing number for replay; SLOT_LOST also darkens the slot; CREDIT also returns credits. -/
def Obligations.DraughtLinkCommands : Prop :=
  -- DRAUGHT_PACKET_RECEIVE (R262, R255, R256, R295, R296)
  (∀ (x : SlotId) (flit : List Byte) (cyc : Nat) (g : Grant) (low : Nat) (k : Packet) (s : State),
    x.rx = true →
    (s.advance cyc).grantOf x = some g →
    g.probe = false →
    ((s.advance cyc).slot x).discard = false →
    ((s.advance cyc).slot x).dark = false →
    (s.advance cyc).carries x = true →
    readFlit flit = some (g.src, low, k) →
    k.kind ≠ 6 →
    rebuildSeq ((s.advance cyc).pair (pairKey g.src x.port)).expect low = ((s.advance cyc).pair (pairKey g.src x.port)).expect →
    (let t := s.advance cyc
     let v := t.pair (pairKey g.src x.port)
     let u := t.setPair (pairKey g.src x.port) { v with expect := (v.expect + 1) % 2 ^ 24, gapAt := none }
     exec (.draughtPacketReceive x flit cyc) s = .next (((u.deliver g.src x.port v.expect k).drainReorder g.src x.port (v.reorder.length + 1)).sendAck g.src x.port))) ∧
  -- DRAUGHT_GAP_NAK (R262)
  (∀ (src dst : Fin 64) (cyc g : Nat) (s : State),
    ((s.advance cyc).pair (pairKey src dst)).gapAt = some g →
    g + 128 ≤ (s.advance cyc).now →
    (let t := s.advance cyc
     let v := t.pair (pairKey src dst)
     exec (.draughtGapNak src dst cyc) s = .next ((t.setPair (pairKey src dst) { v with gapAt := some t.now }).sendNak src dst))) ∧
  -- DRAUGHT_REPLAY_TIMEOUT (R263, R43)
  (∀ (src dst : Fin 64) (seq : BitVec 24) (cyc : Nat) (u : Sent) (s : State),
    (((s.advance cyc).pair (pairKey src dst)).unacked.find? fun u => u.seq == seq.toNat) = some u →
    u.last + 2 ≤ (s.advance cyc).clk.bnd →
    u.again = false →
    (let t := s.advance cyc
     let k := pairKey src dst
     let v := t.pair k
     exec (.draughtReplayTimeout src dst seq cyc) s = .next ((t.setPair k { v with unacked := v.unacked.map fun x => if x.seq = u.seq then { x with again := true } else x }).pumpPair src dst))) ∧
  -- DRAUGHT_REQUEST_TIMEOUT (R264)
  (∀ (id cyc : Nat) (r : DrgRequest) (s : State),
    ((s.advance cyc).drg.requests.find? fun r => r.id == id) = some r →
    r.remote = false →
    r.verdict = false →
    r.issued + 8000 ≤ (s.advance cyc).now →
    (let u := s.advance cyc
     let t : State := { u with drg := { u.drg with requests := u.drg.requests.map fun (q : DrgRequest) => if q.id = id then { q with verdict := true } else q } }
     let v := t.pair r.pair
     exec (.draughtRequestTimeout id cyc) s = .next (match r.seq with | none => t.setPair r.pair { v with queue := v.queue.erase r.packet } | some q => if (((t.dropDelivered r.pair q).pair r.pair).unacked.any fun u => u.seq == q) then (t.dropDelivered r.pair q).resyncPast r.pair q else t.dropDelivered r.pair q))) ∧
  -- LINK_IDLE and LINK_ACK (R299)
  (∀ (src dst : Fin 64) (ack : BitVec 20) (s : State),
    (let k := pairKey src dst
     let v := s.pair k
     let ack24 := rebuildSeq (match v.unacked with | u :: _ => u.seq | [] => v.next) ack.toNat
     let t := (s.setPair k { v with unacked := v.unacked.filter fun u => !(seqAhead u.seq ack24) }).pumpPair src dst
     exec (.linkIdle src dst ack) s = .next t ∧ exec (.linkAck src dst ack) s = .next t)) ∧
  -- LINK_NAK (R299)
  (∀ (src dst : Fin 64) (ack missing : BitVec 20) (s : State),
    (let k := pairKey src dst
     let v := s.pair k
     let ack24 := rebuildSeq (match v.unacked with | u :: _ => u.seq | [] => v.next) ack.toNat
     let t := (s.setPair k { v with unacked := v.unacked.filter fun u => !(seqAhead u.seq ack24) }).pumpPair src dst
     exec (.linkNak src dst ack missing) s = .next (t.takeNak src dst missing.toNat))) ∧
  -- LINK_SLOT_LOST (R256)
  (∀ (src dst : Fin 64) (ack : BitVec 20) (plane : Fin 16) (tx rx : Fin 8) (s : State),
    (let k := pairKey src dst
     let v := s.pair k
     let ack24 := rebuildSeq (match v.unacked with | u :: _ => u.seq | [] => v.next) ack.toNat
     let t := (s.setPair k { v with unacked := v.unacked.filter fun u => !(seqAhead u.seq ack24) }).pumpPair src dst
     exec (.linkSlotLost src dst ack plane tx rx) s = .next (t.takeSlotLost ⟨src, plane, false, tx⟩))) ∧
  -- LINK_CREDIT (R301)
  (∀ (src dst : Fin 64) (ack credits : BitVec 20) (s : State),
    (let k := pairKey src dst
     let v := s.pair k
     let ack24 := rebuildSeq (match v.unacked with | u :: _ => u.seq | [] => v.next) ack.toNat
     let t := (s.setPair k { v with unacked := v.unacked.filter fun u => !(seqAhead u.seq ack24) }).pumpPair src dst
     exec (.linkCredit src dst ack credits) s = .next (t.takeCredit src dst credits.toNat)))

/-- When every write of an eviction has been answered and none failed, each page listed is marked evicted at its ordinal in the extent and its reference given up, the stall enters EVICTED at the next boundary, STB_CNT_4 counts it, and the command completes OK; an eviction of which a write failed logs STB_EVICT_FAIL and completes NO_SPACE, the stall as it was. When the extent of a recall has been read, its reads answered and well, and the pool has the pages above its reserve, every page of the extent and its sketch are stored in pages of the pool, the stall enters PARKED at the next boundary, STB_CNT_5 counts it, and the command completes OK; without the pages it completes NO_SPACE; of an extent that is not whole the stall is rebuilt from its history. -/
def Obligations.StallMoveCommands : Prop :=
  -- STALL_EVICTION_COMPLETE (R211)
  (∀ (i : Fin 16384) (m : StallMove) (s : State),
    (s.stall i.val).move = some m →
    m.isRecall = false →
    m.left = 0 →
    m.bad = false →
    (let t := m.pages.zipIdx.foldl (fun (s : State) ((a, p), k) =>
     ((s.setTableWord a (BitVec.ofNat 32 (3 * 2 ^ 30 + k))).dropRef p).modifyStall i.val fun x => { x with held := x.held - 1 }) s
     exec (.stallEvictionComplete i true) s = .next (((t.modifyStall i.val fun x => { x with next := some .evicted }).bump (Reg.STB_CNT_n + 16) 1).endMove i.val csOk))) ∧
  -- its failure (R211)
  (∀ (i : Fin 16384) (m : StallMove) (ok : Bool) (s : State),
    (s.stall i.val).move = some m →
    m.isRecall = false →
    m.left = 0 →
    ok = false ∨ m.bad = true →
    exec (.stallEvictionComplete i ok) s = .next ((s.raiseTo Flt.STB_EVICT_FAIL blkSTB (s.stall i.val).job i.val).endMove i.val csNoSpace)) ∧
  -- STALL_RECALL_COMPLETE (R213, R214)
  (∀ (i : Fin 16384) (extent : List Byte) (m : StallMove) (t u : State) (s : State),
    (s.stall i.val).move = some m →
    m.isRecall = true →
    m.left = 0 →
    m.bad = false →
    t = s.endHostRead i.val →
    t.recallFits i.val = true →
    t.restorePages i.val extent (t.evictedEntries i.val).length (t.evictedEntries i.val) = some u →
    exec (.stallRecallComplete i true extent) s = .next (((u.modifyStall i.val fun x => { x with next := some .parked }).bump (Reg.STB_CNT_n + 20) 1).endMove i.val csOk)) ∧
  -- a recall without free pages (R213, R214)
  (∀ (i : Fin 16384) (ok : Bool) (extent : List Byte) (m : StallMove) (s : State),
    (s.stall i.val).move = some m →
    m.isRecall = true →
    m.left = 0 →
    (s.endHostRead i.val).recallFits i.val = false →
    exec (.stallRecallComplete i ok extent) s = .next ((s.endHostRead i.val).endMove i.val csNoSpace)) ∧
  -- a recall whose extent is not whole (R213, R214)
  (∀ (i : Fin 16384) (ok : Bool) (extent : List Byte) (m : StallMove) (s : State),
    (s.stall i.val).move = some m →
    m.isRecall = true →
    m.left = 0 →
    (s.endHostRead i.val).recallFits i.val = true →
    ok = false ∨ m.bad = true →
    exec (.stallRecallComplete i ok extent) s = .next (((s.endHostRead i.val).endMove i.val csOk).rebuildStall i.val false))

/-- The lock loop of a ring in lock writes the heater code of its control law, which the manual does not give (a free value), and enters LOCKED at a detuning of at most 3 GHz, DRIFT at one of at most 8 GHz, which DRG_CNT_7 counts, and above 8 GHz notes one update or, at a second, loses lock. A serving ring not relocked at its boundary has its slot quarantined; a standby ring is left. A ring acquired is LOCKED on its target at its code. A full sweep that finds the channel locks on it; one that does not parks the ring, to be swept again, and after the third fails it. A line beacon as granted counts for both slots of its line; any other makes a WRONG_LINE or DARK event. The allocator's cycle, 384 cycles before the stride's end, leaves the grants of the next stride and counts the pairs left without one. -/
def Obligations.RingLockCommands : Prop :=
  -- LOCK_LOOP_UPDATE (R248, R249)
  (∀ (r : RingId) (detune : Int) (cyc : Nat) (s : State),
    (s.advance cyc).lockOf r = .locked ∨ (s.advance cyc).lockOf r = .drift →
    detune.natAbs ≤ 12 →
    (let t := s.advance cyc
     let code := BitVec.ofNat 16 t.takeFree.1
     exec (.lockLoopUpdate r detune cyc) s = .next (t.takeFree.2.setRing r { t.takeFree.2.ring r with heater := some code, detune := detune, lock := .locked, high := 0, lastGood := code }))) ∧
  -- its entry to DRIFT (R248, R249)
  (∀ (r : RingId) (detune : Int) (cyc : Nat) (s : State),
    (s.advance cyc).lockOf r = .locked →
    12 < detune.natAbs →
    detune.natAbs ≤ 32 →
    (let t := s.advance cyc
     let code := BitVec.ofNat 16 t.takeFree.1
     exec (.lockLoopUpdate r detune cyc) s = .next ((t.takeFree.2.bump (portReg r.slot.port (Reg.DRG_CNT_n + 28)) 1).setRing r { t.takeFree.2.ring r with heater := some code, detune := detune, lock := .drift, high := 0, lastGood := code }))) ∧
  -- an update above 8 GHz, and the loss of lock at the second (R248, R249)
  (∀ (r : RingId) (detune : Int) (cyc : Nat) (s : State),
    (s.advance cyc).lockOf r = .locked ∨ (s.advance cyc).lockOf r = .drift →
    32 < detune.natAbs →
    (let t := s.advance cyc
     let v := { t.takeFree.2.ring r with heater := some (BitVec.ofNat 16 t.takeFree.1), detune := detune }
     exec (.lockLoopUpdate r detune cyc) s = .next (if v.high = 0 then t.takeFree.2.setRing r { v with high := 1 } else (t.takeFree.2.setRing r v).loseLock r))) ∧
  -- LOCK_REACQUIRE_TIMEOUT (R249)
  (∀ (r : RingId) (b : Nat) (s : State),
    (s.ring r).reacquireBy = some b →
    b ≤ s.clk.bnd →
    (s.ring r).lock ≠ .locked →
    r = (s.setRing r { s.ring r with reacquireBy := none }).servingRing r.slot →
    (let t := s.setRing r { s.ring r with reacquireBy := none }
     exec (.lockReacquireTimeout r) s = .next (t.quarantine r.slot (t.slot r.slot).mate (s.ring r).target))) ∧
  -- RING_ACQUIRED (R251)
  (∀ (r : RingId) (n : Fin 64) (s : State),
    (s.ring r).lock = .acquiring →
    (s.ring r).target = some n →
    exec (.ringAcquired r) s = .next (s.setRing r { s.ring r with lock := .locked, channel := some n, target := none, reacquireBy := none, high := 0, lastGood := (s.ring r).heater.getD (s.heaterCode r n.val) })) ∧
  -- RING_SWEEP_COMPLETE (R252, R258)
  (∀ (r : RingId) (n : Fin 64) (s : State),
    (s.ring r).lock = .sweeping →
    (s.ring r).target = some n →
    (let t := s.setSlot r.slot { s.slot r.slot with sweeps := min ((s.slot r.slot).sweeps + 1) 31 }
     exec (.ringSweepComplete r true) s = .next (t.setRing r { s.ring r with sweepsNow := (s.ring r).sweepsNow + 1, lock := .locked, channel := some n, target := none, high := 0, heater := some (t.heaterCode r n.val), lastGood := t.heaterCode r n.val }))) ∧
  -- a sweep that does not find its channel (R252, R258)
  (∀ (r : RingId) (s : State),
    (s.ring r).lock = .sweeping →
    (let t := s.setSlot r.slot { s.slot r.slot with sweeps := min ((s.slot r.slot).sweeps + 1) 31 }
     let v := { s.ring r with sweepsNow := (s.ring r).sweepsNow + 1, sweepFails := (s.ring r).sweepFails + 1 }
     exec (.ringSweepComplete r false) s = .next (if 3 ≤ v.sweepFails then (t.setRing r v).failRing r else t.setRing r { v with lock := .parked, channel := none, sweepDue := true }))) ∧
  -- LINE_BEACON_CHECK (R255, R256, R246)
  (∀ (x : SlotId) (copies : List (List Word)) (g : Grant) (t : State) (s : State),
    t = s.advance 32 →
    x.rx = true →
    t.grantOf x = some g →
    (t.slot x).discard = false →
    (t.slot x).dark = false →
    acceptBeacon copies = some (g.beacon t.clk.stride) →
    exec (.lineBeaconCheck x copies) s = .next ((t.goodBeacon g.rxSlot).goodBeacon g.txSlot)) ∧
  -- a beacon that is missing or another line's (R255, R256, R246)
  (∀ (x : SlotId) (copies : List (List Word)) (g : Grant) (t : State) (s : State),
    t = s.advance 32 →
    x.rx = true →
    t.grantOf x = some g →
    (t.slot x).discard = false →
    (t.slot x).dark = false →
    acceptBeacon copies ≠ some (g.beacon t.clk.stride) →
    exec (.lineBeaconCheck x copies) s = .next (t.lineEvent g (acceptBeacon copies).isSome)) ∧
  -- ALLOCATOR_CYCLE (R259)
  (∀ (t : State) (s : State),
    t = s.advance (s.clk.len - 384) →
    t.isOn .allocator = true →
    (let gs := t.computeGrants
     let starved := (t.drg.pairs.filter fun e => e.2.demand != 0 && !gs.grants.any fun g => g.src.val * 64 + g.dst.val == e.1 && !g.probe).length
     let u := if starved = 0 then t else t.bump (Reg.HRN_CNT_n + 28) starved
     exec .allocatorCycle s = .next { u with drg := { u.drg with computed := some gs } }))

/-- A tap sample sets both monitors of the quadrant, records the nominal of a plane not yet seen with its source, and enters the average of the last 1,024 samples; a sample of -6.0 dB or less of a plane neither switching nor waiting is a loss of the source; any other is judged for the plane's path and the cartridge's fade. A planned swap starts, or is refused while one is under way. A switch settled on the commanded source whose tap confirms returns its plane; one that settles elsewhere logs LAS_FEED_FAIL and is commanded back. A gap that has run moves the next plane. A cartridge lost, removed (logged, its role falling to the other), inserted (with its serial, OFF) or disabled does as the manual says. A spare that becomes fit takes the planes that wait for it. A group whose sensor has moved 0.25 °C since its values were computed is computed again. -/
def Obligations.LaserCommands : Prop :=
  -- TAP_SAMPLE (R274, R277, R281)
  (∀ (p : Fin 16) (reading even odd sample : Int) (k : Fin 8) (u v w : State) (s : State),
    k = cartOf (quadOfPlane p) (s.feed p).src →
    (s.unit (.cartridge k)).st = .on →
    (s.feed p).moving = none →
    u = ((((s.setCart (cartOf (quadOfPlane p) false) { s.cart (cartOf (quadOfPlane p) false) with monitor := even }).setCart (cartOf (quadOfPlane p) true)
 { (s.setCart (cartOf (quadOfPlane p) false) { s.cart (cartOf (quadOfPlane p) false) with monitor := even }).cart (cartOf (quadOfPlane p) true) with monitor := odd }))) →
    v = u.recordNominal k p reading →
    sample = v.tapSample k p reading →
    -120 < sample →
    w = (v.setFeed p { v.feed p with samples := (sample :: (v.feed p).samples).take 1024, average := fadeAverage ((sample :: (v.feed p).samples).take 1024) }).judgeSpare ((v.feed p).otherCart (quadOfPlane p)) →
    (((w.judgePath p k).judgeFade k).quad (quadOfPlane p)).swap = .idle →
    exec (.tapSample p reading even odd) s = .next ((w.judgePath p k).judgeFade k)) ∧
  -- a tap without light (R274, R277, R281)
  (∀ (p : Fin 16) (reading even odd sample : Int) (k : Fin 8) (u v w : State) (s : State),
    k = cartOf (quadOfPlane p) (s.feed p).src →
    (s.unit (.cartridge k)).st = .on →
    (s.feed p).moving = none →
    (s.feed p).waits = false →
    u = ((((s.setCart (cartOf (quadOfPlane p) false) { s.cart (cartOf (quadOfPlane p) false) with monitor := even }).setCart (cartOf (quadOfPlane p) true)
 { (s.setCart (cartOf (quadOfPlane p) false) { s.cart (cartOf (quadOfPlane p) false) with monitor := even }).cart (cartOf (quadOfPlane p) true) with monitor := odd }))) →
    v = u.recordNominal k p reading →
    sample = v.tapSample k p reading →
    sample ≤ -120 →
    w = (v.setFeed p { v.feed p with samples := (sample :: (v.feed p).samples).take 1024, average := fadeAverage ((sample :: (v.feed p).samples).take 1024) }).judgeSpare ((v.feed p).otherCart (quadOfPlane p)) →
    exec (.tapSample p reading even odd) s = .next (w.suddenLoss k)) ∧
  -- PLANNED_SWAP (R278)
  (∀ (src : Source) (q : Fin 4) (b : Bool) (s : State),
    s.mayWrite src (Reg.LAS_QUADq_CTL + 16 * q.val) = true →
    (s.quad q).swap = .idle →
    ([false, true].find? fun b => s.cartRole (cartOf q b) == 1) = some b →
    exec (.plannedSwap src q) s = .next (s.wantSwap (cartOf q b) false)) ∧
  -- its refusal while a swap is under way (R278)
  (∀ (src : Source) (q : Fin 4) (s : State),
    s.mayWrite src (Reg.LAS_QUADq_CTL + 16 * q.val) = true →
    (s.quad q).swap ≠ .idle →
    exec (.plannedSwap src q) s = .next (s.setQuad q { s.quad q with refused := true })) ∧
  -- FEED_SWITCH_SETTLED (R278, R281, R284)
  (∀ (p : Fin 16) (t : Bool) (reading predicted : Int) (cyc : Nat) (s : State),
    ((s.advance cyc).feed p).moving = some t →
    ((s.advance cyc).feed p).backed = false →
    (s.advance cyc).tapConfirms (cartOf (quadOfPlane p) t) p reading predicted = true →
    exec (.feedSwitchSettled p (some t) (reading, predicted) cyc) s = .next (((((s.advance cyc).settleFeed p t).recordNominal (cartOf (quadOfPlane p) t) p reading).returnPlane p))) ∧
  -- a switch that fails (R278, R281, R284)
  (∀ (p : Fin 16) (t : Bool) (source : Option Bool) (reading predicted : Int) (cyc : Nat) (s : State),
    ((s.advance cyc).feed p).moving = some t →
    ((s.advance cyc).feed p).backed = false →
    source ≠ some t →
    p ∉ (s.advance cyc).underWay (quadOfPlane p) →
    (let u := (s.advance cyc).logLas Flt.LAS_FEED_FAIL p.val
     exec (.feedSwitchSettled p source (reading, predicted) cyc) s = .next (u.setFeed p { u.feed p with moving := some (!t), backed := true }))) ∧
  -- SWAP_GAP_EXPIRY (R278)
  (∀ (q : Fin 4) (b : Nat) (s : State),
    (s.quad q).gapEnd = some b →
    b ≤ s.clk.bnd + 1 →
    exec (.swapGapExpiry q) s = .next (s.nextPlane q)) ∧
  -- CARTRIDGE_SUDDEN_LOSS (R284, R277)
  (∀ (k : Fin 8) (s : State),
    (s.unit (.cartridge k)).st = .on →
    exec (.cartridgeSuddenLoss k) s = .next (s.suddenLoss k)) ∧
  -- CARTRIDGE_REMOVED (R286)
  (∀ (k : Fin 8) (u : State) (s : State),
    (s.cart k).present = true →
    (s.cartRole k = 1 ∧ u = (s.logLas Flt.LAS_CART_PULLED k.val).suddenLoss k) ∨ (s.cartRole k = 2 ∧ ((s.logLas Flt.LAS_CART_PULLED k.val).quad (quadOfCart k)).swap = .idle ∧ u = (s.logLas Flt.LAS_CART_PULLED k.val).logLas Flt.LAS_NO_SPARE k.val) ∨ (s.cartRole k = 0 ∧ u = s.logLas Flt.LAS_CART_PULLED k.val) →
    exec (.cartridgeRemoved k) s = .next ((u.setCart k { u.cart k with present := false, serial := 0, warming := false }).setUnit (.cartridge k)
      { (u.setCart k { u.cart k with present := false, serial := 0, warming := false }).unit (.cartridge k) with st := .off, rp := false, done := false, disable := false, cancel := false })) ∧
  -- CARTRIDGE_INSERTED (R287)
  (∀ (k : Fin 8) (serial : Word) (s : State),
    (s.cart k).present = false →
    (let u := s.setCart k { Cartridge.reset with serial := serial }
     exec (.cartridgeInserted k serial) s = .next (u.setUnit (.cartridge k) { u.unit (.cartridge k) with st := .off, failed := false, rp := false, done := false }))) ∧
  -- CARTRIDGE_DISABLE (R288)
  (∀ (src : Source) (k : Fin 8) (force : Bool) (cyc : Nat) (s : State),
    (s.advance cyc).mayWrite src (Reg.LAS_CARTk_CTL + 16 * k.val) = true →
    ((s.advance cyc).unit (.cartridge k)).enable = true →
    (let t := (s.advance cyc).setReg (Reg.LAS_CARTk_CTL + 16 * k.val) (BitVec.ofNat 32 (2 * bitOf force) &&& 2)
     exec (.cartridgeDisable src k force cyc) s = .next (t.cartDisable k force))) ∧
  -- SPARE_BECOMES_FIT (R285, R272, R273)
  (∀ (k : Fin 8) (monitor : Int) (u : State) (s : State),
    (s.unit (.cartridge k)).st = .on →
    (s.cart k).warming = true →
    u = s.setCart k { s.cart k with cond := 0, warming := false, monitor := monitor } →
    u.fit k = true →
    exec (.spareBecomesFit k monitor) s = .next ((quadPlanes (quadOfCart k)).foldl (fun (t : State) p => if (t.feed p).waits then t.command p (cartOdd k) else t) u)) ∧
  -- CALIBRATION_REEVALUATE (R293)
  (∀ (g : CalGroup) (cyc : Nat) (s : State),
    (s.advance cyc).regF Reg.CAL_CTL 0 0 ≠ 0 →
    4 ≤ ((s.advance cyc).calTemp g - (s.advance cyc).calAt g).natAbs →
    exec (.calibrationReevaluate g cyc) s = .next ((s.advance cyc).reevaluateGroup g ((s.advance cyc).calTemp g)))

/-- A packet that arrives whole is timed into REIN_STAT. A well-formed READ reads its 1 to 16 words from the register window or a core's scratch, and a WRITE or MSG writes its payload there; the request then waits for its response with that answer. A malformed one counts in REIN_CNT_2 and has no answer. A request behind one of another class to the same destination waits unsent. RDATA and WACK, of their kind and channel, complete the oldest request of their node, agent and tag that has an answer and is not 2 us old, which is handed to the source; what waited for it may go. Any other response is discarded and counts in REIN_CNT_2. A BCAST writes its payload at its scratch offset in every core of the Reckoners named that accepts broadcasts. A request 2 us old is given up: REIN_CNT_1 counts it, REIN_TIMEOUT is raised to its job, and its source gets the time-out with poison words for a READ. -/
def Obligations.ReinCommands : Prop :=
  -- REIN_READ (R305, R308, R309)
  (∀ (p : ReinPacket) (cyc : Nat) (t : State) (s : State),
    reinBlocked (s.advance cyc).rein p = false →
    t = (s.advance cyc).reinArrival p →
    p.bad = false →
    reinFormed [1] p = true →
    exec (.reinRead p cyc) s = .next ((t.reinDoRead p).2.reinSent p true (some (t.reinDoRead p).1))) ∧
  -- REIN_WRITE (R305, R308, R309, R332)
  (∀ (p : ReinPacket) (cyc : Nat) (t : State) (s : State),
    reinBlocked (s.advance cyc).rein p = false →
    t = (s.advance cyc).reinArrival p →
    p.bad = false →
    reinFormed [2, 6] p = true →
    exec (.reinWrite p cyc) s = .next ((t.reinDoWrite p).2.reinSent p false (some ((t.reinDoWrite p).1, [])))) ∧
  -- a malformed request (R305, R308, R309, R332)
  (∀ (p : ReinPacket) (cyc : Nat) (t : State) (s : State),
    reinBlocked (s.advance cyc).rein p = false →
    t = (s.advance cyc).reinArrival p →
    p.bad = false →
    reinFormed [1] p = false →
    reinFormed [2, 6] p = false →
    exec (.reinRead p cyc) s = .next ((t.bump (Reg.REIN_CNT_n + 8) 1).reinSent p true none) ∧
      exec (.reinWrite p cyc) s = .next ((t.bump (Reg.REIN_CNT_n + 8) 1).reinSent p false none)) ∧
  -- a request behind one of another class (R305, R308, R309, R332)
  (∀ (p : ReinPacket) (cyc : Nat) (t : State) (s : State),
    t = s.advance cyc →
    reinBlocked t.rein p = true →
    exec (.reinRead p cyc) s = .next { t with rein := t.rein ++ [t.reinRequest p true none (some p)] } ∧
      exec (.reinWrite p cyc) s = .next { t with rein := t.rein ++ [t.reinRequest p false none (some p)] }) ∧
  -- REIN_RDATA and REIN_WACK (R305)
  (∀ (read : Bool) (node : Fin 64) (agent tag : BitVec 8) (d : ReinDelivery) (cyc : Nat) (t : State) (r : ReinRequest) (st : ReinStatus) (ws : List Word) (s : State),
    t = (s.advance cyc).reinFlits d.corrected d.bad d.latency →
    d.bad = false →
    d.w0.field 31 28 = (if read then 3 else 4) →
    d.w0.field 25 25 = 1 →
    (t.rein.find? fun r => r.is node agent tag && r.read == read && r.answer.isSome && decide (t.now ≤ r.sent + 2000)) = some r →
    r.answer = some (st, ws) →
    exec (if read then .reinRdata node agent tag d cyc else .reinWack node agent tag d cyc) s =
      .next ((t.reinDone r).emit (.reinDone node agent tag st ws))) ∧
  -- a response of another kind or channel (R305)
  (∀ (read : Bool) (node : Fin 64) (agent tag : BitVec 8) (d : ReinDelivery) (cyc : Nat) (t : State) (s : State),
    t = (s.advance cyc).reinFlits d.corrected d.bad d.latency →
    d.w0.field 31 28 ≠ (if read then 3 else 4) ∨ d.w0.field 25 25 ≠ 1 →
    exec (if read then .reinRdata node agent tag d cyc else .reinWack node agent tag d cyc) s =
      .next (if d.bad then t else t.bump (Reg.REIN_CNT_n + 8) 1)) ∧
  -- REIN_BCAST (R310)
  (∀ (p : ReinPacket) (dropped : List CoreId) (cyc : Nat) (t : State) (s : State),
    t = (s.advance cyc).reinArrival p →
    p.bad = false →
    reinFormed [5] p = true →
    exec (.reinBcast p dropped cyc) s = .next ((((allFin 8).filter fun r => (p.w3.field 31 24).testBit r.val).flatMap dieCores).foldl
      (fun (u : State) c => u.bcastCopy (p.w2.field 18 0 * 4) (bytesOf (p.payload.take (4 * p.w0.field 24 22))) dropped c) t)) ∧
  -- REIN_TIMEOUT (R309)
  (∀ (node : Fin 64) (agent tag : BitVec 8) (cyc : Nat) (r : ReinRequest) (s : State),
    ((s.advance cyc).rein.find? fun r => r.is node agent tag && r.held.isNone && decide (r.sent + 2000 ≤ (s.advance cyc).now)) = some r →
    r.watch = none →
    exec (.reinTimeout node agent tag cyc) s = .next (((((s.advance cyc).reinDone r).bump (Reg.REIN_CNT_n + 4) 1).raiseTo Flt.REIN_TIMEOUT blkREIN r.job (r.addr % 2 ^ 32)).emit
      (.reinDone node agent tag .timeout (if r.read then List.replicate r.words poisonWord else []))))

/-- The oldest signal frame in flight, at its cycle of this stride delivered to a hub with room and read without loss, is merged with the frames of its slot and counter that keep the sum within 16 bits, HCH_CNT_2 counting those merged and HCH_CNT_3 a corrected read, and the sum is applied; one of a later stride, or beyond its hub's limit, waits. At a hub without room the NAK, 48 cycles after its slot, has it and those merged with it sent again. A frame that cannot be read is lost as the manual says. The oldest RELEASE frame answers its queue's watch and a SNAP frame latches the snapshot, each at its cycle. A watch that a WAIT or BRANCH has asked for and that is registered of a counter that is not LIVE is answered ORPHAN and logged, of another job's refused, of a condition that holds answered so at once; a query of one that does not hold is answered so, and any other watch is kept; the asker gets its WACK. A watch withdrawn is no longer kept, and a RELEASE on its way for it is discarded. -/
def Obligations.HitchCommands : Prop :=
  -- HITCH_SIGNAL_FRAME (R327, R312, R315)
  (∀ (err : FrameError) (f : Frame) (rest : List Frame) (v t : State) (s : State),
    s.hitch.flight = f :: rest →
    err = .none ∨ err = .corrected →
    f.land < s.strideEnd →
    v = s.advanceTo f.land →
    v.hubFull f = false →
    t = ({ v with hitch := { v.hitch with flight := (combine f.slot f.ctr f.amount true rest).2.2 } }).noteCorrected err →
    (let parts := (combine f.slot f.ctr f.amount true rest).2.1
     let u := if parts = [] then t else t.bump (Reg.HCH_CNT_n + 8) parts.length
     exec (.hitchSignalFrame (.signal err)) s = .next ((u.countDelivery f).applyParts f.ctr (f :: parts)).flushAnswers)) ∧
  -- a frame of a later stride, or beyond its hub's limit (R327, R312, R315)
  (∀ (err : FrameError) (f : Frame) (rest : List Frame) (s : State),
    s.hitch.flight = f :: rest →
    err = .none ∨ err = .corrected →
    (s.strideEnd ≤ f.land → exec (.hitchSignalFrame (.signal err)) s = .next s.flushAnswers) ∧
      (f.land < s.strideEnd → (s.advanceTo f.land).hubFull f = true → exec (.hitchSignalFrame (.signal err)) s = .next (s.advanceTo f.land).flushAnswers)) ∧
  -- a frame lost (R327, R312, R315)
  (∀ (hub : Word) (rkn : Option (Fin 8)) (f : Frame) (rest : List Frame) (v s : State),
    s.hitch.flight = f :: rest →
    f.land < s.strideEnd →
    v = s.advanceTo f.land →
    exec (.hitchSignalFrame (.signal (.lost hub rkn))) s = .next (({ v with hitch := { v.hitch with flight := lostWith hub f rest } }).loseFrame f.ctr hub rkn).flushAnswers) ∧
  -- HITCH_NAK (R312, R328)
  (∀ (f : Frame) (rest : List Frame) (v s : State),
    s.hitch.flight = f :: rest →
    f.slot + 48 < s.strideEnd →
    s.hubFull f = true →
    v = s.advanceTo (f.slot + 48) →
    exec .hitchNak s = .next ((f :: (combine f.slot f.ctr f.amount true rest).2.1).foldl (fun (u : State) g => u.relaunch g) { v with hitch := { v.hitch with flight := (combine f.slot f.ctr f.amount true rest).2.2 } }).flushAnswers) ∧
  -- a NAK read with an error or without (R327, R312, R315)
  (∀ (err : FrameError) (f : Frame) (rest : List Frame) (v s : State),
    s.hitch.flight = f :: rest →
    err = .none ∨ err = .corrected →
    f.slot + 48 < s.strideEnd →
    s.hubFull f = true →
    v = s.advanceTo (f.slot + 48) →
    (let t := ({ v with hitch := { v.hitch with flight := (combine f.slot f.ctr f.amount true rest).2.2 } }).noteCorrected err
     exec (.hitchSignalFrame (.nak err)) s = .next ((f :: (combine f.slot f.ctr f.amount true rest).2.1).foldl (fun (u : State) g => u.relaunch g) t).flushAnswers)) ∧
  -- a NAK lost (R327, R312, R315)
  (∀ (hub : Word) (rkn : Option (Fin 8)) (f : Frame) (rest : List Frame) (v s : State),
    s.hitch.flight = f :: rest →
    f.slot + 48 < s.strideEnd →
    s.hubFull f = true →
    v = s.advanceTo (f.slot + 48) →
    exec (.hitchSignalFrame (.nak (.lost hub rkn))) s = .next (((combine f.slot f.ctr f.amount true rest).2.1.foldl (fun (u : State) g => u.relaunch g) { v with hitch := { v.hitch with flight := (combine f.slot f.ctr f.amount true rest).2.2 } }).loseFrame f.ctr hub rkn).flushAnswers) ∧
  -- HITCH_SNAP (R314)
  (∀ (source slot : Nat) (v t u : State) (s : State),
    s.snap.frame = some (source, slot) →
    slot + 48 < s.strideEnd →
    v = s.advanceTo (slot + 48) →
    v.snap.held = false →
    t = ({ v with snap := { v.snap with frame := none } } : State) →
    u = t.latch t source true false →
    exec .hitchSnap s = .next (if u.snap.bndPend.isSome then ({ u with snap := { u.snap with bndPend := none } }).missTrigger else u)) ∧
  -- a SNAP frame lost or corrected (R327, R312, R315)
  (∀ (hub : Word) (rkn : Option (Fin 8)) (x : Nat × Nat) (s : State),
    s.snap.frame = some x →
    exec (.hitchSignalFrame (.snap (.lost hub rkn))) s = .next (({ s with snap := { s.snap with frame := none } }).dropFrame none hub rkn) ∧
      exec (.hitchSignalFrame (.snap .corrected)) s = .next (s.noteCorrected .corrected).snapFrame) ∧
  -- HITCH_RELEASE (R333)
  (∀ (r : Release) (rest : List Release) (v s : State),
    s.hitch.releases = r :: rest →
    r.slot + 48 < s.strideEnd →
    v = s.advanceTo (r.slot + 48) →
    exec .hitchRelease s = .next (({ v with hitch := { v.hitch with releases := rest } } : State).takeRelease r)) ∧
  -- a RELEASE read with an error or without (R327, R312, R315)
  (∀ (err : FrameError) (r : Release) (rest : List Release) (v s : State),
    s.hitch.releases = r :: rest →
    err = .none ∨ err = .corrected →
    r.slot + 48 < s.strideEnd →
    v = s.advanceTo (r.slot + 48) →
    exec (.hitchSignalFrame (.release err)) s = .next ((({ v with hitch := { v.hitch with releases := rest } }).noteCorrected err).takeRelease r)) ∧
  -- a RELEASE frame lost (R327, R312, R315)
  (∀ (hub : Word) (rkn : Option (Fin 8)) (r : Release) (rest : List Release) (v s : State),
    s.hitch.releases = r :: rest →
    r.slot + 48 < s.strideEnd →
    v = s.advanceTo (r.slot + 48) →
    exec (.hitchSignalFrame (.release (.lost hub rkn))) s = .next (({ v with hitch := { v.hitch with releases := rest } }).loseRelease r hub rkn)) ∧
  -- HITCH_WATCH_REGISTER (R332, R333, R335)
  (∀ (job : BitVec 12) (w0 w1 w2 : Word) (w : Watch) (s : State),
    watchOf job.toNat w0 w1 w2 = some w →
    s.asked w job.toNat w0 w1 w2 = true →
    exec (.hitchWatchRegister job w0 w1 w2) s = .next ((match s.judge w.ctr w.job w.cmp w.threshold with
      | .orphan => (s.raiseTo Flt.HCH_ORPHAN (coreBlock w.q.core w.q.q.val) w.job (ctrDetail w.ctr)).pushRelease w.q w.ctr 2
      | .refused => s.pushRelease w.q w.ctr 3
      | .holds => s.pushRelease w.q w.ctr 0
      | .notHeld => if w.query then s.pushRelease w.q w.ctr 1 else { s with hitch := { s.hitch with watches := s.hitch.watches ++ [w] } }).ackWatch w.q)) ∧
  -- HITCH_WATCH_WITHDRAW (R334)
  (∀ (job : BitVec 12) (w0 w1 w2 : Word) (w : Watch) (s : State),
    watchOf job.toNat w0 w1 w2 = some w →
    exec (.hitchWatchWithdraw job w0 w1 w2) s = .next { s with hitch := { s.hitch with watches := s.hitch.watches.filter (fun x => !(x.q == w.q && x.ctr == w.ctr)), releases := s.hitch.releases.filter fun r => !(r.q == w.q && r.ctr == w.ctr) } })

/-- COUNTER_INIT, COUNTER_FREE and COUNTER_SET by a writer of the control register leave their operation, of the selected counter and with the staged value, for the boundary; COUNTER_REVOKE of a non-zero job leaves the revocation of its counters. While the host link is UP, a doorbell of function 0 or of a function with a job counts one request in PCI_CNT_0; of a non-zero 16-bit amount with the upper half 0 it signals a LIVE host counter the function owns, and logs HCH_DB_REFUSED where another function owns it. Arming a host counter sets arm, comparison and vector, and fires it at once if the condition holds. A mirror write due 64 cycles after the last writes the value and the state word, with the next sequence number, at the function's mirror. -/
def Obligations.CounterCommands : Prop :=
  -- COUNTER_INIT (R336)
  (∀ (src : Source) (val : Word) (cyc : Nat) (c : CounterId) (s : State),
    (s.advance cyc).mayWrite src (Reg.HCH_CTR_CTL) = true →
    (s.advance cyc).selectedCounter = some c →
    (let t := (s.advance cyc).setReg (bank c.code Reg.HCH_CTR_CTL) (val.setField 29 28 1 &&& 0x00FC0FFF)
     exec (.counterInit src val cyc) s = .next (t.schedule (.counterInit c t.hitch.staged ((val.setField 29 28 1).field 11 0) (match c with | .host _ => (val.setField 29 28 1).field 23 18 | _ => 0))))) ∧
  -- COUNTER_FREE (R336)
  (∀ (src : Source) (val : Word) (cyc : Nat) (c : CounterId) (s : State),
    (s.advance cyc).mayWrite src (Reg.HCH_CTR_CTL) = true →
    (s.advance cyc).selectedCounter = some c →
    (let t := (s.advance cyc).setReg (bank c.code Reg.HCH_CTR_CTL) (val.setField 29 28 2 &&& 0x00FC0FFF)
     exec (.counterFree src val cyc) s = .next (t.schedule (.counterFree c)))) ∧
  -- COUNTER_SET (R326)
  (∀ (src : Source) (val : Word) (cyc : Nat) (c : CounterId) (s : State),
    (s.advance cyc).mayWrite src (Reg.HCH_CTR_CTL) = true →
    (s.advance cyc).selectedCounter = some c →
    (let t := (s.advance cyc).setReg (bank c.code Reg.HCH_CTR_CTL) (val.setField 29 28 3 &&& 0x00FC0FFF)
     exec (.counterSet src val cyc) s = .next (t.schedule (.counterSet c t.hitch.staged)))) ∧
  -- COUNTER_REVOKE (R335)
  (∀ (src : Source) (job : BitVec 12) (cyc : Nat) (s : State),
    (s.advance cyc).mayWrite src (Reg.HCH_REVOKE) = true →
    job ≠ 0 →
    exec (.counterRevoke src job cyc) s = .next ((s.advance cyc).schedule (.revoke job.toNat))) ∧
  -- HOST_COUNTER_DOORBELL (R337)
  (∀ (fn : Fin 64) (i : Fin 1024) (val : Word) (t : State) (s : State),
    (s.reg Reg.PCI_LINK_STAT).field 31 29 = 2 →
    fn.val = 0 ∨ s.liveF (bank fn.val Reg.PCI_FN_JOB) 11 0 ≠ 0 →
    t = s.bump Reg.PCI_CNT_n 1 →
    val.field 31 16 = 0 →
    signedOf 16 (val.field 15 0) ≠ 0 →
    (s.ctr (.host i)).fn = fn.val →
    (s.ctr (.host i)).st = .live →
    exec (.hostCounterDoorbell fn i val) s = .next (t.signal (.host i) (signedOf 16 (val.field 15 0)) (s.ctr (.host i)).job (agentBridle 0) blkHCH .plain).2) ∧
  -- a doorbell of another function (R337)
  (∀ (fn : Fin 64) (i : Fin 1024) (val : Word) (t : State) (s : State),
    (s.reg Reg.PCI_LINK_STAT).field 31 29 = 2 →
    fn.val = 0 ∨ s.liveF (bank fn.val Reg.PCI_FN_JOB) 11 0 ≠ 0 →
    t = s.bump Reg.PCI_CNT_n 1 →
    val.field 31 16 = 0 →
    signedOf 16 (val.field 15 0) ≠ 0 →
    (s.ctr (.host i)).fn ≠ fn.val →
    exec (.hostCounterDoorbell fn i val) s = .next (t.logFault Flt.HCH_DB_REFUSED blkHCH (ctrDetail (.host i)))) ∧
  -- HOST_COUNTER_ARM (R338)
  (∀ (src : Source) (val : Word) (i : Fin 1024) (s : State),
    s.mayWrite src Reg.HCH_CTR_ARM = true →
    s.selectedCounter = some (.host i) →
    (let v := { s.ctr (.host i) with arm := val.bit 31, cmp := val.field 30 29, vector := val.field 10 0 }
     let t := s.setCtr (.host i) v
     exec (.hostCounterArm src val) s = .next (if v.arm && cmpHolds v.cmp v.value v.thresh then t.fire i else t))) ∧
  -- MIRROR_WRITE (R338)
  (∀ (i : Fin 1024) (cyc : Nat) (t : State) (s : State),
    t = s.advance cyc →
    (t.ctr (.host i)).mirDirty = true →
    (t.ctr (.host i)).mirLast.all (fun k => decide (k + 64 ≤ t.now)) = true →
    t.mirrorOn (t.ctr (.host i)).fn = true →
    (let v := t.ctr (.host i)
     let w := { v with mirSeq := (v.mirSeq + 1) % 2 ^ 30, mirLast := some t.now, mirDirty := false }
     exec (.mirrorWrite i cyc) s = .next ((t.setCtr (.host i) w).hostWrite w.job (t.mirrorBase w.fn + 8 * i.val) (bytesOf [w.value, w.stateWord]))))

/-- A Bridle in service with room in its pool takes the oldest request at its Draught port, or with none there the next of an engine, numbers it and sends what can go. A whole request for this module, in life and of a new number, goes on to the port that serves the byte that its ingress entry gives: a LOAD as it is, a STORE once its flag-store epoch is open, a FLAG_STORE once its count has been applied, being held and counted until then. A response ends its request; BUSY leaves it for a retry. A packet for another module is forwarded one hop further on the route given and counted. A request is sent again 8 us and 16 us after it was first sent and 1 us after a BUSY, and is ended 24 us after it as the time-out of its kind. -/
def Obligations.FabricCommands : Prop :=
  -- FABRIC_REQUEST_ISSUE of a request at the Bridle's Draught port (R344, R343)
  (∀ (b : Fin 4) (cyc : Nat) (e : Delivered) (rest : List Delivered) (v t : State) (s : State),
    v = s.advance cyc →
    v.fab.requests.length < 8192 →
    v.isOn (.bridle b) = true →
    v.drg.inbox.getD (portOf (56 + b.val)).val [] = e :: rest →
    e.packet.kind ≤ 4 →
    v.takeInbox (portOf (56 + b.val)) = some (e, t) →
    exec (.fabricRequestIssue b cyc) s = .next (t.enterPool { freshRequest ⟨b, e.src.val, e.packet.job, e.packet.addr / 2 ^ 44⟩ e.packet.kind (e.packet.addr % 2 ^ 44)
      (if e.packet.kind = 1 then 4 * lenWords e.packet.len else e.packet.data.length) e.packet.data with origin := some ⟨e.src, e.seq⟩ }).fabPump) ∧
  -- FABRIC_REQUEST_ISSUE of an engine's request (R344, R343)
  (∀ (b : Fin 4) (cyc : Nat) (q : RemoteReq) (v : State) (s : State),
    v = s.advance cyc →
    v.fab.requests.length < 8192 →
    v.isOn (.bridle b) = true →
    v.drg.inbox.getD (portOf (56 + b.val)).val [] = [] →
    (v.toIssue.find? fun q => v.bridleOf q == some b && !v.engineWaits q) = some q →
    v.fab.requests.length + (v.engineCopies b q).length ≤ 8192 →
    exec (.fabricRequestIssue b cyc) s = .next ((v.engineCopies b q).foldl (fun (u : State) r => u.enterPool r) { v with toIssue := v.toIssue.erase q }).fabPump) ∧
  -- FABRIC_LOAD (R351)
  (∀ (b : Fin 4) (cyc : Nat) (h : FabHeader) (data : List Byte) (age : Nat) (t : State) (x : Inbound) (i a : Nat) (e : Ingress) (u : State) (s : State),
    Incoming (s.advance cyc) b h data age t x →
    h.kind = 1 →
    u = ({ t with nextId := t.nextId + 1 } : State).noteNumber ⟨h.src, h.srcBridle⟩ x.seq (some .inProgress) →
    Admitted u x i e a →
    exec (.fabricLoad b cyc) s = .next (u.passOn { x with to_ := a })) ∧
  -- FABRIC_STORE (R351, R370)
  (∀ (b : Fin 4) (cyc : Nat) (h : FabHeader) (data : List Byte) (age : Nat) (t : State) (x : Inbound) (i a : Nat) (e : Ingress) (v u : State) (s : State),
    Incoming (s.advance cyc) b h data age t x →
    h.kind = 2 →
    ({ t with nextId := t.nextId + 1 } : State).openFlag x = some v →
    u = v.noteNumber ⟨h.src, h.srcBridle⟩ x.seq (some .inProgress) →
    Admitted u x i e a →
    exec (.fabricStore b cyc) s = .next (u.passOn { x with to_ := a })) ∧
  -- FABRIC_FLAG_STORE (R366)
  (∀ (b : Fin 4) (cyc : Nat) (h : FabHeader) (data : List Byte) (age : Nat) (t : State) (x : Inbound) (i a : Nat) (e : Ingress) (f : FlagEntry) (v u : State) (s : State),
    Incoming (s.advance cyc) b h data age t x →
    h.kind = 3 →
    ({ t with nextId := t.nextId + 1 } : State).openFlag x = some v →
    u = v.noteNumber ⟨h.src, h.srcBridle⟩ x.seq (some .inProgress) →
    Admitted u x i e a →
    u.fab.flags.find? x.entryIs = some f →
    f.broken = false →
    exec (.fabricFlagStore b cyc) s = .next (if x.count ≤ f.applied.length then
      (({ u with fab := { u.fab with inbound := u.fab.inbound ++ [{ x with to_ := a }] } }).freeFlag { x with to_ := a }).forward { x with to_ := a }
      else ({ u with fab := { u.fab with inbound := u.fab.inbound ++ [{ x with to_ := a, held := true }] } }).bump (Reg.FAB_CNT_n + 20) 1)) ∧
  -- FABRIC_RESP (R350)
  (∀ (b : Fin 4) (cyc : Nat) (h : FabHeader) (data : List Byte) (age : Nat) (t : State) (r : FabRequest) (s : State),
    (s.advance cyc).headAt b = some (h, data, age, t) →
    h.kind = 5 →
    h.dst = (s.advance cyc).moduleIndex →
    t.requestAt ⟨h.srcBridle % 4, Nat.mod_lt _ (by decide)⟩ h.src (BitVec.ofNat 32 h.seq) = some r →
    exec (.fabricResp b cyc) s = .next (if h.status = 4 then t.mapRequests fun q => if q.id = r.id then { q with busy := some t.now } else q
      else ((t.clearUse r).finishRequest r h.status (if r.kind = 8 ∨ r.kind = 9 then none else responseFault h.status (h.addr % 65536))
      (if h.status = 2 ∧ data = [] then poisonBytes r.len else data)).fabPump)) ∧
  -- FABRIC_TRANSIT_FORWARD (R380)
  (∀ (b : Fin 4) (cyc : Nat) (h : FabHeader) (data : List Byte) (age : Nat) (t : State) (k : Fin 10) (c : Fin 4) (s : State),
    (s.advance cyc).headAt b = some (h, data, age, t) →
    h.dst ≠ (s.advance cyc).moduleIndex →
    (t.routing.table h.epoch).st = .active →
    h.hops < 3 →
    h.kind = 5 ∨ age ≤ 312 →
    h.route = 0 →
    teamTo t.moduleIndex h.dst = some k →
    t.teamUsable h.epoch k = true →
    ((b :: allFin 4).find? fun c => decide (0 < t.lanesUp c (teamStrand k))) = some c →
    exec (.fabricTransitForward b cyc) s = .next ((t.bump Reg.FAB_RT_CNT_n 1).sendPacket c k { h with route := 0, hops := h.hops + 1, age := age } data)) ∧
  -- FABRIC_RETRANSMIT_TIMEOUT (R357)
  (∀ (b : Fin 4) (target : Fin 32) (seq : Word) (cyc : Nat) (r : FabRequest) (f : Nat) (s : State),
    (((s.advance cyc).requestAt b target.val seq) = some r) →
    r.first = some f →
    r.tries < 2 →
    f + 8000 * (r.tries + 1) ≤ (s.advance cyc).now →
    exec (.fabricRetransmitTimeout b target seq cyc) s = .next ((s.advance cyc).sendAgain r (r.tries + 1))) ∧
  -- FABRIC_BUSY_RETRY (R350)
  (∀ (b : Fin 4) (target : Fin 32) (seq : Word) (cyc : Nat) (r : FabRequest) (f : Nat) (s : State),
    (((s.advance cyc).requestAt b target.val seq) = some r) →
    r.busy = some f →
    f + 1000 ≤ (s.advance cyc).now →
    exec (.fabricBusyRetry b target seq cyc) s = .next ((s.advance cyc).sendAgain r r.tries)) ∧
  -- FABRIC_REQUEST_TIMEOUT (R360, R379)
  (∀ (b : Fin 4) (target : Fin 32) (seq : Word) (cyc : Nat) (r : FabRequest) (f : Nat) (s : State),
    (((s.advance cyc).fab.requests.find? fun r => r.stream.bridle == b && r.stream.target == target.val && r.seq % 2 ^ 32 == seq.toNat) = some r) →
    r.first = some f →
    f + 24000 ≤ (s.advance cyc).now →
    r.kind = 1 →
    exec (.fabricRequestTimeout b target seq cyc) s = .next ((((s.advance cyc).bump (Reg.FAB_CNT_n + 28) 1).failRequest r Flt.FAB_LOAD_TIMEOUT)).fabPump)

/-- An ACQUIRE of a leased region that permits writes, without a live holder or with the asker as holder, and a RENEW of the same, record the holder for 4,001 boundaries and are granted, but the first RENEW by a holder whose lease an entry write has cleared, which is refused; a RELEASE by the recorded holder clears it, and any RELEASE is granted. A holder asks for a renewal 1,000 boundaries after its last, once a boundary. A holder's entry held for 4,000 boundaries expires and raises FAB_LEASE_EXPIRED; the home's record of a holder past its expiry is cleared with FAB_LEASE_LAPSED. A lease command ACQUIRE of an entry that is neither held nor being acquired asks for it, RELEASE of a held or expired one gives it up. An ingress entry write is left for the boundary; a read shows the entry's words, its holder and the boundaries that remain. -/
def Obligations.LeaseCommands : Prop :=
  -- LEASE_ACQUIRE (R354)
  (∀ (b : Fin 4) (cyc : Nat) (h : FabHeader) (data : List Byte) (age : Nat) (t : State) (x : Inbound) (i : Nat) (v : Ingress) (s : State),
    Incoming (s.advance cyc) b h data age t x →
    h.kind = 9 →
    h.flagEpoch = 1 →
    ({ t with nextId := t.nextId + 1 } : State).ingressOf x.job (x.addr / 2 ^ 21) = some (i, v) →
    v.w0.bit 27 = true ∧ v.w0.bit 29 = true →
    ({ t with nextId := t.nextId + 1 } : State).liveHolder v = none ∨ ({ t with nextId := t.nextId + 1 } : State).liveHolder v = some x.pair.src →
    (let u : State := { t with nextId := t.nextId + 1 }
     exec (.leaseAcquire b cyc) s = .next ((u.setIngress i { v with holder := some x.pair.src, expires := u.clk.bnd + 4001, cleared := none }).leaseStatus x true))) ∧
  -- LEASE_RENEW (R354)
  (∀ (b : Fin 4) (cyc : Nat) (h : FabHeader) (data : List Byte) (age : Nat) (t : State) (x : Inbound) (i : Nat) (v : Ingress) (s : State),
    Incoming (s.advance cyc) b h data age t x →
    h.kind = 9 →
    h.flagEpoch = 2 →
    ({ t with nextId := t.nextId + 1 } : State).ingressOf x.job (x.addr / 2 ^ 21) = some (i, v) →
    v.w0.bit 27 = true ∧ v.w0.bit 29 = true →
    ({ t with nextId := t.nextId + 1 } : State).liveHolder v = none ∨ ({ t with nextId := t.nextId + 1 } : State).liveHolder v = some x.pair.src →
    v.cleared ≠ some x.pair.src →
    (let u : State := { t with nextId := t.nextId + 1 }
     exec (.leaseRenew b cyc) s = .next ((u.setIngress i { v with holder := some x.pair.src, expires := u.clk.bnd + 4001, cleared := none }).leaseStatus x true))) ∧
  -- a RENEW after the home cleared the lease (R354)
  (∀ (b : Fin 4) (cyc : Nat) (h : FabHeader) (data : List Byte) (age : Nat) (t : State) (x : Inbound) (i : Nat) (v : Ingress) (s : State),
    Incoming (s.advance cyc) b h data age t x →
    h.kind = 9 →
    h.flagEpoch = 2 →
    ({ t with nextId := t.nextId + 1 } : State).ingressOf x.job (x.addr / 2 ^ 21) = some (i, v) →
    v.cleared = some x.pair.src →
    (let u : State := { t with nextId := t.nextId + 1 }
     exec (.leaseRenew b cyc) s = .next ((u.setIngress i { v with cleared := none }).leaseStatus x false))) ∧
  -- LEASE_RELEASE (R355)
  (∀ (b : Fin 4) (cyc : Nat) (h : FabHeader) (data : List Byte) (age : Nat) (t : State) (x : Inbound) (i : Nat) (v : Ingress) (s : State),
    Incoming (s.advance cyc) b h data age t x →
    h.kind = 9 →
    h.flagEpoch = 3 →
    ({ t with nextId := t.nextId + 1 } : State).ingressOf x.job (x.addr / 2 ^ 21) = some (i, v) →
    (let u : State := { t with nextId := t.nextId + 1 }
     exec (.leaseRelease b cyc) s = .next ((if v.holder = some x.pair.src then u.setIngress i { v with holder := none } else u).leaseStatus x true))) ∧
  -- LEASE_RENEW_DUE (R354)
  (∀ (index : Fin 1024) (s : State),
    (s.lease index.val).st = .held →
    (s.lease index.val).start + 1000 ≤ s.clk.bnd →
    (s.lease index.val).asked < s.clk.bnd →
    exec (.leaseRenewDue index) s = .next ((s.setLease index.val { s.lease index.val with asked := s.clk.bnd }).askLease index.val 2)) ∧
  -- LEASE_HOLDER_EXPIRY (R355, R354)
  (∀ (index : Fin 1024) (s : State),
    (s.lease index.val).st = .held →
    (s.lease index.val).start + 4000 ≤ s.clk.bnd →
    (let v := s.lease index.val
     exec (.leaseHolderExpiry index) s = .next ((s.setLease index.val { v with st := .expired }).raiseTo Flt.FAB_LEASE_EXPIRED blkFAB v.job (putBits 31 27 v.home + v.region * 2 ^ 21 % 2 ^ 27)))) ∧
  -- LEASE_HOME_EXPIRY (R354)
  (∀ (index : Fin 65536) (g : Nat) (s : State),
    (s.ingress index.val).holder = some g →
    (s.ingress index.val).expires ≤ s.clk.bnd →
    exec (.leaseHomeExpiry index) s = .next ((s.setIngress index.val { s.ingress index.val with holder := none }).logFault Flt.FAB_LEASE_LAPSED blkFAB (putBits 31 27 g + (s.ingress index.val).w1.field 22 0))) ∧
  -- LSE_CMD_ACQUIRE (R354)
  (∀ (src : Source) (cyc i : Nat) (s : State),
    (s.advance cyc).mayWrite src (Reg.FAB_LSE_CMD) = true →
    i = (s.advance cyc).leaseIndex →
    ((s.advance cyc).lease i).st ≠ .held →
    ((s.advance cyc).lease i).st ≠ .acquiring →
    exec (.lseCmdAcquire src cyc) s = .next (((s.advance cyc).setLease i { (s.advance cyc).lease i with st := .acquiring }).askLease i 1)) ∧
  -- LSE_CMD_RELEASE (R355)
  (∀ (src : Source) (cyc i : Nat) (s : State),
    (s.advance cyc).mayWrite src (Reg.FAB_LSE_CMD) = true →
    i = (s.advance cyc).leaseIndex →
    ((s.advance cyc).lease i).st = .held ∨ ((s.advance cyc).lease i).st = .expired →
    exec (.lseCmdRelease src cyc) s = .next ((s.advance cyc).askLease i 3)) ∧
  -- INGRESS_ENTRY_WRITE (R353)
  (∀ (src : Source) (cyc : Nat) (s : State),
    (s.advance cyc).mayWrite src (Reg.FAB_ING_CMD) = true →
    (s.advance cyc).fab.ingressPending = false →
    (let t := s.advance cyc
     exec (.ingressEntryWrite src cyc) s = .next (({ t with fab := { t.fab with ingressPending := true } }).schedule
     (.ingress (t.regF Reg.FAB_ING_IDX 15 0) (t.reg Reg.FAB_ING_W0) (t.reg Reg.FAB_ING_W1) (t.reg Reg.FAB_ING_W2))))) ∧
  -- INGRESS_ENTRY_READ (R352)
  (∀ (src : Source) (v : Ingress) (t : State) (s : State),
    t = s.advance 0 →
    t.mayWrite src Reg.FAB_ING_CMD = true →
    t.fab.ingressPending = false →
    v = t.ingress (t.regF Reg.FAB_ING_IDX 15 0) →
    exec (.ingressEntryRead src) s = .next ((((t.setReg Reg.FAB_ING_W0 v.w0).setReg Reg.FAB_ING_W1 v.w1).setReg Reg.FAB_ING_W2 v.w2).setReg Reg.FAB_ING_W3
      (BitVec.ofNat 32 (match v.holder with | some g => putBits 31 31 1 + putBits 30 26 g + putBits 11 0 (min 4095 (v.expires - t.clk.bnd)) | none => 0))))

/-- A held FLAG_STORE whose epoch has had its count of writes applied goes on to its port and its epoch's entry is freed; one more than 312 age units old is abandoned, answered FAILED and counted. An entry of an epoch without a held FLAG_STORE, not touched for 64 us, is freed. An atomic's result is forgotten at its expiry. An epoch number a source no longer uses may be used again 64 us after its last use, and requests that wait for one go on. -/
def Obligations.FlagStoreCommands : Prop :=
  -- FLAG_STORE_RELEASE (R366)
  (∀ (source : Fin 32) (b : Fin 4) (seq : Word) (x : Inbound) (e : FlagEntry) (s : State),
    s.heldFlag source b seq = some x →
    s.fab.flags.find? x.entryIs = some e →
    x.count ≤ e.applied.length →
    (let t : State := { s with fab := { s.fab with inbound := s.fab.inbound.map fun (y : Inbound) => if y.key = x.key then { y with held := false } else y } }
     exec (.flagStoreRelease source b seq) s = .next ((t.freeFlag x).forward x))) ∧
  -- FLAG_STORE_EXPIRED (R367)
  (∀ (source : Fin 32) (b : Fin 4) (seq : Word) (cyc : Nat) (x : Inbound) (s : State),
    (s.advance cyc).heldFlag source b seq = some x →
    312 < ageOf x.born (s.advance cyc).now →
    exec (.flagStoreExpired source b seq cyc) s = .next ((s.advance cyc).abandonFlag x)) ∧
  -- FLAG_ENTRY_IDLE_FREE (R368)
  (∀ (source : Fin 32) (b : Fin 4) (port : Fin 64) (job : BitVec 12) (epoch : BitVec 8) (cyc : Nat) (s : State),
    ((s.advance cyc).fab.inbound.any fun x => x.held && x.pair == ⟨source.val, b.val⟩ && x.port == port.val && x.job == job.toNat && x.epoch == epoch.toNat) = false →
    (let t := s.advance cyc
     exec (.flagEntryIdleFree source b port job epoch cyc) s = .next (t.setFlags (t.fab.flags.filter fun e => !(e.is ⟨source.val, b.val⟩ port.val job.toNat epoch.toNat && decide (e.last + 64000 ≤ t.now)))))) ∧
  -- ATOMIC_RESULT_EXPIRY (R358)
  (∀ (source : Fin 32) (b : Fin 4) (seq : Word) (cyc : Nat) (s : State),
    (let t := s.advance cyc
     exec (.atomicResultExpiry source b seq cyc) s = .next { t with fab := { t.fab with atomics := t.fab.atomics.filter fun r => !(r.pair == ⟨source.val, b.val⟩ && r.seq % 2 ^ 32 == seq.toNat && decide (r.expiry ≤ t.now)) } })) ∧
  -- FLAG_EPOCH_USE_CLEAR (R369)
  (∀ (b : Fin 4) (port : Fin 64) (job : BitVec 12) (target : Fin 32) (epoch : BitVec 8) (cyc k : Nat) (v : Stream) (t : State) (s : State),
    t = s.advance cyc →
    v = t.stream ⟨b, port.val, job.toNat, target.val⟩ →
    v.uses.find? epoch.toNat = some k →
    v.epoch ≠ epoch.toNat ∨ v.sent = 0 →
    k + 64000 ≤ t.now →
    exec (.flagEpochUseClear b port job target epoch cyc) s = .next (((t.setStream ⟨b, port.val, job.toNat, target.val⟩ { v with uses := v.uses.drop epoch.toNat }).giveEpochs ⟨b, port.val, job.toNat, target.val⟩).fabPump))

/-- An advertisement heard on a team is kept as that team's; one whose sender has newly gone to the epoch this module is not in at that stride logs FAB_EPOCH_MISS, once until the next switch; one that reports the draining epoch drained, sent since the switch, enters its sender among those drained. A rack map entry four boundaries old loses its teams. A write of a word of the inactive table while it is EDITABLE stores its defined bits and clears the status. ARM makes an EDITABLE table ARMED, DISARM an ARMED one without a pending switch EDITABLE; SWITCH of an ARMED table leaves the switch for its stride if that is 16 or more ahead. A drain of 64 boundaries is over: its table is EDITABLE. -/
def Obligations.RoutingCommands : Prop :=
  -- ROUTE_ADV (R376)
  (∀ (team : Fin 10) (sender : Fin 32) (stride : Word) (master : Fin 32) (aligned epoch : Bool) (drained : Fin 4) (generation : BitVec 16) (teams : BitVec 10) (relay : List (Bool × BitVec 10 × BitVec 16)) (a : Advert) (s : State),
    a = ⟨sender.val, stride, master.val, aligned, epoch, drained.val, generation.toNat, teams.toNat, relay.map fun x => (x.1, x.2.1.toNat, x.2.2.toNat), 0, s.routing.goes team.val ⟨sender.val, stride, master.val, aligned, epoch, drained.val, generation.toNat, teams.toNat, relay.map fun x => (x.1, x.2.1.toNat, x.2.2.toNat), 0, false⟩⟩ →
    s.routing.otherEpoch a = false ∨ s.routing.missed = true →
    s.routing.saysDrained a = false →
    exec (.routeAdv team sender stride master aligned epoch drained generation teams relay) s = .next (s.setRouting { s.routing with adverts := s.routing.adverts.put team.val a })) ∧
  -- a peer that has gone to the other epoch (R376)
  (∀ (team : Fin 10) (sender : Fin 32) (stride : Word) (master : Fin 32) (aligned epoch : Bool) (drained : Fin 4) (generation : BitVec 16) (teams : BitVec 10) (relay : List (Bool × BitVec 10 × BitVec 16)) (a : Advert) (s : State),
    a = ⟨sender.val, stride, master.val, aligned, epoch, drained.val, generation.toNat, teams.toNat, relay.map fun x => (x.1, x.2.1.toNat, x.2.2.toNat), 0, s.routing.goes team.val ⟨sender.val, stride, master.val, aligned, epoch, drained.val, generation.toNat, teams.toNat, relay.map fun x => (x.1, x.2.1.toNat, x.2.2.toNat), 0, false⟩⟩ →
    a.went = true →
    s.routing.otherEpoch a = true →
    s.routing.missed = false →
    s.routing.saysDrained a = false →
    exec (.routeAdv team sender stride master aligned epoch drained generation teams relay) s = .next ((s.setRouting { s.routing with adverts := s.routing.adverts.put team.val a, missed := true }).logFault Flt.FAB_EPOCH_MISS blkFAB sender.val)) ∧
  -- a peer that has drained the old epoch (R376)
  (∀ (team : Fin 10) (sender : Fin 32) (stride : Word) (master : Fin 32) (aligned epoch : Bool) (drained : Fin 4) (generation : BitVec 16) (teams : BitVec 10) (relay : List (Bool × BitVec 10 × BitVec 16)) (a : Advert) (s : State),
    a = ⟨sender.val, stride, master.val, aligned, epoch, drained.val, generation.toNat, teams.toNat, relay.map fun x => (x.1, x.2.1.toNat, x.2.2.toNat), 0, s.routing.goes team.val ⟨sender.val, stride, master.val, aligned, epoch, drained.val, generation.toNat, teams.toNat, relay.map fun x => (x.1, x.2.1.toNat, x.2.2.toNat), 0, false⟩⟩ →
    s.routing.saysDrained a = true →
    s.routing.otherEpoch a = false →
    exec (.routeAdv team sender stride master aligned epoch drained generation teams relay) s = .next (s.setRouting { s.routing with adverts := s.routing.adverts.put team.val a, drained := s.routing.drained ++ [sender.val] })) ∧
  -- RACK_MAP_ENTRY_STALE (R377)
  (∀ (index : Fin 32) (e : MapEntry) (s : State),
    s.routing.map.find? index.val = some e →
    4 ≤ e.age →
    exec (.rackMapEntryStale index) s = .next (s.setRouting { s.routing with map := s.routing.map.put index.val { e with teams := 0 } })) ∧
  -- ROUTING_TABLE_WRITE (R383)
  (∀ (src : Source) (val : Word) (e : Bool) (i : Nat) (s : State),
    s.mayWrite src Reg.FAB_RT_DATA = true →
    e = (s.reg Reg.FAB_RT_SEL).bit 8 →
    i = s.regF Reg.FAB_RT_SEL 5 0 →
    (s.routing.table e).st = .editable →
    i < 34 →
    (let t := s.routing.table e
     exec (.routingTableWrite src val) s = .next (s.setRouting { s.routing.setTable e { t with words := t.words.set i (val &&& tableWordMask i) } with status := 0 }))) ∧
  -- ROUTING_ARM (R383)
  (∀ (src : Source) (t : RoutingTable) (s : State),
    s.mayWrite src Reg.FAB_RT_CTL = true →
    t = s.routing.table (!s.routing.active) →
    t.st = .editable →
    exec (.routingArm src) s = .next (s.setRouting { s.routing.setTable (!s.routing.active) { t with st := .armed } with status := 0 })) ∧
  -- ROUTING_DISARM (R383)
  (∀ (src : Source) (t : RoutingTable) (s : State),
    s.mayWrite src Reg.FAB_RT_CTL = true →
    t = s.routing.table (!s.routing.active) →
    t.st = .armed →
    s.routing.pending.isNone = true →
    exec (.routingDisarm src) s = .next (s.setRouting { s.routing.setTable (!s.routing.active) { t with st := .editable } with status := 0 })) ∧
  -- ROUTING_SWITCH (R383)
  (∀ (src : Source) (t : RoutingTable) (s : State),
    s.mayWrite src Reg.FAB_RT_CTL = true →
    t = s.routing.table (!s.routing.active) →
    t.st = .armed →
    16 ≤ (s.reg Reg.FAB_RT_AT - BitVec.ofNat 32 s.clk.stride.toNat).toNat →
    (s.reg Reg.FAB_RT_AT - BitVec.ofNat 32 s.clk.stride.toNat).toNat < 2 ^ 31 →
    exec (.routingSwitch src) s = .next (s.setRouting { s.routing with pending := some (s.reg Reg.FAB_RT_AT), status := 0 })) ∧
  -- ROUTING_DRAIN_TIMEOUT (R386)
  (∀ (s : State),
    64 ≤ s.routing.since →
    exec .routingDrainTimeout s = .next (s.setRouting s.routing.endDrain))

/-- A TAIL write of at most the ring's size past HEAD is taken and the uplink served. A message written moves HEAD by one, the uplink IDLE when HEAD has reached TAIL and RUNNING otherwise; without credit it waits; one refused halts the uplink and raises FAB_UPL_REFUSED to its job. A message that comes in for the uplink's job is stored in the next slot of the receive ring, its flits freed, its TAIL moved by one and, where the store is done, the uplink's counter signalled; with the ring full it waits, and one for another job or with reception off is dropped. RESUME of a halted uplink starts it again at HEAD. -/
def Obligations.UplinkCommands : Prop :=
  -- UPLINK_TX_TAIL_WRITE (R389)
  (∀ (src : Source) (u : Fin 16) (tail : BitVec 16) (cyc : Nat) (s : State),
    (s.advance cyc).mayWrite src (Reg.FAB_UPL_TX_TAIL) = true →
    (tail - ((s.advance cyc).uplink u).txHead).toNat ≤ (s.advance cyc).uplinkTxSize u →
    exec (.uplinkTxTailWrite src u tail cyc) s = .next (((s.advance cyc).setUplink u { ((s.advance cyc).uplink u) with txTail := tail }).serveUplink u)) ∧
  -- UPLINK_MESSAGE_RECEIVE: a message taken by the peer (R390)
  (∀ (u : Fin 16) (cyc : Nat) (s : State),
    ((s.advance cyc).uplink u).st ≠ .disabled →
    ((s.advance cyc).uplink u).txHead ≠ ((s.advance cyc).uplink u).sent →
    (let v := (s.advance cyc).uplink u
     exec (.uplinkMessageReceive u .written cyc) s = .next ((s.advance cyc).setUplink u { v with txHead := v.txHead + 1, st := if v.txHead + 1 = v.txTail then .idle else .running }))) ∧
  -- one without credit (R390)
  (∀ (u : Fin 16) (cyc : Nat) (s : State),
    ((s.advance cyc).uplink u).st ≠ .disabled →
    ((s.advance cyc).uplink u).txHead ≠ ((s.advance cyc).uplink u).sent →
    uplinkHalted ((s.advance cyc).uplink u).st = false →
    exec (.uplinkMessageReceive u .withheld cyc) s = .next ((s.advance cyc).setUplink u { ((s.advance cyc).uplink u) with st := .waitCredit })) ∧
  -- one refused (R390)
  (∀ (u : Fin 16) (cyc : Nat) (s : State),
    ((s.advance cyc).uplink u).st ≠ .disabled →
    ((s.advance cyc).uplink u).txHead ≠ ((s.advance cyc).uplink u).sent →
    uplinkHalted ((s.advance cyc).uplink u).st = false →
    exec (.uplinkMessageReceive u .refused cyc) s = .next (((s.advance cyc).setUplink u { ((s.advance cyc).uplink u) with st := .haltedRefused, sent := ((s.advance cyc).uplink u).txHead }).raiseTo Flt.FAB_UPL_REFUSED blkFAB ((s.advance cyc).uplinkJob u) u.val)) ∧
  -- a message received (R390)
  (∀ (u : Fin 16) (cyc : Nat) (a : Arrived) (key : Nat) (t : State) (g : Status × State) (s : State),
    t = s.advance cyc →
    key = (uplinkBridle u).val + 4 →
    ((t.brd.arrived.getD key []).find? fun a => a.strand == (uplinkStrand u).val) = some a →
    (t.uplink u).rx = true →
    (a.words.getD 0 0).field 31 20 = t.uplinkJob u →
    ((t.uplink u).rxTail - (t.uplink u).rxHead).toNat < t.uplinkRxSize u →
    g = (({ t with brd := { t.brd with arrived := t.brd.arrived.put key ((t.brd.arrived.getD key []).erase a) } } : State).freeFlits u a.flits).store (engineAccess (t.uplinkJob u) blkFAB) (t.uplinkRxBase u + 256 * ((t.uplink u).rxTail.toNat % t.uplinkRxSize u)) (bytesOf a.words ++ a.payload.take (4 * min 60 ((a.words.getD 0 0).field 7 0))) →
    g.1 = .ok →
    exec (.uplinkMessageReceive u .here cyc) s = .next ((g.2.setUplink u { t.uplink u with rxTail := (t.uplink u).rxTail + 1 }).signalAt 2 none (g.2.regF (uplinkReg u Reg.FAB_UPL_CTL) 19 12) 1 (t.uplinkJob u) (agentBridle (uplinkBridle u).val) blkFAB)) ∧
  -- one of another job (R390)
  (∀ (u : Fin 16) (cyc : Nat) (a : Arrived) (key : Nat) (t : State) (s : State),
    t = s.advance cyc →
    key = (uplinkBridle u).val + 4 →
    ((t.brd.arrived.getD key []).find? fun a => a.strand == (uplinkStrand u).val) = some a →
    (t.uplink u).rx = false ∨ (a.words.getD 0 0).field 31 20 ≠ t.uplinkJob u →
    exec (.uplinkMessageReceive u .here cyc) s = .next (({ t with brd := { t.brd with arrived := t.brd.arrived.put key ((t.brd.arrived.getD key []).erase a) } } : State).freeFlits u a.flits)) ∧
  -- UPLINK_RESUME (R390)
  (∀ (src : Source) (u : Fin 16) (cyc : Nat) (s : State),
    (s.advance cyc).mayWrite src (Reg.FAB_UPL_CTL) = true →
    uplinkHalted ((s.advance cyc).uplink u).st = true →
    exec (.uplinkResume src u cyc) s = .next (((s.advance cyc).setUplink u { ((s.advance cyc).uplink u) with st := .idle, sent := ((s.advance cyc).uplink u).txHead }).serveUplink u))

/-- A codeword that a lane in service decodes is counted in the lane's symbols, its run and its lock, and given to its strand: its flits are taken in order of the strand's numbers and its number acknowledged. One it cannot decode, or whose seal does not fit the receiver's encryption, counts in the lane's and the Bridle's uncorrectables and is asked for again. A gap 64 cycles old is asked for again. A codeword unacknowledged for 2 us is sent again. A link frame drops what it acknowledges, credits what it frees, sends again what it asks for, and the strand goes on. A strand silent for four strides loses its lanes. A link key used for 2^47 codewords logs SEC_LINK_EXHAUST once. -/
def Obligations.CodewordCommands : Prop :=
  -- CODEWORD_RECEIVE (R398, R397, R402, R406, R502, R504)
  (∀ (b : Fin 4) (l : Fin 32) (cw : Codeword) (cyc : Nat) (n : Fin 14) (csym : Nat) (h : LaneHeader) (flits : List (List Word)) (t : State) (v w : Lane) (s : State),
    t = s.advance cyc →
    strandOf l = some n →
    n.val < 10 →
    v = t.lane b l →
    v.link = .up →
    codewordOpened cw t.link.on = some (csym, h, flits) →
    h.train = false →
    w = { v with good := v.good + 1, bad := 0, locked := v.locked || decide (8 ≤ v.good + 1), csym := v.csym + csym, clean := if v.rxSusp ∧ v.locked then v.clean + 1 else v.clean } →
    w.csym ≤ (t.setLane b l w).liveF (bridleReg b Reg.BRD_CFG) 15 0 →
    exec (.codewordReceive b l cw cyc) s = .next (((t.setLane b l w).takeCodeword b n v.delay h.seq.toNat flits).unsuspend b l)) ∧
  -- an undecodable codeword (R398, R397, R402, R406, R502, R504)
  (∀ (b : Fin 4) (l : Fin 32) (cw : Codeword) (cyc : Nat) (n : Fin 14) (t : State) (v : Lane) (s : State),
    t = s.advance cyc →
    strandOf l = some n →
    v = t.lane b l →
    v.link = .up →
    codewordOpened cw t.link.on = none →
    v.bad + 1 < 4 →
    v.ucw + 1 < 4 →
    (let u := (t.setLane b l { v with bad := v.bad + 1, good := 0, ucw := v.ucw + 1, clean := 0 }).bump (bridleReg b (Reg.BRD_CNT_n + 8)) 1
     exec (.codewordReceive b l cw cyc) s = .next (u.linkFrame b n (some ((u.strand b n).expect % 1024))))) ∧
  -- CODEWORD_GAP_NAK (R402)
  (∀ (b : Fin 4) (n : Fin 14) (cyc k : Nat) (s : State),
    ((s.advance cyc).strand b n).gapAt = some k →
    k + 64 ≤ (s.advance cyc).now →
    (let t := s.advance cyc
     exec (.codewordGapNak b n cyc) s = .next ((t.setStrand b n { t.strand b n with gapAt := some t.now }).linkFrame b n (some ((t.strand b n).expect % 1024))))) ∧
  -- CODEWORD_RETX_TIMEOUT (R402)
  (∀ (b : Fin 4) (n : Fin 14) (seq : BitVec 10) (cyc : Nat) (u : CwSent) (s : State),
    (((s.advance cyc).strand b n).unacked.find? fun u => u.seq % 1024 == seq.toNat) = some u →
    u.last + 2000 ≤ (s.advance cyc).now →
    exec (.codewordRetxTimeout b n seq cyc) s = .next ((s.advance cyc).retransmit b n u.seq)) ∧
  -- BRIDLE_LINK_FRAME (R402)
  (∀ (b : Fin 4) (n : Fin 14) (ack : BitVec 10) (freed : BitVec 24) (cyc : Nat) (t : State) (v : Strand) (u : CwSent) (rest : List CwSent) (s : State),
    t = s.advance cyc →
    v = t.strand b n →
    v.unacked = u :: rest →
    (let w := t.setStrand b n { v with unacked := v.unacked.filter fun x => decide (nearSeq u.seq ack.toNat ≤ x.seq), freedFlits := min v.sentFlits (v.freedFlits + (freed.toNat + 2 ^ 24 - v.freedFlits % 2 ^ 24) % 2 ^ 24) }
     exec (.bridleLinkFrame b n ack none freed cyc) s = .next (w.pumpStrand b n) ∧
     ∀ m : BitVec 10, exec (.bridleLinkFrame b n ack (some m) freed cyc) s = .next ((w.retransmit b n (nearSeq u.seq m.toNat)).pumpStrand b n))) ∧
  -- BEACON_LOSS_TIMEOUT (R407)
  (∀ (b : Fin 4) (n : Fin 14) (s : State),
    4 ≤ (s.strand b n).silent →
    exec (.beaconLossTimeout b n) s = .next ((strandLanes n).foldl (fun (t : State) l => if (t.lane b l).link = .up then t.laneDown b l else t) s)) ∧
  -- LINK_COUNTER_EXHAUST (R503)
  (∀ (b : Fin 4) (n : Fin 14) (cyc : Nat) (l : Fin 32) (rest : List (Fin 32)) (t : State) (s : State),
    t = s.advance cyc →
    t.link.on = true →
    2 ^ 47 ≤ (t.strand b n).counter →
    (t.strand b n).warned = false →
    strandLanes n = l :: rest →
    exec (.linkCounterExhaust b n cyc) s = .next ((t.setStrand b n { t.strand b n with warned := true }).logFault Flt.SEC_LINK_EXHAUST blkSEC (laneDetail b l)))

/-- DROP by the peer suspends sending on a lane and sends again what it had not acknowledged; RESUME leaves the end of the suspension for the boundary. A lane suspended for 64 strides goes down. An IDENT in training records the peer, its exchange and, at the 64th, the link delay, admits the peer or refuses it, and is answered. Training admitted at both ends after 64 exchanges makes the lane UP at the boundary; at 50 ms without, the attempt fails, BRD_CNT_6 counts it and BRD_LANE_TRAIN_FAIL is logged, and after the third the lane waits a second for the next. A retrain asked for by a write is left for the boundary. -/
def Obligations.LaneCommands : Prop :=
  -- LANE_DROP (R406)
  (∀ (b : Fin 4) (l : Fin 32) (cyc : Nat) (n : Fin 14) (t : State) (s : State),
    ((s.advance cyc).lane b l).txSusp = false →
    strandOf l = some n →
    t = (s.advance cyc).setLane b l { (s.advance cyc).lane b l with txSusp := true, suspended := some (((s.advance cyc).lane b l).suspended.getD (s.advance cyc).clk.bnd) } →
    exec (.laneDrop b l cyc) s = .next (((t.strand b n).unacked.filter fun u => u.lane == l).foldl (fun (t : State) u => t.retransmit b n u.seq) t)) ∧
  -- LANE_RESUME (R406)
  (∀ (b : Fin 4) (l : Fin 32) (cyc : Nat) (s : State),
    ((s.advance cyc).lane b l).txSusp = true →
    exec (.laneResume b l cyc) s = .next ((s.advance cyc).scheduleNext (.laneResume b l))) ∧
  -- LANE_SUSPEND_TIMEOUT (R406)
  (∀ (b : Fin 4) (l : Fin 32) (k : Nat) (s : State),
    (s.lane b l).suspended = some k →
    k + 64 ≤ s.clk.bnd →
    exec (.laneSuspendTimeout b l) s = .next (s.laneDown b l)) ∧
  -- IDENT_FRAME (R408, R374, R388)
  (∀ (b : Fin 4) (l : Fin 32) (z : Fin 16) (index : Fin 32) (pb : Fin 4) (pl : Fin 32) (admitted : Bool) (serial tx echo turn arrival : Word) (ex : List Nat) (s : State),
    (s.lane b l).link = .training →
    ex = (if echo = 0 ∧ turn = 0 then (s.lane b l).exchanges else ((s.lane b l).exchanges ++ [(arrival - echo - turn).toNat / 2]).take 64) →
    exec (.identFrame b l z index pb pl admitted serial (tx, echo) turn arrival) s = .next (((s.setLane b l { s.lane b l with peer := some ⟨z.val, index.val, pb.val, pl.val, serial, admitted⟩, exchanges := ex, delay := if ex.length = 64 then ex.sum / 64 % 65536 else (s.lane b l).delay }).admitLane b l ⟨z.val, index.val, pb.val, pl.val, serial, admitted⟩).sendIdent b l tx arrival)) ∧
  -- LANE_TRAINING_COMPLETE (R408, R503)
  (∀ (b : Fin 4) (l : Fin 32) (p : LanePeer) (s : State),
    (s.lane b l).link = .training →
    (s.lane b l).admitted = true →
    (s.lane b l).peer = some p →
    p.admitted = true →
    64 ≤ (s.lane b l).exchanges.length →
    s.link.on = false ∨ s.flt.deferred.contains .bootCount = false →
    exec (.laneTrainingComplete b l) s = .next (s.setLane b l { s.lane b l with upDue := true })) ∧
  -- LANE_TRAINING_TIMEOUT (R409)
  (∀ (b : Fin 4) (l : Fin 32) (cyc k : Nat) (s : State),
    ((s.advance cyc).lane b l).trainAt = some k →
    ((s.advance cyc).lane b l).link = .training →
    ((s.advance cyc).lane b l).upDue = false →
    k + 50000000 ≤ (s.advance cyc).now →
    exec (.laneTrainingTimeout b l cyc) s = .next ((s.advance cyc).trainFails b l)) ∧
  -- LANE_TRAINING_RETRY (R409)
  (∀ (b : Fin 4) (l : Fin 32) (cyc k : Nat) (s : State),
    ((s.advance cyc).lane b l).retryAt = some k →
    k ≤ (s.advance cyc).now →
    (s.advance cyc).laneAlive b l = true →
    exec (.laneTrainingRetry b l cyc) s = .next (((s.advance cyc).setLane b l { ((s.advance cyc).lane b l) with link := .training, trainAt := some (s.advance cyc).now, retryAt := none }).sendIdent b l 0 (BitVec.ofNat 32 (8 * (s.advance cyc).now)))) ∧
  -- LANE_RETRAIN (R410)
  (∀ (src : Source) (b : Fin 4) (l : Fin 32) (cyc : Nat) (s : State),
    (s.advance cyc).mayWrite src (bridleReg b Reg.BRD_LANE_CTL) = true →
    exec (.laneRetrain src b l cyc) s = .next ((s.advance cyc).schedule (.laneRetrain b l)))

/-- PERST_N asserted resets the endpoint and shows the link in reset; a loss of the data link without it resets the endpoint and shows the link down. PERST_N released shows the link training, and a link up in flit mode shows its width and speed. A function level reset orphans the function's LIVE counters, clears its window and its MSI-X entries and leaves its rings' disabling for the boundary; PCI_CNT_6 counts it. A whole access to BAR 0 with the link up writes or reads the register; any other is unsupported and counted. BAR 4 accesses the function's window under its job; BAR 2 reads and writes the doorbell page. A read of host memory unanswered for 10 ms, or aborted, raises PCI_READ_TIMEOUT to its job, is counted, and marks its move bad. -/
def Obligations.PciCommands : Prop :=
  -- PERST_ASSERT (R413)
  (∀ (t : State) (s : State),
    t = s.resetEndpoint.setPciLink 4 0 0 →
    exec .perstAssert s = .next { t with pci := { t.pci with perst := true } }) ∧
  -- PCIE_DL_DOWN (R413)
  (∀ (s : State),
    s.pci.perst = false →
    exec .pcieDlDown s = .next (s.resetEndpoint.setPciLink 0 0 0)) ∧
  -- PERST_DEASSERT (R413)
  (∀ (s : State),
    exec .perstDeassert s = .next (({ s with pci := { s.pci with perst := false } } : State).setPciLink 1 0 0)) ∧
  -- PCIE_LINK_UP (R413, R412)
  (∀ (width : Fin 17) (speed : Fin 7) (flit : Bool) (s : State),
    s.pci.perst = false →
    exec (.pcieLinkUp width speed flit) s = .next (if flit then s.setPciLink 2 width.val speed.val else s.setPciLink 3 0 0)) ∧
  -- FUNCTION_LEVEL_RESET (R414)
  (∀ (fn : Fin 64) (cyc : Nat) (t u : State) (s : State),
    t = ((((s.advance cyc).bump (Reg.PCI_CNT_n + 24) 1).orphanFunction fn.val).clearWindow fn.val) →
    u = ({ t with pci := { t.pci with msix := t.pci.msix.filter fun e => e.1 / 2048 != fn.val } } : State) →
    exec (.functionLevelReset fn cyc) s = .next (((List.range 64).filter fun n => u.ringFn n == some fn.val).foldl State.disableRing u)) ∧
  -- BAR0_ACCESS, a write (R415)
  (∀ (off : BitVec 28) (val : Word) (cyc : Nat) (s : State),
    (s.advance cyc).pciUp = true →
    exec (.bar0Access true off (some val) cyc) s = .next ((((s.advance cyc).bump Reg.PCI_CNT_n 1).writeReg (.pcie 0) off.toNat val).2)) ∧
  -- its read (R415)
  (∀ (off : BitVec 28) (cyc : Nat) (t : State) (s : State),
    (s.advance cyc).pciUp = true →
    t = (s.advance cyc).bump Reg.PCI_CNT_n 1 →
    exec (.bar0Access true off none cyc) s = .next ((t.readReg (.pcie 0) off.toNat).2.2.emit (.completion 0 .ok (natLe (t.readReg (.pcie 0) off.toNat).1.toNat 4) false))) ∧
  -- an access that is not a whole word (R415)
  (∀ (off : BitVec 28) (write : Option Word) (cyc : Nat) (t : State) (s : State),
    (s.advance cyc).pciUp = true →
    t = ((s.advance cyc).bump Reg.PCI_CNT_n 1).bump (Reg.PCI_CNT_n + 4) 1 →
    exec (.bar0Access false off write cyc) s = .next (if write.isSome then t else t.emit (.unsupported 0 off.toNat))) ∧
  -- BAR4_ACCESS (R416)
  (∀ (fn : Fin 64) (off : BitVec 36) (req : HostRequest) (cyc base : Nat) (t : State) (s : State),
    (s.advance cyc).pciUp = true →
    fn.val = 0 ∨ off.toNat < 2 ^ 32 →
    t = (s.advance cyc).bump Reg.PCI_CNT_n 1 →
    fn.val = 0 ∨ t.fnJob fn ≠ 0 →
    t.windowBase fn = some base →
    t.regionOf (base + off.toNat) (hostLength req) ≠ .hole →
    exec (.bar4Access fn off req cyc) s = .next (t.hostAccess fn (engineAccess (t.fnJob fn) blkPCI) (base + off.toNat) req)) ∧
  -- BAR2_RING_DOORBELL (R417, R414)
  (∀ (fn : Fin 64) (off : BitVec 18) (val : Word) (cyc : Nat) (t : State) (s : State),
    (s.advance cyc).pciUp = true →
    t = (s.advance cyc).bump Reg.PCI_CNT_n 1 →
    fn.val = 0 ∨ t.fnJob fn ≠ 0 →
    exec (.bar2RingDoorbell fn off (some val) cyc) s = .next (t.bar2Write fn off.toNat val)) ∧
  -- its read (R417, R414)
  (∀ (fn : Fin 64) (off : BitVec 18) (cyc : Nat) (t : State) (s : State),
    (s.advance cyc).pciUp = true →
    t = (s.advance cyc).bump Reg.PCI_CNT_n 1 →
    exec (.bar2RingDoorbell fn off none cyc) s = .next (t.emit (.completion fn .ok (natLe (t.bar2Read fn off.toNat).toNat 4) false))) ∧
  -- HOST_READ_TIMEOUT (R419)
  (∀ (id : Nat) (aborted : Bool) (cyc : Nat) (r : HostRead) (t : State) (s : State),
    ((s.advance cyc).pci.reads.find? fun r => r.id == id) = some r →
    aborted = true ∨ r.sent + 10000000 ≤ (s.advance cyc).now →
    t = (((s.advance cyc).endHostRead r.stall).raiseTo Flt.PCI_READ_TIMEOUT blkPCI r.job (r.addr % 2 ^ 32)).bump (Reg.PCI_CNT_n + 20) 1 →
    exec (.hostReadTimeout id aborted cyc) s = .next (t.modifyStall r.stall fun x => { x with move := x.move.map fun m => { m with bad := true } }))

/-- With the standby supply and no fail-over under way, an I3C write sets the register offset, a read gives the register at it and moves it by a word, and a write of a register that I3C may write does so; anything else is answered NACK. The UART reads and writes registers as its source may, and shows the last records of the event log at debug level 1 or above, each with its sequence number. At debug level 2 JTAG reads and writes module memory as the security unit under job 0, and halts, resumes and steps a Groom. -/
def Obligations.ManagementCommands : Prop :=
  -- I3C_OFFSET_WRITE (R420, R467)
  (∀ (off : Word) (s : State),
    s.sup.vstby = true →
    s.groom.overlap = false →
    exec (.i3cOffsetWrite off) s = .next { s with mgmt := { s.mgmt with offset := off } }) ∧
  -- I3C_REGISTER_READ (R420)
  (∀ (t : State) (s : State),
    s.sup.vstby = true →
    s.groom.overlap = false →
    s.mgmt.offset.toNat % 4 = 0 →
    t = (s.readReg .i3c s.mgmt.offset.toNat).2.2 →
    exec .i3cRegisterRead s = .next (({ t with mgmt := { t.mgmt with offset := s.mgmt.offset + 4 } } : State).emit (.regData .i3c s.mgmt.offset.toNat (s.readReg .i3c s.mgmt.offset.toNat).1))) ∧
  -- I3C_REGISTER_WRITE (R420, R494)
  (∀ (off val : Word) (cyc : Nat) (s : State),
    (s.advance cyc).sup.vstby = true →
    (s.advance cyc).groom.overlap = false →
    off.toNat % 4 = 0 →
    (s.advance cyc).mayWrite .i3c off.toNat = true →
    exec (.i3cRegisterWrite off val cyc) s = .next ((s.advance cyc).writeReg .i3c off.toNat val).2) ∧
  -- a write that I3C may not make (R420, R494)
  (∀ (off val : Word) (cyc : Nat) (s : State),
    (s.advance cyc).sup.vstby = true →
    (s.advance cyc).groom.overlap = true ∨ off.toNat % 4 ≠ 0 ∨ (s.advance cyc).mayWrite .i3c off.toNat = false →
    exec (.i3cRegisterWrite off val cyc) s = .next ((s.advance cyc).emit (.nack .i3c off.toNat))) ∧
  -- UART_READ_COMMAND (R494)
  (∀ (off : Word) (s : State),
    s.sup.vstby = true →
    s.mayRead .uart off.toNat = true →
    exec (.uartReadCommand off) s = .next ((s.readReg .uart off.toNat).2.2.emit (.regData .uart off.toNat (s.readReg .uart off.toNat).1))) ∧
  -- UART_LOG_COMMAND (R494)
  (∀ (count : Word) (s : State),
    s.sup.vstby = true →
    1 ≤ s.debugLevel →
    (let l := s.flt.log
     let shown := (l.drop (l.length - count.toNat)).zipIdx (l.length - min l.length count.toNat)
     exec (.uartLogCommand count) s = .next { s with out := s.out ++ shown.map fun r => .console (s.flt.written - BitVec.ofNat 32 (l.length - r.2)) r.1 })) ∧
  -- UART_WRITE_COMMAND (R494)
  (∀ (off val : Word) (cyc : Nat) (s : State),
    (s.advance cyc).sup.vstby = true →
    exec (.uartWriteCommand off val cyc) s = .next ((s.advance cyc).writeReg .uart off.toNat val).2) ∧
  -- JTAG_MEMORY_ACCESS (R491)
  (∀ (a : BitVec 44) (n : Nat) (bs : List (BitVec 8)) (g : Fin 2) (s : State),
    s.debugLevel = 2 →
    (exec (.jtagMemoryAccess (.read a n)) s = .next ((s.load (engineAccess 0 blkSEC) a.toNat n).2.2.emit (.jtag (s.load (engineAccess 0 blkSEC) a.toNat n).2.1 (s.load (engineAccess 0 blkSEC) a.toNat n).1))) ∧
      exec (.jtagMemoryAccess (.write a bs)) s = .next ((s.store (engineAccess 0 blkSEC) a.toNat bs).2.emit (.jtag (s.store (engineAccess 0 blkSEC) a.toNat bs).1 [])) ∧
      exec (.jtagMemoryAccess (.halt g)) s = .next (s.setHalt g true) ∧ exec (.jtagMemoryAccess (.resume g)) s = .next (s.setHalt g false) ∧
      exec (.jtagMemoryAccess (.step g)) s = .next (s.setHalt g true))

/-- A module start that may begin, of a module with keys whose image slots both verify, boots the slot of the higher version (slot A at equal ones) with the Grooms present and starts the units; of a blank module it stops at phase 9. A unit the start waits for that times out is logged and fails, and the start goes on. A firmware block of a core that starts is checked and entered in the core's map, and the complete image is installed. The repair check repairs every core that starts without its firmware. A rollback commit of a ready module with a higher image index writes the rollback counter, or is deferred while the flash is out of range. A clear of the fail list takes effect at the next start. A partial reset of the Reckoners of a mask is left for the boundary. A Reckoner that has not restarted in 50 ms fails. -/
def Obligations.BringUpCommands : Prop :=
  -- MODULE_START (R424, R422)
  (∀ (r : StartReport) (b : Bool) (x : SlotReport) (t u : State) (s : State),
    s.mayStart = true →
    s.groom.phase ≠ 3 →
    t = (s.fresh.latchStraps r).leaveReset r →
    t.sec.lifecycle ≠ 0 →
    t.slotVerifies r.slotA = true →
    t.slotVerifies r.slotB = true →
    r.groom0 = true ∨ r.groom1 = true →
    (b, x) = (if r.slotA.version < r.slotB.version then (true, r.slotB) else (false, r.slotA)) →
    u = t.bootGrooms r.groom0 r.groom1 b x false →
    u.startHeld = false →
    r.faulty = false →
    exec (.moduleStart r) s = .next (u.startUnits r)) ∧
  -- that of a blank module (R424, R422)
  (∀ (r : StartReport) (t : State) (s : State),
    s.mayStart = true →
    s.groom.phase ≠ 3 →
    t = (s.fresh.latchStraps r).leaveReset r →
    t.sec.lifecycle = 0 →
    exec (.moduleStart r) s = .next (t.startPhase 9)) ∧
  -- START_STEP_TIMEOUT (R425)
  (∀ (unit : UnitId) (s : State),
    s.groom.waiting.contains unit = true →
    exec (.startStepTimeout unit) s = .next (((s.logFault Flt.GRM_STEP_TIMEOUT blkGRM (unitBlock unit).toNat).startFails unit).stepDone unit)) ∧
  -- FIRMWARE_BLOCK_RECEIVED (R442)
  (∀ (c : CoreId) (b : Fin 256) (bs : List Byte) (good : Bool) (s : State),
    (s.unit (.core c)).st = .starting →
    (s.core c).load ≠ .loaded →
    bs = s.stagedBlock c b.val →
    good = decide (crc32c (bs.take 28 ++ bs.drop 32) = (wordsOf (bs.take 32)).getD 7 0 ∧ ((wordsOf (bs.take 32)).getD 0 0).field 7 0 = b.val) →
    (let k := { s.core c with load := .receiving }
     let m := { k with fwMap := k.fwMap ||| 2 ^ b.val, fwLast := ((wordsOf (bs.take 32)).getD 1 0).field 7 0 }
     exec (.firmwareBlockReceived c b) s = .next (if good then (if m.fwComplete then (s.setCore c m).installFirmware c else s.setCore c m) else s.setCore c k))) ∧
  -- FIRMWARE_REPAIR_CHECK (R443)
  (∀ (r : Fin 8) (image : List (List Byte)) (s : State),
    exec (.firmwareRepairCheck r image) s = .next (((dieCores r).filter fun c => (s.unit (.core c)).st == .starting && (s.core c).load != .loaded).foldl (fun (t : State) c => t.repairCore image c) s)) ∧
  -- ROLLBACK_COMMIT (R428)
  (∀ (src : Source) (s : State),
    s.mayWrite src (Reg.GRM_IMG_CTL) = true →
    s.groom.ready = true →
    s.groom.rollback < s.groom.outIndex →
    exec (.rollbackCommit src) s = .next (if s.logInRange && s.flt.deferred.isEmpty then { s with groom := { s.groom with rollback := s.groom.outIndex } } else s.defer (.rollback s.groom.outIndex))) ∧
  -- FIELD_FAIL_LIST_CLEAR (R440)
  (∀ (src : Source) (s : State),
    s.mayWrite src (Reg.GRM_YIELD_CTL) = true →
    exec (.fieldFailListClear src) s = .next { s with groom := { s.groom with clearList := true } }) ∧
  -- RECKONER_PARTIAL_RESET (R446)
  (∀ (src : Source) (val : Word) (cyc : Nat) (t : State) (s : State),
    t = s.advance cyc →
    t.mayWrite src (Reg.GRM_RST_CTL) = true →
    val.bit 30 = false →
    val.field 7 0 ≠ 0 →
    t.groom.ready = true →
    (t.dies.any fun d => d.2.resetting && d.2.zeroiseReset != val.bit 31) = false →
    exec (.reckonerPartialReset src val cyc) s = .next (((allFin 8).foldl (fun (u : State) r => if (val.field 7 0).testBit r.val then u.setDie r { u.die r with resetting := true, zeroiseReset := val.bit 31 } else u)
      (t.setRegF Reg.GRM_RST_CTL 31 31 (bitOf (val.bit 31)))).schedule (.reckonerReset (val.field 7 0) (val.bit 31)))) ∧
  -- RECKONER_RESTART_TIMEOUT (R448)
  (∀ (r : Fin 8) (cyc k : Nat) (s : State),
    ((s.advance cyc).die r).restartAt = some k →
    k + restartLimit ≤ (s.advance cyc).now →
    ((s.advance cyc).unit (.reckoner r)).st = .starting →
    exec (.reckonerRestartTimeout r cyc) s = .next ((s.advance cyc).reckonerFails r true))

/-- A lane that fails in a bundle with a spare lane left is swapped at the next boundary; without one it is logged once as RKN_LANE_NOSPARE. A bundle that fails takes down what it carries. A core that fails in service is halted, logged and fails; once it is OFF, a hot spare of its die, of its half if there is one, is taken into service at the next boundary for its jobs, or, with the Farrier off, only noted; without a spare GRM_CORE_LOST goes to each of its jobs. The periodic check takes the next spare of a die, clears its scratch and fails it on a bad code. A field or Reckoner that fails in service fails as a unit, a Reckoner's jobs being told GRM_RKN_LOST. -/
def Obligations.FarrierCommands : Prop :=
  -- LANE_SPARE_SWAP (R319)
  (∀ (r : Fin 8) (cls : Fin 6) (bundle : Fin 1664) (lane : Fin 68) (spare : BitVec 4) (key x : Nat) (s : State),
    bundle.val < bundleCount cls.val →
    key = bundleKey r.val cls.val bundle.val →
    s.laneWorks key lane.val = true →
    ((s.lanesDue key).any fun x => x.1 == lane.val) = false →
    s.laneSpare key spare = some x →
    exec (.laneSpareSwap r cls bundle lane spare) s = .next (s.scheduleNext (.bundleLane key lane.val x))) ∧
  -- one without a spare (R319)
  (∀ (r : Fin 8) (cls : Fin 6) (bundle : Fin 1664) (lane : Fin 68) (spare : BitVec 4) (key : Nat) (s : State),
    bundle.val < bundleCount cls.val →
    key = bundleKey r.val cls.val bundle.val →
    s.laneWorks key lane.val = true →
    ((s.lanesDue key).any fun x => x.1 == lane.val) = false →
    s.laneSpare key spare = none →
    s.groom.noSpare.contains (key * 128 + lane.val) = false →
    exec (.laneSpareSwap r cls bundle lane spare) s = .next (({ s with groom := { s.groom with noSpare := (key * 128 + lane.val) :: s.groom.noSpare } } : State).logFault Flt.RKN_LANE_NOSPARE (blkRKN r.val) (laneWord key lane.val))) ∧
  -- BUNDLE_FAIL (R320)
  (∀ (r : Fin 8) (cls : Fin 6) (bundle : Fin 1664) (s : State),
    bundle.val < bundleCount cls.val →
    exec (.bundleFail r cls bundle) s = .next (s.bundleFails r cls.val bundle.val)) ∧
  -- CORE_FAIL_IN_SERVICE (R456)
  (∀ (c : CoreId) (cause : CoreFault) (n code : Nat) (t : State) (s : State),
    (cause = .controlStore ∧ n = 1 ∧ code = 8) ∨ (cause = .scratch ∧ n = 2 ∧ code = 9) ∨ (cause = .ownerBundle ∧ n = 3 ∧ code = 10) →
    (s.unit (.core c)).failed = false →
    (s.unit (.core c)).st ≠ .off →
    t = (s.haltCore c).logFault Flt.RKN_CORE_FAIL (coreBlock c 0) (putBits 26 16 c.gid + n) →
    exec (.coreFailInService c cause) s = .next ((t.setCore c { t.core c with failCode := code, owes := if (t.core c).selected then some (c.gid, s.coreJobs c) else none }).failUnit (.core c) false)) ∧
  -- FARRIER_CORE_SUBSTITUTION (R457, R458)
  (∀ (c x : CoreId) (gid : Nat) (jobs : List Nat) (t : State) (s : State),
    (s.core c).owes = some (gid, jobs) →
    (s.unit (.core c)).st = .off →
    t = s.setCore c { s.core c with owes := none } →
    t.chooseSpare c = some x →
    t.farrier 0 = true →
    (let u := t.setCore x { t.core x with subst := some (gid, jobs) }
     exec (.farrierCoreSubstitution c) s = .next ((u.setUnit (.core x) { u.unit (.core x) with barred := false, enable := true }).scheduleNext (.unitEnable (.core x))))) ∧
  -- a core without a spare (R457, R458)
  (∀ (c : CoreId) (gid : Nat) (jobs : List Nat) (t : State) (s : State),
    (s.core c).owes = some (gid, jobs) →
    (s.unit (.core c)).st = .off →
    t = s.setCore c { s.core c with owes := none } →
    t.chooseSpare c = none →
    exec (.farrierCoreSubstitution c) s = .next (jobs.foldl (fun (u : State) j => u.raiseTo Flt.GRM_CORE_LOST blkGRM j (putBits 26 16 gid + 0x7FF)) ((t.noteFarrier 0 gid 0x7FF).farCount 1))) ∧
  -- SPARE_PERIODIC_CHECK (R459, R433)
  (∀ (r : Fin 8) (code : Fin 3) (g : Nat) (c : CoreId) (t : State) (s : State),
    ((s.hotSpares r).find? fun g => decide (s.groom.checkNext.getD r.val 0 ≤ g)) = some g →
    coreOf g = some c →
    s.groom.lastCheck.getD r.val 0 + 2 ^ 22 ≤ s.clk.bnd →
    t = ({ s with groom := { s.groom with lastCheck := s.groom.lastCheck.put r.val s.clk.bnd, checkNext := s.groom.checkNext.put r.val (c.gid + 1) } } : State).zeroRange (scratchAddr c 0) 0x180000 →
    exec (.sparePeriodicCheck r code) s = .next (if code = 0 then t else t.coreFails c 4 code.val)) ∧
  -- FIELD_FAIL_IN_SERVICE (R460)
  (∀ (r : Fin 8) (east : Bool) (s : State),
    (s.unit (.field r east)).failed = false →
    (s.unit (.field r east)).st ≠ .off →
    exec (.fieldFailInService r east) s = .next (s.failUnit (.field r east) true)) ∧
  -- RECKONER_FAIL (R460, R320)
  (∀ (r : Fin 8) (s : State),
    (s.unit (.reckoner r)).st ≠ .off →
    (s.unit (.reckoner r)).failed = false →
    exec (.reckonerFail r) s = .next ((((s.reckonerJobs r).foldl (fun (t : State) j => t.raiseTo Flt.GRM_RKN_LOST blkGRM j r.val) s).farCount 4).failUnit (.reckoner r) false))

/-- A module that fail-stops turns its units off, asserts ALERT_N, logs GRM_MODULE_FATAL and is of grade FATAL. A gate action of an epoch no older than the gate's and of a number not yet applied is entered in the journal, the highest number kept, and performs its register write. When the active Groom fails with a standby, the standby takes over with the next epoch, GRM_SWITCHOVER is logged and counted, and the failed one is restarted; of a dual pair the other goes on alone; without another the module fail-stops. A planned switch with a standby is left for the boundary. A standby that falls silent is logged and restarted. A restart that completes is entered; one that fails is tried again. -/
def Obligations.GroomCommands : Prop :=
  -- MODULE_FAIL_STOP (R451, R450)
  (∀ (block : Word) (t : State) (s : State),
    s.groom.fatal = false →
    t = ({ s.unitsOff with groom := { s.unitsOff.groom with fatal := true, alert := true } } : State) →
    exec (.moduleFailStop block) s = .next (t.logFault Flt.GRM_MODULE_FATAL blkGRM block.toNat).updateGrade) ∧
  -- GATE_ACTION (R464)
  (∀ (g : Fin 2) (epoch : BitVec 8) (seq : BitVec 64) (off : BitVec 28) (val : Word) (cyc : Nat) (t : State) (s : State),
    t = s.advance cyc →
    t.sup.vstby = true →
    epochOlder t.groom.epoch epoch = false →
    t.groom.journal.contains seq.toNat = false →
    (let u : State := { t with groom := { t.groom with journal := seq.toNat :: t.groom.journal, seq := if t.groom.seq.toNat < seq.toNat then seq else t.groom.seq } }
     exec (.gateAction g epoch seq off val cyc) s = .next (u.writeReg (.groom g) off.toNat val).2)) ∧
  -- GROOM_HEARTBEAT_TIMEOUT and GROOM_SELF_FAULT with a standby (R466)
  (∀ (g : Fin 2) (t : State) (s : State),
    s.role g = .active →
    s.role (otherGroom g) = .standby →
    t = s.setRole (otherGroom g) .active →
    (let u : State := { t with groom := { t.groom with active := decide (otherGroom g = 1), epoch := t.groom.epoch + 1, switchovers := min (t.groom.switchovers + 1) 65535, overlap := true } }
     exec (.groomHeartbeatTimeout g) s = .next (((u.logFault Flt.GRM_SWITCHOVER blkGRM 0).farCount 5).groomLost g) ∧
     exec (.groomSelfFault g) s = .next (((u.logFault Flt.GRM_SWITCHOVER blkGRM 0).farCount 5).groomLost g))) ∧
  -- of a dual pair (R466)
  (∀ (g : Fin 2) (t : State) (s : State),
    s.role g = .dual →
    s.role (otherGroom g) = .dual →
    t = s.setRole (otherGroom g) .active →
    exec (.groomHeartbeatTimeout g) s = .next (({ t with groom := { t.groom with active := decide (otherGroom g = 1) } } : State).groomLost g) ∧
      exec (.groomSelfFault g) s = .next (({ t with groom := { t.groom with active := decide (otherGroom g = 1) } } : State).groomLost g)) ∧
  -- without another (R466)
  (∀ (g : Fin 2) (s : State),
    s.role g = .active ∨ s.role g = .dual →
    s.role (otherGroom g) = .absent →
    exec (.groomHeartbeatTimeout g) s = .next ((s.setRole g .absent).moduleFatal blkGRM) ∧ exec (.groomSelfFault g) s = .next ((s.setRole g .absent).moduleFatal blkGRM)) ∧
  -- GROOM_PLANNED_SWITCH (R468, R471)
  (∀ (src : Source) (cyc : Nat) (t : State) (s : State),
    t = s.advance cyc →
    t.mayWrite src (Reg.GRM_PAIR_CTL) = true →
    t.groom.role0 = .standby ∨ t.groom.role1 = .standby →
    exec (.groomPlannedSwitch src cyc) s = .next (t.schedule .groomSwitch)) ∧
  -- STANDBY_HEALTH_TIMEOUT (R469)
  (∀ (g : Fin 2) (s : State),
    s.role g = .standby →
    exec (.standbyHealthTimeout g) s = .next ((s.logFault Flt.GRM_STANDBY_LOST blkGRM 0).groomLost g)) ∧
  -- GROOM_RESTART_COMPLETE (R469)
  (∀ (g : Fin 2) (s : State),
    s.restarting g = 1 →
    exec (.groomRestartComplete g true) s = .next (s.setRestarting g 2) ∧ exec (.groomRestartComplete g false) s = .next (s.restartGroom g))

/-- A sample of a sensor that exists and is good is taken. A sensor that reads below -40 °C or above 150 °C, or more than 20 °C from both neighbours, is BAD, logged and counted; one of a converter or a loop then stands at its throttle temperature. A rate level held calm for its time falls by one. A die that has been cool for its time is no longer shut down and its Reckoner may come back. A reading 5 °C above shutdown asserts THERMTRIP_N: units off, converters open, the next start held. Deferred records are written once the flash is in range. A power sample is kept, and one above 3,600 W begins the emergency hold, which ends at its boundary. While the average is above the limit the throttle rises by 5 to at most 75, logging the first time; below 95% it falls by 5. -/
def Obligations.ThermalCommands : Prop :=
  -- SENSOR_SAMPLE (R473)
  (∀ (cls : Fin 9) (index : BitVec 12) (reading : BitVec 16) (s : State),
    sensorExists cls.val index.toNat = true →
    (s.sensor (sensorKey cls.val index.toNat)).bad = false →
    exec (.sensorSample cls index reading) s = .next (s.setSensor (sensorKey cls.val index.toNat) { s.sensor (sensorKey cls.val index.toNat) with temp := reading.toInt })) ∧
  -- SENSOR_BAD (R474)
  (∀ (cls : Fin 9) (index near0 near1 : BitVec 12) (v : Sensor) (s : State),
    v = s.sensor (sensorKey cls.val index.toNat) →
    sensorExists cls.val index.toNat = true →
    v.bad = false →
    cls.val < 7 →
    v.temp < -640 ∨ 2400 < v.temp ∨ (320 < (v.temp - (s.sensor (sensorKey cls.val near0.toNat)).temp).natAbs ∧ 320 < (v.temp - (s.sensor (sensorKey cls.val near1.toNat)).temp).natAbs) →
    exec (.sensorBad cls index near0 near1) s = .next (((s.setSensor (sensorKey cls.val index.toNat) { v with bad := true, near := [sensorKey cls.val near0.toNat, sensorKey cls.val near1.toNat] }).logFault Flt.THM_SENSOR_BAD blkTHM (sensorWord (sensorKey cls.val index.toNat) v.temp)).bump (Reg.THM_CNT_n + 20) 1)) ∧
  -- one of the other classes (R474)
  (∀ (cls : Fin 9) (index near0 near1 : BitVec 12) (s : State),
    sensorExists cls.val index.toNat = true →
    (s.sensor (sensorKey cls.val index.toNat)).bad = false →
    7 ≤ cls.val →
    exec (.sensorBad cls index near0 near1) s = .next (s.setSensor (sensorKey cls.val index.toNat) { s.sensor (sensorKey cls.val index.toNat) with temp := throttleAt cls.val * 16 })) ∧
  -- RATE_LEVEL_HOLD_EXPIRY (R478)
  (∀ (r : Fin 8) (s : State),
    (s.rate r).level ≠ 0 →
    977 ≤ (s.rate r).calm →
    exec (.rateLevelHoldExpiry r) s = .next (s.setRate r { s.rate r with level := (s.rate r).level - 1, calm := 0 })) ∧
  -- SHUTDOWN_COOLDOWN_COMPLETE (R479)
  (∀ (r : Fin 8) (t u : State) (s : State),
    r.val ∈ s.therm.shut →
    977 ≤ s.therm.cool.getD r.val 0 →
    t = ({ s with therm := { s.therm with shut := s.therm.shut.erase r.val, cool := s.therm.cool.drop r.val } } : State) →
    u = t.setUnit (.reckoner r) { t.unit (.reckoner r) with failed := false } →
    exec (.shutdownCooldownComplete r) s = .next (if (u.unit (.reckoner r)).st = .off then u.failedReckonerOff r else u)) ∧
  -- THERMTRIP (R480)
  (∀ (cls : Fin 7) (index : BitVec 12) (t : State) (s : State),
    sensorExists cls.val index.toNat = true →
    (shutdownAt cls.val + 5) * 16 ≤ (s.sensor (sensorKey cls.val index.toNat)).temp →
    s.therm.trip = false →
    t = s.unitsOff →
    exec (.thermtrip cls index) s = .next { t with therm := { t.therm with trip := true, hold := true }, sup := { t.sup with open_ := true }, groom := { t.groom with ready := false } }) ∧
  -- DEFERRED_RECORD_FLUSH (R482)
  (∀ (s : State),
    977 ≤ s.therm.inRange →
    exec .deferredRecordFlush s = .next (s.flt.deferred.foldl (fun (t : State) d => t.makeDeferred d) s.clearDeferred)) ∧
  -- POWER_SAMPLE (R484)
  (∀ (a b : BitVec 16) (s : State),
    exec (.powerSample a b) s = .next { s with power := { s.power with avg10ms := a.toNat, avg1s := b.toNat, emergency := if 3600 < a.toNat then some (s.clk.bnd + 978) else s.power.emergency } }) ∧
  -- POWER_THROTTLE_STEP (R484)
  (∀ (t : State) (s : State),
    977 ≤ s.power.sinceStep →
    s.powerLimit < s.power.avg1s →
    t = ({ s with power := { s.power with throttle := min 75 (s.power.throttle + 5), sinceStep := 0, hitLogged := true } } : State) →
    exec .powerThrottleStep s = .next (if s.power.hitLogged then t else t.logFault Flt.PWR_LIMIT_HIT blkPWR s.power.avg1s)) ∧
  -- a step down (R484)
  (∀ (s : State),
    977 ≤ s.power.sinceStep →
    s.power.avg1s ≤ s.powerLimit →
    s.power.avg1s * 100 < s.powerLimit * 95 →
    exec .powerThrottleStep s = .next { s with power := { s.power with throttle := s.power.throttle - 5, sinceStep := 0, hitLogged := s.power.hitLogged && decide (5 < s.power.throttle) } }) ∧
  -- POWER_EMERGENCY_HOLD_EXPIRY (R484)
  (∀ (b : Nat) (s : State),
    s.power.emergency = some b →
    b ≤ s.clk.bnd →
    exec .powerEmergencyHoldExpiry s = .next { s with power := { s.power with emergency := none } })

/-- A write of a power target 0 to 4 is kept and left for the boundary; one above is refused. A step toward the target that is complete enters its state and the next begins. The loss of VIN_48 or of an analogue or I/O rail clears that supply and takes the module down as the manual says. The loss of VLAS_12 turns the cartridges off and every one that was ON leaves its planes without light; its return starts those enabled. The loss of VSTBY stops everything and empties the key store; its return asks for a module start. MOD_RESET_N asserted turns the units off and clears THERMTRIP once all sensors are 10 °C below shutdown. -/
def Obligations.PowerAndSupplyCommands : Prop :=
  -- POWER_STATE_TARGET (R486, R488)
  (∀ (src : Source) (val : Word) (cyc : Nat) (t : State) (s : State),
    t = s.advance cyc →
    t.mayWrite src (Reg.PWR_STATE_CTL) = true →
    exec (.powerStateTarget src val cyc) s = .next (if 4 < val.field 2 0 then { t with power := { t.power with refused := true } } else (t.setReg Reg.PWR_STATE_CTL (BitVec.ofNat 32 (val.field 2 0))).schedule (.powerTarget (val.field 2 0)))) ∧
  -- POWER_STATE_STEP_COMPLETE (R486)
  (∀ (n : Nat) (s : State),
    s.power.moving = some n →
    s.moveReady n = true →
    exec .powerStateStepComplete s = .next ((({ s with power := { s.power with state := n, moving := none } } : State).enterPower n).moveOn)) ∧
  -- VIN48_LOSS (R536, R533)
  (∀ (s : State),
    exec .vin48Loss s = .next ({ s with sup := { s.sup with vin48 := false } } : State).supplyLost) ∧
  -- ANALOG_RAIL_LOSS (R536, R531)
  (∀ (s : State),
    exec (.analogRailLoss true) s = .next ((({ s with sup := { s.sup with vio := false } } : State).setLink 0).supplyLost) ∧ exec (.analogRailLoss false) s = .next ({ s with sup := { s.sup with vana := false } } : State).supplyLost) ∧
  -- VLAS12_LOSS (R536)
  (∀ (s : State),
    exec .vlas12Loss s = .next (((allFin 8).filter fun k => s.isOn (.cartridge k)).foldl (fun (t : State) k => t.cartUnfed k)
      ((allFin 8).foldl (fun (t : State) k => t.setUnit (.cartridge k) { t.unit (.cartridge k) with st := .off, rp := false, done := false, disable := false, cancel := false }) { s with sup := { s.sup with vlas := false } }))) ∧
  -- VLAS12_RETURN (R536, R287)
  (∀ (s : State),
    s.sup.vlas = false →
    exec .vlas12Return s = .next ((allFin 8).foldl (fun (t : State) k => if (t.unit (.cartridge k)).enable then t.scheduleNext (.unitEnable (.cartridge k)) else t) { s with sup := { s.sup with vlas := true } })) ∧
  -- VSTBY_LOSS (R536)
  (∀ (t : State) (s : State),
    t = s.unitsOff →
    exec .vstbyLoss s = .next (({ t with sup := { t.sup with vstby := false, open_ := true }, flt := { t.flt with deferred := [], flight := [] }, sec := { t.sec with slots := [] }, groom := { t.groom with ready := false, phase := 0 } } : State).setLink 0)) ∧
  -- VSTBY_RETURN (R422)
  (∀ (s : State),
    s.sup.vstby = false →
    exec .vstbyReturn s = .next { s with sup := { s.sup with vstby := true, stuck := false, startDue := true } }) ∧
  -- MOD_RESET_ASSERT (R536, R480)
  (∀ (t : State) (s : State),
    t = s.unitsOff →
    exec .modResetAssert s = .next { t with sup := { t.sup with modReset := true, stuck := false, startDue := false }, therm := { t.therm with trip := t.therm.trip && !(t.therm.sensors.all fun e => decide (e.2.temp < (shutdownAt (e.1 / 4096) - 10) * 16)) }, groom := { t.groom with ready := false, phase := 0 } })

/-- CHALLENGE, not locked out and with a key that authorises it, offers a block of a nonce (a free value), the serial, what is asked and the boot count, for 2^20 boundaries. SUBMIT in its time verifies what was written to the data port: a good signature grants what was asked, any other counts as a failure. REVOKE below the present level lowers it. PROVISION of a blank module with its 25 words leaves the fuse write; its key is a free value. PUBKEY offers the public half of the device key. A read of the data port takes its oldest word, a write adds one. A challenge and a lockout end at their boundary. A zeroisation whose Reckoners are zeroed zeroises the stores and memory and, with no stack in doubt, ends at the next boundary; with one, it waits for it. -/
def Obligations.DebugCommands : Prop :=
  -- DEBUG_CHALLENGE (R492)
  (∀ (src : Source) (val : Word) (w : Word) (t : State) (s : State),
    s.mayWrite src (Reg.SEC_DBG_CTL) = true →
    w = val.setField 24 22 1 →
    t = s.setReg Reg.SEC_DBG_CTL (w &&& 0x3E000000) →
    t.lockedOut = false →
    (t.keyFor w).isNone = false →
    exec (.debugChallenge src val) s = .next ({ t.nonce.2 with sec := { t.nonce.2.sec with challenge := some (t.nonce.1 ++ [t.nonce.2.sec.serial, BitVec.ofNat 32 (putBits 29 25 (w.field 29 25)), t.nonce.2.groom.boot, 0], t.nonce.2.clk.bnd + 2 ^ 20), request := w, readFifo := t.nonce.1 ++ [t.nonce.2.sec.serial, BitVec.ofNat 32 (putBits 29 25 (w.field 29 25)), t.nonce.2.groom.boot, 0], writeFifo := [], dbgStatus := 0 } })) ∧
  -- DEBUG_SUBMIT (R492)
  (∀ (src : Source) (val : Word) (cyc : Nat) (block : List Word) (u : Nat) (hash : List Word) (w : Word) (t : State) (s : State),
    (s.advance cyc).mayWrite src (Reg.SEC_DBG_CTL) = true →
    w = val.setField 24 22 2 →
    t = (s.advance cyc).setReg Reg.SEC_DBG_CTL (w &&& 0x3E000000) →
    t.sec.challenge = some (block, u) →
    t.clk.bnd < u →
    t.keyFor t.sec.request = some hash →
    exec (.debugSubmit src val cyc) s = .next (if submissionGood hash block (t.sec.writeFifo.take 49) then t.submitGood t.sec.request else t.submitFails)) ∧
  -- DEBUG_REVOKE (R493)
  (∀ (src : Source) (val : Word) (w : Word) (t : State) (s : State),
    s.mayWrite src (Reg.SEC_DBG_CTL) = true →
    w = val.setField 24 22 3 →
    t = s.setReg Reg.SEC_DBG_CTL (w &&& 0x3E000000) →
    t.sec.lifecycle ≠ 0 →
    t.sec.zeroising = false →
    w.field 29 28 < t.sec.level →
    exec (.debugRevoke src val) s = .next (({ t with sec := { t.sec with level := w.field 29 28 } } : State).setStatus 0)) ∧
  -- PROVISION (R489)
  (∀ (src : Source) (val : Word) (w : Word) (t : State) (s : State),
    s.mayWrite src (Reg.SEC_DBG_CTL) = true →
    w = val.setField 24 22 4 →
    t = s.setReg Reg.SEC_DBG_CTL (w &&& 0x3E000000) →
    t.sec.lifecycle = 0 →
    t.sec.otp = 0 →
    25 ≤ t.sec.writeFifo.length →
    exec (.provision src val) s = .next (({ t.takeFree.2 with sec := { t.takeFree.2.sec with writeFifo := [], lcPending := true, lcTarget := 1, dbgStatus := 0 } } : State).fuseWrite
      (.provision (t.sec.writeFifo.take 12) ((t.sec.writeFifo.drop 12).take 12) (t.sec.writeFifo.getD 24 0) (1 + t.takeFree.1 % (p384N - 1))))) ∧
  -- PUBKEY (R499)
  (∀ (src : Source) (val : Word) (w : Word) (t : State) (s : State),
    s.mayWrite src (Reg.SEC_DBG_CTL) = true →
    w = val.setField 24 22 5 →
    t = s.setReg Reg.SEC_DBG_CTL (w &&& 0x3E000000) →
    exec (.pubkey src val) s = .next ({ t with sec := { t.sec with readFifo := wordsOf (writePoint (publicKey t.sec.deviceKey) ++ [0, 0, 0]), dbgStatus := 0 } })) ∧
  -- AUTH_DATA_READ (R492)
  (∀ (src : Source) (w : Word) (rest : List Word) (s : State),
    s.mayRead src Reg.SEC_AUTH_DATA = true →
    s.sec.readFifo = w :: rest →
    exec (.authDataRead src) s = .next (({ s with sec := { s.sec with readFifo := rest } } : State).emit (.regData src Reg.SEC_AUTH_DATA w))) ∧
  -- with nothing to read (R492)
  (∀ (src : Source) (s : State),
    s.mayRead src Reg.SEC_AUTH_DATA = true →
    s.sec.readFifo = [] →
    exec (.authDataRead src) s = .next (s.emit (.regData src Reg.SEC_AUTH_DATA (s.reg Reg.SEC_AUTH_DATA)))) ∧
  -- AUTH_DATA_WRITE (R492)
  (∀ (src : Source) (val : Word) (s : State),
    s.mayWrite src (Reg.SEC_AUTH_DATA) = true →
    exec (.authDataWrite src val) s = .next { s.setReg Reg.SEC_AUTH_DATA val with sec := { s.sec with writeFifo := s.sec.writeFifo ++ [val] } }) ∧
  -- CHALLENGE_EXPIRY (R492)
  (∀ (c : List Word) (b : Nat) (s : State),
    s.sec.challenge = some (c, b) →
    b ≤ s.clk.bnd →
    exec .challengeExpiry s = .next { s with sec := { s.sec with challenge := none } }) ∧
  -- AUTH_LOCKOUT_EXPIRY (R492)
  (∀ (b : Nat) (s : State),
    s.sec.lockout = some b →
    b ≤ s.clk.bnd →
    exec .authLockoutExpiry s = .next { s with sec := { s.sec with lockout := none } }) ∧
  -- ZEROISATION_COMPLETE (R497)
  (∀ (k : Fin 24) (t u : State) (s : State),
    s.sec.zeroising = true →
    s.sec.zeroPower ≠ 4 →
    s.sec.zeroWait = none →
    s.reckonersZeroed = true →
    t = (if s.sec.zeroPower = 2 then s.stopAll reckonerUnits else s).freeOrphans.zeroStore.zeroMemory →
    u = t.detectLoss k →
    exec (.zeroisationComplete none) s = .next t.zeroLast ∧
      exec (.zeroisationComplete (some k)) s = .next { u with sec := { u.sec with zeroWait := some (u.clk.bnd + 976563) } })

/-- LOAD of a slot that no job is bound to unwraps the blob it is given, puts the key in the slot and counts its generation; ERASE empties such a slot. BIND of a non-zero job to a slot with a key, and UNBIND, set the job's key map and leave the binding for the boundary. A link encryption switch 16 or more strides ahead is kept for its stride. REARM clears the held snapshot and the areas' valid bits. A trigger with nothing held or pending launches a SNAP frame at once, waits for the boundary, or begins a rack trigger. A fault record listed by the spec goes to its page, ring and log. A ring write that completes moves TAIL, and signals if asked; one that fails counts as dropped and goes to the log. A HEAD write up to TAIL is taken. -/
def Obligations.KeyAndSnapshotCommands : Prop :=
  -- KEY_LOAD (R500)
  (∀ (src : Source) (val : Word) (got : Option (List Byte) × State) (w : Word) (t : State) (s : State),
    s.mayWrite src (Reg.SEC_KEY_CMD) = true →
    w = val.setField 31 29 1 →
    t = s.setReg Reg.SEC_KEY_CMD (w &&& 0x001FFFFF) →
    t.sec.lifecycle ≠ 0 →
    t.sec.lifecycle ≠ 3 →
    t.slotBound (w.field 20 12) = false →
    got = t.readBlob (w.field 20 12) →
    exec (.keyLoad src val) s = .next (match got.1 with
      | none => got.2.keyStatus 2
      | some k => ({ got.2 with sec := { got.2.sec with slots := got.2.sec.slots.put (w.field 20 12) ⟨k, ((got.2.slotOf_ (w.field 20 12)).gen + 1) % 16⟩ } } : State).keyStatus 0)) ∧
  -- KEY_ERASE (R500)
  (∀ (src : Source) (val : Word) (w : Word) (t : State) (s : State),
    s.mayWrite src (Reg.SEC_KEY_CMD) = true →
    w = val.setField 31 29 2 →
    t = s.setReg Reg.SEC_KEY_CMD (w &&& 0x001FFFFF) →
    t.sec.lifecycle ≠ 0 →
    t.sec.lifecycle ≠ 3 →
    t.slotBound (w.field 20 12) = false →
    exec (.keyErase src val) s = .next (({ t with sec := { t.sec with slots := t.sec.slots.put (w.field 20 12) { t.slotOf_ (w.field 20 12) with key := [] } } } : State).keyStatus 0)) ∧
  -- KEY_BIND (R500)
  (∀ (src : Source) (val : Word) (cyc : Nat) (w : Word) (t : State) (s : State),
    (s.advance cyc).mayWrite src (Reg.SEC_KEY_CMD) = true →
    w = val.setField 31 29 3 →
    t = (s.advance cyc).setReg Reg.SEC_KEY_CMD (w &&& 0x001FFFFF) →
    t.sec.lifecycle ≠ 0 →
    t.sec.lifecycle ≠ 3 →
    w.field 11 0 ≠ 0 →
    w.field 20 12 ≤ 255 →
    (t.slotOf_ (w.field 20 12)).key ≠ [] →
    exec (.keyBind src val cyc) s = .next ((t.mapKey (w.field 11 0) (4096 + w.field 20 12 * 16 + (t.slotOf_ (w.field 20 12)).gen)).keyStatus 0)) ∧
  -- KEY_UNBIND (R500)
  (∀ (src : Source) (val : Word) (cyc : Nat) (w : Word) (t : State) (s : State),
    (s.advance cyc).mayWrite src (Reg.SEC_KEY_CMD) = true →
    w = val.setField 31 29 4 →
    t = (s.advance cyc).setReg Reg.SEC_KEY_CMD (w &&& 0x001FFFFF) →
    t.sec.lifecycle ≠ 0 →
    t.sec.lifecycle ≠ 3 →
    exec (.keyUnbind src val cyc) s = .next ((t.mapKey (w.field 11 0) 0).keyStatus 0)) ∧
  -- LINK_ENCRYPTION_SWITCH (R504)
  (∀ (src : Source) (val : Word) (t : State) (s : State),
    s.mayWrite src (Reg.SEC_LINK_CTL) = true →
    t = s.setReg Reg.SEC_LINK_CTL (val.setField 26 26 1 &&& 0xC0000000) →
    16 ≤ (t.reg Reg.SEC_LINK_AT - BitVec.ofNat 32 t.clk.stride.toNat).toNat →
    (t.reg Reg.SEC_LINK_AT - BitVec.ofNat 32 t.clk.stride.toNat).toNat < 2 ^ 31 →
    exec (.linkEncryptionSwitch src val) s = .next { t with link := { t.link with pending := some (t.reg Reg.SEC_LINK_AT), stEnable := (val.setField 26 26 1).bit 31, stKey := (val.setField 26 26 1).bit 30, status := 0 } }) ∧
  -- SNAPSHOT_REARM, SNAPSHOT_TRIG_NOW, SNAPSHOT_TRIG_BND and SNAPSHOT_TRIG_RACK (R506, R507)
  (∀ (src : Source) (s : State),
    s.pageAnswers 6 = true →
    s.mayWrite src (Reg.SNP_CTL) = true →
    exec (.snapshotRearm src) s = .next s.rearm ∧
      exec (.snapshotTrigNow src) s = .next (s.trigger 0 0) ∧ exec (.snapshotTrigBnd src) s = .next (s.trigger 1 0) ∧ exec (.snapshotTrigRack src) s = .next (s.trigger 2 0).sendRack) ∧
  -- what each trigger does with nothing held
  (∀ (source : Nat) (s : State),
    s.snap.held = false →
    s.snap.rackPend = none →
    s.trigger 0 source = s.launchSnap source ∧ s.trigger 1 source = { s with snap := { s.snap with bndPend := some (s.snap.bndPend.getD source) } } ∧
      s.trigger 2 source = { s with snap := { s.snap with rackPend := some (rackStride s.clk.stride.toNat, 3), rackSend := true } }) ∧
  -- TRIG_IN_FALL (R506)
  (∀ (s : State),
    s.sup.vio = true →
    s.regF Reg.SNP_CTL 27 27 = 1 →
    exec .trigInFall s = .next ((s.trigger (s.regF Reg.SNP_CTL 26 25) 2).sendRack)) ∧
  -- FAULT_RECORD (R526, R518, R530)
  (∀ (cls : Fin 16) (code : BitVec 12) (source detail : Word) (job : Option (BitVec 12)) (logged same : Bool) (s : State),
    FaultCode.listed ⟨cls.val, code.toNat⟩ = true →
    exec (.faultRecord cls code source detail job logged same) s = .next (s.raiseRecord ⟨⟨cls.val, code.toNat⟩, s.clk.stride, source, detail⟩ (job.map (·.toNat)) (logged || job.isNone) same)) ∧
  -- FAULT_RING_WRITE_COMPLETE, of a ring in host memory (R527)
  (∀ (job : BitVec 12) (w : FaultWrite) (t : State) (s : State),
    (s.flt.flight.find? fun w => w.job == job.toNat) = some w →
    t = ({ s with flt := { s.flt with flight := s.flt.flight.erase w } } : State) →
    t.regF (bank job.toNat Reg.PDK_FLT_CFG) 31 31 = 1 →
    (let tail := t.reg (bank job.toNat Reg.PDK_FLT_TAIL)
     let u := (t.hostWrite 0 (t.ringAddr job.toNat tail.toNat) (bytesOf w.record.words)).setReg (bank job.toNat Reg.PDK_FLT_TAIL) (tail + 1)
     let cfg := u.reg (bank job.toNat Reg.PDK_FLT_CFG)
     exec (.faultRingWriteComplete job true) s = .next (if cfg.bit 15 then u.signalAt (cfg.field 14 12) none (cfg.field 9 0) 1 0 agentFaults blkPDK else u) ∧
     exec (.faultRingWriteComplete job false) s = .next ((t.bump Reg.PDK_FLT_DROP 1).writeLog w.record))) ∧
  -- FAULT_RING_HEAD_WRITE (R528)
  (∀ (src : Source) (val head tail : Word) (j : Nat) (s : State),
    s.mayWrite src (Reg.PDK_FLT_HEAD) = true →
    j = s.regF Reg.PDK_FLT_SEL 11 0 →
    head = s.reg (bank j Reg.PDK_FLT_HEAD) →
    tail = s.reg (bank j Reg.PDK_FLT_TAIL) →
    (val - head).toNat ≤ (tail - head).toNat →
    exec (.faultRingHeadWrite src val) s = .next (s.setReg (bank j Reg.PDK_FLT_HEAD) val))

/-- The patrol of a slice word with one error corrects and counts it, with more records and poisons it; of a core out of service it leaves the error latent. The patrol of a DRAM line with an uncorrectable error poisons it, logs MEM_UE_SCRUB and notes the poison; with a correctable one writes it back and counts it. A refresh management command is counted by its bank. A retrain asked for by temperature, period or link errors plans 192 bursts. A burst of a stack with bursts left or repairs waiting, whose gap has passed, begins where fewer than six stacks are in one. A good burst counts down; the last one counts a retrain. A burst that fails three times running loses its stack. A row repaired in its channel's burst uses a spare or, with none, is logged. -/
def Obligations.MemoryMaintenanceCommands : Prop :=
  -- TALLY_PATROL (R220)
  (∀ (c : CoreId) (word : Fin 2621440) (errs : Fin 3) (a e : Nat) (s : State),
    a = tallyAddr c (8 * word.val) →
    e = max errs.val (s.dram.tallyErr.getD a 0) →
    e ≠ 0 →
    c.gid ∉ s.groom.sliceDown →
    exec (.tallyPatrol c word errs) s = .next (if s.isOn (.reckoner c.rkn) = false then s.setTallyErr a e
      else if e = 1 then (s.setTallyErr a 0).bump (tallyReg c Reg.TLY_CE) 1
      else (s.setTallyErr a e).tallyWordsLost c [a])) ∧
  -- of a word without an error (R220)
  (∀ (c : CoreId) (word : Fin 2621440) (s : State),
    s.dram.tallyErr.getD (tallyAddr c (8 * word.val)) 0 = 0 →
    exec (.tallyPatrol c word 0) s = .next s) ∧
  -- PATROL_SCRUB (R230)
  (∀ (line : BitVec 34) (errs : Fin 8) (n e : Nat) (s : State),
    n = line.toNat →
    e = max errs.val (s.dram.lineErr.getD n 0) →
    e ≠ 0 →
    n < dramSize / 128 →
    exec (.patrolScrub line errs) s = .next (if s.scrubs n = false then s.setLineErr n e
      else if 3 ≤ e then ((s.poisonLine n).logFault Flt.MEM_UE_SCRUB (blkMEMS (s.holder n).val) (n * 128 % 2 ^ 32)).notePoison
      else (s.setLineErr n 0).countCorrected n)) ∧
  -- REFRESH_MANAGEMENT (R231)
  (∀ (k : Fin 24) (bank : BitVec 12) (v : Stack) (s : State),
    v = s.stack k →
    s.isOn (.stack k) = true →
    v.lost = false →
    exec (.refreshManagement k bank) s = .next (s.setStack k { v with rfm := v.rfm.put bank.toNat (v.rfm.getD bank.toNat 0 + 1) })) ∧
  -- RETRAIN_START (R232)
  (∀ (k : Fin 24) (links : Bool) (v : Stack) (period : Nat) (s : State),
    v = s.stack k →
    period = s.regF Reg.MEM_TRAIN_CTL 15 0 →
    s.isOn (.stack k) = true →
    v.lost = false →
    s.power.state ≠ 3 →
    v.burstLeft = 0 →
    links = true ∨ 16 * s.tempDelta ≤ (s.stackTemp k - v.lastTemp).natAbs ∨ (period ≠ 0 ∧ v.lastRetrain + period * 2 ^ 20 ≤ s.clk.bnd) →
    exec (.retrainStart k links) s = .next (s.setStack k { v with burstLeft := 192 })) ∧
  -- TRAINING_BURST (R232)
  (∀ (k : Fin 24) (channel : Fin 32) (v : Stack) (s : State),
    v = s.stack k →
    s.power.state ≠ 3 →
    s.isOn (.stack k) = true →
    v.lost = false →
    v.burst = none →
    0 < v.burstLeft ∨ (v.repairs ≠ [] ∧ s.regF Reg.MEM_REPAIR_CTL 31 31 = 1) →
    v.lastBurst = 0 ∨ v.lastBurst + s.burstGap ≤ s.clk.bnd →
    s.bursting < 6 →
    exec (.trainingBurst k channel) s = .next (s.setStack k { v with burst := some channel.val, lastBurst := s.clk.bnd })) ∧
  -- TRAINING_BURST_COMPLETE, of a burst that succeeds (R232)
  (∀ (k : Fin 24) (ch : Nat) (v w : Stack) (s : State),
    v = s.stack k →
    v.burst = some ch →
    w = { v with burst := none, burstFails := v.burstFails.drop ch, burstLeft := v.burstLeft - 1 } →
    exec (.trainingBurstComplete k true) s = .next (if v.burstLeft = 1 then s.setStack k { w with retrains := min (w.retrains + 1) (2 ^ 24 - 1), lastRetrain := s.clk.bnd, lastTemp := s.stackTemp k } else s.setStack k w)) ∧
  -- of a burst that fails (R232)
  (∀ (k : Fin 24) (ch n : Nat) (v : Stack) (t s : State),
    v = s.stack k →
    v.burst = some ch →
    n = v.burstFails.getD ch 0 + 1 →
    t = s.setStack k { v with burst := none, burstFails := v.burstFails.put ch n } →
    exec (.trainingBurstComplete k false) s = .next (if 3 ≤ n then t.detectLoss k else t)) ∧
  -- ROW_REPAIR (R233)
  (∀ (line : BitVec 34) (spare : Bool) (left : BitVec 8) (k : Fin 24) (row : Nat) (v w : Stack) (t : State) (s : State),
    k = s.holder line.toNat →
    row = s.lineRow line.toNat →
    v = s.stack k →
    row ∈ v.repairs →
    v.lost = false →
    s.regF Reg.MEM_REPAIR_CTL 31 31 = 1 →
    v.burst = some (row % 32) →
    w = { v with repairs := v.repairs.filter (· != row), rowCount := v.rowCount.drop row } →
    t = s.setStack k { w with softRepairs := min (w.softRepairs + 1) 255, spareLeft := left.toNat } →
    exec (.rowRepair line spare left) s = .next (if spare = true then { t with dram := { t.dram with repaired := t.dram.repaired ++ [(k.val, row)], spares := t.dram.spares.put k.val left.toNat } }
      else (s.setStack k w).logFault Flt.MEM_REPAIR_EXHAUSTED (blkMEMS k.val) (line.toNat * 128 % 2 ^ 32)))

/-- The first loss of a stack marks it, logs MEM_STACK_LOST, fails its unit at the next boundary and gives the boundary from which its lines are displaced; a loss while another is gone is the second; a stack already lost is lost once. A fill that completes while the map is FOLDING, and the copy of a retirement while it is NORMAL, let the boundary end it. When the window for rebuilt histories has ended, each stall that still waits drains and STB_HISTORY_LOST is raised to its job. -/
def Obligations.StackLossCommands : Prop :=
  -- STACK_LOST, the first (R234)
  (∀ (k : Fin 24) (t u : State) (s : State),
    (s.stack k).lost = false →
    t = (s.setStack k { s.stack k with lost := true, burst := none }).setUnit (.stack k) { s.unit (.stack k) with failed := true } →
    u = (t.logFault Flt.MEM_STACK_LOST (blkMEMS k.val) k.val).scheduleNext (.unitFail (.stack k) true) →
    u.dram.gone = none →
    exec (.stackLost k) s = .next { u with dram := { u.dram with gone := some k, lossAt := some (if u.clk.cycle = 0 then u.clk.bnd + 1 else u.clk.bnd + 2), retired := false, fillDone := false } }) ∧
  -- while another is gone (R234)
  (∀ (k : Fin 24) (t u : State) (s : State),
    (s.stack k).lost = false →
    s.dram.gone ≠ some k →
    t = (s.setStack k { s.stack k with lost := true, burst := none }).setUnit (.stack k) { s.unit (.stack k) with failed := true } →
    u = (t.logFault Flt.MEM_STACK_LOST (blkMEMS k.val) k.val).scheduleNext (.unitFail (.stack k) true) →
    u.dram.gone.isNone = false →
    u.dram.second.isSome = false →
    exec (.stackLost k) s = .next { u with dram := { u.dram with second := some k } }) ∧
  -- of one already lost (R234)
  (∀ (k : Fin 24) (s : State),
    (s.stack k).lost = true →
    exec (.stackLost k) s = .next s) ∧
  -- FOLD_FILL_COMPLETE (R236)
  (∀ (s : State),
    s.dram.map = .folding →
    exec .foldFillComplete s = .next { s with dram := { s.dram with fillDone := true } }) ∧
  -- HISTORY_WAIT_TIMEOUT (R238)
  (∀ (cyc b : Nat) (t u : State) (s : State),
    t = s.advance cyc →
    t.dram.windowEnd = some b →
    b ≤ t.now →
    u = ({ t with dram := { t.dram with windowEnd := none } } : State) →
    exec (.historyWaitTimeout cyc) s = .next (u.stalls.foldl (fun (v : State) e => if (v.stall e.1).waits then v.historyLost e.1 else v) u)) ∧
  -- before it has ended (R238)
  (∀ (cyc b : Nat) (t : State) (s : State),
    t = s.advance cyc →
    t.dram.windowEnd = some b →
    t.now < b →
    exec (.historyWaitTimeout cyc) s = .next t) ∧
  -- STACK_EVACUATION_COMPLETE (R241)
  (∀ (k : Fin 24) (s : State),
    s.dram.gone = some k →
    s.dram.retired = true →
    s.dram.map = .normal →
    exec (.stackEvacuationComplete k) s = .next { s.evacuated k with dram := { (s.evacuated k).dram with fillDone := true } })
end

