-- ==== Sys2Proof/Laws/Memory.lean ====
section
/-! SUPPORT. Laws of sorted tables and of byte memory: every operation keeps the canonical form, and a read after a write
gives what was written. -/

namespace Sys2Proof.Machine

variable {α : Type}

/-- The keys of a table rise and the first lies above `k`. -/
def Table.above (k : Nat) (t : Table α) : Prop := ∀ p ∈ t, k < p.1

theorem Table.sorted_cons (p : Nat × α) (t : Table α) :
    Table.sorted (p :: t) = true ↔ Table.sorted t = true ∧ ∀ q ∈ t, p.1 < q.1 := by
  induction t generalizing p with
  | nil => simp [Table.sorted]
  | cons q r ih =>
    obtain ⟨a, x⟩ := p
    obtain ⟨b, y⟩ := q
    simp only [Table.sorted, Bool.and_eq_true, decide_eq_true_eq, List.mem_cons, forall_eq_or_imp]
    constructor
    · rintro ⟨h, hr⟩
      exact ⟨hr, h, fun q hq => lt_trans h (((ih (b, y)).1 hr).2 q hq)⟩
    · rintro ⟨hr, h, -⟩
      exact ⟨h, hr⟩

theorem Table.mem_put {t : Table α} {k : Nat} {v : α} {p : Nat × α} (h : p ∈ Table.put t k v) : p = (k, v) ∨ p ∈ t := by
  induction t with
  | nil => simpa [Table.put] using h
  | cons q r ih =>
    obtain ⟨a, x⟩ := q
    simp only [Table.put] at h
    split at h
    · simpa using h
    · split at h
      · simp only [List.mem_cons] at h ⊢
        tauto
      · simp only [List.mem_cons] at h ⊢
        rcases h with h | h
        · exact .inr (.inl h)
        · rcases ih h with h | h
          · exact .inl h
          · exact .inr (.inr h)

theorem Table.sorted_put {t : Table α} (h : Table.sorted t = true) (k : Nat) (v : α) : Table.sorted (Table.put t k v) = true := by
  induction t with
  | nil => rfl
  | cons q r ih =>
    obtain ⟨a, x⟩ := q
    have h' := (Table.sorted_cons _ _).1 h
    simp only [Table.put]
    split
    · rename_i hk
      refine (Table.sorted_cons _ _).2 ⟨h, ?_⟩
      intro q hq
      rcases List.mem_cons.1 hq with rfl | hq
      · exact hk
      · exact lt_trans hk (h'.2 q hq)
    · split
      · rename_i hk
        exact (Table.sorted_cons _ _).2 ⟨h'.1, fun q hq => by simpa [hk] using h'.2 q hq⟩
      · refine (Table.sorted_cons _ _).2 ⟨ih h'.1, ?_⟩
        intro q hq
        rcases Table.mem_put hq with rfl | hq
        · simp only
          omega
        · exact h'.2 q hq

theorem Table.mem_drop {t : Table α} {k : Nat} {p : Nat × α} (h : p ∈ Table.drop t k) : p ∈ t := by
  induction t with
  | nil => simp [Table.drop] at h
  | cons q r ih =>
    obtain ⟨a, x⟩ := q
    simp only [Table.drop] at h
    split at h
    · exact h
    · split at h
      · exact List.mem_cons_of_mem _ h
      · rcases List.mem_cons.1 h with rfl | h
        · exact List.mem_cons_self
        · exact List.mem_cons_of_mem _ (ih h)

theorem Table.sorted_drop {t : Table α} (h : Table.sorted t = true) (k : Nat) : Table.sorted (Table.drop t k) = true := by
  induction t with
  | nil => rfl
  | cons q r ih =>
    obtain ⟨a, x⟩ := q
    have h' := (Table.sorted_cons _ _).1 h
    simp only [Table.drop]
    split
    · exact h
    · split
      · exact h'.1
      · exact (Table.sorted_cons _ _).2 ⟨ih h'.1, fun q hq => h'.2 q (Table.mem_drop hq)⟩

theorem Table.sorted_filter {t : Table α} (h : Table.sorted t = true) (f : Nat × α → Bool) :
    Table.sorted (α := α) (List.filter f t) = true := by
  induction t with
  | nil => rfl
  | cons q r ih =>
    have h' := (Table.sorted_cons _ _).1 h
    rw [List.filter_cons]
    split
    · exact (Table.sorted_cons _ _).2 ⟨ih h'.1, fun q hq => h'.2 q (List.mem_filter.1 hq).1⟩
    · exact ih h'.1

/-! ### Reads after writes -/

theorem Table.find?_put (t : Table α) (k : Nat) (v : α) (j : Nat) :
    Table.find? (Table.put t k v) j = if j = k then some v else Table.find? t j := by
  induction t with
  | nil => simp [Table.put, Table.find?]
  | cons q r ih =>
    simp only [Table.put]
    split
    · simp only [Table.find?]
      grind
    · split
      · simp only [Table.find?]
        grind
      · simp only [Table.find?, ih]
        grind

theorem Table.getD_put (t : Table α) (k : Nat) (v : α) (j : Nat) (d : α) :
    Table.getD (Table.put t k v) j d = if j = k then v else Table.getD t j d := by
  simp only [Table.getD, Table.find?_put]
  split <;> rfl

@[simp] theorem Table.getD_put_same (t : Table α) (k : Nat) (v d : α) : Table.getD (Table.put t k v) k d = v := by
  simp [Table.getD_put]

theorem Table.getD_put_other (t : Table α) (k : Nat) (v : α) (j : Nat) (d : α) (h : j ≠ k) :
    Table.getD (Table.put t k v) j d = Table.getD t j d := by
  simp [Table.getD_put, h]

/-- A key below every listed one is not listed. -/
theorem Table.find?_none_of_lt (t : Table α) (j : Nat) (h : ∀ p ∈ t, j < p.1) : Table.find? t j = none := by
  cases t with
  | nil => rfl
  | cons q r =>
    have := h q List.mem_cons_self
    simp only [Table.find?]
    rw [if_neg (by omega), if_pos this]

theorem Table.find?_drop (t : Table α) (k j : Nat) (h : Table.sorted t = true) :
    Table.find? (Table.drop t k) j = if j = k then none else Table.find? t j := by
  induction t with
  | nil => simp [Table.drop, Table.find?]
  | cons q r ih =>
    have h' := (Table.sorted_cons _ _).1 h
    simp only [Table.drop]
    split
    · simp only [Table.find?]
      grind
    · split
      · have := Table.find?_none_of_lt r k
        simp only [Table.find?]
        by_cases hj : j = k
        · subst hj
          rw [if_pos rfl]
          exact this fun p hp => by have := h'.2 p hp; omega
        · rw [if_neg hj, if_neg (by omega)]
          split
          · exact Table.find?_none_of_lt r j fun p hp => by have := h'.2 p hp; omega
          · rfl
      · simp only [Table.find?, ih h'.1]
        grind

/-! ### Bytes of memory -/

theorem Mem.wf_iff (m : Mem) : m.wf = true ↔ Table.sorted m = true ∧ ∀ c ∈ m, c.2 ≠ unlistedByte := by
  simp [Mem.wf]

theorem Mem.wf_nil : Mem.wf [] = true := rfl

theorem Mem.wf_setByte {m : Mem} (h : m.wf = true) (a : Nat) (v : Byte) : (m.setByte a v).wf = true := by
  rw [Mem.wf_iff] at h ⊢
  simp only [Mem.setByte]
  split
  · exact ⟨Table.sorted_drop h.1 a, fun c hc => h.2 c (Table.mem_drop hc)⟩
  · rename_i hv
    refine ⟨Table.sorted_put h.1 a v, fun c hc => ?_⟩
    rcases Table.mem_put hc with rfl | hc
    · exact hv
    · exact h.2 c hc

theorem Mem.wf_setBytes {m : Mem} (h : m.wf = true) (a : Nat) (bs : List Byte) : (m.setBytes a bs).wf = true := by
  induction bs generalizing m a with
  | nil => exact h
  | cons b bs ih => exact ih (Mem.wf_setByte h a b) (a + 1)

theorem Mem.wf_filter {m : Mem} (h : m.wf = true) (f : Nat × Byte → Bool) : Mem.wf (m.filter f) = true := by
  rw [Mem.wf_iff] at h ⊢
  exact ⟨Table.sorted_filter h.1 f, fun c hc => h.2 c (List.mem_filter.1 hc).1⟩

/-- A byte read after a byte written. -/
theorem Mem.byte_setByte {m : Mem} (h : m.wf = true) (a : Nat) (v : Byte) (b : Nat) :
    (m.setByte a v).byte b = if b = a then v else m.byte b := by
  have hs := ((Mem.wf_iff m).1 h).1
  simp only [Mem.setByte, Mem.byte]
  split
  · rename_i hv
    simp only [Table.getD, Table.find?_drop _ _ _ hs]
    split
    · simp [hv]
    · rfl
  · rw [Table.getD_put]

/-- A byte outside the range written reads as before. -/
theorem Mem.byte_setBytes_outside {m : Mem} (h : m.wf = true) (a : Nat) (bs : List Byte) (b : Nat)
    (hb : b < a ∨ a + bs.length ≤ b) : (m.setBytes a bs).byte b = m.byte b := by
  induction bs generalizing m a with
  | nil => rfl
  | cons x xs ih =>
    simp only [List.length_cons] at hb
    show ((m.setByte a x).setBytes (a + 1) xs).byte b = _
    rw [ih (Mem.wf_setByte h a x) (a + 1) (by omega), Mem.byte_setByte h, if_neg (by omega)]

/-- A byte of the range written reads as the byte written there. -/
theorem Mem.byte_setBytes_inside {m : Mem} (h : m.wf = true) (a : Nat) (bs : List Byte) (i : Nat) (hi : i < bs.length) :
    (m.setBytes a bs).byte (a + i) = bs[i] := by
  induction bs generalizing m a i with
  | nil => simp at hi
  | cons x xs ih =>
    show ((m.setByte a x).setBytes (a + 1) xs).byte (a + i) = _
    cases i with
    | zero =>
      rw [Mem.byte_setBytes_outside (Mem.wf_setByte h a x) _ _ _ (by omega), Mem.byte_setByte h]
      simp
    | succ i =>
      have := ih (Mem.wf_setByte h a x) (a + 1) i (by simpa using hi)
      rw [show a + (i + 1) = a + 1 + i by omega, this]
      rfl

end Sys2Proof.Machine
end

