-- ==== Sys2Proof/Laws/Access.lean ====
section
/-! SUPPORT. What a core's accesses to its own scratch do: a load gives the bytes as they are and changes nothing, a store writes its
bytes and changes nothing else. -/

namespace Sys2Proof.Machine

variable {s : State}

theorem Mem.bytes_length (m : Mem) (a n : Nat) : (m.bytes a n).length = n := by
  simp [Mem.bytes]

theorem Mem.bytes_append (m : Mem) (a n k : Nat) : m.bytes a (n + k) = m.bytes a n ++ m.bytes (a + n) k := by
  unfold Mem.bytes
  rw [List.range_add, List.map_append, List.map_map]
  congr 1
  apply List.map_congr_left
  intro i _
  show m.byte (a + (n + i)) = m.byte (a + n + i)
  rw [Nat.add_assoc]

theorem Mem.setBytes_append (m : Mem) (a : Nat) (x y : List Byte) :
    m.setBytes a (x ++ y) = (m.setBytes a x).setBytes (a + x.length) y := by
  induction x generalizing m a with
  | nil => rfl
  | cons b t ih =>
    show (m.setByte a b).setBytes (a + 1) (t ++ y) = ((m.setByte a b).setBytes (a + 1) t).setBytes (a + (t.length + 1)) y
    rw [ih, Nat.add_assoc, Nat.add_comm 1]

/-- The region of a core's own scratch. -/
theorem State.regionOf_scratch {c : CoreId} {o n : Nat} (hon : (s.unit (.core c)).st ≠ .off) (hfit : o + n ≤ 0x180000) :
    s.regionOf (scratchAddr c o) n = .scratch c := by
  have hg : c.gid < 2048 := by
    unfold CoreId.gid
    have := c.rkn.isLt
    have := c.idx.isLt
    omega
  have h1 : (scratchAddr c o - scratchBase) / 0x200000 = c.gid := by
    unfold scratchAddr
    omega
  have h2 : (scratchAddr c o - scratchBase) % 0x200000 = o := by
    unfold scratchAddr
    omega
  have h3 : coreOf c.gid = some c := by
    unfold coreOf CoreId.gid
    have := c.rkn.isLt
    have := c.idx.isLt
    have e1 : (c.rkn.val * 256 + c.idx.val) / 256 = c.rkn.val := by omega
    have e2 : (c.rkn.val * 256 + c.idx.val) % 256 = c.idx.val := by omega
    simp only [e1, e2]
    rw [dif_pos ⟨c.rkn.isLt, c.idx.isLt⟩]
  unfold State.regionOf
  have h4 : ¬ scratchAddr c o < tallyBase := by
    unfold scratchAddr scratchBase tallyBase
    omega
  have h5 : ¬ scratchAddr c o < scratchBase := by
    unfold scratchAddr
    omega
  rw [if_neg h4, if_neg h5, h1, h2, h3]
  exact if_pos ⟨hfit, hon⟩

/-- Pieces whose bytes need nothing before they may be used. -/
theorem State.loadPieces_plain {w : Accessor} {c : CoreId} (k : Nat) (hk : 0 < k) (fuel : Nat) :
    ∀ a n, n ≤ k * (fuel - 1) + (if fuel = 0 then 0 else k - a % k) →
      s.loadPieces w (.scratch c) (pieces k a fuel n) = (s.mem.bytes a n, .ok, s) := by
  induction fuel with
  | zero =>
    intro a n h
    have : n = 0 := by simpa using h
    subst this
    rfl
  | succ f ih =>
    intro a n h
    unfold pieces
    by_cases h0 : n = 0
    · subst h0
      rw [if_pos rfl]
      rfl
    · rw [if_neg h0]
      have hr : a % k < k := Nat.mod_lt _ hk
      obtain ⟨m, hm⟩ : ∃ m, m = min n (k - a % k) := ⟨_, rfl⟩
      have hmn : m ≤ n := by omega
      have e : n = m + (n - m) := by omega
      have hrest : n - m ≤ k * (f - 1) + (if f = 0 then 0 else k - (a + m) % k) := by
        simp only [Nat.add_sub_cancel, Nat.succ_ne_zero, if_false] at h
        by_cases hlt : n ≤ k - a % k
        · have : m = n := by omega
          omega
        · have hm' : m = k - a % k := by omega
          have h2 : (a + m) % k = 0 := by
            rw [hm']
            have hd := Nat.div_add_mod a k
            have : a + (k - a % k) = k * (a / k + 1) := by
              rw [Nat.mul_add, Nat.mul_one]
              omega
            rw [this]
            exact Nat.mul_mod_right k _
          rw [h2]
          cases f with
          | zero => simp at h; omega
          | succ g =>
            simp only [Nat.succ_ne_zero, if_false, Nat.add_sub_cancel, Nat.sub_zero]
            rw [Nat.mul_add, Nat.mul_one] at h
            omega
      simp only [State.loadPieces, State.readUnit, State.seen, if_true]
      rw [← hm, ih (a + m) (n - m) hrest]
      simp only [worse]
      rw [← Mem.bytes_append, ← e]

theorem State.storePieces_plain {w : Accessor} {c : CoreId} (k : Nat) (hk : 0 < k) (fuel : Nat) :
    ∀ (s : State) base (bs : List Byte) a n, base ≤ a → a + n = base + bs.length →
      n ≤ k * (fuel - 1) + (if fuel = 0 then 0 else k - a % k) →
      s.storePieces w (.scratch c) base bs (pieces k a fuel n) = (.ok, s.poke a (bs.drop (a - base))) := by
  induction fuel with
  | zero =>
    intro s base bs a n hb hl h
    have : n = 0 := by simpa using h
    subst this
    have : bs.drop (a - base) = [] := by
      apply List.drop_eq_nil_of_le
      omega
    rw [this]
    rfl
  | succ f ih =>
    intro s base bs a n hb hl h
    unfold pieces
    by_cases h0 : n = 0
    · subst h0
      rw [if_pos rfl]
      have : bs.drop (a - base) = [] := by
        apply List.drop_eq_nil_of_le
        omega
      rw [this]
      rfl
    · rw [if_neg h0]
      have hr : a % k < k := Nat.mod_lt _ hk
      obtain ⟨m, hm⟩ : ∃ m, m = min n (k - a % k) := ⟨_, rfl⟩
      have hmn : m ≤ n := by omega
      have hrest : n - m ≤ k * (f - 1) + (if f = 0 then 0 else k - (a + m) % k) := by
        simp only [Nat.add_sub_cancel, Nat.succ_ne_zero, if_false] at h
        by_cases hlt : n ≤ k - a % k
        · have : m = n := by omega
          omega
        · have hm' : m = k - a % k := by omega
          have h2 : (a + m) % k = 0 := by
            rw [hm']
            have hd := Nat.div_add_mod a k
            have : a + (k - a % k) = k * (a / k + 1) := by
              rw [Nat.mul_add, Nat.mul_one]
              omega
            rw [this]
            exact Nat.mul_mod_right k _
          rw [h2]
          cases f with
          | zero => simp at h; omega
          | succ g =>
            simp only [Nat.succ_ne_zero, if_false, Nat.add_sub_cancel, Nat.sub_zero]
            rw [Nat.mul_add, Nat.mul_one] at h
            omega
      simp only [State.storePieces, State.writeUnit, if_true]
      rw [← hm, ih _ base bs (a + m) (n - m) (by omega) (by omega) hrest]
      simp only [worse]
      have e : bs.drop (a - base) = (bs.drop (a - base)).take m ++ bs.drop (a + m - base) := by
        have : a + m - base = (a - base) + m := by omega
        rw [this, ← List.drop_drop, List.take_append_drop]
      conv_rhs => rw [e]
      congr 1
      unfold State.poke
      congr 1
      have hlen : ((bs.drop (a - base)).take m).length = m := by
        rw [List.length_take, List.length_drop]
        omega
      generalize (bs.drop (a - base)).take m = x at hlen ⊢
      generalize bs.drop (a + m - base) = y
      rw [← hlen]
      exact (Mem.setBytes_append _ _ _ _).symm

/-- Nothing bars a core from its own scratch. -/
theorem State.accessBar_scratch {w : Accessor} {c : CoreId} {a n : Nat} {b : Bool} (hw : w.core = some c)
    (hr : s.regionOf a n = .scratch c) : s.accessBar w a n b = none := by
  unfold State.accessBar
  rw [hr]
  exact if_pos (Or.inl hw)

theorem State.load_plain {w : Accessor} {c : CoreId} {a n : Nat} (hw : w.core = some c)
    (hr : s.regionOf a n = .scratch c) : s.load w a n = (s.mem.bytes a n, .ok, s) := by
  unfold State.load splitAt
  rw [State.accessBar_scratch hw hr, hr]
  dsimp only
  refine State.loadPieces_plain 4096 (by decide) _ _ _ ?_
  have := Nat.div_add_mod n 4096
  have := Nat.mod_lt n (by decide : 0 < 4096)
  have := Nat.mod_lt a (by decide : 0 < 4096)
  simp only [Nat.add_one_ne_zero, if_false]
  omega

theorem State.store_plain {w : Accessor} {c : CoreId} {a : Nat} {bs : List Byte} (hw : w.core = some c)
    (hr : s.regionOf a bs.length = .scratch c) : s.store w a bs = (.ok, s.poke a bs) := by
  have := Nat.div_add_mod bs.length 4096
  have := Nat.mod_lt bs.length (by decide : 0 < 4096)
  have := Nat.mod_lt a (by decide : 0 < 4096)
  have h := State.storePieces_plain (w := w) (c := c) 4096 (by decide) (bs.length / 4096 + 2) s a bs a bs.length (le_refl _) rfl (by
    simp only [Nat.add_one_ne_zero, if_false]
    omega)
  rw [Nat.sub_self, List.drop_zero] at h
  unfold State.store splitAt
  rw [State.accessBar_scratch hw hr, hr]
  exact h

/-- A core in service or starting loads from its own scratch. -/
theorem State.load_scratch {w : Accessor} {c : CoreId} {o n : Nat} (hw : w.core = some c) (hon : (s.unit (.core c)).st ≠ .off)
    (hfit : o + n ≤ 0x180000) : s.load w (scratchAddr c o) n = (s.mem.bytes (scratchAddr c o) n, .ok, s) :=
  State.load_plain hw (State.regionOf_scratch hon hfit)

/-- A core in service or starting stores to its own scratch. -/
theorem State.store_scratch {w : Accessor} {c : CoreId} {o : Nat} {bs : List Byte} (hw : w.core = some c)
    (hon : (s.unit (.core c)).st ≠ .off) (hfit : o + bs.length ≤ 0x180000) :
    s.store w (scratchAddr c o) bs = (.ok, s.poke (scratchAddr c o) bs) :=
  State.store_plain hw (State.regionOf_scratch hon hfit)

end Sys2Proof.Machine
end

