-- ==== Sys2Proof/Laws/Exec.lean ====
section
/-! SUPPORT. The meaning that `exec` calls for each command. -/

namespace Sys2Proof.Machine

variable {s : State}

@[simp] theorem exec_strideBoundary : exec (.strideBoundary) s = execStrideBoundary s := rfl
@[simp] theorem exec_beaconReceived {lane sender master hops eligible stride arrival} : exec (.beaconReceived lane sender master hops eligible stride arrival) s = execBeaconReceived lane sender master hops eligible stride arrival s := rfl
@[simp] theorem exec_masterLostTimeout : exec (.masterLostTimeout) s = execMasterLostTimeout s := rfl
@[simp] theorem exec_loReadShadow {src off} : exec (.loReadShadow src off) s = execLoReadShadow src off s := rfl
@[simp] theorem exec_hiWriteApply {src off val cyc} : exec (.hiWriteApply src off val cyc) s = execHiWriteApply src off val cyc s := rfl
@[simp] theorem exec_registerWrite {src off val cyc} : exec (.registerWrite src off val cyc) s = execRegisterWrite src off val cyc s := rfl
@[simp] theorem exec_rcCounterRead {src off} : exec (.rcCounterRead src off) s = execRcCounterRead src off s := rfl
@[simp] theorem exec_blkIrqForce {src slot mask} : exec (.blkIrqForce src slot mask) s = execBlkIrqForce src slot mask s := rfl
@[simp] theorem exec_unitEnable {unit cyc} : exec (.unitEnable unit cyc) s = execUnitEnable unit cyc s := rfl
@[simp] theorem exec_unitDisable {unit cyc} : exec (.unitDisable unit cyc) s = execUnitDisable unit cyc s := rfl
@[simp] theorem exec_unitReset {unit cyc} : exec (.unitReset unit cyc) s = execUnitReset unit cyc s := rfl
@[simp] theorem exec_unitStartComplete {report} : exec (.unitStartComplete report) s = execUnitStartComplete report s := rfl
@[simp] theorem exec_unitStopComplete {unit} : exec (.unitStopComplete unit) s = execUnitStopComplete unit s := rfl
@[simp] theorem exec_unitFail {unit atOnce} : exec (.unitFail unit atOnce) s = execUnitFail unit atOnce s := rfl
@[simp] theorem exec_descriptorFetch {q} : exec (.descriptorFetch q) s = execDescriptorFetch q s := rfl
@[simp] theorem exec_descriptorStart {q cyc} : exec (.descriptorStart q cyc) s = execDescriptorStart q cyc s := rfl
@[simp] theorem exec_descriptorOverrun {q found} : exec (.descriptorOverrun q found) s = execDescriptorOverrun q found s := rfl
@[simp] theorem exec_descriptorRetire {q index} : exec (.descriptorRetire q index) s = execDescriptorRetire q index s := rfl
@[simp] theorem exec_queueTailWrite {src q tail} : exec (.queueTailWrite src q tail) s = execQueueTailWrite src q tail s := rfl
@[simp] theorem exec_queueResumeRetry {src q cyc} : exec (.queueResumeRetry src q cyc) s = execQueueResumeRetry src q cyc s := rfl
@[simp] theorem exec_queueResumeSkip {src q cyc} : exec (.queueResumeSkip src q cyc) s = execQueueResumeSkip src q cyc s := rfl
@[simp] theorem exec_matmul {q} : exec (.matmul q) s = execMatmul q s := rfl
@[simp] theorem exec_vectorConvert {q} : exec (.vectorConvert q) s = execVectorConvert q s := rfl
@[simp] theorem exec_vectorAdd {q} : exec (.vectorAdd q) s = execVectorAdd q s := rfl
@[simp] theorem exec_vectorMul {q} : exec (.vectorMul q) s = execVectorMul q s := rfl
@[simp] theorem exec_vectorFma {q} : exec (.vectorFma q) s = execVectorFma q s := rfl
@[simp] theorem exec_vectorMax {q} : exec (.vectorMax q) s = execVectorMax q s := rfl
@[simp] theorem exec_vectorMin {q} : exec (.vectorMin q) s = execVectorMin q s := rfl
@[simp] theorem exec_vectorExp {q} : exec (.vectorExp q) s = execVectorExp q s := rfl
@[simp] theorem exec_vectorRecip {q} : exec (.vectorRecip q) s = execVectorRecip q s := rfl
@[simp] theorem exec_vectorRsqrt {q} : exec (.vectorRsqrt q) s = execVectorRsqrt q s := rfl
@[simp] theorem exec_vectorSilu {q} : exec (.vectorSilu q) s = execVectorSilu q s := rfl
@[simp] theorem exec_vectorSumRow {q} : exec (.vectorSumRow q) s = execVectorSumRow q s := rfl
@[simp] theorem exec_vectorMaxRow {q} : exec (.vectorMaxRow q) s = execVectorMaxRow q s := rfl
@[simp] theorem exec_vectorTopkRow {q} : exec (.vectorTopkRow q) s = execVectorTopkRow q s := rfl
@[simp] theorem exec_move {q} : exec (.move q) s = execMove q s := rfl
@[simp] theorem exec_gather {q} : exec (.gather q) s = execGather q s := rfl
@[simp] theorem exec_dataMoverIssue {core cyc} : exec (.dataMoverIssue core cyc) s = execDataMoverIssue core cyc s := rfl
@[simp] theorem exec_attend {work} : exec (.attend work) s = execAttend work s := rfl
@[simp] theorem exec_blink {q} : exec (.blink q) s = execBlink q s := rfl
@[simp] theorem exec_dispatch {q} : exec (.dispatch q) s = execDispatch q s := rfl
@[simp] theorem exec_signal {q} : exec (.signal q) s = execSignal q s := rfl
@[simp] theorem exec_wait {q cyc} : exec (.wait q cyc) s = execWait q cyc s := rfl
@[simp] theorem exec_waitTimeout {q} : exec (.waitTimeout q) s = execWaitTimeout q s := rfl
@[simp] theorem exec_branch {q cyc} : exec (.branch q cyc) s = execBranch q cyc s := rfl
@[simp] theorem exec_loop {q} : exec (.loop q) s = execLoop q s := rfl
@[simp] theorem exec_eduMessageReceive {source kind job layer tag token pos block row cyc} : exec (.eduMessageReceive source kind job layer tag token pos block row cyc) s = execEduMessageReceive source kind job layer tag token pos block row cyc s := rfl
@[simp] theorem exec_eduMailboxWritten {layer inst} : exec (.eduMailboxWritten layer inst) s = execEduMailboxWritten layer inst s := rfl
@[simp] theorem exec_eduBatchComplete {layer inst} : exec (.eduBatchComplete layer inst) s = execEduBatchComplete layer inst s := rfl
@[simp] theorem exec_eduBatchTimeout {layer inst cyc} : exec (.eduBatchTimeout layer inst cyc) s = execEduBatchTimeout layer inst cyc s := rfl
@[simp] theorem exec_eduResultTimeout {tag token pos cyc} : exec (.eduResultTimeout tag token pos cyc) s = execEduResultTimeout tag token pos cyc s := rfl
@[simp] theorem exec_eduCombine {tag token} : exec (.eduCombine tag token) s = execEduCombine tag token s := rfl
@[simp] theorem exec_eduDoneSignal {tag} : exec (.eduDoneSignal tag) s = execEduDoneSignal tag s := rfl
@[simp] theorem exec_eduTableSwitch {src val cyc} : exec (.eduTableSwitch src val cyc) s = execEduTableSwitch src val cyc s := rfl
@[simp] theorem exec_stbPageRequest : exec (.stbPageRequest) s = execStbPageRequest s := rfl
@[simp] theorem exec_appendReport : exec (.appendReport) s = execAppendReport s := rfl
@[simp] theorem exec_blinkersRequestStart {e} : exec (.blinkersRequestStart e) s = execBlinkersRequestStart e s := rfl
@[simp] theorem exec_blinkersListComplete {e} : exec (.blinkersListComplete e) s = execBlinkersListComplete e s := rfl
@[simp] theorem exec_blinkersLeaveNormal {e} : exec (.blinkersLeaveNormal e) s = execBlinkersLeaveNormal e s := rfl
@[simp] theorem exec_blinkersDriftCheck {e p0 p1 p2 p3 p4} : exec (.blinkersDriftCheck e p0 p1 p2 p3 p4) s = execBlinkersDriftCheck e p0 p1 p2 p3 p4 s := rfl
@[simp] theorem exec_blinkersRecalComplete {report p0 p1 p2 p3 p4} : exec (.blinkersRecalComplete report p0 p1 p2 p3 p4) s = execBlinkersRecalComplete report p0 p1 p2 p3 p4 s := rfl
@[simp] theorem exec_stbCommandTailWrite {src ring tail cyc} : exec (.stbCommandTailWrite src ring tail cyc) s = execStbCommandTailWrite src ring tail cyc s := rfl
@[simp] theorem exec_admitStall {ring} : exec (.admitStall ring) s = execAdmit ring s := rfl
@[simp] theorem exec_prefixLookupComplete {index} : exec (.prefixLookupComplete index) s = execPrefixLookupComplete index s := rfl
@[simp] theorem exec_release {ring} : exec (.release ring) s = execRelease ring s := rfl
@[simp] theorem exec_stallDrainComplete {index} : exec (.stallDrainComplete index) s = execStallDrainComplete index s := rfl
@[simp] theorem exec_commit {ring} : exec (.commit ring) s = execCommit ring s := rfl
@[simp] theorem exec_specPut {ring} : exec (.specPut ring) s = execSpecPut ring s := rfl
@[simp] theorem exec_rollback {ring} : exec (.rollback ring) s = execRollback ring s := rfl
@[simp] theorem exec_park {ring} : exec (.park ring) s = execPark ring s := rfl
@[simp] theorem exec_unpark {ring} : exec (.unpark ring) s = execUnpark ring s := rfl
@[simp] theorem exec_evict {ring} : exec (.evict ring) s = execEvict ring s := rfl
@[simp] theorem exec_stallEvictionComplete {index ok} : exec (.stallEvictionComplete index ok) s = execStallEvictionComplete index ok s := rfl
@[simp] theorem exec_stallRecallComplete {index ok extent} : exec (.stallRecallComplete index ok extent) s = execStallRecallComplete index ok extent s := rfl
@[simp] theorem exec_fork {ring} : exec (.fork ring) s = execFork ring s := rfl
@[simp] theorem exec_rebuild {ring} : exec (.rebuild ring) s = execRebuild ring s := rfl
@[simp] theorem exec_query {ring} : exec (.query ring) s = execQuery ring s := rfl
@[simp] theorem exec_set {ring} : exec (.set ring) s = execSet ring s := rfl
@[simp] theorem exec_publish {ring} : exec (.publish ring) s = execPublish ring s := rfl
@[simp] theorem exec_workPlanPublish : exec (.workPlanPublish) s = execWorkPlanPublish s := rfl
@[simp] theorem exec_draughtLoad {p cyc} : exec (.draughtLoad p cyc) s = execDraughtLoad p cyc s := rfl
@[simp] theorem exec_draughtStore {p cyc} : exec (.draughtStore p cyc) s = execDraughtStore p cyc s := rfl
@[simp] theorem exec_draughtFlagStore {p cyc} : exec (.draughtFlagStore p cyc) s = execDraughtFlagStore p cyc s := rfl
@[simp] theorem exec_draughtService {p cyc} : exec (.draughtService p cyc) s = execDraughtService p cyc s := rfl
@[simp] theorem exec_draughtResp {p cyc} : exec (.draughtResp p cyc) s = execDraughtResp p cyc s := rfl
@[simp] theorem exec_atomicAdd32 {w cyc} : exec (.atomicAdd32 w cyc) s = execAtomicAdd32 w cyc s := rfl
@[simp] theorem exec_atomicAdd64 {w cyc} : exec (.atomicAdd64 w cyc) s = execAtomicAdd64 w cyc s := rfl
@[simp] theorem exec_atomicSwap32 {w cyc} : exec (.atomicSwap32 w cyc) s = execAtomicSwap32 w cyc s := rfl
@[simp] theorem exec_atomicSwap64 {w cyc} : exec (.atomicSwap64 w cyc) s = execAtomicSwap64 w cyc s := rfl
@[simp] theorem exec_atomicCas32 {w cyc} : exec (.atomicCas32 w cyc) s = execAtomicCas32 w cyc s := rfl
@[simp] theorem exec_draughtPacketReceive {x flit cyc} : exec (.draughtPacketReceive x flit cyc) s = execDraughtPacketReceive x flit cyc s := rfl
@[simp] theorem exec_draughtGapNak {src dst cyc} : exec (.draughtGapNak src dst cyc) s = execDraughtGapNak src dst cyc s := rfl
@[simp] theorem exec_draughtReplayTimeout {src dst seq cyc} : exec (.draughtReplayTimeout src dst seq cyc) s = execDraughtReplayTimeout src dst seq cyc s := rfl
@[simp] theorem exec_draughtRequestTimeout {id cyc} : exec (.draughtRequestTimeout id cyc) s = execDraughtRequestTimeout id cyc s := rfl
@[simp] theorem exec_linkIdle {src dst ack} : exec (.linkIdle src dst ack) s = execLinkIdle src dst ack s := rfl
@[simp] theorem exec_linkAck {src dst ack} : exec (.linkAck src dst ack) s = execLinkAck src dst ack s := rfl
@[simp] theorem exec_linkNak {src dst ack missing} : exec (.linkNak src dst ack missing) s = execLinkNak src dst ack missing s := rfl
@[simp] theorem exec_linkSlotLost {src dst ack plane tx rx} : exec (.linkSlotLost src dst ack plane tx rx) s = execLinkSlotLost src dst ack plane tx rx s := rfl
@[simp] theorem exec_linkCredit {src dst ack credits} : exec (.linkCredit src dst ack credits) s = execLinkCredit src dst ack credits s := rfl
@[simp] theorem exec_lockLoopUpdate {r detune cyc} : exec (.lockLoopUpdate r detune cyc) s = execLockLoopUpdate r detune cyc s := rfl
@[simp] theorem exec_lockReacquireTimeout {r} : exec (.lockReacquireTimeout r) s = execLockReacquireTimeout r s := rfl
@[simp] theorem exec_ringAcquired {r} : exec (.ringAcquired r) s = execRingAcquired r s := rfl
@[simp] theorem exec_ringSweepComplete {r found} : exec (.ringSweepComplete r found) s = execRingSweepComplete r found s := rfl
@[simp] theorem exec_lineBeaconCheck {x copies} : exec (.lineBeaconCheck x copies) s = execLineBeaconCheck x copies s := rfl
@[simp] theorem exec_allocatorCycle : exec (.allocatorCycle) s = execAllocatorCycle s := rfl
@[simp] theorem exec_tapSample {p reading even odd} : exec (.tapSample p reading even odd) s = execTapSample p reading even odd s := rfl
@[simp] theorem exec_plannedSwap {src q} : exec (.plannedSwap src q) s = execPlannedSwap src q s := rfl
@[simp] theorem exec_feedSwitchSettled {p source tap cyc} : exec (.feedSwitchSettled p source tap cyc) s = execFeedSwitchSettled p source tap cyc s := rfl
@[simp] theorem exec_swapGapExpiry {q} : exec (.swapGapExpiry q) s = execSwapGapExpiry q s := rfl
@[simp] theorem exec_cartridgeSuddenLoss {k} : exec (.cartridgeSuddenLoss k) s = execCartridgeSuddenLoss k s := rfl
@[simp] theorem exec_cartridgeRemoved {k} : exec (.cartridgeRemoved k) s = execCartridgeRemoved k s := rfl
@[simp] theorem exec_cartridgeInserted {k serial} : exec (.cartridgeInserted k serial) s = execCartridgeInserted k serial s := rfl
@[simp] theorem exec_cartridgeDisable {src k force cyc} : exec (.cartridgeDisable src k force cyc) s = execCartridgeDisable src k force cyc s := rfl
@[simp] theorem exec_calibrationReevaluate {g cyc} : exec (.calibrationReevaluate g cyc) s = execCalibrationReevaluate g cyc s := rfl
@[simp] theorem exec_reinRead {p cyc} : exec (.reinRead p cyc) s = execReinRead p cyc s := rfl
@[simp] theorem exec_reinWrite {p cyc} : exec (.reinWrite p cyc) s = execReinWrite p cyc s := rfl
@[simp] theorem exec_reinRdata {node agent tag latency cyc} : exec (.reinRdata node agent tag latency cyc) s = execReinRdata node agent tag latency cyc s := rfl
@[simp] theorem exec_reinWack {node agent tag latency cyc} : exec (.reinWack node agent tag latency cyc) s = execReinWack node agent tag latency cyc s := rfl
@[simp] theorem exec_reinBcast {p dropped cyc} : exec (.reinBcast p dropped cyc) s = execReinBcast p dropped cyc s := rfl
@[simp] theorem exec_reinTimeout {node agent tag cyc} : exec (.reinTimeout node agent tag cyc) s = execReinTimeout node agent tag cyc s := rfl
@[simp] theorem exec_hitchSignalFrame {frame} : exec (.hitchSignalFrame frame) s = execHitchSignalFrame frame s := rfl
@[simp] theorem exec_hitchNak : exec .hitchNak s = execHitchNak s := rfl
@[simp] theorem exec_hitchSnap : exec (.hitchSnap) s = execHitchSnap s := rfl
@[simp] theorem exec_hitchRelease : exec .hitchRelease s = execHitchRelease s := rfl
@[simp] theorem exec_hitchWatchRegister {job w0 w1 w2} : exec (.hitchWatchRegister job w0 w1 w2) s = execHitchWatchRegister job w0 w1 w2 s := rfl
@[simp] theorem exec_hitchWatchWithdraw {job w0 w1 w2} : exec (.hitchWatchWithdraw job w0 w1 w2) s = execHitchWatchWithdraw job w0 w1 w2 s := rfl
@[simp] theorem exec_counterInit {src val cyc} : exec (.counterInit src val cyc) s = execCounterInit src val cyc s := rfl
@[simp] theorem exec_counterFree {src val cyc} : exec (.counterFree src val cyc) s = execCounterFree src val cyc s := rfl
@[simp] theorem exec_counterSet {src val cyc} : exec (.counterSet src val cyc) s = execCounterSet src val cyc s := rfl
@[simp] theorem exec_counterRevoke {src job cyc} : exec (.counterRevoke src job cyc) s = execCounterRevoke src job cyc s := rfl
@[simp] theorem exec_hostCounterDoorbell {fn index val} : exec (.hostCounterDoorbell fn index val) s = execHostCounterDoorbell fn index val s := rfl
@[simp] theorem exec_hostCounterArm {src val} : exec (.hostCounterArm src val) s = execHostCounterArm src val s := rfl
@[simp] theorem exec_mirrorWrite {index cyc} : exec (.mirrorWrite index cyc) s = execMirrorWrite index cyc s := rfl
@[simp] theorem exec_laneSpareSwap {r cls bundle lane spare} : exec (.laneSpareSwap r cls bundle lane spare) s = execLaneSpareSwap r cls bundle lane spare s := rfl
@[simp] theorem exec_bundleFail {r cls bundle} : exec (.bundleFail r cls bundle) s = execBundleFail r cls bundle s := rfl
@[simp] theorem exec_fabricRequestIssue {b cyc} : exec (.fabricRequestIssue b cyc) s = execFabricRequestIssue b cyc s := rfl
@[simp] theorem exec_fabricLoad {b cyc} : exec (.fabricLoad b cyc) s = execFabricLoad b cyc s := rfl
@[simp] theorem exec_fabricStore {b cyc} : exec (.fabricStore b cyc) s = execFabricStore b cyc s := rfl
@[simp] theorem exec_fabricFlagStore {b cyc} : exec (.fabricFlagStore b cyc) s = execFabricFlagStore b cyc s := rfl
@[simp] theorem exec_fabricResp {b cyc} : exec (.fabricResp b cyc) s = execFabricResp b cyc s := rfl
@[simp] theorem exec_fabricTransitForward {b cyc} : exec (.fabricTransitForward b cyc) s = execFabricTransitForward b cyc s := rfl
@[simp] theorem exec_fabricRetransmitTimeout {b target seq cyc} : exec (.fabricRetransmitTimeout b target seq cyc) s = execFabricRetransmitTimeout b target seq cyc s := rfl
@[simp] theorem exec_fabricBusyRetry {b target seq cyc} : exec (.fabricBusyRetry b target seq cyc) s = execFabricBusyRetry b target seq cyc s := rfl
@[simp] theorem exec_fabricRequestTimeout {b target seq cyc} : exec (.fabricRequestTimeout b target seq cyc) s = execFabricRequestTimeout b target seq cyc s := rfl
@[simp] theorem exec_flagStoreRelease {source b seq} : exec (.flagStoreRelease source b seq) s = execFlagStoreRelease source b seq s := rfl
@[simp] theorem exec_flagStoreExpired {source b seq cyc} : exec (.flagStoreExpired source b seq cyc) s = execFlagStoreExpired source b seq cyc s := rfl
@[simp] theorem exec_flagEntryIdleFree {source b port job epoch cyc} : exec (.flagEntryIdleFree source b port job epoch cyc) s = execFlagEntryIdleFree source b port job epoch cyc s := rfl
@[simp] theorem exec_leaseAcquire {b cyc} : exec (.leaseAcquire b cyc) s = execLeaseAcquire b cyc s := rfl
@[simp] theorem exec_leaseRenew {b cyc} : exec (.leaseRenew b cyc) s = execLeaseRenew b cyc s := rfl
@[simp] theorem exec_leaseRelease {b cyc} : exec (.leaseRelease b cyc) s = execLeaseRelease b cyc s := rfl
@[simp] theorem exec_leaseRenewDue {index} : exec (.leaseRenewDue index) s = execLeaseRenewDue index s := rfl
@[simp] theorem exec_leaseHolderExpiry {index} : exec (.leaseHolderExpiry index) s = execLeaseHolderExpiry index s := rfl
@[simp] theorem exec_leaseHomeExpiry {index} : exec (.leaseHomeExpiry index) s = execLeaseHomeExpiry index s := rfl
@[simp] theorem exec_lseCmdAcquire {src cyc} : exec (.lseCmdAcquire src cyc) s = execLseCmdAcquire src cyc s := rfl
@[simp] theorem exec_lseCmdRelease {src cyc} : exec (.lseCmdRelease src cyc) s = execLseCmdRelease src cyc s := rfl
@[simp] theorem exec_ingressEntryWrite {src cyc} : exec (.ingressEntryWrite src cyc) s = execIngressEntryWrite src cyc s := rfl
@[simp] theorem exec_ingressEntryRead {src} : exec (.ingressEntryRead src) s = execIngressEntryRead src s := rfl
@[simp] theorem exec_routeAdv {team sender stride master aligned epoch drained generation teams relay} : exec (.routeAdv team sender stride master aligned epoch drained generation teams relay) s = execRouteAdv team sender stride master aligned epoch drained generation teams relay s := rfl
@[simp] theorem exec_rackMapEntryStale {index} : exec (.rackMapEntryStale index) s = execRackMapEntryStale index s := rfl
@[simp] theorem exec_routingTableWrite {src val} : exec (.routingTableWrite src val) s = execRoutingTableWrite src val s := rfl
@[simp] theorem exec_routingArm {src} : exec (.routingArm src) s = execRoutingArm src s := rfl
@[simp] theorem exec_routingDisarm {src} : exec (.routingDisarm src) s = execRoutingDisarm src s := rfl
@[simp] theorem exec_routingSwitch {src} : exec (.routingSwitch src) s = execRoutingSwitch src s := rfl
@[simp] theorem exec_routingDrainTimeout : exec (.routingDrainTimeout) s = execRoutingDrainTimeout s := rfl
@[simp] theorem exec_uplinkTxTailWrite {src u tail cyc} : exec (.uplinkTxTailWrite src u tail cyc) s = execUplinkTxTailWrite src u tail cyc s := rfl
@[simp] theorem exec_uplinkMessageReceive {u event cyc} : exec (.uplinkMessageReceive u event cyc) s = execUplinkMessageReceive u event cyc s := rfl
@[simp] theorem exec_uplinkResume {src u cyc} : exec (.uplinkResume src u cyc) s = execUplinkResume src u cyc s := rfl
@[simp] theorem exec_codewordReceive {b l cw cyc} : exec (.codewordReceive b l cw cyc) s = execCodewordReceive b l cw cyc s := rfl
@[simp] theorem exec_codewordGapNak {b n cyc} : exec (.codewordGapNak b n cyc) s = execCodewordGapNak b n cyc s := rfl
@[simp] theorem exec_codewordRetxTimeout {b n seq cyc} : exec (.codewordRetxTimeout b n seq cyc) s = execCodewordRetxTimeout b n seq cyc s := rfl
@[simp] theorem exec_bridleLinkFrame {b n ack nak freed cyc} : exec (.bridleLinkFrame b n ack nak freed cyc) s = execBridleLinkFrame b n ack nak freed cyc s := rfl
@[simp] theorem exec_laneDrop {b l cyc} : exec (.laneDrop b l cyc) s = execLaneDrop b l cyc s := rfl
@[simp] theorem exec_laneResume {b l cyc} : exec (.laneResume b l cyc) s = execLaneResume b l cyc s := rfl
@[simp] theorem exec_laneSuspendTimeout {b l} : exec (.laneSuspendTimeout b l) s = execLaneSuspendTimeout b l s := rfl
@[simp] theorem exec_beaconLossTimeout {b n} : exec (.beaconLossTimeout b n) s = execBeaconLossTimeout b n s := rfl
@[simp] theorem exec_identFrame {b l z index peerBridle peerLane admitted serial stamps turn arrival} : exec (.identFrame b l z index peerBridle peerLane admitted serial stamps turn arrival) s = execIdentFrame b l z index peerBridle peerLane admitted serial stamps turn arrival s := rfl
@[simp] theorem exec_laneTrainingComplete {b l} : exec (.laneTrainingComplete b l) s = execLaneTrainingComplete b l s := rfl
@[simp] theorem exec_laneTrainingTimeout {b l cyc} : exec (.laneTrainingTimeout b l cyc) s = execLaneTrainingTimeout b l cyc s := rfl
@[simp] theorem exec_laneTrainingRetry {b l cyc} : exec (.laneTrainingRetry b l cyc) s = execLaneTrainingRetry b l cyc s := rfl
@[simp] theorem exec_laneRetrain {src b l cyc} : exec (.laneRetrain src b l cyc) s = execLaneRetrain src b l cyc s := rfl
@[simp] theorem exec_linkCounterExhaust {b n cyc} : exec (.linkCounterExhaust b n cyc) s = execLinkCounterExhaust b n cyc s := rfl
@[simp] theorem exec_perstAssert : exec (.perstAssert) s = execPerstAssert s := rfl
@[simp] theorem exec_pcieDlDown : exec (.pcieDlDown) s = execPcieDlDown s := rfl
@[simp] theorem exec_functionLevelReset {fn cyc} : exec (.functionLevelReset fn cyc) s = execFunctionLevelReset fn cyc s := rfl
@[simp] theorem exec_bar0Access {whole off write cyc} : exec (.bar0Access whole off write cyc) s = execBar0Access whole off write cyc s := rfl
@[simp] theorem exec_bar4Access {fn off req cyc} : exec (.bar4Access fn off req cyc) s = execBar4Access fn off req cyc s := rfl
@[simp] theorem exec_bar2RingDoorbell {fn off write cyc} : exec (.bar2RingDoorbell fn off write cyc) s = execBar2RingDoorbell fn off write cyc s := rfl
@[simp] theorem exec_hostReadTimeout {id aborted cyc} : exec (.hostReadTimeout id aborted cyc) s = execHostReadTimeout id aborted cyc s := rfl
@[simp] theorem exec_i3cOffsetWrite {off} : exec (.i3cOffsetWrite off) s = execI3cOffsetWrite off s := rfl
@[simp] theorem exec_i3cRegisterRead : exec (.i3cRegisterRead) s = execI3cRegisterRead s := rfl
@[simp] theorem exec_i3cRegisterWrite {off val cyc} : exec (.i3cRegisterWrite off val cyc) s = execI3cRegisterWrite off val cyc s := rfl
@[simp] theorem exec_uartReadCommand {off} : exec (.uartReadCommand off) s = execUartReadCommand off s := rfl
@[simp] theorem exec_uartLogCommand {count} : exec (.uartLogCommand count) s = execUartLogCommand count s := rfl
@[simp] theorem exec_uartWriteCommand {off val cyc} : exec (.uartWriteCommand off val cyc) s = execUartWriteCommand off val cyc s := rfl
@[simp] theorem exec_moduleStart {r} : exec (.moduleStart r) s = execModuleStart r s := rfl
@[simp] theorem exec_startStepTimeout {unit} : exec (.startStepTimeout unit) s = execStartStepTimeout unit s := rfl
@[simp] theorem exec_rollbackCommit {src} : exec (.rollbackCommit src) s = execRollbackCommit src s := rfl
@[simp] theorem exec_firmwareBlockReceived {c b} : exec (.firmwareBlockReceived c b) s = execFirmwareBlockReceived c b s := rfl
@[simp] theorem exec_firmwareRepairCheck {r image} : exec (.firmwareRepairCheck r image) s = execFirmwareRepairCheck r image s := rfl
@[simp] theorem exec_reckonerPartialReset {src val cyc} : exec (.reckonerPartialReset src val cyc) s = execReckonerPartialReset src val cyc s := rfl
@[simp] theorem exec_reckonerRestartTimeout {r cyc} : exec (.reckonerRestartTimeout r cyc) s = execReckonerRestartTimeout r cyc s := rfl
@[simp] theorem exec_fieldFailListClear {src} : exec (.fieldFailListClear src) s = execFieldFailListClear src s := rfl
@[simp] theorem exec_coreFailInService {c cause} : exec (.coreFailInService c cause) s = execCoreFailInService c cause s := rfl
@[simp] theorem exec_farrierCoreSubstitution {c} : exec (.farrierCoreSubstitution c) s = execFarrierCoreSubstitution c s := rfl
@[simp] theorem exec_sparePeriodicCheck {r code} : exec (.sparePeriodicCheck r code) s = execSparePeriodicCheck r code s := rfl
@[simp] theorem exec_fieldFailInService {r east} : exec (.fieldFailInService r east) s = execFieldFailInService r east s := rfl
@[simp] theorem exec_reckonerFail {r} : exec (.reckonerFail r) s = execReckonerFail r s := rfl
@[simp] theorem exec_moduleFailStop {block} : exec (.moduleFailStop block) s = execModuleFailStop block s := rfl
@[simp] theorem exec_gateAction {g epoch seq off val cyc} : exec (.gateAction g epoch seq off val cyc) s = execGateAction g epoch seq off val cyc s := rfl
@[simp] theorem exec_groomHeartbeatTimeout {g} : exec (.groomHeartbeatTimeout g) s = execGroomHeartbeatTimeout g s := rfl
@[simp] theorem exec_groomSelfFault {g} : exec (.groomSelfFault g) s = execGroomSelfFault g s := rfl
@[simp] theorem exec_groomPlannedSwitch {src cyc} : exec (.groomPlannedSwitch src cyc) s = execGroomPlannedSwitch src cyc s := rfl
@[simp] theorem exec_standbyHealthTimeout {g} : exec (.standbyHealthTimeout g) s = execStandbyHealthTimeout g s := rfl
@[simp] theorem exec_groomRestartComplete {g ok} : exec (.groomRestartComplete g ok) s = execGroomRestartComplete g ok s := rfl
@[simp] theorem exec_sensorSample {cls index reading} : exec (.sensorSample cls index reading) s = execSensorSample cls index reading s := rfl
@[simp] theorem exec_sensorBad {cls index near0 near1} : exec (.sensorBad cls index near0 near1) s = execSensorBad cls index near0 near1 s := rfl
@[simp] theorem exec_rateLevelHoldExpiry {r} : exec (.rateLevelHoldExpiry r) s = execRateLevelHoldExpiry r s := rfl
@[simp] theorem exec_shutdownCooldownComplete {r} : exec (.shutdownCooldownComplete r) s = execShutdownCooldownComplete r s := rfl
@[simp] theorem exec_thermtrip {cls index} : exec (.thermtrip cls index) s = execThermtrip cls index s := rfl
@[simp] theorem exec_deferredRecordFlush : exec (.deferredRecordFlush) s = execDeferredRecordFlush s := rfl
@[simp] theorem exec_powerSample {avg10ms avg1s} : exec (.powerSample avg10ms avg1s) s = execPowerSample avg10ms avg1s s := rfl
@[simp] theorem exec_powerThrottleStep : exec (.powerThrottleStep) s = execPowerThrottleStep s := rfl
@[simp] theorem exec_powerStateTarget {src val cyc} : exec (.powerStateTarget src val cyc) s = execPowerStateTarget src val cyc s := rfl
@[simp] theorem exec_powerStateStepComplete : exec (.powerStateStepComplete) s = execPowerStateStepComplete s := rfl
@[simp] theorem exec_debugChallenge {src val} : exec (.debugChallenge src val) s = execDebugChallenge src val s := rfl
@[simp] theorem exec_debugSubmit {src val cyc} : exec (.debugSubmit src val cyc) s = execDebugSubmit src val cyc s := rfl
@[simp] theorem exec_debugRevoke {src val} : exec (.debugRevoke src val) s = execDebugRevoke src val s := rfl
@[simp] theorem exec_provision {src val} : exec (.provision src val) s = execProvision src val s := rfl
@[simp] theorem exec_pubkey {src val} : exec (.pubkey src val) s = execPubkey src val s := rfl
@[simp] theorem exec_authDataRead {src} : exec (.authDataRead src) s = execAuthDataRead src s := rfl
@[simp] theorem exec_authDataWrite {src val} : exec (.authDataWrite src val) s = execAuthDataWrite src val s := rfl
@[simp] theorem exec_challengeExpiry : exec (.challengeExpiry) s = execChallengeExpiry s := rfl
@[simp] theorem exec_authLockoutExpiry : exec (.authLockoutExpiry) s = execAuthLockoutExpiry s := rfl
@[simp] theorem exec_zeroisationComplete {failed} : exec (.zeroisationComplete failed) s = execZeroisationComplete failed s := rfl
@[simp] theorem exec_keyLoad {src val} : exec (.keyLoad src val) s = execKeyLoad src val s := rfl
@[simp] theorem exec_keyErase {src val} : exec (.keyErase src val) s = execKeyErase src val s := rfl
@[simp] theorem exec_keyBind {src val cyc} : exec (.keyBind src val cyc) s = execKeyBind src val cyc s := rfl
@[simp] theorem exec_keyUnbind {src val cyc} : exec (.keyUnbind src val cyc) s = execKeyUnbind src val cyc s := rfl
@[simp] theorem exec_linkEncryptionSwitch {src val} : exec (.linkEncryptionSwitch src val) s = execLinkEncryptionSwitch src val s := rfl
@[simp] theorem exec_snapshotRearm {src} : exec (.snapshotRearm src) s = execSnapshotRearm src s := rfl
@[simp] theorem exec_snapshotTrigNow {src} : exec (.snapshotTrigNow src) s = execSnapshotTrigNow src s := rfl
@[simp] theorem exec_snapshotTrigBnd {src} : exec (.snapshotTrigBnd src) s = execSnapshotTrigBnd src s := rfl
@[simp] theorem exec_snapshotTrigRack {src} : exec (.snapshotTrigRack src) s = execSnapshotTrigRack src s := rfl
@[simp] theorem exec_trigInFall : exec (.trigInFall) s = execTrigInFall s := rfl
@[simp] theorem exec_faultRecord {cls code source detail job logged same} : exec (.faultRecord cls code source detail job logged same) s = execFaultRecord cls code source detail job logged same s := rfl
@[simp] theorem exec_faultRingWriteComplete {job ok} : exec (.faultRingWriteComplete job ok) s = execFaultRingWriteComplete job ok s := rfl
@[simp] theorem exec_faultRingHeadWrite {src val} : exec (.faultRingHeadWrite src val) s = execFaultRingHeadWrite src val s := rfl
@[simp] theorem exec_tallyPatrol {c word errs} : exec (.tallyPatrol c word errs) s = execTallyPatrol c word errs s := rfl
@[simp] theorem exec_patrolScrub {line errs} : exec (.patrolScrub line errs) s = execPatrolScrub line errs s := rfl
@[simp] theorem exec_refreshManagement {k bank} : exec (.refreshManagement k bank) s = execRefreshManagement k bank s := rfl
@[simp] theorem exec_retrainStart {k links} : exec (.retrainStart k links) s = execRetrainStart k links s := rfl
@[simp] theorem exec_trainingBurst {k channel} : exec (.trainingBurst k channel) s = execTrainingBurst k channel s := rfl
@[simp] theorem exec_rowRepair {line spare left} : exec (.rowRepair line spare left) s = execRowRepair line spare left s := rfl
@[simp] theorem exec_stackLost {k} : exec (.stackLost k) s = execStackLost k s := rfl
@[simp] theorem exec_foldFillComplete : exec (.foldFillComplete) s = execFoldFillComplete s := rfl
@[simp] theorem exec_historyWaitTimeout {cyc} : exec (.historyWaitTimeout cyc) s = execHistoryWaitTimeout cyc s := rfl
@[simp] theorem exec_stackEvacuationComplete {k} : exec (.stackEvacuationComplete k) s = execStackEvacuationComplete k s := rfl
@[simp] theorem exec_vin48Loss : exec (.vin48Loss) s = execVin48Loss s := rfl
@[simp] theorem exec_analogRailLoss {vio} : exec (.analogRailLoss vio) s = execAnalogRailLoss vio s := rfl
@[simp] theorem exec_vlas12Loss : exec (.vlas12Loss) s = execVlas12Loss s := rfl
@[simp] theorem exec_vstbyLoss : exec (.vstbyLoss) s = execVstbyLoss s := rfl
@[simp] theorem exec_modResetAssert : exec (.modResetAssert) s = execModResetAssert s := rfl
@[simp] theorem exec_perstDeassert : exec (.perstDeassert) s = execPerstDeassert s := rfl
@[simp] theorem exec_pcieLinkUp {width speed flit} : exec (.pcieLinkUp width speed flit) s = execPcieLinkUp width speed flit s := rfl
@[simp] theorem exec_vstbyReturn : exec (.vstbyReturn) s = execVstbyReturn s := rfl
@[simp] theorem exec_vlas12Return : exec (.vlas12Return) s = execVlas12Return s := rfl
@[simp] theorem exec_spareBecomesFit {k monitor} : exec (.spareBecomesFit k monitor) s = execSpareBecomesFit k monitor s := rfl
@[simp] theorem exec_trainingBurstComplete {k ok} : exec (.trainingBurstComplete k ok) s = execTrainingBurstComplete k ok s := rfl
@[simp] theorem exec_atomicResultExpiry {source b seq cyc} : exec (.atomicResultExpiry source b seq cyc) s = execAtomicResultExpiry source b seq cyc s := rfl
@[simp] theorem exec_flagEpochUseClear {b port job target epoch cyc} : exec (.flagEpochUseClear b port job target epoch cyc) s = execFlagEpochUseClear b port job target epoch cyc s := rfl
@[simp] theorem exec_powerEmergencyHoldExpiry : exec (.powerEmergencyHoldExpiry) s = execPowerEmergencyHoldExpiry s := rfl
@[simp] theorem exec_jtagMemoryAccess {access} : exec (.jtagMemoryAccess access) s = execJtagMemoryAccess access s := rfl

end Sys2Proof.Machine
end

