-- ==== Sys2Proof/Laws/Faults.lean ====
section
/-! SUPPORT. What a fault record leaves alone: all of the state but registers, the fault stores, messages sent and the snapshot. -/

namespace Sys2Proof.Machine

variable {s t u : State}

theorem FaultsOnly.refl (s : State) : FaultsOnly s s := rfl

theorem FaultsOnly.mk {r f o n} (h : FaultsOnly s t) : FaultsOnly s { t with regs := r, flt := f, out := o, snap := n } := by
  unfold FaultsOnly at h ⊢
  rw [h]

theorem FaultsOnly.slots {l} (h : FaultsOnly s t) : FaultsOnly s { t with hitch := { t.hitch with slots := l } } := by
  unfold FaultsOnly at h ⊢
  rw [h]

theorem FaultsOnly.foldl {α : Type} {f : State → α → State} (hf : ∀ a x, FaultsOnly s a → FaultsOnly s (f a x)) {l : List α}
    (h : FaultsOnly s t) : FaultsOnly s (l.foldl f t) := by
  induction l generalizing t with
  | nil => exact h
  | cons x l ih => exact ih (hf t x h)

theorem FaultsOnly.ite {c : Prop} [Decidable c] {a b : State} (ha : FaultsOnly s a) (hb : FaultsOnly s b) :
    FaultsOnly s (if c then a else b) := by
  split <;> assumption

theorem State.setReg_faults (h : FaultsOnly s t) {k w} : FaultsOnly s (t.setReg k w) := h.mk
theorem State.setRegF_faults (h : FaultsOnly s t) {k a b w} : FaultsOnly s (t.setRegF k a b w) := h.mk
theorem State.setIrq_faults (h : FaultsOnly s t) {a b} : FaultsOnly s (t.setIrq a b) := h.mk

theorem State.bump_faults (h : FaultsOnly s t) {k n} : FaultsOnly s (t.bump k n) := by
  unfold State.bump
  exact .ite h.mk h.mk

theorem State.defer_faults (h : FaultsOnly s t) {r} : FaultsOnly s (t.defer r) := by
  unfold State.defer
  exact .ite (State.bump_faults h.mk) h.mk

theorem State.writeLog_faults (h : FaultsOnly s t) {r} : FaultsOnly s (t.writeLog r) := by
  unfold State.writeLog
  exact .ite h.mk (State.defer_faults h)

theorem State.toRing_faults (h : FaultsOnly s t) {j r} : FaultsOnly s (t.toRing j r) := by
  unfold State.toRing
  exact .ite (State.bump_faults h) h.mk

theorem State.launchSnap_faults (h : FaultsOnly s t) {n} : FaultsOnly s (t.launchSnap n) := by
  unfold State.launchSnap
  exact .ite h (.foldl (fun _ _ k => k.slots) h.mk)

theorem State.trigger_faults (h : FaultsOnly s t) {m n} : FaultsOnly s (t.trigger m n) := by
  unfold State.trigger
  refine .ite h.mk ?_
  split
  · exact State.launchSnap_faults h
  · exact h.mk
  · exact h.mk

theorem State.notePage_faults (h : FaultsOnly s t) {n} : FaultsOnly s (t.notePage n) := h.mk

theorem State.pageRecord_faults (h : FaultsOnly s t) {r b} : FaultsOnly s (t.pageRecord r b) := by
  unfold State.pageRecord
  dsimp only
  have k := State.setIrq_faults (State.bump_faults (State.notePage_faults h (n := slotOfPage (r.source.field 31 16) (r.source.field 15 8)))
    (k := slotOfPage (r.source.field 31 16) (r.source.field 15 8) * 4096 + 0x30) (n := 1))
    (a := slotOfPage (r.source.field 31 16) (r.source.field 15 8)) (b := 0)
  refine .ite k ?_
  split
  · exact State.setReg_faults (State.setReg_faults (State.setReg_faults (State.setReg_faults k)))
  · exact k

theorem State.raiseRecord_faults (h : FaultsOnly s t) {r j l b} : FaultsOnly s (t.raiseRecord r j l b) := by
  unfold State.raiseRecord
  have k := State.pageRecord_faults h (r := r) (b := b)
  generalize t.pageRecord r b = v at k ⊢
  cases j with
  | none => exact .ite (State.trigger_faults (.ite (State.writeLog_faults k) k)) (.ite (State.writeLog_faults k) k)
  | some j =>
    have k : FaultsOnly s (if (j != 0 && v.ringOn j) = true then v.toRing j r else v) := .ite (State.toRing_faults k) k
    exact .ite (State.trigger_faults (.ite (State.writeLog_faults k) k)) (.ite (State.writeLog_faults k) k)

theorem State.raise_faults (h : FaultsOnly s t) {f b j l d} : FaultsOnly s (t.raise f b j l d) := State.raiseRecord_faults h
theorem State.raiseTo_faults (h : FaultsOnly s t) {f b j d} : FaultsOnly s (t.raiseTo f b j d) := State.raiseRecord_faults h
theorem State.logFault_faults (h : FaultsOnly s t) {f b d} : FaultsOnly s (t.logFault f b d) := State.raiseRecord_faults h

theorem FaultsOnly.pending (h : FaultsOnly s t) : t.pending = s.pending := Eq.trans (congrArg State.pending h) rfl
theorem FaultsOnly.clk (h : FaultsOnly s t) : t.clk = s.clk := Eq.trans (congrArg State.clk h) rfl
theorem FaultsOnly.sync (h : FaultsOnly s t) : t.sync = s.sync := Eq.trans (congrArg State.sync h) rfl
theorem FaultsOnly.live (h : FaultsOnly s t) : t.live = s.live := Eq.trans (congrArg State.live h) rfl
theorem FaultsOnly.staged (h : FaultsOnly s t) : t.staged = s.staged := Eq.trans (congrArg State.staged h) rfl
theorem FaultsOnly.shadows (h : FaultsOnly s t) : t.shadows = s.shadows := Eq.trans (congrArg State.shadows h) rfl
theorem FaultsOnly.units (h : FaultsOnly s t) : t.units = s.units := Eq.trans (congrArg State.units h) rfl
theorem FaultsOnly.due (h : FaultsOnly s t) : t.due = s.due := Eq.trans (congrArg State.due h) rfl
theorem FaultsOnly.mem (h : FaultsOnly s t) : t.mem = s.mem := Eq.trans (congrArg State.mem h) rfl
theorem FaultsOnly.dram (h : FaultsOnly s t) : t.dram = s.dram := Eq.trans (congrArg State.dram h) rfl
theorem FaultsOnly.cores (h : FaultsOnly s t) : t.cores = s.cores := Eq.trans (congrArg State.cores h) rfl
theorem FaultsOnly.dies (h : FaultsOnly s t) : t.dies = s.dies := Eq.trans (congrArg State.dies h) rfl
theorem FaultsOnly.ctrs (h : FaultsOnly s t) : t.hitch.ctrs = s.hitch.ctrs := by rw [h]
theorem FaultsOnly.watches (h : FaultsOnly s t) : t.hitch.watches = s.hitch.watches := by rw [h]
theorem FaultsOnly.flight (h : FaultsOnly s t) : t.hitch.flight = s.hitch.flight := by rw [h]
theorem FaultsOnly.groom (h : FaultsOnly s t) : t.groom = s.groom := Eq.trans (congrArg State.groom h) rfl
theorem FaultsOnly.therm (h : FaultsOnly s t) : t.therm = s.therm := Eq.trans (congrArg State.therm h) rfl
theorem FaultsOnly.power (h : FaultsOnly s t) : t.power = s.power := Eq.trans (congrArg State.power h) rfl
theorem FaultsOnly.sec (h : FaultsOnly s t) : t.sec = s.sec := Eq.trans (congrArg State.sec h) rfl
theorem FaultsOnly.link (h : FaultsOnly s t) : t.link = s.link := Eq.trans (congrArg State.link h) rfl
theorem FaultsOnly.stb (h : FaultsOnly s t) : t.stb = s.stb := Eq.trans (congrArg State.stb h) rfl
theorem FaultsOnly.bln (h : FaultsOnly s t) : t.bln = s.bln := Eq.trans (congrArg State.bln h) rfl
theorem FaultsOnly.edu (h : FaultsOnly s t) : t.edu = s.edu := Eq.trans (congrArg State.edu h) rfl
theorem FaultsOnly.drg (h : FaultsOnly s t) : t.drg = s.drg := Eq.trans (congrArg State.drg h) rfl
theorem FaultsOnly.las (h : FaultsOnly s t) : t.las = s.las := Eq.trans (congrArg State.las h) rfl
theorem FaultsOnly.cal (h : FaultsOnly s t) : t.cal = s.cal := Eq.trans (congrArg State.cal h) rfl
theorem FaultsOnly.fab (h : FaultsOnly s t) : t.fab = s.fab := Eq.trans (congrArg State.fab h) rfl
theorem FaultsOnly.brd (h : FaultsOnly s t) : t.brd = s.brd := Eq.trans (congrArg State.brd h) rfl
theorem FaultsOnly.pci (h : FaultsOnly s t) : t.pci = s.pci := Eq.trans (congrArg State.pci h) rfl
theorem FaultsOnly.mgmt (h : FaultsOnly s t) : t.mgmt = s.mgmt := Eq.trans (congrArg State.mgmt h) rfl
theorem FaultsOnly.rein (h : FaultsOnly s t) : t.rein = s.rein := Eq.trans (congrArg State.rein h) rfl
theorem FaultsOnly.sup (h : FaultsOnly s t) : t.sup = s.sup := Eq.trans (congrArg State.sup h) rfl
theorem FaultsOnly.toIssue (h : FaultsOnly s t) : t.toIssue = s.toIssue := Eq.trans (congrArg State.toIssue h) rfl
theorem FaultsOnly.freeCount (h : FaultsOnly s t) : t.freeCount = s.freeCount := Eq.trans (congrArg State.freeCount h) rfl
theorem FaultsOnly.nextId (h : FaultsOnly s t) : t.nextId = s.nextId := Eq.trans (congrArg State.nextId h) rfl

/-! ### State.bump -/

@[simp] theorem State.bump_pending {k n} : (s.bump k n).pending = s.pending := (State.bump_faults (.refl s)).pending
@[simp] theorem State.bump_clk {k n} : (s.bump k n).clk = s.clk := (State.bump_faults (.refl s)).clk
@[simp] theorem State.bump_sync {k n} : (s.bump k n).sync = s.sync := (State.bump_faults (.refl s)).sync
@[simp] theorem State.bump_live {k n} : (s.bump k n).live = s.live := (State.bump_faults (.refl s)).live
@[simp] theorem State.bump_staged {k n} : (s.bump k n).staged = s.staged := (State.bump_faults (.refl s)).staged
@[simp] theorem State.bump_shadows {k n} : (s.bump k n).shadows = s.shadows := (State.bump_faults (.refl s)).shadows
@[simp] theorem State.bump_units {k n} : (s.bump k n).units = s.units := (State.bump_faults (.refl s)).units
@[simp] theorem State.bump_due {k n} : (s.bump k n).due = s.due := (State.bump_faults (.refl s)).due
@[simp] theorem State.bump_mem {k n} : (s.bump k n).mem = s.mem := (State.bump_faults (.refl s)).mem
@[simp] theorem State.bump_dram {k n} : (s.bump k n).dram = s.dram := (State.bump_faults (.refl s)).dram
@[simp] theorem State.bump_cores {k n} : (s.bump k n).cores = s.cores := (State.bump_faults (.refl s)).cores
@[simp] theorem State.bump_dies {k n} : (s.bump k n).dies = s.dies := (State.bump_faults (.refl s)).dies
@[simp] theorem State.bump_hitch {k n} : (s.bump k n).hitch = s.hitch := by
  unfold State.bump
  dsimp only
  split <;> rfl
@[simp] theorem State.bump_groom {k n} : (s.bump k n).groom = s.groom := (State.bump_faults (.refl s)).groom
@[simp] theorem State.bump_therm {k n} : (s.bump k n).therm = s.therm := (State.bump_faults (.refl s)).therm
@[simp] theorem State.bump_power {k n} : (s.bump k n).power = s.power := (State.bump_faults (.refl s)).power
@[simp] theorem State.bump_sec {k n} : (s.bump k n).sec = s.sec := (State.bump_faults (.refl s)).sec
@[simp] theorem State.bump_link {k n} : (s.bump k n).link = s.link := (State.bump_faults (.refl s)).link
@[simp] theorem State.bump_stb {k n} : (s.bump k n).stb = s.stb := (State.bump_faults (.refl s)).stb
@[simp] theorem State.bump_bln {k n} : (s.bump k n).bln = s.bln := (State.bump_faults (.refl s)).bln
@[simp] theorem State.bump_edu {k n} : (s.bump k n).edu = s.edu := (State.bump_faults (.refl s)).edu
@[simp] theorem State.bump_drg {k n} : (s.bump k n).drg = s.drg := (State.bump_faults (.refl s)).drg
@[simp] theorem State.bump_las {k n} : (s.bump k n).las = s.las := (State.bump_faults (.refl s)).las
@[simp] theorem State.bump_cal {k n} : (s.bump k n).cal = s.cal := (State.bump_faults (.refl s)).cal
@[simp] theorem State.bump_fab {k n} : (s.bump k n).fab = s.fab := (State.bump_faults (.refl s)).fab
@[simp] theorem State.bump_brd {k n} : (s.bump k n).brd = s.brd := (State.bump_faults (.refl s)).brd
@[simp] theorem State.bump_pci {k n} : (s.bump k n).pci = s.pci := (State.bump_faults (.refl s)).pci
@[simp] theorem State.bump_mgmt {k n} : (s.bump k n).mgmt = s.mgmt := (State.bump_faults (.refl s)).mgmt
@[simp] theorem State.bump_rein {k n} : (s.bump k n).rein = s.rein := (State.bump_faults (.refl s)).rein
@[simp] theorem State.bump_sup {k n} : (s.bump k n).sup = s.sup := (State.bump_faults (.refl s)).sup
@[simp] theorem State.bump_toIssue {k n} : (s.bump k n).toIssue = s.toIssue := (State.bump_faults (.refl s)).toIssue
@[simp] theorem State.bump_freeCount {k n} : (s.bump k n).freeCount = s.freeCount := (State.bump_faults (.refl s)).freeCount
@[simp] theorem State.bump_nextId {k n} : (s.bump k n).nextId = s.nextId := (State.bump_faults (.refl s)).nextId

/-! ### State.raiseRecord -/

@[simp] theorem State.raiseRecord_pending {r j l b} : (s.raiseRecord r j l b).pending = s.pending := (State.raiseRecord_faults (.refl s)).pending
@[simp] theorem State.raiseRecord_clk {r j l b} : (s.raiseRecord r j l b).clk = s.clk := (State.raiseRecord_faults (.refl s)).clk
@[simp] theorem State.raiseRecord_sync {r j l b} : (s.raiseRecord r j l b).sync = s.sync := (State.raiseRecord_faults (.refl s)).sync
@[simp] theorem State.raiseRecord_live {r j l b} : (s.raiseRecord r j l b).live = s.live := (State.raiseRecord_faults (.refl s)).live
@[simp] theorem State.raiseRecord_staged {r j l b} : (s.raiseRecord r j l b).staged = s.staged := (State.raiseRecord_faults (.refl s)).staged
@[simp] theorem State.raiseRecord_shadows {r j l b} : (s.raiseRecord r j l b).shadows = s.shadows := (State.raiseRecord_faults (.refl s)).shadows
@[simp] theorem State.raiseRecord_units {r j l b} : (s.raiseRecord r j l b).units = s.units := (State.raiseRecord_faults (.refl s)).units
@[simp] theorem State.raiseRecord_due {r j l b} : (s.raiseRecord r j l b).due = s.due := (State.raiseRecord_faults (.refl s)).due
@[simp] theorem State.raiseRecord_mem {r j l b} : (s.raiseRecord r j l b).mem = s.mem := (State.raiseRecord_faults (.refl s)).mem
@[simp] theorem State.raiseRecord_dram {r j l b} : (s.raiseRecord r j l b).dram = s.dram := (State.raiseRecord_faults (.refl s)).dram
@[simp] theorem State.raiseRecord_cores {r j l b} : (s.raiseRecord r j l b).cores = s.cores := (State.raiseRecord_faults (.refl s)).cores
@[simp] theorem State.raiseRecord_dies {r j l b} : (s.raiseRecord r j l b).dies = s.dies := (State.raiseRecord_faults (.refl s)).dies
@[simp] theorem State.raiseRecord_ctrs {r j l b} : (s.raiseRecord r j l b).hitch.ctrs = s.hitch.ctrs := (State.raiseRecord_faults (.refl s)).ctrs
@[simp] theorem State.raiseRecord_watches {r j l b} : (s.raiseRecord r j l b).hitch.watches = s.hitch.watches := (State.raiseRecord_faults (.refl s)).watches
@[simp] theorem State.raiseRecord_flight {r j l b} : (s.raiseRecord r j l b).hitch.flight = s.hitch.flight := (State.raiseRecord_faults (.refl s)).flight
@[simp] theorem State.raiseRecord_groom {r j l b} : (s.raiseRecord r j l b).groom = s.groom := (State.raiseRecord_faults (.refl s)).groom
@[simp] theorem State.raiseRecord_therm {r j l b} : (s.raiseRecord r j l b).therm = s.therm := (State.raiseRecord_faults (.refl s)).therm
@[simp] theorem State.raiseRecord_power {r j l b} : (s.raiseRecord r j l b).power = s.power := (State.raiseRecord_faults (.refl s)).power
@[simp] theorem State.raiseRecord_sec {r j l b} : (s.raiseRecord r j l b).sec = s.sec := (State.raiseRecord_faults (.refl s)).sec
@[simp] theorem State.raiseRecord_link {r j l b} : (s.raiseRecord r j l b).link = s.link := (State.raiseRecord_faults (.refl s)).link
@[simp] theorem State.raiseRecord_stb {r j l b} : (s.raiseRecord r j l b).stb = s.stb := (State.raiseRecord_faults (.refl s)).stb
@[simp] theorem State.raiseRecord_bln {r j l b} : (s.raiseRecord r j l b).bln = s.bln := (State.raiseRecord_faults (.refl s)).bln
@[simp] theorem State.raiseRecord_edu {r j l b} : (s.raiseRecord r j l b).edu = s.edu := (State.raiseRecord_faults (.refl s)).edu
@[simp] theorem State.raiseRecord_drg {r j l b} : (s.raiseRecord r j l b).drg = s.drg := (State.raiseRecord_faults (.refl s)).drg
@[simp] theorem State.raiseRecord_las {r j l b} : (s.raiseRecord r j l b).las = s.las := (State.raiseRecord_faults (.refl s)).las
@[simp] theorem State.raiseRecord_cal {r j l b} : (s.raiseRecord r j l b).cal = s.cal := (State.raiseRecord_faults (.refl s)).cal
@[simp] theorem State.raiseRecord_fab {r j l b} : (s.raiseRecord r j l b).fab = s.fab := (State.raiseRecord_faults (.refl s)).fab
@[simp] theorem State.raiseRecord_brd {r j l b} : (s.raiseRecord r j l b).brd = s.brd := (State.raiseRecord_faults (.refl s)).brd
@[simp] theorem State.raiseRecord_pci {r j l b} : (s.raiseRecord r j l b).pci = s.pci := (State.raiseRecord_faults (.refl s)).pci
@[simp] theorem State.raiseRecord_mgmt {r j l b} : (s.raiseRecord r j l b).mgmt = s.mgmt := (State.raiseRecord_faults (.refl s)).mgmt
@[simp] theorem State.raiseRecord_rein {r j l b} : (s.raiseRecord r j l b).rein = s.rein := (State.raiseRecord_faults (.refl s)).rein
@[simp] theorem State.raiseRecord_sup {r j l b} : (s.raiseRecord r j l b).sup = s.sup := (State.raiseRecord_faults (.refl s)).sup
@[simp] theorem State.raiseRecord_toIssue {r j l b} : (s.raiseRecord r j l b).toIssue = s.toIssue := (State.raiseRecord_faults (.refl s)).toIssue
@[simp] theorem State.raiseRecord_freeCount {r j l b} : (s.raiseRecord r j l b).freeCount = s.freeCount := (State.raiseRecord_faults (.refl s)).freeCount
@[simp] theorem State.raiseRecord_nextId {r j l b} : (s.raiseRecord r j l b).nextId = s.nextId := (State.raiseRecord_faults (.refl s)).nextId

/-! ### State.raise -/

@[simp] theorem State.raise_pending {x b j l d} : (s.raise x b j l d).pending = s.pending := (State.raise_faults (.refl s)).pending
@[simp] theorem State.raise_clk {x b j l d} : (s.raise x b j l d).clk = s.clk := (State.raise_faults (.refl s)).clk
@[simp] theorem State.raise_sync {x b j l d} : (s.raise x b j l d).sync = s.sync := (State.raise_faults (.refl s)).sync
@[simp] theorem State.raise_live {x b j l d} : (s.raise x b j l d).live = s.live := (State.raise_faults (.refl s)).live
@[simp] theorem State.raise_staged {x b j l d} : (s.raise x b j l d).staged = s.staged := (State.raise_faults (.refl s)).staged
@[simp] theorem State.raise_shadows {x b j l d} : (s.raise x b j l d).shadows = s.shadows := (State.raise_faults (.refl s)).shadows
@[simp] theorem State.raise_units {x b j l d} : (s.raise x b j l d).units = s.units := (State.raise_faults (.refl s)).units
@[simp] theorem State.raise_due {x b j l d} : (s.raise x b j l d).due = s.due := (State.raise_faults (.refl s)).due
@[simp] theorem State.raise_mem {x b j l d} : (s.raise x b j l d).mem = s.mem := (State.raise_faults (.refl s)).mem
@[simp] theorem State.raise_dram {x b j l d} : (s.raise x b j l d).dram = s.dram := (State.raise_faults (.refl s)).dram
@[simp] theorem State.raise_cores {x b j l d} : (s.raise x b j l d).cores = s.cores := (State.raise_faults (.refl s)).cores
@[simp] theorem State.raise_dies {x b j l d} : (s.raise x b j l d).dies = s.dies := (State.raise_faults (.refl s)).dies
@[simp] theorem State.raise_ctrs {x b j l d} : (s.raise x b j l d).hitch.ctrs = s.hitch.ctrs := (State.raise_faults (.refl s)).ctrs
@[simp] theorem State.raise_watches {x b j l d} : (s.raise x b j l d).hitch.watches = s.hitch.watches := (State.raise_faults (.refl s)).watches
@[simp] theorem State.raise_flight {x b j l d} : (s.raise x b j l d).hitch.flight = s.hitch.flight := (State.raise_faults (.refl s)).flight
@[simp] theorem State.raise_groom {x b j l d} : (s.raise x b j l d).groom = s.groom := (State.raise_faults (.refl s)).groom
@[simp] theorem State.raise_therm {x b j l d} : (s.raise x b j l d).therm = s.therm := (State.raise_faults (.refl s)).therm
@[simp] theorem State.raise_power {x b j l d} : (s.raise x b j l d).power = s.power := (State.raise_faults (.refl s)).power
@[simp] theorem State.raise_sec {x b j l d} : (s.raise x b j l d).sec = s.sec := (State.raise_faults (.refl s)).sec
@[simp] theorem State.raise_link {x b j l d} : (s.raise x b j l d).link = s.link := (State.raise_faults (.refl s)).link
@[simp] theorem State.raise_stb {x b j l d} : (s.raise x b j l d).stb = s.stb := (State.raise_faults (.refl s)).stb
@[simp] theorem State.raise_bln {x b j l d} : (s.raise x b j l d).bln = s.bln := (State.raise_faults (.refl s)).bln
@[simp] theorem State.raise_edu {x b j l d} : (s.raise x b j l d).edu = s.edu := (State.raise_faults (.refl s)).edu
@[simp] theorem State.raise_drg {x b j l d} : (s.raise x b j l d).drg = s.drg := (State.raise_faults (.refl s)).drg
@[simp] theorem State.raise_las {x b j l d} : (s.raise x b j l d).las = s.las := (State.raise_faults (.refl s)).las
@[simp] theorem State.raise_cal {x b j l d} : (s.raise x b j l d).cal = s.cal := (State.raise_faults (.refl s)).cal
@[simp] theorem State.raise_fab {x b j l d} : (s.raise x b j l d).fab = s.fab := (State.raise_faults (.refl s)).fab
@[simp] theorem State.raise_brd {x b j l d} : (s.raise x b j l d).brd = s.brd := (State.raise_faults (.refl s)).brd
@[simp] theorem State.raise_pci {x b j l d} : (s.raise x b j l d).pci = s.pci := (State.raise_faults (.refl s)).pci
@[simp] theorem State.raise_mgmt {x b j l d} : (s.raise x b j l d).mgmt = s.mgmt := (State.raise_faults (.refl s)).mgmt
@[simp] theorem State.raise_rein {x b j l d} : (s.raise x b j l d).rein = s.rein := (State.raise_faults (.refl s)).rein
@[simp] theorem State.raise_sup {x b j l d} : (s.raise x b j l d).sup = s.sup := (State.raise_faults (.refl s)).sup
@[simp] theorem State.raise_toIssue {x b j l d} : (s.raise x b j l d).toIssue = s.toIssue := (State.raise_faults (.refl s)).toIssue
@[simp] theorem State.raise_freeCount {x b j l d} : (s.raise x b j l d).freeCount = s.freeCount := (State.raise_faults (.refl s)).freeCount
@[simp] theorem State.raise_nextId {x b j l d} : (s.raise x b j l d).nextId = s.nextId := (State.raise_faults (.refl s)).nextId

/-! ### State.raiseTo -/

@[simp] theorem State.raiseTo_pending {x b j d} : (s.raiseTo x b j d).pending = s.pending := (State.raiseTo_faults (.refl s)).pending
@[simp] theorem State.raiseTo_clk {x b j d} : (s.raiseTo x b j d).clk = s.clk := (State.raiseTo_faults (.refl s)).clk
@[simp] theorem State.raiseTo_sync {x b j d} : (s.raiseTo x b j d).sync = s.sync := (State.raiseTo_faults (.refl s)).sync
@[simp] theorem State.raiseTo_live {x b j d} : (s.raiseTo x b j d).live = s.live := (State.raiseTo_faults (.refl s)).live
@[simp] theorem State.raiseTo_staged {x b j d} : (s.raiseTo x b j d).staged = s.staged := (State.raiseTo_faults (.refl s)).staged
@[simp] theorem State.raiseTo_shadows {x b j d} : (s.raiseTo x b j d).shadows = s.shadows := (State.raiseTo_faults (.refl s)).shadows
@[simp] theorem State.raiseTo_units {x b j d} : (s.raiseTo x b j d).units = s.units := (State.raiseTo_faults (.refl s)).units
@[simp] theorem State.raiseTo_due {x b j d} : (s.raiseTo x b j d).due = s.due := (State.raiseTo_faults (.refl s)).due
@[simp] theorem State.raiseTo_mem {x b j d} : (s.raiseTo x b j d).mem = s.mem := (State.raiseTo_faults (.refl s)).mem
@[simp] theorem State.raiseTo_dram {x b j d} : (s.raiseTo x b j d).dram = s.dram := (State.raiseTo_faults (.refl s)).dram
@[simp] theorem State.raiseTo_cores {x b j d} : (s.raiseTo x b j d).cores = s.cores := (State.raiseTo_faults (.refl s)).cores
@[simp] theorem State.raiseTo_dies {x b j d} : (s.raiseTo x b j d).dies = s.dies := (State.raiseTo_faults (.refl s)).dies
@[simp] theorem State.raiseTo_ctrs {x b j d} : (s.raiseTo x b j d).hitch.ctrs = s.hitch.ctrs := (State.raiseTo_faults (.refl s)).ctrs
@[simp] theorem State.raiseTo_watches {x b j d} : (s.raiseTo x b j d).hitch.watches = s.hitch.watches := (State.raiseTo_faults (.refl s)).watches
@[simp] theorem State.raiseTo_flight {x b j d} : (s.raiseTo x b j d).hitch.flight = s.hitch.flight := (State.raiseTo_faults (.refl s)).flight
@[simp] theorem State.raiseTo_groom {x b j d} : (s.raiseTo x b j d).groom = s.groom := (State.raiseTo_faults (.refl s)).groom
@[simp] theorem State.raiseTo_therm {x b j d} : (s.raiseTo x b j d).therm = s.therm := (State.raiseTo_faults (.refl s)).therm
@[simp] theorem State.raiseTo_power {x b j d} : (s.raiseTo x b j d).power = s.power := (State.raiseTo_faults (.refl s)).power
@[simp] theorem State.raiseTo_sec {x b j d} : (s.raiseTo x b j d).sec = s.sec := (State.raiseTo_faults (.refl s)).sec
@[simp] theorem State.raiseTo_link {x b j d} : (s.raiseTo x b j d).link = s.link := (State.raiseTo_faults (.refl s)).link
@[simp] theorem State.raiseTo_stb {x b j d} : (s.raiseTo x b j d).stb = s.stb := (State.raiseTo_faults (.refl s)).stb
@[simp] theorem State.raiseTo_bln {x b j d} : (s.raiseTo x b j d).bln = s.bln := (State.raiseTo_faults (.refl s)).bln
@[simp] theorem State.raiseTo_edu {x b j d} : (s.raiseTo x b j d).edu = s.edu := (State.raiseTo_faults (.refl s)).edu
@[simp] theorem State.raiseTo_drg {x b j d} : (s.raiseTo x b j d).drg = s.drg := (State.raiseTo_faults (.refl s)).drg
@[simp] theorem State.raiseTo_las {x b j d} : (s.raiseTo x b j d).las = s.las := (State.raiseTo_faults (.refl s)).las
@[simp] theorem State.raiseTo_cal {x b j d} : (s.raiseTo x b j d).cal = s.cal := (State.raiseTo_faults (.refl s)).cal
@[simp] theorem State.raiseTo_fab {x b j d} : (s.raiseTo x b j d).fab = s.fab := (State.raiseTo_faults (.refl s)).fab
@[simp] theorem State.raiseTo_brd {x b j d} : (s.raiseTo x b j d).brd = s.brd := (State.raiseTo_faults (.refl s)).brd
@[simp] theorem State.raiseTo_pci {x b j d} : (s.raiseTo x b j d).pci = s.pci := (State.raiseTo_faults (.refl s)).pci
@[simp] theorem State.raiseTo_mgmt {x b j d} : (s.raiseTo x b j d).mgmt = s.mgmt := (State.raiseTo_faults (.refl s)).mgmt
@[simp] theorem State.raiseTo_rein {x b j d} : (s.raiseTo x b j d).rein = s.rein := (State.raiseTo_faults (.refl s)).rein
@[simp] theorem State.raiseTo_sup {x b j d} : (s.raiseTo x b j d).sup = s.sup := (State.raiseTo_faults (.refl s)).sup
@[simp] theorem State.raiseTo_toIssue {x b j d} : (s.raiseTo x b j d).toIssue = s.toIssue := (State.raiseTo_faults (.refl s)).toIssue
@[simp] theorem State.raiseTo_freeCount {x b j d} : (s.raiseTo x b j d).freeCount = s.freeCount := (State.raiseTo_faults (.refl s)).freeCount
@[simp] theorem State.raiseTo_nextId {x b j d} : (s.raiseTo x b j d).nextId = s.nextId := (State.raiseTo_faults (.refl s)).nextId

/-! ### State.logFault -/

@[simp] theorem State.logFault_pending {x b d} : (s.logFault x b d).pending = s.pending := (State.logFault_faults (.refl s)).pending
@[simp] theorem State.logFault_clk {x b d} : (s.logFault x b d).clk = s.clk := (State.logFault_faults (.refl s)).clk
@[simp] theorem State.logFault_sync {x b d} : (s.logFault x b d).sync = s.sync := (State.logFault_faults (.refl s)).sync
@[simp] theorem State.logFault_live {x b d} : (s.logFault x b d).live = s.live := (State.logFault_faults (.refl s)).live
@[simp] theorem State.logFault_staged {x b d} : (s.logFault x b d).staged = s.staged := (State.logFault_faults (.refl s)).staged
@[simp] theorem State.logFault_shadows {x b d} : (s.logFault x b d).shadows = s.shadows := (State.logFault_faults (.refl s)).shadows
@[simp] theorem State.logFault_units {x b d} : (s.logFault x b d).units = s.units := (State.logFault_faults (.refl s)).units
@[simp] theorem State.logFault_due {x b d} : (s.logFault x b d).due = s.due := (State.logFault_faults (.refl s)).due
@[simp] theorem State.logFault_mem {x b d} : (s.logFault x b d).mem = s.mem := (State.logFault_faults (.refl s)).mem
@[simp] theorem State.logFault_dram {x b d} : (s.logFault x b d).dram = s.dram := (State.logFault_faults (.refl s)).dram
@[simp] theorem State.logFault_cores {x b d} : (s.logFault x b d).cores = s.cores := (State.logFault_faults (.refl s)).cores
@[simp] theorem State.logFault_dies {x b d} : (s.logFault x b d).dies = s.dies := (State.logFault_faults (.refl s)).dies
@[simp] theorem State.logFault_ctrs {x b d} : (s.logFault x b d).hitch.ctrs = s.hitch.ctrs := (State.logFault_faults (.refl s)).ctrs
@[simp] theorem State.logFault_watches {x b d} : (s.logFault x b d).hitch.watches = s.hitch.watches := (State.logFault_faults (.refl s)).watches
@[simp] theorem State.logFault_flight {x b d} : (s.logFault x b d).hitch.flight = s.hitch.flight := (State.logFault_faults (.refl s)).flight
@[simp] theorem State.logFault_groom {x b d} : (s.logFault x b d).groom = s.groom := (State.logFault_faults (.refl s)).groom
@[simp] theorem State.logFault_therm {x b d} : (s.logFault x b d).therm = s.therm := (State.logFault_faults (.refl s)).therm
@[simp] theorem State.logFault_power {x b d} : (s.logFault x b d).power = s.power := (State.logFault_faults (.refl s)).power
@[simp] theorem State.logFault_sec {x b d} : (s.logFault x b d).sec = s.sec := (State.logFault_faults (.refl s)).sec
@[simp] theorem State.logFault_link {x b d} : (s.logFault x b d).link = s.link := (State.logFault_faults (.refl s)).link
@[simp] theorem State.logFault_stb {x b d} : (s.logFault x b d).stb = s.stb := (State.logFault_faults (.refl s)).stb
@[simp] theorem State.logFault_bln {x b d} : (s.logFault x b d).bln = s.bln := (State.logFault_faults (.refl s)).bln
@[simp] theorem State.logFault_edu {x b d} : (s.logFault x b d).edu = s.edu := (State.logFault_faults (.refl s)).edu
@[simp] theorem State.logFault_drg {x b d} : (s.logFault x b d).drg = s.drg := (State.logFault_faults (.refl s)).drg
@[simp] theorem State.logFault_las {x b d} : (s.logFault x b d).las = s.las := (State.logFault_faults (.refl s)).las
@[simp] theorem State.logFault_cal {x b d} : (s.logFault x b d).cal = s.cal := (State.logFault_faults (.refl s)).cal
@[simp] theorem State.logFault_fab {x b d} : (s.logFault x b d).fab = s.fab := (State.logFault_faults (.refl s)).fab
@[simp] theorem State.logFault_brd {x b d} : (s.logFault x b d).brd = s.brd := (State.logFault_faults (.refl s)).brd
@[simp] theorem State.logFault_pci {x b d} : (s.logFault x b d).pci = s.pci := (State.logFault_faults (.refl s)).pci
@[simp] theorem State.logFault_mgmt {x b d} : (s.logFault x b d).mgmt = s.mgmt := (State.logFault_faults (.refl s)).mgmt
@[simp] theorem State.logFault_rein {x b d} : (s.logFault x b d).rein = s.rein := (State.logFault_faults (.refl s)).rein
@[simp] theorem State.logFault_sup {x b d} : (s.logFault x b d).sup = s.sup := (State.logFault_faults (.refl s)).sup
@[simp] theorem State.logFault_toIssue {x b d} : (s.logFault x b d).toIssue = s.toIssue := (State.logFault_faults (.refl s)).toIssue
@[simp] theorem State.logFault_freeCount {x b d} : (s.logFault x b d).freeCount = s.freeCount := (State.logFault_faults (.refl s)).freeCount
@[simp] theorem State.logFault_nextId {x b d} : (s.logFault x b d).nextId = s.nextId := (State.logFault_faults (.refl s)).nextId

end Sys2Proof.Machine
end

