-- ==== Sys2Proof/Laws/Keeps.lean ====
section
/-! SUPPORT. What no operation of the module breaks: it leaves the queue of commands as it is, takes back no message, and keeps the
bounds of the clock and of the fault stores and the canonical form of memory. One lemma per operation says so, in this file for
the steps of every proof and in the others operation by operation. -/

namespace Sys2Proof.Machine

/-- A later moment of the same stride. -/
def Clock.Later (c d : Clock) : Prop :=
  d.stride = c.stride ∧ d.len = c.len ∧ d.bnd = c.bnd ∧ d.base = c.base ∧ (c.sound → c.cycle ≤ d.cycle ∧ d.sound)

theorem Clock.Later.refl (c : Clock) : c.Later c := ⟨rfl, rfl, rfl, rfl, fun h => ⟨le_refl _, h⟩⟩

theorem Clock.Later.trans {c d e : Clock} (h : c.Later d) (k : d.Later e) : c.Later e := by
  obtain ⟨a1, a2, a3, a4, a5⟩ := h
  obtain ⟨b1, b2, b3, b4, b5⟩ := k
  exact ⟨b1.trans a1, b2.trans a2, b3.trans a3, b4.trans a4, fun w => ⟨(a5 w).1.trans (b5 (a5 w).2).1, (b5 (a5 w).2).2⟩⟩

/-- What holds between a state and a later one of the same stride, whatever the module did between them. -/
structure Keeps (s t : State) : Prop where
  pending : t.pending = s.pending
  out : s.out <+: t.out
  clk : s.clk.Later t.clk
  flt : s.flt.sound → t.flt.sound
  mem : s.mem.wf = true → t.mem.wf = true
  rollback : s.groom.rollback ≤ t.groom.rollback

theorem Keeps.refl (s : State) : Keeps s s := ⟨rfl, List.prefix_rfl, .refl _, id, id, le_refl _⟩

theorem Keeps.trans {s t u : State} (h : Keeps s t) (k : Keeps t u) : Keeps s u :=
  ⟨k.pending.trans h.pending, h.out.trans k.out, h.clk.trans k.clk, k.flt ∘ h.flt, k.mem ∘ h.mem, h.rollback.trans k.rollback⟩

variable {s t : State}

theorem Keeps.ite {c : Prop} [Decidable c] {a b : State} (ha : Keeps s a) (hb : Keeps s b) :
    Keeps s (if c then a else b) := by
  split <;> assumption

/-- A record update that leaves the parts alone. -/
theorem Keeps.set (h : Keeps s t)
    {a1 a2 a3 a4 a5 a6 a7 a8 a9 a10 a11 a13 a14 a15 a16 a17 a18 a19 a20 a21 a22 a23 a24 a25 a26 a27 a28 a29 a30 a31 a32} :
    Keeps s ⟨t.pending, t.clk, a1, a2, a3, a4, a5, a6, a7, t.out, t.mem, a8, a9, a10, t.flt, a11, t.groom, a13, a14, a15,
    a16, a17, a18, a19, a20, a21, a22, a23, a24, a25, a26, a27, a28, a29, a30, a31, a32⟩ :=
  ⟨h.pending, h.out, h.clk, h.flt, h.mem, h.rollback⟩

/-- A record update that sends messages. -/
theorem Keeps.setOut (h : Keeps s t) {ms : List Msg}
    {a1 a2 a3 a4 a5 a6 a7 a8 a9 a10 a11 a13 a14 a15 a16 a17 a18 a19 a20 a21 a22 a23 a24 a25 a26 a27 a28 a29 a30 a31 a32} :
    Keeps s ⟨t.pending, t.clk, a1, a2, a3, a4, a5, a6, a7, t.out ++ ms, t.mem, a8, a9, a10, t.flt, a11, t.groom, a13, a14,
    a15, a16, a17, a18, a19, a20, a21, a22, a23, a24, a25, a26, a27, a28, a29, a30, a31, a32⟩ :=
  ⟨h.pending, h.out.trans (List.prefix_append _ _), h.clk, h.flt, h.mem, h.rollback⟩

/-- A record update of the fault stores within their bounds. -/
theorem Keeps.setFlt (h : Keeps s t) {f : FaultState} (hf : t.flt.sound → f.sound)
    {a1 a2 a3 a4 a5 a6 a7 a8 a9 a10 a11 a13 a14 a15 a16 a17 a18 a19 a20 a21 a22 a23 a24 a25 a26 a27 a28 a29 a30 a31 a32} :
    Keeps s ⟨t.pending, t.clk, a1, a2, a3, a4, a5, a6, a7, t.out, t.mem, a8, a9, a10, f, a11, t.groom, a13, a14, a15, a16,
    a17, a18, a19, a20, a21, a22, a23, a24, a25, a26, a27, a28, a29, a30, a31, a32⟩ :=
  ⟨h.pending, h.out, h.clk, fun x => hf (h.flt x), h.mem, h.rollback⟩

/-- A record update of memory that keeps its form. -/
theorem Keeps.setMem (h : Keeps s t) {m : Mem} (hm : t.mem.wf = true → m.wf = true)
    {a1 a2 a3 a4 a5 a6 a7 a8 a9 a10 a11 a13 a14 a15 a16 a17 a18 a19 a20 a21 a22 a23 a24 a25 a26 a27 a28 a29 a30 a31 a32} :
    Keeps s ⟨t.pending, t.clk, a1, a2, a3, a4, a5, a6, a7, t.out, m, a8, a9, a10, t.flt, a11, t.groom, a13, a14, a15, a16,
    a17, a18, a19, a20, a21, a22, a23, a24, a25, a26, a27, a28, a29, a30, a31, a32⟩ :=
  ⟨h.pending, h.out, h.clk, h.flt, fun x => hm (h.mem x), h.rollback⟩

/-- A record update of the clock within its stride. -/
theorem Keeps.setClk (h : Keeps s t) {c : Clock} (hc : t.clk.Later c)
    {a1 a2 a3 a4 a5 a6 a7 a8 a9 a10 a11 a13 a14 a15 a16 a17 a18 a19 a20 a21 a22 a23 a24 a25 a26 a27 a28 a29 a30 a31 a32} :
    Keeps s ⟨t.pending, c, a1, a2, a3, a4, a5, a6, a7, t.out, t.mem, a8, a9, a10, t.flt, a11, t.groom, a13, a14, a15, a16,
    a17, a18, a19, a20, a21, a22, a23, a24, a25, a26, a27, a28, a29, a30, a31, a32⟩ :=
  ⟨h.pending, h.out, h.clk.trans hc, h.flt, h.mem, h.rollback⟩

/-- A record update of the Grooms that does not turn the rollback counter back. -/
theorem Keeps.setGroom (h : Keeps s t) {g : Groom} (hg : t.groom.rollback ≤ g.rollback)
    {a1 a2 a3 a4 a5 a6 a7 a8 a9 a10 a11 a13 a14 a15 a16 a17 a18 a19 a20 a21 a22 a23 a24 a25 a26 a27 a28 a29 a30 a31 a32} :
    Keeps s ⟨t.pending, t.clk, a1, a2, a3, a4, a5, a6, a7, t.out, t.mem, a8, a9, a10, t.flt, a11, g, a13, a14, a15, a16, a17,
    a18, a19, a20, a21, a22, a23, a24, a25, a26, a27, a28, a29, a30, a31, a32⟩ :=
  ⟨h.pending, h.out, h.clk, h.flt, h.mem, h.rollback.trans hg⟩

/-- The same of the parts of a later state. -/
def KeepsParts (s : State) (p : List Instr) (c : Clock) (o : List Msg) (m : Mem) (f : FaultState) (n : Nat) : Prop :=
  ∀ t : State, t.pending = p → t.clk = c → t.out = o → t.mem = m → t.flt = f → t.groom.rollback = n → Keeps s t

/-- A record update keeps what its parts keep. -/
theorem Keeps.mk_iff {p c o m f} {g : Groom}
    {a1 a2 a3 a4 a5 a6 a7 a8 a9 a10 a11 a13 a14 a15 a16 a17 a18 a19 a20 a21 a22 a23 a24 a25 a26 a27 a28 a29 a30 a31 a32} :
    Keeps s ⟨p, c, a1, a2, a3, a4, a5, a6, a7, o, m, a8, a9, a10, f, a11, g, a13, a14, a15, a16, a17, a18, a19, a20, a21,
    a22, a23, a24, a25, a26, a27, a28, a29, a30, a31, a32⟩
      ↔ KeepsParts s p c o m f g.rollback := by
  constructor
  · rintro ⟨a, b, d, e, k, l⟩ t rfl rfl rfl rfl rfl hg
    exact ⟨a, b, d, e, k, hg ▸ l⟩
  · intro h
    exact h _ rfl rfl rfl rfl rfl rfl

/-- Of a record update that leaves the parts alone. -/
theorem KeepsParts.same (h : Keeps s t) : KeepsParts s t.pending t.clk t.out t.mem t.flt t.groom.rollback := by
  rintro u e1 e2 e3 e4 e5 e6
  exact ⟨e1 ▸ h.pending, e3 ▸ h.out, e2 ▸ h.clk, fun x => e5 ▸ h.flt x, fun x => e4 ▸ h.mem x, e6 ▸ h.rollback⟩

/-- Of a record update that sends messages. -/
theorem KeepsParts.send (h : Keeps s t) {ms : List Msg} :
    KeepsParts s t.pending t.clk (t.out ++ ms) t.mem t.flt t.groom.rollback := by
  rintro u e1 e2 e3 e4 e5 e6
  exact ⟨e1 ▸ h.pending, e3 ▸ h.out.trans (List.prefix_append _ _), e2 ▸ h.clk, fun x => e5 ▸ h.flt x,
    fun x => e4 ▸ h.mem x, e6 ▸ h.rollback⟩

/-! ### Loops and choices -/

theorem Keeps.foldl {α : Type} {f : State → α → State} (hf : ∀ a x, Keeps s a → Keeps s (f a x)) {l : List α}
    (h : Keeps s t) : Keeps s (l.foldl f t) := by
  induction l generalizing t with
  | nil => exact h
  | cons x l ih => exact ih (hf t x h)

/-! ### Results that carry a state -/

variable {α β γ : Type}

/-- The state that a pair carries. -/
def Keeps2 (s : State) (p : α × State) : Prop := Keeps s p.2

theorem Keeps2.mk {a : α} (h : Keeps s t) : Keeps2 s (a, t) := h
theorem Keeps2.snd {p : α × State} (h : Keeps2 s p) : Keeps s p.2 := h
theorem Keeps2.of {p : α × State} {a : α} (e : p = (a, t)) (h : Keeps2 s p) : Keeps s t := by
  subst e
  exact h
theorem Keeps2.ite {c : Prop} [Decidable c] {a b : α × State} (ha : Keeps2 s a) (hb : Keeps2 s b) :
    Keeps2 s (if c then a else b) := by
  split <;> assumption
theorem Keeps2.foldl {f : α × State → β → α × State} (hf : ∀ a x, Keeps2 s a → Keeps2 s (f a x)) {l : List β}
    {p : α × State} (h : Keeps2 s p) : Keeps2 s (l.foldl f p) := by
  induction l generalizing p with
  | nil => exact h
  | cons x l ih => exact ih (hf p x h)

/-- The state that a triple carries. -/
def Keeps3 (s : State) (p : α × β × State) : Prop := Keeps2 s p.2

theorem Keeps3.mk {a : α} {p : β × State} (h : Keeps2 s p) : Keeps3 s (a, p) := h
theorem Keeps3.snd {p : α × β × State} (h : Keeps3 s p) : Keeps2 s p.2 := h
theorem Keeps3.of {p : α × β × State} {a : α} {b : β} (e : p = (a, b, t)) (h : Keeps3 s p) : Keeps s t := by
  subst e
  exact h
theorem Keeps3.ite {c : Prop} [Decidable c] {a b : α × β × State} (ha : Keeps3 s a) (hb : Keeps3 s b) :
    Keeps3 s (if c then a else b) := by
  split <;> assumption
theorem Keeps3.foldl {f : α × β × State → γ → α × β × State} (hf : ∀ a x, Keeps3 s a → Keeps3 s (f a x)) {l : List γ}
    {p : α × β × State} (h : Keeps3 s p) : Keeps3 s (l.foldl f p) := by
  induction l generalizing p with
  | nil => exact h
  | cons x l ih => exact ih (hf p x h)

/-- The state that a quadruple carries. -/
def Keeps4 (s : State) (p : α × β × γ × State) : Prop := Keeps3 s p.2

theorem Keeps4.mk {a : α} {p : β × γ × State} (h : Keeps3 s p) : Keeps4 s (a, p) := h
theorem Keeps4.snd {p : α × β × γ × State} (h : Keeps4 s p) : Keeps3 s p.2 := h
theorem Keeps4.of {p : α × β × γ × State} {a : α} {b : β} {c : γ} (e : p = (a, b, c, t)) (h : Keeps4 s p) : Keeps s t := by
  subst e
  exact h
theorem Keeps4.ite {c : Prop} [Decidable c] {a b : α × β × γ × State} (ha : Keeps4 s a) (hb : Keeps4 s b) :
    Keeps4 s (if c then a else b) := by
  split <;> assumption

/-- The state that a pair carries first. -/
def KeepsFst (s : State) (p : State × α) : Prop := Keeps s p.1

theorem KeepsFst.mk {a : α} (h : Keeps s t) : KeepsFst s (t, a) := h
theorem KeepsFst.fst {p : State × α} (h : KeepsFst s p) : Keeps s p.1 := h
theorem KeepsFst.of {p : State × α} {a : α} (e : p = (t, a)) (h : KeepsFst s p) : Keeps s t := by
  subst e
  exact h
theorem KeepsFst.ite {c : Prop} [Decidable c] {a b : State × α} (ha : KeepsFst s a) (hb : KeepsFst s b) :
    KeepsFst s (if c then a else b) := by
  split <;> assumption
theorem KeepsFst.foldl {f : State × α → β → State × α} (hf : ∀ a x, KeepsFst s a → KeepsFst s (f a x)) {l : List β}
    {p : State × α} (h : KeepsFst s p) : KeepsFst s (l.foldl f p) := by
  induction l generalizing p with
  | nil => exact h
  | cons x l ih => exact ih (hf p x h)

/-- The state that an answer carries, where there is one. -/
def KeepsOpt (s : State) (o : Option State) : Prop := ∀ t, o = some t → Keeps s t

theorem KeepsOpt.ofNone : KeepsOpt s none := fun _ h => by cases h
theorem KeepsOpt.ofSome (h : Keeps s t) : KeepsOpt s (some t) := fun _ e => by cases e; exact h
theorem KeepsOpt.get {o : Option State} (e : o = some t) (h : KeepsOpt s o) : Keeps s t := by
  subst e
  exact h t rfl
theorem KeepsOpt.ite {c : Prop} [Decidable c] {a b : Option State} (ha : KeepsOpt s a) (hb : KeepsOpt s b) :
    KeepsOpt s (if c then a else b) := by
  split <;> assumption

theorem KeepsOpt.map {o : Option State} {f : State → State} (h : KeepsOpt s o) (hf : ∀ u, Keeps s u → Keeps s (f u)) :
    KeepsOpt s (o.map f) := by
  cases o with
  | none => exact KeepsOpt.ofNone
  | some u => exact KeepsOpt.ofSome (hf u (h u rfl))
theorem KeepsOpt.bind {o : Option State} {f : State → Option State} (h : KeepsOpt s o) (hf : ∀ u, Keeps s u → KeepsOpt s (f u)) :
    KeepsOpt s (o.bind f) := by
  cases o with
  | none => exact KeepsOpt.ofNone
  | some u => exact hf u (h u rfl)
theorem KeepsOpt.foldl {f : Option State → β → Option State} (hf : ∀ a x, KeepsOpt s a → KeepsOpt s (f a x)) {l : List β}
    {p : Option State} (h : KeepsOpt s p) : KeepsOpt s (l.foldl f p) := by
  induction l generalizing p with
  | nil => exact h
  | cons x l ih => exact ih (hf p x h)

/-- The state that an answer carries beside a value, where there is one. -/
def KeepsOpt2 (s : State) (o : Option (α × State)) : Prop := ∀ p, o = some p → Keeps2 s p

theorem KeepsOpt2.ofNone : KeepsOpt2 (α := α) s none := fun _ h => by cases h
theorem KeepsOpt2.ofSome {p : α × State} (h : Keeps2 s p) : KeepsOpt2 s (some p) := fun _ e => by cases e; exact h
theorem KeepsOpt2.get {o : Option (α × State)} {a : α} (e : o = some (a, t)) (h : KeepsOpt2 s o) :
    Keeps s t := by
  subst e
  exact h (a, t) rfl
theorem KeepsOpt2.ite {c : Prop} [Decidable c] {a b : Option (α × State)} (ha : KeepsOpt2 s a) (hb : KeepsOpt2 s b) :
    KeepsOpt2 s (if c then a else b) := by
  split <;> assumption

/-- The state that a command answers. -/
def KeepsNext (s : State) (o : Host.Outcome State Fault Refusal) : Prop := ∀ t, o = .next t → Keeps s t

theorem KeepsNext.next (h : Keeps s t) : KeepsNext s (.next t) := fun _ e => by cases e; exact h
theorem KeepsNext.ite {c : Prop} [Decidable c] {a b : Host.Outcome State Fault Refusal} (ha : KeepsNext s a) (hb : KeepsNext s b) :
    KeepsNext s (if c then a else b) := by
  split <;> assumption

/-! ### Across a boundary or a module start -/

/-- What holds between a state and a later one of any stride. -/
structure Passes (s t : State) : Prop where
  pending : t.pending = s.pending
  out : s.out <+: t.out
  clk : s.clk.sound → t.clk.sound
  flt : s.flt.sound → t.flt.sound
  mem : s.mem.wf = true → t.mem.wf = true
  rollback : s.groom.rollback ≤ t.groom.rollback

theorem Keeps.passes (h : Keeps s t) : Passes s t :=
  ⟨h.pending, h.out, fun w => (h.clk.2.2.2.2 w).2, h.flt, h.mem, h.rollback⟩

theorem Passes.refl (s : State) : Passes s s := (Keeps.refl s).passes

theorem Passes.trans {s t u : State} (h : Passes s t) (k : Passes t u) : Passes s u :=
  ⟨k.pending.trans h.pending, h.out.trans k.out, k.clk ∘ h.clk, k.flt ∘ h.flt, k.mem ∘ h.mem, h.rollback.trans k.rollback⟩

theorem Passes.step {s t u : State} (h : Passes s t) (k : Keeps t u) : Passes s u := h.trans k.passes

theorem Passes.ite {c : Prop} [Decidable c] {a b : State} (ha : Passes s a) (hb : Passes s b) :
    Passes s (if c then a else b) := by
  split <;> assumption

/-- A clock set within its bounds. -/
theorem Passes.setClk (h : Passes s t) {u : State} (hp : u.pending = t.pending) (ho : u.out = t.out) (hc : u.clk.sound)
    (hf : u.flt = t.flt) (hm : u.mem = t.mem) (hg : u.groom = t.groom) : Passes s u :=
  h.trans ⟨hp, ho ▸ List.prefix_rfl, fun _ => hc, fun w => hf ▸ w, fun w => hm ▸ w, hg ▸ le_refl _⟩

/-- The state that a command answers. -/
def PassesNext (s : State) (o : Host.Outcome State Fault Refusal) : Prop := ∀ t, o = .next t → Passes s t

theorem PassesNext.next (h : Passes s t) : PassesNext s (.next t) := fun _ e => by cases e; exact h
theorem KeepsNext.passes {o : Host.Outcome State Fault Refusal} (h : KeepsNext s o) : PassesNext s o := fun t e => (h t e).passes

end Sys2Proof.Machine
end

