-- ==== Sys2Proof/Laws/KeepsOps.lean ====
section
/-! SUPPORT. What the operations of Machine/Ops.lean keep (Laws/Keeps.lean). -/

namespace Sys2Proof.Machine

set_option linter.unusedTactic false
set_option linter.unreachableTactic false
set_option linter.unusedVariables false
set_option linter.unusedSimpArgs false

variable {s t u : State}

theorem State.advance_later {c} : s.clk.Later (s.advance c).clk := by
  unfold State.advance Clock.Later Clock.sound
  refine ⟨rfl, rfl, rfl, rfl, ?_⟩
  simp only
  omega

theorem State.advance_keeps (h : Keeps s t) {c} : Keeps s (t.advance c) := by
  unfold State.advance
  exact Keeps.setClk h State.advance_later

theorem State.schedule_keeps (h : Keeps s t) {x1} : Keeps s (State.schedule t x1) := by
  unfold State.schedule
  repeat' with_reducible first
    | exact h | assumption | simp only [Keeps.mk_iff] | apply KeepsParts.same | apply KeepsParts.send | apply Keeps2.snd
    | split | apply Keeps2.mk | refine Keeps2.of (by assumption) ?_ | dsimp only

theorem State.scheduleNext_keeps (h : Keeps s t) {x1} : Keeps s (State.scheduleNext t x1) := by
  unfold State.scheduleNext
  repeat' with_reducible first
    | exact h | assumption | simp only [Keeps.mk_iff] | apply KeepsParts.same | apply KeepsParts.send | apply Keeps2.snd
    | split | apply Keeps2.mk | refine Keeps2.of (by assumption) ?_ | dsimp only

theorem State.emit_keeps (h : Keeps s t) {x1} : Keeps s (State.emit t x1) := by
  unfold State.emit
  repeat' with_reducible first
    | exact h | assumption | simp only [Keeps.mk_iff] | apply KeepsParts.same | apply KeepsParts.send | split | dsimp only

theorem State.hostMessage_keeps (h : Keeps s t) {x1} : Keeps s (State.hostMessage t x1) := by
  unfold State.hostMessage
  repeat' with_reducible first
    | exact h | assumption | apply State.emit_keeps | apply Keeps.ite | simp only [Keeps.mk_iff] | apply KeepsParts.same
    | split | dsimp only

theorem State.hostWrite_keeps (h : Keeps s t) {x1 x2 x3} : Keeps s (State.hostWrite t x1 x2 x3) := by
  unfold State.hostWrite
  repeat' with_reducible first
    | exact h | assumption | apply State.hostMessage_keeps | split | dsimp only

theorem State.setMsix_keeps (h : Keeps s t) {x1 x2 x3} : Keeps s (State.setMsix t x1 x2 x3) := by
  unfold State.setMsix
  repeat' with_reducible first
    | exact h | assumption | simp only [Keeps.mk_iff] | apply KeepsParts.same | split | dsimp only

theorem State.sendMsix_keeps (h : Keeps s t) {x1 x2} : Keeps s (State.sendMsix t x1 x2) := by
  unfold State.sendMsix
  repeat' with_reducible first
    | exact h | assumption | apply State.setMsix_keeps | apply State.hostMessage_keeps | apply Keeps.ite | split
    | dsimp only

theorem State.takeFree_keeps (h : Keeps s t) : Keeps2 s (State.takeFree t) := by
  unfold State.takeFree
  repeat' with_reducible first
    | exact h | assumption | simp only [Keeps.mk_iff] | apply KeepsParts.same | apply Keeps2.snd | split | apply Keeps2.mk
    | refine Keeps2.of (by assumption) ?_ | dsimp only

theorem State.poke_keeps (h : Keeps s t) {a bs} : Keeps s (t.poke a bs) := by
  unfold State.poke
  exact Keeps.setMem h fun w => Mem.wf_setBytes w a bs

theorem State.setReg_keeps (h : Keeps s t) {x1 x2} : Keeps s (State.setReg t x1 x2) := by
  unfold State.setReg
  repeat' with_reducible first
    | exact h | assumption | simp only [Keeps.mk_iff] | apply KeepsParts.same | split | dsimp only

theorem State.setRegF_keeps (h : Keeps s t) {x1 x2 x3 x4} : Keeps s (State.setRegF t x1 x2 x3 x4) := by
  unfold State.setRegF
  repeat' with_reducible first
    | exact h | assumption | apply State.setReg_keeps | split | dsimp only

theorem State.setLive_keeps (h : Keeps s t) {x1 x2} : Keeps s (State.setLive t x1 x2) := by
  unfold State.setLive
  repeat' with_reducible first
    | exact h | assumption | simp only [Keeps.mk_iff] | apply KeepsParts.same | split | dsimp only

theorem State.setIrq_keeps (h : Keeps s t) {x1 x2} : Keeps s (State.setIrq t x1 x2) := by
  unfold State.setIrq
  repeat' with_reducible first
    | exact h | assumption | apply State.setRegF_keeps | split | dsimp only

theorem State.bump_keeps (h : Keeps s t) {x1 x2} : Keeps s (State.bump t x1 x2) := by
  unfold State.bump
  repeat' with_reducible first
    | exact h | assumption | apply State.setReg_keeps | apply State.setIrq_keeps | apply Keeps.ite | split | dsimp only

theorem State.advanceTo_keeps (h : Keeps s t) {x1} : Keeps s (State.advanceTo t x1) := by
  unfold State.advanceTo
  repeat' with_reducible first
    | exact h | assumption | apply State.advance_keeps | split | dsimp only

theorem State.loadSlot_keeps (h : Keeps s t) {x1 x2} : Keeps s (State.loadSlot t x1 x2) := by
  unfold State.loadSlot
  repeat' with_reducible first
    | exact h | assumption | refine Keeps.foldl (fun _ _ _ => ?_) ?_ | refine Keeps2.foldl (fun _ _ _ => ?_) ?_
    | simp only [Keeps.mk_iff] | apply KeepsParts.same | apply Keeps2.snd | split | apply Keeps2.mk
    | refine Keeps2.of (by assumption) ?_ | dsimp only

theorem State.launchSnap_keeps (h : Keeps s t) {x1} : Keeps s (State.launchSnap t x1) := by
  unfold State.launchSnap
  repeat' with_reducible first
    | exact h | assumption | apply State.loadSlot_keeps | refine Keeps.foldl (fun _ _ _ => ?_) ?_ | apply Keeps.ite
    | simp only [Keeps.mk_iff] | apply KeepsParts.same | split | dsimp only

theorem State.trigger_keeps (h : Keeps s t) {x1 x2} : Keeps s (t.trigger x1 x2) := by
  unfold State.trigger
  apply Keeps.ite
  · exact Keeps.set h
  · match x1 with
    | 0 => exact State.launchSnap_keeps h
    | 1 => exact Keeps.set h
    | 2 => exact Keeps.set h
    | _ + 3 => exact Keeps.set h

theorem State.rackArrive_keeps (h : Keeps s t) {x1} : Keeps s (State.rackArrive t x1) := by
  unfold State.rackArrive
  repeat' with_reducible first
    | exact h | assumption | apply Keeps.ite | apply Keeps2.ite | simp only [Keeps.mk_iff] | apply KeepsParts.same
    | apply Keeps2.snd | split | apply Keeps2.mk | refine Keeps2.of (by assumption) ?_ | dsimp only

/-- A list cut to its newest `n` items. -/
theorem length_drop_le {α : Type} (l : List α) (n : Nat) : (l.drop (l.length - n)).length ≤ n := by
  rw [List.length_drop]
  omega

theorem State.storeLog_keeps (h : Keeps s t) {r} : Keeps s (t.storeLog r) := by
  unfold State.storeLog
  generalize hn : (16128 : Nat) = n
  have k : Keeps s { t with flt := { t.flt with log := (t.flt.log ++ [r]).drop (t.flt.log.length + 1 - n),
                                                written := t.flt.written + 1 } } := by
    refine Keeps.setFlt h ?_
    rintro ⟨-, b⟩
    refine ⟨?_, b⟩
    have := length_drop_le (t.flt.log ++ [r]) n
    rw [List.length_append, List.length_singleton] at this
    rw [hn]
    exact this
  exact Keeps.setOut k

theorem State.defer_keeps (h : Keeps s t) {r} : Keeps s (t.defer r) := by
  unfold State.defer
  split
  · refine State.bump_keeps ?_
    refine Keeps.setFlt h ?_
    rintro ⟨a, b⟩
    refine ⟨a, ?_⟩
    simp only [List.length_append, List.length_singleton]
    omega
  · refine Keeps.setFlt h ?_
    exact id

theorem State.writeLog_keeps (h : Keeps s t) {x1} : Keeps s (State.writeLog t x1) := by
  unfold State.writeLog
  repeat' with_reducible first
    | exact h | assumption | apply State.storeLog_keeps | apply State.defer_keeps | apply Keeps.ite | split | dsimp only

theorem State.notePage_keeps (h : Keeps s t) {x1} : Keeps s (State.notePage t x1) := by
  refine Keeps.setFlt h ?_
  exact id

theorem State.pageRecord_keeps (h : Keeps s t) {x1 x2} : Keeps s (State.pageRecord t x1 x2) := by
  unfold State.pageRecord
  repeat' with_reducible first
    | exact h | assumption | apply State.notePage_keeps | apply State.setIrq_keeps | apply State.bump_keeps
    | apply State.setReg_keeps | apply Keeps.ite | split | dsimp only

theorem State.toRing_keeps (h : Keeps s t) {job r} : Keeps s (t.toRing job r) := by
  unfold State.toRing
  split
  · exact State.bump_keeps h
  · refine Keeps.setFlt h ?_
    exact id

theorem State.raiseRecord_keeps (h : Keeps s t) {x1 x2 x3 x4} : Keeps s (State.raiseRecord t x1 x2 x3 x4) := by
  unfold State.raiseRecord
  repeat' with_reducible first
    | exact h | assumption | apply State.pageRecord_keeps | apply State.toRing_keeps | apply State.writeLog_keeps
    | apply State.trigger_keeps | apply Keeps.ite | split | dsimp only

theorem State.raise_keeps (h : Keeps s t) {x1 x2 x3 x4 x5} : Keeps s (State.raise t x1 x2 x3 x4 x5) := by
  unfold State.raise
  repeat' with_reducible first
    | exact h | assumption | apply State.raiseRecord_keeps | split | dsimp only

theorem State.raiseTo_keeps (h : Keeps s t) {x1 x2 x3 x4} : Keeps s (State.raiseTo t x1 x2 x3 x4) := by
  unfold State.raiseTo
  repeat' with_reducible first
    | exact h | assumption | apply State.raise_keeps | split | dsimp only

theorem State.logFault_keeps (h : Keeps s t) {x1 x2 x3} : Keeps s (State.logFault t x1 x2 x3) := by
  unfold State.logFault
  repeat' with_reducible first
    | exact h | assumption | apply State.raise_keeps | split | dsimp only

end Sys2Proof.Machine
end

