-- ==== Sys2Proof/Laws/KeepsUnitOps.lean ====
section
/-! SUPPORT. What the operations of Machine/UnitOps.lean keep (Laws/Keeps.lean). -/

namespace Sys2Proof.Machine

set_option linter.unusedTactic false
set_option linter.unreachableTactic false
set_option linter.unusedVariables false
set_option linter.unusedSimpArgs false

variable {s t u : State}

theorem State.setUnit_keeps (h : Keeps s t) {x1 x2} : Keeps s (State.setUnit t x1 x2) := by
  unfold State.setUnit
  repeat' with_reducible first
    | exact h | assumption | apply State.setIrq_keeps | apply Keeps.ite | apply Keeps2.ite | simp only [Keeps.mk_iff]
    | apply KeepsParts.same | apply Keeps2.snd | split | apply Keeps2.mk | refine Keeps2.of (by assumption) ?_ | dsimp only

theorem State.requestEnable_keeps (h : Keeps s t) {x1} : Keeps s (State.requestEnable t x1) := by
  unfold State.requestEnable
  repeat' with_reducible first
    | exact h | assumption | apply State.schedule_keeps | apply State.setUnit_keeps | split | dsimp only

theorem State.requestDisable_keeps (h : Keeps s t) {x1} : Keeps s (State.requestDisable t x1) := by
  unfold State.requestDisable
  repeat' with_reducible first
    | exact h | assumption | apply State.schedule_keeps | apply State.setUnit_keeps | split | dsimp only

theorem State.setCore_keeps (h : Keeps s t) {x1 x2} : Keeps s (State.setCore t x1 x2) := by
  unfold State.setCore
  repeat' with_reducible first
    | exact h | assumption | simp only [Keeps.mk_iff] | apply KeepsParts.same | split | dsimp only

theorem State.setQueue_keeps (h : Keeps s t) {x1 x2} : Keeps s (State.setQueue t x1 x2) := by
  unfold State.setQueue
  repeat' with_reducible first
    | exact h | assumption | apply State.setCore_keeps | split | dsimp only

theorem State.setDie_keeps (h : Keeps s t) {x1 x2} : Keeps s (State.setDie t x1 x2) := by
  unfold State.setDie
  repeat' with_reducible first
    | exact h | assumption | simp only [Keeps.mk_iff] | apply KeepsParts.same | split | dsimp only

theorem State.setStack_keeps (h : Keeps s t) {x1 x2} : Keeps s (State.setStack t x1 x2) := by
  unfold State.setStack
  repeat' with_reducible first
    | exact h | assumption | simp only [Keeps.mk_iff] | apply KeepsParts.same | split | dsimp only

theorem State.setCtr_keeps (h : Keeps s t) {x1 x2} : Keeps s (State.setCtr t x1 x2) := by
  unfold State.setCtr
  repeat' with_reducible first
    | exact h | assumption | simp only [Keeps.mk_iff] | apply KeepsParts.same | split | dsimp only

end Sys2Proof.Machine
end

