-- ==== Sys2Proof/Laws/KeepsAccess.lean ====
section
/-! SUPPORT. What the operations of Machine/Access.lean keep (Laws/Keeps.lean). -/

namespace Sys2Proof.Machine

set_option linter.unusedTactic false
set_option linter.unreachableTactic false
set_option linter.unusedVariables false
set_option linter.unusedSimpArgs false

variable {s t u : State}

theorem State.setLineMeta_keeps (h : Keeps s t) {x1 x2} : Keeps s (State.setLineMeta t x1 x2) := by
  unfold State.setLineMeta
  repeat' with_reducible first
    | exact h | assumption | apply Keeps.ite | simp only [Keeps.mk_iff] | apply KeepsParts.same | split | dsimp only

theorem State.setLineErr_keeps (h : Keeps s t) {x1 x2} : Keeps s (State.setLineErr t x1 x2) := by
  unfold State.setLineErr
  repeat' with_reducible first
    | exact h | assumption | apply Keeps.ite | simp only [Keeps.mk_iff] | apply KeepsParts.same | split | dsimp only

theorem State.underKey_keeps (h : Keeps s t) {x1 x2} : Keeps s (State.underKey t x1 x2) := by
  unfold State.underKey
  repeat' with_reducible first
    | exact h | assumption | apply State.setLineMeta_keeps | apply State.poke_keeps | apply Keeps.ite | split | dsimp only

theorem State.countCorrected_keeps (h : Keeps s t) {x1} : Keeps s (State.countCorrected t x1) := by
  unfold State.countCorrected
  repeat' with_reducible first
    | exact h | assumption | apply State.bump_keeps | apply State.setStack_keeps | apply Keeps.ite | split | dsimp only

theorem State.detectLoss_keeps (h : Keeps s t) {x1} : Keeps s (State.detectLoss t x1) := by
  unfold State.detectLoss
  repeat' with_reducible first
    | exact h | assumption | apply State.setUnit_keeps | apply State.setStack_keeps | apply State.scheduleNext_keeps
    | apply State.logFault_keeps | apply Keeps.ite | simp only [Keeps.mk_iff] | apply KeepsParts.same | split | dsimp only

theorem State.poisonLine_keeps (h : Keeps s t) {x1} : Keeps s (State.poisonLine t x1) := by
  unfold State.poisonLine
  repeat' with_reducible first
    | exact h | assumption | apply State.setStack_keeps | apply State.poke_keeps | apply State.bump_keeps
    | apply State.setLineMeta_keeps | apply State.setLineErr_keeps | apply State.detectLoss_keeps | apply Keeps.ite
    | simp only [Keeps.mk_iff] | apply KeepsParts.same | split | dsimp only

theorem State.raiseBlocked_keeps (h : Keeps s t) {x1 x2 x3} : Keeps s (State.raiseBlocked t x1 x2 x3) := by
  unfold State.raiseBlocked
  repeat' with_reducible first
    | exact h | assumption | apply State.raiseTo_keeps | apply Keeps.ite | apply Keeps2.ite | simp only [Keeps.mk_iff]
    | apply KeepsParts.same | apply Keeps2.snd | split | apply Keeps2.mk | refine Keeps2.of (by assumption) ?_ | dsimp only

theorem State.readLine_keeps (h : Keeps s t) {x1 x2} : KeepsFst s (State.readLine t x1 x2) := by
  unfold State.readLine
  repeat' with_reducible first
    | exact h | assumption | apply State.raiseBlocked_keeps | apply State.raiseTo_keeps | apply State.poisonLine_keeps
    | apply State.countCorrected_keeps | apply State.setLineErr_keeps | apply Keeps.ite | apply Keeps2.ite
    | apply KeepsFst.ite | apply Keeps2.snd | apply KeepsFst.fst | split | apply Keeps2.mk | apply KeepsFst.mk
    | refine Keeps2.of (by assumption) ?_ | refine KeepsFst.of (by assumption) ?_ | dsimp only

theorem State.writeLine_keeps (h : Keeps s t) {x1 x2 x3} : KeepsFst s (State.writeLine t x1 x2 x3) := by
  unfold State.writeLine
  repeat' with_reducible first
    | exact h | assumption | apply State.raiseBlocked_keeps | apply State.setLineMeta_keeps | apply State.setLineErr_keeps
    | apply State.poke_keeps | apply State.readLine_keeps | apply State.underKey_keeps | apply Keeps.ite | apply Keeps2.ite
    | apply KeepsFst.ite | apply Keeps2.snd | apply KeepsFst.fst | split | apply Keeps2.mk | apply KeepsFst.mk
    | refine Keeps2.of (by assumption) ?_ | refine KeepsFst.of (by assumption) ?_ | dsimp only

theorem State.logFieldFail_keeps (h : Keeps s t) {x1 x2 x3} : Keeps s (State.logFieldFail t x1 x2 x3) := by
  unfold State.logFieldFail
  repeat' with_reducible first
    | exact h | assumption | apply State.logFault_keeps | split | dsimp only

theorem State.countFieldFail_keeps (h : Keeps s t) {x1 x2} : Keeps s (State.countFieldFail t x1 x2) := by
  unfold State.countFieldFail
  repeat' with_reducible first
    | exact h | assumption | simp only [Keeps.mk_iff] | apply KeepsParts.same | apply Keeps2.snd | split | apply Keeps2.mk
    | refine Keeps2.of (by assumption) ?_ | dsimp only

theorem State.noteSliceUe_keeps (h : Keeps s t) {x1 x2} : Keeps s (State.noteSliceUe t x1 x2) := by
  unfold State.noteSliceUe
  repeat' with_reducible first
    | exact h | assumption | apply State.setReg_keeps | apply State.countFieldFail_keeps | apply State.logFieldFail_keeps
    | apply Keeps.ite | simp only [Keeps.mk_iff] | apply KeepsParts.same | apply KeepsParts.send | split | dsimp only

theorem State.setTallyErr_keeps (h : Keeps s t) {x1 x2} : Keeps s (State.setTallyErr t x1 x2) := by
  unfold State.setTallyErr
  repeat' with_reducible first
    | exact h | assumption | apply Keeps.ite | simp only [Keeps.mk_iff] | apply KeepsParts.same | split | dsimp only

theorem State.tallyWordsLost_keeps (h : Keeps s t) {x1 x2} : Keeps s (State.tallyWordsLost t x1 x2) := by
  unfold State.tallyWordsLost
  repeat' with_reducible first
    | exact h | assumption | apply State.noteSliceUe_keeps | apply State.bump_keeps
    | refine Keeps.foldl (fun _ _ _ => ?_) ?_ | split | dsimp only

theorem State.readTallyUnit_keeps (h : Keeps s t) {x1 x2 x3} : KeepsFst s (State.readTallyUnit t x1 x2 x3) := by
  unfold State.readTallyUnit
  repeat' with_reducible first
    | exact h | assumption | apply State.bump_keeps | apply State.setTallyErr_keeps | apply State.tallyWordsLost_keeps
    | apply State.raiseTo_keeps | refine Keeps.foldl (fun _ _ _ => ?_) ?_ | refine Keeps2.foldl (fun _ _ _ => ?_) ?_
    | refine KeepsFst.foldl (fun _ _ _ => ?_) ?_ | apply Keeps.ite | apply Keeps2.ite | apply KeepsFst.ite
    | apply Keeps2.snd | apply KeepsFst.fst | split | apply Keeps2.mk | apply KeepsFst.mk
    | refine Keeps2.of (by assumption) ?_ | refine KeepsFst.of (by assumption) ?_ | dsimp only

theorem State.writeTallyUnit_keeps (h : Keeps s t) {x1 x2 x3 x4} : KeepsFst s (State.writeTallyUnit t x1 x2 x3 x4) := by
  unfold State.writeTallyUnit
  repeat' with_reducible first
    | exact h | assumption | apply State.setTallyErr_keeps | apply State.bump_keeps | apply State.poke_keeps
    | apply State.raiseTo_keeps | apply State.tallyWordsLost_keeps | refine Keeps.foldl (fun _ _ _ => ?_) ?_
    | refine KeepsFst.foldl (fun _ _ _ => ?_) ?_ | apply KeepsFst.fst | split | apply KeepsFst.mk
    | refine KeepsFst.of (by assumption) ?_ | dsimp only

theorem State.readUnit_keeps (h : Keeps s t) {x1 x2 x3} : KeepsFst s (State.readUnit t x1 x2 x3) := by
  unfold State.readUnit
  repeat' with_reducible first
    | exact h | assumption | apply State.readLine_keeps | apply State.readTallyUnit_keeps | apply Keeps2.snd
    | apply KeepsFst.fst | split | apply Keeps2.mk | apply KeepsFst.mk | refine Keeps2.of (by assumption) ?_
    | refine KeepsFst.of (by assumption) ?_ | dsimp only

theorem State.writeUnit_keeps (h : Keeps s t) {x1 x2 x3 x4} : KeepsFst s (State.writeUnit t x1 x2 x3 x4) := by
  unfold State.writeUnit
  repeat' with_reducible first
    | exact h | assumption | apply State.writeLine_keeps | apply State.writeTallyUnit_keeps | apply State.poke_keeps
    | apply Keeps2.snd | apply KeepsFst.fst | split | apply Keeps2.mk | apply KeepsFst.mk
    | refine Keeps2.of (by assumption) ?_ | refine KeepsFst.of (by assumption) ?_ | dsimp only

theorem State.loadPieces_keeps (h : Keeps s t) {x1 x2 x3} : Keeps3 s (State.loadPieces t x1 x2 x3) := by
  induction x3 generalizing t x1 x2 with
  | nil =>
    rw [State.loadPieces]
    repeat' with_reducible first
    | exact h | assumption | apply State.readUnit_keeps | apply Keeps.ite | apply Keeps2.ite | apply Keeps3.ite
      | apply KeepsFst.ite | apply Keeps2.snd | apply Keeps3.snd | apply KeepsFst.fst | split | apply Keeps2.mk
      | apply Keeps3.mk | apply KeepsFst.mk | refine Keeps2.of (by assumption) ?_ | refine Keeps3.of (by assumption) ?_
      | refine KeepsFst.of (by assumption) ?_ | dsimp only
  | cons p l ih =>
    rcases p with ⟨_, _⟩
    rw [State.loadPieces]
    repeat' with_reducible first
    | exact h | assumption | apply ih | apply State.readUnit_keeps | apply Keeps.ite | apply Keeps2.ite | apply Keeps3.ite
      | apply KeepsFst.ite | apply Keeps2.snd | apply Keeps3.snd | apply KeepsFst.fst | split | apply Keeps2.mk
      | apply Keeps3.mk | apply KeepsFst.mk | refine Keeps2.of (by assumption) ?_ | refine Keeps3.of (by assumption) ?_
      | refine KeepsFst.of (by assumption) ?_ | dsimp only

theorem State.load_keeps (h : Keeps s t) {x1 x2 x3} : Keeps3 s (State.load t x1 x2 x3) := by
  unfold State.load
  repeat' with_reducible first
    | exact h | assumption | apply State.raiseTo_keeps | apply State.loadPieces_keeps | apply Keeps.ite | apply Keeps2.ite
    | apply Keeps3.ite | apply Keeps2.snd | apply Keeps3.snd | split | apply Keeps2.mk | apply Keeps3.mk
    | refine Keeps2.of (by assumption) ?_ | refine Keeps3.of (by assumption) ?_ | dsimp only

theorem State.storePieces_keeps (h : Keeps s t) {x1 x2 x3 x4 x5} : Keeps2 s (State.storePieces t x1 x2 x3 x4 x5) := by
  induction x5 generalizing t x1 x2 x3 x4 with
  | nil =>
    rw [State.storePieces]
    repeat' with_reducible first
    | exact h | assumption | apply State.writeUnit_keeps | apply Keeps.ite | apply Keeps2.ite
      | apply KeepsFst.ite | apply Keeps2.snd | apply KeepsFst.fst | split | apply Keeps2.mk | apply KeepsFst.mk
      | refine Keeps2.of (by assumption) ?_ | refine KeepsFst.of (by assumption) ?_ | dsimp only
  | cons p l ih =>
    rcases p with ⟨_, _⟩
    rw [State.storePieces]
    repeat' with_reducible first
    | exact h | assumption | apply ih | apply State.writeUnit_keeps | apply Keeps.ite | apply Keeps2.ite
      | apply KeepsFst.ite | apply Keeps2.snd | apply KeepsFst.fst | split | apply Keeps2.mk | apply KeepsFst.mk
      | refine Keeps2.of (by assumption) ?_ | refine KeepsFst.of (by assumption) ?_ | dsimp only

theorem State.store_keeps (h : Keeps s t) {x1 x2 x3} : Keeps2 s (State.store t x1 x2 x3) := by
  unfold State.store
  repeat' with_reducible first
    | exact h | assumption | apply State.raiseTo_keeps | apply State.storePieces_keeps | apply Keeps.ite | apply Keeps2.ite
    | apply Keeps2.snd | split | apply Keeps2.mk | refine Keeps2.of (by assumption) ?_ | dsimp only

theorem State.modify_keeps (h : Keeps s t) {x1 x2 x3 x4} : Keeps3 s (State.modify t x1 x2 x3 x4) := by
  unfold State.modify
  repeat' with_reducible first
    | exact h | assumption | apply State.raiseTo_keeps | apply State.readUnit_keeps | apply State.underKey_keeps
    | apply State.poke_keeps | apply Keeps.ite | apply Keeps2.ite | apply Keeps3.ite | apply KeepsFst.ite | apply Keeps2.snd
    | apply Keeps3.snd | apply KeepsFst.fst | split | apply Keeps2.mk | apply Keeps3.mk | apply KeepsFst.mk
    | refine Keeps2.of (by assumption) ?_ | refine Keeps3.of (by assumption) ?_ | refine KeepsFst.of (by assumption) ?_
    | dsimp only

theorem State.loadWord_keeps (h : Keeps s t) {x1 x2} : Keeps2 s (State.loadWord t x1 x2) := by
  unfold State.loadWord
  repeat' with_reducible first
    | exact h | assumption | apply State.load_keeps | apply Keeps2.snd | apply Keeps3.snd | split | apply Keeps2.mk
    | apply Keeps3.mk | refine Keeps2.of (by assumption) ?_ | refine Keeps3.of (by assumption) ?_ | dsimp only

theorem State.loadWords_keeps (h : Keeps s t) {x1 x2 x3} : Keeps2 s (State.loadWords t x1 x2 x3) := by
  unfold State.loadWords
  repeat' with_reducible first
    | exact h | assumption | apply State.load_keeps | apply Keeps2.snd | apply Keeps3.snd | split | apply Keeps2.mk
    | apply Keeps3.mk | refine Keeps2.of (by assumption) ?_ | refine Keeps3.of (by assumption) ?_ | dsimp only

theorem State.storeWords_keeps (h : Keeps s t) {x1 x2 x3} : Keeps2 s (State.storeWords t x1 x2 x3) := by
  unfold State.storeWords
  repeat' with_reducible first
    | exact h | assumption | apply State.store_keeps | apply Keeps2.snd | split | apply Keeps2.mk
    | refine Keeps2.of (by assumption) ?_ | dsimp only

theorem State.zeroRange_keeps (h : Keeps s t) {a n} : Keeps s (t.zeroRange a n) := by
  unfold State.zeroRange
  exact Keeps.setMem h fun w => Mem.wf_filter w _

end Sys2Proof.Machine
end

