-- ==== Sys2Proof/Laws/KeepsPhotonics.lean ====
section
/-! SUPPORT. What the operations of Machine/Photonics.lean keep (Laws/Keeps.lean). -/

namespace Sys2Proof.Machine

set_option linter.unusedTactic false
set_option linter.unreachableTactic false
set_option linter.unusedVariables false
set_option linter.unusedSimpArgs false

variable {s t u : State}

theorem State.setRing_keeps (h : Keeps s t) {x1 x2} : Keeps s (State.setRing t x1 x2) := by
  unfold State.setRing
  repeat' with_reducible first
    | exact h | assumption | simp only [Keeps.mk_iff] | apply KeepsParts.same | split | dsimp only

theorem State.setSlot_keeps (h : Keeps s t) {x1 x2} : Keeps s (State.setSlot t x1 x2) := by
  unfold State.setSlot
  repeat' with_reducible first
    | exact h | assumption | simp only [Keeps.mk_iff] | apply KeepsParts.same | split | dsimp only

theorem State.failRing_keeps (h : Keeps s t) {x1} : Keeps s (State.failRing t x1) := by
  unfold State.failRing
  repeat' with_reducible first
    | exact h | assumption | apply State.setRing_keeps | apply State.logFault_keeps | apply State.bump_keeps
    | apply Keeps.ite | split | dsimp only

theorem State.quarantine_keeps (h : Keeps s t) {x1 x2 x3} : Keeps s (State.quarantine t x1 x2 x3) := by
  unfold State.quarantine
  repeat' with_reducible first
    | exact h | assumption | apply State.bump_keeps | apply State.setSlot_keeps | apply State.setRing_keeps
    | refine Keeps.foldl (fun _ _ _ => ?_) ?_ | apply Keeps.ite | split | dsimp only

theorem State.loseLock_keeps (h : Keeps s t) {x1} : Keeps s (State.loseLock t x1) := by
  unfold State.loseLock
  repeat' with_reducible first
    | exact h | assumption | apply State.setRing_keeps | apply State.setSlot_keeps | apply Keeps.ite | split | dsimp only

theorem execLockLoopUpdate_keeps (h : Keeps s t) {x0 x1 x2} : KeepsNext s (execLockLoopUpdate x0 x1 x2 t) := by
  unfold execLockLoopUpdate
  repeat' with_reducible first
    | exact h | assumption | apply State.advance_keeps | apply State.takeFree_keeps | apply State.setRing_keeps
    | apply State.bump_keeps | apply State.loseLock_keeps | apply KeepsNext.next | apply Keeps.ite | apply Keeps2.ite
    | apply KeepsNext.ite | apply Keeps2.snd | split | apply Keeps2.mk | refine Keeps2.of (by assumption) ?_ | dsimp only

theorem execLockReacquireTimeout_keeps (h : Keeps s t) {x0} : KeepsNext s (execLockReacquireTimeout x0 t) := by
  unfold execLockReacquireTimeout
  repeat' with_reducible first
    | exact h | assumption | apply State.setRing_keeps | apply State.quarantine_keeps | apply KeepsNext.next
    | apply Keeps.ite | apply KeepsNext.ite | split | dsimp only

theorem execRingAcquired_keeps (h : Keeps s t) {x0} : KeepsNext s (execRingAcquired x0 t) := by
  unfold execRingAcquired
  repeat' with_reducible first
    | exact h | assumption | apply State.setRing_keeps | apply KeepsNext.next | split | dsimp only

theorem execRingSweepComplete_keeps (h : Keeps s t) {x0 x1} : KeepsNext s (execRingSweepComplete x0 x1 t) := by
  unfold execRingSweepComplete
  repeat' with_reducible first
    | exact h | assumption | apply State.setSlot_keeps | apply State.setRing_keeps | apply State.failRing_keeps
    | apply KeepsNext.next | apply Keeps.ite | apply KeepsNext.ite | split | dsimp only

theorem State.sendLink_keeps (h : Keeps s t) {x1 x2 x3 x4} : Keeps s (State.sendLink t x1 x2 x3 x4) := by
  unfold State.sendLink
  repeat' with_reducible first
    | exact h | assumption | apply State.emit_keeps | refine Keeps.foldl (fun _ _ _ => ?_) ?_
    | refine Keeps2.foldl (fun _ _ _ => ?_) ?_ | simp only [Keeps.mk_iff] | apply KeepsParts.same | apply Keeps2.snd | split
    | apply Keeps2.mk | refine Keeps2.of (by assumption) ?_ | dsimp only

theorem State.sendNak_keeps (h : Keeps s t) {x1 x2} : Keeps s (State.sendNak t x1 x2) := by
  unfold State.sendNak
  repeat' with_reducible first
    | exact h | assumption | apply State.sendLink_keeps | split | dsimp only

theorem State.slotLost_keeps (h : Keeps s t) {x1} : Keeps s (State.slotLost t x1) := by
  unfold State.slotLost
  repeat' with_reducible first
    | exact h | assumption | apply State.setSlot_keeps | apply State.emit_keeps | apply State.sendNak_keeps
    | refine Keeps.foldl (fun _ _ _ => ?_) ?_ | refine Keeps2.foldl (fun _ _ _ => ?_) ?_ | simp only [Keeps.mk_iff]
    | apply KeepsParts.same | apply KeepsParts.send | apply Keeps2.snd | split | apply Keeps2.mk
    | refine Keeps2.of (by assumption) ?_ | dsimp only

theorem State.lineEvent_keeps (h : Keeps s t) {x1 x2} : Keeps s (State.lineEvent t x1 x2) := by
  unfold State.lineEvent
  repeat' with_reducible first
    | exact h | assumption | apply State.setSlot_keeps | apply State.slotLost_keeps | apply State.bump_keeps
    | apply Keeps.ite | simp only [Keeps.mk_iff] | apply KeepsParts.same | apply KeepsParts.send | split | dsimp only

theorem State.goodBeacon_keeps (h : Keeps s t) {x1} : Keeps s (State.goodBeacon t x1) := by
  unfold State.goodBeacon
  repeat' with_reducible first
    | exact h | assumption | apply State.setSlot_keeps | apply State.bump_keeps | apply Keeps.ite | split | dsimp only

theorem State.failProbe_keeps (h : Keeps s t) {x1 x2} : Keeps s (State.failProbe t x1 x2) := by
  unfold State.failProbe
  repeat' with_reducible first
    | exact h | assumption | apply State.setSlot_keeps | apply State.setRing_keeps | apply State.failRing_keeps
    | refine Keeps.foldl (fun _ _ _ => ?_) ?_ | apply Keeps.ite | split | dsimp only

theorem execLineBeaconCheck_keeps (h : Keeps s t) {x0 x1} : KeepsNext s (execLineBeaconCheck x0 x1 t) := by
  unfold execLineBeaconCheck
  repeat' with_reducible first
    | exact h | assumption | apply State.advance_keeps | apply State.goodBeacon_keeps | apply State.lineEvent_keeps
    | apply KeepsNext.next | apply Keeps.ite | apply KeepsNext.ite | split | dsimp only

theorem State.probeFailed_keeps (h : Keeps s t) {x1 x2 x3 x4} : Keeps s (State.probeFailed t x1 x2 x3 x4) := by
  unfold State.probeFailed
  repeat' with_reducible first
    | exact h | assumption | apply State.quarantine_keeps | apply State.failProbe_keeps | apply Keeps.ite | split
    | dsimp only

theorem State.settleEvent_keeps (h : Keeps s t) {x1} : Keeps s (State.settleEvent t x1) := by
  unfold State.settleEvent
  repeat' with_reducible first
    | exact h | assumption | apply State.bump_keeps | apply State.quarantine_keeps | apply State.probeFailed_keeps
    | apply Keeps.ite | split | dsimp only

theorem State.attribute_keeps (h : Keeps s t) : Keeps s (State.attribute t) := by
  unfold State.attribute
  repeat' with_reducible first
    | exact h | assumption | apply State.settleEvent_keeps | refine Keeps.foldl (fun _ _ _ => ?_) ?_
    | simp only [Keeps.mk_iff] | apply KeepsParts.same | split | dsimp only

theorem execAllocatorCycle_keeps (h : Keeps s t) : KeepsNext s (execAllocatorCycle t) := by
  unfold execAllocatorCycle
  repeat' with_reducible first
    | exact h | assumption | apply State.advance_keeps | apply State.bump_keeps | apply KeepsNext.next | apply Keeps.ite
    | apply Keeps2.ite | apply KeepsNext.ite | simp only [Keeps.mk_iff] | apply KeepsParts.same | apply Keeps2.snd | split
    | apply Keeps2.mk | refine Keeps2.of (by assumption) ?_ | dsimp only

theorem State.retune_keeps (h : Keeps s t) {x1} : Keeps s (State.retune t x1) := by
  unfold State.retune
  repeat' with_reducible first
    | exact h | assumption | apply State.bump_keeps | apply State.setSlot_keeps | split | dsimp only

theorem State.giveTarget_keeps (h : Keeps s t) {x1 x2 x3} : Keeps s (State.giveTarget t x1 x2 x3) := by
  unfold State.giveTarget
  repeat' with_reducible first
    | exact h | assumption | apply State.setRing_keeps | apply Keeps.ite | split | dsimp only

theorem State.startSweeps_keeps (h : Keeps s t) : Keeps s (State.startSweeps t) := by
  unfold State.startSweeps
  repeat' with_reducible first
    | exact h | assumption | apply State.quarantine_keeps | refine Keeps.foldl (fun _ _ _ => ?_) ?_ | apply Keeps.ite
    | simp only [Keeps.mk_iff] | apply KeepsParts.same | split | dsimp only

theorem State.takeGrants_keeps (h : Keeps s t) : Keeps s (State.takeGrants t) := by
  unfold State.takeGrants
  repeat' with_reducible first
    | exact h | assumption | apply State.retune_keeps | apply State.giveTarget_keeps | apply State.logFault_keeps
    | apply State.bump_keeps | refine Keeps.foldl (fun _ _ _ => ?_) ?_ | refine Keeps2.foldl (fun _ _ _ => ?_) ?_
    | apply Keeps.ite | apply Keeps2.ite | simp only [Keeps.mk_iff] | apply KeepsParts.same | apply Keeps2.snd | split
    | apply Keeps2.mk | refine Keeps2.of (by assumption) ?_ | dsimp only

theorem State.openStride_keeps (h : Keeps s t) : Keeps s (State.openStride t) := by
  unfold State.openStride
  repeat' with_reducible first
    | exact h | assumption | apply State.emit_keeps | apply State.sendLink_keeps | refine Keeps.foldl (fun _ _ _ => ?_) ?_
    | split | dsimp only

theorem State.photonicBoundary_keeps (h : Keeps s t) : Keeps s (State.photonicBoundary t) := by
  unfold State.photonicBoundary
  repeat' with_reducible first
    | exact h | assumption | apply State.attribute_keeps | apply State.takeGrants_keeps | apply State.startSweeps_keeps
    | apply State.openStride_keeps | simp only [Keeps.mk_iff] | apply KeepsParts.same | apply Keeps2.snd | split
    | apply Keeps2.mk | refine Keeps2.of (by assumption) ?_ | dsimp only

theorem State.planeLeaves_keeps (h : Keeps s t) {x1} : Keeps s (State.planeLeaves t x1) := by
  unfold State.planeLeaves
  repeat' with_reducible first
    | exact h | assumption | apply Keeps.ite | simp only [Keeps.mk_iff] | apply KeepsParts.same | split | dsimp only

theorem State.parkPlane_keeps (h : Keeps s t) {x1} : Keeps s (State.parkPlane t x1) := by
  unfold State.parkPlane
  repeat' with_reducible first
    | exact h | assumption | apply Keeps.ite | simp only [Keeps.mk_iff] | apply KeepsParts.same | split | dsimp only

theorem State.parkPort_keeps (h : Keeps s t) {x1} : Keeps s (State.parkPort t x1) := by
  unfold State.parkPort
  repeat' with_reducible first
    | exact h | assumption | apply Keeps.ite | simp only [Keeps.mk_iff] | apply KeepsParts.same | split | dsimp only

theorem State.probeSlot_keeps (h : Keeps s t) {x1} : Keeps s (State.probeSlot t x1) := by
  unfold State.probeSlot
  repeat' with_reducible first
    | exact h | assumption | apply State.setSlot_keeps | apply Keeps.ite | split | dsimp only

theorem State.wakePlane_keeps (h : Keeps s t) {x1} : Keeps s (State.wakePlane t x1) := by
  unfold State.wakePlane
  repeat' with_reducible first
    | exact h | assumption | apply State.probeSlot_keeps | refine Keeps.foldl (fun _ _ _ => ?_) ?_ | apply Keeps.ite
    | simp only [Keeps.mk_iff] | apply KeepsParts.same | split | dsimp only

theorem State.replayPlane_keeps (h : Keeps s t) {x1} : Keeps s (State.replayPlane t x1) := by
  unfold State.replayPlane
  repeat' with_reducible first
    | exact h | assumption | apply Keeps.ite | simp only [Keeps.mk_iff] | apply KeepsParts.same | split | dsimp only

end Sys2Proof.Machine
end

