-- ==== Sys2Proof/Laws/KeepsDraughtLink.lean ====
section
/-! SUPPORT. What the operations of Machine/DraughtLink.lean keep (Laws/Keeps.lean). -/

namespace Sys2Proof.Machine

set_option linter.unusedTactic false
set_option linter.unreachableTactic false
set_option linter.unusedVariables false
set_option linter.unusedSimpArgs false

variable {s t u : State}

theorem State.setPair_keeps (h : Keeps s t) {x1 x2} : Keeps s (State.setPair t x1 x2) := by
  unfold State.setPair
  repeat' with_reducible first
    | exact h | assumption | simp only [Keeps.mk_iff] | apply KeepsParts.same | split | dsimp only

theorem State.putLine_keeps (h : Keeps s t) {x1 x2 x3 x4} : Keeps s (State.putLine t x1 x2 x3 x4) := by
  unfold State.putLine
  repeat' with_reducible first
    | exact h | assumption | apply State.setSlot_keeps | apply State.start_keeps | apply State.emit_keeps
    | apply State.bump_keeps | simp only [Keeps.mk_iff] | apply KeepsParts.same | apply KeepsParts.send | split
    | dsimp only

theorem State.numberRequest_keeps (h : Keeps s t) {x1 x2 x3} : Keeps s (State.numberRequest t x1 x2 x3) := by
  unfold State.numberRequest
  repeat' with_reducible first
    | exact h | assumption | apply Keeps.ite | simp only [Keeps.mk_iff] | apply KeepsParts.same | split | dsimp only

theorem State.sendOne_keeps (h : Keeps s t) {x1 x2} : KeepsOpt s (State.sendOne t x1 x2) := by
  unfold State.sendOne
  repeat' with_reducible first
    | exact h | assumption | apply State.setPair_keeps | apply State.bump_keeps | apply State.putLine_keeps
    | apply State.numberRequest_keeps | refine KeepsOpt.map ?_ (fun _ _ => ?_) | refine KeepsOpt.bind ?_ (fun _ _ => ?_)
    | apply Keeps.ite | apply Keeps2.ite | apply KeepsOpt.ite | exact KeepsOpt.ofNone | apply KeepsOpt.ofSome
    | apply Keeps2.snd | split | apply Keeps2.mk | refine Keeps2.of (by assumption) ?_ | dsimp only

theorem State.sendMany_keeps (h : Keeps s t) {x1 x2 x3} : Keeps s (State.sendMany t x1 x2 x3) := by
  induction x3 generalizing t x1 x2 with
  | zero =>
    rw [State.sendMany]
    repeat' with_reducible first
    | exact h | assumption | apply State.sendOne_keeps | refine KeepsOpt.map ?_ (fun _ _ => ?_)
      | refine KeepsOpt.bind ?_ (fun _ _ => ?_) | exact KeepsOpt.ofNone | apply KeepsOpt.ofSome | split
      | refine KeepsOpt.get (by assumption) ?_ | dsimp only
  | succ n ih =>
    rw [State.sendMany]
    repeat' with_reducible first
    | exact h | assumption | apply ih | apply State.sendOne_keeps | refine KeepsOpt.map ?_ (fun _ _ => ?_)
      | refine KeepsOpt.bind ?_ (fun _ _ => ?_) | exact KeepsOpt.ofNone | apply KeepsOpt.ofSome | split
      | refine KeepsOpt.get (by assumption) ?_ | dsimp only

theorem State.resyncPast_keeps (h : Keeps s t) {x1 x2} : Keeps s (State.resyncPast t x1 x2) := by
  unfold State.resyncPast
  repeat' with_reducible first
    | exact h | assumption | apply State.setPair_keeps | apply State.resync_keeps | simp only [Keeps.mk_iff]
    | apply KeepsParts.same | apply KeepsParts.send | split | intro _ | dsimp only

theorem State.dropDelivered_keeps (h : Keeps s t) {x1 x2} : Keeps s (State.dropDelivered t x1 x2) := by
  unfold State.dropDelivered
  repeat' with_reducible first
    | exact h | assumption | apply State.setPair_keeps | apply State.sendLink_keeps | apply Keeps.ite
    | simp only [Keeps.mk_iff] | apply KeepsParts.same | split | dsimp only

theorem State.withdraw_keeps (h : Keeps s t) {x1 x2} : Keeps s (State.withdraw t x1 x2) := by
  unfold State.withdraw
  repeat' with_reducible first
    | exact h | assumption | apply State.dropDelivered_keeps | apply Keeps.ite | simp only [Keeps.mk_iff]
    | apply KeepsParts.same | split | dsimp only

theorem State.limitReplays_keeps (h : Keeps s t) {x1} : Keeps s (State.limitReplays t x1) := by
  unfold State.limitReplays
  repeat' with_reducible first
    | exact h | assumption | apply State.logFault_keeps | apply State.withdraw_keeps | apply State.resyncPast_keeps
    | refine Keeps.foldl (fun _ _ _ => ?_) ?_ | split | dsimp only

theorem State.pumpPair_keeps (h : Keeps s t) {x1 x2} : Keeps s (State.pumpPair t x1 x2) := by
  unfold State.pumpPair
  repeat' with_reducible first
    | exact h | assumption | apply State.sendMany_keeps | apply State.limitReplays_keeps | split | dsimp only

theorem State.handOver_keeps (h : Keeps s t) {x1 x2 x3 x4} : Keeps s (State.handOver t x1 x2 x3 x4) := by
  unfold State.handOver
  repeat' with_reducible first
    | exact h | assumption | apply Keeps.ite | simp only [Keeps.mk_iff] | apply KeepsParts.same | apply KeepsParts.send
    | split | dsimp only

theorem State.portSend_keeps (h : Keeps s t) {x1 x2 x3} : Keeps s (State.portSend t x1 x2 x3) := by
  unfold State.portSend
  repeat' with_reducible first
    | exact h | assumption | apply State.handOver_keeps | apply State.numberRequest_keeps | apply State.setPair_keeps
    | apply State.pumpPair_keeps | apply Keeps.ite | split | dsimp only

theorem State.portRequest_keeps (h : Keeps s t) {x1 x2 x3 x4 x5} : Keeps s (State.portRequest t x1 x2 x3 x4 x5) := by
  unfold State.portRequest
  repeat' with_reducible first
    | exact h | assumption | apply State.portSend_keeps | simp only [Keeps.mk_iff] | apply KeepsParts.same
    | apply KeepsParts.send | split | dsimp only

theorem State.deliver_keeps (h : Keeps s t) {x1 x2 x3 x4} : Keeps s (State.deliver t x1 x2 x3 x4) := by
  unfold State.deliver
  repeat' with_reducible first
    | exact h | assumption | apply State.handOver_keeps | apply State.bump_keeps | split | dsimp only

theorem State.drainReorder_keeps (h : Keeps s t) {x1 x2 x3} : Keeps s (State.drainReorder t x1 x2 x3) := by
  induction x3 generalizing t x1 x2 with
  | zero =>
    rw [State.drainReorder]
    repeat' with_reducible first
    | exact h | assumption | apply State.deliver_keeps | apply State.setPair_keeps | apply Keeps.ite | split
      | dsimp only
  | succ n ih =>
    rw [State.drainReorder]
    repeat' with_reducible first
    | exact h | assumption | apply ih | apply State.deliver_keeps | apply State.setPair_keeps | apply Keeps.ite | split
      | dsimp only

theorem State.sendAck_keeps (h : Keeps s t) {x1 x2} : Keeps s (State.sendAck t x1 x2) := by
  unfold State.sendAck
  repeat' with_reducible first
    | exact h | assumption | apply State.sendLink_keeps | split | dsimp only

theorem State.arrive_keeps (h : Keeps s t) {x1 x2 x3 x4 x5} : Keeps s (State.arrive t x1 x2 x3 x4 x5) := by
  unfold State.arrive
  repeat' with_reducible first
    | exact h | assumption | apply State.setPair_keeps | apply State.sendAck_keeps | apply State.drainReorder_keeps
    | apply State.deliver_keeps | apply State.bump_keeps | apply Keeps.ite | split | dsimp only

theorem State.takeInbox_keeps (h : Keeps s t) {x1} : KeepsOpt2 s (State.takeInbox t x1) := by
  unfold State.takeInbox
  repeat' with_reducible first
    | exact h | assumption | apply State.setPair_keeps | apply State.sendLink_keeps | apply Keeps.ite | apply Keeps2.ite
    | apply KeepsOpt2.ite | simp only [Keeps.mk_iff] | apply KeepsParts.same | exact KeepsOpt2.ofNone
    | apply KeepsOpt2.ofSome | apply Keeps2.snd | split | apply Keeps2.mk | refine Keeps2.of (by assumption) ?_ | dsimp only

theorem State.takeAck_keeps (h : Keeps s t) {x1 x2 x3} : Keeps s (State.takeAck t x1 x2 x3) := by
  unfold State.takeAck
  repeat' with_reducible first
    | exact h | assumption | apply State.setPair_keeps | apply State.pumpPair_keeps | split | dsimp only

theorem State.takeNak_keeps (h : Keeps s t) {x1 x2 x3} : Keeps s (State.takeNak t x1 x2 x3) := by
  unfold State.takeNak
  repeat' with_reducible first
    | exact h | assumption | apply State.setPair_keeps | apply State.pumpPair_keeps | apply Keeps.ite | split | dsimp only

theorem State.takeSlotLost_keeps (h : Keeps s t) {x1} : Keeps s (State.takeSlotLost t x1) := by
  unfold State.takeSlotLost
  repeat' with_reducible first
    | exact h | assumption | apply State.setSlot_keeps | apply State.pumpPair_keeps | apply Keeps.ite
    | simp only [Keeps.mk_iff] | apply KeepsParts.same | refine Keeps.foldl (fun _ _ _ => ?_) ?_ | split | dsimp only

theorem State.takeCredit_keeps (h : Keeps s t) {x1 x2 x3} : Keeps s (State.takeCredit t x1 x2 x3) := by
  unfold State.takeCredit
  repeat' with_reducible first
    | exact h | assumption | apply State.pumpPair_keeps | apply State.setPair_keeps | split | dsimp only

theorem State.takeLink_keeps (h : Keeps s t) {x1 x2 x3 x4 x5} : Keeps s (State.takeLink t x1 x2 x3 x4 x5) := by
  unfold State.takeLink
  repeat' with_reducible first
    | exact h | assumption | apply State.takeAck_keeps | apply State.takeNak_keeps | apply State.takeSlotLost_keeps
    | apply State.takeCredit_keeps | split | dsimp only

theorem execLinkIdle_keeps (h : Keeps s t) {x0 x1 x2} : KeepsNext s (execLinkIdle x0 x1 x2 t) := by
  unfold execLinkIdle
  repeat' with_reducible first
    | exact h | assumption | apply State.takeLink_keeps | apply KeepsNext.next | split | dsimp only

theorem execLinkAck_keeps (h : Keeps s t) {x0 x1 x2} : KeepsNext s (execLinkAck x0 x1 x2 t) := by
  unfold execLinkAck
  repeat' with_reducible first
    | exact h | assumption | apply State.takeLink_keeps | apply KeepsNext.next | split | dsimp only

theorem execLinkNak_keeps (h : Keeps s t) {x0 x1 x2 x3} : KeepsNext s (execLinkNak x0 x1 x2 x3 t) := by
  unfold execLinkNak
  repeat' with_reducible first
    | exact h | assumption | apply State.takeLink_keeps | apply KeepsNext.next | split | dsimp only

theorem execLinkSlotLost_keeps (h : Keeps s t) {x0 x1 x2 x3 x4 x5} : KeepsNext s (execLinkSlotLost x0 x1 x2 x3 x4 x5 t) := by
  unfold execLinkSlotLost
  repeat' with_reducible first
    | exact h | assumption | apply State.takeLink_keeps | apply KeepsNext.next | split | dsimp only

theorem execLinkCredit_keeps (h : Keeps s t) {x0 x1 x2 x3} : KeepsNext s (execLinkCredit x0 x1 x2 x3 t) := by
  unfold execLinkCredit
  repeat' with_reducible first
    | exact h | assumption | apply State.takeLink_keeps | apply KeepsNext.next | split | dsimp only

theorem execDraughtPacketReceive_keeps (h : Keeps s t) {x0 x1 x2} : KeepsNext s (execDraughtPacketReceive x0 x1 x2 t) := by
  unfold execDraughtPacketReceive
  repeat' with_reducible first
    | exact h | assumption | apply State.advance_keeps | apply State.sendNak_keeps | apply State.bump_keeps
    | apply State.lineEvent_keeps | apply State.takeLink_keeps | apply State.arrive_keeps | apply KeepsNext.next
    | apply Keeps.ite | apply Keeps2.ite | apply KeepsNext.ite | apply Keeps2.snd | split | apply Keeps2.mk
    | refine Keeps2.of (by assumption) ?_ | dsimp only

theorem execDraughtGapNak_keeps (h : Keeps s t) {x0 x1 x2} : KeepsNext s (execDraughtGapNak x0 x1 x2 t) := by
  unfold execDraughtGapNak
  repeat' with_reducible first
    | exact h | assumption | apply State.advance_keeps | apply State.sendNak_keeps | apply State.setPair_keeps
    | apply KeepsNext.next | apply Keeps.ite | apply KeepsNext.ite | split | dsimp only

theorem execDraughtReplayTimeout_keeps (h : Keeps s t) {x0 x1 x2 x3} : KeepsNext s (execDraughtReplayTimeout x0 x1 x2 x3 t) := by
  unfold execDraughtReplayTimeout
  repeat' with_reducible first
    | exact h | assumption | apply State.advance_keeps | apply State.pumpPair_keeps | apply State.setPair_keeps
    | apply KeepsNext.next | apply Keeps.ite | apply KeepsNext.ite | split | dsimp only

theorem execDraughtRequestTimeout_keeps (h : Keeps s t) {x0 x1} : KeepsNext s (execDraughtRequestTimeout x0 x1 t) := by
  unfold execDraughtRequestTimeout
  repeat' with_reducible first
    | exact h | assumption | apply State.advance_keeps | apply State.dropDelivered_keeps | apply State.resyncPast_keeps
    | apply State.setPair_keeps | apply KeepsNext.next | apply Keeps.ite | apply KeepsNext.ite
    | simp only [Keeps.mk_iff] | apply KeepsParts.same | split | dsimp only

theorem State.resyncPairs_keeps (h : Keeps s t) : Keeps s (State.resyncPairs t) := by
  unfold State.resyncPairs
  repeat' with_reducible first
    | exact h | assumption | apply State.resync_keeps | simp only [Keeps.mk_iff] | apply KeepsParts.same
    | apply KeepsParts.send | split | intro _ | dsimp only

theorem State.openPairs_keeps (h : Keeps s t) : Keeps s (State.openPairs t) := by
  unfold State.openPairs
  repeat' with_reducible first
    | exact h | assumption | simp only [Keeps.mk_iff] | apply KeepsParts.same | refine Keeps.foldl (fun _ _ _ => ?_) ?_
    | split | dsimp only

theorem State.linkBoundary_keeps (h : Keeps s t) : Keeps s (State.linkBoundary t) := by
  unfold State.linkBoundary
  repeat' with_reducible first
    | exact h | assumption | apply State.resyncPairs_keeps | apply State.openPairs_keeps
    | apply State.drainReorder_keeps | apply State.pumpPair_keeps | apply Keeps.ite | simp only [Keeps.mk_iff]
    | apply KeepsParts.same | refine Keeps.foldl (fun _ _ _ => ?_) ?_ | split | dsimp only

theorem State.takeVerdicts_keeps (h : Keeps s t) : Keeps2 s (State.takeVerdicts t) := by
  unfold State.takeVerdicts
  repeat' with_reducible first
    | exact h | assumption | simp only [Keeps.mk_iff] | apply KeepsParts.same | apply Keeps2.snd | split | apply Keeps2.mk
    | refine Keeps2.of (by assumption) ?_ | dsimp only

theorem State.resetPort_keeps (h : Keeps s t) {x1} : Keeps s (State.resetPort t x1) := by
  unfold State.resetPort
  repeat' with_reducible first
    | exact h | assumption | apply Keeps.ite | apply Keeps2.ite | simp only [Keeps.mk_iff] | apply KeepsParts.same
    | apply Keeps2.snd | split | apply Keeps2.mk | refine Keeps2.of (by assumption) ?_ | dsimp only

end Sys2Proof.Machine
end

