-- ==== Sys2Proof/Laws/KeepsAdverts.lean ====
section
/-! SUPPORT. What the operations of Machine/Adverts.lean keep (Laws/Keeps.lean). -/

namespace Sys2Proof.Machine

set_option linter.unusedTactic false
set_option linter.unreachableTactic false
set_option linter.unusedVariables false
set_option linter.unusedSimpArgs false

variable {s t u : State}

theorem State.setRouting_keeps (h : Keeps s t) {x1} : Keeps s (State.setRouting t x1) := by
  unfold State.setRouting
  repeat' with_reducible first
    | exact h | assumption | simp only [Keeps.mk_iff] | apply KeepsParts.same | split | dsimp only

theorem State.takeAdvert_keeps (h : Keeps s t) {x1 x2} : Keeps s (State.takeAdvert t x1 x2) := by
  unfold State.takeAdvert
  repeat' with_reducible first
    | exact h | assumption | apply State.setRouting_keeps | apply State.logFault_keeps | apply Keeps.ite
    | simp only [Keeps.mk_iff] | apply KeepsParts.same | split | dsimp only

end Sys2Proof.Machine
end

