-- ==== Sys2Proof/Laws/KeepsSignalOps.lean ====
section
/-! SUPPORT. What the operations of Machine/SignalOps.lean keep (Laws/Keeps.lean). -/

namespace Sys2Proof.Machine

set_option linter.unusedTactic false
set_option linter.unreachableTactic false
set_option linter.unusedVariables false
set_option linter.unusedSimpArgs false

variable {s t u : State}

theorem State.signal_keeps (h : Keeps s t) {x1 x2 x3 x4 x5 x6} : Keeps2 s (State.signal t x1 x2 x3 x4 x5 x6) := by
  unfold State.signal
  repeat' with_reducible first
    | exact h | assumption | apply State.raiseTo_keeps | apply State.bump_keeps | apply Keeps.ite | apply Keeps2.ite
    | simp only [Keeps.mk_iff] | apply KeepsParts.same | apply Keeps2.snd | split | apply Keeps2.mk
    | refine Keeps2.of (by assumption) ?_ | dsimp only

theorem State.signalAt_keeps (h : Keeps s t) {x1 x2 x3 x4 x5 x6 x7} : Keeps s (State.signalAt t x1 x2 x3 x4 x5 x6 x7) := by
  unfold State.signalAt
  repeat' with_reducible first
    | exact h | assumption | apply State.signal_keeps | apply Keeps2.snd | split | apply Keeps2.mk
    | refine Keeps2.of (by assumption) ?_ | dsimp only

theorem State.ringWriteDone_keeps (h : Keeps s t) {x1 x2} : Keeps s (State.ringWriteDone t x1 x2) := by
  unfold State.ringWriteDone
  split
  · exact h
  · rename_i w _
    have k : Keeps s { t with flt := { t.flt with flight := t.flt.flight.erase w } } := by
      refine Keeps.setFlt h ?_
      exact id
    repeat' with_reducible first
      | exact k | apply State.writeLog_keeps | apply State.bump_keeps | apply State.signalAt_keeps | apply State.setReg_keeps
      | apply State.store_keeps | apply State.hostWrite_keeps | apply Keeps.ite | apply Keeps2.ite | apply Keeps2.snd | split
      | apply Keeps2.mk | refine Keeps2.of (by assumption) ?_ | dsimp only

theorem State.flushFaults_keeps (h : Keeps s t) {x1} : Keeps s (State.flushFaults t x1) := by
  unfold State.flushFaults
  repeat' with_reducible first
    | exact h | assumption | apply State.ringWriteDone_keeps | refine Keeps.foldl (fun _ _ _ => ?_) ?_ | split | dsimp only

end Sys2Proof.Machine
end

