-- ==== Sys2Proof/Laws/KeepsCoreOps.lean ====
section
/-! SUPPORT. What the operations of Machine/CoreOps.lean keep (Laws/Keeps.lean). -/

namespace Sys2Proof.Machine

set_option linter.unusedTactic false
set_option linter.unreachableTactic false
set_option linter.unusedVariables false
set_option linter.unusedSimpArgs false

variable {s t u : State}

theorem State.settleQueue_keeps (h : Keeps s t) {x1} : Keeps s (State.settleQueue t x1) := by
  unfold State.settleQueue
  repeat' with_reducible first
    | exact h | assumption | apply State.setQueue_keeps | split | dsimp only

theorem State.withdrawWatches_keeps (h : Keeps s t) {x1} : Keeps s (State.withdrawWatches t x1) := by
  unfold State.withdrawWatches
  repeat' with_reducible first
    | exact h | assumption | simp only [Keeps.mk_iff] | apply KeepsParts.same | split | dsimp only

theorem State.dropRequests_keeps (h : Keeps s t) {x1 x2} : Keeps s (State.dropRequests t x1 x2) := by
  unfold State.dropRequests
  repeat' with_reducible first
    | exact h | assumption | simp only [Keeps.mk_iff] | apply KeepsParts.same | split | dsimp only

theorem State.drainRouters_keeps (h : Keeps s t) {x1} : Keeps s (State.drainRouters t x1) := by
  unfold State.drainRouters
  repeat' with_reducible first
    | exact h | assumption | simp only [Keeps.mk_iff] | apply KeepsParts.same | split | dsimp only

theorem State.raiseQueue_keeps (h : Keeps s t) {x1 x2 x3} : Keeps s (State.raiseQueue t x1 x2 x3) := by
  unfold State.raiseQueue
  repeat' with_reducible first
    | exact h | assumption | apply State.raiseTo_keeps | split | dsimp only

theorem State.haltQueue_keeps (h : Keeps s t) {x1 x2} : Keeps s (State.haltQueue t x1 x2) := by
  unfold State.haltQueue
  repeat' with_reducible first
    | exact h | assumption | apply State.setQueue_keeps | apply State.withdrawWatches_keeps | apply Keeps.ite | split
    | dsimp only

theorem State.complete_keeps (h : Keeps s t) {x1 x2 x3 x4} : Keeps s (State.complete t x1 x2 x3 x4) := by
  unfold State.complete
  repeat' with_reducible first
    | exact h | assumption | apply State.setQueue_keeps | split | dsimp only

theorem State.queueEnabled_keeps (h : Keeps s t) {x1 x2} : Keeps s (State.queueEnabled t x1 x2) := by
  unfold State.queueEnabled
  repeat' with_reducible first
    | exact h | assumption | apply State.setQueue_keeps | apply State.withdrawWatches_keeps | apply State.logFault_keeps
    | apply State.settleQueue_keeps | apply Keeps.ite | split | dsimp only

theorem State.queueResumed_keeps (h : Keeps s t) {x1 x2} : Keeps s (State.queueResumed t x1 x2) := by
  unfold State.queueResumed
  repeat' with_reducible first
    | exact h | assumption | apply State.settleQueue_keeps | apply State.setQueue_keeps | apply Keeps.ite | split
    | dsimp only

theorem State.queueBoundary_keeps (h : Keeps s t) {x1} : Keeps s (State.queueBoundary t x1) := by
  unfold State.queueBoundary
  repeat' with_reducible first
    | exact h | assumption | apply State.setQueue_keeps | apply State.settleQueue_keeps | apply Keeps.ite | split
    | dsimp only

end Sys2Proof.Machine
end

