-- ==== Sys2Proof/Laws/KeepsElements.lean ====
section
/-! SUPPORT. What the operations of Machine/Elements.lean keep (Laws/Keeps.lean). -/

namespace Sys2Proof.Machine

set_option linter.unusedTactic false
set_option linter.unreachableTactic false
set_option linter.unusedVariables false
set_option linter.unusedSimpArgs false

variable {s t u : State}

theorem State.loadMany_keeps (h : Keeps s t) {x1 x2} : Keeps3 s (State.loadMany t x1 x2) := by
  induction x2 generalizing t x1 with
  | nil =>
    rw [State.loadMany]
    repeat' with_reducible first
    | exact h | assumption | apply State.load_keeps | apply Keeps2.snd | apply Keeps3.snd | split
      | apply Keeps2.mk | apply Keeps3.mk | refine Keeps2.of (by assumption) ?_ | refine Keeps3.of (by assumption) ?_
      | dsimp only
  | cons p l ih =>
    rcases p with ⟨_, _⟩
    rw [State.loadMany]
    repeat' with_reducible first
    | exact h | assumption | apply ih | apply State.load_keeps | apply Keeps2.snd | apply Keeps3.snd | split
      | apply Keeps2.mk | apply Keeps3.mk | refine Keeps2.of (by assumption) ?_ | refine Keeps3.of (by assumption) ?_
      | dsimp only

theorem State.storeMany_keeps (h : Keeps s t) {x1 x2} : Keeps2 s (State.storeMany t x1 x2) := by
  induction x2 generalizing t x1 with
  | nil =>
    rw [State.storeMany]
    repeat' with_reducible first
    | exact h | assumption | apply State.store_keeps | apply Keeps2.snd | split | apply Keeps2.mk
      | refine Keeps2.of (by assumption) ?_ | dsimp only
  | cons p l ih =>
    rcases p with ⟨_, _⟩
    rw [State.storeMany]
    repeat' with_reducible first
    | exact h | assumption | apply ih | apply State.store_keeps | apply Keeps2.snd | split | apply Keeps2.mk
      | refine Keeps2.of (by assumption) ?_ | dsimp only

theorem State.loadValues_keeps (h : Keeps s t) {x1 x2 x3 x4} : Keeps3 s (State.loadValues t x1 x2 x3 x4) := by
  unfold State.loadValues
  repeat' with_reducible first
    | exact h | assumption | apply State.loadMany_keeps | apply Keeps2.snd | apply Keeps3.snd | split | apply Keeps2.mk
    | apply Keeps3.mk | refine Keeps2.of (by assumption) ?_ | refine Keeps3.of (by assumption) ?_ | dsimp only

theorem State.storeResults_keeps (h : Keeps s t) {x1 x2 x3 x4 x5} : Keeps3 s (State.storeResults t x1 x2 x3 x4 x5) := by
  unfold State.storeResults
  repeat' with_reducible first
    | exact h | assumption | apply State.storeMany_keeps | apply State.store_keeps | apply Keeps.ite | apply Keeps2.ite
    | apply Keeps3.ite | apply Keeps2.snd | apply Keeps3.snd | split | apply Keeps2.mk | apply Keeps3.mk
    | refine Keeps2.of (by assumption) ?_ | refine Keeps3.of (by assumption) ?_ | dsimp only

end Sys2Proof.Machine
end

