-- ==== Sys2Proof/Laws/KeepsStableOps.lean ====
section
/-! SUPPORT. What the operations of Machine/StableOps.lean keep (Laws/Keeps.lean). -/

namespace Sys2Proof.Machine

set_option linter.unusedTactic false
set_option linter.unreachableTactic false
set_option linter.unusedVariables false
set_option linter.unusedSimpArgs false

variable {s t u : State}

theorem State.setStall_keeps (h : Keeps s t) {x1 x2} : Keeps s (State.setStall t x1 x2) := by
  unfold State.setStall
  repeat' with_reducible first
    | exact h | assumption | simp only [Keeps.mk_iff] | apply KeepsParts.same | split | dsimp only

theorem State.judgePools_keeps (h : Keeps s t) : Keeps s (State.judgePools t) := by
  unfold State.judgePools
  repeat' with_reducible first
    | exact h | assumption | apply State.logFault_keeps | split | dsimp only

theorem State.zeroiseLines_keeps (h : Keeps s t) {x1 x2} : Keeps s (State.zeroiseLines t x1 x2) := by
  unfold State.zeroiseLines
  repeat' with_reducible first
    | exact h | assumption | apply State.zeroRange_keeps | simp only [Keeps.mk_iff] | apply KeepsParts.same
    | apply Keeps2.snd | split | apply Keeps2.mk | refine Keeps2.of (by assumption) ?_ | dsimp only

theorem State.setRefs_keeps (h : Keeps s t) {x1 x2} : Keeps s (State.setRefs t x1 x2) := by
  unfold State.setRefs
  repeat' with_reducible first
    | exact h | assumption | apply Keeps.ite | simp only [Keeps.mk_iff] | apply KeepsParts.same | split | dsimp only

theorem State.dropRef_keeps (h : Keeps s t) {x1} : Keeps s (State.dropRef t x1) := by
  unfold State.dropRef
  repeat' with_reducible first
    | exact h | assumption | apply State.setRefs_keeps | apply State.zeroiseLines_keeps | apply Keeps.ite | split
    | dsimp only

theorem State.addRef_keeps (h : Keeps s t) {x1} : Keeps s (State.addRef t x1) := by
  unfold State.addRef
  repeat' with_reducible first
    | exact h | assumption | apply State.setRefs_keeps | split | dsimp only

theorem State.pick_keeps (h : Keeps s t) {x1} : Keeps2 s (State.pick t x1) := by
  unfold State.pick
  repeat' with_reducible first
    | exact h | assumption | apply State.takeFree_keeps | apply Keeps.ite | apply Keeps2.ite | apply Keeps2.snd | split
    | apply Keeps2.mk | refine Keeps2.of (by assumption) ?_ | dsimp only

theorem State.allocPage_keeps (h : Keeps s t) {x1 x2} : Keeps2 s (State.allocPage t x1 x2) := by
  unfold State.allocPage
  repeat' with_reducible first
    | exact h | assumption | apply State.pick_keeps | apply State.setRefs_keeps | apply Keeps.ite | apply Keeps2.ite
    | apply Keeps2.snd | split | apply Keeps2.mk | refine Keeps2.of (by assumption) ?_ | dsimp only

theorem State.setTableWord_keeps (h : Keeps s t) {x1 x2} : Keeps s (State.setTableWord t x1 x2) := by
  unfold State.setTableWord
  repeat' with_reducible first
    | exact h | assumption | apply State.storeWords_keeps | apply Keeps2.snd | split | apply Keeps2.mk
    | refine Keeps2.of (by assumption) ?_ | dsimp only

theorem State.takeFrame_keeps (h : Keeps s t) {x1} : Keeps s (State.takeFrame t x1) := by
  unfold State.takeFrame
  repeat' with_reducible first
    | exact h | assumption | apply State.zeroiseLines_keeps | simp only [Keeps.mk_iff] | apply KeepsParts.same | split
    | dsimp only

theorem State.allocFrame_keeps (h : Keeps s t) : Keeps2 s (State.allocFrame t) := by
  unfold State.allocFrame
  repeat' with_reducible first
    | exact h | assumption | apply State.pick_keeps | apply State.takeFrame_keeps | apply Keeps2.snd | split
    | apply Keeps2.mk | refine Keeps2.of (by assumption) ?_ | dsimp only

theorem State.freeFrame_keeps (h : Keeps s t) {x1} : Keeps s (State.freeFrame t x1) := by
  unfold State.freeFrame
  repeat' with_reducible first
    | exact h | assumption | simp only [Keeps.mk_iff] | apply KeepsParts.same | split | dsimp only

theorem State.readPage_keeps (h : Keeps s t) {x1 x2 x3} : Keeps2 s (State.readPage t x1 x2 x3) := by
  unfold State.readPage
  repeat' with_reducible first
    | exact h | assumption | apply State.loadWord_keeps | apply Keeps.ite | apply Keeps2.ite | apply Keeps2.snd | split
    | apply Keeps2.mk | refine Keeps2.of (by assumption) ?_ | dsimp only

theorem State.enterPage_keeps (h : Keeps s t) {x1 x2 x3} : KeepsOpt s (State.enterPage t x1 x2 x3) := by
  unfold State.enterPage
  repeat' with_reducible first
    | exact h | assumption | apply State.setTableWord_keeps | apply State.allocFrame_keeps
    | refine KeepsOpt.map ?_ (fun _ _ => ?_) | refine KeepsOpt.bind ?_ (fun _ _ => ?_) | exact KeepsOpt.ofNone
    | apply KeepsOpt.ofSome | apply Keeps2.snd | split | apply Keeps2.mk | refine Keeps2.of (by assumption) ?_ | dsimp only

theorem State.modifyStall_keeps (h : Keeps s t) {x1 x2} : Keeps s (State.modifyStall t x1 x2) := by
  unfold State.modifyStall
  repeat' with_reducible first
    | exact h | assumption | apply State.setStall_keeps | split | dsimp only

theorem State.dropPages_keeps (h : Keeps s t) {x1 x2} : Keeps s (State.dropPages t x1 x2) := by
  unfold State.dropPages
  repeat' with_reducible first
    | exact h | assumption | apply State.setTableWord_keeps | apply State.modifyStall_keeps | apply State.dropRef_keeps
    | refine Keeps.foldl (fun _ _ _ => ?_) ?_ | refine Keeps2.foldl (fun _ _ _ => ?_) ?_ | apply Keeps.ite
    | apply Keeps2.ite | apply Keeps2.snd | split | apply Keeps2.mk | refine Keeps2.of (by assumption) ?_ | dsimp only

theorem State.holdPage_keeps (h : Keeps s t) {x1 x2 x3} : KeepsOpt s (State.holdPage t x1 x2 x3) := by
  unfold State.holdPage
  repeat' with_reducible first
    | exact h | assumption | apply State.modifyStall_keeps | apply State.enterPage_keeps
    | refine KeepsOpt.map ?_ (fun _ _ => ?_) | refine KeepsOpt.bind ?_ (fun _ _ => ?_) | exact KeepsOpt.ofNone
    | apply KeepsOpt.ofSome | split | refine KeepsOpt.get (by assumption) ?_ | dsimp only

theorem State.copyBytes_keeps (h : Keeps s t) {x1 x2 x3 x4} : Keeps2 s (State.copyBytes t x1 x2 x3 x4) := by
  unfold State.copyBytes
  repeat' with_reducible first
    | exact h | assumption | apply State.load_keeps | apply State.store_keeps | apply Keeps.ite | apply Keeps2.ite
    | apply Keeps3.ite | refine Keeps.foldl (fun _ _ _ => ?_) ?_ | refine Keeps2.foldl (fun _ _ _ => ?_) ?_
    | refine Keeps3.foldl (fun _ _ _ => ?_) ?_ | apply Keeps3.snd | apply Keeps2.snd | split | apply Keeps3.mk
    | refine Keeps3.of (by assumption) ?_ | apply Keeps2.mk | refine Keeps2.of (by assumption) ?_ | dsimp only

theorem State.copyPage_keeps (h : Keeps s t) {x1 x2 x3 x4 x5 x6} : Keeps2 s (State.copyPage t x1 x2 x3 x4 x5 x6) := by
  unfold State.copyPage
  repeat' with_reducible first
    | exact h | assumption | apply State.copyBytes_keeps | apply Keeps.ite | apply Keeps2.ite | apply Keeps2.snd | split
    | apply Keeps2.mk | refine Keeps2.of (by assumption) ?_ | dsimp only

theorem State.servePage_keeps (h : Keeps s t) {x1 x2} : Keeps2 s (State.servePage t x1 x2) := by
  unfold State.servePage
  repeat' with_reducible first
    | exact h | assumption | apply State.allocPage_keeps | apply State.copyPage_keeps | apply State.dropRef_keeps
    | apply State.enterPage_keeps | apply State.bump_keeps | apply State.holdPage_keeps | apply Keeps.ite
    | apply Keeps2.ite | apply KeepsOpt.ite | apply Keeps2.snd | exact KeepsOpt.ofNone | apply KeepsOpt.ofSome | split
    | apply Keeps2.mk | refine Keeps2.of (by assumption) ?_ | refine KeepsOpt.get (by assumption) ?_ | dsimp only

theorem State.chainNext_keeps (h : Keeps s t) {x1 x2 x3} : Keeps2 s (State.chainNext t x1 x2 x3) := by
  unfold State.chainNext
  repeat' with_reducible first
    | exact h | assumption | apply State.load_keeps | apply Keeps2.snd | apply Keeps3.snd | split | apply Keeps2.mk
    | apply Keeps3.mk | refine Keeps2.of (by assumption) ?_ | refine Keeps3.of (by assumption) ?_ | dsimp only

theorem State.attach_keeps (h : Keeps s t) {x1 x2 x3} : KeepsOpt s (State.attach t x1 x2 x3) := by
  unfold State.attach
  repeat' with_reducible first
    | exact h | assumption | apply State.addRef_keeps | apply State.holdPage_keeps | apply State.setTableWord_keeps
    | refine KeepsOpt.map ?_ (fun _ _ => ?_) | refine KeepsOpt.bind ?_ (fun _ _ => ?_)
    | refine Keeps.foldl (fun _ _ _ => ?_) ?_ | refine Keeps2.foldl (fun _ _ _ => ?_) ?_
    | refine KeepsOpt.foldl (fun _ _ _ => ?_) ?_ | apply Keeps.ite | apply Keeps2.ite | apply KeepsOpt.ite
    | exact KeepsOpt.ofNone | apply KeepsOpt.ofSome | apply Keeps2.snd | split | apply Keeps2.mk
    | refine Keeps2.of (by assumption) ?_ | refine KeepsOpt.get (by assumption) ?_ | dsimp only

theorem State.lookupAttached_keeps (h : Keeps s t) {x1} {o : Option State} (k : KeepsOpt s o) : Keeps3 s (State.lookupAttached t x1 o) := by
  cases o with
  | none => exact h
  | some u => exact k u rfl

theorem State.lookupFound_keeps (h : Keeps s t) {x1 x2 x3 x4} : Keeps3 s (State.lookupFound t x1 x2 x3 x4) := by
  unfold State.lookupFound
  repeat' with_reducible first
    | exact h | assumption | apply State.lookupAttached_keeps | apply State.attach_keeps
    | refine KeepsOpt.map ?_ (fun _ _ => ?_) | refine KeepsOpt.bind ?_ (fun _ _ => ?_) | exact KeepsOpt.ofNone
    | apply KeepsOpt.ofSome | apply Keeps2.snd | apply Keeps3.snd | split | apply Keeps2.mk | apply Keeps3.mk
    | refine Keeps2.of (by assumption) ?_ | refine Keeps3.of (by assumption) ?_ | refine KeepsOpt.get (by assumption) ?_
    | dsimp only

theorem State.lookupRead_keeps (h : Keeps s t) {x1 x2 x3} : Keeps3 s (State.lookupRead t x1 x2 x3) := by
  unfold State.lookupRead
  repeat' with_reducible first
    | exact h | assumption | apply State.lookupFound_keeps | apply Keeps2.snd | apply Keeps3.snd | split | apply Keeps2.mk
    | apply Keeps3.mk | refine Keeps2.of (by assumption) ?_ | refine Keeps3.of (by assumption) ?_ | dsimp only

theorem State.lookupStep_keeps (h : Keeps s t) {x1 x2 x3} : Keeps3 s (State.lookupStep t x1 x2 x3) := by
  unfold State.lookupStep
  repeat' with_reducible first
    | exact h | assumption | apply State.chainNext_keeps | apply State.lookupRead_keeps | apply Keeps2.snd
    | apply Keeps3.snd | split | apply Keeps2.mk | apply Keeps3.mk | refine Keeps2.of (by assumption) ?_
    | refine Keeps3.of (by assumption) ?_ | dsimp only

theorem State.lookupFrom_keeps (h : Keeps s t) {x1 x2 x3 x4} : Keeps3 s (State.lookupFrom t x1 x2 x3 x4) := by
  induction x4 generalizing t x1 x2 x3 with
  | zero =>
    rw [State.lookupFrom]
    repeat' with_reducible first
    | exact h | assumption | apply State.lookupStep_keeps | apply Keeps2.snd | apply Keeps3.snd | split
      | apply Keeps2.mk | apply Keeps3.mk | refine Keeps2.of (by assumption) ?_ | refine Keeps3.of (by assumption) ?_
      | dsimp only
  | succ n ih =>
    rw [State.lookupFrom]
    repeat' with_reducible first
    | exact h | assumption | apply ih | apply State.lookupStep_keeps | apply Keeps2.snd | apply Keeps3.snd | split
      | apply Keeps2.mk | apply Keeps3.mk | refine Keeps2.of (by assumption) ?_ | refine Keeps3.of (by assumption) ?_
      | dsimp only

theorem State.prefixLookup_keeps (h : Keeps s t) {x1 x2} : Keeps2 s (State.prefixLookup t x1 x2) := by
  unfold State.prefixLookup
  repeat' with_reducible first
    | exact h | assumption | apply State.setStall_keeps | apply State.lookupFrom_keeps | apply State.modifyStall_keeps
    | apply State.bump_keeps | apply Keeps.ite | apply Keeps2.ite | apply Keeps3.ite | apply Keeps2.snd | apply Keeps3.snd
    | split | apply Keeps2.mk | apply Keeps3.mk | refine Keeps2.of (by assumption) ?_ | refine Keeps3.of (by assumption) ?_
    | dsimp only

theorem State.dirRemove_keeps (h : Keeps s t) {x1} : Keeps s (State.dirRemove t x1) := by
  unfold State.dirRemove
  repeat' with_reducible first
    | exact h | assumption | apply State.dropRef_keeps | apply State.freeFrame_keeps | apply State.storeWords_keeps
    | refine Keeps.foldl (fun _ _ _ => ?_) ?_ | refine Keeps2.foldl (fun _ _ _ => ?_) ?_ | apply Keeps2.snd | split
    | apply Keeps2.mk | refine Keeps2.of (by assumption) ?_ | dsimp only

theorem State.clearEntry_keeps (h : Keeps s t) {x1} : Keeps s (State.clearEntry t x1) := by
  unfold State.clearEntry
  repeat' with_reducible first
    | exact h | assumption | apply State.dirRemove_keeps | apply Keeps.ite | split | dsimp only

theorem State.fillEntry_keeps (h : Keeps s t) {x1 x2 x3 x4 x5 x6} : Keeps s (State.fillEntry t x1 x2 x3 x4 x5 x6) := by
  unfold State.fillEntry
  repeat' with_reducible first
    | exact h | assumption | apply State.addRef_keeps | apply State.setTableWord_keeps | apply State.storeWords_keeps
    | refine Keeps.foldl (fun _ _ _ => ?_) ?_ | refine Keeps2.foldl (fun _ _ _ => ?_) ?_ | apply Keeps2.snd | split
    | apply Keeps2.mk | refine Keeps2.of (by assumption) ?_ | dsimp only

theorem State.dirInsert_keeps (h : Keeps s t) {x1 x2 x3} : Keeps s (State.dirInsert t x1 x2 x3) := by
  unfold State.dirInsert
  repeat' with_reducible first
    | exact h | assumption | apply State.allocFrame_keeps | apply State.fillEntry_keeps | apply State.clearEntry_keeps
    | apply Keeps.ite | apply Keeps2.ite | apply Keeps2.snd | split | apply Keeps2.mk | refine Keeps2.of (by assumption) ?_
    | dsimp only

theorem State.publishFrom_keeps (h : Keeps s t) {x1 x2 x3 x4 x5} : Keeps s (State.publishFrom t x1 x2 x3 x4 x5) := by
  induction x5 generalizing t x1 x2 x3 x4 with
  | zero =>
    rw [State.publishFrom]
    repeat' with_reducible first
    | exact h | assumption | apply State.chainNext_keeps | apply State.dirInsert_keeps | apply Keeps.ite
      | apply Keeps2.ite | apply Keeps2.snd | split | apply Keeps2.mk | refine Keeps2.of (by assumption) ?_ | dsimp only
  | succ n ih =>
    rw [State.publishFrom]
    repeat' with_reducible first
    | exact h | assumption | apply ih | apply State.chainNext_keeps | apply State.dirInsert_keeps | apply Keeps.ite
      | apply Keeps2.ite | apply Keeps2.snd | split | apply Keeps2.mk | refine Keeps2.of (by assumption) ?_ | dsimp only

theorem State.publish_keeps (h : Keeps s t) {x1 x2 x3} : Keeps s (State.publish t x1 x2 x3) := by
  unfold State.publish
  repeat' with_reducible first
    | exact h | assumption | apply State.publishFrom_keeps | apply Keeps.ite | split | dsimp only

theorem State.dirShrink_keeps (h : Keeps s t) {x1 x2} : Keeps s (State.dirShrink t x1 x2) := by
  induction x2 generalizing t x1 with
  | zero =>
    rw [State.dirShrink]
    repeat' with_reducible first
    | exact h | assumption | apply State.dirRemove_keeps | refine Keeps.foldl (fun _ _ _ => ?_) ?_
      | apply Keeps.ite | split | dsimp only
  | succ n ih =>
    rw [State.dirShrink]
    repeat' with_reducible first
    | exact h | assumption | apply ih | apply State.dirRemove_keeps | refine Keeps.foldl (fun _ _ _ => ?_) ?_
      | apply Keeps.ite | split | dsimp only

theorem State.dirLose_keeps (h : Keeps s t) {x1} : Keeps s (State.dirLose t x1) := by
  unfold State.dirLose
  repeat' with_reducible first
    | exact h | assumption | apply State.dirRemove_keeps | refine Keeps.foldl (fun _ _ _ => ?_) ?_ | apply Keeps.ite | split
    | dsimp only

theorem State.completeCommand_keeps (h : Keeps s t) {x1 x2 x3 x4} : Keeps s (State.completeCommand t x1 x2 x3 x4) := by
  unfold State.completeCommand
  repeat' with_reducible first
    | exact h | assumption | apply State.storeWords_keeps | apply State.signalAt_keeps | apply Keeps.ite
    | apply Keeps2.ite | apply Keeps2.snd | split | apply Keeps2.mk | refine Keeps2.of (by assumption) ?_ | dsimp only

theorem State.endMove_keeps (h : Keeps s t) {x1 x2} : Keeps s (State.endMove t x1 x2) := by
  unfold State.endMove
  repeat' with_reducible first
    | exact h | assumption | apply State.modifyStall_keeps
    | apply State.completeCommand_keeps | simp only [Keeps.mk_iff] | apply KeepsParts.same | split | dsimp only

theorem State.historyReads_keeps (h : Keeps s t) {x1} : Keeps2 s (State.historyReads t x1) := by
  unfold State.historyReads
  repeat' with_reducible first
    | exact h | assumption | apply State.load_keeps | apply Keeps2.snd | apply Keeps3.snd | split | apply Keeps2.mk
    | apply Keeps3.mk | refine Keeps2.of (by assumption) ?_ | refine Keeps3.of (by assumption) ?_ | dsimp only

theorem State.historyLost_keeps (h : Keeps s t) {x1} : Keeps s (State.historyLost t x1) := by
  unfold State.historyLost
  repeat' with_reducible first
    | exact h | assumption | apply State.raiseTo_keeps | apply State.setStall_keeps | split | dsimp only

theorem State.rebuildLookup_keeps (h : Keeps s t) {x1} : Keeps s (State.rebuildLookup t x1) := by
  unfold State.rebuildLookup
  repeat' with_reducible first
    | exact h | assumption | apply State.prefixLookup_keeps | apply State.modifyStall_keeps | apply Keeps2.snd | split
    | apply Keeps2.mk | refine Keeps2.of (by assumption) ?_ | dsimp only

theorem State.rebuildStall_keeps (h : Keeps s t) {x1 x2} : Keeps s (State.rebuildStall t x1 x2) := by
  unfold State.rebuildStall
  repeat' with_reducible first
    | exact h | assumption | apply State.endMove_keeps | apply State.dropPages_keeps | apply State.bump_keeps
    | apply State.modifyStall_keeps | apply State.historyReads_keeps | apply State.rebuildLookup_keeps
    | apply State.historyLost_keeps | apply Keeps.ite | apply Keeps2.ite | simp only [Keeps.mk_iff]
    | apply KeepsParts.same | apply Keeps2.snd | split | apply Keeps2.mk | refine Keeps2.of (by assumption) ?_
    | dsimp only

theorem State.pagesLost_keeps (h : Keeps s t) {x1} : Keeps s (State.pagesLost t x1) := by
  unfold State.pagesLost
  repeat' with_reducible first
    | exact h | assumption | apply State.dirLose_keeps | apply State.rebuildStall_keeps
    | refine Keeps.foldl (fun _ _ _ => ?_) ?_ | refine Keeps2.foldl (fun _ _ _ => ?_) ?_ | apply Keeps.ite
    | apply Keeps2.ite | apply Keeps2.snd | split | apply Keeps2.mk | refine Keeps2.of (by assumption) ?_ | dsimp only

theorem State.stallAfterFold_keeps (h : Keeps s t) {x1} : Keeps s (State.stallAfterFold t x1) := by
  unfold State.stallAfterFold
  repeat' with_reducible first
    | exact h | assumption | apply State.endMove_keeps | apply State.allocFrame_keeps | apply State.setStall_keeps
    | apply State.historyLost_keeps | apply State.rebuildStall_keeps | apply Keeps.ite | apply Keeps2.ite
    | simp only [Keeps.mk_iff] | apply KeepsParts.same | apply Keeps2.snd | split | apply Keeps2.mk
    | refine Keeps2.of (by assumption) ?_ | dsimp only

theorem State.stableAfterFold_keeps (h : Keeps s t) : Keeps s (State.stableAfterFold t) := by
  unfold State.stableAfterFold
  repeat' with_reducible first
    | exact h | assumption | apply State.zeroiseLines_keeps | apply State.stallAfterFold_keeps
    | refine Keeps.foldl (fun _ _ _ => ?_) ?_ | refine Keeps2.foldl (fun _ _ _ => ?_) ?_ | apply Keeps.ite
    | apply Keeps2.ite | simp only [Keeps.mk_iff] | apply KeepsParts.same | apply Keeps2.snd | split | apply Keeps2.mk
    | refine Keeps2.of (by assumption) ?_ | dsimp only

end Sys2Proof.Machine
end

