-- ==== Sys2Proof/Laws/KeepsTransactions.lean ====
section
/-! SUPPORT. What the operations of Machine/Transactions.lean keep (Laws/Keeps.lean). -/

namespace Sys2Proof.Machine

set_option linter.unusedTactic false
set_option linter.unreachableTactic false
set_option linter.unusedVariables false
set_option linter.unusedSimpArgs false

variable {s t u : State}

theorem State.putTxn_keeps (h : Keeps s t) {x1 x2 x3} : Keeps s (State.putTxn t x1 x2 x3) := by
  unfold State.putTxn
  repeat' with_reducible first
    | exact h | assumption | apply State.setCore_keeps | apply Keeps.ite | simp only [Keeps.mk_iff] | apply KeepsParts.same
    | apply KeepsParts.send | split | dsimp only

theorem State.closeRecord_keeps (h : Keeps s t) {x1 x2} : Keeps s (State.closeRecord t x1 x2) := by
  unfold State.closeRecord
  repeat' with_reducible first
    | exact h | assumption | apply State.setQueue_keeps | apply State.signalAt_keeps | apply Keeps.ite
    | simp only [Keeps.mk_iff] | apply KeepsParts.same | split | dsimp only

theorem State.closeRecords_keeps (h : Keeps s t) {x1 x2} : Keeps s (State.closeRecords t x1 x2) := by
  induction x2 generalizing t with
  | nil =>
    unfold State.closeRecords
    exact h
  | cons x l ih =>
    unfold State.closeRecords
    repeat' with_reducible first
      | exact h | assumption | apply ih | apply State.closeRecord_keeps | apply Keeps.ite | split | dsimp only

theorem State.pushEnding_keeps (h : Keeps s t) {x1 x2} : Keeps s (State.pushEnding t x1 x2) := by
  unfold State.pushEnding
  repeat' with_reducible first
    | exact h | assumption | apply State.setQueue_keeps | simp only [Keeps.mk_iff] | apply KeepsParts.same
    | apply KeepsParts.send | split | dsimp only

theorem State.closeEnded_keeps (h : Keeps s t) {x1} : Keeps s (State.closeEnded t x1) := by
  unfold State.closeEnded
  repeat' with_reducible first
    | exact h | assumption | apply State.closeRecords_keeps | apply State.settleQueue_keeps | split | dsimp only

theorem State.writeRecord_keeps (h : Keeps s t) {x1 x2 x3 x4 x5 x6} : Keeps s (State.writeRecord t x1 x2 x3 x4 x5 x6) := by
  unfold State.writeRecord
  repeat' with_reducible first
    | exact h | assumption | apply State.storeWords_keeps | apply State.pushEnding_keeps | apply State.closeEnded_keeps
    | apply State.putTxn_keeps | apply Keeps2.snd | split | apply Keeps2.mk | refine Keeps2.of (by assumption) ?_
    | intro _ | dsimp only

theorem State.writeCpl_keeps (h : Keeps s t) {x1 x2 x3 x4} : Keeps s (State.writeCpl t x1 x2 x3 x4) := by
  unfold State.writeCpl
  repeat' with_reducible first
    | exact h | assumption | apply State.writeRecord_keeps | split | dsimp only

theorem State.recordDone_keeps (h : Keeps s t) {x1 x2} : Keeps s (State.recordDone t x1 x2) := by
  unfold State.recordDone
  repeat' with_reducible first
    | exact h | assumption | apply State.setQueue_keeps | apply State.closeEnded_keeps | apply Keeps.ite
    | simp only [Keeps.mk_iff] | apply KeepsParts.same | apply KeepsParts.send | split | intro _ | dsimp only

theorem State.finish_keeps (h : Keeps s t) {x1 x2 x3 x4} : Keeps s (State.finish t x1 x2 x3 x4) := by
  unfold State.finish
  repeat' with_reducible first
    | exact h | assumption | apply State.flushFaults_keeps | apply State.writeCpl_keeps | apply State.signalAt_keeps
    | apply State.haltQueue_keeps | apply State.settleQueue_keeps | apply Keeps.ite | split | dsimp only

theorem State.rejectDesc_keeps (h : Keeps s t) {x1 x2 x3} : Keeps s (State.rejectDesc t x1 x2 x3) := by
  unfold State.rejectDesc
  repeat' with_reducible first
    | exact h | assumption | apply State.raiseQueue_keeps | apply State.finish_keeps | split | dsimp only

theorem State.refillCore_keeps (h : Keeps s t) {x1} : Keeps s (State.refillCore t x1) := by
  unfold State.refillCore
  repeat' with_reducible first
    | exact h | assumption | apply State.setCore_keeps | split | dsimp only

theorem State.refillDie_keeps (h : Keeps s t) {x1} : Keeps s (State.refillDie t x1) := by
  unfold State.refillDie
  repeat' with_reducible first
    | exact h | assumption | apply State.setCore_keeps | refine Keeps.foldl (fun _ _ _ => ?_) ?_ | apply Keeps.ite | split
    | dsimp only

theorem State.refillFor_keeps (h : Keeps s t) {x1} : Keeps s (State.refillFor t x1) := by
  unfold State.refillFor
  repeat' with_reducible first
    | exact h | assumption | apply State.refillDie_keeps | apply State.refillCore_keeps | apply Keeps.ite | split
    | dsimp only

theorem State.chargeCore_keeps (h : Keeps s t) {x1 x2} : KeepsOpt s (State.chargeCore t x1 x2) := by
  unfold State.chargeCore
  repeat' with_reducible first
    | exact h | assumption | apply State.setCore_keeps | apply Keeps.ite | apply KeepsOpt.ite | simp only [Keeps.mk_iff]
    | apply KeepsParts.same | exact KeepsOpt.ofNone | apply KeepsOpt.ofSome | split
    | refine KeepsOpt.get (by assumption) ?_ | dsimp only

end Sys2Proof.Machine
end

