-- ==== Sys2Proof/Laws/KeepsAttend.lean ====
section
/-! SUPPORT. What the operations of Machine/Attend.lean keep (Laws/Keeps.lean). -/

namespace Sys2Proof.Machine

set_option linter.unusedTactic false
set_option linter.unreachableTactic false
set_option linter.unusedVariables false
set_option linter.unusedSimpArgs false

variable {s t u : State}

theorem State.loadKv_keeps (h : Keeps s t) {x1 x2 x3} : Keeps3 s (State.loadKv t x1 x2 x3) := by
  unfold State.loadKv
  repeat' with_reducible first
    | exact h | assumption | apply State.load_keeps | apply Keeps.ite | apply Keeps2.ite | apply Keeps3.ite
    | apply Keeps2.snd | apply Keeps3.snd | split | apply Keeps2.mk | apply Keeps3.mk | refine Keeps2.of (by assumption) ?_
    | refine Keeps3.of (by assumption) ?_ | dsimp only

theorem State.loadKvs_keeps (h : Keeps s t) {x1 x2 x3 x4 x5} : Keeps3 s (State.loadKvs t x1 x2 x3 x4 x5) := by
  induction x5 generalizing t x1 x2 x3 x4 with
  | nil =>
    rw [State.loadKvs]
    repeat' with_reducible first
    | exact h | assumption | apply State.loadKv_keeps | apply Keeps2.snd | apply Keeps3.snd | split
      | apply Keeps2.mk | apply Keeps3.mk | refine Keeps2.of (by assumption) ?_ | refine Keeps3.of (by assumption) ?_
      | dsimp only
  | cons p l ih =>
    rw [State.loadKvs]
    repeat' with_reducible first
    | exact h | assumption | apply ih | apply State.loadKv_keeps | apply Keeps2.snd | apply Keeps3.snd | split
      | apply Keeps2.mk | apply Keeps3.mk | refine Keeps2.of (by assumption) ?_ | refine Keeps3.of (by assumption) ?_
      | dsimp only

theorem State.loadProjection_keeps (h : Keeps s t) {x1 x2} : Keeps3 s (State.loadProjection t x1 x2) := by
  unfold State.loadProjection
  repeat' with_reducible first
    | exact h | assumption | apply State.loadMany_keeps | apply State.load_keeps | apply Keeps2.snd | apply Keeps3.snd
    | split | apply Keeps2.mk | apply Keeps3.mk | refine Keeps2.of (by assumption) ?_ | refine Keeps3.of (by assumption) ?_
    | dsimp only

theorem State.writeSketch_keeps (h : Keeps s t) {x1 x2 x3 x4} : Keeps2 s (State.writeSketch t x1 x2 x3 x4) := by
  unfold State.writeSketch
  repeat' with_reducible first
    | exact h | assumption | apply State.loadMany_keeps | apply State.loadProjection_keeps | apply State.store_keeps
    | apply Keeps2.snd | apply Keeps3.snd | split | apply Keeps2.mk | apply Keeps3.mk | refine Keeps2.of (by assumption) ?_
    | refine Keeps3.of (by assumption) ?_ | dsimp only

theorem State.findPages_keeps (h : Keeps s t) {x1 x2 x3 x4 x5 x6} : Keeps3 s (State.findPages t x1 x2 x3 x4 x5 x6) := by
  induction x6 generalizing t with
  | nil =>
    unfold State.findPages
    exact h
  | cons x l ih =>
    unfold State.findPages
    repeat' with_reducible first
      | exact h | assumption | apply ih | apply State.readPage_keeps | apply Keeps.ite | apply Keeps2.ite | apply Keeps3.ite
      | apply Keeps3.snd | apply Keeps2.snd | split | apply Keeps3.mk | refine Keeps3.of (by assumption) ?_
      | apply Keeps2.mk | refine Keeps2.of (by assumption) ?_ | dsimp only

theorem State.placeRow_keeps (h : Keeps s t) {x1 x2 x3 x4 x5 x6} : Keeps2 s (State.placeRow t x1 x2 x3 x4 x5 x6) := by
  unfold State.placeRow
  repeat' with_reducible first
    | exact h | assumption | apply State.store_keeps | apply State.writeSketch_keeps | apply Keeps.ite | apply Keeps2.ite
    | apply Keeps2.snd | split | apply Keeps2.mk | refine Keeps2.of (by assumption) ?_ | dsimp only

theorem State.appendRows_keeps (h : Keeps s t) {x1 x2 x3 x4 x5 x6 x7} : Keeps2 s (State.appendRows t x1 x2 x3 x4 x5 x6 x7) := by
  induction x7 generalizing t x1 x2 x3 x4 x5 x6 with
  | nil =>
    rw [State.appendRows]
    repeat' with_reducible first
    | exact h | assumption | apply State.load_keeps | apply State.placeRow_keeps | apply Keeps2.snd
      | apply Keeps3.snd | split | apply Keeps2.mk | apply Keeps3.mk | refine Keeps2.of (by assumption) ?_
      | refine Keeps3.of (by assumption) ?_ | dsimp only
  | cons p l ih =>
    rw [State.appendRows]
    repeat' with_reducible first
    | exact h | assumption | apply ih | apply State.load_keeps | apply State.placeRow_keeps | apply Keeps2.snd
      | apply Keeps3.snd | split | apply Keeps2.mk | apply Keeps3.mk | refine Keeps2.of (by assumption) ?_
      | refine Keeps3.of (by assumption) ?_ | dsimp only

theorem State.walkSegments_keeps (h : Keeps s t) {x1 x2 x3 x4 x5 x6 x7 x8} : Keeps4 s (State.walkSegments t x1 x2 x3 x4 x5 x6 x7 x8) := by
  induction x7 generalizing t x1 x2 x3 x4 x5 x6 x8 with
  | nil =>
    rw [State.walkSegments]
    repeat' with_reducible first
    | exact h | assumption | apply State.loadKvs_keeps | apply Keeps2.snd | apply Keeps3.snd | apply Keeps4.snd
      | split | apply Keeps2.mk | apply Keeps3.mk | apply Keeps4.mk | refine Keeps2.of (by assumption) ?_
      | refine Keeps3.of (by assumption) ?_ | refine Keeps4.of (by assumption) ?_ | dsimp only
  | cons p l ih =>
    rw [State.walkSegments]
    repeat' with_reducible first
    | exact h | assumption | apply ih | apply State.loadKvs_keeps | apply Keeps2.snd | apply Keeps3.snd | apply Keeps4.snd
      | split | apply Keeps2.mk | apply Keeps3.mk | apply Keeps4.mk | refine Keeps2.of (by assumption) ?_
      | refine Keeps3.of (by assumption) ?_ | refine Keeps4.of (by assumption) ?_ | dsimp only

theorem State.loadRows_keeps (h : Keeps s t) {x1 x2 x3 x4 x5 x6} : Keeps3 s (State.loadRows t x1 x2 x3 x4 x5 x6) := by
  unfold State.loadRows
  repeat' with_reducible first
    | exact h | assumption | apply State.loadMany_keeps | apply Keeps2.snd | apply Keeps3.snd | split | apply Keeps2.mk
    | apply Keeps3.mk | refine Keeps2.of (by assumption) ?_ | refine Keeps3.of (by assumption) ?_ | dsimp only

theorem State.storeRows_keeps (h : Keeps s t) {x1 x2 x3 x4 x5} : Keeps2 s (State.storeRows t x1 x2 x3 x4 x5) := by
  unfold State.storeRows
  repeat' with_reducible first
    | exact h | assumption | apply State.storeMany_keeps | apply Keeps2.snd | split | apply Keeps2.mk
    | refine Keeps2.of (by assumption) ?_ | dsimp only

theorem State.attendWalk_keeps (h : Keeps s t) {x1 x2 x3 x4 x5 x6 x7 x8} : Keeps s (State.attendWalk t x1 x2 x3 x4 x5 x6 x7 x8) := by
  unfold State.attendWalk
  repeat' with_reducible first
    | exact h | assumption | apply State.appendRows_keeps | apply State.loadRows_keeps
    | apply State.walkSegments_keeps | apply State.storeRows_keeps | apply State.storeWords_keeps
    | apply State.complete_keeps | apply Keeps.ite | apply Keeps2.ite | apply Keeps3.ite | simp only [Keeps.mk_iff]
    | apply KeepsParts.same | refine Keeps.foldl (fun _ _ _ => ?_) ?_ | refine Keeps2.foldl (fun _ _ _ => ?_) ?_
    | refine Keeps3.foldl (fun _ _ _ => ?_) ?_ | apply Keeps4.snd | apply Keeps3.snd | apply Keeps2.snd | split
    | apply Keeps4.mk | refine Keeps4.of (by assumption) ?_ | apply Keeps3.mk | refine Keeps3.of (by assumption) ?_
    | apply Keeps2.mk | refine Keeps2.of (by assumption) ?_ | dsimp only

theorem State.attendFail_keeps (h : Keeps s t) {x1 x2 x3} : Keeps s (State.attendFail t x1 x2 x3) := by
  unfold State.attendFail
  repeat' with_reducible first
    | exact h | assumption | apply State.complete_keeps | apply State.raiseQueue_keeps | split | dsimp only

theorem State.attendPaid_keeps (h : Keeps s t) (k : Keeps s u) {x2 x3} {go : State → State} (hg : ∀ v, Keeps s v → Keeps s (go v)) :
    Keeps s (State.attendPaid t u x2 x3 go) := by
  unfold State.attendPaid
  have c := State.chargeCore_keeps k (x1 := x2.core) (x2 := rangeCharge x3)
  split
  · exact h
  · exact hg _ (c _ (by assumption))

theorem State.attendFound_keeps (h : Keeps s t) (k : Keeps s u) {x2 x3 x4 x5 x6 x7 x8 x9} :
    Keeps s (State.attendFound t u x2 x3 x4 x5 x6 x7 x8 x9) := by
  unfold State.attendFound
  repeat' with_reducible first
    | exact h | assumption | apply State.attendPaid_keeps | apply State.dropRequests_keeps | apply State.complete_keeps
    | apply State.bump_keeps | apply State.attendWalk_keeps | apply Keeps.ite | simp only [Keeps.mk_iff]
    | apply KeepsParts.same | intro _ _ | split | dsimp only

theorem State.attendProfile_keeps (h : Keeps s t) (k : Keeps s u) {x2 x3 x4 x5 x6} :
    Keeps s (State.attendProfile t u x2 x3 x4 x5 x6) := by
  unfold State.attendProfile
  repeat' with_reducible first
    | exact h | assumption | apply State.attendPaid_keeps | apply State.attendFail_keeps
    | apply State.complete_keeps | apply State.attendFound_keeps | apply Keeps.ite | apply Keeps2.snd | apply Keeps3.snd
    | apply State.findPages_keeps | intro _ _ | split | dsimp only

theorem State.attendLoaded_keeps (h : Keeps s t) {p : Option (List Word) × State} (k : Keeps2 s p) {x2 x3 x4} : Keeps s (State.attendLoaded t p x2 x3 x4) := by
  unfold State.attendLoaded
  split
  · exact State.attendPaid_keeps h k.snd fun _ w => State.attendFail_keeps w
  · exact State.attendProfile_keeps h k.snd

theorem State.attend_keeps (h : Keeps s t) {x1 x2 x3} : Keeps s (State.attend t x1 x2 x3) := by
  unfold State.attend
  have r := State.refillFor_keeps h (x1 := x1.core)
  exact Keeps.ite r (State.attendLoaded_keeps r (State.loadWords_keeps r))

theorem execAttend_keeps (h : Keeps s t) {x0} : KeepsNext s (execAttend x0 t) := by
  unfold execAttend
  repeat' with_reducible first
    | exact h | assumption | apply State.advance_keeps | apply State.attend_keeps | apply KeepsNext.next | split
    | dsimp only

end Sys2Proof.Machine
end

