-- ==== Sys2Proof/Laws/KeepsCalib.lean ====
section
/-! SUPPORT. What the operations of Machine/Calib.lean keep (Laws/Keeps.lean). -/

namespace Sys2Proof.Machine

set_option linter.unusedTactic false
set_option linter.unreachableTactic false
set_option linter.unusedVariables false
set_option linter.unusedSimpArgs false

variable {s t u : State}

theorem State.reevaluate_keeps (h : Keeps s t) {x1 x2 x3} : Keeps s (State.reevaluate t x1 x2 x3) := by
  unfold State.reevaluate
  repeat' with_reducible first
    | exact h | assumption | apply State.logFault_keeps | apply Keeps.ite | apply Keeps2.ite | simp only [Keeps.mk_iff]
    | apply KeepsParts.same | apply Keeps2.snd | split | apply Keeps2.mk | refine Keeps2.of (by assumption) ?_ | dsimp only

theorem State.reevaluateGroup_keeps (h : Keeps s t) {x1 x2} : Keeps s (State.reevaluateGroup t x1 x2) := by
  unfold State.reevaluateGroup
  repeat' with_reducible first
    | exact h | assumption | apply State.reevaluate_keeps | refine Keeps.foldl (fun _ _ _ => ?_) ?_
    | refine Keeps2.foldl (fun _ _ _ => ?_) ?_ | simp only [Keeps.mk_iff] | apply KeepsParts.same | apply Keeps2.snd | split
    | apply Keeps2.mk | refine Keeps2.of (by assumption) ?_ | dsimp only

theorem execCalibrationReevaluate_keeps (h : Keeps s t) {x0 x1} : KeepsNext s (execCalibrationReevaluate x0 x1 t) := by
  unfold execCalibrationReevaluate
  repeat' with_reducible first
    | exact h | assumption | apply State.advance_keeps | apply State.reevaluateGroup_keeps | apply KeepsNext.next
    | apply Keeps.ite | apply KeepsNext.ite | split | dsimp only

theorem State.calBoundary_keeps (h : Keeps s t) : Keeps s (State.calBoundary t) := by
  unfold State.calBoundary
  repeat' with_reducible first
    | exact h | assumption | refine Keeps.foldl (fun _ _ _ => ?_) ?_ | simp only [Keeps.mk_iff] | apply KeepsParts.same
    | apply KeepsParts.send | split | dsimp only

theorem State.storeTrim_keeps (h : Keeps s t) {x1 x2 x3} : Keeps s (State.storeTrim t x1 x2 x3) := by
  unfold State.storeTrim
  repeat' with_reducible first
    | exact h | assumption | apply State.logFault_keeps | apply Keeps.ite | simp only [Keeps.mk_iff] | apply KeepsParts.same
    | split | dsimp only

theorem State.storeTrims_keeps (h : Keeps s t) {x1 x2} : Keeps s (State.storeTrims t x1 x2) := by
  unfold State.storeTrims
  repeat' with_reducible first
    | exact h | assumption | apply State.storeTrim_keeps | refine Keeps.foldl (fun _ _ _ => ?_) ?_
    | refine Keeps2.foldl (fun _ _ _ => ?_) ?_ | apply Keeps2.snd | split | apply Keeps2.mk
    | refine Keeps2.of (by assumption) ?_ | dsimp only

theorem State.loadSets_keeps (h : Keeps s t) {x1} : Keeps s (State.loadSets t x1) := by
  unfold State.loadSets
  repeat' with_reducible first
    | exact h | assumption | apply State.logFault_keeps | apply Keeps.ite | simp only [Keeps.mk_iff] | apply KeepsParts.same
    | split | dsimp only

theorem State.logClamps_keeps (h : Keeps s t) : Keeps s (State.logClamps t) := by
  unfold State.logClamps
  repeat' with_reducible first
    | exact h | assumption | apply State.logFault_keeps | apply Keeps.ite | refine Keeps.foldl (fun _ _ _ => ?_) ?_
    | split | dsimp only

theorem State.calibrate_keeps (h : Keeps s t) {x1 x2} : Keeps s (State.calibrate t x1 x2) := by
  unfold State.calibrate
  repeat' with_reducible first
    | exact h | assumption | apply State.storeTrims_keeps | apply State.loadSets_keeps
    | apply State.logClamps_keeps | simp only [Keeps.mk_iff] | apply KeepsParts.same
    | refine Keeps.foldl (fun _ _ _ => ?_) ?_ | split | dsimp only

theorem State.recalibrate_keeps (h : Keeps s t) {x1 x2} : Keeps s (State.recalibrate t x1 x2) := by
  unfold State.recalibrate
  repeat' with_reducible first
    | exact h | assumption | apply State.reevaluateGroup_keeps | apply State.storeTrims_keeps
    | refine Keeps.foldl (fun _ _ _ => ?_) ?_ | refine Keeps2.foldl (fun _ _ _ => ?_) ?_ | simp only [Keeps.mk_iff]
    | apply KeepsParts.same | apply Keeps2.snd | split | apply Keeps2.mk | refine Keeps2.of (by assumption) ?_ | dsimp only

end Sys2Proof.Machine
end

