-- ==== Sys2Proof/Laws/KeepsBlinkersUnit.lean ====
section
/-! SUPPORT. What the operations of Machine/BlinkersUnit.lean keep (Laws/Keeps.lean). -/

namespace Sys2Proof.Machine

set_option linter.unusedTactic false
set_option linter.unreachableTactic false
set_option linter.unusedVariables false
set_option linter.unusedSimpArgs false

variable {s t u : State}

theorem State.setEngine_keeps (h : Keeps s t) {x1 x2} : Keeps s (State.setEngine t x1 x2) := by
  unfold State.setEngine
  repeat' with_reducible first
    | exact h | assumption | apply Keeps.ite | simp only [Keeps.mk_iff] | apply KeepsParts.same | split | dsimp only

theorem State.writeList_keeps (h : Keeps s t) {x1 x2 x3 x4} : Keeps s (State.writeList t x1 x2 x3 x4) := by
  unfold State.writeList
  repeat' with_reducible first
    | exact h | assumption | apply State.storeWords_keeps | apply State.signalAt_keeps | apply State.bump_keeps
    | apply Keeps.ite | apply Keeps2.ite | apply Keeps2.snd | split | apply Keeps2.mk | refine Keeps2.of (by assumption) ?_
    | dsimp only

theorem State.blink_keeps (h : Keeps s t) {x1 x2 x3} : Keeps s (State.blink t x1 x2 x3) := by
  unfold State.blink
  repeat' with_reducible first
    | exact h | assumption | apply State.complete_keeps | apply State.writeList_keeps | apply State.bump_keeps
    | apply State.setEngine_keeps | apply Keeps.ite | split | dsimp only

theorem execBlink_keeps (h : Keeps s t) {x0} : KeepsNext s (execBlink x0 t) := by
  unfold execBlink
  repeat' with_reducible first
    | exact h | assumption | apply State.blink_keeps | apply KeepsNext.next | apply Keeps.ite | apply KeepsNext.ite | split
    | dsimp only

theorem State.reportScore_keeps (h : Keeps s t) {x1 x2 x3} : Keeps2 s (State.reportScore t x1 x2 x3) := by
  unfold State.reportScore
  repeat' with_reducible first
    | exact h | assumption | apply State.takeFree_keeps | apply Keeps.ite | apply Keeps2.ite | apply Keeps2.snd | split
    | apply Keeps2.mk | refine Keeps2.of (by assumption) ?_ | dsimp only

theorem State.scorePage_keeps (h : Keeps s t) {x1 x2 x3 x4 x5 x6} : Keeps2 s (State.scorePage t x1 x2 x3 x4 x5 x6) := by
  unfold State.scorePage
  repeat' with_reducible first
    | exact h | assumption | apply State.readPage_keeps | apply State.load_keeps | apply State.reportScore_keeps
    | apply Keeps.ite | apply Keeps2.ite | apply Keeps3.ite | apply Keeps2.snd | apply Keeps3.snd | split | apply Keeps2.mk
    | apply Keeps3.mk | refine Keeps2.of (by assumption) ?_ | refine Keeps3.of (by assumption) ?_ | dsimp only

theorem State.scorePages_keeps (h : Keeps s t) {x1 x2 x3 x4 x5 x6} : Keeps2 s (State.scorePages t x1 x2 x3 x4 x5 x6) := by
  induction x6 generalizing t x1 x2 x3 x4 x5 with
  | nil =>
    rw [State.scorePages]
    repeat' with_reducible first
    | exact h | assumption | apply State.scorePage_keeps | apply Keeps2.snd | split | apply Keeps2.mk
      | refine Keeps2.of (by assumption) ?_ | dsimp only
  | cons p l ih =>
    rw [State.scorePages]
    repeat' with_reducible first
    | exact h | assumption | apply ih | apply State.scorePage_keeps | apply Keeps2.snd | split | apply Keeps2.mk
      | refine Keeps2.of (by assumption) ?_ | dsimp only

theorem State.classify_keeps (h : Keeps s t) {x1 x2} : Keeps3 s (State.classify t x1 x2) := by
  unfold State.classify
  repeat' with_reducible first
    | exact h | assumption | apply State.raiseTo_keeps | apply State.load_keeps | apply State.loadWords_keeps
    | apply State.scorePages_keeps | apply State.bump_keeps | apply Keeps.ite | apply Keeps2.ite | apply Keeps3.ite
    | apply Keeps2.snd | apply Keeps3.snd | split | apply Keeps2.mk | apply Keeps3.mk | refine Keeps2.of (by assumption) ?_
    | refine Keeps3.of (by assumption) ?_ | dsimp only

theorem execBlinkersRequestStart_keeps (h : Keeps s t) {x0} : KeepsNext s (execBlinkersRequestStart x0 t) := by
  unfold execBlinkersRequestStart
  repeat' with_reducible first
    | exact h | assumption | apply State.classify_keeps | apply State.setEngine_keeps | apply KeepsNext.next
    | apply Keeps.ite | apply Keeps2.ite | apply Keeps3.ite | apply KeepsNext.ite | apply Keeps2.snd | apply Keeps3.snd
    | split | apply Keeps2.mk | apply Keeps3.mk | refine Keeps2.of (by assumption) ?_ | refine Keeps3.of (by assumption) ?_
    | dsimp only

theorem execBlinkersListComplete_keeps (h : Keeps s t) {x0} : KeepsNext s (execBlinkersListComplete x0 t) := by
  unfold execBlinkersListComplete
  repeat' with_reducible first
    | exact h | assumption | apply State.writeList_keeps | apply State.setEngine_keeps | apply KeepsNext.next
    | apply Keeps2.snd | split | apply Keeps2.mk | refine Keeps2.of (by assumption) ?_ | dsimp only

theorem State.blinksLeft_keeps (h : Keeps s t) {x1} : Keeps s (State.blinksLeft t x1) := by
  unfold State.blinksLeft
  repeat' with_reducible first
    | exact h | assumption | apply Keeps.ite | simp only [Keeps.mk_iff] | apply KeepsParts.same | split | dsimp only

theorem State.moveRequests_keeps (h : Keeps s t) {x1} : Keeps s (State.moveRequests t x1) := by
  unfold State.moveRequests
  repeat' with_reducible first
    | exact h | assumption | apply State.setEngine_keeps | apply State.writeList_keeps
    | refine Keeps.foldl (fun _ _ _ => ?_) ?_ | refine Keeps2.foldl (fun _ _ _ => ?_) ?_ | apply Keeps.ite
    | apply Keeps2.ite | apply Keeps2.snd | split | apply Keeps2.mk | refine Keeps2.of (by assumption) ?_ | dsimp only

theorem execBlinkersLeaveNormal_keeps (h : Keeps s t) {x0} : KeepsNext s (execBlinkersLeaveNormal x0 t) := by
  unfold execBlinkersLeaveNormal
  repeat' with_reducible first
    | exact h | assumption | apply State.moveRequests_keeps | apply KeepsNext.next | apply Keeps.ite | apply KeepsNext.ite
    | split | dsimp only

theorem State.enterRecal_keeps (h : Keeps s t) {x1} : Keeps s (State.enterRecal t x1) := by
  unfold State.enterRecal
  repeat' with_reducible first
    | exact h | assumption | apply State.setEngine_keeps | apply State.logFault_keeps | apply State.bump_keeps | split
    | dsimp only

theorem execBlinkersDriftCheck_keeps (h : Keeps s t) {x0 x1 x2 x3 x4 x5} : KeepsNext s (execBlinkersDriftCheck x0 x1 x2 x3 x4 x5 t) := by
  unfold execBlinkersDriftCheck
  repeat' with_reducible first
    | exact h | assumption | apply State.setEngine_keeps | apply State.enterRecal_keeps | apply KeepsNext.next
    | apply Keeps.ite | apply KeepsNext.ite | split | dsimp only

theorem execBlinkersRecalComplete_keeps (h : Keeps s t) {x0 x1 x2 x3 x4 x5} : KeepsNext s (execBlinkersRecalComplete x0 x1 x2 x3 x4 x5 t) := by
  unfold execBlinkersRecalComplete
  repeat' with_reducible first
    | exact h | assumption | apply State.recalibrate_keeps | apply State.setEngine_keeps | apply State.setUnit_keeps
    | apply State.scheduleNext_keeps | apply State.logFault_keeps | apply State.enterRecal_keeps | apply KeepsNext.next
    | apply Keeps.ite | apply KeepsNext.ite | split | dsimp only

end Sys2Proof.Machine
end

