-- ==== Sys2Proof/Laws/KeepsBridleLink.lean ====
section
/-! SUPPORT. What the operations of Machine/BridleLink.lean keep (Laws/Keeps.lean). -/

namespace Sys2Proof.Machine

set_option linter.unusedTactic false
set_option linter.unreachableTactic false
set_option linter.unusedVariables false
set_option linter.unusedSimpArgs false

variable {s t u : State}

theorem State.setLane_keeps (h : Keeps s t) {x1 x2 x3} : Keeps s (State.setLane t x1 x2 x3) := by
  unfold State.setLane
  repeat' with_reducible first
    | exact h | assumption | simp only [Keeps.mk_iff] | apply KeepsParts.same | split | dsimp only

theorem State.setStrand_keeps (h : Keeps s t) {x1 x2 x3} : Keeps s (State.setStrand t x1 x2 x3) := by
  unfold State.setStrand
  repeat' with_reducible first
    | exact h | assumption | simp only [Keeps.mk_iff] | apply KeepsParts.same | split | dsimp only

theorem State.putCodeword_keeps (h : Keeps s t) {x1 x2 x3 x4 x5} : Keeps s (State.putCodeword t x1 x2 x3 x4 x5) := by
  unfold State.putCodeword
  repeat' with_reducible first
    | exact h | assumption | apply State.setLane_keeps | apply State.bump_keeps | apply State.emit_keeps | split
    | dsimp only

theorem State.sendCodeword_keeps (h : Keeps s t) {x1 x2} : KeepsOpt s (State.sendCodeword t x1 x2) := by
  unfold State.sendCodeword
  repeat' with_reducible first
    | exact h | assumption | apply State.setStrand_keeps | apply State.bump_keeps | apply State.putCodeword_keeps
    | apply Keeps.ite | apply KeepsOpt.ite | simp only [Keeps.mk_iff] | apply KeepsParts.same | exact KeepsOpt.ofNone
    | apply KeepsOpt.ofSome | split | refine KeepsOpt.get (by assumption) ?_ | dsimp only

theorem State.sendCodewords_keeps (h : Keeps s t) {x1 x2 x3} : Keeps s (State.sendCodewords t x1 x2 x3) := by
  induction x3 generalizing t x1 x2 with
  | zero =>
    rw [State.sendCodewords]
    repeat' with_reducible first
    | exact h | assumption | apply State.sendCodeword_keeps | refine KeepsOpt.map ?_ (fun _ _ => ?_)
      | refine KeepsOpt.bind ?_ (fun _ _ => ?_) | exact KeepsOpt.ofNone | apply KeepsOpt.ofSome | split
      | refine KeepsOpt.get (by assumption) ?_ | dsimp only
  | succ n ih =>
    rw [State.sendCodewords]
    repeat' with_reducible first
    | exact h | assumption | apply ih | apply State.sendCodeword_keeps | refine KeepsOpt.map ?_ (fun _ _ => ?_)
      | refine KeepsOpt.bind ?_ (fun _ _ => ?_) | exact KeepsOpt.ofNone | apply KeepsOpt.ofSome | split
      | refine KeepsOpt.get (by assumption) ?_ | dsimp only

theorem State.pumpStrand_keeps (h : Keeps s t) {x1 x2} : Keeps s (State.pumpStrand t x1 x2) := by
  unfold State.pumpStrand
  repeat' with_reducible first
    | exact h | assumption | apply State.sendCodewords_keeps | split | dsimp only

theorem State.strandSend_keeps (h : Keeps s t) {x1 x2 x3 x4} : Keeps s (State.strandSend t x1 x2 x3 x4) := by
  unfold State.strandSend
  repeat' with_reducible first
    | exact h | assumption | apply State.pumpStrand_keeps | apply State.setStrand_keeps | split | dsimp only

theorem State.controlSend_keeps (h : Keeps s t) {x1 x2 x3 x4} : Keeps s (State.controlSend t x1 x2 x3 x4) := by
  unfold State.controlSend
  repeat' with_reducible first
    | exact h | assumption | apply State.setStrand_keeps | apply State.pumpStrand_keeps | simp only [Keeps.mk_iff]
    | apply KeepsParts.same | split | dsimp only

theorem State.retransmit_keeps (h : Keeps s t) {x1 x2 x3} : Keeps s (State.retransmit t x1 x2 x3) := by
  unfold State.retransmit
  repeat' with_reducible first
    | exact h | assumption | apply State.setStrand_keeps | apply State.bump_keeps | apply State.putCodeword_keeps
    | apply Keeps.ite | split | dsimp only

theorem State.linkFrame_keeps (h : Keeps s t) {x1 x2 x3} : Keeps s (State.linkFrame t x1 x2 x3) := by
  unfold State.linkFrame
  repeat' with_reducible first
    | exact h | assumption | apply State.controlSend_keeps | split | dsimp only

theorem State.takeLinkFrame_keeps (h : Keeps s t) {x1 x2 x3 x4 x5} : Keeps s (State.takeLinkFrame t x1 x2 x3 x4 x5) := by
  unfold State.takeLinkFrame
  repeat' with_reducible first
    | exact h | assumption | apply State.setStrand_keeps | apply State.retransmit_keeps | apply State.pumpStrand_keeps
    | split | dsimp only

theorem execBridleLinkFrame_keeps (h : Keeps s t) {x0 x1 x2 x3 x4 x5} : KeepsNext s (execBridleLinkFrame x0 x1 x2 x3 x4 x5 t) := by
  unfold execBridleLinkFrame
  repeat' with_reducible first
    | exact h | assumption | apply State.takeLinkFrame_keeps | apply State.advance_keeps | apply KeepsNext.next | split
    | dsimp only

theorem State.takeDrop_keeps (h : Keeps s t) {x1 x2} : Keeps s (State.takeDrop t x1 x2) := by
  unfold State.takeDrop
  repeat' with_reducible first
    | exact h | assumption | apply State.setLane_keeps | apply State.retransmit_keeps
    | refine Keeps.foldl (fun _ _ _ => ?_) ?_ | apply Keeps.ite | split | dsimp only

theorem execLaneDrop_keeps (h : Keeps s t) {x0 x1 x2} : KeepsNext s (execLaneDrop x0 x1 x2 t) := by
  unfold execLaneDrop
  repeat' with_reducible first
    | exact h | assumption | apply State.takeDrop_keeps | apply State.advance_keeps | apply KeepsNext.next | split
    | dsimp only

theorem State.takeResume_keeps (h : Keeps s t) {x1 x2} : Keeps s (State.takeResume t x1 x2) := by
  unfold State.takeResume
  repeat' with_reducible first
    | exact h | assumption | apply State.scheduleNext_keeps | apply Keeps.ite | split | dsimp only

theorem execLaneResume_keeps (h : Keeps s t) {x0 x1 x2} : KeepsNext s (execLaneResume x0 x1 x2 t) := by
  unfold execLaneResume
  repeat' with_reducible first
    | exact h | assumption | apply State.takeResume_keeps | apply State.advance_keeps | apply KeepsNext.next | split
    | dsimp only

theorem State.laneFrame_keeps (h : Keeps s t) {x1 x2 x3} : Keeps s (State.laneFrame t x1 x2 x3) := by
  unfold State.laneFrame
  repeat' with_reducible first
    | exact h | assumption | apply State.resume_keeps | apply State.controlSend_keeps
    | refine Keeps.foldl (fun _ _ _ => ?_) ?_ | split | intro _ | dsimp only

theorem State.suspend_keeps (h : Keeps s t) {x1 x2} : Keeps s (State.suspend t x1 x2) := by
  unfold State.suspend
  repeat' with_reducible first
    | exact h | assumption | apply State.setLane_keeps | apply State.laneFrame_keeps | apply State.logFault_keeps
    | apply State.bump_keeps | apply Keeps.ite | split | dsimp only

theorem State.unsuspend_keeps (h : Keeps s t) {x1 x2} : Keeps s (State.unsuspend t x1 x2) := by
  unfold State.unsuspend
  repeat' with_reducible first
    | exact h | assumption | apply State.laneFrame_keeps | apply State.bump_keeps | apply State.setLane_keeps
    | apply Keeps.ite | split | dsimp only

theorem State.resetStrand_keeps (h : Keeps s t) {x1 x2} : Keeps s (State.resetStrand t x1 x2) := by
  unfold State.resetStrand
  repeat' with_reducible first
    | exact h | assumption | apply State.setStrand_keeps | apply State.logFault_keeps | apply State.bump_keeps
    | apply Keeps.ite | split | dsimp only

theorem State.putTrain_keeps (h : Keeps s t) {x1 x2 x3} : Keeps s (State.putTrain t x1 x2 x3) := by
  unfold State.putTrain
  repeat' with_reducible first
    | exact h | assumption | apply State.emit_keeps | split | dsimp only

theorem State.sendIdent_keeps (h : Keeps s t) {x1 x2 x3 x4} : Keeps s (State.sendIdent t x1 x2 x3 x4) := by
  unfold State.sendIdent
  repeat' with_reducible first
    | exact h | assumption | apply State.putTrain_keeps | apply Keeps.ite | split | dsimp only

theorem State.enterTraining_keeps (h : Keeps s t) {x1 x2 x3} : Keeps s (State.enterTraining t x1 x2 x3) := by
  unfold State.enterTraining
  repeat' with_reducible first
    | exact h | assumption | apply State.setLane_keeps | apply State.sendIdent_keeps | simp only [Keeps.mk_iff]
    | apply KeepsParts.same | split | dsimp only

theorem State.laneDown_keeps (h : Keeps s t) {x1 x2} : Keeps s (State.laneDown t x1 x2) := by
  unfold State.laneDown
  repeat' with_reducible first
    | exact h | assumption | apply State.fresh_keeps | apply State.enterTraining_keeps | apply State.setLane_keeps
    | apply State.bump_keeps | apply State.resetStrand_keeps | apply State.retransmit_keeps | apply Keeps.ite
    | simp only [Keeps.mk_iff] | apply KeepsParts.same | apply KeepsParts.send | refine Keeps.foldl (fun _ _ _ => ?_) ?_
    | split | intro _ | dsimp only

theorem execLaneSuspendTimeout_keeps (h : Keeps s t) {x0 x1} : KeepsNext s (execLaneSuspendTimeout x0 x1 t) := by
  unfold execLaneSuspendTimeout
  repeat' with_reducible first
    | exact h | assumption | apply State.laneDown_keeps | apply KeepsNext.next | apply Keeps.ite | apply KeepsNext.ite
    | split | dsimp only

theorem execBeaconLossTimeout_keeps (h : Keeps s t) {x0 x1} : KeepsNext s (execBeaconLossTimeout x0 x1 t) := by
  unfold execBeaconLossTimeout
  repeat' with_reducible first
    | exact h | assumption | apply State.laneDown_keeps | apply KeepsNext.next | refine Keeps.foldl (fun _ _ _ => ?_) ?_
    | apply Keeps.ite | apply KeepsNext.ite | split | dsimp only

theorem State.trainFails_keeps (h : Keeps s t) {x1 x2} : Keeps s (State.trainFails t x1 x2) := by
  unfold State.trainFails
  repeat' with_reducible first
    | exact h | assumption | apply State.fresh_keeps | apply State.setLane_keeps | apply State.enterTraining_keeps
    | apply State.bump_keeps | apply State.logFault_keeps | apply Keeps.ite | simp only [Keeps.mk_iff]
    | apply KeepsParts.same | apply KeepsParts.send | split | dsimp only

theorem State.refuseLane_keeps (h : Keeps s t) {x1 x2 x3} : Keeps s (State.refuseLane t x1 x2 x3) := by
  unfold State.refuseLane
  repeat' with_reducible first
    | exact h | assumption | apply State.trainFails_keeps | apply State.logFault_keeps | split | dsimp only

theorem State.displace_keeps (h : Keeps s t) {x1 x2} : Keeps s (State.displace t x1 x2) := by
  unfold State.displace
  repeat' with_reducible first
    | exact h | assumption | apply State.logFault_keeps | apply State.laneDown_keeps | apply State.refuseLane_keeps
    | apply Keeps.ite | split | dsimp only

theorem State.joinStrand_keeps (h : Keeps s t) {x1 x2} : Keeps s (State.joinStrand t x1 x2) := by
  unfold State.joinStrand
  repeat' with_reducible first
    | exact h | assumption | apply State.setLane_keeps | simp only [Keeps.mk_iff] | apply KeepsParts.same | split
    | dsimp only

theorem State.admitTeam_keeps (h : Keeps s t) {x1 x2 x3 x4} : Keeps s (State.admitTeam t x1 x2 x3 x4) := by
  unfold State.admitTeam
  repeat' with_reducible first
    | exact h | assumption | apply State.refuseLane_keeps | apply State.displace_keeps | apply State.joinStrand_keeps
    | apply Keeps.ite | refine Keeps.foldl (fun _ _ _ => ?_) ?_ | split | dsimp only

theorem State.admitLane_keeps (h : Keeps s t) {x1 x2 x3} : Keeps s (State.admitLane t x1 x2 x3) := by
  unfold State.admitLane
  repeat' with_reducible first
    | exact h | assumption | apply State.refuseLane_keeps | apply State.joinStrand_keeps | apply State.admitTeam_keeps
    | apply Keeps.ite | split | dsimp only

theorem State.takeIdent_keeps (h : Keeps s t) {x1 x2 x3 x4 x5 x6} : Keeps s (State.takeIdent t x1 x2 x3 x4 x5 x6) := by
  unfold State.takeIdent
  repeat' with_reducible first
    | exact h | assumption | apply State.setLane_keeps | apply State.admitLane_keeps | apply State.sendIdent_keeps
    | apply Keeps.ite | simp only [Keeps.mk_iff] | apply KeepsParts.same | split | dsimp only

theorem execIdentFrame_keeps (h : Keeps s t) {x0 x1 x2 x3 x4 x5 x6 x7 x8 x9 x10} : KeepsNext s (execIdentFrame x0 x1 x2 x3 x4 x5 x6 x7 x8 x9 x10 t) := by
  unfold execIdentFrame
  repeat' with_reducible first
    | exact h | assumption | apply State.takeIdent_keeps | apply KeepsNext.next | split | dsimp only

theorem execLaneTrainingComplete_keeps (h : Keeps s t) {x0 x1} : KeepsNext s (execLaneTrainingComplete x0 x1 t) := by
  unfold execLaneTrainingComplete
  repeat' with_reducible first
    | exact h | assumption | apply State.setLane_keeps | apply KeepsNext.next | apply Keeps.ite | apply KeepsNext.ite
    | split | dsimp only

theorem execLaneTrainingTimeout_keeps (h : Keeps s t) {x0 x1 x2} : KeepsNext s (execLaneTrainingTimeout x0 x1 x2 t) := by
  unfold execLaneTrainingTimeout
  repeat' with_reducible first
    | exact h | assumption | apply State.advance_keeps | apply State.trainFails_keeps | apply KeepsNext.next
    | apply Keeps.ite | apply KeepsNext.ite | split | dsimp only

theorem execLaneTrainingRetry_keeps (h : Keeps s t) {x0 x1 x2} : KeepsNext s (execLaneTrainingRetry x0 x1 x2 t) := by
  unfold execLaneTrainingRetry
  repeat' with_reducible first
    | exact h | assumption | apply State.advance_keeps | apply State.enterTraining_keeps | apply KeepsNext.next
    | apply Keeps.ite | apply KeepsNext.ite | split | dsimp only

theorem State.writeRetrain_keeps (h : Keeps s t) {x1 x2} : Keeps s (State.writeRetrain t x1 x2) := by
  unfold State.writeRetrain
  repeat' with_reducible first
    | exact h | assumption | apply State.schedule_keeps | split | dsimp only

theorem execLaneRetrain_keeps (h : Keeps s t) {x0 x1 x2 x3} : KeepsNext s (execLaneRetrain x0 x1 x2 x3 t) := by
  unfold execLaneRetrain
  repeat' with_reducible first
    | exact h | assumption | apply State.advance_keeps | apply State.writeRetrain_keeps | apply KeepsNext.next
    | apply Keeps.ite | apply KeepsNext.ite | split | dsimp only

theorem State.takeControl_keeps (h : Keeps s t) {x1 x2 x3} : Keeps s (State.takeControl t x1 x2 x3) := by
  unfold State.takeControl
  repeat' with_reducible first
    | exact h | assumption | apply State.setStrand_keeps | apply State.takeAdvert_keeps
    | apply State.takeLinkFrame_keeps | apply State.takeResume_keeps | apply State.takeDrop_keeps | apply Keeps.ite
    | simp only [Keeps.mk_iff] | apply KeepsParts.same | split | dsimp only

theorem State.takePacket_keeps (h : Keeps s t) {x1 x2 x3 x4} : Keeps s (State.takePacket t x1 x2 x3 x4) := by
  unfold State.takePacket
  repeat' with_reducible first
    | exact h | assumption | apply State.setStrand_keeps | apply Keeps.ite | simp only [Keeps.mk_iff]
    | apply KeepsParts.same | apply KeepsParts.send | split | dsimp only

theorem State.takeFlits_keeps (h : Keeps s t) {x1 x2 x3 x4} : Keeps s (State.takeFlits t x1 x2 x3 x4) := by
  unfold State.takeFlits
  repeat' with_reducible first
    | exact h | assumption | apply State.setStrand_keeps | apply State.takePacket_keeps | apply State.takeControl_keeps
    | refine Keeps.foldl (fun _ _ _ => ?_) ?_ | refine Keeps2.foldl (fun _ _ _ => ?_) ?_ | apply Keeps2.snd | split
    | apply Keeps2.mk | refine Keeps2.of (by assumption) ?_ | dsimp only

theorem State.takeReordered_keeps (h : Keeps s t) {x1 x2 x3} : Keeps s (State.takeReordered t x1 x2 x3) := by
  induction x3 generalizing t x1 x2 with
  | zero =>
    rw [State.takeReordered]
    repeat' with_reducible first
    | exact h | assumption | apply State.setStrand_keeps | apply State.takeFlits_keeps | apply Keeps.ite | split
      | dsimp only
  | succ n ih =>
    rw [State.takeReordered]
    repeat' with_reducible first
    | exact h | assumption | apply ih | apply State.setStrand_keeps | apply State.takeFlits_keeps | apply Keeps.ite | split
      | dsimp only

theorem State.takeCodeword_keeps (h : Keeps s t) {x1 x2 x3 x4 x5} : Keeps s (State.takeCodeword t x1 x2 x3 x4 x5) := by
  unfold State.takeCodeword
  repeat' with_reducible first
    | exact h | assumption | apply State.takeReordered_keeps | apply State.takeFlits_keeps | apply State.setStrand_keeps
    | apply State.linkFrame_keeps | apply Keeps.ite | apply Keeps2.ite | apply Keeps2.snd | split | apply Keeps2.mk
    | refine Keeps2.of (by assumption) ?_ | dsimp only

theorem State.takeTrain_keeps (h : Keeps s t) {x1 x2 x3} : Keeps s (State.takeTrain t x1 x2 x3) := by
  unfold State.takeTrain
  repeat' with_reducible first
    | exact h | assumption | apply State.takeIdent_keeps | apply Keeps.ite | refine Keeps.foldl (fun _ _ _ => ?_) ?_
    | split | dsimp only

theorem execCodewordReceive_keeps (h : Keeps s t) {x0 x1 x2 x3} : KeepsNext s (execCodewordReceive x0 x1 x2 x3 t) := by
  unfold execCodewordReceive
  repeat' with_reducible first
    | exact h | assumption | apply State.advance_keeps | apply State.setLane_keeps | apply State.takeTrain_keeps
    | apply State.setStrand_keeps | apply State.suspend_keeps | apply State.takeCodeword_keeps
    | apply State.unsuspend_keeps | apply State.bump_keeps | apply State.linkFrame_keeps | apply KeepsNext.next
    | apply Keeps.ite | apply KeepsNext.ite | simp only [Keeps.mk_iff] | apply KeepsParts.same | split | dsimp only

theorem execCodewordGapNak_keeps (h : Keeps s t) {x0 x1 x2} : KeepsNext s (execCodewordGapNak x0 x1 x2 t) := by
  unfold execCodewordGapNak
  repeat' with_reducible first
    | exact h | assumption | apply State.advance_keeps | apply State.linkFrame_keeps | apply State.setStrand_keeps
    | apply KeepsNext.next | apply Keeps.ite | apply KeepsNext.ite | split | dsimp only

theorem execCodewordRetxTimeout_keeps (h : Keeps s t) {x0 x1 x2 x3} : KeepsNext s (execCodewordRetxTimeout x0 x1 x2 x3 t) := by
  unfold execCodewordRetxTimeout
  repeat' with_reducible first
    | exact h | assumption | apply State.advance_keeps | apply State.retransmit_keeps | apply KeepsNext.next
    | apply Keeps.ite | apply KeepsNext.ite | split | dsimp only

theorem execLinkCounterExhaust_keeps (h : Keeps s t) {x0 x1 x2} : KeepsNext s (execLinkCounterExhaust x0 x1 x2 t) := by
  unfold execLinkCounterExhaust
  repeat' with_reducible first
    | exact h | assumption | apply State.advance_keeps | apply State.logFault_keeps | apply State.setStrand_keeps | apply KeepsNext.next
    | apply Keeps.ite | apply KeepsNext.ite | split | dsimp only

theorem State.bridleBoundary_keeps (h : Keeps s t) : Keeps s (State.bridleBoundary t) := by
  unfold State.bridleBoundary
  repeat' with_reducible first
    | exact h | assumption | apply State.pumpStrand_keeps | refine Keeps.foldl (fun _ _ _ => ?_) ?_ | apply Keeps.ite
    | simp only [Keeps.mk_iff] | apply KeepsParts.same | split | dsimp only

theorem State.pumpStrands_keeps (h : Keeps s t) : Keeps s (State.pumpStrands t) := by
  unfold State.pumpStrands
  repeat' with_reducible first
    | exact h | assumption | apply State.pumpStrand_keeps | refine Keeps.foldl (fun _ _ _ => ?_) ?_ | split | dsimp only

end Sys2Proof.Machine
end

