-- ==== Sys2Proof/Laws/KeepsGroom.lean ====
section
/-! SUPPORT. What the operations of Machine/Groom.lean keep (Laws/Keeps.lean). -/

namespace Sys2Proof.Machine

set_option linter.unusedTactic false
set_option linter.unreachableTactic false
set_option linter.unusedVariables false
set_option linter.unusedSimpArgs false

variable {s t u : State}

theorem State.gradeCores_keeps (h : Keeps s t) : Keeps s (State.gradeCores t) := by
  unfold State.gradeCores
  repeat' with_reducible first
    | exact h | assumption | apply State.setReg_keeps | split | dsimp only

theorem State.updateGrade_keeps (h : Keeps s t) : Keeps s (State.updateGrade t) := by
  unfold State.updateGrade
  repeat' with_reducible first
    | exact h | assumption | apply State.gradeCores_keeps | apply State.emit_keeps | apply State.setReg_keeps
    | apply Keeps.ite | simp only [Keeps.mk_iff] | apply KeepsParts.same | split | dsimp only

theorem State.unitsOff_keeps (h : Keeps s t) : Keeps s (State.unitsOff t) := by
  unfold State.unitsOff
  repeat' with_reducible first
    | exact h | assumption | apply State.setUnit_keeps | refine Keeps.foldl (fun _ _ _ => ?_) ?_
    | refine Keeps2.foldl (fun _ _ _ => ?_) ?_ | simp only [Keeps.mk_iff] | apply KeepsParts.same | apply Keeps2.snd | split
    | apply Keeps2.mk | refine Keeps2.of (by assumption) ?_ | dsimp only

theorem State.moduleFatal_keeps (h : Keeps s t) {x1} : Keeps s (State.moduleFatal t x1) := by
  unfold State.moduleFatal
  repeat' with_reducible first
    | exact h | assumption | apply State.unitsOff_keeps | apply State.updateGrade_keeps | apply State.logFault_keeps
    | apply Keeps.ite | simp only [Keeps.mk_iff] | apply KeepsParts.same | split | dsimp only

theorem execModuleFailStop_keeps (h : Keeps s t) {x0} : KeepsNext s (execModuleFailStop x0 t) := by
  unfold execModuleFailStop
  repeat' with_reducible first
    | exact h | assumption | apply State.moduleFatal_keeps | apply KeepsNext.next | split | dsimp only

theorem State.noteFarrier_keeps (h : Keeps s t) {x1 x2 x3} : Keeps s (State.noteFarrier t x1 x2 x3) := by
  unfold State.noteFarrier
  repeat' with_reducible first
    | exact h | assumption | apply State.setReg_keeps | split | dsimp only

theorem State.farCount_keeps (h : Keeps s t) {x1} : Keeps s (State.farCount t x1) := by
  unfold State.farCount
  repeat' with_reducible first
    | exact h | assumption | apply State.bump_keeps | split | dsimp only

theorem State.setRole_keeps (h : Keeps s t) {x1 x2} : Keeps s (State.setRole t x1 x2) := by
  unfold State.setRole
  repeat' with_reducible first
    | exact h | assumption | apply Keeps.ite | simp only [Keeps.mk_iff] | apply KeepsParts.same | split | dsimp only

theorem State.setRestarting_keeps (h : Keeps s t) {x1 x2} : Keeps s (State.setRestarting t x1 x2) := by
  unfold State.setRestarting
  repeat' with_reducible first
    | exact h | assumption | apply Keeps.ite | simp only [Keeps.mk_iff] | apply KeepsParts.same | split | dsimp only

theorem State.restartGroom_keeps (h : Keeps s t) {x1} : Keeps s (State.restartGroom t x1) := by
  unfold State.restartGroom
  repeat' with_reducible first
    | exact h | assumption | apply State.setRestarting_keeps | apply State.noteFarrier_keeps | apply State.farCount_keeps
    | apply Keeps.ite | simp only [Keeps.mk_iff] | apply KeepsParts.same | apply KeepsParts.send | split | dsimp only

theorem State.groomLost_keeps (h : Keeps s t) {x1} : Keeps s (State.groomLost t x1) := by
  unfold State.groomLost
  repeat' with_reducible first
    | exact h | assumption | apply State.restartGroom_keeps | apply State.setRole_keeps | split | dsimp only

theorem State.activeFails_keeps (h : Keeps s t) {x1} : Keeps s (State.activeFails t x1) := by
  unfold State.activeFails
  repeat' with_reducible first
    | exact h | assumption | apply State.setRole_keeps | apply State.groomLost_keeps | apply State.farCount_keeps
    | apply State.logFault_keeps | apply State.moduleFatal_keeps | simp only [Keeps.mk_iff] | apply KeepsParts.same | split
    | dsimp only

theorem execGroomHeartbeatTimeout_keeps (h : Keeps s t) {x0} : KeepsNext s (execGroomHeartbeatTimeout x0 t) := by
  unfold execGroomHeartbeatTimeout
  repeat' with_reducible first
    | exact h | assumption | apply State.activeFails_keeps | apply KeepsNext.next | split | dsimp only

theorem execGroomSelfFault_keeps (h : Keeps s t) {x0} : KeepsNext s (execGroomSelfFault x0 t) := by
  unfold execGroomSelfFault
  repeat' with_reducible first
    | exact h | assumption | apply State.activeFails_keeps | apply KeepsNext.next | split | dsimp only

theorem State.pairSwitch_keeps (h : Keeps s t) : Keeps s (State.pairSwitch t) := by
  unfold State.pairSwitch
  repeat' with_reducible first
    | exact h | assumption | apply State.schedule_keeps | apply State.groomSwitch_keeps | apply Keeps.ite | split
    | dsimp only

theorem State.groomSwitch_keeps (h : Keeps s t) : Keeps s (State.groomSwitch t) := by
  unfold State.groomSwitch
  repeat' with_reducible first
    | exact h | assumption | apply Keeps.ite | simp only [Keeps.mk_iff] | apply KeepsParts.same | split | dsimp only

theorem execGroomPlannedSwitch_keeps (h : Keeps s t) {x0 x1} : KeepsNext s (execGroomPlannedSwitch x0 x1 t) := by
  unfold execGroomPlannedSwitch
  repeat' with_reducible first
    | exact h | assumption | apply State.advance_keeps | apply State.pairSwitch_keeps | apply KeepsNext.next
    | apply Keeps.ite | apply KeepsNext.ite | split | dsimp only

theorem execStandbyHealthTimeout_keeps (h : Keeps s t) {x0} : KeepsNext s (execStandbyHealthTimeout x0 t) := by
  unfold execStandbyHealthTimeout
  repeat' with_reducible first
    | exact h | assumption | apply State.groomLost_keeps | apply State.logFault_keeps | apply KeepsNext.next | split
    | dsimp only

theorem execGroomRestartComplete_keeps (h : Keeps s t) {x0 x1} : KeepsNext s (execGroomRestartComplete x0 x1 t) := by
  unfold execGroomRestartComplete
  repeat' with_reducible first
    | exact h | assumption | apply State.setRestarting_keeps | apply State.restartGroom_keeps | apply KeepsNext.next
    | apply Keeps.ite | apply KeepsNext.ite | split | dsimp only

theorem State.groomBoundary_keeps (h : Keeps s t) : Keeps s (State.groomBoundary t) := by
  unfold State.groomBoundary
  repeat' with_reducible first
    | exact h | assumption | apply State.setRestarting_keeps | apply State.setRole_keeps
    | refine Keeps.foldl (fun _ _ _ => ?_) ?_ | refine Keeps2.foldl (fun _ _ _ => ?_) ?_ | apply Keeps.ite
    | apply Keeps2.ite | simp only [Keeps.mk_iff] | apply KeepsParts.same | apply Keeps2.snd | split | apply Keeps2.mk
    | refine Keeps2.of (by assumption) ?_ | dsimp only

end Sys2Proof.Machine
end

