-- ==== Sys2Proof/Laws/KeepsSequencer.lean ====
section
/-! SUPPORT. What the operations of Machine/Sequencer.lean keep (Laws/Keeps.lean). -/

namespace Sys2Proof.Machine

set_option linter.unusedTactic false
set_option linter.unreachableTactic false
set_option linter.unusedVariables false
set_option linter.unusedSimpArgs false

variable {s t u : State}

theorem State.fetch_keeps (h : Keeps s t) {x1} : Keeps s (State.fetch t x1) := by
  unfold State.fetch
  repeat' with_reducible first
    | exact h | assumption | apply State.complete_keeps | apply State.setQueue_keeps
    | apply State.rejectDesc_keeps | apply Keeps.ite | apply KeepsNext.ite | simp only [Keeps.mk_iff]
    | apply KeepsParts.same | split | dsimp only

theorem State.enter_keeps (h : Keeps s t) {x1 x2 x3} : Keeps s (State.enter t x1 x2 x3) := by
  unfold State.enter
  repeat' with_reducible first
    | exact h | assumption | apply State.refillFor_keeps | apply State.complete_keeps
    | apply State.setQueue_keeps | apply State.settleQueue_keeps | apply Keeps.ite | apply KeepsNext.ite
    | simp only [Keeps.mk_iff] | apply KeepsParts.same | split | dsimp only

theorem State.letStart_keeps (h : Keeps s t) {q d} {go : State → State} (hg : ∀ u, Keeps s u → Keeps s (go u)) :
    Keeps s (t.letStart q d go) := by
  unfold State.letStart
  repeat' with_reducible first
    | exact h | apply hg | apply State.logFault_keeps | apply State.setQueue_keeps | apply Keeps.ite | split

theorem State.start_keeps (h : Keeps s t) {x1 x2} : Keeps s (State.start t x1 x2) := by
  unfold State.start
  repeat' with_reducible first
    | exact h | assumption | apply State.advance_keeps | apply State.setQueue_keeps | apply State.letStart_keeps
    | apply State.enter_keeps | apply Keeps.ite | split | intro _ | dsimp only

theorem State.overrun_keeps (h : Keeps s t) {x1 x2} : Keeps s (State.overrun t x1 x2) := by
  unfold State.overrun
  repeat' with_reducible first
    | exact h | assumption | apply State.setCore_keeps | apply State.dropRequests_keeps
    | apply State.setQueue_keeps | apply State.raiseQueue_keeps | apply State.finish_keeps | apply Keeps.ite
    | apply KeepsNext.ite | simp only [Keeps.mk_iff] | apply KeepsParts.same | split | dsimp only

theorem State.retire_keeps (h : Keeps s t) {x1 x2} : Keeps s (State.retire t x1 x2) := by
  unfold State.retire
  repeat' with_reducible first
    | exact h | assumption | apply State.complete_keeps | apply State.overrun_keeps
    | apply State.setQueue_keeps | apply State.finish_keeps | apply Keeps.ite | apply KeepsNext.ite | split | dsimp only

theorem execDescriptorFetch_keeps (h : Keeps s t) {x0} : KeepsNext s (execDescriptorFetch x0 t) := by
  unfold execDescriptorFetch
  repeat' with_reducible first
    | exact h | assumption | apply State.fetch_keeps | apply KeepsNext.next | split | dsimp only

theorem execDescriptorStart_keeps (h : Keeps s t) {x0 x1} : KeepsNext s (execDescriptorStart x0 x1 t) := by
  unfold execDescriptorStart
  repeat' with_reducible first
    | exact h | assumption | apply State.start_keeps | apply KeepsNext.next | split | dsimp only

theorem execDescriptorOverrun_keeps (h : Keeps s t) {x0 x1} : KeepsNext s (execDescriptorOverrun x0 x1 t) := by
  unfold execDescriptorOverrun
  repeat' with_reducible first
    | exact h | assumption | apply State.advance_keeps | apply State.overrun_keeps | apply KeepsNext.next | apply Keeps.ite
    | apply KeepsNext.ite | split | dsimp only

theorem execDescriptorRetire_keeps (h : Keeps s t) {x0 x1} : KeepsNext s (execDescriptorRetire x0 x1 t) := by
  unfold execDescriptorRetire
  repeat' with_reducible first
    | exact h | assumption | apply State.retire_keeps | apply KeepsNext.next | split | dsimp only

theorem State.endDescriptor_keeps (h : Keeps s t) {x1 x2} : Keeps s (State.endDescriptor t x1 x2) := by
  unfold State.endDescriptor
  repeat' with_reducible first
    | exact h | assumption | apply State.retire_keeps | apply State.overrun_keeps | apply Keeps.ite
    | apply KeepsNext.ite | split | dsimp only

theorem State.endDescriptors_keeps (h : Keeps s t) : Keeps s (State.endDescriptors t) := by
  unfold State.endDescriptors
  repeat' with_reducible first
    | exact h | assumption | apply State.endDescriptor_keeps
    | refine Keeps.foldl (fun _ _ _ => ?_) ?_ | split | dsimp only

theorem State.writeTail_keeps (h : Keeps s t) {x1 x2} : Keeps s (State.writeTail t x1 x2) := by
  unfold State.writeTail
  repeat' with_reducible first
    | exact h | assumption | apply State.raiseQueue_keeps | apply State.settleQueue_keeps | apply State.setQueue_keeps
    | apply Keeps.ite | split | dsimp only

theorem execQueueTailWrite_keeps (h : Keeps s t) {x0 x1 x2} : KeepsNext s (execQueueTailWrite x0 x1 x2 t) := by
  unfold execQueueTailWrite
  repeat' with_reducible first
    | exact h | assumption | apply State.writeTail_keeps | apply KeepsNext.next | apply Keeps.ite | apply KeepsNext.ite
    | split | dsimp only

theorem State.resume_keeps (h : Keeps s t) {x1 x2} : Keeps s (State.resume t x1 x2) := by
  unfold State.resume
  repeat' with_reducible first
    | exact h | assumption | apply State.schedule_keeps | apply Keeps.ite | split | dsimp only

theorem execQueueResumeRetry_keeps (h : Keeps s t) {x0 x1 x2} : KeepsNext s (execQueueResumeRetry x0 x1 x2 t) := by
  unfold execQueueResumeRetry
  repeat' with_reducible first
    | exact h | assumption | apply State.advance_keeps | apply State.resume_keeps | apply KeepsNext.next | apply Keeps.ite
    | apply KeepsNext.ite | split | dsimp only

theorem execQueueResumeSkip_keeps (h : Keeps s t) {x0 x1 x2} : KeepsNext s (execQueueResumeSkip x0 x1 x2 t) := by
  unfold execQueueResumeSkip
  repeat' with_reducible first
    | exact h | assumption | apply State.advance_keeps | apply State.resume_keeps | apply KeepsNext.next | apply Keeps.ite
    | apply KeepsNext.ite | split | dsimp only

theorem execSignal_keeps (h : Keeps s t) {x0} : KeepsNext s (execSignal x0 t) := by
  unfold execSignal
  repeat' with_reducible first
    | exact h | assumption | apply State.complete_keeps | apply State.putTxn_keeps | apply State.signal_keeps
    | apply KeepsNext.next | apply Keeps.ite | apply Keeps2.ite | apply KeepsNext.ite | apply Keeps2.snd | split
    | apply Keeps2.mk | refine Keeps2.of (by assumption) ?_ | dsimp only

theorem State.endWait_keeps (h : Keeps s t) {x1 x2 x3} : Keeps s (State.endWait t x1 x2 x3) := by
  unfold State.endWait
  repeat' with_reducible first
    | exact h | assumption | apply State.finish_keeps | apply State.setQueue_keeps | split | dsimp only

theorem State.branchTo_keeps (h : Keeps s t) {x1 x2 x3} : Keeps s (State.branchTo t x1 x2 x3) := by
  unfold State.branchTo
  repeat' with_reducible first
    | exact h | assumption | apply State.complete_keeps | apply State.setQueue_keeps
    | apply State.settleQueue_keeps | apply Keeps.ite | apply KeepsNext.ite | simp only [Keeps.mk_iff]
    | apply KeepsParts.same | split | dsimp only

theorem State.timeoutWait_keeps (h : Keeps s t) {x1 x2} : Keeps s (State.timeoutWait t x1 x2) := by
  unfold State.timeoutWait
  repeat' with_reducible first
    | exact h | assumption | apply State.endWait_keeps | apply State.raiseQueue_keeps | apply State.withdrawWatches_keeps
    | split | dsimp only

theorem State.answerWait_keeps (h : Keeps s t) {x1 x2} : Keeps s (State.answerWait t x1 x2) := by
  unfold State.answerWait
  repeat' with_reducible first
    | exact h | assumption | apply State.endWait_keeps | apply State.branchTo_keeps | apply State.timeoutWait_keeps
    | apply State.settleQueue_keeps | apply State.setQueue_keeps | apply Keeps.ite | split | dsimp only

theorem State.judgeOwn_keeps (h : Keeps s t) {x1} : Keeps s (State.judgeOwn t x1) := by
  unfold State.judgeOwn
  repeat' with_reducible first
    | exact h | assumption | apply State.answerWait_keeps | apply State.raiseQueue_keeps | apply Keeps.ite | split
    | dsimp only

theorem State.startWait_keeps (h : Keeps s t) {x1} : Keeps s (State.startWait t x1) := by
  unfold State.startWait
  repeat' with_reducible first
    | exact h | assumption | apply State.letStart_keeps | apply State.enter_keeps | apply State.setQueue_keeps
    | apply Keeps.ite | split | intro _ | dsimp only

theorem State.askRoot_keeps (h : Keeps s t) {x1 x2} : Keeps s (State.askRoot t x1 x2) := by
  unfold State.askRoot
  repeat' with_reducible first
    | exact h | assumption | apply Keeps.ite | simp only [Keeps.mk_iff] | apply KeepsParts.same | split | dsimp only

theorem State.waitStep_keeps (h : Keeps s t) {x1 x2} : Keeps s (State.waitStep t x1 x2) := by
  unfold State.waitStep
  repeat' with_reducible first
    | exact h | assumption | apply State.advance_keeps | apply State.startWait_keeps | apply State.setQueue_keeps
    | apply State.settleQueue_keeps | apply State.askRoot_keeps | apply State.judgeOwn_keeps | apply Keeps.ite
    | simp only [Keeps.mk_iff] | apply KeepsParts.same | split | dsimp only

theorem execWait_keeps (h : Keeps s t) {x0 x1} : KeepsNext s (execWait x0 x1 t) := by
  unfold execWait
  repeat' with_reducible first
    | exact h | assumption | apply State.waitStep_keeps | apply KeepsNext.next | split | dsimp only

theorem execWaitTimeout_keeps (h : Keeps s t) {x0} : KeepsNext s (execWaitTimeout x0 t) := by
  unfold execWaitTimeout
  repeat' with_reducible first
    | exact h | assumption | apply State.timeoutWait_keeps | apply KeepsNext.next | apply Keeps.ite | apply KeepsNext.ite
    | split | dsimp only

theorem State.branchStep_keeps (h : Keeps s t) {x1 x2} : Keeps s (State.branchStep t x1 x2) := by
  unfold State.branchStep
  repeat' with_reducible first
    | exact h | assumption | apply State.advance_keeps | apply State.setQueue_keeps | apply State.rejectDesc_keeps
    | apply State.settleQueue_keeps | apply State.letStart_keeps | apply State.enter_keeps | apply State.askRoot_keeps
    | apply State.judgeOwn_keeps | apply Keeps.ite | simp only [Keeps.mk_iff] | apply KeepsParts.same | intro _ | split
    | dsimp only

theorem execBranch_keeps (h : Keeps s t) {x0 x1} : KeepsNext s (execBranch x0 x1 t) := by
  unfold execBranch
  repeat' with_reducible first
    | exact h | assumption | apply State.branchStep_keeps | apply KeepsNext.next | split | dsimp only

theorem execLoop_keeps (h : Keeps s t) {x0} : KeepsNext s (execLoop x0 t) := by
  unfold execLoop
  repeat' with_reducible first
    | exact h | assumption | apply State.rejectDesc_keeps | apply State.setQueue_keeps | apply State.settleQueue_keeps
    | apply State.complete_keeps | apply KeepsNext.next | apply Keeps.ite | apply KeepsNext.ite | split | dsimp only

end Sys2Proof.Machine
end

