-- ==== Sys2Proof/Laws/KeepsFarrier.lean ====
section
/-! SUPPORT. What the operations of Machine/Farrier.lean keep (Laws/Keeps.lean). -/

namespace Sys2Proof.Machine

set_option linter.unusedTactic false
set_option linter.unreachableTactic false
set_option linter.unusedVariables false
set_option linter.unusedSimpArgs false

variable {s t u : State}

theorem State.failUnit_keeps (h : Keeps s t) {x1 x2} : Keeps s (State.failUnit t x1 x2) := by
  unfold State.failUnit
  repeat' with_reducible first
    | exact h | assumption | apply State.scheduleNext_keeps | apply State.setUnit_keeps | split | dsimp only

theorem State.listCore_keeps (h : Keeps s t) {x1 x2} : Keeps s (State.listCore t x1 x2) := by
  unfold State.listCore
  repeat' with_reducible first
    | exact h | assumption | apply State.setCore_keeps | apply State.setUnit_keeps | apply State.countFieldFail_keeps
    | apply State.logFieldFail_keeps | apply Keeps.ite | simp only [Keeps.mk_iff] | apply KeepsParts.same
    | apply KeepsParts.send | split | dsimp only

theorem State.haltCore_keeps (h : Keeps s t) {x1} : Keeps s (State.haltCore t x1) := by
  unfold State.haltCore
  repeat' with_reducible first
    | exact h | assumption | apply State.withdrawWatches_keeps | apply State.setQueue_keeps
    | apply State.overrun_keeps | apply Keeps.ite | apply KeepsNext.ite | simp only [Keeps.mk_iff]
    | apply KeepsParts.same | refine Keeps.foldl (fun _ _ _ => ?_) ?_ | split | dsimp only

theorem State.coreFails_keeps (h : Keeps s t) {x1 x2 x3} : Keeps s (State.coreFails t x1 x2 x3) := by
  unfold State.coreFails
  repeat' with_reducible first
    | exact h | assumption | apply State.haltCore_keeps | apply State.logFault_keeps | apply State.listCore_keeps
    | apply State.failUnit_keeps | apply State.setCore_keeps | apply Keeps.ite | apply Keeps2.ite | apply Keeps2.snd | split
    | apply Keeps2.mk | refine Keeps2.of (by assumption) ?_ | dsimp only

theorem execCoreFailInService_keeps (h : Keeps s t) {x0 x1} : KeepsNext s (execCoreFailInService x0 x1 t) := by
  unfold execCoreFailInService
  repeat' with_reducible first
    | exact h | assumption | apply State.coreFails_keeps | apply KeepsNext.next | split | dsimp only

theorem execFarrierCoreSubstitution_keeps (h : Keeps s t) {x0} : KeepsNext s (execFarrierCoreSubstitution x0 t) := by
  unfold execFarrierCoreSubstitution
  repeat' with_reducible first
    | exact h | assumption | apply State.setCore_keeps | apply State.noteFarrier_keeps | apply State.scheduleNext_keeps
    | apply State.setUnit_keeps | apply State.farCount_keeps | apply State.raiseTo_keeps | apply KeepsNext.next
    | refine Keeps.foldl (fun _ _ _ => ?_) ?_ | refine Keeps2.foldl (fun _ _ _ => ?_) ?_ | apply Keeps.ite
    | apply Keeps2.ite | apply KeepsNext.ite | apply Keeps2.snd | split | apply Keeps2.mk
    | refine Keeps2.of (by assumption) ?_ | dsimp only

theorem State.substituteOn_keeps (h : Keeps s t) {x1} : Keeps s (State.substituteOn t x1) := by
  unfold State.substituteOn
  repeat' with_reducible first
    | exact h | assumption | apply State.setCore_keeps | apply State.farCount_keeps | apply State.noteFarrier_keeps
    | apply State.raiseTo_keeps | refine Keeps.foldl (fun _ _ _ => ?_) ?_ | refine Keeps2.foldl (fun _ _ _ => ?_) ?_
    | apply Keeps2.snd | split | apply Keeps2.mk | refine Keeps2.of (by assumption) ?_ | dsimp only

theorem State.failedCoreOff_keeps (h : Keeps s t) {x1} : Keeps s (State.failedCoreOff t x1) := by
  unfold State.failedCoreOff
  repeat' with_reducible first
    | exact h | assumption | apply State.setCore_keeps | apply State.listCore_keeps | apply Keeps.ite | apply Keeps2.ite
    | apply Keeps2.snd | split | apply Keeps2.mk | refine Keeps2.of (by assumption) ?_ | dsimp only

theorem execSparePeriodicCheck_keeps (h : Keeps s t) {x0 x1} : KeepsNext s (execSparePeriodicCheck x0 x1 t) := by
  unfold execSparePeriodicCheck
  repeat' with_reducible first
    | exact h | assumption | apply State.pick_keeps | apply State.zeroRange_keeps | apply State.coreFails_keeps
    | apply KeepsNext.next | apply Keeps.ite | apply Keeps2.ite | apply KeepsNext.ite | simp only [Keeps.mk_iff]
    | apply KeepsParts.same | apply Keeps2.snd | split | apply Keeps2.mk | refine Keeps2.of (by assumption) ?_
    | dsimp only

theorem execFieldFailInService_keeps (h : Keeps s t) {x0 x1} : KeepsNext s (execFieldFailInService x0 x1 t) := by
  unfold execFieldFailInService
  repeat' with_reducible first
    | exact h | assumption | apply State.failUnit_keeps | apply KeepsNext.next | apply Keeps.ite | apply KeepsNext.ite
    | split | dsimp only

theorem State.failedFieldOff_keeps (h : Keeps s t) {x1 x2} : Keeps s (State.failedFieldOff t x1 x2) := by
  unfold State.failedFieldOff
  repeat' with_reducible first
    | exact h | assumption | apply State.noteFarrier_keeps | apply State.setDie_keeps | apply State.scheduleNext_keeps
    | apply State.farCount_keeps | apply State.setUnit_keeps | apply Keeps.ite | split | dsimp only

theorem State.reckonerFails_keeps (h : Keeps s t) {x1 x2} : Keeps s (State.reckonerFails t x1 x2) := by
  unfold State.reckonerFails
  repeat' with_reducible first
    | exact h | assumption | apply State.raiseTo_keeps | apply State.failUnit_keeps | apply State.farCount_keeps
    | refine Keeps.foldl (fun _ _ _ => ?_) ?_ | apply Keeps.ite | split | dsimp only

theorem execReckonerFail_keeps (h : Keeps s t) {x0} : KeepsNext s (execReckonerFail x0 t) := by
  unfold execReckonerFail
  repeat' with_reducible first
    | exact h | assumption | apply State.reckonerFails_keeps | apply KeepsNext.next | apply Keeps.ite | apply KeepsNext.ite
    | split | dsimp only

theorem State.failedReckonerOff_keeps (h : Keeps s t) {x1} : Keeps s (State.failedReckonerOff t x1) := by
  unfold State.failedReckonerOff
  repeat' with_reducible first
    | exact h | assumption | apply State.setDie_keeps | apply State.noteFarrier_keeps | apply State.scheduleNext_keeps
    | apply Keeps.ite | simp only [Keeps.mk_iff] | apply KeepsParts.same | split
    | dsimp only

theorem execReckonerRestartTimeout_keeps (h : Keeps s t) {x0 x1} : KeepsNext s (execReckonerRestartTimeout x0 x1 t) := by
  unfold execReckonerRestartTimeout
  repeat' with_reducible first
    | exact h | assumption | apply State.advance_keeps | apply State.reckonerFails_keeps | apply KeepsNext.next
    | apply Keeps.ite | apply KeepsNext.ite | split | dsimp only

theorem State.writeRstCtl_keeps (h : Keeps s t) {x1} : Keeps s (State.writeRstCtl t x1) := by
  unfold State.writeRstCtl
  repeat' with_reducible first
    | exact h | assumption | apply State.setRegF_keeps | apply State.setDie_keeps | apply State.schedule_keeps
    | refine Keeps.foldl (fun _ _ _ => ?_) ?_ | refine Keeps2.foldl (fun _ _ _ => ?_) ?_ | apply Keeps.ite
    | apply Keeps2.ite | apply Keeps2.snd | split | apply Keeps2.mk | refine Keeps2.of (by assumption) ?_ | dsimp only

theorem execReckonerPartialReset_keeps (h : Keeps s t) {x0 x1 x2} : KeepsNext s (execReckonerPartialReset x0 x1 x2 t) := by
  unfold execReckonerPartialReset
  repeat' with_reducible first
    | exact h | assumption | apply State.advance_keeps | apply State.writeRstCtl_keeps | apply KeepsNext.next
    | apply Keeps.ite | apply KeepsNext.ite | split | dsimp only

theorem State.swapLane_keeps (h : Keeps s t) {x1 x2 x3} : Keeps s (State.swapLane t x1 x2 x3) := by
  unfold State.swapLane
  repeat' with_reducible first
    | exact h | assumption | apply State.logFault_keeps | apply Keeps.ite | simp only [Keeps.mk_iff]
    | apply KeepsParts.same | split | dsimp only

theorem execLaneSpareSwap_keeps (h : Keeps s t) {x0 x1 x2 x3 x4} : KeepsNext s (execLaneSpareSwap x0 x1 x2 x3 x4 t) := by
  unfold execLaneSpareSwap
  repeat' with_reducible first
    | exact h | assumption | apply State.scheduleNext_keeps | apply State.logFault_keeps | apply KeepsNext.next
    | apply Keeps.ite | apply KeepsNext.ite | simp only [Keeps.mk_iff] | apply KeepsParts.same | split | dsimp only

theorem State.bundleFails_keeps (h : Keeps s t) {x1 x2 x3} : Keeps s (State.bundleFails t x1 x2 x3) := by
  unfold State.bundleFails
  repeat' with_reducible first
    | exact h | assumption | apply State.coreFails_keeps | apply State.countFieldFail_keeps | apply State.logFieldFail_keeps
    | apply State.reckonerFails_keeps | apply Keeps.ite | simp only [Keeps.mk_iff] | apply KeepsParts.same
    | apply KeepsParts.send | split | dsimp only

theorem execBundleFail_keeps (h : Keeps s t) {x0 x1 x2} : KeepsNext s (execBundleFail x0 x1 x2 t) := by
  unfold execBundleFail
  repeat' with_reducible first
    | exact h | assumption | apply State.bundleFails_keeps | apply KeepsNext.next | apply Keeps.ite | apply KeepsNext.ite
    | split | dsimp only

end Sys2Proof.Machine
end

