-- ==== Sys2Proof/Laws/KeepsLaser.lean ====
section
/-! SUPPORT. What the operations of Machine/Laser.lean keep (Laws/Keeps.lean). -/

namespace Sys2Proof.Machine

set_option linter.unusedTactic false
set_option linter.unreachableTactic false
set_option linter.unusedVariables false
set_option linter.unusedSimpArgs false

variable {s t u : State}

theorem State.setCart_keeps (h : Keeps s t) {x1 x2} : Keeps s (State.setCart t x1 x2) := by
  unfold State.setCart
  repeat' with_reducible first
    | exact h | assumption | simp only [Keeps.mk_iff] | apply KeepsParts.same | split | dsimp only

theorem State.setFeed_keeps (h : Keeps s t) {x1 x2} : Keeps s (State.setFeed t x1 x2) := by
  unfold State.setFeed
  repeat' with_reducible first
    | exact h | assumption | simp only [Keeps.mk_iff] | apply KeepsParts.same | split | dsimp only

theorem State.setQuad_keeps (h : Keeps s t) {x1 x2} : Keeps s (State.setQuad t x1 x2) := by
  unfold State.setQuad
  repeat' with_reducible first
    | exact h | assumption | simp only [Keeps.mk_iff] | apply KeepsParts.same | split | dsimp only

theorem State.logLas_keeps (h : Keeps s t) {x1 x2} : Keeps s (State.logLas t x1 x2) := by
  unfold State.logLas
  repeat' with_reducible first
    | exact h | assumption | apply State.logFault_keeps | split | dsimp only

theorem State.prepareSwap_keeps (h : Keeps s t) {x1 x2} : Keeps s (State.prepareSwap t x1 x2) := by
  unfold State.prepareSwap
  repeat' with_reducible first
    | exact h | assumption | apply State.setQuad_keeps | apply State.setCart_keeps | apply Keeps.ite | split | dsimp only

theorem State.wantSwap_keeps (h : Keeps s t) {x1 x2} : Keeps s (State.wantSwap t x1 x2) := by
  unfold State.wantSwap
  repeat' with_reducible first
    | exact h | assumption | apply State.prepareSwap_keeps | apply State.logLas_keeps | apply State.setCart_keeps
    | apply Keeps.ite | split | dsimp only

theorem State.fadeAtSwap_keeps (h : Keeps s t) {x1} : Keeps s (State.fadeAtSwap t x1) := by
  unfold State.fadeAtSwap
  repeat' with_reducible first
    | exact h | assumption | apply State.wantSwap_keeps | apply State.logLas_keeps | apply State.setCart_keeps
    | apply Keeps.ite | split | dsimp only

theorem State.command_keeps (h : Keeps s t) {x1 x2} : Keeps s (State.command t x1 x2) := by
  unfold State.command
  repeat' with_reducible first
    | exact h | assumption | apply State.setFeed_keeps | split | dsimp only

theorem State.switchBack_keeps (h : Keeps s t) {x1 x2} : Keeps s (State.switchBack t x1 x2) := by
  unfold State.switchBack
  repeat' with_reducible first
    | exact h | assumption | apply State.schedule_keeps | apply State.command_keeps | apply State.setFeed_keeps
    | apply Keeps.ite | split | dsimp only

theorem State.abortSwap_keeps (h : Keeps s t) {x1} : Keeps s (State.abortSwap t x1) := by
  unfold State.abortSwap
  repeat' with_reducible first
    | exact h | assumption | apply State.setCart_keeps | apply State.setQuad_keeps | apply State.logLas_keeps
    | apply State.switchBack_keeps | refine Keeps.foldl (fun _ _ _ => ?_) ?_ | apply Keeps.ite | split | dsimp only

theorem State.swapAll_keeps (h : Keeps s t) {x1} : Keeps s (State.swapAll t x1) := by
  unfold State.swapAll
  repeat' with_reducible first
    | exact h | assumption | apply State.setQuad_keeps | apply State.schedule_keeps
    | refine Keeps.foldl (fun _ _ _ => ?_) ?_ | split | dsimp only

theorem State.suddenLoss_keeps (h : Keeps s t) {x1} : Keeps s (State.suddenLoss t x1) := by
  unfold State.suddenLoss
  repeat' with_reducible first
    | exact h | assumption | apply State.setCart_keeps | apply State.setUnit_keeps | apply State.logLas_keeps
    | apply State.setQuad_keeps | apply State.setFeed_keeps | apply State.command_keeps
    | refine Keeps.foldl (fun _ _ _ => ?_) ?_ | apply Keeps.ite | simp only [Keeps.mk_iff] | apply KeepsParts.same
    | apply KeepsParts.send | split | dsimp only

theorem State.noteFade_keeps (h : Keeps s t) {x1} : Keeps s (State.noteFade t x1) := by
  unfold State.noteFade
  repeat' with_reducible first
    | exact h | assumption | apply State.setCart_keeps | apply State.logLas_keeps | apply Keeps.ite
    | simp only [Keeps.mk_iff] | apply KeepsParts.same | split | dsimp only

theorem State.noteCrit_keeps (h : Keeps s t) {x1} : Keeps s (State.noteCrit t x1) := by
  unfold State.noteCrit
  repeat' with_reducible first
    | exact h | assumption | apply State.setCart_keeps | apply State.logLas_keeps | apply Keeps.ite
    | simp only [Keeps.mk_iff] | apply KeepsParts.same | split | dsimp only

theorem State.judgeFade_keeps (h : Keeps s t) {x1} : Keeps s (State.judgeFade t x1) := by
  unfold State.judgeFade
  repeat' with_reducible first
    | exact h | assumption | apply State.noteFade_keeps | apply State.fadeAtSwap_keeps | apply State.setCart_keeps
    | apply State.noteCrit_keeps | apply State.swapAll_keeps | apply Keeps.ite | simp only [Keeps.mk_iff]
    | apply KeepsParts.same | split | dsimp only

theorem State.judgeSpare_keeps (h : Keeps s t) {x1} : Keeps s (State.judgeSpare t x1) := by
  unfold State.judgeSpare
  repeat' with_reducible first
    | exact h | assumption | apply State.noteFade_keeps | apply State.noteCrit_keeps | apply Keeps.ite | split
    | dsimp only

theorem State.judgePath_keeps (h : Keeps s t) {x1 x2} : Keeps s (State.judgePath t x1 x2) := by
  unfold State.judgePath
  repeat' with_reducible first
    | exact h | assumption | apply State.logLas_keeps | apply State.setFeed_keeps | apply State.schedule_keeps
    | apply Keeps.ite | split | dsimp only

theorem State.recordNominal_keeps (h : Keeps s t) {x1 x2 x3} : Keeps s (State.recordNominal t x1 x2 x3) := by
  unfold State.recordNominal
  repeat' with_reducible first
    | exact h | assumption | apply Keeps.ite | apply Keeps2.ite | simp only [Keeps.mk_iff] | apply KeepsParts.same
    | apply KeepsParts.send | apply Keeps2.snd | split | apply Keeps2.mk | refine Keeps2.of (by assumption) ?_ | dsimp only

theorem State.readMonitors_keeps (h : Keeps s t) {x1 x2 x3} : Keeps s (State.readMonitors t x1 x2 x3) := by
  unfold State.readMonitors
  repeat' with_reducible first
    | exact h | assumption | apply State.setCart_keeps | simp only [Keeps.mk_iff] | apply KeepsParts.same
    | apply KeepsParts.send | split | dsimp only

theorem State.keepSample_keeps (h : Keeps s t) {x1 x2} : Keeps s (State.keepSample t x1 x2) := by
  unfold State.keepSample
  repeat' with_reducible first
    | exact h | assumption | apply State.setFeed_keeps | simp only [Keeps.mk_iff] | apply KeepsParts.same
    | apply KeepsParts.send | split | dsimp only

theorem State.judgeSample_keeps (h : Keeps s t) {x1 x2 x3 x4} : Keeps s (State.judgeSample t x1 x2 x3 x4) := by
  unfold State.judgeSample
  repeat' with_reducible first
    | exact h | assumption | apply State.suddenLoss_keeps | apply State.judgePath_keeps | apply State.judgeFade_keeps
    | apply State.abortSwap_keeps | apply Keeps.ite | split | dsimp only

theorem execTapSample_keeps (h : Keeps s t) {x0 x1 x2 x3} : KeepsNext s (execTapSample x0 x1 x2 x3 t) := by
  unfold execTapSample
  repeat' with_reducible first
    | exact h | assumption | apply State.readMonitors_keeps | apply State.recordNominal_keeps
    | apply State.keepSample_keeps | apply State.judgeSpare_keeps | apply State.judgeSample_keeps | apply KeepsNext.next
    | apply Keeps.ite | apply KeepsNext.ite | split | dsimp only

theorem State.writeSwap_keeps (h : Keeps s t) {x1} : Keeps s (State.writeSwap t x1) := by
  unfold State.writeSwap
  repeat' with_reducible first
    | exact h | assumption | apply State.setQuad_keeps | apply State.wantSwap_keeps | apply Keeps.ite | split | dsimp only

theorem execPlannedSwap_keeps (h : Keeps s t) {x0 x1} : KeepsNext s (execPlannedSwap x0 x1 t) := by
  unfold execPlannedSwap
  repeat' with_reducible first
    | exact h | assumption | apply State.writeSwap_keeps | apply KeepsNext.next | apply Keeps.ite | apply KeepsNext.ite
    | split | dsimp only

theorem State.endSwap_keeps (h : Keeps s t) {x1} : Keeps s (State.endSwap t x1) := by
  unfold State.endSwap
  repeat' with_reducible first
    | exact h | assumption | apply State.setQuad_keeps | apply State.setCart_keeps | apply State.logLas_keeps
    | apply State.scheduleNext_keeps | apply Keeps.ite | split | dsimp only

theorem State.nextPlane_keeps (h : Keeps s t) {x1} : Keeps s (State.nextPlane t x1) := by
  unfold State.nextPlane
  repeat' with_reducible first
    | exact h | assumption | apply State.endSwap_keeps | apply State.scheduleNext_keeps | apply State.setQuad_keeps
    | apply Keeps.ite | split | dsimp only

theorem State.planeMoved_keeps (h : Keeps s t) {x1} : Keeps s (State.planeMoved t x1) := by
  unfold State.planeMoved
  repeat' with_reducible first
    | exact h | assumption | apply State.endSwap_keeps | apply State.setQuad_keeps | apply Keeps.ite | split | dsimp only

theorem State.returnPlane_keeps (h : Keeps s t) {x1} : Keeps s (State.returnPlane t x1) := by
  unfold State.returnPlane
  repeat' with_reducible first
    | exact h | assumption | apply State.setFeed_keeps | split | dsimp only

theorem State.settleFeed_keeps (h : Keeps s t) {x1 x2} : Keeps s (State.settleFeed t x1 x2) := by
  unfold State.settleFeed
  repeat' with_reducible first
    | exact h | assumption | apply State.setFeed_keeps | split | dsimp only

theorem execFeedSwitchSettled_keeps (h : Keeps s t) {x0 x1 x2 x3} : KeepsNext s (execFeedSwitchSettled x0 x1 x2 x3 t) := by
  unfold execFeedSwitchSettled
  repeat' with_reducible first
    | exact h | assumption | apply State.advance_keeps | apply State.returnPlane_keeps | apply State.settleFeed_keeps
    | apply State.setUnit_keeps | apply State.setFeed_keeps | apply State.planeMoved_keeps | apply State.recordNominal_keeps
    | apply State.abortSwap_keeps | apply State.logLas_keeps | apply KeepsNext.next | apply Keeps.ite | apply KeepsNext.ite
    | split | dsimp only

theorem execSwapGapExpiry_keeps (h : Keeps s t) {x0} : KeepsNext s (execSwapGapExpiry x0 t) := by
  unfold execSwapGapExpiry
  repeat' with_reducible first
    | exact h | assumption | apply State.nextPlane_keeps | apply KeepsNext.next | apply Keeps.ite | apply KeepsNext.ite
    | split | dsimp only

theorem execCartridgeSuddenLoss_keeps (h : Keeps s t) {x0} : KeepsNext s (execCartridgeSuddenLoss x0 t) := by
  unfold execCartridgeSuddenLoss
  repeat' with_reducible first
    | exact h | assumption | apply State.suddenLoss_keeps | apply KeepsNext.next | apply Keeps.ite | apply KeepsNext.ite
    | split | dsimp only

theorem execCartridgeRemoved_keeps (h : Keeps s t) {x0} : KeepsNext s (execCartridgeRemoved x0 t) := by
  unfold execCartridgeRemoved
  repeat' with_reducible first
    | exact h | assumption | apply State.logLas_keeps | apply State.suddenLoss_keeps | apply State.abortSwap_keeps
    | apply State.setUnit_keeps | apply State.setCart_keeps | apply KeepsNext.next | apply Keeps.ite | apply KeepsNext.ite
    | split | dsimp only

theorem execCartridgeInserted_keeps (h : Keeps s t) {x0 x1} : KeepsNext s (execCartridgeInserted x0 x1 t) := by
  unfold execCartridgeInserted
  repeat' with_reducible first
    | exact h | assumption | apply State.setUnit_keeps | apply State.setCart_keeps | apply KeepsNext.next | apply Keeps.ite
    | apply KeepsNext.ite | split | dsimp only

theorem State.cartDisable_keeps (h : Keeps s t) {x1 x2} : Keeps s (State.cartDisable t x1 x2) := by
  unfold State.cartDisable
  repeat' with_reducible first
    | exact h | assumption | apply State.requestDisable_keeps | apply State.setUnit_keeps | apply State.prepareSwap_keeps
    | apply State.setCart_keeps | apply State.schedule_keeps | refine Keeps.foldl (fun _ _ _ => ?_) ?_ | apply Keeps.ite
    | split | dsimp only

theorem State.writeCartCtl_keeps (h : Keeps s t) {x1 x2} : Keeps s (State.writeCartCtl t x1 x2) := by
  unfold State.writeCartCtl
  repeat' with_reducible first
    | exact h | assumption | apply State.setReg_keeps | apply State.requestEnable_keeps | apply State.cartDisable_keeps
    | apply Keeps.ite | split | dsimp only

theorem execCartridgeDisable_keeps (h : Keeps s t) {x0 x1 x2 x3} : KeepsNext s (execCartridgeDisable x0 x1 x2 x3 t) := by
  unfold execCartridgeDisable
  repeat' with_reducible first
    | exact h | assumption | apply State.advance_keeps | apply State.writeCartCtl_keeps | apply KeepsNext.next
    | apply Keeps.ite | apply KeepsNext.ite | split | dsimp only

theorem State.dropPrepare_keeps (h : Keeps s t) {x1} : Keeps s (State.dropPrepare t x1) := by
  unfold State.dropPrepare
  repeat' with_reducible first
    | exact h | assumption | apply State.setQuad_keeps | apply State.logLas_keeps | apply State.setCart_keeps | split
    | dsimp only

theorem execSpareBecomesFit_keeps (h : Keeps s t) {x0 x1} : KeepsNext s (execSpareBecomesFit x0 x1 t) := by
  unfold execSpareBecomesFit
  repeat' with_reducible first
    | exact h | assumption | apply State.setCart_keeps | apply State.command_keeps | apply State.dropPrepare_keeps
    | apply KeepsNext.next | refine Keeps.foldl (fun _ _ _ => ?_) ?_ | apply Keeps.ite | apply KeepsNext.ite | split
    | dsimp only

theorem State.cartOn_keeps (h : Keeps s t) {x1} : Keeps s (State.cartOn t x1) := by
  unfold State.cartOn
  repeat' with_reducible first
    | exact h | assumption | apply State.setCart_keeps | apply State.returnPlane_keeps | apply State.setFeed_keeps
    | apply State.command_keeps | apply State.setQuad_keeps | refine Keeps.foldl (fun _ _ _ => ?_) ?_ | apply Keeps.ite
    | split | dsimp only

theorem State.laserPlaneOff_keeps (h : Keeps s t) {x1} : Keeps s (State.laserPlaneOff t x1) := by
  unfold State.laserPlaneOff
  repeat' with_reducible first
    | exact h | assumption | apply State.setFeed_keeps | apply State.scheduleNext_keeps | apply Keeps.ite
    | simp only [Keeps.mk_iff] | apply KeepsParts.same | split | dsimp only

theorem State.commandOff_keeps (h : Keeps s t) {x1} : Keeps s (State.commandOff t x1) := by
  unfold State.commandOff
  repeat' with_reducible first
    | exact h | assumption | apply State.command_keeps | refine Keeps.foldl (fun _ _ _ => ?_) ?_ | apply Keeps.ite | split
    | dsimp only

theorem State.followMode_keeps (h : Keeps s t) {x1} : Keeps s (State.followMode t x1) := by
  unfold State.followMode
  repeat' with_reducible first
    | exact h | assumption | apply State.setCart_keeps | apply Keeps.ite | split | dsimp only

theorem State.takeLight_keeps (h : Keeps s t) {x1} : Keeps s (State.takeLight t x1) := by
  unfold State.takeLight
  repeat' with_reducible first
    | exact h | assumption | apply State.command_keeps | apply Keeps.ite | split | dsimp only

theorem State.swapBoundary_keeps (h : Keeps s t) : Keeps s (State.swapBoundary t) := by
  unfold State.swapBoundary
  repeat' with_reducible first
    | exact h | assumption | apply State.nextPlane_keeps | apply State.logLas_keeps | apply State.setQuad_keeps
    | apply Keeps.ite | split | dsimp only

theorem State.cartStarted_keeps (h : Keeps s t) {x1} : Keeps s (State.cartStarted t x1) := by
  unfold State.cartStarted
  repeat' with_reducible first
    | exact h | assumption | apply State.setFeed_keeps | apply State.setUnit_keeps | refine Keeps.foldl (fun _ _ _ => ?_) ?_
    | apply Keeps.ite | split | dsimp only

end Sys2Proof.Machine
end

