-- ==== Sys2Proof/Laws/KeepsMemory.lean ====
section
/-! SUPPORT. What the operations of Machine/Memory.lean keep (Laws/Keeps.lean). -/

namespace Sys2Proof.Machine

set_option linter.unusedTactic false
set_option linter.unreachableTactic false
set_option linter.unusedVariables false
set_option linter.unusedSimpArgs false

variable {s t u : State}

theorem execTallyPatrol_keeps (h : Keeps s t) {x0 x1 x2} : KeepsNext s (execTallyPatrol x0 x1 x2 t) := by
  unfold execTallyPatrol
  repeat' with_reducible first
    | exact h | assumption | apply State.setTallyErr_keeps | apply State.bump_keeps | apply State.tallyWordsLost_keeps
    | apply KeepsNext.next | apply Keeps.ite | apply KeepsNext.ite | split | dsimp only

theorem State.notePoison_keeps (h : Keeps s t) : Keeps s (State.notePoison t) := by
  unfold State.notePoison
  repeat' with_reducible first
    | exact h | assumption | apply State.pagesLost_keeps | apply Keeps.ite | simp only [Keeps.mk_iff]
    | apply KeepsParts.same | split | dsimp only

theorem execPatrolScrub_keeps (h : Keeps s t) {x0 x1} : KeepsNext s (execPatrolScrub x0 x1 t) := by
  unfold execPatrolScrub
  repeat' with_reducible first
    | exact h | assumption | apply State.setLineErr_keeps | apply State.notePoison_keeps | apply State.logFault_keeps
    | apply State.poisonLine_keeps | apply State.countCorrected_keeps | apply KeepsNext.next | apply Keeps.ite
    | apply KeepsNext.ite | split | dsimp only

theorem execRefreshManagement_keeps (h : Keeps s t) {x0 x1} : KeepsNext s (execRefreshManagement x0 x1 t) := by
  unfold execRefreshManagement
  repeat' with_reducible first
    | exact h | assumption | apply State.setStack_keeps | apply KeepsNext.next | apply Keeps.ite | apply KeepsNext.ite
    | split | dsimp only

theorem execRetrainStart_keeps (h : Keeps s t) {x0 x1} : KeepsNext s (execRetrainStart x0 x1 t) := by
  unfold execRetrainStart
  repeat' with_reducible first
    | exact h | assumption | apply State.setStack_keeps | apply KeepsNext.next | apply Keeps.ite | apply KeepsNext.ite
    | split | dsimp only

theorem execTrainingBurst_keeps (h : Keeps s t) {x0 x1} : KeepsNext s (execTrainingBurst x0 x1 t) := by
  unfold execTrainingBurst
  repeat' with_reducible first
    | exact h | assumption | apply State.setStack_keeps | apply KeepsNext.next | apply Keeps.ite | apply KeepsNext.ite
    | split | dsimp only

theorem execTrainingBurstComplete_keeps (h : Keeps s t) {x0 x1} : KeepsNext s (execTrainingBurstComplete x0 x1 t) := by
  unfold execTrainingBurstComplete
  repeat' with_reducible first
    | exact h | assumption | apply State.setStack_keeps | apply State.detectLoss_keeps | apply KeepsNext.next
    | apply Keeps.ite | apply KeepsNext.ite | split | dsimp only

theorem execRowRepair_keeps (h : Keeps s t) {x0 x1 x2} : KeepsNext s (execRowRepair x0 x1 x2 t) := by
  unfold execRowRepair
  repeat' with_reducible first
    | exact h | assumption | apply State.setStack_keeps | apply State.logFault_keeps | apply KeepsNext.next
    | apply Keeps.ite | apply Keeps2.ite | apply KeepsNext.ite | simp only [Keeps.mk_iff] | apply KeepsParts.same
    | apply KeepsParts.send | apply Keeps2.snd | split | apply Keeps2.mk | refine Keeps2.of (by assumption) ?_ | dsimp only

theorem State.trained_keeps (h : Keeps s t) {x1} : Keeps s (State.trained t x1) := by
  unfold State.trained
  repeat' with_reducible first
    | exact h | assumption | apply State.setStack_keeps | split | dsimp only

theorem execStackLost_keeps (h : Keeps s t) {x0} : KeepsNext s (execStackLost x0 t) := by
  unfold execStackLost
  repeat' with_reducible first
    | exact h | assumption | apply State.detectLoss_keeps | apply KeepsNext.next | split | dsimp only

theorem execFoldFillComplete_keeps (h : Keeps s t) : KeepsNext s (execFoldFillComplete t) := by
  unfold execFoldFillComplete
  repeat' with_reducible first
    | exact h | assumption | apply KeepsNext.next | apply Keeps.ite | apply KeepsNext.ite | simp only [Keeps.mk_iff]
    | apply KeepsParts.same | split | dsimp only

theorem State.evacuated_keeps (h : Keeps s t) {x1} : Keeps s (State.evacuated t x1) := by
  unfold State.evacuated
  repeat' with_reducible first
    | exact h | assumption | apply State.poisonLine_keeps | apply State.setLineErr_keeps
    | apply State.countCorrected_keeps | apply Keeps.ite | refine Keeps.foldl (fun _ _ _ => ?_) ?_ | split | dsimp only

theorem execStackEvacuationComplete_keeps (h : Keeps s t) {x0} : KeepsNext s (execStackEvacuationComplete x0 t) := by
  unfold execStackEvacuationComplete
  repeat' with_reducible first
    | exact h | assumption | apply State.evacuated_keeps | apply KeepsNext.next | apply Keeps.ite | apply KeepsNext.ite
    | simp only [Keeps.mk_iff] | apply KeepsParts.same | split | dsimp only

theorem State.beginRetirement_keeps (h : Keeps s t) {x1} : Keeps s (State.beginRetirement t x1) := by
  unfold State.beginRetirement
  repeat' with_reducible first
    | exact h | assumption | simp only [Keeps.mk_iff] | apply KeepsParts.same | split | dsimp only

theorem execHistoryWaitTimeout_keeps (h : Keeps s t) {x0} : KeepsNext s (execHistoryWaitTimeout x0 t) := by
  unfold execHistoryWaitTimeout
  repeat' with_reducible first
    | exact h | assumption | apply State.advance_keeps | apply State.historyLost_keeps | apply KeepsNext.next
    | refine Keeps.foldl (fun _ _ _ => ?_) ?_ | refine Keeps2.foldl (fun _ _ _ => ?_) ?_ | apply Keeps.ite
    | apply Keeps2.ite | apply KeepsNext.ite | simp only [Keeps.mk_iff] | apply KeepsParts.same | apply Keeps2.snd | split
    | apply Keeps2.mk | refine Keeps2.of (by assumption) ?_ | dsimp only

theorem State.enterFolded_keeps (h : Keeps s t) : Keeps s (State.enterFolded t) := by
  unfold State.enterFolded
  repeat' with_reducible first
    | exact h | assumption | apply State.logFault_keeps | apply State.stableAfterFold_keeps | apply Keeps.ite
    | simp only [Keeps.mk_iff] | apply KeepsParts.same | split | dsimp only

theorem State.enterFailed_keeps (h : Keeps s t) {x1} : Keeps s (State.enterFailed t x1) := by
  unfold State.enterFailed
  repeat' with_reducible first
    | exact h | assumption | apply State.logFault_keeps | apply State.raiseTo_keeps
    | refine Keeps.foldl (fun _ _ _ => ?_) ?_ | simp only [Keeps.mk_iff] | apply KeepsParts.same | split | dsimp only

theorem State.drainCores_keeps (h : Keeps s t) : Keeps s (State.drainCores t) := by
  unfold State.drainCores
  repeat' with_reducible first
    | exact h | assumption | simp only [Keeps.mk_iff] | apply KeepsParts.same | split | dsimp only

theorem State.memoryBoundary_keeps (h : Keeps s t) : Keeps s (State.memoryBoundary t) := by
  unfold State.memoryBoundary
  repeat' with_reducible first
    | exact h | assumption | apply State.notePoison_keeps | apply State.enterFailed_keeps | apply State.enterFolded_keeps
    | apply State.drainCores_keeps | apply State.setStack_keeps | refine Keeps.foldl (fun _ _ _ => ?_) ?_
    | refine Keeps2.foldl (fun _ _ _ => ?_) ?_ | apply Keeps.ite | apply Keeps2.ite | simp only [Keeps.mk_iff]
    | apply KeepsParts.same | apply Keeps2.snd | split | apply Keeps2.mk | refine Keeps2.of (by assumption) ?_ | dsimp only

end Sys2Proof.Machine
end

