-- ==== Sys2Proof/Laws/KeepsDataMover.lean ====
section
/-! SUPPORT. What the operations of Machine/DataMover.lean keep (Laws/Keeps.lean). -/

namespace Sys2Proof.Machine

set_option linter.unusedTactic false
set_option linter.unreachableTactic false
set_option linter.unusedVariables false
set_option linter.unusedSimpArgs false

variable {s t u : State}

theorem State.unmapped_keeps (h : Keeps s t) {x1 x2} : Keeps s (State.unmapped t x1 x2) := by
  unfold State.unmapped
  repeat' with_reducible first
    | exact h | assumption | apply State.raiseTo_keeps | split | dsimp only

theorem State.moveStore_keeps (h : Keeps s t) {x1 x2 x3 x4 x5 x6 x7} : Keeps3 s (State.moveStore t x1 x2 x3 x4 x5 x6 x7) := by
  unfold State.moveStore
  repeat' with_reducible first
    | exact h | assumption | apply State.putTxn_keeps | apply State.store_keeps | apply State.setCore_keeps
    | apply State.dropTxn_keeps | apply Keeps.ite | apply Keeps2.ite | apply Keeps3.ite | apply Keeps3.snd
    | apply Keeps2.snd | split | apply Keeps3.mk | refine Keeps3.of (by assumption) ?_ | apply Keeps2.mk
    | refine Keeps2.of (by assumption) ?_ | dsimp only

theorem State.movePut_keeps (h : Keeps s t) {x1 x2 x3 x4 x5 x6 x7} : Keeps3 s (State.movePut t x1 x2 x3 x4 x5 x6 x7) := by
  unfold State.movePut
  repeat' with_reducible first
    | exact h | assumption | apply State.moveStore_keeps | apply Keeps.ite | apply Keeps2.ite | apply Keeps3.ite
    | apply Keeps2.snd | apply Keeps3.snd | split | apply Keeps2.mk | apply Keeps3.mk | refine Keeps2.of (by assumption) ?_
    | refine Keeps3.of (by assumption) ?_ | dsimp only

theorem State.movePiece_keeps (h : Keeps s t) {x1 x2 x3 x4 x5 x6} : Keeps3 s (State.movePiece t x1 x2 x3 x4 x5 x6) := by
  unfold State.movePiece
  repeat' with_reducible first
    | exact h | assumption | apply State.movePut_keeps | apply State.load_keeps | apply State.putTxn_keeps | apply Keeps.ite
    | apply Keeps2.ite | apply Keeps3.ite | apply Keeps2.snd | apply Keeps3.snd | split | apply Keeps2.mk | apply Keeps3.mk
    | refine Keeps2.of (by assumption) ?_ | refine Keeps3.of (by assumption) ?_ | dsimp only

theorem State.movePieces_keeps (h : Keeps s t) {x1 x2 x3 x4 x5 x6} : Keeps3 s (State.movePieces t x1 x2 x3 x4 x5 x6) := by
  induction x6 generalizing t x1 x2 x3 x4 x5 with
  | nil =>
    rw [State.movePieces]
    repeat' with_reducible first
    | exact h | assumption | apply State.movePiece_keeps | apply Keeps2.snd | apply Keeps3.snd | split
      | apply Keeps2.mk | apply Keeps3.mk | refine Keeps2.of (by assumption) ?_ | refine Keeps3.of (by assumption) ?_
      | dsimp only
  | cons p l ih =>
    rcases p with ⟨_, _, _⟩
    rw [State.movePieces]
    repeat' with_reducible first
    | exact h | assumption | apply ih | apply State.movePiece_keeps | apply Keeps2.snd | apply Keeps3.snd | split
      | apply Keeps2.mk | apply Keeps3.mk | refine Keeps2.of (by assumption) ?_ | refine Keeps3.of (by assumption) ?_
      | dsimp only

theorem State.moveRow_keeps (h : Keeps s t) {x1 x2 x3 x4} : Keeps3 s (State.moveRow t x1 x2 x3 x4) := by
  unfold State.moveRow
  repeat' with_reducible first
    | exact h | assumption | apply State.unmapped_keeps | apply State.movePieces_keeps | apply Keeps.ite | apply Keeps2.ite
    | apply Keeps3.ite | apply Keeps2.snd | apply Keeps3.snd | split | apply Keeps2.mk | apply Keeps3.mk
    | refine Keeps2.of (by assumption) ?_ | refine Keeps3.of (by assumption) ?_ | dsimp only

theorem State.moveRows_keeps (h : Keeps s t) {x1 x2 x3 x4} : Keeps3 s (State.moveRows t x1 x2 x3 x4) := by
  induction x4 generalizing t x1 x2 x3 with
  | nil =>
    rw [State.moveRows]
    repeat' with_reducible first
    | exact h | assumption | apply State.moveRow_keeps | apply Keeps2.snd | apply Keeps3.snd | split
      | apply Keeps2.mk | apply Keeps3.mk | refine Keeps2.of (by assumption) ?_ | refine Keeps3.of (by assumption) ?_
      | dsimp only
  | cons p l ih =>
    rw [State.moveRows]
    repeat' with_reducible first
    | exact h | assumption | apply ih | apply State.moveRow_keeps | apply Keeps2.snd | apply Keeps3.snd | split
      | apply Keeps2.mk | apply Keeps3.mk | refine Keeps2.of (by assumption) ?_ | refine Keeps3.of (by assumption) ?_
      | dsimp only

theorem execMove_keeps (h : Keeps s t) {x0} : KeepsNext s (execMove x0 t) := by
  unfold execMove
  repeat' with_reducible first
    | exact h | assumption | apply State.moveRows_keeps | apply State.refillFor_keeps | apply State.complete_keeps
    | apply KeepsNext.next | apply Keeps.ite | apply Keeps2.ite | apply Keeps3.ite | apply KeepsNext.ite | apply Keeps2.snd
    | apply Keeps3.snd | split | apply Keeps2.mk | apply Keeps3.mk | refine Keeps2.of (by assumption) ?_
    | refine Keeps3.of (by assumption) ?_ | dsimp only

theorem State.gatherPiece_keeps (h : Keeps s t) {x1 x2 x3 x4} : Keeps2 s (State.gatherPiece t x1 x2 x3 x4) := by
  unfold State.gatherPiece
  repeat' with_reducible first
    | exact h | assumption | apply State.load_keeps | apply State.store_keeps | apply State.putTxn_keeps | apply Keeps2.snd
    | apply Keeps3.snd | split | apply Keeps2.mk | apply Keeps3.mk | refine Keeps2.of (by assumption) ?_
    | refine Keeps3.of (by assumption) ?_ | dsimp only

theorem State.gatherPieces_keeps (h : Keeps s t) {x1 x2 x3 x4 x5} : Keeps2 s (State.gatherPieces t x1 x2 x3 x4 x5) := by
  induction x5 generalizing t x1 x2 x3 x4 with
  | nil =>
    rw [State.gatherPieces]
    repeat' with_reducible first
    | exact h | assumption | apply State.gatherPiece_keeps | apply Keeps2.snd | split | apply Keeps2.mk
      | refine Keeps2.of (by assumption) ?_ | dsimp only
  | cons p l ih =>
    rw [State.gatherPieces]
    repeat' with_reducible first
    | exact h | assumption | apply ih | apply State.gatherPiece_keeps | apply Keeps2.snd | split | apply Keeps2.mk
      | refine Keeps2.of (by assumption) ?_ | dsimp only

theorem State.gatherRow_keeps (h : Keeps s t) {x1 x2 x3 x4 x5} : Keeps2 s (State.gatherRow t x1 x2 x3 x4 x5) := by
  unfold State.gatherRow
  repeat' with_reducible first
    | exact h | assumption | apply State.store_keeps | apply State.unmapped_keeps | apply State.gatherPieces_keeps
    | apply Keeps.ite | apply Keeps2.ite | apply Keeps2.snd | split | apply Keeps2.mk | refine Keeps2.of (by assumption) ?_
    | dsimp only

theorem State.gatherRows_keeps (h : Keeps s t) {x1 x2 x3 x4} : Keeps2 s (State.gatherRows t x1 x2 x3 x4) := by
  induction x4 generalizing t x1 x2 x3 with
  | nil =>
    rw [State.gatherRows]
    repeat' with_reducible first
    | exact h | assumption | apply State.gatherRow_keeps | apply Keeps2.snd | split | apply Keeps2.mk
      | refine Keeps2.of (by assumption) ?_ | dsimp only
  | cons p l ih =>
    rw [State.gatherRows]
    repeat' with_reducible first
    | exact h | assumption | apply ih | apply State.gatherRow_keeps | apply Keeps2.snd | split | apply Keeps2.mk
      | refine Keeps2.of (by assumption) ?_ | dsimp only

theorem execGather_keeps (h : Keeps s t) {x0} : KeepsNext s (execGather x0 t) := by
  unfold execGather
  repeat' with_reducible first
    | exact h | assumption | apply State.load_keeps | apply State.refillFor_keeps | apply State.gatherRows_keeps
    | apply State.complete_keeps | apply KeepsNext.next | apply Keeps.ite | apply Keeps2.ite | apply Keeps3.ite
    | apply KeepsNext.ite | apply Keeps2.snd | apply Keeps3.snd | split | apply Keeps2.mk | apply Keeps3.mk
    | refine Keeps2.of (by assumption) ?_ | refine Keeps3.of (by assumption) ?_ | dsimp only

theorem State.noteTxn_keeps (h : Keeps s t) {x1 x2 x3 x4} : Keeps s (State.noteTxn t x1 x2 x3 x4) := by
  unfold State.noteTxn
  repeat' with_reducible first
    | exact h | assumption | apply State.setQueue_keeps | apply Keeps.ite | apply KeepsNext.ite
    | simp only [Keeps.mk_iff] | apply KeepsParts.same | split | dsimp only

theorem State.dropTxn_keeps (h : Keeps s t) {x1 x2} : Keeps s (State.dropTxn t x1 x2) := by
  unfold State.dropTxn
  repeat' with_reducible first
    | exact h | assumption | apply State.setCore_keeps | split | dsimp only

theorem State.txnDone_keeps (h : Keeps s t) {x1 x2 x3 x4} : Keeps s (State.txnDone t x1 x2 x3 x4) := by
  unfold State.txnDone
  repeat' with_reducible first
    | exact h | assumption | apply State.dropTxn_keeps | apply State.recordDone_keeps | apply State.overrun_keeps
    | apply State.refillFor_keeps | apply State.noteTxn_keeps | apply State.moveStore_keeps | apply Keeps.ite
    | apply Keeps3.ite | apply Keeps3.snd | apply Keeps2.snd | split | apply Keeps3.mk
    | refine Keeps3.of (by assumption) ?_ | apply Keeps2.mk | dsimp only

end Sys2Proof.Machine
end

