-- ==== Sys2Proof/Laws/KeepsEduUnit.lean ====
section
/-! SUPPORT. What the operations of Machine/EduUnit.lean keep (Laws/Keeps.lean). -/

namespace Sys2Proof.Machine

set_option linter.unusedTactic false
set_option linter.unreachableTactic false
set_option linter.unusedVariables false
set_option linter.unusedSimpArgs false

variable {s t u : State}

theorem State.readLayer_keeps (h : Keeps s t) {x1} : Keeps2 s (State.readLayer t x1) := by
  unfold State.readLayer
  repeat' with_reducible first
    | exact h | assumption | apply State.loadWords_keeps | apply Keeps2.snd | split | apply Keeps2.mk
    | refine Keeps2.of (by assumption) ?_ | dsimp only

theorem State.readPlace_keeps (h : Keeps s t) {x1 x2} : Keeps2 s (State.readPlace t x1 x2) := by
  unfold State.readPlace
  repeat' with_reducible first
    | exact h | assumption | apply State.loadWords_keeps | apply Keeps.ite | apply Keeps2.ite | apply Keeps2.snd | split
    | apply Keeps2.mk | refine Keeps2.of (by assumption) ?_ | dsimp only

theorem State.setEdu_keeps (h : Keeps s t) {x1} : Keeps s (State.setEdu t x1) := by
  unfold State.setEdu
  repeat' with_reducible first
    | exact h | assumption | simp only [Keeps.mk_iff] | apply KeepsParts.same | split | dsimp only

theorem State.eduSend_keeps (h : Keeps s t) {x1 x2 x3 x4 x5 x6 x7 x8 x9} : Keeps s (State.eduSend t x1 x2 x3 x4 x5 x6 x7 x8 x9) := by
  unfold State.eduSend
  repeat' with_reducible first
    | exact h | assumption | apply Keeps.ite | apply Keeps2.ite | simp only [Keeps.mk_iff] | apply KeepsParts.same
    | apply KeepsParts.send | apply Keeps2.snd | split | apply Keeps2.mk | refine Keeps2.of (by assumption) ?_ | dsimp only

theorem State.recordResolution_keeps (h : Keeps s t) {x1 x2 x3 x4} : Keeps s (State.recordResolution t x1 x2 x3 x4) := by
  unfold State.recordResolution
  repeat' with_reducible first
    | exact h | assumption | apply State.setEdu_keeps | apply State.raiseTo_keeps | apply Keeps.ite | split | dsimp only

theorem State.resolve_keeps (h : Keeps s t) {x1 x2} : Keeps s (State.resolve t x1 x2) := by
  unfold State.resolve
  repeat' with_reducible first
    | exact h | assumption | apply State.recordResolution_keeps | apply State.eduSend_keeps | apply Keeps.ite
    | apply Keeps2.ite | apply Keeps2.snd | split | apply Keeps2.mk | refine Keeps2.of (by assumption) ?_ | dsimp only

theorem State.dropSelection_keeps (h : Keeps s t) {x1} : Keeps s (State.dropSelection t x1) := by
  unfold State.dropSelection
  repeat' with_reducible first
    | exact h | assumption | apply State.resolve_keeps | apply State.bump_keeps | split | dsimp only

theorem State.overflow_keeps (h : Keeps s t) {x1 x2 x3} : Keeps s (State.overflow t x1 x2 x3) := by
  unfold State.overflow
  repeat' with_reducible first
    | exact h | assumption | apply State.dropSelection_keeps | apply State.setEdu_keeps | apply State.bump_keeps
    | apply State.readPlace_keeps | apply State.eduSend_keeps | apply Keeps.ite | apply Keeps2.ite | apply Keeps2.snd
    | split | apply Keeps2.mk | refine Keeps2.of (by assumption) ?_ | dsimp only

theorem State.eduArrive_keeps (h : Keeps s t) {x1 x2} : Keeps s (State.eduArrive t x1 x2) := by
  unfold State.eduArrive
  repeat' with_reducible first
    | exact h | assumption | apply State.setEdu_keeps | apply State.readPlace_keeps | apply State.overflow_keeps
    | apply Keeps.ite | apply Keeps2.ite | apply Keeps2.snd | split | apply Keeps2.mk | refine Keeps2.of (by assumption) ?_
    | dsimp only

theorem State.homesOf_keeps (h : Keeps s t) {x1 x2} : Keeps2 s (State.homesOf t x1 x2) := by
  induction x2 generalizing t x1 with
  | nil =>
    rw [State.homesOf]
    repeat' with_reducible first
    | exact h | assumption | apply State.readPlace_keeps | apply Keeps2.snd | split | apply Keeps2.mk
      | refine Keeps2.of (by assumption) ?_ | dsimp only
  | cons p l ih =>
    rcases p with ⟨_, _⟩
    rw [State.homesOf]
    repeat' with_reducible first
    | exact h | assumption | apply ih | apply State.readPlace_keeps | apply Keeps2.snd | split | apply Keeps2.mk
      | refine Keeps2.of (by assumption) ?_ | dsimp only

theorem State.abandon_keeps (h : Keeps s t) {x1} : Keeps s (State.abandon t x1) := by
  unfold State.abandon
  repeat' with_reducible first
    | exact h | assumption | apply State.resolve_keeps | apply State.bump_keeps | split | dsimp only

theorem State.sendToken_keeps (h : Keeps s t) {x1 x2 x3 x4 x5} : Keeps s (State.sendToken t x1 x2 x3 x4 x5) := by
  unfold State.sendToken
  repeat' with_reducible first
    | exact h | assumption | apply State.load_keeps | apply State.recordResolution_keeps | apply State.bump_keeps
    | apply State.homesOf_keeps | apply State.eduSend_keeps | apply State.eduArrive_keeps
    | refine Keeps.foldl (fun _ _ _ => ?_) ?_ | refine Keeps2.foldl (fun _ _ _ => ?_) ?_
    | refine Keeps3.foldl (fun _ _ _ => ?_) ?_ | apply Keeps.ite | apply Keeps2.ite | apply Keeps3.ite | apply Keeps2.snd
    | apply Keeps3.snd | split | apply Keeps2.mk | apply Keeps3.mk | refine Keeps2.of (by assumption) ?_
    | refine Keeps3.of (by assumption) ?_ | dsimp only

theorem State.abandonAll_keeps (h : Keeps s t) {x1 x2 x3} : Keeps s (State.abandonAll t x1 x2 x3) := by
  unfold State.abandonAll
  repeat' with_reducible first
    | exact h | assumption | apply State.raiseTo_keeps | apply State.bump_keeps | refine Keeps.foldl (fun _ _ _ => ?_) ?_
    | split | dsimp only

theorem State.dispatch_keeps (h : Keeps s t) {x1 x2 x3} : Keeps s (State.dispatch t x1 x2 x3) := by
  unfold State.dispatch
  repeat' with_reducible first
    | exact h | assumption | apply State.readLayer_keeps | apply State.load_keeps | apply State.setEdu_keeps
    | apply State.raiseTo_keeps | apply State.abandonAll_keeps | apply State.bump_keeps | apply State.sendToken_keeps
    | apply State.complete_keeps | refine Keeps.foldl (fun _ _ _ => ?_) ?_ | refine Keeps2.foldl (fun _ _ _ => ?_) ?_
    | refine Keeps3.foldl (fun _ _ _ => ?_) ?_ | apply Keeps.ite | apply Keeps2.ite | apply Keeps3.ite | apply Keeps2.snd
    | apply Keeps3.snd | split | apply Keeps2.mk | apply Keeps3.mk | refine Keeps2.of (by assumption) ?_
    | refine Keeps3.of (by assumption) ?_ | dsimp only

theorem execDispatch_keeps (h : Keeps s t) {x0} : KeepsNext s (execDispatch x0 t) := by
  unfold execDispatch
  repeat' with_reducible first
    | exact h | assumption | apply State.dispatch_keeps | apply KeepsNext.next | apply Keeps.ite | apply KeepsNext.ite
    | split | dsimp only

theorem State.eduMessage_keeps (h : Keeps s t) {x1 x2 x3 x4 x5 x6 x7 x8 x9 x10} : Keeps s (State.eduMessage t x1 x2 x3 x4 x5 x6 x7 x8 x9 x10) := by
  unfold State.eduMessage
  repeat' with_reducible first
    | exact h | assumption | apply State.readLayer_keeps | apply State.eduArrive_keeps
    | apply State.recordResolution_keeps | apply Keeps.ite | apply Keeps2.ite | refine Keeps.foldl (fun _ _ _ => ?_) ?_
    | refine Keeps2.foldl (fun _ _ _ => ?_) ?_ | apply Keeps2.snd | split | apply Keeps2.mk
    | refine Keeps2.of (by assumption) ?_ | dsimp only

theorem execEduMessageReceive_keeps (h : Keeps s t) {x0 x1 x2 x3 x4 x5 x6 x7 x8 x9} : KeepsNext s (execEduMessageReceive x0 x1 x2 x3 x4 x5 x6 x7 x8 x9 t) := by
  unfold execEduMessageReceive
  repeat' with_reducible first
    | exact h | assumption | apply State.advance_keeps | apply State.eduMessage_keeps | apply KeepsNext.next | split
    | dsimp only

theorem State.eduComplete_keeps (h : Keeps s t) {x1 x2} : Keeps s (State.eduComplete t x1 x2) := by
  unfold State.eduComplete
  repeat' with_reducible first
    | exact h | assumption | apply State.eduMessage_keeps | apply Keeps.ite | split | dsimp only

theorem State.eduPart_keeps (h : Keeps s t) {x1 x2 x3} : Keeps s (State.eduPart t x1 x2 x3) := by
  unfold State.eduPart
  repeat' with_reducible first
    | exact h | assumption | apply State.setEdu_keeps | apply State.eduComplete_keeps | apply Keeps.ite
    | simp only [Keeps.mk_iff] | apply KeepsParts.same | split | dsimp only

theorem State.overflowAll_keeps (h : Keeps s t) {x1 x2 x3} : Keeps s (State.overflowAll t x1 x2 x3) := by
  unfold State.overflowAll
  repeat' with_reducible first
    | exact h | assumption | apply State.overflow_keeps | refine Keeps.foldl (fun _ _ _ => ?_) ?_ | split | dsimp only

theorem State.formBatch_keeps (h : Keeps s t) {x1 x2 x3 x4 x5} : Keeps s (State.formBatch t x1 x2 x3 x4 x5) := by
  unfold State.formBatch
  repeat' with_reducible first
    | exact h | assumption | apply State.bump_keeps | apply State.setEdu_keeps | apply Keeps.ite | split | dsimp only

theorem State.groupInstance_keeps (h : Keeps s t) {x1 x2} : Keeps2 s (State.groupInstance t x1 x2) := by
  unfold State.groupInstance
  repeat' with_reducible first
    | exact h | assumption | apply State.setEdu_keeps | apply State.readLayer_keeps | apply State.readPlace_keeps
    | apply State.overflowAll_keeps | apply State.formBatch_keeps | apply Keeps.ite | apply Keeps2.ite | apply Keeps2.snd
    | split | apply Keeps2.mk | refine Keeps2.of (by assumption) ?_ | dsimp only

theorem State.groupInstances_keeps (h : Keeps s t) {x1} : Keeps2 s (State.groupInstances t x1) := by
  induction x1 generalizing t with
  | nil =>
    rw [State.groupInstances]
    repeat' with_reducible first
    | exact h | assumption | apply State.groupInstance_keeps | apply Keeps2.snd | split | apply Keeps2.mk
      | refine Keeps2.of (by assumption) ?_ | dsimp only
  | cons p l ih =>
    rcases p with ⟨_, _⟩
    rw [State.groupInstances]
    repeat' with_reducible first
    | exact h | assumption | apply ih | apply State.groupInstance_keeps | apply Keeps2.snd | split | apply Keeps2.mk
      | refine Keeps2.of (by assumption) ?_ | dsimp only

theorem State.tellUnavailable_keeps (h : Keeps s t) {x1} : Keeps s (State.tellUnavailable t x1) := by
  unfold State.tellUnavailable
  repeat' with_reducible first
    | exact h | assumption | apply State.raiseTo_keeps | refine Keeps.foldl (fun _ _ _ => ?_) ?_
    | refine Keeps2.foldl (fun _ _ _ => ?_) ?_ | apply Keeps.ite | apply Keeps2.ite | apply Keeps2.snd | split
    | apply Keeps2.mk | refine Keeps2.of (by assumption) ?_ | dsimp only

theorem State.eduBoundary_keeps (h : Keeps s t) : Keeps s (State.eduBoundary t) := by
  unfold State.eduBoundary
  repeat' with_reducible first
    | exact h | assumption | apply State.groupInstances_keeps | apply State.tellUnavailable_keeps | apply State.setReg_keeps
    | refine Keeps.foldl (fun _ _ _ => ?_) ?_ | refine Keeps2.foldl (fun _ _ _ => ?_) ?_ | apply Keeps.ite
    | apply Keeps2.ite | apply Keeps2.snd | split | apply Keeps2.mk | refine Keeps2.of (by assumption) ?_ | dsimp only

theorem State.mapBatches_keeps (h : Keeps s t) {x1} : Keeps s (State.mapBatches t x1) := by
  unfold State.mapBatches
  repeat' with_reducible first
    | exact h | assumption | apply State.setEdu_keeps | split | dsimp only

theorem State.writeRows_keeps (h : Keeps s t) {x1 x2 x3 x4} : Keeps2 s (State.writeRows t x1 x2 x3 x4) := by
  induction x4 generalizing t x1 x2 x3 with
  | nil =>
    rw [State.writeRows]
    repeat' with_reducible first
    | exact h | assumption | apply State.abandon_keeps | apply State.store_keeps | apply Keeps.ite
      | apply Keeps2.ite | apply Keeps2.snd | split | apply Keeps2.mk | refine Keeps2.of (by assumption) ?_ | dsimp only
  | cons p l ih =>
    rcases p with ⟨_, _⟩
    rw [State.writeRows]
    repeat' with_reducible first
    | exact h | assumption | apply ih | apply State.abandon_keeps | apply State.store_keeps | apply Keeps.ite
      | apply Keeps2.ite | apply Keeps2.snd | split | apply Keeps2.mk | refine Keeps2.of (by assumption) ?_ | dsimp only

theorem State.abandonBatch_keeps (h : Keeps s t) {x1} : Keeps s (State.abandonBatch t x1) := by
  unfold State.abandonBatch
  repeat' with_reducible first
    | exact h | assumption | apply State.abandon_keeps | refine Keeps.foldl (fun _ _ _ => ?_) ?_ | split | dsimp only

theorem State.writeBatchHeader_keeps (h : Keeps s t) {x1 x2 x3} : Keeps2 s (State.writeBatchHeader t x1 x2 x3) := by
  unfold State.writeBatchHeader
  repeat' with_reducible first
    | exact h | assumption | apply State.store_keeps | apply State.storeWords_keeps
    | apply Keeps2.snd | split | apply Keeps2.mk | refine Keeps2.of (by assumption) ?_ | dsimp only

theorem execEduMailboxWritten_keeps (h : Keeps s t) {x0 x1} : KeepsNext s (execEduMailboxWritten x0 x1 t) := by
  unfold execEduMailboxWritten
  repeat' with_reducible first
    | exact h | assumption | apply State.writeRows_keeps | apply State.writeBatchHeader_keeps
    | apply State.setEdu_keeps | apply State.abandonBatch_keeps | apply State.mapBatches_keeps
    | apply State.signalAt_keeps | apply KeepsNext.next | apply Keeps.ite | apply Keeps2.ite | apply KeepsNext.ite
    | simp only [Keeps.mk_iff] | apply KeepsParts.same | apply Keeps2.snd | split | apply Keeps2.mk
    | refine Keeps2.of (by assumption) ?_ | dsimp only

theorem State.sendResults_keeps (h : Keeps s t) {x1 x2 x3 x4} : Keeps s (State.sendResults t x1 x2 x3 x4) := by
  induction x4 generalizing t x1 x2 x3 with
  | nil =>
    rw [State.sendResults]
    repeat' with_reducible first
    | exact h | assumption | apply State.abandon_keeps | apply State.load_keeps | apply State.resolve_keeps
      | apply Keeps.ite | apply Keeps2.ite | apply Keeps3.ite | apply Keeps2.snd | apply Keeps3.snd | split | apply Keeps2.mk
      | apply Keeps3.mk | refine Keeps2.of (by assumption) ?_ | refine Keeps3.of (by assumption) ?_ | dsimp only
  | cons p l ih =>
    rcases p with ⟨_, _⟩
    rw [State.sendResults]
    repeat' with_reducible first
    | exact h | assumption | apply ih | apply State.abandon_keeps | apply State.load_keeps | apply State.resolve_keeps
      | apply Keeps.ite | apply Keeps2.ite | apply Keeps3.ite | apply Keeps2.snd | apply Keeps3.snd | split | apply Keeps2.mk
      | apply Keeps3.mk | refine Keeps2.of (by assumption) ?_ | refine Keeps3.of (by assumption) ?_ | dsimp only

theorem execEduBatchComplete_keeps (h : Keeps s t) {x0 x1} : KeepsNext s (execEduBatchComplete x0 x1 t) := by
  unfold execEduBatchComplete
  repeat' with_reducible first
    | exact h | assumption | apply State.setEdu_keeps | apply State.sendResults_keeps | apply KeepsNext.next
    | apply Keeps.ite | apply KeepsNext.ite | split | dsimp only

theorem execEduBatchTimeout_keeps (h : Keeps s t) {x0 x1 x2} : KeepsNext s (execEduBatchTimeout x0 x1 x2 t) := by
  unfold execEduBatchTimeout
  repeat' with_reducible first
    | exact h | assumption | apply State.advance_keeps | apply State.abandonBatch_keeps | apply State.mapBatches_keeps
    | apply KeepsNext.next | apply Keeps.ite | apply KeepsNext.ite | split | dsimp only

theorem execEduResultTimeout_keeps (h : Keeps s t) {x0 x1 x2 x3} : KeepsNext s (execEduResultTimeout x0 x1 x2 x3 t) := by
  unfold execEduResultTimeout
  repeat' with_reducible first
    | exact h | assumption | apply State.advance_keeps | apply State.recordResolution_keeps | apply State.bump_keeps
    | apply KeepsNext.next | apply Keeps.ite | apply KeepsNext.ite | split | dsimp only

theorem execEduCombine_keeps (h : Keeps s t) {x0 x1} : KeepsNext s (execEduCombine x0 x1 t) := by
  unfold execEduCombine
  repeat' with_reducible first
    | exact h | assumption | apply State.store_keeps | apply State.setEdu_keeps | apply State.bump_keeps
    | apply State.raiseTo_keeps | apply KeepsNext.next | apply Keeps.ite | apply Keeps2.ite | apply KeepsNext.ite
    | apply Keeps2.snd | split | apply Keeps2.mk | refine Keeps2.of (by assumption) ?_ | dsimp only

theorem execEduDoneSignal_keeps (h : Keeps s t) {x0} : KeepsNext s (execEduDoneSignal x0 t) := by
  unfold execEduDoneSignal
  repeat' with_reducible first
    | exact h | assumption | apply State.setEdu_keeps | apply State.signalAt_keeps | apply KeepsNext.next | apply Keeps.ite
    | apply KeepsNext.ite | split | dsimp only

theorem State.eduCoreLeft_keeps (h : Keeps s t) {x1} : Keeps s (State.eduCoreLeft t x1) := by
  unfold State.eduCoreLeft
  repeat' with_reducible first
    | exact h | assumption | apply State.setEdu_keeps | split | dsimp only

theorem State.writeTblCtl_keeps (h : Keeps s t) {x1} : Keeps s (State.writeTblCtl t x1) := by
  unfold State.writeTblCtl
  repeat' with_reducible first
    | exact h | assumption | apply State.setEdu_keeps | apply State.schedule_keeps | apply Keeps.ite | split | dsimp only

theorem State.eduSwitchSets_keeps (h : Keeps s t) : Keeps s (State.eduSwitchSets t) := by
  unfold State.eduSwitchSets
  repeat' with_reducible first
    | exact h | assumption | apply State.setEdu_keeps | split | dsimp only

theorem execEduTableSwitch_keeps (h : Keeps s t) {x0 x1 x2} : KeepsNext s (execEduTableSwitch x0 x1 x2 t) := by
  unfold execEduTableSwitch
  repeat' with_reducible first
    | exact h | assumption | apply State.advance_keeps | apply State.writeTblCtl_keeps | apply KeepsNext.next
    | apply Keeps.ite | apply KeepsNext.ite | split | dsimp only

theorem State.writeTableBase_keeps (h : Keeps s t) {x1 x2 x3} : Keeps s (State.writeTableBase t x1 x2 x3) := by
  unfold State.writeTableBase
  repeat' with_reducible first
    | exact h | assumption | apply State.setEdu_keeps | apply State.setReg_keeps | apply Keeps.ite | split | dsimp only

end Sys2Proof.Machine
end

