-- ==== Sys2Proof/Laws/KeepsFabricOps.lean ====
section
/-! SUPPORT. What the operations of Machine/FabricOps.lean keep (Laws/Keeps.lean). -/

namespace Sys2Proof.Machine

set_option linter.unusedTactic false
set_option linter.unreachableTactic false
set_option linter.unusedVariables false
set_option linter.unusedSimpArgs false

variable {s t u : State}

theorem State.teamFrames_keeps (h : Keeps s t) {x1} : Keeps s (State.teamFrames t x1) := by
  unfold State.teamFrames
  repeat' with_reducible first
    | exact h | assumption | apply State.controlSend_keeps | refine Keeps.foldl (fun _ _ _ => ?_) ?_ | split
    | dsimp only

theorem State.sendPacket_keeps (h : Keeps s t) {x1 x2 x3 x4} : Keeps s (State.sendPacket t x1 x2 x3 x4) := by
  unfold State.sendPacket
  repeat' with_reducible first
    | exact h | assumption | apply State.strandSend_keeps | split | dsimp only

theorem State.setStream_keeps (h : Keeps s t) {x1 x2} : Keeps s (State.setStream t x1 x2) := by
  unfold State.setStream
  repeat' with_reducible first
    | exact h | assumption | simp only [Keeps.mk_iff] | apply KeepsParts.same | apply KeepsParts.send | apply Keeps2.snd
    | split | apply Keeps2.mk | refine Keeps2.of (by assumption) ?_ | dsimp only

theorem State.mapRequests_keeps (h : Keeps s t) {x1} : Keeps s (State.mapRequests t x1) := by
  unfold State.mapRequests
  repeat' with_reducible first
    | exact h | assumption | simp only [Keeps.mk_iff] | apply KeepsParts.same | split | dsimp only

theorem State.nextNumber_keeps (h : Keeps s t) {x1 x2} : Keeps2 s (State.nextNumber t x1 x2) := by
  unfold State.nextNumber
  repeat' with_reducible first
    | exact h | assumption | simp only [Keeps.mk_iff] | apply KeepsParts.same | apply KeepsParts.send | apply Keeps2.snd
    | split | apply Keeps2.mk | refine Keeps2.of (by assumption) ?_ | dsimp only

theorem State.assignEpochs_keeps (h : Keeps s t) {x1 x2} : Keeps s (State.assignEpochs t x1 x2) := by
  induction x2 generalizing t x1 with
  | nil =>
    rw [State.assignEpochs]
    repeat' with_reducible first
    | exact h | assumption | apply State.mapRequests_keeps | apply State.setStream_keeps | apply Keeps.ite
      | split | dsimp only
  | cons p l ih =>
    rw [State.assignEpochs]
    repeat' with_reducible first
    | exact h | assumption | apply ih | apply State.mapRequests_keeps | apply State.setStream_keeps | apply Keeps.ite
      | split | dsimp only

theorem State.giveEpochs_keeps (h : Keeps s t) {x1} : Keeps s (State.giveEpochs t x1) := by
  unfold State.giveEpochs
  repeat' with_reducible first
    | exact h | assumption | apply State.assignEpochs_keeps | split | dsimp only

theorem State.answerOrigin_keeps (h : Keeps s t) {x1 x2 x3} : Keeps s (State.answerOrigin t x1 x2 x3) := by
  unfold State.answerOrigin
  repeat' with_reducible first
    | exact h | assumption | apply State.portSend_keeps | split | dsimp only

theorem State.setLease_keeps (h : Keeps s t) {x1 x2} : Keeps s (State.setLease t x1 x2) := by
  unfold State.setLease
  repeat' with_reducible first
    | exact h | assumption | simp only [Keeps.mk_iff] | apply KeepsParts.same | split | dsimp only

theorem State.expireLease_keeps (h : Keeps s t) {x1} : Keeps s (State.expireLease t x1) := by
  unfold State.expireLease
  repeat' with_reducible first
    | exact h | assumption | apply State.raiseTo_keeps | apply State.setLease_keeps | split | dsimp only

theorem State.leaseAnswer_keeps (h : Keeps s t) {x1 x2 x3 x4} : Keeps s (State.leaseAnswer t x1 x2 x3 x4) := by
  unfold State.leaseAnswer
  repeat' with_reducible first
    | exact h | assumption | apply State.setLease_keeps | apply State.start_keeps | apply State.expireLease_keeps
    | apply Keeps.ite | simp only [Keeps.mk_iff] | apply KeepsParts.same | split | dsimp only

theorem State.moveAnswer_keeps (h : Keeps s t) {x1 x2 x3} : Keeps s (State.moveAnswer t x1 x2 x3) := by
  unfold State.moveAnswer
  repeat' with_reducible first
    | exact h | assumption | apply Keeps.ite | apply KeepsNext.ite | simp only [Keeps.mk_iff]
    | apply KeepsParts.same | split | dsimp only

theorem State.clearUse_keeps (h : Keeps s t) {x1} : Keeps s (State.clearUse t x1) := by
  unfold State.clearUse
  repeat' with_reducible first
    | exact h | assumption | apply State.setStream_keeps | split | dsimp only

theorem State.endRequest_keeps (h : Keeps s t) {x1 x2 x3 x4} : Keeps s (State.endRequest t x1 x2 x3 x4) := by
  unfold State.endRequest
  repeat' with_reducible first
    | exact h | assumption | apply State.raiseTo_keeps | apply State.leaseAnswer_keeps | apply State.moveAnswer_keeps
    | apply State.answerOrigin_keeps | apply State.setStream_keeps | apply Keeps.ite | apply Keeps2.ite
    | simp only [Keeps.mk_iff] | apply KeepsParts.same | apply Keeps2.snd | split | apply Keeps2.mk
    | refine Keeps2.of (by assumption) ?_ | dsimp only

theorem State.failFlag_keeps (h : Keeps s t) {x1} : Keeps s (State.failFlag t x1) := by
  unfold State.failFlag
  repeat' with_reducible first
    | exact h | assumption | apply State.bump_keeps | apply State.endRequest_keeps | split | dsimp only

theorem State.breakAtSource_keeps (h : Keeps s t) {x1} : Keeps s (State.breakAtSource t x1) := by
  unfold State.breakAtSource
  repeat' with_reducible first
    | exact h | assumption | apply State.setStream_keeps | apply State.failFlag_keeps | simp only [Keeps.mk_iff]
    | apply KeepsParts.same | refine Keeps.foldl (fun _ _ _ => ?_) ?_ | split | dsimp only

theorem State.finishRequest_keeps (h : Keeps s t) {x1 x2 x3 x4} : Keeps s (State.finishRequest t x1 x2 x3 x4) := by
  unfold State.finishRequest
  repeat' with_reducible first
    | exact h | assumption | apply State.endRequest_keeps | apply State.breakAtSource_keeps | apply State.giveEpochs_keeps
    | apply Keeps.ite | split | dsimp only

theorem State.failRequest_keeps (h : Keeps s t) {x1 x2} : Keeps s (State.failRequest t x1 x2) := by
  unfold State.failRequest
  repeat' with_reducible first
    | exact h | assumption | apply State.finishRequest_keeps | apply Keeps.ite | split | dsimp only

theorem State.timeoutRequest_keeps (h : Keeps s t) {x1} : Keeps s (State.timeoutRequest t x1) := by
  unfold State.timeoutRequest
  repeat' with_reducible first
    | exact h | assumption | apply State.bump_keeps | apply State.failRequest_keeps | apply State.finishRequest_keeps
    | apply Keeps.ite | split | dsimp only

theorem State.transmit_keeps (h : Keeps s t) {x1 x2 x3} : Keeps s (State.transmit t x1 x2 x3) := by
  unfold State.transmit
  repeat' with_reducible first
    | exact h | assumption | apply State.bump_keeps | apply State.mapRequests_keeps | apply State.setStream_keeps
    | apply State.sendPacket_keeps | apply Keeps.ite | apply Keeps2.ite | apply Keeps2.snd | split | apply Keeps2.mk
    | refine Keeps2.of (by assumption) ?_ | dsimp only

theorem State.trySend_keeps (h : Keeps s t) {x1} : Keeps s (State.trySend t x1) := by
  unfold State.trySend
  repeat' with_reducible first
    | exact h | assumption | apply State.finishRequest_keeps | apply State.failFlag_keeps | apply State.giveEpochs_keeps
    | apply State.failRequest_keeps | apply State.transmit_keeps | apply State.mapRequests_keeps
    | apply State.bump_keeps | apply Keeps.ite | simp only [Keeps.mk_iff] | apply KeepsParts.same | split | dsimp only

theorem State.fabPump_keeps (h : Keeps s t) : Keeps s (State.fabPump t) := by
  unfold State.fabPump
  repeat' with_reducible first
    | exact h | assumption | apply State.trySend_keeps | refine Keeps.foldl (fun _ _ _ => ?_) ?_ | split | dsimp only

end Sys2Proof.Machine
end

