-- ==== Sys2Proof/Laws/KeepsFabric.lean ====
section
/-! SUPPORT. What the operations of Machine/Fabric.lean keep (Laws/Keeps.lean). -/

namespace Sys2Proof.Machine

set_option linter.unusedTactic false
set_option linter.unreachableTactic false
set_option linter.unusedVariables false
set_option linter.unusedSimpArgs false

variable {s t u : State}

theorem State.enterPool_keeps (h : Keeps s t) {x1} : Keeps s (State.enterPool t x1) := by
  unfold State.enterPool
  repeat' with_reducible first
    | exact h | assumption | apply State.nextNumber_keeps | apply State.giveEpochs_keeps | simp only [Keeps.mk_iff]
    | apply KeepsParts.same | apply KeepsParts.send | apply Keeps2.snd | split | apply Keeps2.mk
    | refine Keeps2.of (by assumption) ?_ | dsimp only

theorem State.drainEngines_keeps (h : Keeps s t) : Keeps s (State.drainEngines t) := by
  unfold State.drainEngines
  repeat' with_reducible first
    | exact h | assumption | simp only [Keeps.mk_iff] | apply KeepsParts.same | split | dsimp only

theorem execFabricRequestIssue_keeps (h : Keeps s t) {x0 x1} : KeepsNext s (execFabricRequestIssue x0 x1 t) := by
  unfold execFabricRequestIssue
  repeat' with_reducible first
    | exact h | assumption | apply State.advance_keeps | apply State.fabPump_keeps | apply State.takeInbox_keeps
    | apply State.enterPool_keeps | apply KeepsNext.next | refine Keeps.foldl (fun _ _ _ => ?_) ?_
    | refine Keeps2.foldl (fun _ _ _ => ?_) ?_ | apply Keeps.ite | apply Keeps2.ite | apply KeepsOpt2.ite
    | apply KeepsNext.ite | simp only [Keeps.mk_iff] | apply KeepsParts.same | apply Keeps2.snd | split | apply Keeps2.mk
    | refine Keeps2.of (by assumption) ?_ | refine KeepsOpt2.get (by assumption) ?_ | dsimp only

theorem State.takeResponse_keeps (h : Keeps s t) {x1 x2} : Keeps s (State.takeResponse t x1 x2) := by
  unfold State.takeResponse
  repeat' with_reducible first
    | exact h | assumption | apply State.mapRequests_keeps | apply State.fabPump_keeps | apply State.finishRequest_keeps
    | apply State.clearUse_keeps | apply Keeps.ite | split | dsimp only

theorem State.setWindow_keeps (h : Keeps s t) {x1 x2} : Keeps s (State.setWindow t x1 x2) := by
  unfold State.setWindow
  repeat' with_reducible first
    | exact h | assumption | simp only [Keeps.mk_iff] | apply KeepsParts.same | apply KeepsParts.send | apply Keeps2.snd
    | split | apply Keeps2.mk | refine Keeps2.of (by assumption) ?_ | dsimp only

theorem State.noteNumber_keeps (h : Keeps s t) {x1 x2 x3} : Keeps s (State.noteNumber t x1 x2 x3) := by
  unfold State.noteNumber
  repeat' with_reducible first
    | exact h | assumption | apply State.setWindow_keeps | apply Keeps2.snd | split | apply Keeps2.mk
    | refine Keeps2.of (by assumption) ?_ | dsimp only

theorem State.respond_keeps (h : Keeps s t) {x1 x2 x3 x4} : Keeps s (State.respond t x1 x2 x3 x4) := by
  unfold State.respond
  repeat' with_reducible first
    | exact h | assumption | apply State.sendPacket_keeps | apply Keeps2.snd | split | apply Keeps2.mk
    | refine Keeps2.of (by assumption) ?_ | dsimp only

theorem State.setFlags_keeps (h : Keeps s t) {x1} : Keeps s (State.setFlags t x1) := by
  unfold State.setFlags
  repeat' with_reducible first
    | exact h | assumption | simp only [Keeps.mk_iff] | apply KeepsParts.same | split | dsimp only

theorem State.freeFlag_keeps (h : Keeps s t) {x1} : Keeps s (State.freeFlag t x1) := by
  unfold State.freeFlag
  repeat' with_reducible first
    | exact h | assumption | apply State.setFlags_keeps | split | dsimp only

theorem State.touchFlag_keeps (h : Keeps s t) {x1} : Keeps s (State.touchFlag t x1) := by
  unfold State.touchFlag
  repeat' with_reducible first
    | exact h | assumption | apply State.setFlags_keeps | apply Keeps.ite | simp only [Keeps.mk_iff]
    | apply KeepsParts.same | split | dsimp only

theorem State.touched_keeps (h : Keeps s t) {x1} : Keeps s (State.touched t x1) := by
  unfold State.touched
  repeat' with_reducible first
    | exact h | assumption | apply State.touchFlag_keeps | apply Keeps.ite | split | dsimp only

theorem State.openFlag_keeps (h : Keeps s t) {x1} : KeepsOpt s (State.openFlag t x1) := by
  unfold State.openFlag
  repeat' with_reducible first
    | exact h | assumption | apply State.touchFlag_keeps
    | apply State.setFlags_keeps | refine KeepsOpt.map ?_ (fun _ _ => ?_)
    | refine KeepsOpt.bind ?_ (fun _ _ => ?_) | apply Keeps.ite | apply KeepsOpt.ite | exact KeepsOpt.ofNone
    | apply KeepsOpt.ofSome | split | dsimp only

theorem State.finishInbound_keeps (h : Keeps s t) {x1 x2 x3 x4} : Keeps s (State.finishInbound t x1 x2 x3 x4) := by
  unfold State.finishInbound
  repeat' with_reducible first
    | exact h | assumption | apply State.noteNumber_keeps | apply State.respond_keeps | apply State.bump_keeps
    | apply Keeps.ite | simp only [Keeps.mk_iff] | apply KeepsParts.same | apply KeepsParts.send | split | dsimp only

theorem State.abandonFlag_keeps (h : Keeps s t) {x1} : Keeps s (State.abandonFlag t x1) := by
  unfold State.abandonFlag
  repeat' with_reducible first
    | exact h | assumption | apply State.bump_keeps | apply State.freeFlag_keeps | apply State.finishInbound_keeps | split
    | dsimp only

theorem State.breakEpoch_keeps (h : Keeps s t) {x1} : Keeps s (State.breakEpoch t x1) := by
  unfold State.breakEpoch
  repeat' with_reducible first
    | exact h | assumption | apply State.setFlags_keeps | apply State.abandonFlag_keeps | apply Keeps.ite | split
    | dsimp only

theorem State.completeInbound_keeps (h : Keeps s t) {x1 x2 x3 x4} : Keeps s (State.completeInbound t x1 x2 x3 x4) := by
  unfold State.completeInbound
  repeat' with_reducible first
    | exact h | assumption | apply State.finishInbound_keeps | apply State.setFlags_keeps | apply State.breakEpoch_keeps
    | apply Keeps.ite | split | dsimp only

theorem State.dropAged_keeps (h : Keeps s t) {x1} : Keeps s (State.dropAged t x1) := by
  unfold State.dropAged
  repeat' with_reducible first
    | exact h | assumption | apply State.freeFlag_keeps | apply State.openFlag_keeps | apply State.breakEpoch_keeps
    | apply Keeps.ite | apply KeepsOpt.ite | exact KeepsOpt.ofNone | apply KeepsOpt.ofSome | split
    | refine KeepsOpt.get (by assumption) ?_ | dsimp only

theorem State.takeHead_keeps (h : Keeps s t) {b want} {act : FabHeader → List Byte → Nat → State → State}
    (ha : ∀ x y z u, Keeps s u → Keeps s (act x y z u)) : Keeps s (t.takeHead b want act) := by
  unfold State.takeHead
  repeat' with_reducible first
    | exact h | apply State.dropAged_keeps
    | apply ha | apply State.bump_keeps | apply Keeps.ite | split | simp only [Keeps.mk_iff] | apply KeepsParts.same

theorem execFabricResp_keeps (h : Keeps s t) {x0 x1} : KeepsNext s (execFabricResp x0 x1 t) := by
  unfold execFabricResp
  repeat' with_reducible first
    | exact h | assumption | apply State.advance_keeps | apply State.takeHead_keeps | apply State.takeResponse_keeps
    | apply KeepsNext.next | split | intro _ | dsimp only

theorem State.refuseInbound_keeps (h : Keeps s t) {x1 x2} : Keeps s (State.refuseInbound t x1 x2) := by
  unfold State.refuseInbound
  repeat' with_reducible first
    | exact h | assumption | apply State.completeInbound_keeps | apply State.freeFlag_keeps | apply Keeps.ite | split
    | dsimp only

theorem State.setIngress_keeps (h : Keeps s t) {x1 x2} : Keeps s (State.setIngress t x1 x2) := by
  unfold State.setIngress
  repeat' with_reducible first
    | exact h | assumption | simp only [Keeps.mk_iff] | apply KeepsParts.same | split | dsimp only

theorem State.forward_keeps (h : Keeps s t) {x1} : Keeps s (State.forward t x1) := by
  unfold State.forward
  repeat' with_reducible first
    | exact h | assumption | apply State.raiseTo_keeps | apply State.completeInbound_keeps
    | apply State.portRequest_keeps | apply Keeps.ite | split | dsimp only

theorem State.hitchRequest_keeps (h : Keeps s t) {x1} : Keeps s (State.hitchRequest t x1) := by
  unfold State.hitchRequest
  repeat' with_reducible first
    | exact h | assumption | apply State.completeInbound_keeps | apply State.rackArrive_keeps | apply State.signal_keeps
    | apply State.refuseInbound_keeps | apply Keeps.ite | apply Keeps2.ite | simp only [Keeps.mk_iff]
    | apply KeepsParts.same | apply KeepsParts.send | apply Keeps2.snd | split | apply Keeps2.mk
    | refine Keeps2.of (by assumption) ?_ | dsimp only

theorem State.admitRequest_keeps (h : Keeps s t) {x1} : Keeps s (State.admitRequest t x1) := by
  unfold State.admitRequest
  repeat' with_reducible first
    | exact h | assumption | apply State.refuseInbound_keeps | apply State.forward_keeps | apply State.abandonFlag_keeps
    | apply State.freeFlag_keeps | apply State.bump_keeps | apply Keeps.ite | apply Keeps2.ite | simp only [Keeps.mk_iff]
    | apply KeepsParts.same | apply KeepsParts.send | apply Keeps2.snd | split | apply Keeps2.mk
    | refine Keeps2.of (by assumption) ?_ | dsimp only

theorem State.duplicate_keeps (h : Keeps s t) {x1} : KeepsOpt s (State.duplicate t x1) := by
  unfold State.duplicate
  repeat' with_reducible first
    | exact h | assumption | apply State.bump_keeps | apply State.respond_keeps | refine KeepsOpt.map ?_ (fun _ _ => ?_)
    | refine KeepsOpt.bind ?_ (fun _ _ => ?_) | apply Keeps.ite | apply KeepsOpt.ite | exact KeepsOpt.ofNone
    | apply KeepsOpt.ofSome | split | dsimp only

theorem State.receiveRequest_keeps (h : Keeps s t) {b hd data age} {lease : Inbound → State → State}
    (hl : ∀ x u, Keeps s u → Keeps s (lease x u)) : Keeps s (t.receiveRequest b hd data age lease) := by
  unfold State.receiveRequest
  repeat' with_reducible first
    | exact h | apply State.touched_keeps
    | apply State.dropAged_keeps | apply State.eduPart_keeps | apply State.touchFlag_keeps
    | apply hl | apply State.breakEpoch_keeps | apply State.respond_keeps | apply State.noteNumber_keeps
    | apply State.finishInbound_keeps | apply State.hitchRequest_keeps | apply State.admitRequest_keeps | apply State.openFlag_keeps
    | apply State.duplicate_keeps | apply Keeps.ite | apply KeepsOpt.ite | apply KeepsOpt.ofSome | simp only [Keeps.mk_iff]
    | apply KeepsParts.same | split | refine KeepsOpt.get (by assumption) ?_ | dsimp only

theorem State.receiveRow_keeps (h : Keeps s t) {x1 x2 x3} : Keeps s (State.receiveRow t x1 x2 x3) := by
  unfold State.receiveRow
  repeat' with_reducible first
    | exact h | assumption | apply State.advance_keeps | apply State.takeHead_keeps | apply State.receiveRequest_keeps
    | split | intro _ | dsimp only

theorem execFabricLoad_keeps (h : Keeps s t) {x0 x1} : KeepsNext s (execFabricLoad x0 x1 t) := by
  unfold execFabricLoad
  repeat' with_reducible first
    | exact h | assumption | apply State.receiveRow_keeps | apply KeepsNext.next | split | dsimp only

theorem execFabricStore_keeps (h : Keeps s t) {x0 x1} : KeepsNext s (execFabricStore x0 x1 t) := by
  unfold execFabricStore
  repeat' with_reducible first
    | exact h | assumption | apply State.receiveRow_keeps | apply KeepsNext.next | split | dsimp only

theorem execFabricFlagStore_keeps (h : Keeps s t) {x0 x1} : KeepsNext s (execFabricFlagStore x0 x1 t) := by
  unfold execFabricFlagStore
  repeat' with_reducible first
    | exact h | assumption | apply State.receiveRow_keeps | apply KeepsNext.next | split | dsimp only

theorem State.flushAnswers_keeps (h : Keeps s t) : Keeps s (State.flushAnswers t) := by
  unfold State.flushAnswers
  repeat' with_reducible first
    | exact h | assumption | apply State.completeInbound_keeps | refine Keeps.foldl (fun _ _ _ => ?_) ?_
    | refine Keeps2.foldl (fun _ _ _ => ?_) ?_ | apply Keeps.ite | apply Keeps2.ite | simp only [Keeps.mk_iff]
    | apply KeepsParts.same | apply Keeps2.snd | split | apply Keeps2.mk | refine Keeps2.of (by assumption) ?_ | dsimp only

theorem execFlagStoreRelease_keeps (h : Keeps s t) {x0 x1 x2} : KeepsNext s (execFlagStoreRelease x0 x1 x2 t) := by
  unfold execFlagStoreRelease
  repeat' with_reducible first
    | exact h | assumption | apply State.forward_keeps | apply State.freeFlag_keeps | apply KeepsNext.next | apply Keeps.ite
    | apply KeepsNext.ite | simp only [Keeps.mk_iff] | apply KeepsParts.same | split | dsimp only

theorem execFlagStoreExpired_keeps (h : Keeps s t) {x0 x1 x2 x3} : KeepsNext s (execFlagStoreExpired x0 x1 x2 x3 t) := by
  unfold execFlagStoreExpired
  repeat' with_reducible first
    | exact h | assumption | apply State.advance_keeps | apply State.abandonFlag_keeps | apply KeepsNext.next
    | apply Keeps.ite | apply KeepsNext.ite | split | dsimp only

theorem execFlagEntryIdleFree_keeps (h : Keeps s t) {x0 x1 x2 x3 x4 x5} : KeepsNext s (execFlagEntryIdleFree x0 x1 x2 x3 x4 x5 t) := by
  unfold execFlagEntryIdleFree
  repeat' with_reducible first
    | exact h | assumption | apply State.advance_keeps | apply State.setFlags_keeps | apply KeepsNext.next | apply Keeps.ite
    | apply KeepsNext.ite | split | dsimp only

theorem execAtomicResultExpiry_keeps (h : Keeps s t) {x0 x1 x2 x3} : KeepsNext s (execAtomicResultExpiry x0 x1 x2 x3 t) := by
  unfold execAtomicResultExpiry
  repeat' with_reducible first
    | exact h | assumption | apply State.advance_keeps | apply KeepsNext.next | simp only [Keeps.mk_iff]
    | apply KeepsParts.same | split | dsimp only

theorem State.sendAgain_keeps (h : Keeps s t) {x1 x2} : Keeps s (State.sendAgain t x1 x2) := by
  unfold State.sendAgain
  repeat' with_reducible first
    | exact h | assumption | apply State.trySend_keeps | apply State.mapRequests_keeps | apply Keeps.ite | apply Keeps2.ite
    | apply Keeps2.snd | split | apply Keeps2.mk | refine Keeps2.of (by assumption) ?_ | dsimp only

theorem execFabricRetransmitTimeout_keeps (h : Keeps s t) {x0 x1 x2 x3} : KeepsNext s (execFabricRetransmitTimeout x0 x1 x2 x3 t) := by
  unfold execFabricRetransmitTimeout
  repeat' with_reducible first
    | exact h | assumption | apply State.advance_keeps | apply State.sendAgain_keeps | apply KeepsNext.next
    | apply Keeps.ite | apply KeepsNext.ite | split | dsimp only

theorem execFabricBusyRetry_keeps (h : Keeps s t) {x0 x1 x2 x3} : KeepsNext s (execFabricBusyRetry x0 x1 x2 x3 t) := by
  unfold execFabricBusyRetry
  repeat' with_reducible first
    | exact h | assumption | apply State.advance_keeps | apply State.sendAgain_keeps | apply KeepsNext.next
    | apply Keeps.ite | apply KeepsNext.ite | split | dsimp only

theorem execFabricRequestTimeout_keeps (h : Keeps s t) {x0 x1 x2 x3} : KeepsNext s (execFabricRequestTimeout x0 x1 x2 x3 t) := by
  unfold execFabricRequestTimeout
  repeat' with_reducible first
    | exact h | assumption | apply State.advance_keeps | apply State.fabPump_keeps | apply State.timeoutRequest_keeps
    | apply KeepsNext.next | apply Keeps.ite | apply KeepsNext.ite | split | dsimp only

theorem execFlagEpochUseClear_keeps (h : Keeps s t) {x0 x1 x2 x3 x4 x5} : KeepsNext s (execFlagEpochUseClear x0 x1 x2 x3 x4 x5 t) := by
  unfold execFlagEpochUseClear
  repeat' with_reducible first
    | exact h | assumption | apply State.advance_keeps | apply State.fabPump_keeps | apply State.giveEpochs_keeps
    | apply State.setStream_keeps | apply KeepsNext.next | apply Keeps.ite | apply KeepsNext.ite | split | dsimp only

theorem State.leaseStatus_keeps (h : Keeps s t) {x1 x2} : Keeps s (State.leaseStatus t x1 x2) := by
  unfold State.leaseStatus
  repeat' with_reducible first
    | exact h | assumption | apply State.finishInbound_keeps | apply Keeps.ite | split | dsimp only

theorem State.leaseRequest_keeps (h : Keeps s t) {x1} : Keeps s (State.leaseRequest t x1) := by
  unfold State.leaseRequest
  repeat' with_reducible first
    | exact h | assumption | apply State.leaseStatus_keeps | apply State.setIngress_keeps | apply Keeps.ite
    | apply Keeps2.ite | apply Keeps2.snd | split | apply Keeps2.mk | refine Keeps2.of (by assumption) ?_ | dsimp only

theorem State.leaseRow_keeps (h : Keeps s t) {x1 x2 x3} : Keeps s (State.leaseRow t x1 x2 x3) := by
  unfold State.leaseRow
  repeat' with_reducible first
    | exact h | assumption | apply State.advance_keeps | apply State.takeHead_keeps | apply State.receiveRequest_keeps
    | apply State.leaseRequest_keeps | split | intro _ | dsimp only

theorem execLeaseAcquire_keeps (h : Keeps s t) {x0 x1} : KeepsNext s (execLeaseAcquire x0 x1 t) := by
  unfold execLeaseAcquire
  repeat' with_reducible first
    | exact h | assumption | apply State.leaseRow_keeps | apply KeepsNext.next | split | dsimp only

theorem execLeaseRenew_keeps (h : Keeps s t) {x0 x1} : KeepsNext s (execLeaseRenew x0 x1 t) := by
  unfold execLeaseRenew
  repeat' with_reducible first
    | exact h | assumption | apply State.leaseRow_keeps | apply KeepsNext.next | split | dsimp only

theorem execLeaseRelease_keeps (h : Keeps s t) {x0 x1} : KeepsNext s (execLeaseRelease x0 x1 t) := by
  unfold execLeaseRelease
  repeat' with_reducible first
    | exact h | assumption | apply State.leaseRow_keeps | apply KeepsNext.next | split | dsimp only

theorem execLeaseHomeExpiry_keeps (h : Keeps s t) {x0} : KeepsNext s (execLeaseHomeExpiry x0 t) := by
  unfold execLeaseHomeExpiry
  repeat' with_reducible first
    | exact h | assumption | apply State.logFault_keeps | apply State.setIngress_keeps | apply KeepsNext.next
    | apply Keeps.ite | apply KeepsNext.ite | split | dsimp only

theorem State.askLease_keeps (h : Keeps s t) {x1 x2} : Keeps s (State.askLease t x1 x2) := by
  unfold State.askLease
  repeat' with_reducible first
    | exact h | assumption | simp only [Keeps.mk_iff] | apply KeepsParts.same | apply KeepsParts.send | split | dsimp only

theorem State.leaseCommand_keeps (h : Keeps s t) {x1} : Keeps s (State.leaseCommand t x1) := by
  unfold State.leaseCommand
  repeat' with_reducible first
    | exact h | assumption | apply State.askLease_keeps | apply State.setLease_keeps | apply Keeps.ite | split | dsimp only

theorem State.leaseWrite_keeps (h : Keeps s t) {x1 x2 x3} : Keeps s (State.leaseWrite t x1 x2 x3) := by
  unfold State.leaseWrite
  repeat' with_reducible first
    | exact h | assumption | apply State.advance_keeps | apply State.leaseCommand_keeps | apply Keeps.ite | split
    | dsimp only

theorem execLseCmdAcquire_keeps (h : Keeps s t) {x0 x1} : KeepsNext s (execLseCmdAcquire x0 x1 t) := by
  unfold execLseCmdAcquire
  repeat' with_reducible first
    | exact h | assumption | apply State.leaseWrite_keeps | apply KeepsNext.next | split | dsimp only

theorem execLseCmdRelease_keeps (h : Keeps s t) {x0 x1} : KeepsNext s (execLseCmdRelease x0 x1 t) := by
  unfold execLseCmdRelease
  repeat' with_reducible first
    | exact h | assumption | apply State.leaseWrite_keeps | apply KeepsNext.next | split | dsimp only

theorem execLeaseRenewDue_keeps (h : Keeps s t) {x0} : KeepsNext s (execLeaseRenewDue x0 t) := by
  unfold execLeaseRenewDue
  repeat' with_reducible first
    | exact h | assumption | apply State.start_keeps | apply State.setLease_keeps | apply State.askLease_keeps
    | apply KeepsNext.next | apply Keeps.ite | apply KeepsNext.ite | simp only [Keeps.mk_iff] | apply KeepsParts.same
    | split | dsimp only

theorem execLeaseHolderExpiry_keeps (h : Keeps s t) {x0} : KeepsNext s (execLeaseHolderExpiry x0 t) := by
  unfold execLeaseHolderExpiry
  repeat' with_reducible first
    | exact h | assumption | apply State.start_keeps | apply State.expireLease_keeps | apply KeepsNext.next
    | apply Keeps.ite | apply KeepsNext.ite | split | dsimp only

theorem State.ingressCommand_keeps (h : Keeps s t) {x1} : Keeps s (State.ingressCommand t x1) := by
  unfold State.ingressCommand
  repeat' with_reducible first
    | exact h | assumption | apply State.schedule_keeps | apply State.setReg_keeps | apply Keeps.ite
    | simp only [Keeps.mk_iff] | apply KeepsParts.same | split | dsimp only

theorem State.applyIngress_keeps (h : Keeps s t) {x1 x2 x3 x4} : Keeps s (State.applyIngress t x1 x2 x3 x4) := by
  unfold State.applyIngress
  repeat' with_reducible first
    | exact h | assumption | apply State.setIngress_keeps | apply Keeps.ite | simp only [Keeps.mk_iff]
    | apply KeepsParts.same | split | dsimp only

theorem State.ingressOp_keeps (h : Keeps s t) {x1 x2 x3} : Keeps s (State.ingressOp t x1 x2 x3) := by
  unfold State.ingressOp
  repeat' with_reducible first
    | exact h | assumption | apply State.advance_keeps | apply State.ingressCommand_keeps | apply Keeps.ite | split
    | dsimp only

theorem execIngressEntryWrite_keeps (h : Keeps s t) {x0 x1} : KeepsNext s (execIngressEntryWrite x0 x1 t) := by
  unfold execIngressEntryWrite
  repeat' with_reducible first
    | exact h | assumption | apply State.ingressOp_keeps | apply KeepsNext.next | split | dsimp only

theorem execIngressEntryRead_keeps (h : Keeps s t) {x0} : KeepsNext s (execIngressEntryRead x0 t) := by
  unfold execIngressEntryRead
  repeat' with_reducible first
    | exact h | assumption | apply State.ingressOp_keeps | apply KeepsNext.next | split | dsimp only

theorem State.transit_keeps (h : Keeps s t) {x1 x2 x3 x4} : Keeps s (State.transit t x1 x2 x3 x4) := by
  unfold State.transit
  repeat' with_reducible first
    | exact h | assumption | apply State.bump_keeps | apply State.pick_keeps | apply State.sendPacket_keeps
    | apply Keeps.ite | apply Keeps2.ite | simp only [Keeps.mk_iff] | apply KeepsParts.same | apply Keeps2.snd | split
    | apply Keeps2.mk | refine Keeps2.of (by assumption) ?_ | dsimp only

theorem execFabricTransitForward_keeps (h : Keeps s t) {x0 x1} : KeepsNext s (execFabricTransitForward x0 x1 t) := by
  unfold execFabricTransitForward
  repeat' with_reducible first
    | exact h | assumption | apply State.advance_keeps | apply State.takeHead_keeps | apply State.transit_keeps
    | apply KeepsNext.next | split | intro _ | dsimp only

theorem State.resetFabricBridle_keeps (h : Keeps s t) {x1} : Keeps s (State.resetFabricBridle t x1) := by
  unfold State.resetFabricBridle
  repeat' with_reducible first
    | exact h | assumption | simp only [Keeps.mk_iff] | apply KeepsParts.same | apply Keeps2.snd | split | apply Keeps2.mk
    | refine Keeps2.of (by assumption) ?_ | dsimp only

end Sys2Proof.Machine
end

