-- ==== Sys2Proof/Laws/KeepsServe.lean ====
section
/-! SUPPORT. What the operations of Machine/Serve.lean keep (Laws/Keeps.lean). -/

namespace Sys2Proof.Machine

set_option linter.unusedTactic false
set_option linter.unreachableTactic false
set_option linter.unusedVariables false
set_option linter.unusedSimpArgs false

variable {s t u : State}

theorem State.reply_keeps (h : Keeps s t) {x1 x2 x3 x4} : Keeps s (State.reply t x1 x2 x3 x4) := by
  unfold State.reply
  repeat' with_reducible first
    | exact h | assumption | apply State.portSend_keeps | split | dsimp only

theorem State.noteFault_keeps (h : Keeps s t) {x1 x2 x3} : Keeps s (State.noteFault t x1 x2 x3) := by
  unfold State.noteFault
  repeat' with_reducible first
    | exact h | assumption | apply Keeps.ite | simp only [Keeps.mk_iff] | apply KeepsParts.same | split | dsimp only

theorem State.servePort_keeps (h : Keeps s t) {p cyc want} {act : Delivered → State → State}
    (ha : ∀ x u, Keeps s u → Keeps s (act x u)) : Keeps s (t.servePort p cyc want act) := by
  unfold State.servePort
  repeat' with_reducible first
    | exact h | apply ha | apply State.advance_keeps | apply State.takeInbox_keeps | apply Keeps.ite | split
    | simp only [Keeps.mk_iff] | apply KeepsParts.same
    | refine KeepsOpt2.get (by assumption) ?_ | dsimp only

theorem execDraughtLoad_keeps (h : Keeps s t) {x0 x1} : KeepsNext s (execDraughtLoad x0 x1 t) := by
  unfold execDraughtLoad
  repeat' with_reducible first
    | exact h | assumption | apply State.servePort_keeps | apply State.load_keeps | apply State.reply_keeps
    | apply State.noteFault_keeps | apply KeepsNext.next | apply Keeps.ite | apply Keeps2.ite | apply Keeps3.ite
    | apply KeepsNext.ite | apply Keeps2.snd | apply Keeps3.snd | split | apply Keeps2.mk | apply Keeps3.mk
    | refine Keeps2.of (by assumption) ?_ | refine Keeps3.of (by assumption) ?_ | intro _ | dsimp only

theorem State.servedStore_keeps (h : Keeps s t) {x1 x2 x3} : Keeps s (State.servedStore t x1 x2 x3) := by
  unfold State.servedStore
  repeat' with_reducible first
    | exact h | assumption | apply State.store_keeps | apply State.reply_keeps | apply State.noteFault_keeps
    | apply Keeps.ite | apply Keeps2.ite | apply Keeps2.snd | split | apply Keeps2.mk | refine Keeps2.of (by assumption) ?_
    | dsimp only

theorem execDraughtStore_keeps (h : Keeps s t) {x0 x1} : KeepsNext s (execDraughtStore x0 x1 t) := by
  unfold execDraughtStore
  repeat' with_reducible first
    | exact h | assumption | apply State.servePort_keeps | apply State.servedStore_keeps | apply KeepsNext.next | split
    | intro _ | dsimp only

theorem execDraughtFlagStore_keeps (h : Keeps s t) {x0 x1} : KeepsNext s (execDraughtFlagStore x0 x1 t) := by
  unfold execDraughtFlagStore
  repeat' with_reducible first
    | exact h | assumption | apply State.servePort_keeps | apply State.servedStore_keeps | apply KeepsNext.next | split
    | intro _ | dsimp only

theorem execDraughtService_keeps (h : Keeps s t) {x0 x1} : KeepsNext s (execDraughtService x0 x1 t) := by
  unfold execDraughtService
  repeat' with_reducible first
    | exact h | assumption | apply State.servePort_keeps | apply KeepsNext.next | split | intro _ | dsimp only

theorem State.servedAtomic_keeps (h : Keeps s t) {x1 x2} : Keeps s (State.servedAtomic t x1 x2) := by
  unfold State.servedAtomic
  repeat' with_reducible first
    | exact h | assumption | apply State.reply_keeps | apply State.noteFault_keeps | apply State.modify_keeps
    | apply Keeps.ite | apply Keeps2.ite | apply Keeps3.ite | apply Keeps2.snd | apply Keeps3.snd | split | apply Keeps2.mk
    | apply Keeps3.mk | refine Keeps2.of (by assumption) ?_ | refine Keeps3.of (by assumption) ?_ | dsimp only

theorem State.atomicRow_keeps (h : Keeps s t) {x1 x2 x3} : Keeps s (State.atomicRow t x1 x2 x3) := by
  unfold State.atomicRow
  repeat' with_reducible first
    | exact h | assumption | apply State.servePort_keeps | apply State.servedAtomic_keeps | apply State.advance_keeps
    | apply State.takeHead_keeps | apply State.receiveRequest_keeps | split | intro _ | dsimp only

theorem execAtomicAdd32_keeps (h : Keeps s t) {x0 x1} : KeepsNext s (execAtomicAdd32 x0 x1 t) := by
  unfold execAtomicAdd32
  repeat' with_reducible first
    | exact h | assumption | apply State.atomicRow_keeps | apply KeepsNext.next | split | dsimp only

theorem execAtomicAdd64_keeps (h : Keeps s t) {x0 x1} : KeepsNext s (execAtomicAdd64 x0 x1 t) := by
  unfold execAtomicAdd64
  repeat' with_reducible first
    | exact h | assumption | apply State.atomicRow_keeps | apply KeepsNext.next | split | dsimp only

theorem execAtomicSwap32_keeps (h : Keeps s t) {x0 x1} : KeepsNext s (execAtomicSwap32 x0 x1 t) := by
  unfold execAtomicSwap32
  repeat' with_reducible first
    | exact h | assumption | apply State.atomicRow_keeps | apply KeepsNext.next | split | dsimp only

theorem execAtomicSwap64_keeps (h : Keeps s t) {x0 x1} : KeepsNext s (execAtomicSwap64 x0 x1 t) := by
  unfold execAtomicSwap64
  repeat' with_reducible first
    | exact h | assumption | apply State.atomicRow_keeps | apply KeepsNext.next | split | dsimp only

theorem execAtomicCas32_keeps (h : Keeps s t) {x0 x1} : KeepsNext s (execAtomicCas32 x0 x1 t) := by
  unfold execAtomicCas32
  repeat' with_reducible first
    | exact h | assumption | apply State.atomicRow_keeps | apply KeepsNext.next | split | dsimp only

theorem State.endDraught_keeps (h : Keeps s t) {x1 x2 x3 x4} : Keeps s (State.endDraught t x1 x2 x3 x4) := by
  unfold State.endDraught
  repeat' with_reducible first
    | exact h | assumption | apply State.txnDone_keeps | apply State.completeInbound_keeps | apply Keeps.ite
    | simp only [Keeps.mk_iff] | apply KeepsParts.same | split | dsimp only

theorem execDraughtResp_keeps (h : Keeps s t) {x0 x1} : KeepsNext s (execDraughtResp x0 x1 t) := by
  unfold execDraughtResp
  repeat' with_reducible first
    | exact h | assumption | apply State.advance_keeps | apply State.endDraught_keeps | apply KeepsNext.next
    | simp only [Keeps.mk_iff] | apply KeepsParts.same | split | dsimp only

theorem State.endVerdict_keeps (h : Keeps s t) {x1} : Keeps s (State.endVerdict t x1) := by
  unfold State.endVerdict
  repeat' with_reducible first
    | exact h | assumption | apply State.raiseTo_keeps | apply State.endDraught_keeps | apply Keeps.ite | split | dsimp only

theorem State.endVerdicts_keeps (h : Keeps s t) : Keeps s (State.endVerdicts t) := by
  unfold State.endVerdicts
  repeat' with_reducible first
    | exact h | assumption | apply State.takeVerdicts_keeps | apply State.endVerdict_keeps
    | refine Keeps.foldl (fun _ _ _ => ?_) ?_ | refine Keeps2.foldl (fun _ _ _ => ?_) ?_ | apply Keeps2.snd | split
    | apply Keeps2.mk | refine Keeps2.of (by assumption) ?_ | dsimp only

theorem State.issueTxn_keeps (h : Keeps s t) {x1 x2 x3} : Keeps s (State.issueTxn t x1 x2 x3) := by
  unfold State.issueTxn
  repeat' with_reducible first
    | exact h | assumption | apply State.setCore_keeps | apply State.noteTxn_keeps | apply State.portRequest_keeps
    | apply Keeps.ite | apply Keeps2.ite | apply Keeps2.snd | split | apply Keeps2.mk | refine Keeps2.of (by assumption) ?_
    | dsimp only

theorem State.issueHere_keeps (h : Keeps s t) {x1 x2 x3} : Keeps s (State.issueHere t x1 x2 x3) := by
  unfold State.issueHere
  repeat' with_reducible first
    | exact h | assumption | apply State.store_keeps | apply State.dropTxn_keeps | apply State.noteTxn_keeps
    | apply Keeps2.snd | split | apply Keeps2.mk | refine Keeps2.of (by assumption) ?_ | dsimp only

theorem execDataMoverIssue_keeps (h : Keeps s t) {x0 x1} : KeepsNext s (execDataMoverIssue x0 x1 t) := by
  unfold execDataMoverIssue
  repeat' with_reducible first
    | exact h | assumption | apply State.refillFor_keeps | apply State.advance_keeps | apply State.issueHere_keeps
    | apply State.issueTxn_keeps | apply KeepsNext.next | apply Keeps.ite | apply KeepsNext.ite | split | dsimp only

theorem State.setShares_keeps (h : Keeps s t) {x1} : Keeps s (State.setShares t x1) := by
  unfold State.setShares
  repeat' with_reducible first
    | exact h | assumption | apply State.setDie_keeps | apply Keeps.ite | split | dsimp only

theorem State.meterBoundary_keeps (h : Keeps s t) : Keeps s (State.meterBoundary t) := by
  unfold State.meterBoundary
  repeat' with_reducible first
    | exact h | assumption | apply State.refillFor_keeps | apply State.setShares_keeps | apply Keeps.ite
    | refine Keeps.foldl (fun _ _ _ => ?_) ?_ | split | dsimp only

end Sys2Proof.Machine
end

