-- ==== Sys2Proof/Laws/KeepsBringup.lean ====
section
/-! SUPPORT. What the operations of Machine/Bringup.lean keep (Laws/Keeps.lean). -/

namespace Sys2Proof.Machine

set_option linter.unusedTactic false
set_option linter.unreachableTactic false
set_option linter.unusedVariables false
set_option linter.unusedSimpArgs false

variable {s t u : State}

theorem State.countYield_keeps (h : Keeps s t) {x1 x2 x3 x4 x5} : Keeps s (State.countYield t x1 x2 x3 x4 x5) := by
  unfold State.countYield
  repeat' with_reducible first
    | exact h | assumption | simp only [Keeps.mk_iff] | apply KeepsParts.same | apply Keeps2.snd | split | apply Keeps2.mk
    | refine Keeps2.of (by assumption) ?_ | dsimp only

theorem State.unionRule_keeps (h : Keeps s t) {x1 x2 x3 x4 x5 x6} : Keeps s (State.unionRule t x1 x2 x3 x4 x5 x6) := by
  unfold State.unionRule
  repeat' with_reducible first
    | exact h | assumption | apply State.countYield_keeps | apply State.logFault_keeps | apply State.logFieldFail_keeps
    | apply Keeps.ite | simp only [Keeps.mk_iff] | apply KeepsParts.same | apply KeepsParts.send | split | dsimp only

theorem State.promote_keeps (h : Keeps s t) {x1 x2 x3} : Keeps s (State.promote t x1 x2 x3) := by
  induction x3 generalizing t x1 x2 with
  | zero =>
    rw [State.promote]
    repeat' with_reducible first
    | exact h | assumption | apply State.pick_keeps
    | apply State.setCore_keeps | apply State.setUnit_keeps | apply Keeps.ite
      | simp only [Keeps.mk_iff] | apply KeepsParts.same | split | dsimp only
  | succ n ih =>
    rw [State.promote]
    repeat' with_reducible first
    | exact h | assumption | apply State.pick_keeps
    | apply ih | apply State.setCore_keeps | apply State.setUnit_keeps | apply Keeps.ite
      | simp only [Keeps.mk_iff] | apply KeepsParts.same | split | dsimp only

theorem State.selectDie_keeps (h : Keeps s t) {x1} : Keeps s (State.selectDie t x1) := by
  unfold State.selectDie
  repeat' with_reducible first
    | exact h | assumption | apply State.setCore_keeps | apply State.setUnit_keeps | apply State.promote_keeps
    | refine Keeps.foldl (fun _ _ _ => ?_) ?_ | refine Keeps2.foldl (fun _ _ _ => ?_) ?_ | apply Keeps2.snd | split
    | apply Keeps2.mk | refine Keeps2.of (by assumption) ?_ | dsimp only

theorem State.replaceCore_keeps (h : Keeps s t) {x1 x2 x3} : Keeps s (State.replaceCore t x1 x2 x3) := by
  unfold State.replaceCore
  repeat' with_reducible first
    | exact h | assumption | apply State.listCore_keeps | apply State.promote_keeps | apply State.scheduleNext_keeps
    | refine Keeps.foldl (fun _ _ _ => ?_) ?_ | apply Keeps.ite | split | dsimp only

theorem State.fresh_passes (h : Passes s t) : Passes s t.fresh := by
  obtain ⟨a, b, c, d, e, g⟩ := h
  have k : Clock.sound State.reset.clk := ⟨by decide, by decide, by decide⟩
  exact ⟨a, b, fun _ => k, d, fun _ => rfl, g⟩

theorem State.unlist_keeps (h : Keeps s t) {x1 x2} : Keeps s (State.unlist t x1 x2) := by
  unfold State.unlist
  repeat' with_reducible first
    | exact h | assumption | apply Keeps.ite | simp only [Keeps.mk_iff] | apply KeepsParts.same | split | dsimp only

theorem State.coreTested_keeps (h : Keeps s t) {x1 x2} : Keeps s (State.coreTested t x1 x2) := by
  unfold State.coreTested
  repeat' with_reducible first
    | exact h | assumption | apply State.unlist_keeps | apply State.unionRule_keeps | split | dsimp only

theorem State.testCores_keeps (h : Keeps s t) {x1} : Keeps s (State.testCores t x1) := by
  unfold State.testCores
  repeat' with_reducible first
    | exact h | assumption | apply State.coreTested_keeps | apply Keeps.ite | simp only [Keeps.mk_iff]
    | apply KeepsParts.same | apply KeepsParts.send | refine Keeps.foldl (fun _ _ _ => ?_) ?_ | split | intro _
    | dsimp only

theorem State.testHalves_keeps (h : Keeps s t) {x1} : Keeps s (State.testHalves t x1) := by
  unfold State.testHalves
  repeat' with_reducible first
    | exact h | assumption | apply State.unionRule_keeps | apply State.unlist_keeps
    | refine Keeps.foldl (fun _ _ _ => ?_) ?_ | apply Keeps.ite | simp only [Keeps.mk_iff] | apply KeepsParts.same | split
    | dsimp only

theorem State.startBundle_keeps (h : Keeps s t) {x1} : Keeps s (State.startBundle t x1) := by
  unfold State.startBundle
  repeat' with_reducible first
    | exact h | assumption | apply State.setUnit_keeps | apply State.unionRule_keeps | apply Keeps.ite
    | simp only [Keeps.mk_iff] | apply KeepsParts.same | apply KeepsParts.send | split | dsimp only

theorem State.failLane_keeps (h : Keeps s t) {x1 x2 x3 x4} : Keeps s (State.failLane t x1 x2 x3 x4) := by
  unfold State.failLane
  repeat' with_reducible first
    | exact h | assumption | apply State.countYield_keeps | apply State.logFault_keeps | apply Keeps.ite
    | simp only [Keeps.mk_iff] | apply KeepsParts.same | split | dsimp only

theorem State.restartBundle_keeps (h : Keeps s t) {x1 x2 x3} : Keeps s (State.restartBundle t x1 x2 x3) := by
  unfold State.restartBundle
  repeat' with_reducible first
    | exact h | assumption | apply State.setUnit_keeps | apply State.replaceCore_keeps | apply State.bundleFails_keeps
    | apply Keeps.ite | simp only [Keeps.mk_iff] | apply KeepsParts.same | split | dsimp only

theorem State.retestLanes_keeps (h : Keeps s t) {x1 x2} : Keeps s (State.retestLanes t x1 x2) := by
  unfold State.retestLanes
  repeat' with_reducible first
    | exact h | assumption | apply State.failLane_keeps | apply State.restartBundle_keeps | apply Keeps.ite
    | simp only [Keeps.mk_iff] | apply KeepsParts.same | refine Keeps.foldl (fun _ _ _ => ?_) ?_ | split | dsimp only

theorem State.failHalf_keeps (h : Keeps s t) {x1 x2 x3} : Keeps s (State.failHalf t x1 x2 x3) := by
  unfold State.failHalf
  repeat' with_reducible first
    | exact h | assumption | apply State.unionRule_keeps | apply Keeps.ite | simp only [Keeps.mk_iff]
    | apply KeepsParts.same | split | dsimp only

theorem State.fusePasses_keeps (h : Keeps s t) {x1 x2} : Keeps s (State.fusePasses t x1 x2) := by
  unfold State.fusePasses
  repeat' with_reducible first
    | exact h | assumption | apply State.logFault_keeps | refine Keeps.foldl (fun _ _ _ => ?_) ?_ | split | intro _
    | dsimp only

theorem State.testLanes_keeps (h : Keeps s t) {x1} : Keeps s (State.testLanes t x1) := by
  unfold State.testLanes
  repeat' with_reducible first
    | exact h | assumption | apply State.countYield_keeps | apply State.failLane_keeps | apply State.startBundle_keeps
    | refine Keeps.foldl (fun _ _ _ => ?_) ?_ | refine Keeps2.foldl (fun _ _ _ => ?_) ?_ | simp only [Keeps.mk_iff]
    | apply KeepsParts.same | apply Keeps2.snd | split | apply Keeps2.mk | refine Keeps2.of (by assumption) ?_ | dsimp only

theorem State.testRings_keeps (h : Keeps s t) {x1} : Keeps s (State.testRings t x1) := by
  unfold State.testRings
  repeat' with_reducible first
    | exact h | assumption | apply State.unionRule_keeps | apply State.setRing_keeps
    | refine Keeps.foldl (fun _ _ _ => ?_) ?_ | refine Keeps2.foldl (fun _ _ _ => ?_) ?_ | apply Keeps2.snd | split
    | apply Keeps2.mk | refine Keeps2.of (by assumption) ?_ | dsimp only

theorem State.startUnit_keeps (h : Keeps s t) {x0 x2} : Keeps s (State.startUnit x0 t x2) := by
  unfold State.startUnit
  repeat' with_reducible first
    | exact h | assumption | apply State.setUnit_keeps | apply Keeps.ite | simp only [Keeps.mk_iff] | apply KeepsParts.same
    | apply KeepsParts.send | split | dsimp only

theorem State.trainLanes_keeps (h : Keeps s t) {x1} : Keeps s (State.trainLanes t x1) := by
  unfold State.trainLanes
  repeat' with_reducible first
    | exact h | assumption | apply State.setUnit_keeps | apply State.enterTraining_keeps | apply Keeps.ite
    | simp only [Keeps.mk_iff] | apply KeepsParts.same | refine Keeps.foldl (fun _ _ _ => ?_) ?_ | split | dsimp only

theorem State.releaseCores_keeps (h : Keeps s t) {x1} : Keeps s (State.releaseCores t x1) := by
  unfold State.releaseCores
  repeat' with_reducible first
    | exact h | assumption | apply State.setCore_keeps | apply State.load_keeps | apply State.setUnit_keeps
    | apply Keeps.ite | apply Keeps3.ite | simp only [Keeps.mk_iff] | apply KeepsParts.same
    | refine Keeps.foldl (fun _ _ _ => ?_) ?_ | refine Keeps3.foldl (fun _ _ _ => ?_) ?_ | apply Keeps3.snd
    | apply Keeps2.snd | split | apply Keeps3.mk | refine Keeps3.of (by assumption) ?_ | apply Keeps2.mk | dsimp only

theorem State.startUnder_keeps (h : Keeps s t) {x1} : Keeps s (State.startUnder t x1) := by
  unfold State.startUnder
  repeat' with_reducible first
    | exact h | assumption | apply State.setUnit_keeps | apply Keeps.ite | split | dsimp only

theorem State.startedLate_keeps (h : Keeps s t) {x1} : Keeps s (State.startedLate t x1) := by
  unfold State.startedLate
  repeat' with_reducible first
    | exact h | assumption | apply State.setDie_keeps | apply State.startUnder_keeps | apply State.trained_keeps
    | apply State.trainLanes_keeps | apply State.cartStarted_keeps | refine Keeps.foldl (fun _ _ _ => ?_) ?_ | split
    | dsimp only

theorem State.stepEndsLate_keeps (h : Keeps s t) {x1} : Keeps s (State.stepEndsLate t x1) := by
  unfold State.stepEndsLate
  repeat' with_reducible first
    | exact h | assumption | apply State.coreTested_keeps | apply State.setUnit_keeps | apply State.startedLate_keeps
    | simp only [Keeps.mk_iff] | apply KeepsParts.same | apply KeepsParts.send | split | dsimp only

theorem State.foldAtStart_keeps (h : Keeps s t) : Keeps s (State.foldAtStart t) := by
  unfold State.foldAtStart
  repeat' with_reducible first
    | exact h | assumption | apply Keeps.ite | simp only [Keeps.mk_iff] | apply KeepsParts.same | split | dsimp only

theorem State.becomeReady_keeps (h : Keeps s t) : Keeps s (State.becomeReady t) := by
  unfold State.becomeReady
  repeat' with_reducible first
    | exact h | assumption | apply Keeps.ite | simp only [Keeps.mk_iff] | apply KeepsParts.same | split | dsimp only

theorem State.finishStart_keeps (h : Keeps s t) : Keeps s (State.finishStart t) := by
  unfold State.finishStart
  repeat' with_reducible first
    | exact h | assumption | apply State.selectDie_keeps | apply State.releaseCores_keeps | apply State.setShares_keeps
    | apply State.becomeReady_keeps | apply State.foldAtStart_keeps | apply State.moduleFatal_keeps
    | apply State.updateGrade_keeps | refine Keeps.foldl (fun _ _ _ => ?_) ?_ | apply Keeps.ite | split | dsimp only

theorem State.startFails_keeps (h : Keeps s t) {x1} : Keeps s (State.startFails t x1) := by
  unfold State.startFails
  repeat' with_reducible first
    | exact h | assumption | apply State.setUnit_keeps | apply State.detectLoss_keeps | apply State.coreTested_keeps
    | apply State.setCart_keeps | simp only [Keeps.mk_iff] | apply KeepsParts.same | apply KeepsParts.send | split
    | dsimp only

theorem State.startCart_keeps (h : Keeps s t) {x0 x2 x3} : Keeps s (State.startCart x0 t x2 x3) := by
  unfold State.startCart
  repeat' with_reducible first
    | exact h | assumption | apply State.setCart_keeps | apply State.startUnit_keeps | apply State.startFails_keeps
    | apply Keeps.ite | simp only [Keeps.mk_iff] | apply KeepsParts.same | split | dsimp only

theorem State.lockReserve_keeps (h : Keeps s t) {x1} : Keeps s (State.lockReserve t x1) := by
  unfold State.lockReserve
  repeat' with_reducible first
    | exact h | assumption | apply State.setRegF_keeps | simp only [Keeps.mk_iff] | apply KeepsParts.same | split
    | dsimp only

theorem State.startClock_passes (h : Passes s t) {n} : Passes s (t.startClock n) := by
  unfold State.startClock
  refine Passes.setClk h rfl rfl ?_ rfl rfl rfl
  exact ⟨(by decide : 512 ≤ 1024), (by decide : 1024 ≤ 1535), (by decide : 0 < 1024)⟩

theorem State.hostStep_keeps (h : Keeps s t) : Keeps s (State.hostStep t) := by
  unfold State.hostStep
  repeat' with_reducible first
    | exact h | assumption | apply State.setRegF_keeps | split | dsimp only

theorem State.runStart_passes (h : Passes s t) {x1} : Passes s (State.runStart t x1) := by
  unfold State.runStart
  refine Passes.step (State.startClock_passes h (n := x1.strides)) ?_
  have k := Keeps.refl (t.startClock x1.strides)
  generalize t.startClock x1.strides = v at k ⊢
  repeat' with_reducible first
    | exact k | assumption | apply State.setRegF_keeps | apply State.testCores_keeps | apply State.startCart_keeps
    | apply State.testHalves_keeps | apply State.testLanes_keeps | apply State.testRings_keeps | apply State.setDie_keeps
    | apply State.logFault_keeps | apply State.setUnit_keeps | apply State.startUnit_keeps | apply State.startFails_keeps
    | apply State.hostStep_keeps | apply State.trained_keeps | apply State.lockReserve_keeps | apply State.setCart_keeps
    | apply State.setFeed_keeps | apply State.recordNominal_keeps | apply State.calibrate_keeps | apply State.trainLanes_keeps | refine Keeps.foldl (fun _ _ _ => ?_) ?_ | apply Keeps.ite | split | dsimp only

theorem State.latchStraps_keeps (h : Keeps s t) {x1} : Keeps s (State.latchStraps t x1) := by
  unfold State.latchStraps
  repeat' with_reducible first
    | exact h | assumption | apply State.setReg_keeps | simp only [Keeps.mk_iff] | apply KeepsParts.same | split
    | dsimp only

theorem State.leaveReset_keeps (h : Keeps s t) {x1} : Keeps s (State.leaveReset t x1) := by
  unfold State.leaveReset
  repeat' with_reducible first
    | exact h | assumption | apply State.setReg_keeps | simp only [Keeps.mk_iff] | apply KeepsParts.same | split
    | dsimp only

theorem State.startFailed_keeps (h : Keeps s t) : Keeps s (State.startFailed t) := by
  unfold State.startFailed
  repeat' with_reducible first
    | exact h | assumption | apply State.hostStep_keeps | apply State.updateGrade_keeps | simp only [Keeps.mk_iff]
    | apply KeepsParts.same | split | dsimp only

theorem State.startPhase_keeps (h : Keeps s t) {x1} : Keeps s (State.startPhase t x1) := by
  unfold State.startPhase
  repeat' with_reducible first
    | exact h | assumption | simp only [Keeps.mk_iff] | apply KeepsParts.same | split | dsimp only

theorem State.bootGrooms_keeps (h : Keeps s t) {x1 x2 x3 x4 x5} : Keeps s (State.bootGrooms t x1 x2 x3 x4 x5) := by
  unfold State.bootGrooms
  repeat' with_reducible first
    | exact h | assumption | apply State.logFault_keeps | apply Keeps.ite | simp only [Keeps.mk_iff] | apply KeepsParts.same
    | split | dsimp only

theorem State.countBoot_keeps (h : Keeps s t) : Keeps s (State.countBoot t) := by
  unfold State.countBoot
  repeat' with_reducible first
    | exact h | assumption | apply State.defer_keeps | apply Keeps.ite | simp only [Keeps.mk_iff] | apply KeepsParts.same
    | split | dsimp only

theorem State.noGroom_keeps (h : Keeps s t) : Keeps s (State.noGroom t) := by
  unfold State.noGroom
  repeat' with_reducible first
    | exact h | assumption | apply State.startFailed_keeps | simp only [Keeps.mk_iff] | apply KeepsParts.same | split
    | dsimp only

theorem State.holdStart_keeps (h : Keeps s t) : Keeps s (State.holdStart t) := by
  unfold State.holdStart
  repeat' with_reducible first
    | exact h | assumption | apply State.startPhase_keeps | apply State.hostStep_keeps | simp only [Keeps.mk_iff]
    | apply KeepsParts.same | split | dsimp only

theorem State.endHold_keeps (h : Keeps s t) : Keeps s (State.endHold t) := by
  unfold State.endHold
  repeat' with_reducible first
    | exact h | assumption | simp only [Keeps.mk_iff] | apply KeepsParts.same | split | dsimp only

theorem State.startUnits_passes (h : Passes s t) {x1} : Passes s (State.startUnits t x1) := by
  unfold State.startUnits
  have k := State.runStart_passes (h.step (State.countBoot_keeps (State.endHold_keeps (Keeps.refl t)))) (x1 := x1)
  exact Passes.ite (k.step (State.finishStart_keeps (Keeps.refl _))) (k.step (State.startPhase_keeps (Keeps.refl _)))

theorem State.moduleStart_passes (h : Passes s t) {x1} : Passes s (State.moduleStart t x1) := by
  unfold State.moduleStart
  dsimp only
  have k : Passes s (if t.groom.phase = 3 ∧ t.sup.startDue then t else t.fresh.latchStraps x1) :=
    Passes.ite h ((State.fresh_passes h).step (State.latchStraps_keeps (Keeps.refl _)))
  generalize (if t.groom.phase = 3 ∧ t.sup.startDue then t else t.fresh.latchStraps x1) = v at k ⊢
  have k := k.step (State.leaveReset_keeps (Keeps.refl v) (x1 := x1))
  generalize v.leaveReset x1 = v at k ⊢
  refine Passes.ite (k.step (State.startPhase_keeps (Keeps.refl _))) ?_
  have k := k.trans (Passes.ite (c := v.slotVerifies x1.slotA = true ∨ t.groom.phase = 3 ∧ t.sup.startDue = true) (Passes.refl v)
    (State.logFault_keeps (Keeps.refl v) (x1 := Flt.GRM_BOOT_SLOT_FAIL) (x2 := blkGRM) (x3 := 0)).passes)
  generalize (if v.slotVerifies x1.slotA = true ∨ t.groom.phase = 3 ∧ t.sup.startDue = true then v
    else v.logFault Flt.GRM_BOOT_SLOT_FAIL blkGRM 0) = v at k ⊢
  have k := k.trans (Passes.ite (c := v.slotVerifies x1.slotB = true ∨ t.groom.phase = 3 ∧ t.sup.startDue = true) (Passes.refl v)
    (State.logFault_keeps (Keeps.refl v) (x1 := Flt.GRM_BOOT_SLOT_FAIL) (x2 := blkGRM) (x3 := 0)).passes)
  generalize (if v.slotVerifies x1.slotB = true ∨ t.groom.phase = 3 ∧ t.sup.startDue = true then v
    else v.logFault Flt.GRM_BOOT_SLOT_FAIL blkGRM 0) = v at k ⊢
  cases v.bootSlot x1 with
  | none => exact k.step (State.noGroom_keeps (Keeps.refl _))
  | some p =>
    obtain ⟨b, x⟩ := p
    dsimp only
    refine Passes.ite (k.step (State.noGroom_keeps (Keeps.refl _))) ?_
    have k := k.step (State.bootGrooms_keeps (Keeps.refl v) (x1 := x1.groom0) (x2 := x1.groom1) (x3 := b) (x4 := x)
      (x5 := decide (t.groom.phase = 3 ∧ t.sup.startDue = true)))
    exact Passes.ite (k.step (State.holdStart_keeps (Keeps.refl _)))
      (Passes.ite (k.step (State.startFailed_keeps (Keeps.refl _))) (State.startUnits_passes k))

theorem execModuleStart_passes (h : Passes s t) {x0} : PassesNext s (execModuleStart x0 t) := by
  unfold execModuleStart
  repeat' with_reducible first
    | exact h | dsimp only | apply State.moduleStart_passes | apply PassesNext.next | apply Passes.ite
    | refine Passes.step ?_ (Keeps.foldl (fun _ _ _ => ?_) (Keeps.refl _)) | assumption | apply Keeps.ite | split

theorem State.stepDone_keeps (h : Keeps s t) {x1} : Keeps s (State.stepDone t x1) := by
  unfold State.stepDone
  repeat' with_reducible first
    | exact h | assumption | apply State.finishStart_keeps | apply Keeps.ite | simp only [Keeps.mk_iff]
    | apply KeepsParts.same | split | dsimp only

theorem execStartStepTimeout_keeps (h : Keeps s t) {x0} : KeepsNext s (execStartStepTimeout x0 t) := by
  unfold execStartStepTimeout
  repeat' with_reducible first
    | exact h | assumption | apply State.stepDone_keeps | apply State.startFails_keeps | apply State.logFault_keeps
    | apply KeepsNext.next | apply Keeps.ite | apply KeepsNext.ite | split | dsimp only

theorem State.commitRollback_keeps (h : Keeps s t) : Keeps s (State.commitRollback t) := by
  unfold State.commitRollback
  split
  · exact h
  · rename_i n
    split
    · refine Keeps.setGroom h ?_
      simp only
      omega
    · exact State.defer_keeps h

theorem execRollbackCommit_keeps (h : Keeps s t) {x0} : KeepsNext s (execRollbackCommit x0 t) := by
  unfold execRollbackCommit
  repeat' with_reducible first
    | exact h | assumption | apply State.commitRollback_keeps | apply KeepsNext.next | apply Keeps.ite | apply KeepsNext.ite
    | split | dsimp only

theorem execFieldFailListClear_keeps (h : Keeps s t) {x0} : KeepsNext s (execFieldFailListClear x0 t) := by
  unfold execFieldFailListClear
  repeat' with_reducible first
    | exact h | assumption | apply KeepsNext.next | apply Keeps.ite | apply KeepsNext.ite | simp only [Keeps.mk_iff]
    | apply KeepsParts.same | split | dsimp only

theorem State.installFirmware_keeps (h : Keeps s t) {x1} : Keeps s (State.installFirmware t x1) := by
  unfold State.installFirmware
  repeat' with_reducible first
    | exact h | assumption | apply State.load_keeps | apply State.setCore_keeps | apply State.zeroRange_keeps
    | apply State.setUnit_keeps | apply Keeps.ite | apply Keeps3.ite | simp only [Keeps.mk_iff] | apply KeepsParts.same
    | apply Keeps3.snd | apply Keeps2.snd | split | apply Keeps3.mk | refine Keeps3.of (by assumption) ?_
    | apply Keeps2.mk | dsimp only

theorem State.takeBlock_keeps (h : Keeps s t) {x1 x2} : Keeps s (State.takeBlock t x1 x2) := by
  unfold State.takeBlock
  repeat' with_reducible first
    | exact h | assumption | apply State.load_keeps | apply State.setCore_keeps | apply State.installFirmware_keeps
    | apply Keeps.ite | apply Keeps3.ite | simp only [Keeps.mk_iff] | apply KeepsParts.same | apply Keeps3.snd
    | apply Keeps2.snd | split | apply Keeps3.mk | refine Keeps3.of (by assumption) ?_ | apply Keeps2.mk | dsimp only

theorem execFirmwareBlockReceived_keeps (h : Keeps s t) {x0 x1} : KeepsNext s (execFirmwareBlockReceived x0 x1 t) := by
  unfold execFirmwareBlockReceived
  repeat' with_reducible first
    | exact h | assumption | apply State.takeBlock_keeps | apply KeepsNext.next | split | dsimp only

theorem State.repairCore_keeps (h : Keeps s t) {x1 x2} : Keeps s (State.repairCore t x1 x2) := by
  unfold State.repairCore
  repeat' with_reducible first
    | exact h | assumption | apply State.setUnit_keeps | apply State.replaceCore_keeps | apply State.load_keeps
    | apply State.setCore_keeps | apply State.poke_keeps | apply State.takeBlock_keeps | apply State.logFault_keeps
    | apply Keeps.ite | apply Keeps3.ite | simp only [Keeps.mk_iff] | apply KeepsParts.same
    | refine Keeps.foldl (fun _ _ _ => ?_) ?_ | refine Keeps3.foldl (fun _ _ _ => ?_) ?_ | apply Keeps3.snd
    | apply Keeps2.snd | split | apply Keeps3.mk | refine Keeps3.of (by assumption) ?_ | apply Keeps2.mk | dsimp only

theorem execFirmwareRepairCheck_keeps (h : Keeps s t) {x0 x1} : KeepsNext s (execFirmwareRepairCheck x0 x1 t) := by
  unfold execFirmwareRepairCheck
  repeat' with_reducible first
    | exact h | assumption | apply State.load_keeps | apply State.repairCore_keeps | apply KeepsNext.next
    | refine Keeps.foldl (fun _ _ _ => ?_) ?_ | refine Keeps3.foldl (fun _ _ _ => ?_) ?_ | apply Keeps3.snd
    | apply Keeps2.snd | split | apply Keeps3.mk | refine Keeps3.of (by assumption) ?_ | apply Keeps2.mk | dsimp only

end Sys2Proof.Machine
end

