-- ==== Sys2Proof/Laws/KeepsFaults.lean ====
section
/-! SUPPORT. What the operations of Machine/Faults.lean keep (Laws/Keeps.lean). -/

namespace Sys2Proof.Machine

set_option linter.unusedTactic false
set_option linter.unreachableTactic false
set_option linter.unusedVariables false
set_option linter.unusedSimpArgs false

variable {s t u : State}

theorem execFaultRecord_keeps (h : Keeps s t) {x0 x1 x2 x3 x4 x5 x6} : KeepsNext s (execFaultRecord x0 x1 x2 x3 x4 x5 x6 t) := by
  unfold execFaultRecord
  repeat' with_reducible first
    | exact h | assumption | apply State.raiseRecord_keeps | apply KeepsNext.next | apply Keeps.ite | apply KeepsNext.ite
    | split | dsimp only

theorem execFaultRingWriteComplete_keeps (h : Keeps s t) {x0 x1} : KeepsNext s (execFaultRingWriteComplete x0 x1 t) := by
  unfold execFaultRingWriteComplete
  repeat' with_reducible first
    | exact h | assumption | apply State.ringWriteDone_keeps | apply KeepsNext.next | split | dsimp only

theorem State.writeFaultHead_keeps (h : Keeps s t) {x1} : Keeps s (State.writeFaultHead t x1) := by
  unfold State.writeFaultHead
  repeat' with_reducible first
    | exact h | assumption | apply State.setReg_keeps | apply Keeps.ite | split | dsimp only

theorem execFaultRingHeadWrite_keeps (h : Keeps s t) {x0 x1} : KeepsNext s (execFaultRingHeadWrite x0 x1 t) := by
  unfold execFaultRingHeadWrite
  repeat' with_reducible first
    | exact h | assumption | apply State.writeFaultHead_keeps | apply KeepsNext.next | apply Keeps.ite | apply KeepsNext.ite
    | split | dsimp only

theorem State.faultRing_keeps (h : Keeps s t) {x1 x2} : Keeps s (State.faultRing t x1 x2) := by
  unfold State.faultRing
  repeat' with_reducible first
    | exact h | assumption | apply State.setLive_keeps | apply State.setRegF_keeps | apply Keeps.ite | split | dsimp only

end Sys2Proof.Machine
end

