-- ==== Sys2Proof/Laws/KeepsHitchOps.lean ====
section
/-! SUPPORT. What the operations of Machine/HitchOps.lean keep (Laws/Keeps.lean). -/

namespace Sys2Proof.Machine

set_option linter.unusedTactic false
set_option linter.unreachableTactic false
set_option linter.unusedVariables false
set_option linter.unusedSimpArgs false

variable {s t u : State}

theorem State.mirrorWrite_keeps (h : Keeps s t) {x1} : Keeps s (State.mirrorWrite t x1) := by
  unfold State.mirrorWrite
  repeat' with_reducible first
    | exact h | assumption | apply State.hostWrite_keeps | apply State.setCtr_keeps | apply Keeps.ite | split | dsimp only

theorem State.fire_keeps (h : Keeps s t) {x1} : Keeps s (State.fire t x1) := by
  unfold State.fire
  repeat' with_reducible first
    | exact h | assumption | apply State.mirrorWrite_keeps | apply State.setCtr_keeps | apply State.bump_keeps
    | apply State.sendMsix_keeps | split | dsimp only

theorem State.hostChanged_keeps (h : Keeps s t) {x1} : Keeps s (State.hostChanged t x1) := by
  unfold State.hostChanged
  repeat' with_reducible first
    | exact h | assumption | apply State.setCtr_keeps | apply State.fire_keeps | apply Keeps.ite | split | dsimp only

theorem State.pushRelease_keeps (h : Keeps s t) {x1 x2 x3} : Keeps s (State.pushRelease t x1 x2 x3) := by
  unfold State.pushRelease
  repeat' with_reducible first
    | exact h | assumption | apply State.loadSlot_keeps | simp only [Keeps.mk_iff] | apply KeepsParts.same
    | apply KeepsParts.send | apply Keeps2.snd | split | apply Keeps2.mk | refine Keeps2.of (by assumption) ?_ | dsimp only

theorem State.evalWatches_keeps (h : Keeps s t) {x1} : Keeps s (State.evalWatches t x1) := by
  unfold State.evalWatches
  repeat' with_reducible first
    | exact h | assumption | apply State.pushRelease_keeps | refine Keeps.foldl (fun _ _ _ => ?_) ?_
    | simp only [Keeps.mk_iff] | apply KeepsParts.same | split | dsimp only

theorem State.counterChanged_keeps (h : Keeps s t) {x1} : Keeps s (State.counterChanged t x1) := by
  unfold State.counterChanged
  repeat' with_reducible first
    | exact h | assumption | apply State.judgeOwn_keeps | apply State.evalWatches_keeps | apply State.hostChanged_keeps
    | refine Keeps.foldl (fun _ _ _ => ?_) ?_ | split | dsimp only

theorem State.releaseWaiters_keeps (h : Keeps s t) {x1} : Keeps s (State.releaseWaiters t x1) := by
  unfold State.releaseWaiters
  repeat' with_reducible first
    | exact h | assumption | apply State.raiseTo_keeps | apply State.answerWait_keeps | apply State.pushRelease_keeps
    | refine Keeps.foldl (fun _ _ _ => ?_) ?_ | simp only [Keeps.mk_iff] | apply KeepsParts.same | apply KeepsParts.send
    | split | dsimp only

theorem State.mirrorDue_keeps (h : Keeps s t) {x1} : Keeps s (State.mirrorDue t x1) := by
  unfold State.mirrorDue
  repeat' with_reducible first
    | exact h | assumption | apply State.setCtr_keeps | apply Keeps.ite | split | dsimp only

theorem State.leftLive_keeps (h : Keeps s t) {x1} : Keeps s (State.leftLive t x1) := by
  unfold State.leftLive
  repeat' with_reducible first
    | exact h | assumption | apply State.fire_keeps | apply State.mirrorDue_keeps | apply Keeps.ite | split | dsimp only

theorem State.enterOrphaned_keeps (h : Keeps s t) {x1 x2} : Keeps s (State.enterOrphaned t x1 x2) := by
  unfold State.enterOrphaned
  repeat' with_reducible first
    | exact h | assumption | apply State.bump_keeps | apply State.setCtr_keeps | apply State.leftLive_keeps
    | apply State.releaseWaiters_keeps | apply Keeps.ite | split | dsimp only

theorem State.freeIfOff_keeps (h : Keeps s t) {x1} : Keeps s (State.freeIfOff t x1) := by
  unfold State.freeIfOff
  repeat' with_reducible first
    | exact h | assumption | apply State.setCtr_keeps | apply Keeps.ite | simp only [Keeps.mk_iff]
    | apply KeepsParts.same | split | dsimp only

theorem State.orphanLater_keeps (h : Keeps s t) {x1 x2} : Keeps s (State.orphanLater t x1 x2) := by
  unfold State.orphanLater
  repeat' with_reducible first
    | exact h | assumption | simp only [Keeps.mk_iff] | apply KeepsParts.same | apply KeepsParts.send | apply Keeps2.snd
    | split | apply Keeps2.mk | refine Keeps2.of (by assumption) ?_ | dsimp only

theorem State.applyOrphans_keeps (h : Keeps s t) : Keeps s (State.applyOrphans t) := by
  unfold State.applyOrphans
  repeat' with_reducible first
    | exact h | assumption | apply State.enterOrphaned_keeps | apply State.freeIfOff_keeps | simp only [Keeps.mk_iff]
    | apply KeepsParts.same | refine Keeps.foldl (fun _ _ _ => ?_) ?_ | split | dsimp only

theorem State.revokeJob_keeps (h : Keeps s t) {x1} : Keeps s (State.revokeJob t x1) := by
  unfold State.revokeJob
  repeat' with_reducible first
    | exact h | assumption | apply State.enterOrphaned_keeps | refine Keeps.foldl (fun _ _ _ => ?_) ?_ | apply Keeps.ite
    | split | dsimp only

theorem State.counterInit_keeps (h : Keeps s t) {x1 x2 x3 x4} : Keeps s (State.counterInit t x1 x2 x3 x4) := by
  unfold State.counterInit
  repeat' with_reducible first
    | exact h | assumption | apply State.leftLive_keeps | apply State.releaseWaiters_keeps | apply State.counterChanged_keeps | apply State.setCtr_keeps
    | apply Keeps.ite | split | dsimp only

theorem State.counterFree_keeps (h : Keeps s t) {x1} : Keeps s (State.counterFree t x1) := by
  unfold State.counterFree
  repeat' with_reducible first
    | exact h | assumption | apply State.releaseWaiters_keeps | apply State.setCtr_keeps | apply State.leftLive_keeps
    | apply State.mirrorDue_keeps | apply Keeps.ite | split | dsimp only

theorem State.counterSet_keeps (h : Keeps s t) {x1 x2} : Keeps s (State.counterSet t x1 x2) := by
  unfold State.counterSet
  repeat' with_reducible first
    | exact h | assumption | apply State.counterChanged_keeps | apply State.setCtr_keeps | apply Keeps.ite | split
    | dsimp only

theorem State.orphanCore_keeps (h : Keeps s t) {x1} : Keeps s (State.orphanCore t x1) := by
  unfold State.orphanCore
  repeat' with_reducible first
    | exact h | assumption | apply State.enterOrphaned_keeps | refine Keeps.foldl (fun _ _ _ => ?_) ?_ | split | dsimp only

theorem State.freeCore_keeps (h : Keeps s t) {x1} : Keeps s (State.freeCore t x1) := by
  unfold State.freeCore
  repeat' with_reducible first
    | exact h | assumption | apply State.setCtr_keeps | refine Keeps.foldl (fun _ _ _ => ?_) ?_ | apply Keeps.ite | split
    | dsimp only

theorem State.orphanFunction_keeps (h : Keeps s t) {x1} : Keeps s (State.orphanFunction t x1) := by
  unfold State.orphanFunction
  refine Keeps.foldl (fun a x k => ?_) h
  obtain ⟨n, v⟩ := x
  dsimp only
  split
  · generalize counterAt 3 none (n - 2 ^ 20 - 1024) = c
    cases c with
    | none => exact k
    | some c => exact State.orphanLater_keeps k
  · exact k

theorem State.frameOutcome.noteStatus_keeps (h : Keeps s t) {x1 x2 x3} : Keeps s (State.frameOutcome.noteStatus t x1 x2 x3) := by
  unfold State.frameOutcome.noteStatus
  repeat' with_reducible first
    | exact h | assumption | apply State.setQueue_keeps | apply Keeps.ite | split | dsimp only

theorem State.frameOutcome.noteDone_keeps (h : Keeps s t) {x1 x2} : Keeps s (State.frameOutcome.noteDone t x1 x2) := by
  unfold State.frameOutcome.noteDone
  repeat' with_reducible first
    | exact h | assumption | apply State.setQueue_keeps | apply Keeps.ite | split | dsimp only

theorem State.frameOutcome_keeps (h : Keeps s t) {x1 x2} : Keeps s (State.frameOutcome t x1 x2) := by
  unfold State.frameOutcome
  repeat' with_reducible first
    | exact h | assumption | apply State.frameOutcome.noteStatus_keeps | apply State.frameOutcome.noteDone_keeps | apply State.setQueue_keeps
    | apply Keeps.ite | apply KeepsNext.ite | simp only [Keeps.mk_iff] | apply KeepsParts.same | split | dsimp only

theorem State.notePulse_keeps (h : Keeps s t) {x1 x2} : Keeps s (State.notePulse t x1 x2) := by
  unfold State.notePulse
  repeat' with_reducible first
    | exact h | assumption | simp only [Keeps.mk_iff] | apply KeepsParts.same | split | dsimp only

theorem State.applySignal_keeps (h : Keeps s t) {x1 x2 x3} : Keeps s (State.applySignal t x1 x2 x3) := by
  unfold State.applySignal
  repeat' with_reducible first
    | exact h | assumption | apply State.bump_keeps | apply State.orphanLater_keeps | apply State.raiseTo_keeps
    | apply State.setCtr_keeps | apply State.notePulse_keeps | apply State.counterChanged_keeps | apply Keeps.ite
    | simp only [Keeps.mk_iff] | apply KeepsParts.same | split | dsimp only

end Sys2Proof.Machine
end

