-- ==== Sys2Proof/Laws/KeepsHitch.lean ====
section
/-! SUPPORT. What the operations of Machine/Hitch.lean keep (Laws/Keeps.lean). -/

namespace Sys2Proof.Machine

set_option linter.unusedTactic false
set_option linter.unreachableTactic false
set_option linter.unusedVariables false
set_option linter.unusedSimpArgs false

variable {s t u : State}

theorem State.countDelivery_keeps (h : Keeps s t) {x1} : Keeps s (State.countDelivery t x1) := by
  unfold State.countDelivery
  repeat' with_reducible first
    | exact h | assumption | apply State.loadSlot_keeps | split | dsimp only

theorem State.applyParts_keeps (h : Keeps s t) {x1 x2} : Keeps s (State.applyParts t x1 x2) := by
  unfold State.applyParts
  repeat' with_reducible first
    | exact h | assumption | apply State.applySignal_keeps | apply State.frameOutcome_keeps
    | refine Keeps.foldl (fun _ _ _ => ?_) ?_ | split | dsimp only

theorem State.dropFrame_keeps (h : Keeps s t) {x1 x2 x3} : Keeps s (State.dropFrame t x1 x2 x3) := by
  unfold State.dropFrame
  repeat' with_reducible first
    | exact h | assumption | apply State.bump_keeps | apply State.logFault_keeps | apply State.scheduleNext_keeps
    | apply State.farrierReset_keeps | apply State.orphanLater_keeps | split | dsimp only

theorem State.loseFrame_keeps (h : Keeps s t) {x1 x2 x3} : Keeps s (State.loseFrame t x1 x2 x3) := by
  unfold State.loseFrame
  repeat' with_reducible first
    | exact h | assumption | apply State.dropFrame_keeps | split | dsimp only

theorem State.noteCorrected_keeps (h : Keeps s t) {x1} : Keeps s (State.noteCorrected t x1) := by
  unfold State.noteCorrected
  repeat' with_reducible first
    | exact h | assumption | apply State.bump_keeps | apply Keeps.ite | split | dsimp only

theorem State.signalFrame_keeps (h : Keeps s t) {x1} : Keeps s (State.signalFrame t x1) := by
  unfold State.signalFrame
  repeat' with_reducible first
    | exact h | assumption | apply State.advanceTo_keeps | apply State.loseFrame_keeps | apply State.noteCorrected_keeps
    | apply State.bump_keeps | apply State.countDelivery_keeps | apply State.applyParts_keeps | apply Keeps.ite
    | simp only [Keeps.mk_iff] | apply KeepsParts.same | split | dsimp only

theorem State.relaunch_keeps (h : Keeps s t) {x1} : Keeps s (State.relaunch t x1) := by
  unfold State.relaunch
  repeat' with_reducible first
    | exact h | assumption | apply State.bump_keeps | apply State.raiseTo_keeps | apply State.frameOutcome_keeps
    | apply Keeps.ite | simp only [Keeps.mk_iff] | apply KeepsParts.same | split | dsimp only

theorem State.nakFrame_keeps (h : Keeps s t) {x1} : Keeps s (State.nakFrame t x1) := by
  unfold State.nakFrame
  repeat' with_reducible first
    | exact h | assumption | apply State.advanceTo_keeps | apply State.relaunch_keeps | apply State.loseFrame_keeps
    | apply State.noteCorrected_keeps | apply Keeps.ite | simp only [Keeps.mk_iff] | apply KeepsParts.same
    | refine Keeps.foldl (fun _ _ _ => ?_) ?_ | split | dsimp only

theorem State.takeRelease_keeps (h : Keeps s t) {x1} : Keeps s (State.takeRelease t x1) := by
  unfold State.takeRelease
  repeat' with_reducible first
    | exact h | assumption | apply State.raiseQueue_keeps | apply State.answerWait_keeps | apply Keeps.ite | split
    | dsimp only

theorem State.loseRelease_keeps (h : Keeps s t) {x1 x2 x3} : Keeps s (State.loseRelease t x1 x2 x3) := by
  unfold State.loseRelease
  repeat' with_reducible first
    | exact h | assumption | apply State.loseFrame_keeps | apply Keeps.ite | simp only [Keeps.mk_iff]
    | apply KeepsParts.same | apply KeepsParts.send | split | dsimp only

theorem State.releaseFrame_keeps (h : Keeps s t) {x1} : Keeps s (State.releaseFrame t x1) := by
  unfold State.releaseFrame
  repeat' with_reducible first
    | exact h | assumption | apply State.advanceTo_keeps | apply State.loseRelease_keeps
    | apply State.noteCorrected_keeps | apply State.takeRelease_keeps | apply Keeps.ite | simp only [Keeps.mk_iff]
    | apply KeepsParts.same | split | dsimp only

theorem execHitchRelease_keeps (h : Keeps s t) : KeepsNext s (execHitchRelease t) :=
  KeepsNext.next (State.releaseFrame_keeps h)

theorem State.registerWatch_keeps (h : Keeps s t) {x1} : Keeps s (State.registerWatch t x1) := by
  unfold State.registerWatch
  repeat' with_reducible first
    | exact h | assumption | apply State.pushRelease_keeps | apply State.raiseTo_keeps | apply Keeps.ite
    | simp only [Keeps.mk_iff] | apply KeepsParts.same | apply KeepsParts.send | split | dsimp only

theorem State.ackWatch_keeps (h : Keeps s t) {x1} : Keeps s (State.ackWatch t x1) := by
  unfold State.ackWatch
  repeat' with_reducible first
    | exact h | assumption | apply Keeps.ite | simp only [Keeps.mk_iff] | apply KeepsParts.same | split | dsimp only

theorem State.takeWatch_keeps (h : Keeps s t) {x1 x2 x3 x4} : Keeps s (State.takeWatch t x1 x2 x3 x4) := by
  unfold State.takeWatch
  repeat' with_reducible first
    | exact h | assumption | apply State.registerWatch_keeps | apply State.ackWatch_keeps | apply Keeps.ite | split
    | dsimp only

theorem execHitchWatchRegister_keeps (h : Keeps s t) {x0 x1 x2 x3} : KeepsNext s (execHitchWatchRegister x0 x1 x2 x3 t) := by
  unfold execHitchWatchRegister
  repeat' with_reducible first
    | exact h | assumption | apply State.takeWatch_keeps | apply KeepsNext.next | split | dsimp only

theorem State.withdrawWatch_keeps (h : Keeps s t) {x1} : Keeps s (State.withdrawWatch t x1) := by
  unfold State.withdrawWatch
  repeat' with_reducible first
    | exact h | assumption | simp only [Keeps.mk_iff] | apply KeepsParts.same | split | dsimp only

theorem execHitchWatchWithdraw_keeps (h : Keeps s t) {x0 x1 x2 x3} : KeepsNext s (execHitchWatchWithdraw x0 x1 x2 x3 t) := by
  unfold execHitchWatchWithdraw
  repeat' with_reducible first
    | exact h | assumption | apply State.withdrawWatch_keeps | apply KeepsNext.next | split | dsimp only

theorem State.writeCtrCtl_keeps (h : Keeps s t) {x1} : Keeps s (State.writeCtrCtl t x1) := by
  unfold State.writeCtrCtl
  repeat' with_reducible first
    | exact h | assumption | apply State.setReg_keeps | apply State.schedule_keeps | apply State.counterInit_keeps
    | apply State.counterFree_keeps | apply State.counterSet_keeps | split | dsimp only

theorem State.counterOp_keeps (h : Keeps s t) {x1 x2 x3 x4} : Keeps s (State.counterOp t x1 x2 x3 x4) := by
  unfold State.counterOp
  repeat' with_reducible first
    | exact h | assumption | apply State.advance_keeps | apply State.writeCtrCtl_keeps | apply Keeps.ite | split
    | dsimp only

theorem execCounterInit_keeps (h : Keeps s t) {x0 x1 x2} : KeepsNext s (execCounterInit x0 x1 x2 t) := by
  unfold execCounterInit
  repeat' with_reducible first
    | exact h | assumption | apply State.counterOp_keeps | apply KeepsNext.next | split | dsimp only

theorem execCounterFree_keeps (h : Keeps s t) {x0 x1 x2} : KeepsNext s (execCounterFree x0 x1 x2 t) := by
  unfold execCounterFree
  repeat' with_reducible first
    | exact h | assumption | apply State.counterOp_keeps | apply KeepsNext.next | split | dsimp only

theorem execCounterSet_keeps (h : Keeps s t) {x0 x1 x2} : KeepsNext s (execCounterSet x0 x1 x2 t) := by
  unfold execCounterSet
  repeat' with_reducible first
    | exact h | assumption | apply State.counterOp_keeps | apply KeepsNext.next | split | dsimp only

theorem State.writeRevoke_keeps (h : Keeps s t) {x1} : Keeps s (State.writeRevoke t x1) := by
  unfold State.writeRevoke
  repeat' with_reducible first
    | exact h | assumption | apply State.schedule_keeps | apply Keeps.ite | split | dsimp only

theorem execCounterRevoke_keeps (h : Keeps s t) {x0 x1 x2} : KeepsNext s (execCounterRevoke x0 x1 x2 t) := by
  unfold execCounterRevoke
  repeat' with_reducible first
    | exact h | assumption | apply State.advance_keeps | apply State.writeRevoke_keeps | apply KeepsNext.next
    | apply Keeps.ite | apply KeepsNext.ite | split | dsimp only

theorem State.hostDoorbell_keeps (h : Keeps s t) {x1 x2 x3} : Keeps s (State.hostDoorbell t x1 x2 x3) := by
  unfold State.hostDoorbell
  repeat' with_reducible first
    | exact h | assumption | apply State.logFault_keeps | apply State.signal_keeps | apply State.bump_keeps
    | apply Keeps.ite | apply Keeps2.ite | apply Keeps2.snd | split | apply Keeps2.mk | refine Keeps2.of (by assumption) ?_
    | dsimp only

theorem State.takeDoorbell_keeps (h : Keeps s t) {x1 x2 x3} : Keeps s (State.takeDoorbell t x1 x2 x3) := by
  unfold State.takeDoorbell
  repeat' with_reducible first
    | exact h | assumption | apply State.bump_keeps | apply State.hostDoorbell_keeps | apply Keeps.ite | split
    | dsimp only

theorem execHostCounterDoorbell_keeps (h : Keeps s t) {x0 x1 x2} : KeepsNext s (execHostCounterDoorbell x0 x1 x2 t) := by
  unfold execHostCounterDoorbell
  repeat' with_reducible first
    | exact h | assumption | apply State.takeDoorbell_keeps | apply KeepsNext.next | split | dsimp only

theorem State.writeArm_keeps (h : Keeps s t) {x1} : Keeps s (State.writeArm t x1) := by
  unfold State.writeArm
  repeat' with_reducible first
    | exact h | assumption | apply State.setCtr_keeps | apply State.fire_keeps | apply Keeps.ite | split | dsimp only

theorem execHostCounterArm_keeps (h : Keeps s t) {x0 x1} : KeepsNext s (execHostCounterArm x0 x1 t) := by
  unfold execHostCounterArm
  repeat' with_reducible first
    | exact h | assumption | apply State.writeArm_keeps | apply KeepsNext.next | apply Keeps.ite | apply KeepsNext.ite
    | split | dsimp only

theorem execMirrorWrite_keeps (h : Keeps s t) {x0 x1} : KeepsNext s (execMirrorWrite x0 x1 t) := by
  unfold execMirrorWrite
  repeat' with_reducible first
    | exact h | assumption | apply State.advance_keeps | apply State.mirrorWrite_keeps | apply KeepsNext.next
    | apply Keeps.ite | apply KeepsNext.ite | split | dsimp only

end Sys2Proof.Machine
end

