-- ==== Sys2Proof/Laws/KeepsSnapshot.lean ====
section
/-! SUPPORT. What the operations of Machine/Snapshot.lean keep (Laws/Keeps.lean). -/

namespace Sys2Proof.Machine

set_option linter.unusedTactic false
set_option linter.unreachableTactic false
set_option linter.unusedVariables false
set_option linter.unusedSimpArgs false

variable {s t u : State}

theorem State.latchPage_keeps (h : Keeps s t) {x1 x2} : Keeps s (State.latchPage t x1 x2) := by
  unfold State.latchPage
  repeat' with_reducible first
    | exact h | assumption | apply State.setIrq_keeps | apply Keeps.ite | apply Keeps2.ite | simp only [Keeps.mk_iff]
    | apply KeepsParts.same | apply Keeps2.snd | split | apply Keeps2.mk | refine Keeps2.of (by assumption) ?_ | dsimp only

theorem State.latch_keeps (h : Keeps s t) {x1 x2 x3 x4} : Keeps s (State.latch t x1 x2 x3 x4) := by
  unfold State.latch
  repeat' with_reducible first
    | exact h | assumption | apply State.latchPage_keeps | refine Keeps.foldl (fun _ _ _ => ?_) ?_
    | simp only [Keeps.mk_iff] | apply KeepsParts.same | split | dsimp only

theorem State.missTrigger_keeps (h : Keeps s t) : Keeps s (State.missTrigger t) := by
  unfold State.missTrigger
  repeat' with_reducible first
    | exact h | assumption | simp only [Keeps.mk_iff] | apply KeepsParts.same | split | dsimp only

theorem State.latchFrame_keeps (h : Keeps s t) {x1} : Keeps s (State.latchFrame t x1) := by
  unfold State.latchFrame
  repeat' with_reducible first
    | exact h | assumption | apply State.missTrigger_keeps | apply State.latch_keeps | apply Keeps.ite
    | simp only [Keeps.mk_iff] | apply KeepsParts.same | split | dsimp only

theorem State.latchRack_keeps (h : Keeps s t) {x1 x2} : Keeps s (State.latchRack t x1 x2) := by
  unfold State.latchRack
  repeat' with_reducible first
    | exact h | assumption | apply State.missTrigger_keeps | apply State.latch_keeps | apply Keeps.ite | apply Keeps2.ite
    | simp only [Keeps.mk_iff] | apply KeepsParts.same | apply Keeps2.snd | split | apply Keeps2.mk
    | refine Keeps2.of (by assumption) ?_ | dsimp only

theorem State.snapBoundary_keeps (h : Keeps s t) {x1 x2} : Keeps s (State.snapBoundary t x1 x2) := by
  unfold State.snapBoundary
  repeat' with_reducible first
    | exact h | assumption | apply State.missTrigger_keeps | apply State.latch_keeps | apply State.latchRack_keeps
    | apply Keeps.ite | simp only [Keeps.mk_iff] | apply KeepsParts.same | split | dsimp only

theorem State.sendRack_keeps (h : Keeps s t) : Keeps s (State.sendRack t) := by
  unfold State.sendRack
  repeat' with_reducible first
    | exact h | assumption | apply Keeps.ite | apply Keeps2.ite | simp only [Keeps.mk_iff] | apply KeepsParts.same
    | apply KeepsParts.send | apply Keeps2.snd | split | apply Keeps2.mk | refine Keeps2.of (by assumption) ?_ | dsimp only

theorem State.rackTrigger_keeps (h : Keeps s t) {x1} : Keeps s (State.rackTrigger t x1) := by
  unfold State.rackTrigger
  repeat' with_reducible first
    | exact h | assumption | apply State.sendRack_keeps | apply State.trigger_keeps | split | dsimp only

theorem State.triggerNow_keeps (h : Keeps s t) {x1 x2} : Keeps s (State.triggerNow t x1 x2) := by
  unfold State.triggerNow
  repeat' with_reducible first
    | exact h | assumption | apply State.sendRack_keeps | apply State.trigger_keeps | split | dsimp only

theorem State.rearm_keeps (h : Keeps s t) : Keeps s (State.rearm t) := by
  unfold State.rearm
  repeat' with_reducible first
    | exact h | assumption | simp only [Keeps.mk_iff] | apply KeepsParts.same | split | dsimp only

theorem State.snapWrite_keeps (h : Keeps s t) {src} {act : State → State} (ha : ∀ u, Keeps s u → Keeps s (act u)) :
    Keeps s (t.snapWrite src act) := by
  unfold State.snapWrite
  exact Keeps.ite (ha t h) h

theorem execSnapshotRearm_keeps (h : Keeps s t) {x0} : KeepsNext s (execSnapshotRearm x0 t) := by
  unfold execSnapshotRearm
  repeat' with_reducible first
    | exact h | assumption | apply State.snapWrite_keeps | apply State.rearm_keeps | apply KeepsNext.next | split | intro _
    | dsimp only

theorem execSnapshotTrigNow_keeps (h : Keeps s t) {x0} : KeepsNext s (execSnapshotTrigNow x0 t) := by
  unfold execSnapshotTrigNow
  repeat' with_reducible first
    | exact h | assumption | apply State.snapWrite_keeps | apply State.trigger_keeps | apply KeepsNext.next | split
    | intro _ | dsimp only

theorem execSnapshotTrigBnd_keeps (h : Keeps s t) {x0} : KeepsNext s (execSnapshotTrigBnd x0 t) := by
  unfold execSnapshotTrigBnd
  repeat' with_reducible first
    | exact h | assumption | apply State.snapWrite_keeps | apply State.trigger_keeps | apply KeepsNext.next | split
    | intro _ | dsimp only

theorem execSnapshotTrigRack_keeps (h : Keeps s t) {x0} : KeepsNext s (execSnapshotTrigRack x0 t) := by
  unfold execSnapshotTrigRack
  repeat' with_reducible first
    | exact h | assumption | apply State.snapWrite_keeps | apply State.rackTrigger_keeps | apply KeepsNext.next | split
    | intro _ | dsimp only

theorem execTrigInFall_keeps (h : Keeps s t) : KeepsNext s (execTrigInFall t) := by
  unfold execTrigInFall
  repeat' with_reducible first
    | exact h | assumption | apply State.triggerNow_keeps | apply KeepsNext.next | apply Keeps.ite | apply KeepsNext.ite
    | split | dsimp only

theorem State.snapFrame_keeps (h : Keeps s t) : Keeps s (State.snapFrame t) := by
  unfold State.snapFrame
  repeat' with_reducible first
    | exact h | assumption | apply State.advanceTo_keeps | apply State.latchFrame_keeps | apply Keeps.ite | split
    | dsimp only

theorem execHitchSnap_keeps (h : Keeps s t) : KeepsNext s (execHitchSnap t) := by
  unfold execHitchSnap
  repeat' with_reducible first
    | exact h | assumption | apply State.snapFrame_keeps | apply KeepsNext.next | split | dsimp only

end Sys2Proof.Machine
end

