-- ==== Sys2Proof/Laws/KeepsHitchLate.lean ====
section
/-! SUPPORT. What the operations of Machine/HitchLate.lean keep (Laws/Keeps.lean). -/

namespace Sys2Proof.Machine

set_option linter.unusedTactic false
set_option linter.unreachableTactic false
set_option linter.unusedVariables false
set_option linter.unusedSimpArgs false

variable {s t u : State}

theorem State.snapArrives_keeps (h : Keeps s t) {x1} : Keeps s (State.snapArrives t x1) := by
  unfold State.snapArrives
  repeat' with_reducible first
    | exact h | assumption | apply State.dropFrame_keeps | apply State.noteCorrected_keeps | apply State.snapFrame_keeps
    | apply Keeps.ite | simp only [Keeps.mk_iff] | apply KeepsParts.same | apply KeepsParts.send | split | dsimp only

theorem State.landFrames_keeps (h : Keeps s t) {x1} : Keeps s (State.landFrames t x1) := by
  induction x1 generalizing t with
  | zero =>
    unfold State.landFrames
    exact h
  | succ n ih =>
    unfold State.landFrames
    repeat' with_reducible first
      | exact h | assumption | apply ih | apply State.nakFrame_keeps | apply State.signalFrame_keeps | apply Keeps.ite | split
      | dsimp only

theorem State.landReleases_keeps (h : Keeps s t) {x1} : Keeps s (State.landReleases t x1) := by
  induction x1 generalizing t with
  | zero =>
    unfold State.landReleases
    exact h
  | succ n ih =>
    unfold State.landReleases
    repeat' with_reducible first
      | exact h | assumption | apply ih | apply State.releaseFrame_keeps | apply Keeps.ite | split | dsimp only

theorem State.landHitch_keeps (h : Keeps s t) : Keeps s (State.landHitch t) := by
  unfold State.landHitch
  repeat' with_reducible first
    | exact h | assumption | apply State.landFrames_keeps | apply State.flushAnswers_keeps
    | apply State.landReleases_keeps | apply State.snapFrame_keeps | split | dsimp only

theorem execHitchSignalFrame_keeps (h : Keeps s t) {x0} : KeepsNext s (execHitchSignalFrame x0 t) := by
  unfold execHitchSignalFrame
  repeat' with_reducible first
    | exact h | assumption | apply State.signal_keeps | apply State.signalFrame_keeps | apply State.flushAnswers_keeps
    | apply State.nakFrame_keeps | apply State.releaseFrame_keeps | apply State.snapArrives_keeps | apply KeepsNext.next
    | apply Keeps2.snd | split | apply Keeps2.mk | refine Keeps2.of (by assumption) ?_ | dsimp only

theorem execHitchNak_keeps (h : Keeps s t) : KeepsNext s (execHitchNak t) := by
  unfold execHitchNak
  repeat' with_reducible first
    | exact h | assumption | apply State.flushAnswers_keeps | apply State.nakFrame_keeps | apply KeepsNext.next | split
    | dsimp only

end Sys2Proof.Machine
end

