-- ==== Sys2Proof/Laws/KeepsStable.lean ====
section
/-! SUPPORT. What the operations of Machine/Stable.lean keep (Laws/Keeps.lean). -/

namespace Sys2Proof.Machine

set_option linter.unusedTactic false
set_option linter.unreachableTactic false
set_option linter.unusedVariables false
set_option linter.unusedSimpArgs false

variable {s t u : State}

theorem execStbPageRequest_keeps (h : Keeps s t) : KeepsNext s (execStbPageRequest t) := by
  unfold execStbPageRequest
  repeat' with_reducible first
    | exact h | assumption | apply State.servePage_keeps | apply State.raiseTo_keeps | apply State.bump_keeps
    | apply KeepsNext.next | simp only [Keeps.mk_iff] | apply KeepsParts.same | apply Keeps2.snd | split | apply Keeps2.mk
    | refine Keeps2.of (by assumption) ?_ | dsimp only

theorem State.advanceSeq_keeps (h : Keeps s t) {x1} : Keeps s (State.advanceSeq t x1) := by
  unfold State.advanceSeq
  repeat' with_reducible first
    | exact h | assumption | apply State.setStall_keeps | apply State.publish_keeps | apply State.modifyStall_keeps
    | refine Keeps.foldl (fun _ _ _ => ?_) ?_ | refine Keeps2.foldl (fun _ _ _ => ?_) ?_ | apply Keeps.ite
    | apply Keeps2.ite | apply Keeps2.snd | split | apply Keeps2.mk | refine Keeps2.of (by assumption) ?_ | dsimp only

theorem execAppendReport_keeps (h : Keeps s t) : KeepsNext s (execAppendReport t) := by
  unfold execAppendReport
  repeat' with_reducible first
    | exact h | assumption | apply State.advanceSeq_keeps | apply State.setStall_keeps | apply KeepsNext.next
    | apply Keeps.ite | apply Keeps2.ite | apply KeepsNext.ite | simp only [Keeps.mk_iff] | apply KeepsParts.same
    | apply Keeps2.snd | split | apply Keeps2.mk | refine Keeps2.of (by assumption) ?_ | dsimp only

theorem State.writeCrTail_keeps (h : Keeps s t) {x1 x2} : Keeps s (State.writeCrTail t x1 x2) := by
  unfold State.writeCrTail
  repeat' with_reducible first
    | exact h | assumption | apply State.raiseTo_keeps | apply State.setReg_keeps
    | apply Keeps.ite | simp only [Keeps.mk_iff] | apply KeepsParts.same | split | dsimp only

theorem execStbCommandTailWrite_keeps (h : Keeps s t) {x0 x1 x2 x3} : KeepsNext s (execStbCommandTailWrite x0 x1 x2 x3 t) := by
  unfold execStbCommandTailWrite
  repeat' with_reducible first
    | exact h | assumption | apply State.advance_keeps | apply State.writeCrTail_keeps | apply KeepsNext.next
    | apply Keeps.ite | apply KeepsNext.ite | split | dsimp only

theorem State.fetchCommand_keeps (h : Keeps s t) {x1} : Keeps2 s (State.fetchCommand t x1) := by
  unfold State.fetchCommand
  repeat' with_reducible first
    | exact h | assumption | apply State.loadWords_keeps | apply Keeps2.snd | split | apply Keeps2.mk
    | refine Keeps2.of (by assumption) ?_ | dsimp only

theorem State.endCommand_keeps (h : Keeps s t) {c a} {act : CommandArgs → State → CommandEnd × State}
    (ha : ∀ x u, Keeps s u → Keeps2 s (act x u)) : Keeps s (t.endCommand c a act) := by
  unfold State.endCommand
  repeat' with_reducible first
    | exact h | apply ha | apply State.completeCommand_keeps | apply State.setReg_keeps
    | apply Keeps.ite | simp only [Keeps.mk_iff] | apply KeepsParts.same | split
    | refine Keeps2.of (by assumption) ?_ | dsimp only

theorem State.applyCommand_keeps (h : Keeps s t) {ring op} {act : CommandArgs → State → CommandEnd × State}
    (ha : ∀ x u, Keeps s u → Keeps2 s (act x u)) : Keeps s (t.applyCommand ring op act) := by
  unfold State.applyCommand
  repeat' with_reducible first
    | exact h | exact State.endCommand_keeps (State.fetchCommand_keeps h).snd ha | apply Keeps.ite | split | dsimp only

theorem State.onStall_keeps (h : Keeps s t) {a states} {act : Nat → Stall → State → CommandEnd × State}
    (ha : ∀ x y u, Keeps s u → Keeps2 s (act x y u)) : Keeps2 s (t.onStall a states act) := by
  unfold State.onStall
  repeat' with_reducible first
    | exact h | apply ha | apply Keeps2.ite | split | apply Keeps2.mk

theorem State.readImage_keeps (h : Keeps s t) {x1 x2} : Keeps2 s (State.readImage t x1 x2) := by
  unfold State.readImage
  repeat' with_reducible first
    | exact h | assumption | apply State.loadWords_keeps | apply Keeps.ite | apply Keeps2.ite | apply Keeps2.snd | split
    | apply Keeps2.mk | refine Keeps2.of (by assumption) ?_ | dsimp only

theorem State.admitWith_keeps (h : Keeps s t) {x1 x2} : Keeps2 s (State.admitWith t x1 x2) := by
  unfold State.admitWith
  repeat' with_reducible first
    | exact h | assumption | apply State.allocFrame_keeps | apply State.setStall_keeps | apply State.bump_keeps
    | apply Keeps.ite | apply Keeps2.ite | apply Keeps2.snd | split | apply Keeps2.mk | refine Keeps2.of (by assumption) ?_
    | dsimp only

theorem State.admitStall_keeps (h : Keeps s t) {x0} : Keeps2 s (State.admitStall x0 t) := by
  obtain ⟨f, e⟩ : ∃ f, @State.admitStall = f := ⟨_, rfl⟩
  rw [e]
  delta State.admitStall at e
  subst e
  beta_reduce
  repeat' with_reducible first
    | exact h | assumption | apply State.readImage_keeps | apply State.admitWith_keeps | apply Keeps2.snd | split
    | apply Keeps2.mk | refine Keeps2.of (by assumption) ?_ | dsimp only

theorem execAdmit_keeps (h : Keeps s t) {x0} : KeepsNext s (execAdmit x0 t) := by
  unfold execAdmit
  repeat' with_reducible first
    | exact h | assumption | apply State.applyCommand_keeps | apply State.admitStall_keeps | apply KeepsNext.next
    | apply Keeps2.snd | split | apply Keeps2.mk | refine Keeps2.of (by assumption) ?_ | intro _ | dsimp only

theorem execPrefixLookupComplete_keeps (h : Keeps s t) {x0} : KeepsNext s (execPrefixLookupComplete x0 t) := by
  unfold execPrefixLookupComplete
  repeat' with_reducible first
    | exact h | assumption | apply State.prefixLookup_keeps | apply State.modifyStall_keeps | apply KeepsNext.next
    | apply Keeps.ite | apply Keeps2.ite | apply KeepsNext.ite | apply Keeps2.snd | split | apply Keeps2.mk
    | refine Keeps2.of (by assumption) ?_ | dsimp only

theorem State.releaseStall_keeps (h : Keeps s t) {x1} : Keeps s (State.releaseStall t x1) := by
  unfold State.releaseStall
  repeat' with_reducible first
    | exact h | assumption | apply State.setStall_keeps | apply State.endMove_keeps | apply Keeps.ite | apply Keeps2.ite
    | apply Keeps2.snd | split | apply Keeps2.mk | refine Keeps2.of (by assumption) ?_ | dsimp only

theorem State.releaseCommand_keeps (h : Keeps s t) {x0} : Keeps2 s (State.releaseCommand x0 t) := by
  unfold State.releaseCommand
  repeat' with_reducible first
    | exact h | assumption | apply State.onStall_keeps | apply State.releaseStall_keeps | apply Keeps2.snd | split
    | apply Keeps2.mk | refine Keeps2.of (by assumption) ?_ | intro _ | dsimp only

theorem execRelease_keeps (h : Keeps s t) {x0} : KeepsNext s (execRelease x0 t) := by
  unfold execRelease
  repeat' with_reducible first
    | exact h | assumption | apply State.applyCommand_keeps | apply State.releaseCommand_keeps | apply KeepsNext.next
    | apply Keeps2.snd | split | apply Keeps2.mk | refine Keeps2.of (by assumption) ?_ | intro _ | dsimp only

theorem execStallDrainComplete_keeps (h : Keeps s t) {x0} : KeepsNext s (execStallDrainComplete x0 t) := by
  unfold execStallDrainComplete
  repeat' with_reducible first
    | exact h | assumption | apply State.dropPages_keeps | apply State.freeFrame_keeps | apply State.pick_keeps
    | apply State.takeFrame_keeps | apply State.setStall_keeps | apply KeepsNext.next
    | refine Keeps.foldl (fun _ _ _ => ?_) ?_ | refine Keeps2.foldl (fun _ _ _ => ?_) ?_ | apply Keeps.ite
    | apply Keeps2.ite | apply KeepsNext.ite | apply Keeps2.snd | split | apply Keeps2.mk
    | refine Keeps2.of (by assumption) ?_ | dsimp only

theorem State.appendTokens_keeps (h : Keeps s t) {x1 x2} : Keeps s (State.appendTokens t x1 x2) := by
  unfold State.appendTokens
  repeat' with_reducible first
    | exact h | assumption | apply State.copyBytes_keeps | apply State.storeWords_keeps | apply State.hostWrite_keeps
    | apply State.setStall_keeps | apply State.signalAt_keeps | refine Keeps.foldl (fun _ _ _ => ?_) ?_
    | refine Keeps2.foldl (fun _ _ _ => ?_) ?_ | apply Keeps.ite | apply Keeps2.ite | apply Keeps2.snd | split
    | apply Keeps2.mk | refine Keeps2.of (by assumption) ?_ | dsimp only

theorem State.dropTentative_keeps (h : Keeps s t) {x1} : Keeps s (State.dropTentative t x1) := by
  unfold State.dropTentative
  repeat' with_reducible first
    | exact h | assumption | apply State.dropPages_keeps | split | dsimp only

theorem State.commitTokens_keeps (h : Keeps s t) {x0} : Keeps2 s (State.commitTokens x0 t) := by
  unfold State.commitTokens
  repeat' with_reducible first
    | exact h | assumption | apply State.onStall_keeps | apply State.bump_keeps | apply State.appendTokens_keeps
    | apply State.modifyStall_keeps | apply State.dropTentative_keeps | apply Keeps.ite | apply Keeps2.ite
    | apply Keeps2.snd | split | apply Keeps2.mk | refine Keeps2.of (by assumption) ?_ | intro _ | dsimp only

theorem execCommit_keeps (h : Keeps s t) {x0} : KeepsNext s (execCommit x0 t) := by
  unfold execCommit
  repeat' with_reducible first
    | exact h | assumption | apply State.applyCommand_keeps | apply State.commitTokens_keeps | apply KeepsNext.next
    | apply Keeps2.snd | split | apply Keeps2.mk | refine Keeps2.of (by assumption) ?_ | intro _ | dsimp only

theorem State.specPut_keeps (h : Keeps s t) {x0} : Keeps2 s (State.specPut x0 t) := by
  unfold State.specPut
  repeat' with_reducible first
    | exact h | assumption | apply State.loadWords_keeps | apply State.onStall_keeps | apply State.setStall_keeps
    | apply Keeps.ite | apply Keeps2.ite | apply Keeps2.snd | split | apply Keeps2.mk | refine Keeps2.of (by assumption) ?_
    | intro _ | dsimp only

theorem execSpecPut_keeps (h : Keeps s t) {x0} : KeepsNext s (execSpecPut x0 t) := by
  unfold execSpecPut
  repeat' with_reducible first
    | exact h | assumption | apply State.applyCommand_keeps | apply State.specPut_keeps | apply KeepsNext.next
    | apply Keeps2.snd | split | apply Keeps2.mk | refine Keeps2.of (by assumption) ?_ | intro _ | dsimp only

theorem State.rollbackCommand_keeps (h : Keeps s t) {x0} : Keeps2 s (State.rollbackCommand x0 t) := by
  unfold State.rollbackCommand
  repeat' with_reducible first
    | exact h | assumption | apply State.onStall_keeps | apply State.dropTentative_keeps | apply State.setStall_keeps
    | apply Keeps2.snd | split | apply Keeps2.mk | refine Keeps2.of (by assumption) ?_ | intro _ | dsimp only

theorem execRollback_keeps (h : Keeps s t) {x0} : KeepsNext s (execRollback x0 t) := by
  unfold execRollback
  repeat' with_reducible first
    | exact h | assumption | apply State.applyCommand_keeps | apply State.rollbackCommand_keeps | apply KeepsNext.next
    | apply Keeps2.snd | split | apply Keeps2.mk | refine Keeps2.of (by assumption) ?_ | intro _ | dsimp only

theorem State.parkCommand_keeps (h : Keeps s t) {x0} : Keeps2 s (State.parkCommand x0 t) := by
  unfold State.parkCommand
  repeat' with_reducible first
    | exact h | assumption | apply State.onStall_keeps | apply State.setStall_keeps | apply Keeps.ite | apply Keeps2.ite
    | apply Keeps2.snd | split | apply Keeps2.mk | refine Keeps2.of (by assumption) ?_ | intro _ | dsimp only

theorem execPark_keeps (h : Keeps s t) {x0} : KeepsNext s (execPark x0 t) := by
  unfold execPark
  repeat' with_reducible first
    | exact h | assumption | apply State.applyCommand_keeps | apply State.parkCommand_keeps | apply KeepsNext.next
    | apply Keeps2.snd | split | apply Keeps2.mk | refine Keeps2.of (by assumption) ?_ | intro _ | dsimp only

theorem State.extentIssue_keeps (h : Keeps s t) {x1 x2} : Keeps s (State.extentIssue t x1 x2) := by
  unfold State.extentIssue
  repeat' with_reducible first
    | exact h | assumption | apply State.modifyStall_keeps | simp only [Keeps.mk_iff] | apply KeepsParts.same
    | apply KeepsParts.send | split | dsimp only

theorem State.extentStore_keeps (h : Keeps s t) {x1 x2 x3 x4} : Keeps2 s (State.extentStore t x1 x2 x3 x4) := by
  unfold State.extentStore
  repeat' with_reducible first
    | exact h | assumption | apply State.store_keeps | apply State.extentIssue_keeps | apply Keeps.ite
    | apply Keeps2.ite | apply Keeps2.snd | split | apply Keeps2.mk | refine Keeps2.of (by assumption) ?_ | dsimp only

theorem State.extentWrite_keeps (h : Keeps s t) {x1 x2 x3} : Keeps2 s (State.extentWrite t x1 x2 x3) := by
  unfold State.extentWrite
  repeat' with_reducible first
    | exact h | assumption | apply State.hostWrite_keeps | apply State.extentStore_keeps | apply Keeps.ite
    | apply Keeps2.ite | refine Keeps.foldl (fun _ _ _ => ?_) ?_ | refine Keeps2.foldl (fun _ _ _ => ?_) ?_
    | apply Keeps2.snd | split | apply Keeps2.mk | refine Keeps2.of (by assumption) ?_ | dsimp only

theorem State.extentWrites_keeps (h : Keeps s t) {x1 x2} : Keeps2 s (State.extentWrites t x1 x2) := by
  induction x2 generalizing t x1 with
  | nil =>
    rw [State.extentWrites]
    repeat' with_reducible first
    | exact h | assumption | apply State.extentWrite_keeps | apply Keeps2.snd | split | apply Keeps2.mk
      | refine Keeps2.of (by assumption) ?_ | dsimp only
  | cons p l ih =>
    rcases p with ⟨_, _⟩
    rw [State.extentWrites]
    repeat' with_reducible first
    | exact h | assumption | apply ih | apply State.extentWrite_keeps | apply Keeps2.snd | split | apply Keeps2.mk
      | refine Keeps2.of (by assumption) ?_ | dsimp only

theorem State.evictFail_keeps (h : Keeps s t) {x1} : Keeps s (State.evictFail t x1) := by
  unfold State.evictFail
  repeat' with_reducible first
    | exact h | assumption | apply State.endMove_keeps | apply State.raiseTo_keeps | split | dsimp only

theorem State.beginEvict_keeps (h : Keeps s t) {x1 x2} : Keeps2 s (State.beginEvict t x1 x2) := by
  unfold State.beginEvict
  repeat' with_reducible first
    | exact h | assumption | apply State.modifyStall_keeps | apply State.load_keeps
    | apply State.extentWrites_keeps | apply Keeps.ite | apply Keeps2.ite | apply Keeps3.ite | simp only [Keeps.mk_iff]
    | apply KeepsParts.same | refine Keeps.foldl (fun _ _ _ => ?_) ?_ | refine Keeps2.foldl (fun _ _ _ => ?_) ?_
    | refine Keeps3.foldl (fun _ _ _ => ?_) ?_ | apply Keeps3.snd | apply Keeps2.snd | split | apply Keeps3.mk
    | refine Keeps3.of (by assumption) ?_ | apply Keeps2.mk | refine Keeps2.of (by assumption) ?_ | dsimp only

theorem State.evictCommand_keeps (h : Keeps s t) {x0} : Keeps2 s (State.evictCommand x0 t) := by
  unfold State.evictCommand
  repeat' with_reducible first
    | exact h | assumption | apply State.onStall_keeps | apply State.beginEvict_keeps | apply State.raiseTo_keeps
    | apply Keeps.ite | apply Keeps2.ite | apply Keeps2.snd | split | apply Keeps2.mk | refine Keeps2.of (by assumption) ?_
    | intro _ | dsimp only

theorem execEvict_keeps (h : Keeps s t) {x0} : KeepsNext s (execEvict x0 t) := by
  unfold execEvict
  repeat' with_reducible first
    | exact h | assumption | apply State.applyCommand_keeps | apply State.evictCommand_keeps | apply KeepsNext.next
    | apply Keeps2.snd | split | apply Keeps2.mk | refine Keeps2.of (by assumption) ?_ | intro _ | dsimp only

theorem execStallEvictionComplete_keeps (h : Keeps s t) {x0 x1} : KeepsNext s (execStallEvictionComplete x0 x1 t) := by
  unfold execStallEvictionComplete
  repeat' with_reducible first
    | exact h | assumption | apply State.evictFail_keeps | apply State.modifyStall_keeps | apply State.dropRef_keeps
    | apply State.setTableWord_keeps | apply State.endMove_keeps | apply State.bump_keeps | apply KeepsNext.next
    | refine Keeps.foldl (fun _ _ _ => ?_) ?_ | refine Keeps2.foldl (fun _ _ _ => ?_) ?_ | apply Keeps.ite
    | apply Keeps2.ite | apply KeepsNext.ite | apply Keeps2.snd | split | apply Keeps2.mk
    | refine Keeps2.of (by assumption) ?_ | dsimp only

theorem State.beginRecall_keeps (h : Keeps s t) {x1 x2} : Keeps s (State.beginRecall t x1 x2) := by
  unfold State.beginRecall
  repeat' with_reducible first
    | exact h | assumption | apply State.modifyStall_keeps | apply State.extentIssue_keeps | apply Keeps.ite
    | apply Keeps2.ite | simp only [Keeps.mk_iff] | apply KeepsParts.same | apply KeepsParts.send | apply Keeps2.snd | split
    | apply Keeps2.mk | refine Keeps2.of (by assumption) ?_ | dsimp only

theorem State.endHostRead_keeps (h : Keeps s t) {x1} : Keeps s (State.endHostRead t x1) := by
  unfold State.endHostRead
  repeat' with_reducible first
    | exact h | assumption | simp only [Keeps.mk_iff] | apply KeepsParts.same | split | dsimp only

theorem execHostReadTimeout_keeps (h : Keeps s t) {x0 x1 x2} : KeepsNext s (execHostReadTimeout x0 x1 x2 t) := by
  unfold execHostReadTimeout
  repeat' with_reducible first
    | exact h | assumption | apply State.advance_keeps | apply State.bump_keeps | apply State.raiseTo_keeps
    | apply State.endHostRead_keeps | apply State.modifyStall_keeps | apply KeepsNext.next | apply Keeps.ite
    | apply KeepsNext.ite | split | dsimp only

theorem State.unparkCommand_keeps (h : Keeps s t) {x0} : Keeps2 s (State.unparkCommand x0 t) := by
  unfold State.unparkCommand
  repeat' with_reducible first
    | exact h | assumption | apply State.onStall_keeps | apply State.setStall_keeps | apply State.beginRecall_keeps
    | apply Keeps.ite | apply Keeps2.ite | apply Keeps2.snd | split | apply Keeps2.mk | refine Keeps2.of (by assumption) ?_
    | intro _ | dsimp only

theorem execUnpark_keeps (h : Keeps s t) {x0} : KeepsNext s (execUnpark x0 t) := by
  unfold execUnpark
  repeat' with_reducible first
    | exact h | assumption | apply State.applyCommand_keeps | apply State.unparkCommand_keeps | apply KeepsNext.next
    | apply Keeps2.snd | split | apply Keeps2.mk | refine Keeps2.of (by assumption) ?_ | intro _ | dsimp only

theorem State.extentLoad_keeps (h : Keeps s t) {x1 x2 x3} : Keeps3 s (State.extentLoad t x1 x2 x3) := by
  unfold State.extentLoad
  repeat' with_reducible first
    | exact h | assumption | apply State.load_keeps | apply Keeps.ite | apply Keeps3.ite | apply Keeps3.snd
    | apply Keeps2.snd | split | apply Keeps3.mk | refine Keeps3.of (by assumption) ?_ | apply Keeps2.mk | dsimp only

theorem State.extentRead_keeps (h : Keeps s t) {x1 x2 x3 x4} : Keeps3 s (State.extentRead t x1 x2 x3 x4) := by
  unfold State.extentRead
  repeat' with_reducible first
    | exact h | assumption | apply State.extentLoad_keeps | apply Keeps.ite | apply Keeps3.ite
    | refine Keeps.foldl (fun _ _ _ => ?_) ?_ | refine Keeps3.foldl (fun _ _ _ => ?_) ?_ | apply Keeps3.snd
    | apply Keeps2.snd | split | apply Keeps3.mk | refine Keeps3.of (by assumption) ?_ | apply Keeps2.mk | dsimp only

theorem State.restorePages_keeps (h : Keeps s t) {x1 x2 x3 x4} : KeepsOpt s (State.restorePages t x1 x2 x3 x4) := by
  induction x4 generalizing t x1 x2 x3 with
  | nil =>
    rw [State.restorePages]
    repeat' with_reducible first
    | exact h | assumption | apply State.allocPage_keeps | apply State.extentRead_keeps
      | apply State.modifyStall_keeps | apply State.setTableWord_keeps | apply State.store_keeps
      | refine KeepsOpt.map ?_ (fun _ _ => ?_) | refine KeepsOpt.bind ?_ (fun _ _ => ?_) | apply Keeps.ite | apply Keeps2.ite
      | apply Keeps3.ite | apply KeepsOpt.ite | exact KeepsOpt.ofNone | apply KeepsOpt.ofSome | apply Keeps2.snd
      | apply Keeps3.snd | split | apply Keeps2.mk | apply Keeps3.mk | refine Keeps2.of (by assumption) ?_
      | refine Keeps3.of (by assumption) ?_ | dsimp only
  | cons p l ih =>
    rcases p with ⟨_, _⟩
    rw [State.restorePages]
    repeat' with_reducible first
    | exact h | assumption | apply ih | apply State.allocPage_keeps | apply State.extentRead_keeps
      | apply State.modifyStall_keeps | apply State.setTableWord_keeps | apply State.store_keeps
      | refine KeepsOpt.map ?_ (fun _ _ => ?_) | refine KeepsOpt.bind ?_ (fun _ _ => ?_) | apply Keeps.ite | apply Keeps2.ite
      | apply Keeps3.ite | apply KeepsOpt.ite | exact KeepsOpt.ofNone | apply KeepsOpt.ofSome | apply Keeps2.snd
      | apply Keeps3.snd | split | apply Keeps2.mk | apply Keeps3.mk | refine Keeps2.of (by assumption) ?_
      | refine Keeps3.of (by assumption) ?_ | dsimp only

theorem execStallRecallComplete_keeps (h : Keeps s t) {x0 x1 x2} : KeepsNext s (execStallRecallComplete x0 x1 x2 t) := by
  unfold execStallRecallComplete
  repeat' with_reducible first
    | exact h | assumption | apply State.endHostRead_keeps | apply State.endMove_keeps | apply State.restorePages_keeps
    | apply State.bump_keeps | apply State.modifyStall_keeps | apply State.rebuildStall_keeps
    | refine KeepsOpt.map ?_ (fun _ _ => ?_) | refine KeepsOpt.bind ?_ (fun _ _ => ?_) | apply KeepsNext.next
    | apply Keeps.ite | apply Keeps2.ite | apply KeepsOpt.ite | apply KeepsNext.ite | exact KeepsOpt.ofNone
    | apply KeepsOpt.ofSome | apply Keeps2.snd | split | apply Keeps2.mk | refine Keeps2.of (by assumption) ?_
    | refine KeepsOpt.get (by assumption) ?_ | dsimp only

theorem State.enterNow_keeps (h : Keeps s t) {x1} : Keeps s (State.enterNow t x1) := by
  unfold State.enterNow
  repeat' with_reducible first
    | exact h | assumption | apply State.modifyStall_keeps | split | dsimp only

theorem State.forkInto_keeps (h : Keeps s t) {x1 x2 x3 x4 x5} : KeepsOpt s (State.forkInto t x1 x2 x3 x4 x5) := by
  unfold State.forkInto
  repeat' with_reducible first
    | exact h | assumption | apply State.allocFrame_keeps | apply State.addRef_keeps | apply State.holdPage_keeps
    | apply State.setStall_keeps | refine KeepsOpt.map ?_ (fun _ _ => ?_) | refine KeepsOpt.bind ?_ (fun _ _ => ?_)
    | refine Keeps.foldl (fun _ _ _ => ?_) ?_ | refine Keeps2.foldl (fun _ _ _ => ?_) ?_
    | refine KeepsOpt.foldl (fun _ _ _ => ?_) ?_ | exact KeepsOpt.ofNone | apply KeepsOpt.ofSome | apply Keeps2.snd | split
    | apply Keeps2.mk | refine Keeps2.of (by assumption) ?_ | refine KeepsOpt.get (by assumption) ?_ | dsimp only

theorem State.forkWith_keeps (h : Keeps s t) {x1 x2} : Keeps2 s (State.forkWith t x1 x2) := by
  unfold State.forkWith
  repeat' with_reducible first
    | exact h | assumption | apply State.forkInto_keeps | refine KeepsOpt.map ?_ (fun _ _ => ?_)
    | refine KeepsOpt.bind ?_ (fun _ _ => ?_) | apply Keeps.ite | apply Keeps2.ite | apply KeepsOpt.ite
    | exact KeepsOpt.ofNone | apply KeepsOpt.ofSome | apply Keeps2.snd | split | apply Keeps2.mk
    | refine Keeps2.of (by assumption) ?_ | refine KeepsOpt.get (by assumption) ?_ | dsimp only

theorem State.forkStall_keeps (h : Keeps s t) {x0} : Keeps2 s (State.forkStall x0 t) := by
  obtain ⟨f, e⟩ : ∃ f, @State.forkStall = f := ⟨_, rfl⟩
  rw [e]
  delta State.forkStall at e
  subst e
  beta_reduce
  repeat' with_reducible first
    | exact h | assumption | apply State.readImage_keeps | apply State.forkWith_keeps | apply Keeps2.snd | split
    | apply Keeps2.mk | refine Keeps2.of (by assumption) ?_ | dsimp only

theorem execFork_keeps (h : Keeps s t) {x0} : KeepsNext s (execFork x0 t) := by
  unfold execFork
  repeat' with_reducible first
    | exact h | assumption | apply State.applyCommand_keeps | apply State.forkStall_keeps | apply KeepsNext.next
    | apply Keeps2.snd | split | apply Keeps2.mk | refine Keeps2.of (by assumption) ?_ | intro _ | dsimp only

theorem State.rebuildCommand_keeps (h : Keeps s t) {x0} : Keeps2 s (State.rebuildCommand x0 t) := by
  unfold State.rebuildCommand
  repeat' with_reducible first
    | exact h | assumption | apply State.onStall_keeps | apply State.enterNow_keeps | apply State.rebuildStall_keeps
    | apply State.endMove_keeps | apply Keeps2.snd | split | apply Keeps2.mk | refine Keeps2.of (by assumption) ?_ | intro _
    | dsimp only

theorem execRebuild_keeps (h : Keeps s t) {x0} : KeepsNext s (execRebuild x0 t) := by
  unfold execRebuild
  repeat' with_reducible first
    | exact h | assumption | apply State.applyCommand_keeps | apply State.rebuildCommand_keeps | apply KeepsNext.next
    | apply Keeps2.snd | split | apply Keeps2.mk | refine Keeps2.of (by assumption) ?_ | intro _ | dsimp only

theorem State.queryAnswer_keeps (h : Keeps s t) {x1} {p : Status × State} (k : Keeps2 s p) : Keeps2 s (State.queryAnswer t x1 p) := by
  unfold State.queryAnswer
  exact Keeps2.ite k (Keeps2.ite h k)

theorem State.queryStall_keeps (h : Keeps s t) {x0} : Keeps2 s (State.queryStall x0 t) := by
  unfold State.queryStall
  exact Keeps2.ite h (State.queryAnswer_keeps h (State.storeWords_keeps h))

theorem execQuery_keeps (h : Keeps s t) {x0} : KeepsNext s (execQuery x0 t) := by
  unfold execQuery
  repeat' with_reducible first
    | exact h | assumption | apply State.applyCommand_keeps | apply State.queryStall_keeps | apply KeepsNext.next
    | apply Keeps2.snd | split | apply Keeps2.mk | refine Keeps2.of (by assumption) ?_ | intro _ | dsimp only

theorem State.setWith_keeps (h : Keeps s t) {x1 x2} : Keeps2 s (State.setWith t x1 x2) := by
  unfold State.setWith
  repeat' with_reducible first
    | exact h | assumption | apply State.publish_keeps
    | apply State.onStall_keeps | apply State.setStall_keeps | apply Keeps2.snd | split
    | apply Keeps2.mk | refine Keeps2.of (by assumption) ?_ | intro _ | dsimp only

theorem State.setFields_keeps (h : Keeps s t) {x0} : Keeps2 s (State.setFields x0 t) := by
  obtain ⟨f, e⟩ : ∃ f, @State.setFields = f := ⟨_, rfl⟩
  rw [e]
  delta State.setFields at e
  subst e
  beta_reduce
  repeat' with_reducible first
    | exact h | assumption | apply State.readImage_keeps | apply State.setWith_keeps | apply Keeps2.snd | split
    | apply Keeps2.mk | refine Keeps2.of (by assumption) ?_ | dsimp only

theorem execSet_keeps (h : Keeps s t) {x0} : KeepsNext s (execSet x0 t) := by
  unfold execSet
  repeat' with_reducible first
    | exact h | assumption | apply State.applyCommand_keeps | apply State.setFields_keeps | apply KeepsNext.next
    | apply Keeps2.snd | split | apply Keeps2.mk | refine Keeps2.of (by assumption) ?_ | intro _ | dsimp only

theorem State.publishCommand_keeps (h : Keeps s t) {x0} : Keeps2 s (State.publishCommand x0 t) := by
  unfold State.publishCommand
  repeat' with_reducible first
    | exact h | assumption | apply State.onStall_keeps | apply State.publish_keeps | apply Keeps2.snd | split
    | apply Keeps2.mk | refine Keeps2.of (by assumption) ?_ | intro _ | dsimp only

theorem execPublish_keeps (h : Keeps s t) {x0} : KeepsNext s (execPublish x0 t) := by
  unfold execPublish
  repeat' with_reducible first
    | exact h | assumption | apply State.applyCommand_keeps | apply State.publishCommand_keeps | apply KeepsNext.next
    | apply Keeps2.snd | split | apply Keeps2.mk | refine Keeps2.of (by assumption) ?_ | intro _ | dsimp only

theorem State.releaseHeld_keeps (h : Keeps s t) : Keeps s (State.releaseHeld t) := by
  unfold State.releaseHeld
  repeat' with_reducible first
    | exact h | assumption | apply State.historyReads_keeps | apply State.rebuildLookup_keeps
    | refine Keeps.foldl (fun _ _ _ => ?_) ?_ | refine Keeps2.foldl (fun _ _ _ => ?_) ?_ | apply Keeps.ite
    | apply Keeps2.ite | apply Keeps2.snd | split | apply Keeps2.mk | refine Keeps2.of (by assumption) ?_ | dsimp only

theorem State.shrinkDirectory_keeps (h : Keeps s t) : Keeps s (State.shrinkDirectory t) := by
  unfold State.shrinkDirectory
  repeat' with_reducible first
    | exact h | assumption | apply State.dirShrink_keeps | refine Keeps.foldl (fun _ _ _ => ?_) ?_ | apply Keeps.ite | split
    | dsimp only

theorem State.evictUntil_keeps (h : Keeps s t) {x1 x2 x3} : Keeps s (State.evictUntil t x1 x2 x3) := by
  induction x2 generalizing t x1 x3 with
  | nil =>
    rw [State.evictUntil]
    repeat' with_reducible first
    | exact h | assumption | apply State.beginEvict_keeps | apply State.raiseTo_keeps | apply Keeps.ite
      | apply Keeps2.ite | apply Keeps2.snd | split | apply Keeps2.mk | refine Keeps2.of (by assumption) ?_ | dsimp only
  | cons p l ih =>
    rw [State.evictUntil]
    repeat' with_reducible first
    | exact h | assumption | apply ih | apply State.beginEvict_keeps | apply State.raiseTo_keeps | apply Keeps.ite
      | apply Keeps2.ite | apply Keeps2.snd | split | apply Keeps2.mk | refine Keeps2.of (by assumption) ?_ | dsimp only

theorem State.autoEvict_keeps (h : Keeps s t) : Keeps s (State.autoEvict t) := by
  unfold State.autoEvict
  repeat' with_reducible first
    | exact h | assumption | apply State.evictUntil_keeps | refine Keeps.foldl (fun _ _ _ => ?_) ?_
    | refine Keeps2.foldl (fun _ _ _ => ?_) ?_ | apply Keeps.ite | apply Keeps2.ite | apply Keeps2.snd | split
    | apply Keeps2.mk | refine Keeps2.of (by assumption) ?_ | dsimp only

theorem State.autoRecall_keeps (h : Keeps s t) : Keeps s (State.autoRecall t) := by
  unfold State.autoRecall
  repeat' with_reducible first
    | exact h | assumption | apply State.beginRecall_keeps | refine Keeps.foldl (fun _ _ _ => ?_) ?_
    | refine Keeps2.foldl (fun _ _ _ => ?_) ?_ | apply Keeps.ite | apply Keeps2.ite | apply Keeps2.snd | split
    | apply Keeps2.mk | refine Keeps2.of (by assumption) ?_ | dsimp only

theorem State.formPlan_keeps (h : Keeps s t) : Keeps3 s (State.formPlan t) := by
  unfold State.formPlan
  repeat' with_reducible first
    | exact h | assumption | apply State.modifyStall_keeps | refine Keeps.foldl (fun _ _ _ => ?_) ?_
    | refine Keeps2.foldl (fun _ _ _ => ?_) ?_ | refine Keeps3.foldl (fun _ _ _ => ?_) ?_ | apply Keeps.ite
    | apply Keeps2.ite | apply Keeps3.ite | apply Keeps2.snd | apply Keeps3.snd | split | apply Keeps2.mk | apply Keeps3.mk
    | refine Keeps2.of (by assumption) ?_ | refine Keeps3.of (by assumption) ?_ | dsimp only

theorem State.writePlan_keeps (h : Keeps s t) {x1 x2 x3} : Keeps s (State.writePlan t x1 x2 x3) := by
  obtain ⟨f, e⟩ : ∃ f, @State.writePlan = f := ⟨_, rfl⟩
  rw [e]
  delta State.writePlan at e
  subst e
  beta_reduce
  repeat' with_reducible first
    | exact h | assumption | apply State.storeWords_keeps | apply Keeps2.snd | split | apply Keeps2.mk
    | refine Keeps2.of (by assumption) ?_ | dsimp only

theorem State.publishPlan_keeps (h : Keeps s t) : Keeps s (State.publishPlan t) := by
  unfold State.publishPlan
  repeat' with_reducible first
    | exact h | assumption | apply State.autoRecall_keeps | apply State.autoEvict_keeps | apply State.shrinkDirectory_keeps
    | apply State.releaseHeld_keeps | apply State.formPlan_keeps | apply State.writePlan_keeps | apply State.signalAt_keeps
    | simp only [Keeps.mk_iff] | apply KeepsParts.same | apply Keeps2.snd | apply Keeps3.snd | split | apply Keeps2.mk
    | apply Keeps3.mk | refine Keeps2.of (by assumption) ?_ | refine Keeps3.of (by assumption) ?_ | dsimp only

theorem execWorkPlanPublish_keeps (h : Keeps s t) : KeepsNext s (execWorkPlanPublish t) := by
  unfold execWorkPlanPublish
  repeat' with_reducible first
    | exact h | assumption | apply State.publishPlan_keeps | apply KeepsNext.next | apply Keeps.ite | apply KeepsNext.ite
    | split | dsimp only

theorem ringAct_keeps (h : Keeps s t) {op a} : Keeps2 s (ringAct op a t) := by
  unfold ringAct
  repeat' with_reducible first
    | exact State.admitStall_keeps h | exact State.releaseCommand_keeps h | exact State.commitTokens_keeps h
    | exact State.specPut_keeps h | exact State.rollbackCommand_keeps h | exact State.parkCommand_keeps h
    | exact State.unparkCommand_keeps h | exact State.evictCommand_keeps h | exact State.forkStall_keeps h
    | exact State.rebuildCommand_keeps h | exact State.queryStall_keeps h | exact State.setFields_keeps h
    | exact State.publishCommand_keeps h | split

theorem State.applyCommands_keeps (h : Keeps s t) {n} : Keeps s (t.applyCommands n) := by
  induction n generalizing t with
  | zero => exact h
  | succ n ih =>
    rw [State.applyCommands]
    split
    · exact h
    · exact ih (State.endCommand_keeps (State.fetchCommand_keeps h).snd fun _ _ k => ringAct_keeps k)

theorem State.stableOrder_keeps (h : Keeps s t) : Keeps s (State.stableOrder t) := by
  unfold State.stableOrder
  repeat' with_reducible first
    | exact h | assumption | apply State.applyCommands_keeps | apply State.publishPlan_keeps | apply Keeps.ite | split
    | dsimp only

theorem State.stableBoundary_keeps (h : Keeps s t) : Keeps s (State.stableBoundary t) := by
  unfold State.stableBoundary
  repeat' with_reducible first
    | exact h | assumption | apply State.setReg_keeps | apply State.stableOrder_keeps
    | refine Keeps.foldl (fun _ _ _ => ?_) ?_ | apply Keeps.ite | simp only [Keeps.mk_iff] | apply KeepsParts.same | split
    | dsimp only

theorem State.stableStopping_keeps (h : Keeps s t) : Keeps s (State.stableStopping t) := by
  unfold State.stableStopping
  repeat' with_reducible first
    | exact h | assumption | apply State.releaseStall_keeps | refine Keeps.foldl (fun _ _ _ => ?_) ?_
    | refine Keeps2.foldl (fun _ _ _ => ?_) ?_ | apply Keeps2.snd | split | apply Keeps2.mk
    | refine Keeps2.of (by assumption) ?_ | dsimp only

theorem State.stableStarted_keeps (h : Keeps s t) : Keeps s (State.stableStarted t) := by
  unfold State.stableStarted
  repeat' with_reducible first
    | exact h | assumption | simp only [Keeps.mk_iff] | apply KeepsParts.same | split | dsimp only

end Sys2Proof.Machine
end

