-- ==== Sys2Proof/Laws/KeepsUnits.lean ====
section
/-! SUPPORT. What the operations of Machine/Units.lean keep (Laws/Keeps.lean). -/

namespace Sys2Proof.Machine

set_option linter.unusedTactic false
set_option linter.unreachableTactic false
set_option linter.unusedVariables false
set_option linter.unusedSimpArgs false

variable {s t u : State}

theorem State.coreStarts_keeps (h : Keeps s t) {x1} : Keeps s (State.coreStarts t x1) := by
  unfold State.coreStarts
  repeat' with_reducible first
    | exact h | assumption | apply State.load_keeps | apply State.zeroRange_keeps | apply State.setCore_keeps
    | apply Keeps.ite | apply Keeps3.ite | simp only [Keeps.mk_iff] | apply KeepsParts.same | apply Keeps3.snd
    | apply Keeps2.snd | split | apply Keeps3.mk | refine Keeps3.of (by assumption) ?_ | apply Keeps2.mk | dsimp only

theorem State.zeroReckoner_keeps (h : Keeps s t) {x1} : Keeps s (State.zeroReckoner t x1) := by
  unfold State.zeroReckoner
  repeat' with_reducible first
    | exact h | assumption | apply State.zeroRange_keeps | simp only [Keeps.mk_iff] | apply KeepsParts.same
    | apply Keeps2.snd | split | apply Keeps2.mk | refine Keeps2.of (by assumption) ?_ | dsimp only

theorem State.begin_keeps (h : Keeps s t) {x1} : Keeps s (State.begin t x1) := by
  unfold State.begin
  repeat' with_reducible first
    | exact h | assumption | apply State.setUnit_keeps | apply State.setDie_keeps | apply State.zeroReckoner_keeps
    | apply State.selectDie_keeps | apply State.coreStarts_keeps | apply State.wakePlane_keeps
    | apply State.probeSlot_keeps | apply State.enterTraining_keeps | apply State.setEngine_keeps
    | apply State.judgePools_keeps | apply Keeps.ite | simp only [Keeps.mk_iff] | apply KeepsParts.same | split
    | dsimp only

theorem State.startIf_keeps (h : Keeps s t) {x1} : Keeps s (State.startIf t x1) := by
  unfold State.startIf
  repeat' with_reducible first
    | exact h | assumption | apply State.begin_keeps | apply Keeps.ite | split | dsimp only

theorem State.startChildren_keeps (h : Keeps s t) {x1} : Keeps s (State.startChildren t x1) := by
  unfold State.startChildren
  repeat' with_reducible first
    | exact h | assumption | apply State.begin_keeps | apply State.startIf_keeps | refine Keeps.foldl (fun _ _ _ => ?_) ?_
    | apply Keeps.ite | split | dsimp only

theorem State.coreOn_keeps (h : Keeps s t) {x1} : Keeps s (State.coreOn t x1) := by
  unfold State.coreOn
  repeat' with_reducible first
    | exact h | assumption | apply State.setCore_keeps | apply State.queueEnabled_keeps | apply State.substituteOn_keeps
    | refine Keeps.foldl (fun _ _ _ => ?_) ?_ | apply Keeps.ite | split | dsimp only

theorem State.enterOn_keeps (h : Keeps s t) {x1} : Keeps s (State.enterOn t x1) := by
  unfold State.enterOn
  repeat' with_reducible first
    | exact h | assumption | apply State.setUnit_keeps | apply State.setDie_keeps | apply State.coreOn_keeps
    | apply State.cartOn_keeps | apply State.planeMoved_keeps | apply State.trained_keeps
    | apply State.drainRouters_keeps | apply State.drainEngines_keeps | apply State.setEngine_keeps
    | apply State.stableStarted_keeps | apply State.startChildren_keeps | apply Keeps.ite | simp only [Keeps.mk_iff]
    | apply KeepsParts.same | split | dsimp only

theorem State.leaveOn_keeps (h : Keeps s t) {x1} : Keeps s (State.leaveOn t x1) := by
  unfold State.leaveOn
  repeat' with_reducible first
    | exact h | assumption | apply State.orphanLater_keeps | apply State.eduCoreLeft_keeps
    | apply State.blinksLeft_keeps | apply State.resetPort_keeps | apply State.planeLeaves_keeps
    | apply State.beginRetirement_keeps | apply State.resetFabricBridle_keeps | apply State.drainRouters_keeps
    | apply State.drainEngines_keeps | apply State.setLane_keeps | apply State.laneFrame_keeps
    | apply State.moveRequests_keeps | apply State.stableStopping_keeps | apply Keeps.ite | simp only [Keeps.mk_iff]
    | apply KeepsParts.same | refine Keeps.foldl (fun _ _ _ => ?_) ?_ | split | dsimp only

theorem State.stop_keeps (h : Keeps s t) {x1 x2} : Keeps s (State.stop t x1 x2) := by
  induction x2 generalizing t x1 with
  | zero => exact h
  | succ n ih =>
    rw [State.stop.eq_def]
    dsimp only
    generalize (match x1 with
      | .reckoner r => [UnitId.field r false, .field r true]
      | _ => x1.children) = kids
    split
    · exact State.setUnit_keeps h
    · exact Keeps.foldl (fun _ _ k => ih k) (State.leaveOn_keeps (State.setUnit_keeps h))
    · exact h

theorem State.withdrawPlane_keeps (h : Keeps s t) {x1} : Keeps s (State.withdrawPlane t x1) := by
  unfold State.withdrawPlane
  repeat' with_reducible first
    | exact h | assumption | apply State.setUnit_keeps | apply State.stop_keeps | apply State.leaveOn_keeps
    | apply Keeps.ite | simp only [Keeps.mk_iff] | apply KeepsParts.same | split | dsimp only

theorem State.coreOff_keeps (h : Keeps s t) {x1} : Keeps s (State.coreOff t x1) := by
  unfold State.coreOff
  repeat' with_reducible first
    | exact h | assumption | apply State.setCore_keeps | apply State.withdrawWatches_keeps | apply State.zeroise_keeps
    | apply State.zeroRange_keeps | apply State.freeCore_keeps | apply State.failedCoreOff_keeps | apply Keeps.ite
    | simp only [Keeps.mk_iff] | apply KeepsParts.same | apply KeepsParts.send | refine Keeps.foldl (fun _ _ _ => ?_) ?_
    | split | intro _ | dsimp only

theorem State.failedEngineOff_keeps (h : Keeps s t) {x1} : Keeps s (State.failedEngineOff t x1) := by
  unfold State.failedEngineOff
  repeat' with_reducible first
    | exact h | assumption | apply State.noteFarrier_keeps | apply State.scheduleNext_keeps | apply State.farCount_keeps
    | apply State.setUnit_keeps | apply Keeps.ite | simp only [Keeps.mk_iff] | apply KeepsParts.same | split | dsimp only

theorem State.portOff_keeps (h : Keeps s t) {x1} : Keeps s (State.portOff t x1) := by
  unfold State.portOff
  repeat' with_reducible first
    | exact h | assumption | apply State.setUnit_keeps | apply State.parkPort_keeps | apply State.resetPort_keeps
    | apply Keeps.ite | split | dsimp only

theorem State.startAgain_keeps (h : Keeps s t) {x1} : Keeps s (State.startAgain t x1) := by
  unfold State.startAgain
  repeat' with_reducible first
    | exact h | assumption | apply State.setUnit_keeps | apply State.startIf_keeps | apply State.startChildren_keeps
    | apply State.setDie_keeps | apply Keeps.ite | simp only [Keeps.mk_iff] | apply KeepsParts.same
    | apply KeepsParts.send | split | dsimp only

theorem State.startMates_keeps (h : Keeps s t) {x1} : Keeps s (State.startMates t x1) := by
  unfold State.startMates
  repeat' with_reducible first
    | exact h | assumption | apply State.setDie_keeps | apply State.startAgain_keeps | simp only [Keeps.mk_iff]
    | apply KeepsParts.same | apply KeepsParts.send | refine Keeps.foldl (fun _ _ _ => ?_) ?_ | split | intro _
    | dsimp only

theorem State.enterOff_keeps (h : Keeps s t) {x1} : Keeps s (State.enterOff t x1) := by
  unfold State.enterOff
  repeat' with_reducible first
    | exact h | assumption | apply State.setUnit_keeps | apply State.setDie_keeps | apply State.portOff_keeps
    | apply State.failedReckonerOff_keeps | apply State.failedFieldOff_keeps | apply State.coreOff_keeps
    | apply State.parkPort_keeps | apply State.parkPlane_keeps | apply State.laserPlaneOff_keeps
    | apply State.laneDown_keeps | apply State.failedEngineOff_keeps | apply State.startIf_keeps
    | apply State.startChildren_keeps | apply State.startMates_keeps | apply Keeps.ite | simp only [Keeps.mk_iff]
    | apply KeepsParts.same | apply KeepsParts.send | refine Keeps.foldl (fun _ _ _ => ?_) ?_ | split | intro _
    | dsimp only

theorem State.leaveNow_keeps (h : Keeps s t) {x1} : Keeps s (State.leaveNow t x1) := by
  unfold State.leaveNow
  repeat' with_reducible first
    | exact h | assumption | apply State.leaveOn_keeps | split | dsimp only

theorem State.offNow_keeps (h : Keeps s t) {x1 x2} : Keeps s (State.offNow t x1 x2) := by
  induction x2 generalizing t x1 with
  | zero =>
    rw [State.offNow]
    repeat' with_reducible first
    | exact h | assumption | apply State.enterOff_keeps | apply State.leaveNow_keeps | apply State.setUnit_keeps
      | refine Keeps.foldl (fun _ _ _ => ?_) ?_ | apply Keeps.ite | simp only [Keeps.mk_iff] | apply KeepsParts.same | split
      | dsimp only
  | succ n ih =>
    rw [State.offNow]
    repeat' with_reducible first
    | exact h | assumption | apply ih | apply State.enterOff_keeps | apply State.leaveNow_keeps | apply State.setUnit_keeps
      | refine Keeps.foldl (fun _ _ _ => ?_) ?_ | apply Keeps.ite | simp only [Keeps.mk_iff] | apply KeepsParts.same | split
      | dsimp only

theorem State.unitEnabled_keeps (h : Keeps s t) {x1} : Keeps s (State.unitEnabled t x1) := by
  unfold State.unitEnabled
  repeat' with_reducible first
    | exact h | assumption | apply State.startIf_keeps | apply State.startChildren_keeps | apply State.setUnit_keeps
    | apply Keeps.ite | split | dsimp only

theorem State.refuseStop_keeps (h : Keeps s t) {x1} : Keeps s (State.refuseStop t x1) := by
  unfold State.refuseStop
  repeat' with_reducible first
    | exact h | assumption | apply State.setStack_keeps | split | dsimp only

theorem State.unitDisabled_keeps (h : Keeps s t) {x1} : Keeps s (State.unitDisabled t x1) := by
  unfold State.unitDisabled
  repeat' with_reducible first
    | exact h | assumption | apply State.refuseStop_keeps | apply State.setUnit_keeps | apply State.stop_keeps
    | apply Keeps.ite | split | dsimp only

theorem State.unitReset_keeps (h : Keeps s t) {x1} : Keeps s (State.unitReset t x1) := by
  unfold State.unitReset
  repeat' with_reducible first
    | exact h | assumption | apply State.refuseStop_keeps | apply State.unitEnabled_keeps | apply State.unitDisabled_keeps
    | apply Keeps.ite | split | dsimp only

theorem State.unitFailed_keeps (h : Keeps s t) {x1 x2} : Keeps s (State.unitFailed t x1 x2) := by
  unfold State.unitFailed
  repeat' with_reducible first
    | exact h | assumption | apply State.offNow_keeps | apply State.stop_keeps | apply Keeps.ite | split | dsimp only

theorem State.resetReckoner_keeps (h : Keeps s t) {x1 x2} : Keeps s (State.resetReckoner t x1 x2) := by
  unfold State.resetReckoner
  repeat' with_reducible first
    | exact h | assumption | apply State.setDie_keeps | apply State.zeroise_keeps | apply State.setUnit_keeps
    | apply State.startAgain_keeps | apply State.unitReset_keeps | simp only [Keeps.mk_iff] | apply KeepsParts.same
    | apply KeepsParts.send | split | dsimp only

theorem State.farrierReset_keeps (h : Keeps s t) {x1} : Keeps s (State.farrierReset t x1) := by
  unfold State.farrierReset
  repeat' with_reducible first
    | exact h | assumption | apply State.noteFarrier_keeps | apply State.farCount_keeps | apply State.setDie_keeps
    | apply State.resetReckoner_keeps | apply Keeps.ite | split | dsimp only

theorem State.finishStop_keeps (h : Keeps s t) {x1} : Keeps s (State.finishStop t x1) := by
  unfold State.finishStop
  repeat' with_reducible first
    | exact h | assumption | apply State.replayPlane_keeps | apply State.enterOff_keeps | apply Keeps.ite | split
    | dsimp only

theorem State.finishStart'_keeps (h : Keeps s t) {x1} : Keeps s (State.finishStart' t x1) := by
  unfold State.finishStart'
  repeat' with_reducible first
    | exact h | assumption | apply State.setUnit_keeps | apply State.enterOn_keeps | apply Keeps.ite | apply Keeps2.ite
    | apply Keeps2.snd | split | apply Keeps2.mk | refine Keeps2.of (by assumption) ?_ | dsimp only

theorem State.unitsBoundary_keeps (h : Keeps s t) : Keeps s (State.unitsBoundary t) := by
  unfold State.unitsBoundary
  repeat' with_reducible first
    | exact h | assumption | apply State.stop_keeps | apply State.finishStop_keeps | apply State.finishStart'_keeps
    | apply State.setUnit_keeps | apply Keeps.ite | simp only [Keeps.mk_iff] | apply KeepsParts.same
    | apply KeepsParts.send | refine Keeps.foldl (fun _ _ _ => ?_) ?_ | split | intro _ | dsimp only

theorem State.planeRetries_keeps (h : Keeps s t) : Keeps s (State.planeRetries t) := by
  unfold State.planeRetries
  repeat' with_reducible first
    | exact h | assumption | apply State.noteFarrier_keeps | apply State.setFeed_keeps | apply State.setUnit_keeps
    | apply State.farCount_keeps | apply State.scheduleNext_keeps | apply State.planeIn_keeps | apply Keeps.ite
    | simp only [Keeps.mk_iff] | apply KeepsParts.same | apply KeepsParts.send | refine Keeps.foldl (fun _ _ _ => ?_) ?_
    | split | intro _ | dsimp only

theorem State.comeBack_keeps (h : Keeps s t) {x1} : Keeps s (State.comeBack t x1) := by
  unfold State.comeBack
  repeat' with_reducible first
    | exact h | assumption | apply State.setFeed_keeps | apply State.startIf_keeps | apply State.planeMoved_keeps
    | apply Keeps.ite | split | dsimp only

theorem State.comeBackAll_keeps (h : Keeps s t) {x1} : Keeps s (State.comeBackAll t x1) := by
  unfold State.comeBackAll
  repeat' with_reducible first
    | exact h | assumption | apply State.comeBack_keeps | apply State.setQuad_keeps
    | refine Keeps.foldl (fun _ _ _ => ?_) ?_ | apply Keeps.ite | split | dsimp only

theorem State.laserBoundary_keeps (h : Keeps s t) : Keeps s (State.laserBoundary t) := by
  unfold State.laserBoundary
  repeat' with_reducible first
    | exact h | assumption | apply State.setFeed_keeps | apply State.takeLight_keeps | apply State.commandOff_keeps
    | apply State.comeBackAll_keeps | apply State.followMode_keeps | apply State.swapBoundary_keeps | apply Keeps.ite
    | simp only [Keeps.mk_iff] | apply KeepsParts.same | refine Keeps.foldl (fun _ _ _ => ?_) ?_ | split | dsimp only

theorem execUnitEnable_keeps (h : Keeps s t) {x0 x1} : KeepsNext s (execUnitEnable x0 x1 t) := by
  unfold execUnitEnable
  repeat' with_reducible first
    | exact h | assumption | apply State.requestEnable_keeps | apply State.advance_keeps | apply KeepsNext.next | split
    | dsimp only

theorem State.writeDisable_keeps (h : Keeps s t) {x1} : Keeps s (State.writeDisable t x1) := by
  unfold State.writeDisable
  repeat' with_reducible first
    | exact h | assumption | apply State.refuseStop_keeps | apply State.requestDisable_keeps | apply State.cartDisable_keeps
    | apply Keeps.ite | split | dsimp only

theorem execUnitDisable_keeps (h : Keeps s t) {x0 x1} : KeepsNext s (execUnitDisable x0 x1 t) := by
  unfold execUnitDisable
  repeat' with_reducible first
    | exact h | assumption | apply State.writeDisable_keeps | apply State.advance_keeps | apply KeepsNext.next | split
    | dsimp only

theorem State.writeReset_keeps (h : Keeps s t) {x1} : Keeps s (State.writeReset t x1) := by
  unfold State.writeReset
  repeat' with_reducible first
    | exact h | assumption | apply State.refuseStop_keeps | apply State.setUnit_keeps | apply State.schedule_keeps
    | apply State.unitReset_keeps | apply Keeps.ite | simp only [Keeps.mk_iff] | apply KeepsParts.same | split
    | dsimp only

theorem execUnitReset_keeps (h : Keeps s t) {x0 x1} : KeepsNext s (execUnitReset x0 x1 t) := by
  unfold execUnitReset
  repeat' with_reducible first
    | exact h | assumption | apply State.writeReset_keeps | apply State.advance_keeps | apply KeepsNext.next | split
    | dsimp only

theorem State.dieTested_keeps (h : Keeps s t) {x1 x2 x3} : Keeps s (State.dieTested t x1 x2 x3) := by
  unfold State.dieTested
  repeat' with_reducible first
    | exact h | assumption | apply State.retestLanes_keeps | apply State.fusePasses_keeps | apply State.failHalf_keeps
    | apply Keeps.ite | refine Keeps.foldl (fun _ _ _ => ?_) ?_ | split | intro _ | dsimp only

theorem execUnitStartComplete_keeps (h : Keeps s t) {x0} : KeepsNext s (execUnitStartComplete x0 t) := by
  unfold execUnitStartComplete
  repeat' with_reducible first
    | exact h | assumption | apply State.stepEndsLate_keeps | apply State.stepDone_keeps | apply State.setUnit_keeps
    | apply State.dieTested_keeps | apply KeepsNext.next | apply Keeps.ite | apply KeepsNext.ite
    | simp only [Keeps.mk_iff] | apply KeepsParts.same | apply KeepsParts.send | split | dsimp only

theorem execUnitStopComplete_keeps (h : Keeps s t) {x0} : KeepsNext s (execUnitStopComplete x0 t) := by
  unfold execUnitStopComplete
  repeat' with_reducible first
    | exact h | assumption | apply State.setUnit_keeps | apply KeepsNext.next | apply Keeps.ite | apply KeepsNext.ite
    | split | dsimp only

theorem State.failByCommand_keeps (h : Keeps s t) {x1 x2} : Keeps s (State.failByCommand t x1 x2) := by
  unfold State.failByCommand
  repeat' with_reducible first
    | exact h | assumption | apply State.failUnit_keeps | apply State.setCore_keeps | apply State.setUnit_keeps
    | apply State.replaceCore_keeps | apply State.reckonerFails_keeps | apply State.detectLoss_keeps
    | apply State.moduleFatal_keeps | apply State.setCart_keeps | apply State.suddenLoss_keeps | apply Keeps.ite
    | apply Keeps2.ite | apply Keeps2.snd | split | apply Keeps2.mk | refine Keeps2.of (by assumption) ?_ | dsimp only

theorem execUnitFail_keeps (h : Keeps s t) {x0 x1} : KeepsNext s (execUnitFail x0 x1 t) := by
  unfold execUnitFail
  repeat' with_reducible first
    | exact h | assumption | apply State.failByCommand_keeps | apply KeepsNext.next | split | dsimp only

end Sys2Proof.Machine
end

