-- ==== Sys2Proof/Laws/KeepsPower.lean ====
section
/-! SUPPORT. What the operations of Machine/Power.lean keep (Laws/Keeps.lean). -/

namespace Sys2Proof.Machine

set_option linter.unusedTactic false
set_option linter.unreachableTactic false
set_option linter.unusedVariables false
set_option linter.unusedSimpArgs false

variable {s t u : State}

theorem State.startEnabled_keeps (h : Keeps s t) {x1} : Keeps s (State.startEnabled t x1) := by
  unfold State.startEnabled
  repeat' with_reducible first
    | exact h | assumption | apply State.unitEnabled_keeps | refine Keeps.foldl (fun _ _ _ => ?_) ?_ | apply Keeps.ite
    | split | dsimp only

theorem State.stopAll_keeps (h : Keeps s t) {x1} : Keeps s (State.stopAll t x1) := by
  unfold State.stopAll
  repeat' with_reducible first
    | exact h | assumption | apply State.offNow_keeps | apply State.stop_keeps | refine Keeps.foldl (fun _ _ _ => ?_) ?_
    | apply Keeps.ite | split | dsimp only

theorem State.powerOff_keeps (h : Keeps s t) : Keeps s (State.powerOff t) := by
  unfold State.powerOff
  repeat' with_reducible first
    | exact h | assumption | apply State.unitsOff_keeps | simp only [Keeps.mk_iff] | apply KeepsParts.same | split
    | dsimp only

theorem State.beginMove_keeps (h : Keeps s t) {x1} : Keeps s (State.beginMove t x1) := by
  unfold State.beginMove
  repeat' with_reducible first
    | exact h | assumption | apply State.stopAll_keeps | apply State.powerOff_keeps | apply State.startEnabled_keeps
    | apply Keeps.ite | simp only [Keeps.mk_iff] | apply KeepsParts.same | split | dsimp only

theorem State.moveOn_keeps (h : Keeps s t) : Keeps s (State.moveOn t) := by
  unfold State.moveOn
  repeat' with_reducible first
    | exact h | assumption | apply State.beginMove_keeps | apply Keeps.ite | split | dsimp only

theorem State.powerTarget_keeps (h : Keeps s t) {x1} : Keeps s (State.powerTarget t x1) := by
  unfold State.powerTarget
  repeat' with_reducible first
    | exact h | assumption | apply State.moveOn_keeps | simp only [Keeps.mk_iff] | apply KeepsParts.same | split
    | dsimp only

theorem State.enterPower_keeps (h : Keeps s t) {x1} : Keeps s (State.enterPower t x1) := by
  unfold State.enterPower
  repeat' with_reducible first
    | exact h | assumption | apply State.powerOff_keeps | apply State.setDie_keeps | apply Keeps.ite
    | simp only [Keeps.mk_iff] | apply KeepsParts.same | apply KeepsParts.send | refine Keeps.foldl (fun _ _ _ => ?_) ?_
    | split | intro _ | dsimp only

theorem execPowerStateStepComplete_keeps (h : Keeps s t) : KeepsNext s (execPowerStateStepComplete t) := by
  unfold execPowerStateStepComplete
  repeat' with_reducible first
    | exact h | assumption | apply State.moveOn_keeps | apply State.enterPower_keeps | apply KeepsNext.next
    | apply Keeps.ite | apply KeepsNext.ite | simp only [Keeps.mk_iff] | apply KeepsParts.same | split | dsimp only

theorem State.writePower_keeps (h : Keeps s t) {x1} : Keeps s (State.writePower t x1) := by
  unfold State.writePower
  repeat' with_reducible first
    | exact h | assumption | apply State.setReg_keeps | apply State.schedule_keeps | apply State.powerTarget_keeps
    | apply Keeps.ite | simp only [Keeps.mk_iff] | apply KeepsParts.same | split | dsimp only

theorem execPowerStateTarget_keeps (h : Keeps s t) {x0 x1 x2} : KeepsNext s (execPowerStateTarget x0 x1 x2 t) := by
  unfold execPowerStateTarget
  repeat' with_reducible first
    | exact h | assumption | apply State.advance_keeps | apply State.writePower_keeps | apply KeepsNext.next
    | apply Keeps.ite | apply KeepsNext.ite | split | dsimp only

theorem State.applyGaits_keeps (h : Keeps s t) : Keeps s (State.applyGaits t) := by
  unfold State.applyGaits
  repeat' with_reducible first
    | exact h | assumption | apply State.setDie_keeps | refine Keeps.foldl (fun _ _ _ => ?_) ?_ | apply Keeps.ite | split
    | dsimp only

end Sys2Proof.Machine
end

