-- ==== Sys2Proof/Laws/KeepsRouting.lean ====
section
/-! SUPPORT. What the operations of Machine/Routing.lean keep (Laws/Keeps.lean). -/

namespace Sys2Proof.Machine

set_option linter.unusedTactic false
set_option linter.unreachableTactic false
set_option linter.unusedVariables false
set_option linter.unusedSimpArgs false

variable {s t u : State}

theorem execRouteAdv_keeps (h : Keeps s t) {x0 x1 x2 x3 x4 x5 x6 x7 x8 x9} : KeepsNext s (execRouteAdv x0 x1 x2 x3 x4 x5 x6 x7 x8 x9 t) := by
  unfold execRouteAdv
  repeat' with_reducible first
    | exact h | assumption | apply State.takeAdvert_keeps | apply KeepsNext.next | split | dsimp only

theorem execRackMapEntryStale_keeps (h : Keeps s t) {x0} : KeepsNext s (execRackMapEntryStale x0 t) := by
  unfold execRackMapEntryStale
  repeat' with_reducible first
    | exact h | assumption | apply State.setRouting_keeps | apply KeepsNext.next | apply Keeps.ite | apply KeepsNext.ite
    | split | dsimp only

theorem State.routingSwitch_keeps (h : Keeps s t) {x1} : Keeps s (State.routingSwitch t x1) := by
  unfold State.routingSwitch
  repeat' with_reducible first
    | exact h | assumption | apply State.setRouting_keeps | apply State.logFault_keeps | apply Keeps.ite | split
    | dsimp only

theorem State.fabricBoundary_keeps (h : Keeps s t) : Keeps s (State.fabricBoundary t) := by
  unfold State.fabricBoundary
  repeat' with_reducible first
    | exact h | assumption | apply State.setRouting_keeps | apply State.logFault_keeps | apply State.fabPump_keeps
    | refine Keeps.foldl (fun _ _ _ => ?_) ?_ | refine Keeps2.foldl (fun _ _ _ => ?_) ?_ | apply Keeps.ite
    | apply Keeps2.ite | apply Keeps2.snd | split | apply Keeps2.mk | refine Keeps2.of (by assumption) ?_ | dsimp only

theorem State.sendRouteAdv_keeps (h : Keeps s t) : Keeps s (State.sendRouteAdv t) := by
  unfold State.sendRouteAdv
  repeat' with_reducible first
    | exact h | assumption | apply State.teamFrames_keeps | split | dsimp only

theorem execRoutingDrainTimeout_keeps (h : Keeps s t) : KeepsNext s (execRoutingDrainTimeout t) := by
  unfold execRoutingDrainTimeout
  repeat' with_reducible first
    | exact h | assumption | apply State.setRouting_keeps | apply KeepsNext.next | apply Keeps.ite | apply KeepsNext.ite
    | split | dsimp only

theorem State.writeTable_keeps (h : Keeps s t) {x1} : Keeps s (State.writeTable t x1) := by
  unfold State.writeTable
  repeat' with_reducible first
    | exact h | assumption | apply State.setRouting_keeps | apply Keeps.ite | split | dsimp only

theorem execRoutingTableWrite_keeps (h : Keeps s t) {x0 x1} : KeepsNext s (execRoutingTableWrite x0 x1 t) := by
  unfold execRoutingTableWrite
  repeat' with_reducible first
    | exact h | assumption | apply State.writeTable_keeps | apply KeepsNext.next | apply Keeps.ite | apply KeepsNext.ite
    | split | dsimp only

theorem State.routingOp_keeps (h : Keeps s t) {x1} : Keeps s (State.routingOp t x1) := by
  unfold State.routingOp
  repeat' with_reducible first
    | exact h | assumption | apply State.setRouting_keeps | apply Keeps.ite | split | dsimp only

theorem State.routingWrite_keeps (h : Keeps s t) {x1 x2} : Keeps s (State.routingWrite t x1 x2) := by
  unfold State.routingWrite
  repeat' with_reducible first
    | exact h | assumption | apply State.routingOp_keeps | apply Keeps.ite | split | dsimp only

theorem execRoutingArm_keeps (h : Keeps s t) {x0} : KeepsNext s (execRoutingArm x0 t) := by
  unfold execRoutingArm
  repeat' with_reducible first
    | exact h | assumption | apply State.routingWrite_keeps | apply KeepsNext.next | split | dsimp only

theorem execRoutingDisarm_keeps (h : Keeps s t) {x0} : KeepsNext s (execRoutingDisarm x0 t) := by
  unfold execRoutingDisarm
  repeat' with_reducible first
    | exact h | assumption | apply State.routingWrite_keeps | apply KeepsNext.next | split | dsimp only

theorem execRoutingSwitch_keeps (h : Keeps s t) {x0} : KeepsNext s (execRoutingSwitch x0 t) := by
  unfold execRoutingSwitch
  repeat' with_reducible first
    | exact h | assumption | apply State.routingWrite_keeps | apply KeepsNext.next | split | dsimp only

theorem State.setUplink_keeps (h : Keeps s t) {x1 x2} : Keeps s (State.setUplink t x1 x2) := by
  unfold State.setUplink
  repeat' with_reducible first
    | exact h | assumption | simp only [Keeps.mk_iff] | apply KeepsParts.same | split | dsimp only

theorem State.sendSlot_keeps (h : Keeps s t) {x1 x2} : Keeps s (State.sendSlot t x1 x2) := by
  unfold State.sendSlot
  repeat' with_reducible first
    | exact h | assumption | apply State.load_keeps | apply State.strandSend_keeps | apply Keeps2.snd | apply Keeps3.snd
    | split | apply Keeps2.mk | apply Keeps3.mk | refine Keeps2.of (by assumption) ?_ | refine Keeps3.of (by assumption) ?_
    | dsimp only

theorem State.pumpUplink_keeps (h : Keeps s t) {x1 x2} : Keeps s (State.pumpUplink t x1 x2) := by
  induction x2 generalizing t x1 with
  | zero =>
    rw [State.pumpUplink]
    repeat' with_reducible first
    | exact h | assumption | apply State.sendSlot_keeps | apply State.setUplink_keeps | apply Keeps.ite | split
      | dsimp only
  | succ n ih =>
    rw [State.pumpUplink]
    repeat' with_reducible first
    | exact h | assumption | apply ih | apply State.sendSlot_keeps | apply State.setUplink_keeps | apply Keeps.ite | split
      | dsimp only

theorem State.serveUplink_keeps (h : Keeps s t) {x1} : Keeps s (State.serveUplink t x1) := by
  unfold State.serveUplink
  repeat' with_reducible first
    | exact h | assumption | apply State.setUplink_keeps | apply State.pumpUplink_keeps | apply Keeps.ite | split
    | dsimp only

theorem State.writeUplinkTail_keeps (h : Keeps s t) {x1 x2} : Keeps s (State.writeUplinkTail t x1 x2) := by
  unfold State.writeUplinkTail
  repeat' with_reducible first
    | exact h | assumption | apply State.serveUplink_keeps | apply State.setUplink_keeps | apply Keeps.ite | split
    | dsimp only

theorem execUplinkTxTailWrite_keeps (h : Keeps s t) {x0 x1 x2 x3} : KeepsNext s (execUplinkTxTailWrite x0 x1 x2 x3 t) := by
  unfold execUplinkTxTailWrite
  repeat' with_reducible first
    | exact h | assumption | apply State.advance_keeps | apply State.writeUplinkTail_keeps | apply KeepsNext.next
    | apply Keeps.ite | apply KeepsNext.ite | split | dsimp only

theorem State.resumeUplink_keeps (h : Keeps s t) {x1} : Keeps s (State.resumeUplink t x1) := by
  unfold State.resumeUplink
  repeat' with_reducible first
    | exact h | assumption | apply State.serveUplink_keeps | apply State.setUplink_keeps | apply Keeps.ite | split
    | dsimp only

theorem execUplinkResume_keeps (h : Keeps s t) {x0 x1 x2} : KeepsNext s (execUplinkResume x0 x1 x2 t) := by
  unfold execUplinkResume
  repeat' with_reducible first
    | exact h | assumption | apply State.advance_keeps | apply State.resumeUplink_keeps | apply KeepsNext.next
    | apply Keeps.ite | apply KeepsNext.ite | split | dsimp only

theorem State.freeFlits_keeps (h : Keeps s t) {x1 x2} : Keeps s (State.freeFlits t x1 x2) := by
  unfold State.freeFlits
  repeat' with_reducible first
    | exact h | assumption | apply State.linkFrame_keeps | apply State.setStrand_keeps | split | dsimp only

theorem State.signalReceived_keeps (h : Keeps s t) {x1 x2 x3} : Keeps s (State.signalReceived t x1 x2 x3) := by
  unfold State.signalReceived
  repeat' with_reducible first
    | exact h | assumption | apply State.signalAt_keeps | split | dsimp only

theorem State.receiveMessage_keeps (h : Keeps s t) {x1} : Keeps s (State.receiveMessage t x1) := by
  unfold State.receiveMessage
  repeat' with_reducible first
    | exact h | assumption | apply State.freeFlits_keeps | apply State.store_keeps | apply State.setUplink_keeps
    | apply State.signalReceived_keeps | apply Keeps.ite | apply Keeps2.ite | simp only [Keeps.mk_iff] | apply KeepsParts.same
    | apply KeepsParts.send | apply Keeps2.snd | split | apply Keeps2.mk | refine Keeps2.of (by assumption) ?_ | dsimp only

theorem execUplinkMessageReceive_keeps (h : Keeps s t) {x0 x1 x2} : KeepsNext s (execUplinkMessageReceive x0 x1 x2 t) := by
  unfold execUplinkMessageReceive
  repeat' with_reducible first
    | exact h | assumption | apply State.advance_keeps | apply State.receiveMessage_keeps | apply State.setUplink_keeps
    | apply State.raiseTo_keeps | apply KeepsNext.next | apply Keeps.ite | apply KeepsNext.ite | split | dsimp only

theorem State.uplinkTxEnable_keeps (h : Keeps s t) {x1 x2} : Keeps s (State.uplinkTxEnable t x1 x2) := by
  unfold State.uplinkTxEnable
  repeat' with_reducible first
    | exact h | assumption | apply State.serveUplink_keeps | apply State.setUplink_keeps | apply Keeps.ite | split
    | dsimp only

theorem State.uplinkRxEnable_keeps (h : Keeps s t) {x1 x2} : Keeps s (State.uplinkRxEnable t x1 x2) := by
  unfold State.uplinkRxEnable
  repeat' with_reducible first
    | exact h | assumption | apply State.setUplink_keeps | split | dsimp only

theorem State.uplinkBoundary_keeps (h : Keeps s t) : Keeps s (State.uplinkBoundary t) := by
  unfold State.uplinkBoundary
  repeat' with_reducible first
    | exact h | assumption | apply State.serveUplink_keeps | refine Keeps.foldl (fun _ _ _ => ?_) ?_ | split | dsimp only

end Sys2Proof.Machine
end

