-- ==== Sys2Proof/Laws/KeepsThermal.lean ====
section
/-! SUPPORT. What the operations of Machine/Thermal.lean keep (Laws/Keeps.lean). -/

namespace Sys2Proof.Machine

set_option linter.unusedTactic false
set_option linter.unreachableTactic false
set_option linter.unusedVariables false
set_option linter.unusedSimpArgs false

variable {s t u : State}

theorem State.setSensor_keeps (h : Keeps s t) {x1 x2} : Keeps s (State.setSensor t x1 x2) := by
  unfold State.setSensor
  repeat' with_reducible first
    | exact h | assumption | simp only [Keeps.mk_iff] | apply KeepsParts.same | split | dsimp only

theorem execSensorSample_keeps (h : Keeps s t) {x0 x1 x2} : KeepsNext s (execSensorSample x0 x1 x2 t) := by
  unfold execSensorSample
  repeat' with_reducible first
    | exact h | assumption | apply State.setSensor_keeps | apply KeepsNext.next | apply Keeps.ite | apply KeepsNext.ite
    | split | dsimp only

theorem execSensorBad_keeps (h : Keeps s t) {x0 x1 x2 x3} : KeepsNext s (execSensorBad x0 x1 x2 x3 t) := by
  unfold execSensorBad
  repeat' with_reducible first
    | exact h | assumption | apply State.setSensor_keeps | apply State.bump_keeps | apply State.logFault_keeps
    | apply KeepsNext.next | apply Keeps.ite | apply KeepsNext.ite | split | dsimp only

theorem State.failNow_keeps (h : Keeps s t) {x1} : Keeps s (State.failNow t x1) := by
  unfold State.failNow
  repeat' with_reducible first
    | exact h | assumption | apply State.setUnit_keeps | simp only [Keeps.mk_iff] | apply KeepsParts.same
    | apply KeepsParts.send | apply Keeps2.snd | split | apply Keeps2.mk | refine Keeps2.of (by assumption) ?_ | dsimp only

theorem State.shutReckoner_keeps (h : Keeps s t) {x1} : Keeps s (State.shutReckoner t x1) := by
  unfold State.shutReckoner
  repeat' with_reducible first
    | exact h | assumption | apply State.raiseTo_keeps | apply State.failNow_keeps | apply State.farCount_keeps
    | refine Keeps.foldl (fun _ _ _ => ?_) ?_ | apply Keeps.ite | simp only [Keeps.mk_iff] | apply KeepsParts.same
    | apply KeepsParts.send | split | dsimp only

theorem State.thermalFatal_keeps (h : Keeps s t) {x1} : Keeps s (State.thermalFatal t x1) := by
  unfold State.thermalFatal
  repeat' with_reducible first
    | exact h | assumption | apply State.moduleFatal_keeps | simp only [Keeps.mk_iff] | apply KeepsParts.same | split
    | dsimp only

theorem State.sensorShutdown_keeps (h : Keeps s t) {x1} : Keeps s (State.sensorShutdown t x1) := by
  unfold State.sensorShutdown
  dsimp only
  generalize x1 / 4096 = c
  split
  · exact State.thermalFatal_keeps h
  · exact State.thermalFatal_keeps h
  · exact State.thermalFatal_keeps h
  · exact Keeps.ite (State.thermalFatal_keeps h) (State.failNow_keeps h)
  · exact State.detectLoss_keeps h
  · exact Keeps.ite (State.suddenLoss_keeps h) h
  · exact State.shutReckoner_keeps h

theorem State.compareSensor_keeps (h : Keeps s t) {x1} : Keeps s (State.compareSensor t x1) := by
  unfold State.compareSensor
  repeat' with_reducible first
    | exact h | assumption | apply State.setSensor_keeps | apply State.bump_keeps | apply State.logFault_keeps
    | apply State.fadeAtSwap_keeps | apply State.sensorShutdown_keeps | refine Keeps.foldl (fun _ _ _ => ?_) ?_
    | apply Keeps.ite | split | dsimp only

theorem State.setRate_keeps (h : Keeps s t) {x1 x2} : Keeps s (State.setRate t x1 x2) := by
  unfold State.setRate
  repeat' with_reducible first
    | exact h | assumption | simp only [Keeps.mk_iff] | apply KeepsParts.same | split | dsimp only

theorem State.rateBoundary_keeps (h : Keeps s t) {x1} : Keeps s (State.rateBoundary t x1) := by
  unfold State.rateBoundary
  repeat' with_reducible first
    | exact h | assumption | apply State.setRate_keeps | apply State.bump_keeps | apply State.logFault_keeps
    | apply Keeps.ite | split | dsimp only

theorem execRateLevelHoldExpiry_keeps (h : Keeps s t) {x0} : KeepsNext s (execRateLevelHoldExpiry x0 t) := by
  unfold execRateLevelHoldExpiry
  repeat' with_reducible first
    | exact h | assumption | apply State.setRate_keeps | apply KeepsNext.next | apply Keeps.ite | apply KeepsNext.ite
    | split | dsimp only

theorem State.throttleDie_keeps (h : Keeps s t) {x1} : Keeps s (State.throttleDie t x1) := by
  unfold State.throttleDie
  repeat' with_reducible first
    | exact h | assumption | apply State.setDie_keeps | apply Keeps.ite | split | dsimp only

theorem State.splitDie_keeps (h : Keeps s t) {x1} : Keeps s (State.splitDie t x1) := by
  unfold State.splitDie
  repeat' with_reducible first
    | exact h | assumption | apply State.setDie_keeps | apply State.drainRouters_keeps | apply Keeps.ite | split | dsimp only

theorem State.thermalBoundary_keeps (h : Keeps s t) : Keeps s (State.thermalBoundary t) := by
  unfold State.thermalBoundary
  repeat' with_reducible first
    | exact h | assumption | apply State.compareSensor_keeps | apply State.throttleDie_keeps
    | apply State.rateBoundary_keeps | apply State.setEngine_keeps | apply State.bump_keeps
    | refine Keeps.foldl (fun _ _ _ => ?_) ?_ | refine Keeps2.foldl (fun _ _ _ => ?_) ?_ | apply Keeps.ite
    | apply Keeps2.ite | simp only [Keeps.mk_iff] | apply KeepsParts.same | apply Keeps2.snd | split | apply Keeps2.mk
    | refine Keeps2.of (by assumption) ?_ | dsimp only

theorem execShutdownCooldownComplete_keeps (h : Keeps s t) {x0} : KeepsNext s (execShutdownCooldownComplete x0 t) := by
  unfold execShutdownCooldownComplete
  repeat' with_reducible first
    | exact h | assumption | apply State.setUnit_keeps | apply State.failedReckonerOff_keeps | apply KeepsNext.next
    | apply Keeps.ite | apply KeepsNext.ite | simp only [Keeps.mk_iff] | apply KeepsParts.same | split | dsimp only

theorem execThermtrip_keeps (h : Keeps s t) {x0 x1} : KeepsNext s (execThermtrip x0 x1 t) := by
  unfold execThermtrip
  repeat' with_reducible first
    | exact h | assumption | apply State.unitsOff_keeps | apply KeepsNext.next | apply Keeps.ite | apply KeepsNext.ite
    | simp only [Keeps.mk_iff] | apply KeepsParts.same | split | dsimp only

theorem State.makeDeferred_keeps (h : Keeps s t) {x1} : Keeps s (State.makeDeferred t x1) := by
  cases x1 with
  | record r => exact State.storeLog_keeps h
  | rollback n =>
    unfold State.makeDeferred
    exact Keeps.setGroom h (g := { t.groom with rollback := max t.groom.rollback n }) (le_max_left _ _)
  | bootCount =>
    unfold State.makeDeferred
    exact Keeps.setGroom h (g := { t.groom with boot := t.groom.boot + 1 }) (le_refl _)
  | lifecycle n => exact Keeps.set h
  | provision root debug serial key => exact Keeps.set h

theorem State.fuseWrite_keeps (h : Keeps s t) {x1} : Keeps s (State.fuseWrite t x1) := by
  unfold State.fuseWrite
  repeat' with_reducible first
    | exact h | assumption | apply State.makeDeferred_keeps | apply State.defer_keeps | apply Keeps.ite | split | dsimp only

theorem State.clearDeferred_keeps (h : Keeps s t) : Keeps s t.clearDeferred := by
  unfold State.clearDeferred
  refine Keeps.setFlt h ?_
  rintro ⟨a, -⟩
  exact ⟨a, Nat.zero_le _⟩

theorem execDeferredRecordFlush_keeps (h : Keeps s t) : KeepsNext s (execDeferredRecordFlush t) := by
  unfold execDeferredRecordFlush
  repeat' with_reducible first
    | exact h | assumption | apply State.makeDeferred_keeps | apply State.clearDeferred_keeps | apply KeepsNext.next
    | refine Keeps.foldl (fun _ _ _ => ?_) ?_ | apply Keeps.ite | apply KeepsNext.ite | split | dsimp only

theorem execPowerSample_keeps (h : Keeps s t) {x0 x1} : KeepsNext s (execPowerSample x0 x1 t) := by
  unfold execPowerSample
  repeat' with_reducible first
    | exact h | assumption | apply KeepsNext.next | apply Keeps.ite | apply KeepsNext.ite | simp only [Keeps.mk_iff]
    | apply KeepsParts.same | split | dsimp only

theorem execPowerEmergencyHoldExpiry_keeps (h : Keeps s t) : KeepsNext s (execPowerEmergencyHoldExpiry t) := by
  unfold execPowerEmergencyHoldExpiry
  repeat' with_reducible first
    | exact h | assumption | apply KeepsNext.next | apply Keeps.ite | apply KeepsNext.ite | simp only [Keeps.mk_iff]
    | apply KeepsParts.same | split | dsimp only

theorem execPowerThrottleStep_keeps (h : Keeps s t) : KeepsNext s (execPowerThrottleStep t) := by
  unfold execPowerThrottleStep
  repeat' with_reducible first
    | exact h | assumption | apply State.logFault_keeps | apply KeepsNext.next | apply Keeps.ite | apply KeepsNext.ite
    | simp only [Keeps.mk_iff] | apply KeepsParts.same | split | dsimp only

end Sys2Proof.Machine
end

