-- ==== Sys2Proof/Laws/KeepsSecurity.lean ====
section
/-! SUPPORT. What the operations of Machine/Security.lean keep (Laws/Keeps.lean). -/

namespace Sys2Proof.Machine

set_option linter.unusedTactic false
set_option linter.unreachableTactic false
set_option linter.unusedVariables false
set_option linter.unusedSimpArgs false

variable {s t u : State}

theorem State.setStatus_keeps (h : Keeps s t) {x1} : Keeps s (State.setStatus t x1) := by
  unfold State.setStatus
  repeat' with_reducible first
    | exact h | assumption | simp only [Keeps.mk_iff] | apply KeepsParts.same | split | dsimp only

theorem State.nonce_keeps (h : Keeps s t) : Keeps2 s (State.nonce t) := by
  unfold State.nonce
  repeat' with_reducible first
    | exact h | assumption | simp only [Keeps.mk_iff] | apply KeepsParts.same | apply Keeps2.snd | split | apply Keeps2.mk
    | refine Keeps2.of (by assumption) ?_ | dsimp only

theorem State.challengeOp_keeps (h : Keeps s t) {x1} : Keeps s (State.challengeOp t x1) := by
  unfold State.challengeOp
  repeat' with_reducible first
    | exact h | assumption | apply State.setStatus_keeps | apply State.nonce_keeps | apply Keeps.ite | apply Keeps2.ite
    | simp only [Keeps.mk_iff] | apply KeepsParts.same | apply KeepsParts.send | apply Keeps2.snd | split | apply Keeps2.mk
    | refine Keeps2.of (by assumption) ?_ | dsimp only

theorem State.submitFails_keeps (h : Keeps s t) : Keeps s (State.submitFails t) := by
  unfold State.submitFails
  repeat' with_reducible first
    | exact h | assumption | apply State.logFault_keeps | apply Keeps.ite | apply Keeps2.ite | simp only [Keeps.mk_iff]
    | apply KeepsParts.same | apply Keeps2.snd | split | apply Keeps2.mk | refine Keeps2.of (by assumption) ?_ | dsimp only

theorem State.submitGood_keeps (h : Keeps s t) {x1} : Keeps s (State.submitGood t x1) := by
  unfold State.submitGood
  repeat' with_reducible first
    | exact h | assumption | apply State.schedule_keeps | apply State.zeroise_keeps | apply State.levelGrant_keeps
    | apply Keeps.ite | simp only [Keeps.mk_iff] | apply KeepsParts.same | split | dsimp only

theorem State.submitOp_keeps (h : Keeps s t) : Keeps s (State.submitOp t) := by
  unfold State.submitOp
  repeat' with_reducible first
    | exact h | assumption | apply State.setStatus_keeps | apply State.submitFails_keeps | apply State.submitGood_keeps
    | apply Keeps.ite | apply Keeps2.ite | simp only [Keeps.mk_iff] | apply KeepsParts.same | apply Keeps2.snd | split
    | apply Keeps2.mk | refine Keeps2.of (by assumption) ?_ | dsimp only

theorem State.revokeOp_keeps (h : Keeps s t) {x1} : Keeps s (State.revokeOp t x1) := by
  unfold State.revokeOp
  repeat' with_reducible first
    | exact h | assumption | apply State.setStatus_keeps | apply Keeps.ite | simp only [Keeps.mk_iff]
    | apply KeepsParts.same | split | dsimp only

theorem State.provisionOp_keeps (h : Keeps s t) : Keeps s (State.provisionOp t) := by
  unfold State.provisionOp
  repeat' with_reducible first
    | exact h | assumption | apply State.setStatus_keeps | apply State.takeFree_keeps | apply State.fuseWrite_keeps
    | apply Keeps.ite | apply Keeps2.ite | simp only [Keeps.mk_iff] | apply KeepsParts.same | apply Keeps2.snd | split
    | apply Keeps2.mk | refine Keeps2.of (by assumption) ?_ | dsimp only

theorem State.pubkeyOp_keeps (h : Keeps s t) : Keeps s (State.pubkeyOp t) := by
  unfold State.pubkeyOp
  repeat' with_reducible first
    | exact h | assumption | simp only [Keeps.mk_iff] | apply KeepsParts.same | apply KeepsParts.send | split | dsimp only

theorem State.writeDebug_keeps (h : Keeps s t) {x1} : Keeps s (State.writeDebug t x1) := by
  unfold State.writeDebug
  repeat' with_reducible first
    | exact h | assumption | apply State.setReg_keeps | apply State.challengeOp_keeps | apply State.submitOp_keeps
    | apply State.revokeOp_keeps | apply State.provisionOp_keeps | apply State.pubkeyOp_keeps | split | dsimp only

theorem State.debugWrite_keeps (h : Keeps s t) {x1 x2 x3} : Keeps s (State.debugWrite t x1 x2 x3) := by
  unfold State.debugWrite
  repeat' with_reducible first
    | exact h | assumption | apply State.writeDebug_keeps | apply Keeps.ite | split | dsimp only

theorem execDebugChallenge_keeps (h : Keeps s t) {x0 x1} : KeepsNext s (execDebugChallenge x0 x1 t) := by
  unfold execDebugChallenge
  repeat' with_reducible first
    | exact h | assumption | apply State.debugWrite_keeps | apply KeepsNext.next | split | dsimp only

theorem execDebugSubmit_keeps (h : Keeps s t) {x0 x1 x2} : KeepsNext s (execDebugSubmit x0 x1 x2 t) := by
  unfold execDebugSubmit
  repeat' with_reducible first
    | exact h | assumption | apply State.debugWrite_keeps | apply State.advance_keeps | apply KeepsNext.next | split
    | dsimp only

theorem execDebugRevoke_keeps (h : Keeps s t) {x0 x1} : KeepsNext s (execDebugRevoke x0 x1 t) := by
  unfold execDebugRevoke
  repeat' with_reducible first
    | exact h | assumption | apply State.debugWrite_keeps | apply KeepsNext.next | split | dsimp only

theorem execProvision_keeps (h : Keeps s t) {x0 x1} : KeepsNext s (execProvision x0 x1 t) := by
  unfold execProvision
  repeat' with_reducible first
    | exact h | assumption | apply State.debugWrite_keeps | apply KeepsNext.next | split | dsimp only

theorem execPubkey_keeps (h : Keeps s t) {x0 x1} : KeepsNext s (execPubkey x0 x1 t) := by
  unfold execPubkey
  repeat' with_reducible first
    | exact h | assumption | apply State.debugWrite_keeps | apply KeepsNext.next | split | dsimp only

theorem State.readAuth_keeps (h : Keeps s t) : Keeps2 s (State.readAuth t) := by
  unfold State.readAuth
  repeat' with_reducible first
    | exact h | assumption | apply State.takeFree_keeps | simp only [Keeps.mk_iff] | apply KeepsParts.same
    | apply Keeps2.snd | split | apply Keeps2.mk | refine Keeps2.of (by assumption) ?_ | dsimp only

theorem execAuthDataRead_keeps (h : Keeps s t) {x0} : KeepsNext s (execAuthDataRead x0 t) := by
  unfold execAuthDataRead
  repeat' with_reducible first
    | exact h | assumption | apply State.readAuth_keeps | apply State.emit_keeps | apply KeepsNext.next | apply Keeps.ite
    | apply Keeps2.ite | apply KeepsNext.ite | apply Keeps2.snd | split | apply Keeps2.mk
    | refine Keeps2.of (by assumption) ?_ | dsimp only

theorem State.writeAuth_keeps (h : Keeps s t) {x1} : Keeps s (State.writeAuth t x1) := by
  unfold State.writeAuth
  repeat' with_reducible first
    | exact h | assumption | apply State.setReg_keeps | simp only [Keeps.mk_iff] | apply KeepsParts.same | split
    | dsimp only

theorem execAuthDataWrite_keeps (h : Keeps s t) {x0 x1} : KeepsNext s (execAuthDataWrite x0 x1 t) := by
  unfold execAuthDataWrite
  repeat' with_reducible first
    | exact h | assumption | apply State.writeAuth_keeps | apply KeepsNext.next | apply Keeps.ite | apply KeepsNext.ite
    | split | dsimp only

theorem execChallengeExpiry_keeps (h : Keeps s t) : KeepsNext s (execChallengeExpiry t) := by
  unfold execChallengeExpiry
  repeat' with_reducible first
    | exact h | assumption | apply KeepsNext.next | apply Keeps.ite | apply Keeps2.ite | apply KeepsNext.ite
    | simp only [Keeps.mk_iff] | apply KeepsParts.same | apply Keeps2.snd | split | apply Keeps2.mk
    | refine Keeps2.of (by assumption) ?_ | dsimp only

theorem execAuthLockoutExpiry_keeps (h : Keeps s t) : KeepsNext s (execAuthLockoutExpiry t) := by
  unfold execAuthLockoutExpiry
  repeat' with_reducible first
    | exact h | assumption | apply KeepsNext.next | apply Keeps.ite | apply KeepsNext.ite | simp only [Keeps.mk_iff]
    | apply KeepsParts.same | split | dsimp only

theorem State.clearRegs_keeps (h : Keeps s t) {x1} : Keeps s (State.clearRegs t x1) := by
  unfold State.clearRegs
  repeat' with_reducible first
    | exact h | assumption | simp only [Keeps.mk_iff] | apply KeepsParts.same | apply Keeps2.snd | split | apply Keeps2.mk
    | refine Keeps2.of (by assumption) ?_ | dsimp only

theorem State.clearBit_keeps (h : Keeps s t) {x1 x2} : Keeps s (State.clearBit t x1 x2) := by
  unfold State.clearBit
  repeat' with_reducible first
    | exact h | assumption | apply State.setLive_keeps | apply State.setRegF_keeps | split | dsimp only

theorem State.zeroStop_keeps (h : Keeps s t) : Keeps s (State.zeroStop t) := by
  unfold State.zeroStop
  repeat' with_reducible first
    | exact h | assumption | apply State.clearBit_keeps | apply State.uplinkRxEnable_keeps
    | apply State.uplinkTxEnable_keeps | apply State.setRegF_keeps | apply State.stopAll_keeps
    | refine Keeps.foldl (fun _ _ _ => ?_) ?_ | split | dsimp only

theorem State.eraseKeys_keeps (h : Keeps s t) : Keeps s (State.eraseKeys t) := by
  unfold State.eraseKeys
  repeat' with_reducible first
    | exact h | assumption | apply State.keyBind_keeps | apply State.clearRegs_keeps | simp only [Keeps.mk_iff]
    | apply KeepsParts.same | split | dsimp only

theorem State.zeroReckoners_keeps (h : Keeps s t) : Keeps s (State.zeroReckoners t) := by
  unfold State.zeroReckoners
  repeat' with_reducible first
    | exact h | assumption | apply State.takeFree_keeps | apply State.enterOrphaned_keeps | apply State.resetReckoner_keeps
    | apply State.unitEnabled_keeps | apply State.setDie_keeps | refine Keeps.foldl (fun _ _ _ => ?_) ?_
    | refine Keeps2.foldl (fun _ _ _ => ?_) ?_ | apply Keeps.ite | apply Keeps2.ite | apply Keeps2.snd | split
    | apply Keeps2.mk | refine Keeps2.of (by assumption) ?_ | dsimp only

theorem State.zeroise_keeps (h : Keeps s t) : Keeps s (State.zeroise t) := by
  unfold State.zeroise
  repeat' with_reducible first
    | exact h | assumption | apply State.eraseKeys_keeps | apply State.zeroReckoners_keeps | apply State.zeroStop_keeps
    | apply Keeps.ite | simp only [Keeps.mk_iff] | apply KeepsParts.same | split | dsimp only

theorem State.zeroStore_keeps (h : Keeps s t) : Keeps s (State.zeroStore t) := by
  unfold State.zeroStore
  repeat' with_reducible first
    | exact h | assumption | apply State.offNow_keeps | simp only [Keeps.mk_iff] | apply KeepsParts.same | apply Keeps2.snd
    | split | apply Keeps2.mk | refine Keeps2.of (by assumption) ?_ | dsimp only

theorem State.zeroMemory_keeps (h : Keeps s t) : Keeps s t.zeroMemory := by
  unfold State.zeroMemory
  refine State.clearRegs_keeps (Keeps.setMem h ?_)
  intro w
  exact Mem.wf_filter w _

theorem State.freeOrphans_keeps (h : Keeps s t) : Keeps s (State.freeOrphans t) := by
  unfold State.freeOrphans
  repeat' with_reducible first
    | exact h | assumption | apply State.setCtr_keeps | refine Keeps.foldl (fun _ _ _ => ?_) ?_ | apply Keeps.ite | split
    | dsimp only

theorem State.zeroLast_keeps (h : Keeps s t) : Keeps s (State.zeroLast t) := by
  unfold State.zeroLast
  repeat' with_reducible first
    | exact h | assumption | apply State.scheduleNext_keeps | apply State.levelGrant_keeps | split | dsimp only

theorem execZeroisationComplete_keeps (h : Keeps s t) {x0} : KeepsNext s (execZeroisationComplete x0 t) := by
  unfold execZeroisationComplete
  repeat' with_reducible first
    | exact h | assumption | apply State.zeroLast_keeps | apply State.stopAll_keeps | apply State.zeroMemory_keeps
    | apply State.zeroStore_keeps | apply State.freeOrphans_keeps | apply State.detectLoss_keeps | apply KeepsNext.next
    | apply Keeps.ite | apply KeepsNext.ite | simp only [Keeps.mk_iff] | apply KeepsParts.same | split | dsimp only

theorem State.endZeroise_keeps (h : Keeps s t) : Keeps s (State.endZeroise t) := by
  unfold State.endZeroise
  repeat' with_reducible first
    | exact h | assumption | apply State.logFault_keeps | apply State.fuseWrite_keeps | apply State.moveOn_keeps
    | apply Keeps.ite | simp only [Keeps.mk_iff] | apply KeepsParts.same | split | dsimp only

theorem State.levelGrant_keeps (h : Keeps s t) {x1} : Keeps s (State.levelGrant t x1) := by
  unfold State.levelGrant
  repeat' with_reducible first
    | exact h | assumption | apply State.endZeroise_keeps | apply State.fuseWrite_keeps | apply Keeps.ite
    | simp only [Keeps.mk_iff] | apply KeepsParts.same | split | dsimp only

theorem State.keyStatus_keeps (h : Keeps s t) {x1} : Keeps s (State.keyStatus t x1) := by
  unfold State.keyStatus
  repeat' with_reducible first
    | exact h | assumption | simp only [Keeps.mk_iff] | apply KeepsParts.same | split | dsimp only

theorem State.readBlob_keeps (h : Keeps s t) {x1} : Keeps2 s (State.readBlob t x1) := by
  obtain ⟨f, e⟩ : ∃ f, @State.readBlob = f := ⟨_, rfl⟩
  rw [e]
  delta State.readBlob at e
  subst e
  beta_reduce
  repeat' with_reducible first
    | exact h | assumption | apply State.load_keeps | apply Keeps.ite | apply Keeps2.ite | apply Keeps3.ite
    | apply Keeps2.snd | apply Keeps3.snd | split | apply Keeps2.mk | apply Keeps3.mk | refine Keeps2.of (by assumption) ?_
    | refine Keeps3.of (by assumption) ?_ | dsimp only

theorem State.keyLoad_keeps (h : Keeps s t) {x1} : Keeps s (State.keyLoad t x1) := by
  obtain ⟨f, e⟩ : ∃ f, State.keyLoad = f := ⟨_, rfl⟩
  rw [e]
  delta State.keyLoad at e
  subst e
  beta_reduce
  apply Keeps.ite
  · exact State.keyStatus_keeps h
  · have k := State.readBlob_keeps h (x1 := x1)
    revert k
    generalize State.readBlob t x1 = p
    intro k
    obtain ⟨o, u⟩ := p
    cases o with
    | none => exact State.keyStatus_keeps k
    | some v =>
      refine State.keyStatus_keeps ?_
      simp only [Keeps.mk_iff]
      exact KeepsParts.same k

theorem State.keyErase_keeps (h : Keeps s t) {x1} : Keeps s (State.keyErase t x1) := by
  unfold State.keyErase
  repeat' with_reducible first
    | exact h | assumption | apply State.keyStatus_keeps | apply Keeps.ite | simp only [Keeps.mk_iff]
    | apply KeepsParts.same | split | dsimp only

theorem State.mapKey_keeps (h : Keeps s t) {x1 x2} : Keeps s (State.mapKey t x1 x2) := by
  unfold State.mapKey
  repeat' with_reducible first
    | exact h | assumption | apply State.setReg_keeps | apply State.schedule_keeps | apply State.keyBind_keeps | split
    | dsimp only

theorem State.keyBound_keeps (h : Keeps s t) {x1 x2} : Keeps s (State.keyBound t x1 x2) := by
  unfold State.keyBound
  repeat' with_reducible first
    | exact h | assumption | apply State.setLive_keeps | split | dsimp only

theorem State.keyBind_keeps (h : Keeps s t) {x1 x2} : Keeps s (State.keyBind t x1 x2) := by
  unfold State.keyBind
  repeat' with_reducible first
    | exact h | assumption | apply State.keyStatus_keeps | apply State.mapKey_keeps | apply Keeps.ite | split | dsimp only

theorem State.writeKeyCmd_keeps (h : Keeps s t) {x1} : Keeps s (State.writeKeyCmd t x1) := by
  unfold State.writeKeyCmd
  repeat' with_reducible first
    | exact h | assumption | apply State.setReg_keeps | apply State.keyStatus_keeps | apply State.keyLoad_keeps
    | apply State.keyErase_keeps | apply State.keyBind_keeps | apply State.mapKey_keeps | apply Keeps.ite | split
    | dsimp only

theorem State.keyCommand_keeps (h : Keeps s t) {x1 x2 x3} : Keeps s (State.keyCommand t x1 x2 x3) := by
  unfold State.keyCommand
  repeat' with_reducible first
    | exact h | assumption | apply State.writeKeyCmd_keeps | apply Keeps.ite | split | dsimp only

theorem execKeyLoad_keeps (h : Keeps s t) {x0 x1} : KeepsNext s (execKeyLoad x0 x1 t) := by
  unfold execKeyLoad
  repeat' with_reducible first
    | exact h | assumption | apply State.keyCommand_keeps | apply KeepsNext.next | split | dsimp only

theorem execKeyErase_keeps (h : Keeps s t) {x0 x1} : KeepsNext s (execKeyErase x0 x1 t) := by
  unfold execKeyErase
  repeat' with_reducible first
    | exact h | assumption | apply State.keyCommand_keeps | apply KeepsNext.next | split | dsimp only

theorem execKeyBind_keeps (h : Keeps s t) {x0 x1 x2} : KeepsNext s (execKeyBind x0 x1 x2 t) := by
  unfold execKeyBind
  repeat' with_reducible first
    | exact h | assumption | apply State.keyCommand_keeps | apply State.advance_keeps | apply KeepsNext.next | split
    | dsimp only

theorem execKeyUnbind_keeps (h : Keeps s t) {x0 x1 x2} : KeepsNext s (execKeyUnbind x0 x1 x2 t) := by
  unfold execKeyUnbind
  repeat' with_reducible first
    | exact h | assumption | apply State.keyCommand_keeps | apply State.advance_keeps | apply KeepsNext.next | split
    | dsimp only

theorem State.writeLink_keeps (h : Keeps s t) {x1} : Keeps s (State.writeLink t x1) := by
  unfold State.writeLink
  repeat' with_reducible first
    | exact h | assumption | apply State.setReg_keeps | apply Keeps.ite | simp only [Keeps.mk_iff] | apply KeepsParts.same
    | split | dsimp only

theorem execLinkEncryptionSwitch_keeps (h : Keeps s t) {x0 x1} : KeepsNext s (execLinkEncryptionSwitch x0 x1 t) := by
  unfold execLinkEncryptionSwitch
  repeat' with_reducible first
    | exact h | assumption | apply State.writeLink_keeps | apply KeepsNext.next | apply Keeps.ite | apply KeepsNext.ite
    | split | dsimp only

theorem State.linkSwitch_keeps (h : Keeps s t) {x1} : Keeps s (State.linkSwitch t x1) := by
  unfold State.linkSwitch
  repeat' with_reducible first
    | exact h | assumption | apply State.fresh_keeps | apply Keeps.ite | simp only [Keeps.mk_iff]
    | apply KeepsParts.same | split | dsimp only

end Sys2Proof.Machine
end

