-- ==== Sys2Proof/Laws/KeepsRegRead.lean ====
section
/-! SUPPORT. What the operations of Machine/RegRead.lean keep (Laws/Keeps.lean). -/

namespace Sys2Proof.Machine

set_option linter.unusedTactic false
set_option linter.unreachableTactic false
set_option linter.unusedVariables false
set_option linter.unusedSimpArgs false

variable {s t u : State}

theorem State.dropShadow_keeps (h : Keeps s t) {x1 x2} : Keeps s (State.dropShadow t x1 x2) := by
  unfold State.dropShadow
  repeat' with_reducible first
    | exact h | assumption | simp only [Keeps.mk_iff] | apply KeepsParts.same | apply Keeps2.snd | split | apply Keeps2.mk
    | refine Keeps2.of (by assumption) ?_ | dsimp only

theorem State.setShadow_keeps (h : Keeps s t) {x1 x2 x3} : Keeps s (State.setShadow t x1 x2 x3) := by
  unfold State.setShadow
  repeat' with_reducible first
    | exact h | assumption | apply State.dropShadow_keeps | simp only [Keeps.mk_iff] | apply KeepsParts.same
    | apply KeepsParts.send | apply Keeps2.snd | split | apply Keeps2.mk | refine Keeps2.of (by assumption) ?_ | dsimp only

theorem State.readAt_keeps (h : Keeps s t) {x1 x2 x3 x4 x5} : Keeps2 s (State.readAt t x1 x2 x3 x4 x5) := by
  unfold State.readAt
  repeat' with_reducible first
    | exact h | assumption | apply State.readAuth_keeps | apply State.setShadow_keeps | apply State.dropShadow_keeps
    | apply State.setReg_keeps | apply Keeps.ite | apply Keeps2.ite | apply Keeps2.snd | split | apply Keeps2.mk
    | refine Keeps2.of (by assumption) ?_ | dsimp only

theorem State.raiseHole_keeps (h : Keeps s t) {x1 x2} : Keeps s (State.raiseHole t x1 x2) := by
  unfold State.raiseHole
  repeat' with_reducible first
    | exact h | assumption | apply State.raiseTo_keeps | apply Keeps2.snd | split | apply Keeps2.mk
    | refine Keeps2.of (by assumption) ?_ | dsimp only

theorem State.readReg_keeps (h : Keeps s t) {x1 x2} : Keeps3 s (State.readReg t x1 x2) := by
  unfold State.readReg
  repeat' with_reducible first
    | exact h | assumption | apply State.raiseHole_keeps | apply State.readAt_keeps | apply Keeps.ite | apply Keeps2.ite
    | apply Keeps3.ite | apply Keeps2.snd | apply Keeps3.snd | split | apply Keeps2.mk | apply Keeps3.mk
    | refine Keeps2.of (by assumption) ?_ | refine Keeps3.of (by assumption) ?_ | dsimp only

theorem State.readFor_keeps (h : Keeps s t) {x1 x2} : Keeps s (State.readFor t x1 x2) := by
  unfold State.readFor
  repeat' with_reducible first
    | exact h | assumption | apply State.readReg_keeps | apply State.emit_keeps | apply Keeps.ite | apply Keeps2.ite
    | apply Keeps3.ite | apply Keeps2.snd | apply Keeps3.snd | split | apply Keeps2.mk | apply Keeps3.mk
    | refine Keeps2.of (by assumption) ?_ | refine Keeps3.of (by assumption) ?_ | dsimp only

theorem execLoReadShadow_keeps (h : Keeps s t) {x0 x1} : KeepsNext s (execLoReadShadow x0 x1 t) := by
  unfold execLoReadShadow
  repeat' with_reducible first
    | exact h | assumption | apply State.readFor_keeps | apply KeepsNext.next | split | dsimp only

theorem execRcCounterRead_keeps (h : Keeps s t) {x0 x1} : KeepsNext s (execRcCounterRead x0 x1 t) := by
  unfold execRcCounterRead
  repeat' with_reducible first
    | exact h | assumption | apply State.readFor_keeps | apply KeepsNext.next | split | dsimp only

end Sys2Proof.Machine
end

