-- ==== Sys2Proof/Laws/KeepsRegWrite.lean ====
section
/-! SUPPORT. What the operations of Machine/RegWrite.lean keep (Laws/Keeps.lean). -/

namespace Sys2Proof.Machine

set_option linter.unusedTactic false
set_option linter.unreachableTactic false
set_option linter.unusedVariables false
set_option linter.unusedSimpArgs false

variable {s t u : State}

theorem State.timedWrite_keeps (h : Keeps s t) {x1 x2 x3 x4} : Keeps s (State.timedWrite t x1 x2 x3 x4) := by
  unfold State.timedWrite
  repeat' with_reducible first
    | exact h | assumption | apply State.schedule_keeps | apply Keeps.ite | split | dsimp only

theorem State.writeBits_keeps (h : Keeps s t) {x1 x2 x3 x4 x5 x6} : Keeps s (State.writeBits t x1 x2 x3 x4 x5 x6) := by
  unfold State.writeBits
  repeat' with_reducible first
    | exact h | assumption | apply State.setReg_keeps | apply State.timedWrite_keeps | apply Keeps.ite | split | dsimp only

theorem State.dropStaged_keeps (h : Keeps s t) {x1 x2} : Keeps s (State.dropStaged t x1 x2) := by
  unfold State.dropStaged
  repeat' with_reducible first
    | exact h | assumption | simp only [Keeps.mk_iff] | apply KeepsParts.same | apply Keeps2.snd | split | apply Keeps2.mk
    | refine Keeps2.of (by assumption) ?_ | dsimp only

theorem State.stageLo_keeps (h : Keeps s t) {x1 x2 x3} : Keeps s (State.stageLo t x1 x2 x3) := by
  unfold State.stageLo
  repeat' with_reducible first
    | exact h | assumption | apply State.dropStaged_keeps | simp only [Keeps.mk_iff] | apply KeepsParts.same
    | apply KeepsParts.send | apply Keeps2.snd | split | apply Keeps2.mk | refine Keeps2.of (by assumption) ?_ | dsimp only

theorem State.writePair_keeps (h : Keeps s t) {x1 x2 x3 x4 x5 x6 x7} : Keeps s (State.writePair t x1 x2 x3 x4 x5 x6 x7) := by
  unfold State.writePair
  repeat' with_reducible first
    | exact h | assumption | apply State.writeBits_keeps | apply State.dropStaged_keeps | apply Keeps.ite | split
    | dsimp only

theorem State.writeEnable_keeps (h : Keeps s t) {x1 x2} : Keeps s (State.writeEnable t x1 x2) := by
  unfold State.writeEnable
  repeat' with_reducible first
    | exact h | assumption | apply State.requestEnable_keeps | apply State.writeDisable_keeps | apply Keeps.ite | split
    | dsimp only

theorem State.writeBlkCtl_keeps (h : Keeps s t) {x1 x2 x3 x4} : Keeps s (State.writeBlkCtl t x1 x2 x3 x4) := by
  unfold State.writeBlkCtl
  repeat' with_reducible first
    | exact h | assumption | apply State.setReg_keeps | apply State.writeReset_keeps | apply State.writeEnable_keeps
    | apply Keeps.ite | split | dsimp only

theorem State.forceIrq_keeps (h : Keeps s t) {x1 x2} : Keeps s (State.forceIrq t x1 x2) := by
  unfold State.forceIrq
  repeat' with_reducible first
    | exact h | assumption | apply State.setReg_keeps | split | dsimp only

theorem State.writeHeader_keeps (h : Keeps s t) {x1 x2 x3 x4 x5} : Keeps s (State.writeHeader t x1 x2 x3 x4 x5) := by
  unfold State.writeHeader
  repeat' with_reducible first
    | exact h | assumption | apply State.writeBlkCtl_keeps | apply State.setReg_keeps | apply State.forceIrq_keeps | split
    | dsimp only

theorem State.writePdk_keeps (h : Keeps s t) {x1 x2 x3 x4} : Keeps s (State.writePdk t x1 x2 x3 x4) := by
  unfold State.writePdk
  repeat' with_reducible first
    | exact h | assumption | apply State.writeFaultHead_keeps | apply State.writeBits_keeps | apply Keeps.ite | split
    | dsimp only

theorem State.writeGroomPage_keeps (h : Keeps s t) {x1 x2 x3 x4} : Keeps s (State.writeGroomPage t x1 x2 x3 x4) := by
  unfold State.writeGroomPage
  repeat' with_reducible first
    | exact h | assumption | apply State.writeRstCtl_keeps | apply State.commitRollback_keeps | apply State.pairSwitch_keeps
    | apply State.writeBits_keeps | apply Keeps.ite | simp only [Keeps.mk_iff] | apply KeepsParts.same | split | dsimp only

theorem State.writePowerPage_keeps (h : Keeps s t) {x1 x2 x3 x4} : Keeps s (State.writePowerPage t x1 x2 x3 x4) := by
  unfold State.writePowerPage
  repeat' with_reducible first
    | exact h | assumption | apply State.writePower_keeps | apply State.writeBits_keeps | apply Keeps.ite
    | simp only [Keeps.mk_iff] | apply KeepsParts.same | split | dsimp only

theorem State.writeSecurity_keeps (h : Keeps s t) {x1 x2 x3 x4} : Keeps s (State.writeSecurity t x1 x2 x3 x4) := by
  unfold State.writeSecurity
  repeat' with_reducible first
    | exact h | assumption | apply State.writeDebug_keeps | apply State.writeAuth_keeps | apply State.writeKeyCmd_keeps
    | apply State.writeLink_keeps | apply State.writeBits_keeps | split | dsimp only

theorem State.writeSnapCtl_keeps (h : Keeps s t) {x1 x2 x3} : Keeps s (State.writeSnapCtl t x1 x2 x3) := by
  unfold State.writeSnapCtl
  repeat' with_reducible first
    | exact h | assumption | apply State.writeBits_keeps | apply State.rearm_keeps | apply State.trigger_keeps
    | apply State.rackTrigger_keeps | apply Keeps.ite | split | dsimp only

theorem State.writeSnapshot_keeps (h : Keeps s t) {x1 x2 x3 x4} : Keeps s (State.writeSnapshot t x1 x2 x3 x4) := by
  unfold State.writeSnapshot
  repeat' with_reducible first
    | exact h | assumption | apply State.writeSnapCtl_keeps | apply State.writeBits_keeps | apply Keeps.ite | split
    | dsimp only

theorem State.writeQuad_keeps (h : Keeps s t) {x1 x2 x3 x4} : Keeps s (State.writeQuad t x1 x2 x3 x4) := by
  unfold State.writeQuad
  repeat' with_reducible first
    | exact h | assumption | apply State.setQuad_keeps | apply State.writeBits_keeps | apply State.writeSwap_keeps
    | apply Keeps.ite | split | dsimp only

theorem State.writeLaser_keeps (h : Keeps s t) {x1 x2 x3 x4} : Keeps s (State.writeLaser t x1 x2 x3 x4) := by
  unfold State.writeLaser
  repeat' with_reducible first
    | exact h | assumption | apply State.writeQuad_keeps | apply State.writeBits_keeps | apply State.writeCartCtl_keeps
    | apply State.setCart_keeps | apply Keeps.ite | split | dsimp only

theorem State.writePlanes_keeps (h : Keeps s t) {x1} : Keeps s (State.writePlanes t x1) := by
  unfold State.writePlanes
  repeat' with_reducible first
    | exact h | assumption | apply State.writeEnable_keeps | refine Keeps.foldl (fun _ _ _ => ?_) ?_ | split | dsimp only

theorem State.writeAllocator_keeps (h : Keeps s t) {x1 x2 x3 x4} : Keeps s (State.writeAllocator t x1 x2 x3 x4) := by
  unfold State.writeAllocator
  repeat' with_reducible first
    | exact h | assumption | apply State.writePlanes_keeps | apply State.writeBits_keeps | apply Keeps.ite | split
    | dsimp only

theorem State.writeThresh_keeps (h : Keeps s t) {x1} : Keeps s (State.writeThresh t x1) := by
  unfold State.writeThresh
  repeat' with_reducible first
    | exact h | assumption | apply State.setCtr_keeps | split | dsimp only

theorem State.writeHitch_keeps (h : Keeps s t) {x1 x2 x3 x4} : Keeps s (State.writeHitch t x1 x2 x3 x4) := by
  unfold State.writeHitch
  repeat' with_reducible first
    | exact h | assumption | apply State.writeCtrCtl_keeps | apply State.writeArm_keeps | apply State.writeThresh_keeps
    | apply State.writeRevoke_keeps | apply State.writeBits_keeps | simp only [Keeps.mk_iff] | apply KeepsParts.same | split
    | dsimp only

theorem State.writeStable_keeps (h : Keeps s t) {x1 x2 x3 x4} : Keeps s (State.writeStable t x1 x2 x3 x4) := by
  unfold State.writeStable
  repeat' with_reducible first
    | exact h | assumption | apply State.writeCrTail_keeps | apply State.writeBits_keeps | apply Keeps.ite | split
    | dsimp only

theorem State.writeLease_keeps (h : Keeps s t) {x1 x2} : Keeps s (State.writeLease t x1 x2) := by
  unfold State.writeLease
  repeat' with_reducible first
    | exact h | assumption | apply State.setLease_keeps | apply Keeps.ite | split | dsimp only

theorem State.writeUplinkCtl_keeps (h : Keeps s t) {x1 x2 x3} : Keeps s (State.writeUplinkCtl t x1 x2 x3) := by
  unfold State.writeUplinkCtl
  repeat' with_reducible first
    | exact h | assumption | apply State.writeBits_keeps | apply State.schedule_keeps | apply State.resumeUplink_keeps
    | apply Keeps.ite | split | dsimp only

theorem State.writeFabric_keeps (h : Keeps s t) {x1 x2 x3 x4} : Keeps s (State.writeFabric t x1 x2 x3 x4) := by
  unfold State.writeFabric
  repeat' with_reducible first
    | exact h | assumption | apply State.ingressCommand_keeps | apply State.writeLease_keeps
    | apply State.leaseCommand_keeps | apply State.writeTable_keeps | apply State.routingOp_keeps
    | apply State.writeUplinkCtl_keeps | apply State.writeUplinkTail_keeps | apply State.setUplink_keeps
    | apply State.writeBits_keeps | split | dsimp only

theorem State.writeLaneCtl_keeps (h : Keeps s t) {x1 x2} : Keeps s (State.writeLaneCtl t x1 x2) := by
  unfold State.writeLaneCtl
  repeat' with_reducible first
    | exact h | assumption | apply State.writeEnable_keeps | apply State.writeRetrain_keeps | apply Keeps.ite | split
    | dsimp only

theorem State.writeBridle_keeps (h : Keeps s t) {x1 x2 x3 x4 x5} : Keeps s (State.writeBridle t x1 x2 x3 x4 x5) := by
  unfold State.writeBridle
  repeat' with_reducible first
    | exact h | assumption | apply State.writeLaneCtl_keeps | apply State.writeBits_keeps | apply Keeps.ite | split
    | dsimp only

theorem State.writeMemory_keeps (h : Keeps s t) {x1 x2 x3 x4} : Keeps s (State.writeMemory t x1 x2 x3 x4) := by
  unfold State.writeMemory
  repeat' with_reducible first
    | exact h | assumption | apply State.mapKey_keeps | apply State.writeBits_keeps | apply Keeps.ite | split | dsimp only

theorem State.writeStack_keeps (h : Keeps s t) {x1 x2 x3} : Keeps s (State.writeStack t x1 x2 x3) := by
  unfold State.writeStack
  repeat' with_reducible first
    | exact h | assumption | apply State.setStack_keeps | apply Keeps.ite | split | dsimp only

theorem State.writePort_keeps (h : Keeps s t) {x1 x2 x3 x4 x5} : Keeps s (State.writePort t x1 x2 x3 x4 x5) := by
  unfold State.writePort
  repeat' with_reducible first
    | exact h | assumption | apply State.writeEnable_keeps | apply State.writeBits_keeps | apply Keeps.ite | split
    | dsimp only

theorem State.writeGait_keeps (h : Keeps s t) {x1 x2} : Keeps s (State.writeGait t x1 x2) := by
  unfold State.writeGait
  repeat' with_reducible first
    | exact h | assumption | apply State.setReg_keeps | simp only [Keeps.mk_iff] | apply KeepsParts.same
    | apply KeepsParts.send | apply Keeps2.snd | split | apply Keeps2.mk | refine Keeps2.of (by assumption) ?_ | dsimp only

theorem State.writeDie_keeps (h : Keeps s t) {x1 x2 x3 x4 x5} : Keeps s (State.writeDie t x1 x2 x3 x4 x5) := by
  unfold State.writeDie
  repeat' with_reducible first
    | exact h | assumption | apply State.writeEnable_keeps | apply State.writeGait_keeps | apply State.writeBits_keeps
    | split | dsimp only

theorem State.writeQueueCtl_keeps (h : Keeps s t) {x1 x2} : Keeps s (State.writeQueueCtl t x1 x2) := by
  unfold State.writeQueueCtl
  repeat' with_reducible first
    | exact h | assumption | apply State.schedule_keeps | apply State.setQueue_keeps | apply State.resume_keeps
    | apply Keeps.ite | split | dsimp only

theorem State.writeHead_keeps (h : Keeps s t) {x1 x2} : Keeps s (State.writeHead t x1 x2) := by
  unfold State.writeHead
  repeat' with_reducible first
    | exact h | assumption | apply State.setQueue_keeps | apply Keeps.ite | split | dsimp only

theorem State.writeQueue_keeps (h : Keeps s t) {x1 x2 x3 x4 x5} : Keeps s (State.writeQueue t x1 x2 x3 x4 x5) := by
  unfold State.writeQueue
  repeat' with_reducible first
    | exact h | assumption | apply State.writeQueueCtl_keeps | apply State.setQueue_keeps | apply State.writeTail_keeps
    | apply State.writeHead_keeps | apply State.stageLo_keeps | apply State.dropStaged_keeps | apply State.settleQueue_keeps
    | apply Keeps.ite | split | dsimp only

theorem State.writeCore_keeps (h : Keeps s t) {x1 x2 x3 x4 x5} : Keeps s (State.writeCore t x1 x2 x3 x4 x5) := by
  unfold State.writeCore
  repeat' with_reducible first
    | exact h | assumption | apply State.setCore_keeps | apply State.zeroise_keeps | apply State.writeEnable_keeps
    | apply State.writeQueue_keeps | apply Keeps.ite | simp only [Keeps.mk_iff] | apply KeepsParts.same | split
    | dsimp only

theorem State.writePlain_keeps (h : Keeps s t) {x1 x2 x3 x4 x5 x6} : Keeps s (State.writePlain t x1 x2 x3 x4 x5 x6) := by
  unfold State.writePlain
  repeat' with_reducible first
    | exact h | assumption | apply State.writePdk_keeps | apply State.writeGroomPage_keeps
    | apply State.writePowerPage_keeps | apply State.writeSecurity_keeps | apply State.writeSnapshot_keeps
    | apply State.writeLaser_keeps | apply State.writeAllocator_keeps | apply State.writeHitch_keeps
    | apply State.writeTblCtl_keeps | apply State.writeBits_keeps | apply State.writeStable_keeps
    | apply State.writeFabric_keeps | apply State.writeBridle_keeps | apply State.writeMemory_keeps
    | apply State.writePort_keeps | apply State.writeDie_keeps | apply State.writeStack_keeps | apply Keeps.ite | split
    | dsimp only

theorem State.writeLo_keeps (h : Keeps s t) {x1 x2 x3 x4 x5 x6} : Keeps s (State.writeLo t x1 x2 x3 x4 x5 x6) := by
  unfold State.writeLo
  repeat' with_reducible first
    | exact h | assumption | apply State.setEdu_keeps | apply State.stageLo_keeps | apply State.setReg_keeps
    | apply State.schedule_keeps | apply State.faultRing_keeps | apply State.writeBits_keeps | apply Keeps.ite
    | simp only [Keeps.mk_iff] | apply KeepsParts.same | split | dsimp only

theorem State.writeHi_keeps (h : Keeps s t) {x1 x2 x3 x4 x5 x6 x7} : Keeps s (State.writeHi t x1 x2 x3 x4 x5 x6 x7) := by
  unfold State.writeHi
  repeat' with_reducible first
    | exact h | assumption | apply State.setEdu_keeps | apply State.writePair_keeps | apply Keeps.ite | split | dsimp only

theorem State.writePage_keeps (h : Keeps s t) {x1 x2 x3 x4 x5 x6} : Keeps s (State.writePage t x1 x2 x3 x4 x5 x6) := by
  unfold State.writePage
  repeat' with_reducible first
    | exact h | assumption | apply State.writeHeader_keeps | apply State.writeCore_keeps | apply State.writeLo_keeps
    | apply State.writeHi_keeps | apply State.writePlain_keeps | apply Keeps.ite | split | dsimp only

theorem State.writeReg_keeps (h : Keeps s t) {x1 x2 x3} : Keeps2 s (State.writeReg t x1 x2 x3) := by
  unfold State.writeReg
  repeat' with_reducible first
    | exact h | assumption | apply State.raiseHole_keeps | apply State.writePage_keeps | apply Keeps.ite | apply Keeps2.ite
    | apply Keeps2.snd | split | apply Keeps2.mk | refine Keeps2.of (by assumption) ?_ | dsimp only

theorem execRegisterWrite_keeps (h : Keeps s t) {x0 x1 x2 x3} : KeepsNext s (execRegisterWrite x0 x1 x2 x3 t) := by
  unfold execRegisterWrite
  repeat' with_reducible first
    | exact h | assumption | apply State.writeReg_keeps | apply State.advance_keeps | apply KeepsNext.next
    | apply Keeps2.snd | split | apply Keeps2.mk | refine Keeps2.of (by assumption) ?_ | dsimp only

theorem execHiWriteApply_keeps (h : Keeps s t) {x0 x1 x2 x3} : KeepsNext s (execHiWriteApply x0 x1 x2 x3 t) := by
  unfold execHiWriteApply
  repeat' with_reducible first
    | exact h | assumption | apply State.writeReg_keeps | apply State.advance_keeps | apply KeepsNext.next
    | apply Keeps2.snd | split | apply Keeps2.mk | refine Keeps2.of (by assumption) ?_ | dsimp only

theorem execBlkIrqForce_keeps (h : Keeps s t) {x0 x1 x2} : KeepsNext s (execBlkIrqForce x0 x1 x2 t) := by
  unfold execBlkIrqForce
  repeat' with_reducible first
    | exact h | assumption | apply State.writeReg_keeps | apply KeepsNext.next | apply Keeps2.snd | split | apply Keeps2.mk
    | refine Keeps2.of (by assumption) ?_ | dsimp only

end Sys2Proof.Machine
end

