-- ==== Sys2Proof/Laws/KeepsHost.lean ====
section
/-! SUPPORT. What the operations of Machine/Host.lean keep (Laws/Keeps.lean). -/

namespace Sys2Proof.Machine

set_option linter.unusedTactic false
set_option linter.unreachableTactic false
set_option linter.unusedVariables false
set_option linter.unusedSimpArgs false

variable {s t u : State}

theorem State.setPciLink_keeps (h : Keeps s t) {x1 x2 x3} : Keeps s (State.setPciLink t x1 x2 x3) := by
  unfold State.setPciLink
  repeat' with_reducible first
    | exact h | assumption | apply State.setRegF_keeps | split | dsimp only

theorem State.clearWindow_keeps (h : Keeps s t) {x1} : Keeps s (State.clearWindow t x1) := by
  unfold State.clearWindow
  repeat' with_reducible first
    | exact h | assumption | refine Keeps.foldl (fun _ _ _ => ?_) ?_ | refine Keeps2.foldl (fun _ _ _ => ?_) ?_
    | simp only [Keeps.mk_iff] | apply KeepsParts.same | apply Keeps2.snd | split | apply Keeps2.mk
    | refine Keeps2.of (by assumption) ?_ | dsimp only

theorem State.resetEndpoint_keeps (h : Keeps s t) : Keeps s (State.resetEndpoint t) := by
  unfold State.resetEndpoint
  repeat' with_reducible first
    | exact h | assumption | apply State.clearWindow_keeps | apply State.orphanFunction_keeps
    | refine Keeps.foldl (fun _ _ _ => ?_) ?_ | refine Keeps2.foldl (fun _ _ _ => ?_) ?_ | simp only [Keeps.mk_iff]
    | apply KeepsParts.same | apply Keeps2.snd | split | apply Keeps2.mk | refine Keeps2.of (by assumption) ?_ | dsimp only

theorem execPerstAssert_keeps (h : Keeps s t) : KeepsNext s (execPerstAssert t) := by
  unfold execPerstAssert
  repeat' with_reducible first
    | exact h | assumption | apply State.setPciLink_keeps | apply State.resetEndpoint_keeps | apply KeepsNext.next
    | simp only [Keeps.mk_iff] | apply KeepsParts.same | split | dsimp only

theorem execPcieDlDown_keeps (h : Keeps s t) : KeepsNext s (execPcieDlDown t) := by
  unfold execPcieDlDown
  repeat' with_reducible first
    | exact h | assumption | apply State.setPciLink_keeps | apply State.resetEndpoint_keeps | apply KeepsNext.next
    | apply Keeps.ite | apply KeepsNext.ite | split | dsimp only

theorem execPerstDeassert_keeps (h : Keeps s t) : KeepsNext s (execPerstDeassert t) := by
  unfold execPerstDeassert
  repeat' with_reducible first
    | exact h | assumption | apply State.setPciLink_keeps | apply KeepsNext.next | simp only [Keeps.mk_iff]
    | apply KeepsParts.same | split | dsimp only

theorem execPcieLinkUp_keeps (h : Keeps s t) {x0 x1 x2} : KeepsNext s (execPcieLinkUp x0 x1 x2 t) := by
  unfold execPcieLinkUp
  repeat' with_reducible first
    | exact h | assumption | apply State.setPciLink_keeps | apply KeepsNext.next | apply Keeps.ite | apply KeepsNext.ite
    | split | dsimp only

theorem State.disableRing_keeps (h : Keeps s t) {x1} : Keeps s (State.disableRing t x1) := by
  unfold State.disableRing
  repeat' with_reducible first
    | exact h | assumption | apply State.scheduleNext_keeps | apply State.setRegF_keeps | split | dsimp only

theorem execFunctionLevelReset_keeps (h : Keeps s t) {x0 x1} : KeepsNext s (execFunctionLevelReset x0 x1 t) := by
  unfold execFunctionLevelReset
  repeat' with_reducible first
    | exact h | assumption | apply State.orphanFunction_keeps | apply State.bump_keeps | apply State.advance_keeps
    | apply State.clearWindow_keeps | apply State.disableRing_keeps | apply KeepsNext.next
    | refine Keeps.foldl (fun _ _ _ => ?_) ?_ | refine Keeps2.foldl (fun _ _ _ => ?_) ?_ | simp only [Keeps.mk_iff]
    | apply KeepsParts.same | apply Keeps2.snd | split | apply Keeps2.mk | refine Keeps2.of (by assumption) ?_ | dsimp only

theorem State.bar0_keeps (h : Keeps s t) {x1 x2} : Keeps s (State.bar0 t x1 x2) := by
  unfold State.bar0
  repeat' with_reducible first
    | exact h | assumption | apply State.writeReg_keeps | apply State.readReg_keeps | apply State.emit_keeps
    | apply Keeps2.snd | apply Keeps3.snd | split | apply Keeps2.mk | apply Keeps3.mk | refine Keeps2.of (by assumption) ?_
    | refine Keeps3.of (by assumption) ?_ | dsimp only

theorem execBar0Access_keeps (h : Keeps s t) {x0 x1 x2 x3} : KeepsNext s (execBar0Access x0 x1 x2 x3 t) := by
  unfold execBar0Access
  repeat' with_reducible first
    | exact h | assumption | apply State.advance_keeps | apply State.bump_keeps | apply State.bar0_keeps
    | apply State.emit_keeps | apply KeepsNext.next | apply Keeps.ite | apply KeepsNext.ite | split | dsimp only

theorem State.hostAnswer_keeps (h : Keeps s t) {x1 x2 x3} : Keeps s (State.hostAnswer t x1 x2 x3) := by
  unfold State.hostAnswer
  repeat' with_reducible first
    | exact h | assumption | apply State.emit_keeps | split | dsimp only

theorem State.hostLoad_keeps (h : Keeps s t) {x1 x2 x3 x4} : Keeps s (State.hostLoad t x1 x2 x3 x4) := by
  unfold State.hostLoad
  repeat' with_reducible first
    | exact h | assumption | apply State.load_keeps | apply State.emit_keeps | apply State.bump_keeps | apply Keeps2.snd
    | apply Keeps3.snd | split | apply Keeps2.mk | apply Keeps3.mk | refine Keeps2.of (by assumption) ?_
    | refine Keeps3.of (by assumption) ?_ | dsimp only

theorem State.hostModify_keeps (h : Keeps s t) {x1 x2 x3 x4} : Keeps s (State.hostModify t x1 x2 x3 x4) := by
  unfold State.hostModify
  repeat' with_reducible first
    | exact h | assumption | apply State.hostAnswer_keeps | apply State.raiseTo_keeps | apply State.modify_keeps
    | apply State.emit_keeps | apply Keeps.ite | apply Keeps2.ite | apply Keeps3.ite | apply Keeps2.snd | apply Keeps3.snd
    | split | apply Keeps2.mk | apply Keeps3.mk | refine Keeps2.of (by assumption) ?_ | refine Keeps3.of (by assumption) ?_
    | dsimp only

theorem State.hostAccess_keeps (h : Keeps s t) {x1 x2 x3 x4} : Keeps s (State.hostAccess t x1 x2 x3 x4) := by
  unfold State.hostAccess
  repeat' with_reducible first
    | exact h | assumption | apply State.hostLoad_keeps | apply State.store_keeps | apply State.hostModify_keeps
    | apply Keeps2.snd | split | apply Keeps2.mk | refine Keeps2.of (by assumption) ?_ | dsimp only

theorem State.bar4_keeps (h : Keeps s t) {x1 x2 x3} : Keeps s (State.bar4 t x1 x2 x3) := by
  unfold State.bar4
  repeat' with_reducible first
    | exact h | assumption | apply State.hostAnswer_keeps | apply State.raiseTo_keeps | apply State.bump_keeps
    | apply State.hostAccess_keeps | apply Keeps.ite | split | dsimp only

theorem execBar4Access_keeps (h : Keeps s t) {x0 x1 x2 x3} : KeepsNext s (execBar4Access x0 x1 x2 x3 t) := by
  unfold execBar4Access
  repeat' with_reducible first
    | exact h | assumption | apply State.advance_keeps | apply State.bar4_keeps | apply State.bump_keeps
    | apply KeepsNext.next | apply Keeps.ite | apply KeepsNext.ite | split | dsimp only

theorem State.writeMsix_keeps (h : Keeps s t) {x1 x2 x3 x4} : Keeps s (State.writeMsix t x1 x2 x3 x4) := by
  unfold State.writeMsix
  repeat' with_reducible first
    | exact h | assumption | apply State.hostMessage_keeps | apply State.setMsix_keeps | apply Keeps.ite | split
    | dsimp only

theorem State.bar2Write_keeps (h : Keeps s t) {x1 x2 x3} : Keeps s (State.bar2Write t x1 x2 x3) := by
  unfold State.bar2Write
  repeat' with_reducible first
    | exact h | assumption | apply State.writeCrTail_keeps | apply State.logFault_keeps | apply State.bump_keeps
    | apply State.hostDoorbell_keeps | apply State.writeMsix_keeps | apply Keeps.ite | split | dsimp only

theorem execBar2RingDoorbell_keeps (h : Keeps s t) {x0 x1 x2 x3} : KeepsNext s (execBar2RingDoorbell x0 x1 x2 x3 t) := by
  unfold execBar2RingDoorbell
  repeat' with_reducible first
    | exact h | assumption | apply State.advance_keeps | apply State.bump_keeps | apply State.emit_keeps
    | apply State.bar2Write_keeps | apply KeepsNext.next | apply Keeps.ite | apply KeepsNext.ite | split | dsimp only

theorem execI3cOffsetWrite_keeps (h : Keeps s t) {x0} : KeepsNext s (execI3cOffsetWrite x0 t) := by
  unfold execI3cOffsetWrite
  repeat' with_reducible first
    | exact h | assumption | apply State.emit_keeps | apply KeepsNext.next | apply Keeps.ite | apply KeepsNext.ite
    | simp only [Keeps.mk_iff] | apply KeepsParts.same | split | dsimp only

theorem execI3cRegisterRead_keeps (h : Keeps s t) : KeepsNext s (execI3cRegisterRead t) := by
  unfold execI3cRegisterRead
  repeat' with_reducible first
    | exact h | assumption | apply State.emit_keeps | apply State.readReg_keeps | apply KeepsNext.next | apply Keeps.ite
    | apply Keeps2.ite | apply Keeps3.ite | apply KeepsNext.ite | simp only [Keeps.mk_iff] | apply KeepsParts.same
    | apply Keeps2.snd | apply Keeps3.snd | split | apply Keeps2.mk | apply Keeps3.mk | refine Keeps2.of (by assumption) ?_
    | refine Keeps3.of (by assumption) ?_ | dsimp only

theorem execI3cRegisterWrite_keeps (h : Keeps s t) {x0 x1 x2} : KeepsNext s (execI3cRegisterWrite x0 x1 x2 t) := by
  unfold execI3cRegisterWrite
  repeat' with_reducible first
    | exact h | assumption | apply State.advance_keeps | apply State.writeReg_keeps | apply State.emit_keeps
    | apply KeepsNext.next | apply Keeps.ite | apply Keeps2.ite | apply KeepsNext.ite | apply Keeps2.snd | split
    | apply Keeps2.mk | refine Keeps2.of (by assumption) ?_ | dsimp only

theorem execUartReadCommand_keeps (h : Keeps s t) {x0} : KeepsNext s (execUartReadCommand x0 t) := by
  unfold execUartReadCommand
  repeat' with_reducible first
    | exact h | assumption | apply State.readFor_keeps | apply KeepsNext.next | apply Keeps.ite | apply KeepsNext.ite
    | split | dsimp only

theorem execUartLogCommand_keeps (h : Keeps s t) {x0} : KeepsNext s (execUartLogCommand x0 t) := by
  unfold execUartLogCommand
  repeat' with_reducible first
    | exact h | assumption | apply KeepsNext.next | apply Keeps.ite | apply Keeps2.ite | apply KeepsNext.ite
    | simp only [Keeps.mk_iff] | apply KeepsParts.same | apply KeepsParts.send | apply Keeps2.snd | split | apply Keeps2.mk
    | refine Keeps2.of (by assumption) ?_ | dsimp only

theorem execUartWriteCommand_keeps (h : Keeps s t) {x0 x1 x2} : KeepsNext s (execUartWriteCommand x0 x1 x2 t) := by
  unfold execUartWriteCommand
  repeat' with_reducible first
    | exact h | assumption | apply State.advance_keeps | apply State.writeReg_keeps | apply KeepsNext.next | apply Keeps.ite
    | apply Keeps2.ite | apply KeepsNext.ite | apply Keeps2.snd | split | apply Keeps2.mk
    | refine Keeps2.of (by assumption) ?_ | dsimp only

theorem execGateAction_keeps (h : Keeps s t) {x0 x1 x2 x3 x4 x5} : KeepsNext s (execGateAction x0 x1 x2 x3 x4 x5 t) := by
  unfold execGateAction
  repeat' with_reducible first
    | exact h | assumption | apply State.advance_keeps | apply State.writeReg_keeps | apply KeepsNext.next | apply Keeps.ite
    | apply Keeps2.ite | apply KeepsNext.ite | simp only [Keeps.mk_iff] | apply KeepsParts.same | apply Keeps2.snd | split
    | apply Keeps2.mk | refine Keeps2.of (by assumption) ?_ | dsimp only

theorem State.setHalt_keeps (h : Keeps s t) {x1 x2} : Keeps s (State.setHalt t x1 x2) := by
  unfold State.setHalt
  repeat' with_reducible first
    | exact h | assumption | apply Keeps.ite | simp only [Keeps.mk_iff] | apply KeepsParts.same | split | dsimp only

theorem execJtagMemoryAccess_keeps (h : Keeps s t) {x0} : KeepsNext s (execJtagMemoryAccess x0 t) := by
  unfold execJtagMemoryAccess
  repeat' with_reducible first
    | exact h | assumption | apply State.load_keeps | apply State.emit_keeps | apply State.store_keeps
    | apply State.setHalt_keeps | apply State.resume_keeps | apply KeepsNext.next | apply Keeps.ite
    | apply Keeps2.ite | apply Keeps3.ite | apply KeepsNext.ite | apply Keeps3.snd | apply Keeps2.snd | split
    | apply Keeps3.mk | refine Keeps3.of (by assumption) ?_ | apply Keeps2.mk | refine Keeps2.of (by assumption) ?_
    | dsimp only

end Sys2Proof.Machine
end

