-- ==== Sys2Proof/Laws/KeepsRein.lean ====
section
/-! SUPPORT. What the operations of Machine/Rein.lean keep (Laws/Keeps.lean). -/

namespace Sys2Proof.Machine

set_option linter.unusedTactic false
set_option linter.unreachableTactic false
set_option linter.unusedVariables false
set_option linter.unusedSimpArgs false

variable {s t u : State}

theorem State.noteLatency_keeps (h : Keeps s t) {x1} : Keeps s (State.noteLatency t x1) := by
  unfold State.noteLatency
  repeat' with_reducible first
    | exact h | assumption | apply State.setRegF_keeps | split | dsimp only

theorem State.reinFlits_keeps (h : Keeps s t) {x1 x2 x3} : Keeps s (State.reinFlits t x1 x2 x3) := by
  unfold State.reinFlits
  repeat' with_reducible first
    | exact h | assumption | apply State.bump_keeps | apply State.noteLatency_keeps | apply Keeps.ite | split
    | dsimp only

theorem State.reinArrival_keeps (h : Keeps s t) {x1} : Keeps s (State.reinArrival t x1) := by
  unfold State.reinArrival
  repeat' with_reducible first
    | exact h | assumption | apply State.reinFlits_keeps | split | dsimp only

theorem State.reinHole_keeps (h : Keeps s t) {x1 x2} : Keeps s (State.reinHole t x1 x2) := by
  unfold State.reinHole
  repeat' with_reducible first
    | exact h | assumption | apply State.raiseTo_keeps | split | dsimp only

theorem State.reinReadRegs_keeps (h : Keeps s t) {x1 x2} : Keeps2 s (State.reinReadRegs t x1 x2) := by
  induction x2 generalizing t x1 with
  | nil =>
    rw [State.reinReadRegs]
    repeat' with_reducible first
    | exact h | assumption | apply State.readReg_keeps | apply Keeps2.snd | apply Keeps3.snd | split
      | apply Keeps2.mk | apply Keeps3.mk | refine Keeps2.of (by assumption) ?_ | refine Keeps3.of (by assumption) ?_
      | dsimp only
  | cons p l ih =>
    rw [State.reinReadRegs]
    repeat' with_reducible first
    | exact h | assumption | apply ih | apply State.readReg_keeps | apply Keeps2.snd | apply Keeps3.snd | split
      | apply Keeps2.mk | apply Keeps3.mk | refine Keeps2.of (by assumption) ?_ | refine Keeps3.of (by assumption) ?_
      | dsimp only

theorem State.reinReadWindow_keeps (h : Keeps s t) {x1 x2} : Keeps2 s (State.reinReadWindow t x1 x2) := by
  unfold State.reinReadWindow
  repeat' with_reducible first
    | exact h | assumption | apply State.reinReadRegs_keeps | apply State.reinHole_keeps | apply Keeps.ite
    | apply Keeps2.ite | apply Keeps2.snd | split | apply Keeps2.mk | refine Keeps2.of (by assumption) ?_ | dsimp only

theorem State.reinReadScratch_keeps (h : Keeps s t) {x1} : Keeps2 s (State.reinReadScratch t x1) := by
  unfold State.reinReadScratch
  repeat' with_reducible first
    | exact h | assumption | apply State.load_keeps | apply State.reinHole_keeps | apply Keeps.ite | apply Keeps2.ite
    | apply Keeps3.ite | apply Keeps2.snd | apply Keeps3.snd | split | apply Keeps2.mk | apply Keeps3.mk
    | refine Keeps2.of (by assumption) ?_ | refine Keeps3.of (by assumption) ?_ | dsimp only

theorem State.reinDoRead_keeps (h : Keeps s t) {x1} : Keeps2 s (State.reinDoRead t x1) := by
  obtain ⟨f, e⟩ : ∃ f, State.reinDoRead = f := ⟨_, rfl⟩
  rw [e]
  delta State.reinDoRead at e
  subst e
  beta_reduce
  generalize windowOff (reinAddr x1) = o
  refine Keeps2.ite (Keeps2.mk (State.reinHole_keeps h)) ?_
  cases o with
  | none => exact State.reinReadScratch_keeps h
  | some off => exact State.reinReadWindow_keeps h

theorem State.reinWatch_keeps (h : Keeps s t) {x1} : Keeps s (State.reinWatch t x1) := by
  unfold State.reinWatch
  repeat' with_reducible first
    | exact h | assumption | apply State.takeWatch_keeps | apply Keeps.ite | simp only [Keeps.mk_iff]
    | apply KeepsParts.same | split | dsimp only

theorem State.reinWriteRegs_keeps (h : Keeps s t) {x1 x2 x3} : Keeps s (State.reinWriteRegs t x1 x2 x3) := by
  unfold State.reinWriteRegs
  repeat' with_reducible first
    | exact h | assumption | apply State.writeReg_keeps | refine Keeps.foldl (fun _ _ _ => ?_) ?_
    | refine Keeps2.foldl (fun _ _ _ => ?_) ?_ | apply Keeps2.snd | split | apply Keeps2.mk
    | refine Keeps2.of (by assumption) ?_ | dsimp only

theorem State.reinWriteWindow_keeps (h : Keeps s t) {x1 x2} : Keeps2 s (State.reinWriteWindow t x1 x2) := by
  unfold State.reinWriteWindow
  repeat' with_reducible first
    | exact h | assumption | apply State.reinWatch_keeps | apply State.reinHole_keeps | apply State.reinWriteRegs_keeps
    | apply Keeps.ite | apply Keeps2.ite | apply Keeps2.snd | split | apply Keeps2.mk | refine Keeps2.of (by assumption) ?_
    | dsimp only

theorem State.reinWriteScratch_keeps (h : Keeps s t) {x1} : Keeps2 s (State.reinWriteScratch t x1) := by
  unfold State.reinWriteScratch
  repeat' with_reducible first
    | exact h | assumption | apply State.store_keeps | apply State.reinHole_keeps | apply Keeps.ite | apply Keeps2.ite
    | apply Keeps2.snd | split | apply Keeps2.mk | refine Keeps2.of (by assumption) ?_ | dsimp only

theorem State.reinDoWrite_keeps (h : Keeps s t) {x1} : Keeps2 s (State.reinDoWrite t x1) := by
  obtain ⟨f, e⟩ : ∃ f, State.reinDoWrite = f := ⟨_, rfl⟩
  rw [e]
  delta State.reinDoWrite at e
  subst e
  beta_reduce
  generalize windowOff (reinAddr x1) = o
  refine Keeps2.ite (Keeps2.mk (State.reinHole_keeps h)) ?_
  cases o with
  | none => exact State.reinWriteScratch_keeps h
  | some off => exact State.reinWriteWindow_keeps h

theorem State.reinAnswer_keeps (h : Keeps s t) {x1 x2} : Keeps2 s (State.reinAnswer t x1 x2) := by
  unfold State.reinAnswer
  repeat' with_reducible first
    | exact h | assumption | apply State.reinArrival_keeps | apply State.bump_keeps | apply State.reinDoRead_keeps
    | apply State.reinDoWrite_keeps | apply Keeps.ite | apply Keeps2.ite | apply Keeps2.snd | split | apply Keeps2.mk
    | refine Keeps2.of (by assumption) ?_ | dsimp only

theorem State.reinSent_keeps (h : Keeps s t) {x1 x2 x3} : Keeps s (State.reinSent t x1 x2 x3) := by
  unfold State.reinSent
  repeat' with_reducible first
    | exact h | assumption | simp only [Keeps.mk_iff] | apply KeepsParts.same | apply KeepsParts.send | apply Keeps2.snd
    | split | apply Keeps2.mk | refine Keeps2.of (by assumption) ?_ | dsimp only

theorem State.reinSend_keeps (h : Keeps s t) {x1 x2} : Keeps s (State.reinSend t x1 x2) := by
  unfold State.reinSend
  repeat' with_reducible first
    | exact h | assumption | apply State.reinAnswer_keeps | apply State.reinSent_keeps | apply Keeps.ite
    | apply Keeps2.ite | simp only [Keeps.mk_iff] | apply KeepsParts.same | apply Keeps2.snd | split | apply Keeps2.mk
    | refine Keeps2.of (by assumption) ?_ | dsimp only

theorem execReinRead_keeps (h : Keeps s t) {x0 x1} : KeepsNext s (execReinRead x0 x1 t) := by
  unfold execReinRead
  repeat' with_reducible first
    | exact h | assumption | apply State.advance_keeps | apply State.reinSend_keeps | apply KeepsNext.next | split
    | dsimp only

theorem execReinWrite_keeps (h : Keeps s t) {x0 x1} : KeepsNext s (execReinWrite x0 x1 t) := by
  unfold execReinWrite
  repeat' with_reducible first
    | exact h | assumption | apply State.advance_keeps | apply State.reinSend_keeps | apply KeepsNext.next | split
    | dsimp only

theorem State.reinRelease_keeps (h : Keeps s t) {x1} : Keeps s (State.reinRelease t x1) := by
  induction x1 generalizing t with
  | zero =>
    unfold State.reinRelease
    exact h
  | succ n ih =>
    unfold State.reinRelease
    repeat' with_reducible first
      | exact h | assumption | apply ih | apply State.reinAnswer_keeps | apply Keeps.ite | apply Keeps2.ite
      | simp only [Keeps.mk_iff] | apply KeepsParts.same | apply Keeps2.snd | split | apply Keeps2.mk
      | refine Keeps2.of (by assumption) ?_ | dsimp only

theorem State.reinDone_keeps (h : Keeps s t) {x1} : Keeps s (State.reinDone t x1) := by
  unfold State.reinDone
  repeat' with_reducible first
    | exact h | assumption | apply State.reinRelease_keeps | simp only [Keeps.mk_iff] | apply KeepsParts.same | split
    | dsimp only

theorem State.reinResponse_keeps (h : Keeps s t) {x1 x2 x3 x4} : Keeps s (State.reinResponse t x1 x2 x3 x4) := by
  unfold State.reinResponse
  repeat' with_reducible first
    | exact h | assumption | apply State.reinDone_keeps | apply State.emit_keeps | split | dsimp only

theorem State.reinDelivered_keeps (h : Keeps s t) {x1 x2 x3 x4 x5} : Keeps s (State.reinDelivered t x1 x2 x3 x4 x5) := by
  unfold State.reinDelivered
  repeat' with_reducible first
    | exact h | assumption | apply State.reinFlits_keeps | apply State.reinResponse_keeps | apply State.bump_keeps
    | apply Keeps.ite | split | dsimp only

theorem execReinRdata_keeps (h : Keeps s t) {x0 x1 x2 x3 x4} : KeepsNext s (execReinRdata x0 x1 x2 x3 x4 t) := by
  unfold execReinRdata
  repeat' with_reducible first
    | exact h | assumption | apply State.advance_keeps | apply State.reinDelivered_keeps | apply KeepsNext.next | split
    | dsimp only

theorem execReinWack_keeps (h : Keeps s t) {x0 x1 x2 x3 x4} : KeepsNext s (execReinWack x0 x1 x2 x3 x4 t) := by
  unfold execReinWack
  repeat' with_reducible first
    | exact h | assumption | apply State.advance_keeps | apply State.reinDelivered_keeps | apply KeepsNext.next | split
    | dsimp only

theorem State.watchLost_keeps (h : Keeps s t) {x1} : Keeps s (State.watchLost t x1) := by
  unfold State.watchLost
  repeat' with_reducible first
    | exact h | assumption | apply State.answerWait_keeps | apply State.withdrawWatches_keeps | apply Keeps.ite | split
    | dsimp only

theorem State.reinLate_keeps (h : Keeps s t) {x1 x2 x3} : Keeps s (State.reinLate t x1 x2 x3) := by
  unfold State.reinLate
  repeat' with_reducible first
    | exact h | assumption | apply State.reinDone_keeps | apply State.bump_keeps | apply State.raiseTo_keeps
    | apply State.watchLost_keeps | apply State.emit_keeps | apply Keeps.ite | split | dsimp only

theorem execReinTimeout_keeps (h : Keeps s t) {x0 x1 x2 x3} : KeepsNext s (execReinTimeout x0 x1 x2 x3 t) := by
  unfold execReinTimeout
  repeat' with_reducible first
    | exact h | assumption | apply State.reinLate_keeps | apply State.advance_keeps | apply KeepsNext.next | split
    | dsimp only

theorem State.bcastCopy_keeps (h : Keeps s t) {x1 x2 x3 x4} : Keeps s (State.bcastCopy t x1 x2 x3 x4) := by
  unfold State.bcastCopy
  repeat' with_reducible first
    | exact h | assumption | apply State.bump_keeps | apply State.poke_keeps | apply Keeps.ite | split | dsimp only

theorem execReinBcast_keeps (h : Keeps s t) {x0 x1 x2} : KeepsNext s (execReinBcast x0 x1 x2 t) := by
  unfold execReinBcast
  repeat' with_reducible first
    | exact h | assumption | apply State.reinArrival_keeps | apply State.advance_keeps | apply State.bump_keeps
    | apply State.bcastCopy_keeps | apply KeepsNext.next | refine Keeps.foldl (fun _ _ _ => ?_) ?_ | apply Keeps.ite
    | apply KeepsNext.ite | split | dsimp only

end Sys2Proof.Machine
end

