-- ==== Sys2Proof/Laws/KeepsSync.lean ====
section
/-! SUPPORT. What the operations of Machine/Sync.lean keep (Laws/Keeps.lean). -/

namespace Sys2Proof.Machine

set_option linter.unusedTactic false
set_option linter.unreachableTactic false
set_option linter.unusedVariables false
set_option linter.unusedSimpArgs false

variable {s t u : State}

theorem State.setSync_keeps (h : Keeps s t) {x1} : Keeps s (State.setSync t x1) := by
  unfold State.setSync
  repeat' with_reducible first
    | exact h | assumption | simp only [Keeps.mk_iff] | apply KeepsParts.same | split | dsimp only

theorem State.logSync_keeps (h : Keeps s t) {x1} : Keeps s (State.logSync t x1) := by
  unfold State.logSync
  repeat' with_reducible first
    | exact h | assumption | apply State.logFault_keeps | split | dsimp only

theorem State.resync_keeps (h : Keeps s t) {x1} : Keeps s (State.resync t x1) := by
  unfold State.resync
  repeat' with_reducible first
    | exact h | assumption | apply State.setSync_keeps | apply State.logSync_keeps | apply Keeps.ite
    | apply KeepsNext.ite | simp only [Keeps.mk_iff] | apply KeepsParts.same | split | dsimp only

theorem State.judgeOffset_keeps (h : Keeps s t) {x1 x2} : Keeps s (State.judgeOffset t x1 x2) := by
  unfold State.judgeOffset
  repeat' with_reducible first
    | exact h | assumption | apply State.setSync_keeps | apply State.resync_keeps
    | apply State.logSync_keeps | apply Keeps.ite | apply KeepsNext.ite | simp only [Keeps.mk_iff]
    | apply KeepsParts.same | split | dsimp only

theorem State.newMaster_keeps (h : Keeps s t) {x1} : Keeps s (State.newMaster t x1) := by
  unfold State.newMaster
  repeat' with_reducible first
    | exact h | assumption | apply State.setSync_keeps | split | dsimp only

theorem State.masterBeacon_keeps (h : Keeps s t) {x1 x2 x3} : Keeps s (State.masterBeacon t x1 x2 x3) := by
  unfold State.masterBeacon
  repeat' with_reducible first
    | exact h | assumption | apply State.setSync_keeps | apply State.judgeOffset_keeps | apply Keeps.ite | apply Keeps2.ite
    | apply Keeps2.snd | split | apply Keeps2.mk | refine Keeps2.of (by assumption) ?_ | dsimp only

theorem State.resyncBlind_keeps (h : Keeps s t) : Keeps s (State.resyncBlind t) := by
  unfold State.resyncBlind
  repeat' with_reducible first
    | exact h | assumption | apply State.setSync_keeps | apply State.resync_keeps | apply State.logSync_keeps
    | apply Keeps.ite | simp only [Keeps.mk_iff] | apply KeepsParts.same | split | dsimp only

theorem State.beaconAlone_keeps (h : Keeps s t) {x1 x2 x3 x4} : Keeps s (State.beaconAlone t x1 x2 x3 x4) := by
  unfold State.beaconAlone
  repeat' with_reducible first
    | exact h | assumption | apply State.setSync_keeps | apply State.newMaster_keeps | apply State.resyncBlind_keeps
    | apply State.masterBeacon_keeps | apply Keeps.ite | apply Keeps2.ite | apply Keeps2.snd | split | apply Keeps2.mk
    | refine Keeps2.of (by assumption) ?_ | dsimp only

theorem State.takeBeacon_keeps (h : Keeps s t) {x1 x2 x3 x4 x5} : Keeps s (State.takeBeacon t x1 x2 x3 x4 x5) := by
  unfold State.takeBeacon
  repeat' with_reducible first
    | exact h | assumption | apply State.beaconAlone_keeps | apply State.newMaster_keeps | apply State.setSync_keeps
    | apply State.masterBeacon_keeps | apply Keeps.ite | apply Keeps2.ite | apply Keeps2.snd | split | apply Keeps2.mk
    | refine Keeps2.of (by assumption) ?_ | dsimp only

theorem State.heardOn_keeps (h : Keeps s t) {x1 x2} : Keeps s (State.heardOn t x1 x2) := by
  unfold State.heardOn
  repeat' with_reducible first
    | exact h | assumption | apply State.setStrand_keeps | split | dsimp only

theorem State.hearBeacon_keeps (h : Keeps s t) {x1 x2 x3 x4 x5} : Keeps s (State.hearBeacon t x1 x2 x3 x4 x5) := by
  unfold State.hearBeacon
  repeat' with_reducible first
    | exact h | assumption | apply State.heardOn_keeps | apply State.setSync_keeps | apply State.takeBeacon_keeps
    | simp only [Keeps.mk_iff] | apply KeepsParts.same | split | dsimp only

theorem execBeaconReceived_keeps (h : Keeps s t) {x0 x1 x2 x3 x4 x5 x6} : KeepsNext s (execBeaconReceived x0 x1 x2 x3 x4 x5 x6 t) := by
  unfold execBeaconReceived
  repeat' with_reducible first
    | exact h | assumption | apply State.hearBeacon_keeps | apply KeepsNext.next | apply Keeps.ite | apply KeepsNext.ite
    | split | dsimp only

theorem State.enterHoldover_keeps (h : Keeps s t) : Keeps s (State.enterHoldover t) := by
  unfold State.enterHoldover
  repeat' with_reducible first
    | exact h | assumption | apply State.setSync_keeps | apply State.logSync_keeps
    | simp only [Keeps.mk_iff] | apply KeepsParts.same | split | dsimp only

theorem execMasterLostTimeout_keeps (h : Keeps s t) : KeepsNext s (execMasterLostTimeout t) := by
  unfold execMasterLostTimeout
  repeat' with_reducible first
    | exact h | assumption | apply State.resync_keeps | apply State.enterHoldover_keeps | apply KeepsNext.next
    | apply Keeps.ite | apply KeepsNext.ite | split | dsimp only

theorem State.syncState_keeps (h : Keeps s t) : Keeps s (State.syncState t) := by
  unfold State.syncState
  repeat' with_reducible first
    | exact h | assumption | apply State.setSync_keeps | apply State.enterHoldover_keeps
    | apply State.newMaster_keeps | apply Keeps.ite | apply KeepsNext.ite | simp only [Keeps.mk_iff]
    | apply KeepsParts.same | split | dsimp only

theorem State.syncBoundary_keeps (h : Keeps s t) : Keeps s (State.syncBoundary t) := by
  unfold State.syncBoundary
  repeat' with_reducible first
    | exact h | assumption | apply State.setSync_keeps | apply State.syncState_keeps | apply Keeps.ite | split | dsimp only

theorem State.sendBeacon_keeps (h : Keeps s t) : Keeps s (State.sendBeacon t) := by
  unfold State.sendBeacon
  repeat' with_reducible first
    | exact h | assumption | apply State.teamFrames_keeps | split | dsimp only

theorem State.noteRebase_keeps (h : Keeps s t) : Keeps s (State.noteRebase t) := by
  unfold State.noteRebase
  repeat' with_reducible first
    | exact h | assumption | apply State.setRegF_keeps | apply State.logFault_keeps | split | dsimp only

/-- The length of a step stride is within the bounds of R50. -/
theorem stepLength_bounds (o : Int) : 512 ≤ stepLength o ∧ stepLength o ≤ 1535 := by
  unfold stepLength
  omega

theorem State.tick_passes (h : Passes s t) : Passes s t.tick := by
  refine Passes.setClk h rfl rfl ?_ rfl rfl rfl
  have := stepLength_bounds t.sync.offset
  unfold State.tick Clock.sound
  simp only
  split <;> omega

end Sys2Proof.Machine
end

