-- ==== Sys2Proof/Laws/KeepsStride.lean ====
section
/-! SUPPORT. What the operations of Machine/Stride.lean keep (Laws/Keeps.lean). -/

namespace Sys2Proof.Machine

set_option linter.unusedTactic false
set_option linter.unreachableTactic false
set_option linter.unusedVariables false
set_option linter.unusedSimpArgs false

variable {s t u : State}

theorem State.resumeLane_keeps (h : Keeps s t) {x1 x2} : Keeps s (State.resumeLane t x1 x2) := by
  unfold State.resumeLane
  repeat' with_reducible first
    | exact h | assumption | apply State.setLane_keeps | apply State.pumpStrand_keeps | split | dsimp only

theorem State.comeLive_keeps (h : Keeps s t) {x1 x2 x3} : Keeps s (State.comeLive t x1 x2 x3) := by
  unfold State.comeLive
  repeat' with_reducible first
    | exact h | assumption | apply State.setLive_keeps | split | dsimp only

theorem State.planeIn_keeps (h : Keeps s t) {x1} : Keeps s (State.planeIn t x1) := by
  unfold State.planeIn
  repeat' with_reducible first
    | exact h | assumption | apply State.startIf_keeps | apply Keeps.ite | split | dsimp only

theorem State.awaitMates_keeps (h : Keeps s t) {x1 x2 x3} : Keeps s (State.awaitMates t x1 x2 x3) := by
  unfold State.awaitMates
  repeat' with_reducible first
    | exact h | assumption | apply State.setDie_keeps | apply State.zeroise_keeps | apply State.setUnit_keeps
    | simp only [Keeps.mk_iff] | apply KeepsParts.same | apply KeepsParts.send | split | dsimp only

theorem State.resetReckoners_keeps (h : Keeps s t) {x1 x2} : Keeps s (State.resetReckoners t x1 x2) := by
  unfold State.resetReckoners
  repeat' with_reducible first
    | exact h | assumption | apply State.stop_keeps | apply State.resetReckoner_keeps | apply State.zeroise_keeps
    | apply State.setDie_keeps | apply State.awaitMates_keeps | apply Keeps.ite | simp only [Keeps.mk_iff]
    | apply KeepsParts.same | apply KeepsParts.send | refine Keeps.foldl (fun _ _ _ => ?_) ?_ | split | intro _
    | dsimp only

theorem State.applyEffect_keeps (h : Keeps s t) {x1} : Keeps s (State.applyEffect t x1) := by
  unfold State.applyEffect
  repeat' with_reducible first
    | exact h | assumption | apply State.unitEnabled_keeps | apply State.unitDisabled_keeps
    | apply State.unitReset_keeps | apply State.unitFailed_keeps | apply State.comeLive_keeps
    | apply State.faultRing_keeps | apply State.queueEnabled_keeps | apply State.queueResumed_keeps
    | apply State.counterInit_keeps | apply State.counterFree_keeps | apply State.counterSet_keeps
    | apply State.revokeJob_keeps | apply State.keyBind_keeps | apply State.keyBound_keeps
    | apply State.levelGrant_keeps | apply State.zeroise_keeps | apply State.powerTarget_keeps
    | apply State.groomSwitch_keeps | apply State.resetReckoners_keeps | apply State.farrierReset_keeps
    | apply State.eduSwitchSets_keeps | apply State.applyIngress_keeps | apply State.laneDown_keeps
    | apply State.resumeLane_keeps | apply State.withdrawPlane_keeps | apply State.planeIn_keeps
    | apply State.swapLane_keeps | apply State.uplinkTxEnable_keeps | apply State.uplinkRxEnable_keeps | apply Keeps.ite
    | split | dsimp only

theorem State.applyCounters_keeps (h : Keeps s t) : Keeps s (State.applyCounters t) := by
  unfold State.applyCounters
  repeat' with_reducible first
    | exact h | assumption | apply State.applyEffect_keeps | simp only [Keeps.mk_iff] | apply KeepsParts.same
    | refine Keeps.foldl (fun _ _ _ => ?_) ?_ | split | dsimp only

theorem State.applyDue_keeps (h : Keeps s t) : Keeps s (State.applyDue t) := by
  unfold State.applyDue
  repeat' with_reducible first
    | exact h | assumption | apply State.applyEffect_keeps | refine Keeps.foldl (fun _ _ _ => ?_) ?_
    | refine Keeps2.foldl (fun _ _ _ => ?_) ?_ | simp only [Keeps.mk_iff] | apply KeepsParts.same | apply Keeps2.snd | split
    | apply Keeps2.mk | refine Keeps2.of (by assumption) ?_ | dsimp only

theorem State.withdrawLost_keeps (h : Keeps s t) : Keeps s (State.withdrawLost t) := by
  unfold State.withdrawLost
  repeat' with_reducible first
    | exact h | assumption | apply State.withdrawPlane_keeps | refine Keeps.foldl (fun _ _ _ => ?_) ?_ | split
    | dsimp only

theorem State.holdLimit_keeps (h : Keeps s t) : Keeps s (State.holdLimit t) := by
  unfold State.holdLimit
  repeat' with_reducible first
    | exact h | assumption | apply State.moduleFatal_keeps | apply Keeps.ite | split | dsimp only

theorem State.memoryLimit_keeps (h : Keeps s t) {x1} : Keeps s (State.memoryLimit t x1) := by
  unfold State.memoryLimit
  repeat' with_reducible first
    | exact h | assumption | apply State.moduleFatal_keeps | apply Keeps.ite | split | dsimp only

theorem State.memoryStep_keeps (h : Keeps s t) : Keeps s (State.memoryStep t) := by
  unfold State.memoryStep
  repeat' with_reducible first
    | exact h | assumption | apply State.memoryLimit_keeps | apply State.memoryBoundary_keeps | split | dsimp only

theorem State.queuesBoundary_keeps (h : Keeps s t) : Keeps s (State.queuesBoundary t) := by
  unfold State.queuesBoundary
  repeat' with_reducible first
    | exact h | assumption | apply State.queueBoundary_keeps | refine Keeps.foldl (fun _ _ _ => ?_) ?_
    | refine Keeps2.foldl (fun _ _ _ => ?_) ?_ | apply Keeps2.snd | split | apply Keeps2.mk
    | refine Keeps2.of (by assumption) ?_ | dsimp only

theorem State.endStride_passes (h : Passes s t) : Passes s (State.endStride t) := by
  unfold State.endStride
  have k := State.tick_passes (h.step (State.noteRebase_keeps (State.syncBoundary_keeps (State.endDescriptors_keeps
    (State.landHitch_keeps (Keeps.refl t))))))
  exact k.step (State.thermalBoundary_keeps (State.applyCounters_keeps (State.applyOrphans_keeps (Keeps.refl _))))

theorem State.unitsStep_keeps (h : Keeps s t) : Keeps s (State.unitsStep t) := by
  unfold State.unitsStep
  repeat' with_reducible first
    | exact h | assumption | apply State.unitsBoundary_keeps | apply State.withdrawLost_keeps
    | apply State.applyDue_keeps | split | dsimp only

theorem State.clocksStep_keeps (h : Keeps s t) : Keeps s (State.clocksStep t) := by
  unfold State.clocksStep
  repeat' with_reducible first
    | exact h | assumption | apply State.splitDie_keeps | apply State.applyGaits_keeps | apply State.meterBoundary_keeps
    | refine Keeps.foldl (fun _ _ _ => ?_) ?_ | split | intro _ | dsimp only

theorem State.photonicsStep_keeps (h : Keeps s t) : Keeps s (State.photonicsStep t) := by
  unfold State.photonicsStep
  repeat' with_reducible first
    | exact h | assumption | apply State.photonicBoundary_keeps | apply State.holdLimit_keeps
    | apply State.stableBoundary_keeps | apply State.calBoundary_keeps | apply State.planeRetries_keeps
    | apply State.laserBoundary_keeps | split | dsimp only

theorem State.routingStep_keeps (h : Keeps s t) {x1} : Keeps s (State.routingStep t x1) := by
  unfold State.routingStep
  repeat' with_reducible first
    | exact h | assumption | apply State.bridleBoundary_keeps | apply State.linkSwitch_keeps
    | apply State.routingSwitch_keeps | apply State.fabricBoundary_keeps | apply State.sendBeacon_keeps
    | apply State.sendRouteAdv_keeps | apply State.pumpStrands_keeps | apply State.fabPump_keeps
    | apply State.uplinkBoundary_keeps | split | dsimp only

theorem State.serveStep_keeps (h : Keeps s t) : Keeps s (State.serveStep t) := by
  unfold State.serveStep
  repeat' with_reducible first
    | exact h | assumption | apply State.linkBoundary_keeps | apply State.endVerdicts_keeps
    | apply State.eduBoundary_keeps | apply State.queuesBoundary_keeps | split | dsimp only

theorem State.showStep_keeps (h : Keeps s t) {x1 x2} : Keeps s (State.showStep t x1 x2) := by
  unfold State.showStep
  repeat' with_reducible first
    | exact h | assumption | apply State.groomBoundary_keeps | apply State.updateGrade_keeps
    | apply State.snapBoundary_keeps | apply State.sendRack_keeps | split | dsimp only

theorem State.boundary_keeps : Keeps t.endStride (State.boundary t) := by
  unfold State.boundary
  have h := Keeps.refl t.endStride
  generalize t.endStride = v at h ⊢
  repeat' with_reducible first
    | exact h | assumption
    | apply State.memoryStep_keeps | apply State.unitsStep_keeps
    | apply State.clocksStep_keeps | apply State.photonicsStep_keeps
    | apply State.showStep_keeps | apply State.serveStep_keeps | apply State.routingStep_keeps | split | dsimp only

theorem State.boundary_passes (h : Passes s t) : Passes s (State.boundary t) :=
  (State.endStride_passes h).step State.boundary_keeps

theorem execStrideBoundary_passes (h : Passes s t) : PassesNext s (execStrideBoundary t) := by
  unfold execStrideBoundary
  repeat' with_reducible first
    | exact h | dsimp only | apply State.boundary_passes | apply PassesNext.next | apply Passes.ite
    | refine Passes.step ?_ (Keeps.foldl (fun _ _ _ => ?_) (Keeps.refl _)) | assumption | split

end Sys2Proof.Machine
end

