-- ==== Sys2Proof/Laws/KeepsSupplies.lean ====
section
/-! SUPPORT. What the operations of Machine/Supplies.lean keep (Laws/Keeps.lean). -/

namespace Sys2Proof.Machine

set_option linter.unusedTactic false
set_option linter.unreachableTactic false
set_option linter.unusedVariables false
set_option linter.unusedSimpArgs false

variable {s t u : State}

theorem State.setLink_keeps (h : Keeps s t) {x1} : Keeps s (State.setLink t x1) := by
  unfold State.setLink
  repeat' with_reducible first
    | exact h | assumption | apply State.setReg_keeps | split | dsimp only

theorem State.supplyLost_keeps (h : Keeps s t) : Keeps s (State.supplyLost t) := by
  unfold State.supplyLost
  repeat' with_reducible first
    | exact h | assumption | apply State.moduleFatal_keeps | apply Keeps.ite | simp only [Keeps.mk_iff]
    | apply KeepsParts.same | split | dsimp only

theorem execVin48Loss_keeps (h : Keeps s t) : KeepsNext s (execVin48Loss t) := by
  unfold execVin48Loss
  repeat' with_reducible first
    | exact h | assumption | apply State.supplyLost_keeps | apply KeepsNext.next | simp only [Keeps.mk_iff]
    | apply KeepsParts.same | split | dsimp only

theorem execAnalogRailLoss_keeps (h : Keeps s t) {x0} : KeepsNext s (execAnalogRailLoss x0 t) := by
  unfold execAnalogRailLoss
  repeat' with_reducible first
    | exact h | assumption | apply State.setLink_keeps | apply State.supplyLost_keeps | apply KeepsNext.next
    | apply Keeps.ite | apply KeepsNext.ite | simp only [Keeps.mk_iff] | apply KeepsParts.same | split | dsimp only

theorem State.cartUnfed_keeps (h : Keeps s t) {x1} : Keeps s (State.cartUnfed t x1) := by
  unfold State.cartUnfed
  repeat' with_reducible first
    | exact h | assumption | apply State.suddenLoss_keeps | apply State.setCart_keeps | split | dsimp only

theorem execVlas12Loss_keeps (h : Keeps s t) : KeepsNext s (execVlas12Loss t) := by
  unfold execVlas12Loss
  repeat' with_reducible first
    | exact h | assumption | apply State.setUnit_keeps | apply State.cartUnfed_keeps | apply KeepsNext.next
    | refine Keeps.foldl (fun _ _ _ => ?_) ?_ | simp only [Keeps.mk_iff] | apply KeepsParts.same | split | dsimp only

theorem execVlas12Return_keeps (h : Keeps s t) : KeepsNext s (execVlas12Return t) := by
  unfold execVlas12Return
  repeat' with_reducible first
    | exact h | assumption | apply State.scheduleNext_keeps | apply KeepsNext.next | refine Keeps.foldl (fun _ _ _ => ?_) ?_
    | apply Keeps.ite | apply KeepsNext.ite | simp only [Keeps.mk_iff] | apply KeepsParts.same | split | dsimp only

theorem execVstbyLoss_keeps (h : Keeps s t) : KeepsNext s (execVstbyLoss t) := by
  unfold execVstbyLoss
  refine KeepsNext.next (State.setLink_keeps ?_)
  have k := State.unitsOff_keeps h
  refine ⟨k.pending, k.out, k.clk, fun w => ?_, k.mem, k.rollback⟩
  obtain ⟨a, -⟩ := k.flt w
  exact ⟨a, Nat.zero_le _⟩

theorem execVstbyReturn_keeps (h : Keeps s t) : KeepsNext s (execVstbyReturn t) := by
  unfold execVstbyReturn
  repeat' with_reducible first
    | exact h | assumption | apply KeepsNext.next | apply Keeps.ite | apply KeepsNext.ite | simp only [Keeps.mk_iff]
    | apply KeepsParts.same | split | dsimp only

theorem execModResetAssert_keeps (h : Keeps s t) : KeepsNext s (execModResetAssert t) := by
  unfold execModResetAssert
  repeat' with_reducible first
    | exact h | assumption | apply State.unitsOff_keeps | apply KeepsNext.next | simp only [Keeps.mk_iff]
    | apply KeepsParts.same | apply Keeps2.snd | split | apply Keeps2.mk | refine Keeps2.of (by assumption) ?_ | dsimp only

end Sys2Proof.Machine
end

