-- ==== Sys2Proof/Laws/KeepsTensor.lean ====
section
/-! SUPPORT. What the operations of Machine/Tensor.lean keep (Laws/Keeps.lean). -/

namespace Sys2Proof.Machine

set_option linter.unusedTactic false
set_option linter.unreachableTactic false
set_option linter.unusedVariables false
set_option linter.unusedSimpArgs false

variable {s t u : State}

theorem State.loadB_keeps (h : Keeps s t) {x1 x2 x3} : Keeps3 s (State.loadB t x1 x2 x3) := by
  unfold State.loadB
  repeat' with_reducible first
    | exact h | assumption | apply State.load_keeps | apply State.loadMany_keeps | apply Keeps.ite | apply Keeps2.ite
    | apply Keeps3.ite | apply Keeps2.snd | apply Keeps3.snd | split | apply Keeps2.mk | apply Keeps3.mk
    | refine Keeps2.of (by assumption) ?_ | refine Keeps3.of (by assumption) ?_ | dsimp only

theorem execMatmul_keeps (h : Keeps s t) {x0} : KeepsNext s (execMatmul x0 t) := by
  unfold execMatmul
  repeat' with_reducible first
    | exact h | assumption | apply State.loadMany_keeps | apply State.loadB_keeps | apply State.storeMany_keeps
    | apply State.complete_keeps | apply KeepsNext.next | refine Keeps.foldl (fun _ _ _ => ?_) ?_
    | refine Keeps2.foldl (fun _ _ _ => ?_) ?_ | refine Keeps3.foldl (fun _ _ _ => ?_) ?_ | apply Keeps.ite
    | apply Keeps2.ite | apply Keeps3.ite | apply KeepsNext.ite | apply Keeps2.snd | apply Keeps3.snd | split
    | apply Keeps2.mk | apply Keeps3.mk | refine Keeps2.of (by assumption) ?_ | refine Keeps3.of (by assumption) ?_
    | dsimp only

end Sys2Proof.Machine
end

