-- ==== Sys2Proof/Laws/KeepsVectorUnit.lean ====
section
/-! SUPPORT. What the operations of Machine/VectorUnit.lean keep (Laws/Keeps.lean). -/

namespace Sys2Proof.Machine

set_option linter.unusedTactic false
set_option linter.unreachableTactic false
set_option linter.unusedVariables false
set_option linter.unusedSimpArgs false

variable {s t u : State}

theorem State.vectorSource_keeps (h : Keeps s t) {x1 x2 x3 x4} : Keeps3 s (State.vectorSource t x1 x2 x3 x4) := by
  unfold State.vectorSource
  repeat' with_reducible first
    | exact h | assumption | apply State.loadValues_keeps | apply Keeps.ite | apply Keeps2.ite | apply Keeps3.ite
    | apply Keeps2.snd | apply Keeps3.snd | split | apply Keeps2.mk | apply Keeps3.mk | refine Keeps2.of (by assumption) ?_
    | refine Keeps3.of (by assumption) ?_ | dsimp only

theorem State.vectorStep_keeps (h : Keeps s t) {x1 x2 x3} : Keeps s (State.vectorStep t x1 x2 x3) := by
  unfold State.vectorStep
  repeat' with_reducible first
    | exact h | assumption | apply State.vectorSource_keeps | apply State.storeResults_keeps | apply State.complete_keeps
    | apply Keeps.ite | apply Keeps2.ite | apply Keeps3.ite | apply Keeps2.snd | apply Keeps3.snd | split | apply Keeps2.mk
    | apply Keeps3.mk | refine Keeps2.of (by assumption) ?_ | refine Keeps3.of (by assumption) ?_ | dsimp only

theorem execVectorConvert_keeps (h : Keeps s t) {x0} : KeepsNext s (execVectorConvert x0 t) := by
  unfold execVectorConvert
  repeat' with_reducible first
    | exact h | assumption | apply State.vectorStep_keeps | apply KeepsNext.next | split | dsimp only

theorem execVectorAdd_keeps (h : Keeps s t) {x0} : KeepsNext s (execVectorAdd x0 t) := by
  unfold execVectorAdd
  repeat' with_reducible first
    | exact h | assumption | apply State.vectorStep_keeps | apply KeepsNext.next | split | dsimp only

theorem execVectorMul_keeps (h : Keeps s t) {x0} : KeepsNext s (execVectorMul x0 t) := by
  unfold execVectorMul
  repeat' with_reducible first
    | exact h | assumption | apply State.vectorStep_keeps | apply KeepsNext.next | split | dsimp only

theorem execVectorFma_keeps (h : Keeps s t) {x0} : KeepsNext s (execVectorFma x0 t) := by
  unfold execVectorFma
  repeat' with_reducible first
    | exact h | assumption | apply State.vectorStep_keeps | apply KeepsNext.next | split | dsimp only

theorem execVectorMax_keeps (h : Keeps s t) {x0} : KeepsNext s (execVectorMax x0 t) := by
  unfold execVectorMax
  repeat' with_reducible first
    | exact h | assumption | apply State.vectorStep_keeps | apply KeepsNext.next | split | dsimp only

theorem execVectorMin_keeps (h : Keeps s t) {x0} : KeepsNext s (execVectorMin x0 t) := by
  unfold execVectorMin
  repeat' with_reducible first
    | exact h | assumption | apply State.vectorStep_keeps | apply KeepsNext.next | split | dsimp only

theorem execVectorExp_keeps (h : Keeps s t) {x0} : KeepsNext s (execVectorExp x0 t) := by
  unfold execVectorExp
  repeat' with_reducible first
    | exact h | assumption | apply State.vectorStep_keeps | apply KeepsNext.next | split | dsimp only

theorem execVectorRecip_keeps (h : Keeps s t) {x0} : KeepsNext s (execVectorRecip x0 t) := by
  unfold execVectorRecip
  repeat' with_reducible first
    | exact h | assumption | apply State.vectorStep_keeps | apply KeepsNext.next | split | dsimp only

theorem execVectorRsqrt_keeps (h : Keeps s t) {x0} : KeepsNext s (execVectorRsqrt x0 t) := by
  unfold execVectorRsqrt
  repeat' with_reducible first
    | exact h | assumption | apply State.vectorStep_keeps | apply KeepsNext.next | split | dsimp only

theorem execVectorSilu_keeps (h : Keeps s t) {x0} : KeepsNext s (execVectorSilu x0 t) := by
  unfold execVectorSilu
  repeat' with_reducible first
    | exact h | assumption | apply State.vectorStep_keeps | apply KeepsNext.next | split | dsimp only

theorem execVectorSumRow_keeps (h : Keeps s t) {x0} : KeepsNext s (execVectorSumRow x0 t) := by
  unfold execVectorSumRow
  repeat' with_reducible first
    | exact h | assumption | apply State.vectorStep_keeps | apply KeepsNext.next | split | dsimp only

theorem execVectorMaxRow_keeps (h : Keeps s t) {x0} : KeepsNext s (execVectorMaxRow x0 t) := by
  unfold execVectorMaxRow
  repeat' with_reducible first
    | exact h | assumption | apply State.vectorStep_keeps | apply KeepsNext.next | split | dsimp only

theorem execVectorTopkRow_keeps (h : Keeps s t) {x0} : KeepsNext s (execVectorTopkRow x0 t) := by
  unfold execVectorTopkRow
  repeat' with_reducible first
    | exact h | assumption | apply State.vectorSource_keeps | apply State.store_keeps | apply State.complete_keeps
    | apply KeepsNext.next | refine Keeps.foldl (fun _ _ _ => ?_) ?_ | refine Keeps2.foldl (fun _ _ _ => ?_) ?_
    | refine Keeps3.foldl (fun _ _ _ => ?_) ?_ | apply Keeps.ite | apply Keeps2.ite | apply Keeps3.ite | apply KeepsNext.ite
    | apply Keeps2.snd | apply Keeps3.snd | split | apply Keeps2.mk | apply Keeps3.mk | refine Keeps2.of (by assumption) ?_
    | refine Keeps3.of (by assumption) ?_ | dsimp only

end Sys2Proof.Machine
end

