-- ==== Sys2Proof/Laws/KeepsDispatch.lean ====
section
/-! SUPPORT. What the operations of Machine/Dispatch.lean keep (Laws/Keeps.lean). -/

namespace Sys2Proof.Machine

set_option linter.unusedTactic false
set_option linter.unreachableTactic false
set_option linter.unusedVariables false
set_option linter.unusedSimpArgs false

variable {s t u : State}

/-- Every command but a boundary and a module start stays within its stride. -/
theorem exec_keeps {c : Instr} (hb : c ≠ .strideBoundary) (hm : ∀ r, c ≠ .moduleStart r) : KeepsNext s (exec c s) := by
  unfold exec
  split
  all_goals with_reducible first
    | exact absurd rfl hb | exact absurd rfl (hm _) | exact execMatmul_keeps (Keeps.refl _)
    | exact execStbPageRequest_keeps (Keeps.refl _) | exact execAppendReport_keeps (Keeps.refl _)
    | exact execStbCommandTailWrite_keeps (Keeps.refl _) | exact execAdmit_keeps (Keeps.refl _)
    | exact execPrefixLookupComplete_keeps (Keeps.refl _) | exact execRelease_keeps (Keeps.refl _)
    | exact execStallDrainComplete_keeps (Keeps.refl _) | exact execCommit_keeps (Keeps.refl _)
    | exact execSpecPut_keeps (Keeps.refl _) | exact execRollback_keeps (Keeps.refl _) | exact execPark_keeps (Keeps.refl _)
    | exact execEvict_keeps (Keeps.refl _) | exact execStallEvictionComplete_keeps (Keeps.refl _)
    | exact execHostReadTimeout_keeps (Keeps.refl _) | exact execUnpark_keeps (Keeps.refl _)
    | exact execStallRecallComplete_keeps (Keeps.refl _) | exact execFork_keeps (Keeps.refl _)
    | exact execRebuild_keeps (Keeps.refl _) | exact execQuery_keeps (Keeps.refl _) | exact execSet_keeps (Keeps.refl _)
    | exact execPublish_keeps (Keeps.refl _) | exact execWorkPlanPublish_keeps (Keeps.refl _)
    | exact execAttend_keeps (Keeps.refl _) | exact execTallyPatrol_keeps (Keeps.refl _)
    | exact execPatrolScrub_keeps (Keeps.refl _) | exact execRefreshManagement_keeps (Keeps.refl _)
    | exact execRetrainStart_keeps (Keeps.refl _) | exact execTrainingBurst_keeps (Keeps.refl _)
    | exact execTrainingBurstComplete_keeps (Keeps.refl _) | exact execRowRepair_keeps (Keeps.refl _)
    | exact execStackLost_keeps (Keeps.refl _) | exact execFoldFillComplete_keeps (Keeps.refl _)
    | exact execStackEvacuationComplete_keeps (Keeps.refl _) | exact execHistoryWaitTimeout_keeps (Keeps.refl _)
    | exact execCalibrationReevaluate_keeps (Keeps.refl _) | exact execBlink_keeps (Keeps.refl _)
    | exact execBlinkersRequestStart_keeps (Keeps.refl _) | exact execBlinkersListComplete_keeps (Keeps.refl _)
    | exact execBlinkersLeaveNormal_keeps (Keeps.refl _) | exact execBlinkersDriftCheck_keeps (Keeps.refl _)
    | exact execBlinkersRecalComplete_keeps (Keeps.refl _) | exact execLockLoopUpdate_keeps (Keeps.refl _)
    | exact execLockReacquireTimeout_keeps (Keeps.refl _) | exact execRingAcquired_keeps (Keeps.refl _)
    | exact execRingSweepComplete_keeps (Keeps.refl _) | exact execLineBeaconCheck_keeps (Keeps.refl _)
    | exact execAllocatorCycle_keeps (Keeps.refl _) | exact execLinkIdle_keeps (Keeps.refl _)
    | exact execLinkAck_keeps (Keeps.refl _) | exact execLinkNak_keeps (Keeps.refl _)
    | exact execLinkSlotLost_keeps (Keeps.refl _) | exact execLinkCredit_keeps (Keeps.refl _)
    | exact execDraughtPacketReceive_keeps (Keeps.refl _) | exact execDraughtGapNak_keeps (Keeps.refl _)
    | exact execDraughtReplayTimeout_keeps (Keeps.refl _) | exact execDraughtRequestTimeout_keeps (Keeps.refl _)
    | exact execBridleLinkFrame_keeps (Keeps.refl _) | exact execLaneDrop_keeps (Keeps.refl _)
    | exact execLaneResume_keeps (Keeps.refl _) | exact execLaneSuspendTimeout_keeps (Keeps.refl _)
    | exact execBeaconLossTimeout_keeps (Keeps.refl _) | exact execIdentFrame_keeps (Keeps.refl _)
    | exact execLaneTrainingComplete_keeps (Keeps.refl _) | exact execLaneTrainingTimeout_keeps (Keeps.refl _)
    | exact execLaneTrainingRetry_keeps (Keeps.refl _) | exact execLaneRetrain_keeps (Keeps.refl _)
    | exact execCodewordReceive_keeps (Keeps.refl _) | exact execCodewordGapNak_keeps (Keeps.refl _)
    | exact execCodewordRetxTimeout_keeps (Keeps.refl _) | exact execLinkCounterExhaust_keeps (Keeps.refl _)
    | exact execDescriptorFetch_keeps (Keeps.refl _) | exact execDescriptorStart_keeps (Keeps.refl _)
    | exact execDescriptorOverrun_keeps (Keeps.refl _) | exact execDescriptorRetire_keeps (Keeps.refl _)
    | exact execQueueTailWrite_keeps (Keeps.refl _) | exact execQueueResumeRetry_keeps (Keeps.refl _)
    | exact execQueueResumeSkip_keeps (Keeps.refl _) | exact execSignal_keeps (Keeps.refl _)
    | exact execWait_keeps (Keeps.refl _) | exact execWaitTimeout_keeps (Keeps.refl _)
    | exact execBranch_keeps (Keeps.refl _) | exact execLoop_keeps (Keeps.refl _)
    | exact execFabricRequestIssue_keeps (Keeps.refl _) | exact execFabricResp_keeps (Keeps.refl _)
    | exact execFabricLoad_keeps (Keeps.refl _) | exact execFabricStore_keeps (Keeps.refl _)
    | exact execFabricFlagStore_keeps (Keeps.refl _) | exact execFlagStoreRelease_keeps (Keeps.refl _)
    | exact execFlagStoreExpired_keeps (Keeps.refl _) | exact execFlagEntryIdleFree_keeps (Keeps.refl _)
    | exact execAtomicResultExpiry_keeps (Keeps.refl _) | exact execFabricRetransmitTimeout_keeps (Keeps.refl _)
    | exact execFabricBusyRetry_keeps (Keeps.refl _) | exact execFabricRequestTimeout_keeps (Keeps.refl _)
    | exact execFlagEpochUseClear_keeps (Keeps.refl _) | exact execLeaseAcquire_keeps (Keeps.refl _)
    | exact execLeaseRenew_keeps (Keeps.refl _) | exact execLeaseRelease_keeps (Keeps.refl _)
    | exact execLeaseHomeExpiry_keeps (Keeps.refl _) | exact execLseCmdAcquire_keeps (Keeps.refl _)
    | exact execLseCmdRelease_keeps (Keeps.refl _) | exact execLeaseRenewDue_keeps (Keeps.refl _)
    | exact execLeaseHolderExpiry_keeps (Keeps.refl _) | exact execIngressEntryWrite_keeps (Keeps.refl _)
    | exact execIngressEntryRead_keeps (Keeps.refl _) | exact execFabricTransitForward_keeps (Keeps.refl _)
    | exact execRouteAdv_keeps (Keeps.refl _) | exact execRackMapEntryStale_keeps (Keeps.refl _)
    | exact execRoutingDrainTimeout_keeps (Keeps.refl _) | exact execRoutingTableWrite_keeps (Keeps.refl _)
    | exact execRoutingArm_keeps (Keeps.refl _) | exact execRoutingDisarm_keeps (Keeps.refl _)
    | exact execRoutingSwitch_keeps (Keeps.refl _) | exact execUplinkTxTailWrite_keeps (Keeps.refl _)
    | exact execUplinkResume_keeps (Keeps.refl _) | exact execUplinkMessageReceive_keeps (Keeps.refl _)
    | exact execMove_keeps (Keeps.refl _) | exact execGather_keeps (Keeps.refl _)
    | exact execDraughtLoad_keeps (Keeps.refl _) | exact execDraughtStore_keeps (Keeps.refl _)
    | exact execDraughtFlagStore_keeps (Keeps.refl _) | exact execDraughtService_keeps (Keeps.refl _)
    | exact execAtomicAdd32_keeps (Keeps.refl _) | exact execAtomicAdd64_keeps (Keeps.refl _)
    | exact execAtomicSwap32_keeps (Keeps.refl _) | exact execAtomicSwap64_keeps (Keeps.refl _)
    | exact execAtomicCas32_keeps (Keeps.refl _) | exact execDraughtResp_keeps (Keeps.refl _)
    | exact execDataMoverIssue_keeps (Keeps.refl _) | exact execModuleFailStop_keeps (Keeps.refl _)
    | exact execGroomHeartbeatTimeout_keeps (Keeps.refl _) | exact execGroomSelfFault_keeps (Keeps.refl _)
    | exact execGroomPlannedSwitch_keeps (Keeps.refl _) | exact execStandbyHealthTimeout_keeps (Keeps.refl _)
    | exact execGroomRestartComplete_keeps (Keeps.refl _) | exact execHitchRelease_keeps (Keeps.refl _)
    | exact execHitchWatchRegister_keeps (Keeps.refl _) | exact execHitchWatchWithdraw_keeps (Keeps.refl _)
    | exact execCounterInit_keeps (Keeps.refl _) | exact execCounterFree_keeps (Keeps.refl _)
    | exact execCounterSet_keeps (Keeps.refl _) | exact execCounterRevoke_keeps (Keeps.refl _)
    | exact execHostCounterDoorbell_keeps (Keeps.refl _) | exact execHostCounterArm_keeps (Keeps.refl _)
    | exact execMirrorWrite_keeps (Keeps.refl _) | exact execCoreFailInService_keeps (Keeps.refl _)
    | exact execFarrierCoreSubstitution_keeps (Keeps.refl _) | exact execSparePeriodicCheck_keeps (Keeps.refl _)
    | exact execFieldFailInService_keeps (Keeps.refl _) | exact execReckonerFail_keeps (Keeps.refl _)
    | exact execReckonerRestartTimeout_keeps (Keeps.refl _) | exact execReckonerPartialReset_keeps (Keeps.refl _)
    | exact execLaneSpareSwap_keeps (Keeps.refl _) | exact execBundleFail_keeps (Keeps.refl _)
    | exact execTapSample_keeps (Keeps.refl _) | exact execPlannedSwap_keeps (Keeps.refl _)
    | exact execFeedSwitchSettled_keeps (Keeps.refl _) | exact execSwapGapExpiry_keeps (Keeps.refl _)
    | exact execCartridgeSuddenLoss_keeps (Keeps.refl _) | exact execCartridgeRemoved_keeps (Keeps.refl _)
    | exact execCartridgeInserted_keeps (Keeps.refl _) | exact execCartridgeDisable_keeps (Keeps.refl _)
    | exact execSpareBecomesFit_keeps (Keeps.refl _) | exact execStartStepTimeout_keeps (Keeps.refl _)
    | exact execRollbackCommit_keeps (Keeps.refl _) | exact execFieldFailListClear_keeps (Keeps.refl _)
    | exact execFirmwareBlockReceived_keeps (Keeps.refl _) | exact execFirmwareRepairCheck_keeps (Keeps.refl _)
    | exact execDispatch_keeps (Keeps.refl _) | exact execEduMessageReceive_keeps (Keeps.refl _)
    | exact execEduMailboxWritten_keeps (Keeps.refl _) | exact execEduBatchComplete_keeps (Keeps.refl _)
    | exact execEduBatchTimeout_keeps (Keeps.refl _) | exact execEduResultTimeout_keeps (Keeps.refl _)
    | exact execEduCombine_keeps (Keeps.refl _) | exact execEduDoneSignal_keeps (Keeps.refl _)
    | exact execEduTableSwitch_keeps (Keeps.refl _) | exact execFaultRecord_keeps (Keeps.refl _)
    | exact execFaultRingWriteComplete_keeps (Keeps.refl _) | exact execFaultRingHeadWrite_keeps (Keeps.refl _)
    | exact execHitchSignalFrame_keeps (Keeps.refl _) | exact execHitchNak_keeps (Keeps.refl _)
    | exact execSensorSample_keeps (Keeps.refl _) | exact execSensorBad_keeps (Keeps.refl _)
    | exact execRateLevelHoldExpiry_keeps (Keeps.refl _) | exact execShutdownCooldownComplete_keeps (Keeps.refl _)
    | exact execThermtrip_keeps (Keeps.refl _) | exact execDeferredRecordFlush_keeps (Keeps.refl _)
    | exact execPowerSample_keeps (Keeps.refl _) | exact execPowerEmergencyHoldExpiry_keeps (Keeps.refl _)
    | exact execPowerThrottleStep_keeps (Keeps.refl _) | exact execUnitEnable_keeps (Keeps.refl _)
    | exact execUnitDisable_keeps (Keeps.refl _) | exact execUnitReset_keeps (Keeps.refl _)
    | exact execUnitStartComplete_keeps (Keeps.refl _) | exact execUnitStopComplete_keeps (Keeps.refl _)
    | exact execUnitFail_keeps (Keeps.refl _) | exact execVin48Loss_keeps (Keeps.refl _)
    | exact execAnalogRailLoss_keeps (Keeps.refl _) | exact execVlas12Loss_keeps (Keeps.refl _)
    | exact execVlas12Return_keeps (Keeps.refl _) | exact execVstbyLoss_keeps (Keeps.refl _)
    | exact execVstbyReturn_keeps (Keeps.refl _) | exact execModResetAssert_keeps (Keeps.refl _)
    | exact execPowerStateStepComplete_keeps (Keeps.refl _) | exact execPowerStateTarget_keeps (Keeps.refl _)
    | exact execDebugChallenge_keeps (Keeps.refl _) | exact execDebugSubmit_keeps (Keeps.refl _)
    | exact execDebugRevoke_keeps (Keeps.refl _) | exact execProvision_keeps (Keeps.refl _)
    | exact execPubkey_keeps (Keeps.refl _) | exact execAuthDataRead_keeps (Keeps.refl _)
    | exact execAuthDataWrite_keeps (Keeps.refl _) | exact execChallengeExpiry_keeps (Keeps.refl _)
    | exact execAuthLockoutExpiry_keeps (Keeps.refl _) | exact execZeroisationComplete_keeps (Keeps.refl _)
    | exact execKeyLoad_keeps (Keeps.refl _) | exact execKeyErase_keeps (Keeps.refl _)
    | exact execKeyBind_keeps (Keeps.refl _) | exact execKeyUnbind_keeps (Keeps.refl _)
    | exact execLinkEncryptionSwitch_keeps (Keeps.refl _) | exact execLoReadShadow_keeps (Keeps.refl _)
    | exact execRcCounterRead_keeps (Keeps.refl _) | exact execSnapshotRearm_keeps (Keeps.refl _)
    | exact execSnapshotTrigNow_keeps (Keeps.refl _) | exact execSnapshotTrigBnd_keeps (Keeps.refl _)
    | exact execSnapshotTrigRack_keeps (Keeps.refl _) | exact execTrigInFall_keeps (Keeps.refl _)
    | exact execHitchSnap_keeps (Keeps.refl _) | exact execRegisterWrite_keeps (Keeps.refl _)
    | exact execHiWriteApply_keeps (Keeps.refl _) | exact execBlkIrqForce_keeps (Keeps.refl _)
    | exact execPerstAssert_keeps (Keeps.refl _) | exact execPcieDlDown_keeps (Keeps.refl _)
    | exact execPerstDeassert_keeps (Keeps.refl _) | exact execPcieLinkUp_keeps (Keeps.refl _)
    | exact execFunctionLevelReset_keeps (Keeps.refl _) | exact execBar0Access_keeps (Keeps.refl _)
    | exact execBar4Access_keeps (Keeps.refl _) | exact execBar2RingDoorbell_keeps (Keeps.refl _)
    | exact execI3cOffsetWrite_keeps (Keeps.refl _) | exact execI3cRegisterRead_keeps (Keeps.refl _)
    | exact execI3cRegisterWrite_keeps (Keeps.refl _) | exact execUartReadCommand_keeps (Keeps.refl _)
    | exact execUartLogCommand_keeps (Keeps.refl _) | exact execUartWriteCommand_keeps (Keeps.refl _)
    | exact execGateAction_keeps (Keeps.refl _) | exact execJtagMemoryAccess_keeps (Keeps.refl _)
    | exact execReinRead_keeps (Keeps.refl _) | exact execReinWrite_keeps (Keeps.refl _)
    | exact execReinRdata_keeps (Keeps.refl _) | exact execReinWack_keeps (Keeps.refl _)
    | exact execReinTimeout_keeps (Keeps.refl _) | exact execReinBcast_keeps (Keeps.refl _)
    | exact execBeaconReceived_keeps (Keeps.refl _) | exact execMasterLostTimeout_keeps (Keeps.refl _)
    | exact execVectorConvert_keeps (Keeps.refl _) | exact execVectorAdd_keeps (Keeps.refl _)
    | exact execVectorMul_keeps (Keeps.refl _) | exact execVectorFma_keeps (Keeps.refl _)
    | exact execVectorMax_keeps (Keeps.refl _) | exact execVectorMin_keeps (Keeps.refl _)
    | exact execVectorExp_keeps (Keeps.refl _) | exact execVectorRecip_keeps (Keeps.refl _)
    | exact execVectorRsqrt_keeps (Keeps.refl _) | exact execVectorSilu_keeps (Keeps.refl _)
    | exact execVectorSumRow_keeps (Keeps.refl _) | exact execVectorMaxRow_keeps (Keeps.refl _)
    | exact execVectorTopkRow_keeps (Keeps.refl _)

/-- Every command passes to a sound state from a sound one. -/
theorem exec_passes {c : Instr} : PassesNext s (exec c s) := by
  by_cases hb : c = .strideBoundary
  · subst hb
    exact execStrideBoundary_passes (Passes.refl _)
  · by_cases hm : ∃ r, c = .moduleStart r
    · obtain ⟨r, rfl⟩ := hm
      exact execModuleStart_passes (Passes.refl _)
    · exact (exec_keeps hb fun r e => hm ⟨r, e⟩).passes

end Sys2Proof.Machine
end

