-- ==== Sys2Proof/Laws/Operands.lean ====
section
/-! SUPPORT. Operands and results in a core's own scratch: what loading the one and storing the other does. -/

namespace Sys2Proof.Machine

theorem Mem.bytes_take (m : Mem) (a n k : Nat) : (m.bytes a (n + k)).take n = m.bytes a n := by
  rw [Mem.bytes_append, List.take_left' (Mem.bytes_length _ _ _)]
theorem Mem.bytes_drop (m : Mem) (a n k : Nat) : (m.bytes a (n + k)).drop n = m.bytes (a + n) k := by
  rw [Mem.bytes_append, List.drop_left' (Mem.bytes_length _ _ _)]

theorem scratchAddr_add (c : CoreId) (o n : Nat) : scratchAddr c o + n = scratchAddr c (o + n) := by
  unfold scratchAddr; omega

theorem State.loadMany_one {s : State} {w : Accessor} {a n : Nat} {bs : List Byte} (h : s.load w a n = (bs, .ok, s)) :
    s.loadMany w [(a, n)] = ([bs], .ok, s) := by
  unfold State.loadMany State.loadMany
  rw [h]
  rfl

theorem State.loadMany_two {s : State} {w : Accessor} {a n a' n' : Nat} {bs bs' : List Byte} (h : s.load w a n = (bs, .ok, s))
    (h' : s.load w a' n' = (bs', .ok, s)) : s.loadMany w [(a, n), (a', n')] = ([bs, bs'], .ok, s) := by
  rw [State.loadMany, h]
  dsimp only
  rw [State.loadMany_one h']
  rfl

theorem State.loadValues_scratch {s : State} {w : Accessor} {c : CoreId} {fmt n off : Nat} (hw : w.core = some c) (hon : (s.unit (.core c)).st ≠ .off)
    (hfit : off * 64 + contiguousBytes fmt n ≤ 0x180000) :
    s.loadValues w fmt n (scratchAddr c (off * 64)) = (s.scratchValues c fmt n off, .ok, s) := by
  unfold State.loadValues State.scratchValues contiguousRanges contiguousValues
  unfold contiguousBytes at hfit ⊢
  by_cases h : fmt = 0
  · subst h
    rw [if_pos rfl] at hfit
    rw [if_pos rfl, if_pos rfl, if_pos rfl]
    have e1 : n / 2 ≤ ceilDiv (n / 2) 64 * 64 := by unfold ceilDiv; omega
    obtain ⟨k, hk⟩ : ∃ k, ceilDiv (n / 2) 64 * 64 = n / 2 + k := ⟨_, (Nat.add_sub_cancel' e1).symm⟩
    rw [hk] at hfit ⊢
    have l1 := State.load_scratch (s := s) (o := off * 64) (n := n / 2) hw hon (by omega)
    have l2 := State.load_scratch (s := s) (o := off * 64 + (n / 2 + k)) (n := n / 32) hw hon (by omega)
    rw [← scratchAddr_add] at l2
    rw [State.loadMany_two l1 l2]
    dsimp only
    rw [Mem.bytes_drop, Nat.add_assoc (n / 2), Mem.bytes_take]
  · rw [if_neg h] at hfit
    rw [if_neg h, if_neg h, if_neg h]
    rw [State.loadMany_one (State.load_scratch (s := s) (o := off * 64) (n := rowBytes fmt n) hw hon hfit)]

theorem Span.fits_bytes {off b : Nat} (h : (spanOf false off b).fits = true) : off * 64 + b ≤ 0x180000 := by
  unfold Span.fits spanOf scratchUnits at h
  simp at h
  unfold ceilDiv at h
  omega

theorem State.storeMany_two {s : State} {w : Accessor} {a a' : Nat} {bs bs' : List Byte} (h : s.store w a bs = (.ok, s.poke a bs))
    (h' : (s.poke a bs).store w a' bs' = (.ok, (s.poke a bs).poke a' bs')) :
    s.storeMany w [(a, bs), (a', bs')] = (.ok, (s.poke a bs).poke a' bs') := by
  rw [State.storeMany, h]
  dsimp only
  rw [State.storeMany, h']
  dsimp only
  rw [State.storeMany]
  rfl

theorem State.storeResults_scratch {s : State} {w : Accessor} {c : CoreId} {fmt o : Nat} {sat : Bool} {rs : List Result} (hw : w.core = some c) (hon : (s.unit (.core c)).st ≠ .off)
    (hfit : ∀ p ∈ resultPieces fmt sat o rs, p.1 + p.2.length ≤ 0x180000) :
    s.storeResults w fmt sat (scratchAddr c o) rs = (resultCounts fmt sat rs, .ok, s.pokeAll (resultPieces fmt sat (scratchAddr c o) rs)) := by
  unfold State.storeResults resultCounts State.pokeAll
  unfold resultPieces at *
  by_cases h : fmt = 0
  · subst h
    rw [if_pos rfl] at hfit
    rw [if_pos rfl, if_pos rfl, if_pos rfl]
    have h1 := hfit _ (List.mem_cons_self ..)
    have h2 := hfit _ (List.mem_cons_of_mem _ (List.mem_cons_self ..))
    clear hfit
    generalize convertBlocks sat rs = z at h1 h2 ⊢
    obtain ⟨sc, co, ex⟩ := z
    dsimp only at h1 h2 ⊢
    have e1 := State.store_scratch (s := s) hw hon h1
    have hon2 : ((s.poke (scratchAddr c o) (packCodes 0 co)).unit (.core c)).st ≠ .off := hon
    have e2 := State.store_scratch hw hon2 h2
    rw [← scratchAddr_add] at e2
    rw [State.storeMany_two e1 e2]
    simp only [List.foldl_cons, List.foldl_nil]
  · rw [if_neg h] at hfit
    rw [if_neg h, if_neg h, if_neg h]
    have h1 := hfit _ (List.mem_cons_self ..)
    clear hfit
    generalize convertAll fmt sat rs = z at h1 ⊢
    obtain ⟨co, ex⟩ := z
    dsimp only at h1 ⊢
    rw [State.store_scratch (s := s) hw hon h1]
    simp only [List.foldl_cons, List.foldl_nil]

end Sys2Proof.Machine
end

