-- ==== Sys2Proof/Laws/State.lean ====
section
/-! SUPPORT. The named updates of the state, field by field: what each leaves alone, and what a read after it gives. -/

namespace Sys2Proof.Machine

variable (s : State)

/-! ### State.advance -/

@[simp] theorem State.advance_pending {c} : (s.advance c).pending = s.pending := rfl
@[simp] theorem State.advance_sync {c} : (s.advance c).sync = s.sync := rfl
@[simp] theorem State.advance_regs {c} : (s.advance c).regs = s.regs := rfl
@[simp] theorem State.advance_live {c} : (s.advance c).live = s.live := rfl
@[simp] theorem State.advance_staged {c} : (s.advance c).staged = s.staged := rfl
@[simp] theorem State.advance_shadows {c} : (s.advance c).shadows = s.shadows := rfl
@[simp] theorem State.advance_units {c} : (s.advance c).units = s.units := rfl
@[simp] theorem State.advance_due {c} : (s.advance c).due = s.due := rfl
@[simp] theorem State.advance_out {c} : (s.advance c).out = s.out := rfl
@[simp] theorem State.advance_mem {c} : (s.advance c).mem = s.mem := rfl
@[simp] theorem State.advance_dram {c} : (s.advance c).dram = s.dram := rfl
@[simp] theorem State.advance_cores {c} : (s.advance c).cores = s.cores := rfl
@[simp] theorem State.advance_dies {c} : (s.advance c).dies = s.dies := rfl
@[simp] theorem State.advance_flt {c} : (s.advance c).flt = s.flt := rfl
@[simp] theorem State.advance_hitch {c} : (s.advance c).hitch = s.hitch := rfl
@[simp] theorem State.advance_groom {c} : (s.advance c).groom = s.groom := rfl
@[simp] theorem State.advance_therm {c} : (s.advance c).therm = s.therm := rfl
@[simp] theorem State.advance_power {c} : (s.advance c).power = s.power := rfl
@[simp] theorem State.advance_sec {c} : (s.advance c).sec = s.sec := rfl
@[simp] theorem State.advance_link {c} : (s.advance c).link = s.link := rfl
@[simp] theorem State.advance_snap {c} : (s.advance c).snap = s.snap := rfl
@[simp] theorem State.advance_stb {c} : (s.advance c).stb = s.stb := rfl
@[simp] theorem State.advance_bln {c} : (s.advance c).bln = s.bln := rfl
@[simp] theorem State.advance_edu {c} : (s.advance c).edu = s.edu := rfl
@[simp] theorem State.advance_drg {c} : (s.advance c).drg = s.drg := rfl
@[simp] theorem State.advance_las {c} : (s.advance c).las = s.las := rfl
@[simp] theorem State.advance_cal {c} : (s.advance c).cal = s.cal := rfl
@[simp] theorem State.advance_fab {c} : (s.advance c).fab = s.fab := rfl
@[simp] theorem State.advance_brd {c} : (s.advance c).brd = s.brd := rfl
@[simp] theorem State.advance_pci {c} : (s.advance c).pci = s.pci := rfl
@[simp] theorem State.advance_mgmt {c} : (s.advance c).mgmt = s.mgmt := rfl
@[simp] theorem State.advance_rein {c} : (s.advance c).rein = s.rein := rfl
@[simp] theorem State.advance_sup {c} : (s.advance c).sup = s.sup := rfl
@[simp] theorem State.advance_toIssue {c} : (s.advance c).toIssue = s.toIssue := rfl
@[simp] theorem State.advance_freeCount {c} : (s.advance c).freeCount = s.freeCount := rfl
@[simp] theorem State.advance_nextId {c} : (s.advance c).nextId = s.nextId := rfl

/-! ### State.schedule -/

@[simp] theorem State.schedule_pending {e} : (s.schedule e).pending = s.pending := rfl
@[simp] theorem State.schedule_clk {e} : (s.schedule e).clk = s.clk := rfl
@[simp] theorem State.schedule_sync {e} : (s.schedule e).sync = s.sync := rfl
@[simp] theorem State.schedule_regs {e} : (s.schedule e).regs = s.regs := rfl
@[simp] theorem State.schedule_live {e} : (s.schedule e).live = s.live := rfl
@[simp] theorem State.schedule_staged {e} : (s.schedule e).staged = s.staged := rfl
@[simp] theorem State.schedule_shadows {e} : (s.schedule e).shadows = s.shadows := rfl
@[simp] theorem State.schedule_units {e} : (s.schedule e).units = s.units := rfl
@[simp] theorem State.schedule_out {e} : (s.schedule e).out = s.out := rfl
@[simp] theorem State.schedule_mem {e} : (s.schedule e).mem = s.mem := rfl
@[simp] theorem State.schedule_dram {e} : (s.schedule e).dram = s.dram := rfl
@[simp] theorem State.schedule_cores {e} : (s.schedule e).cores = s.cores := rfl
@[simp] theorem State.schedule_dies {e} : (s.schedule e).dies = s.dies := rfl
@[simp] theorem State.schedule_flt {e} : (s.schedule e).flt = s.flt := rfl
@[simp] theorem State.schedule_hitch {e} : (s.schedule e).hitch = s.hitch := rfl
@[simp] theorem State.schedule_groom {e} : (s.schedule e).groom = s.groom := rfl
@[simp] theorem State.schedule_therm {e} : (s.schedule e).therm = s.therm := rfl
@[simp] theorem State.schedule_power {e} : (s.schedule e).power = s.power := rfl
@[simp] theorem State.schedule_sec {e} : (s.schedule e).sec = s.sec := rfl
@[simp] theorem State.schedule_link {e} : (s.schedule e).link = s.link := rfl
@[simp] theorem State.schedule_snap {e} : (s.schedule e).snap = s.snap := rfl
@[simp] theorem State.schedule_stb {e} : (s.schedule e).stb = s.stb := rfl
@[simp] theorem State.schedule_bln {e} : (s.schedule e).bln = s.bln := rfl
@[simp] theorem State.schedule_edu {e} : (s.schedule e).edu = s.edu := rfl
@[simp] theorem State.schedule_drg {e} : (s.schedule e).drg = s.drg := rfl
@[simp] theorem State.schedule_las {e} : (s.schedule e).las = s.las := rfl
@[simp] theorem State.schedule_cal {e} : (s.schedule e).cal = s.cal := rfl
@[simp] theorem State.schedule_fab {e} : (s.schedule e).fab = s.fab := rfl
@[simp] theorem State.schedule_brd {e} : (s.schedule e).brd = s.brd := rfl
@[simp] theorem State.schedule_pci {e} : (s.schedule e).pci = s.pci := rfl
@[simp] theorem State.schedule_mgmt {e} : (s.schedule e).mgmt = s.mgmt := rfl
@[simp] theorem State.schedule_rein {e} : (s.schedule e).rein = s.rein := rfl
@[simp] theorem State.schedule_sup {e} : (s.schedule e).sup = s.sup := rfl
@[simp] theorem State.schedule_toIssue {e} : (s.schedule e).toIssue = s.toIssue := rfl
@[simp] theorem State.schedule_freeCount {e} : (s.schedule e).freeCount = s.freeCount := rfl
@[simp] theorem State.schedule_nextId {e} : (s.schedule e).nextId = s.nextId := rfl

/-! ### State.scheduleNext -/

@[simp] theorem State.scheduleNext_pending {e} : (s.scheduleNext e).pending = s.pending := rfl
@[simp] theorem State.scheduleNext_clk {e} : (s.scheduleNext e).clk = s.clk := rfl
@[simp] theorem State.scheduleNext_sync {e} : (s.scheduleNext e).sync = s.sync := rfl
@[simp] theorem State.scheduleNext_regs {e} : (s.scheduleNext e).regs = s.regs := rfl
@[simp] theorem State.scheduleNext_live {e} : (s.scheduleNext e).live = s.live := rfl
@[simp] theorem State.scheduleNext_staged {e} : (s.scheduleNext e).staged = s.staged := rfl
@[simp] theorem State.scheduleNext_shadows {e} : (s.scheduleNext e).shadows = s.shadows := rfl
@[simp] theorem State.scheduleNext_units {e} : (s.scheduleNext e).units = s.units := rfl
@[simp] theorem State.scheduleNext_out {e} : (s.scheduleNext e).out = s.out := rfl
@[simp] theorem State.scheduleNext_mem {e} : (s.scheduleNext e).mem = s.mem := rfl
@[simp] theorem State.scheduleNext_dram {e} : (s.scheduleNext e).dram = s.dram := rfl
@[simp] theorem State.scheduleNext_cores {e} : (s.scheduleNext e).cores = s.cores := rfl
@[simp] theorem State.scheduleNext_dies {e} : (s.scheduleNext e).dies = s.dies := rfl
@[simp] theorem State.scheduleNext_flt {e} : (s.scheduleNext e).flt = s.flt := rfl
@[simp] theorem State.scheduleNext_hitch {e} : (s.scheduleNext e).hitch = s.hitch := rfl
@[simp] theorem State.scheduleNext_groom {e} : (s.scheduleNext e).groom = s.groom := rfl
@[simp] theorem State.scheduleNext_therm {e} : (s.scheduleNext e).therm = s.therm := rfl
@[simp] theorem State.scheduleNext_power {e} : (s.scheduleNext e).power = s.power := rfl
@[simp] theorem State.scheduleNext_sec {e} : (s.scheduleNext e).sec = s.sec := rfl
@[simp] theorem State.scheduleNext_link {e} : (s.scheduleNext e).link = s.link := rfl
@[simp] theorem State.scheduleNext_snap {e} : (s.scheduleNext e).snap = s.snap := rfl
@[simp] theorem State.scheduleNext_stb {e} : (s.scheduleNext e).stb = s.stb := rfl
@[simp] theorem State.scheduleNext_bln {e} : (s.scheduleNext e).bln = s.bln := rfl
@[simp] theorem State.scheduleNext_edu {e} : (s.scheduleNext e).edu = s.edu := rfl
@[simp] theorem State.scheduleNext_drg {e} : (s.scheduleNext e).drg = s.drg := rfl
@[simp] theorem State.scheduleNext_las {e} : (s.scheduleNext e).las = s.las := rfl
@[simp] theorem State.scheduleNext_cal {e} : (s.scheduleNext e).cal = s.cal := rfl
@[simp] theorem State.scheduleNext_fab {e} : (s.scheduleNext e).fab = s.fab := rfl
@[simp] theorem State.scheduleNext_brd {e} : (s.scheduleNext e).brd = s.brd := rfl
@[simp] theorem State.scheduleNext_pci {e} : (s.scheduleNext e).pci = s.pci := rfl
@[simp] theorem State.scheduleNext_mgmt {e} : (s.scheduleNext e).mgmt = s.mgmt := rfl
@[simp] theorem State.scheduleNext_rein {e} : (s.scheduleNext e).rein = s.rein := rfl
@[simp] theorem State.scheduleNext_sup {e} : (s.scheduleNext e).sup = s.sup := rfl
@[simp] theorem State.scheduleNext_toIssue {e} : (s.scheduleNext e).toIssue = s.toIssue := rfl
@[simp] theorem State.scheduleNext_freeCount {e} : (s.scheduleNext e).freeCount = s.freeCount := rfl
@[simp] theorem State.scheduleNext_nextId {e} : (s.scheduleNext e).nextId = s.nextId := rfl

/-! ### State.emit -/

@[simp] theorem State.emit_pending {m} : (s.emit m).pending = s.pending := rfl
@[simp] theorem State.emit_clk {m} : (s.emit m).clk = s.clk := rfl
@[simp] theorem State.emit_sync {m} : (s.emit m).sync = s.sync := rfl
@[simp] theorem State.emit_regs {m} : (s.emit m).regs = s.regs := rfl
@[simp] theorem State.emit_live {m} : (s.emit m).live = s.live := rfl
@[simp] theorem State.emit_staged {m} : (s.emit m).staged = s.staged := rfl
@[simp] theorem State.emit_shadows {m} : (s.emit m).shadows = s.shadows := rfl
@[simp] theorem State.emit_units {m} : (s.emit m).units = s.units := rfl
@[simp] theorem State.emit_due {m} : (s.emit m).due = s.due := rfl
@[simp] theorem State.emit_mem {m} : (s.emit m).mem = s.mem := rfl
@[simp] theorem State.emit_dram {m} : (s.emit m).dram = s.dram := rfl
@[simp] theorem State.emit_cores {m} : (s.emit m).cores = s.cores := rfl
@[simp] theorem State.emit_dies {m} : (s.emit m).dies = s.dies := rfl
@[simp] theorem State.emit_flt {m} : (s.emit m).flt = s.flt := rfl
@[simp] theorem State.emit_hitch {m} : (s.emit m).hitch = s.hitch := rfl
@[simp] theorem State.emit_groom {m} : (s.emit m).groom = s.groom := rfl
@[simp] theorem State.emit_therm {m} : (s.emit m).therm = s.therm := rfl
@[simp] theorem State.emit_power {m} : (s.emit m).power = s.power := rfl
@[simp] theorem State.emit_sec {m} : (s.emit m).sec = s.sec := rfl
@[simp] theorem State.emit_link {m} : (s.emit m).link = s.link := rfl
@[simp] theorem State.emit_snap {m} : (s.emit m).snap = s.snap := rfl
@[simp] theorem State.emit_stb {m} : (s.emit m).stb = s.stb := rfl
@[simp] theorem State.emit_bln {m} : (s.emit m).bln = s.bln := rfl
@[simp] theorem State.emit_edu {m} : (s.emit m).edu = s.edu := rfl
@[simp] theorem State.emit_drg {m} : (s.emit m).drg = s.drg := rfl
@[simp] theorem State.emit_las {m} : (s.emit m).las = s.las := rfl
@[simp] theorem State.emit_cal {m} : (s.emit m).cal = s.cal := rfl
@[simp] theorem State.emit_fab {m} : (s.emit m).fab = s.fab := rfl
@[simp] theorem State.emit_brd {m} : (s.emit m).brd = s.brd := rfl
@[simp] theorem State.emit_pci {m} : (s.emit m).pci = s.pci := rfl
@[simp] theorem State.emit_mgmt {m} : (s.emit m).mgmt = s.mgmt := rfl
@[simp] theorem State.emit_rein {m} : (s.emit m).rein = s.rein := rfl
@[simp] theorem State.emit_sup {m} : (s.emit m).sup = s.sup := rfl
@[simp] theorem State.emit_toIssue {m} : (s.emit m).toIssue = s.toIssue := rfl
@[simp] theorem State.emit_freeCount {m} : (s.emit m).freeCount = s.freeCount := rfl
@[simp] theorem State.emit_nextId {m} : (s.emit m).nextId = s.nextId := rfl

/-! ### State.setMsix -/

@[simp] theorem State.setMsix_pending {fn v e} : (s.setMsix fn v e).pending = s.pending := rfl
@[simp] theorem State.setMsix_clk {fn v e} : (s.setMsix fn v e).clk = s.clk := rfl
@[simp] theorem State.setMsix_sync {fn v e} : (s.setMsix fn v e).sync = s.sync := rfl
@[simp] theorem State.setMsix_regs {fn v e} : (s.setMsix fn v e).regs = s.regs := rfl
@[simp] theorem State.setMsix_live {fn v e} : (s.setMsix fn v e).live = s.live := rfl
@[simp] theorem State.setMsix_staged {fn v e} : (s.setMsix fn v e).staged = s.staged := rfl
@[simp] theorem State.setMsix_shadows {fn v e} : (s.setMsix fn v e).shadows = s.shadows := rfl
@[simp] theorem State.setMsix_units {fn v e} : (s.setMsix fn v e).units = s.units := rfl
@[simp] theorem State.setMsix_due {fn v e} : (s.setMsix fn v e).due = s.due := rfl
@[simp] theorem State.setMsix_out {fn v e} : (s.setMsix fn v e).out = s.out := rfl
@[simp] theorem State.setMsix_mem {fn v e} : (s.setMsix fn v e).mem = s.mem := rfl
@[simp] theorem State.setMsix_dram {fn v e} : (s.setMsix fn v e).dram = s.dram := rfl
@[simp] theorem State.setMsix_cores {fn v e} : (s.setMsix fn v e).cores = s.cores := rfl
@[simp] theorem State.setMsix_dies {fn v e} : (s.setMsix fn v e).dies = s.dies := rfl
@[simp] theorem State.setMsix_flt {fn v e} : (s.setMsix fn v e).flt = s.flt := rfl
@[simp] theorem State.setMsix_hitch {fn v e} : (s.setMsix fn v e).hitch = s.hitch := rfl
@[simp] theorem State.setMsix_groom {fn v e} : (s.setMsix fn v e).groom = s.groom := rfl
@[simp] theorem State.setMsix_therm {fn v e} : (s.setMsix fn v e).therm = s.therm := rfl
@[simp] theorem State.setMsix_power {fn v e} : (s.setMsix fn v e).power = s.power := rfl
@[simp] theorem State.setMsix_sec {fn v e} : (s.setMsix fn v e).sec = s.sec := rfl
@[simp] theorem State.setMsix_link {fn v e} : (s.setMsix fn v e).link = s.link := rfl
@[simp] theorem State.setMsix_snap {fn v e} : (s.setMsix fn v e).snap = s.snap := rfl
@[simp] theorem State.setMsix_stb {fn v e} : (s.setMsix fn v e).stb = s.stb := rfl
@[simp] theorem State.setMsix_bln {fn v e} : (s.setMsix fn v e).bln = s.bln := rfl
@[simp] theorem State.setMsix_edu {fn v e} : (s.setMsix fn v e).edu = s.edu := rfl
@[simp] theorem State.setMsix_drg {fn v e} : (s.setMsix fn v e).drg = s.drg := rfl
@[simp] theorem State.setMsix_las {fn v e} : (s.setMsix fn v e).las = s.las := rfl
@[simp] theorem State.setMsix_cal {fn v e} : (s.setMsix fn v e).cal = s.cal := rfl
@[simp] theorem State.setMsix_fab {fn v e} : (s.setMsix fn v e).fab = s.fab := rfl
@[simp] theorem State.setMsix_brd {fn v e} : (s.setMsix fn v e).brd = s.brd := rfl
@[simp] theorem State.setMsix_mgmt {fn v e} : (s.setMsix fn v e).mgmt = s.mgmt := rfl
@[simp] theorem State.setMsix_rein {fn v e} : (s.setMsix fn v e).rein = s.rein := rfl
@[simp] theorem State.setMsix_sup {fn v e} : (s.setMsix fn v e).sup = s.sup := rfl
@[simp] theorem State.setMsix_toIssue {fn v e} : (s.setMsix fn v e).toIssue = s.toIssue := rfl
@[simp] theorem State.setMsix_freeCount {fn v e} : (s.setMsix fn v e).freeCount = s.freeCount := rfl
@[simp] theorem State.setMsix_nextId {fn v e} : (s.setMsix fn v e).nextId = s.nextId := rfl

/-! ### State.poke -/

@[simp] theorem State.poke_pending {a bs} : (s.poke a bs).pending = s.pending := rfl
@[simp] theorem State.poke_clk {a bs} : (s.poke a bs).clk = s.clk := rfl
@[simp] theorem State.poke_sync {a bs} : (s.poke a bs).sync = s.sync := rfl
@[simp] theorem State.poke_regs {a bs} : (s.poke a bs).regs = s.regs := rfl
@[simp] theorem State.poke_live {a bs} : (s.poke a bs).live = s.live := rfl
@[simp] theorem State.poke_staged {a bs} : (s.poke a bs).staged = s.staged := rfl
@[simp] theorem State.poke_shadows {a bs} : (s.poke a bs).shadows = s.shadows := rfl
@[simp] theorem State.poke_units {a bs} : (s.poke a bs).units = s.units := rfl
@[simp] theorem State.poke_due {a bs} : (s.poke a bs).due = s.due := rfl
@[simp] theorem State.poke_out {a bs} : (s.poke a bs).out = s.out := rfl
@[simp] theorem State.poke_dram {a bs} : (s.poke a bs).dram = s.dram := rfl
@[simp] theorem State.poke_cores {a bs} : (s.poke a bs).cores = s.cores := rfl
@[simp] theorem State.poke_dies {a bs} : (s.poke a bs).dies = s.dies := rfl
@[simp] theorem State.poke_flt {a bs} : (s.poke a bs).flt = s.flt := rfl
@[simp] theorem State.poke_hitch {a bs} : (s.poke a bs).hitch = s.hitch := rfl
@[simp] theorem State.poke_groom {a bs} : (s.poke a bs).groom = s.groom := rfl
@[simp] theorem State.poke_therm {a bs} : (s.poke a bs).therm = s.therm := rfl
@[simp] theorem State.poke_power {a bs} : (s.poke a bs).power = s.power := rfl
@[simp] theorem State.poke_sec {a bs} : (s.poke a bs).sec = s.sec := rfl
@[simp] theorem State.poke_link {a bs} : (s.poke a bs).link = s.link := rfl
@[simp] theorem State.poke_snap {a bs} : (s.poke a bs).snap = s.snap := rfl
@[simp] theorem State.poke_stb {a bs} : (s.poke a bs).stb = s.stb := rfl
@[simp] theorem State.poke_bln {a bs} : (s.poke a bs).bln = s.bln := rfl
@[simp] theorem State.poke_edu {a bs} : (s.poke a bs).edu = s.edu := rfl
@[simp] theorem State.poke_drg {a bs} : (s.poke a bs).drg = s.drg := rfl
@[simp] theorem State.poke_las {a bs} : (s.poke a bs).las = s.las := rfl
@[simp] theorem State.poke_cal {a bs} : (s.poke a bs).cal = s.cal := rfl
@[simp] theorem State.poke_fab {a bs} : (s.poke a bs).fab = s.fab := rfl
@[simp] theorem State.poke_brd {a bs} : (s.poke a bs).brd = s.brd := rfl
@[simp] theorem State.poke_pci {a bs} : (s.poke a bs).pci = s.pci := rfl
@[simp] theorem State.poke_mgmt {a bs} : (s.poke a bs).mgmt = s.mgmt := rfl
@[simp] theorem State.poke_rein {a bs} : (s.poke a bs).rein = s.rein := rfl
@[simp] theorem State.poke_sup {a bs} : (s.poke a bs).sup = s.sup := rfl
@[simp] theorem State.poke_toIssue {a bs} : (s.poke a bs).toIssue = s.toIssue := rfl
@[simp] theorem State.poke_freeCount {a bs} : (s.poke a bs).freeCount = s.freeCount := rfl
@[simp] theorem State.poke_nextId {a bs} : (s.poke a bs).nextId = s.nextId := rfl

/-! ### State.setReg -/

@[simp] theorem State.setReg_pending {k w} : (s.setReg k w).pending = s.pending := rfl
@[simp] theorem State.setReg_clk {k w} : (s.setReg k w).clk = s.clk := rfl
@[simp] theorem State.setReg_sync {k w} : (s.setReg k w).sync = s.sync := rfl
@[simp] theorem State.setReg_live {k w} : (s.setReg k w).live = s.live := rfl
@[simp] theorem State.setReg_staged {k w} : (s.setReg k w).staged = s.staged := rfl
@[simp] theorem State.setReg_shadows {k w} : (s.setReg k w).shadows = s.shadows := rfl
@[simp] theorem State.setReg_units {k w} : (s.setReg k w).units = s.units := rfl
@[simp] theorem State.setReg_due {k w} : (s.setReg k w).due = s.due := rfl
@[simp] theorem State.setReg_out {k w} : (s.setReg k w).out = s.out := rfl
@[simp] theorem State.setReg_mem {k w} : (s.setReg k w).mem = s.mem := rfl
@[simp] theorem State.setReg_dram {k w} : (s.setReg k w).dram = s.dram := rfl
@[simp] theorem State.setReg_cores {k w} : (s.setReg k w).cores = s.cores := rfl
@[simp] theorem State.setReg_dies {k w} : (s.setReg k w).dies = s.dies := rfl
@[simp] theorem State.setReg_flt {k w} : (s.setReg k w).flt = s.flt := rfl
@[simp] theorem State.setReg_hitch {k w} : (s.setReg k w).hitch = s.hitch := rfl
@[simp] theorem State.setReg_groom {k w} : (s.setReg k w).groom = s.groom := rfl
@[simp] theorem State.setReg_therm {k w} : (s.setReg k w).therm = s.therm := rfl
@[simp] theorem State.setReg_power {k w} : (s.setReg k w).power = s.power := rfl
@[simp] theorem State.setReg_sec {k w} : (s.setReg k w).sec = s.sec := rfl
@[simp] theorem State.setReg_link {k w} : (s.setReg k w).link = s.link := rfl
@[simp] theorem State.setReg_snap {k w} : (s.setReg k w).snap = s.snap := rfl
@[simp] theorem State.setReg_stb {k w} : (s.setReg k w).stb = s.stb := rfl
@[simp] theorem State.setReg_bln {k w} : (s.setReg k w).bln = s.bln := rfl
@[simp] theorem State.setReg_edu {k w} : (s.setReg k w).edu = s.edu := rfl
@[simp] theorem State.setReg_drg {k w} : (s.setReg k w).drg = s.drg := rfl
@[simp] theorem State.setReg_las {k w} : (s.setReg k w).las = s.las := rfl
@[simp] theorem State.setReg_cal {k w} : (s.setReg k w).cal = s.cal := rfl
@[simp] theorem State.setReg_fab {k w} : (s.setReg k w).fab = s.fab := rfl
@[simp] theorem State.setReg_brd {k w} : (s.setReg k w).brd = s.brd := rfl
@[simp] theorem State.setReg_pci {k w} : (s.setReg k w).pci = s.pci := rfl
@[simp] theorem State.setReg_mgmt {k w} : (s.setReg k w).mgmt = s.mgmt := rfl
@[simp] theorem State.setReg_rein {k w} : (s.setReg k w).rein = s.rein := rfl
@[simp] theorem State.setReg_sup {k w} : (s.setReg k w).sup = s.sup := rfl
@[simp] theorem State.setReg_toIssue {k w} : (s.setReg k w).toIssue = s.toIssue := rfl
@[simp] theorem State.setReg_freeCount {k w} : (s.setReg k w).freeCount = s.freeCount := rfl
@[simp] theorem State.setReg_nextId {k w} : (s.setReg k w).nextId = s.nextId := rfl

/-! ### State.setLive -/

@[simp] theorem State.setLive_pending {k w} : (s.setLive k w).pending = s.pending := rfl
@[simp] theorem State.setLive_clk {k w} : (s.setLive k w).clk = s.clk := rfl
@[simp] theorem State.setLive_sync {k w} : (s.setLive k w).sync = s.sync := rfl
@[simp] theorem State.setLive_regs {k w} : (s.setLive k w).regs = s.regs := rfl
@[simp] theorem State.setLive_staged {k w} : (s.setLive k w).staged = s.staged := rfl
@[simp] theorem State.setLive_shadows {k w} : (s.setLive k w).shadows = s.shadows := rfl
@[simp] theorem State.setLive_units {k w} : (s.setLive k w).units = s.units := rfl
@[simp] theorem State.setLive_due {k w} : (s.setLive k w).due = s.due := rfl
@[simp] theorem State.setLive_out {k w} : (s.setLive k w).out = s.out := rfl
@[simp] theorem State.setLive_mem {k w} : (s.setLive k w).mem = s.mem := rfl
@[simp] theorem State.setLive_dram {k w} : (s.setLive k w).dram = s.dram := rfl
@[simp] theorem State.setLive_cores {k w} : (s.setLive k w).cores = s.cores := rfl
@[simp] theorem State.setLive_dies {k w} : (s.setLive k w).dies = s.dies := rfl
@[simp] theorem State.setLive_flt {k w} : (s.setLive k w).flt = s.flt := rfl
@[simp] theorem State.setLive_hitch {k w} : (s.setLive k w).hitch = s.hitch := rfl
@[simp] theorem State.setLive_groom {k w} : (s.setLive k w).groom = s.groom := rfl
@[simp] theorem State.setLive_therm {k w} : (s.setLive k w).therm = s.therm := rfl
@[simp] theorem State.setLive_power {k w} : (s.setLive k w).power = s.power := rfl
@[simp] theorem State.setLive_sec {k w} : (s.setLive k w).sec = s.sec := rfl
@[simp] theorem State.setLive_link {k w} : (s.setLive k w).link = s.link := rfl
@[simp] theorem State.setLive_snap {k w} : (s.setLive k w).snap = s.snap := rfl
@[simp] theorem State.setLive_stb {k w} : (s.setLive k w).stb = s.stb := rfl
@[simp] theorem State.setLive_bln {k w} : (s.setLive k w).bln = s.bln := rfl
@[simp] theorem State.setLive_edu {k w} : (s.setLive k w).edu = s.edu := rfl
@[simp] theorem State.setLive_drg {k w} : (s.setLive k w).drg = s.drg := rfl
@[simp] theorem State.setLive_las {k w} : (s.setLive k w).las = s.las := rfl
@[simp] theorem State.setLive_cal {k w} : (s.setLive k w).cal = s.cal := rfl
@[simp] theorem State.setLive_fab {k w} : (s.setLive k w).fab = s.fab := rfl
@[simp] theorem State.setLive_brd {k w} : (s.setLive k w).brd = s.brd := rfl
@[simp] theorem State.setLive_pci {k w} : (s.setLive k w).pci = s.pci := rfl
@[simp] theorem State.setLive_mgmt {k w} : (s.setLive k w).mgmt = s.mgmt := rfl
@[simp] theorem State.setLive_rein {k w} : (s.setLive k w).rein = s.rein := rfl
@[simp] theorem State.setLive_sup {k w} : (s.setLive k w).sup = s.sup := rfl
@[simp] theorem State.setLive_toIssue {k w} : (s.setLive k w).toIssue = s.toIssue := rfl
@[simp] theorem State.setLive_freeCount {k w} : (s.setLive k w).freeCount = s.freeCount := rfl
@[simp] theorem State.setLive_nextId {k w} : (s.setLive k w).nextId = s.nextId := rfl

/-! ### State.storeLog -/

@[simp] theorem State.storeLog_pending {r} : (s.storeLog r).pending = s.pending := rfl
@[simp] theorem State.storeLog_clk {r} : (s.storeLog r).clk = s.clk := rfl
@[simp] theorem State.storeLog_sync {r} : (s.storeLog r).sync = s.sync := rfl
@[simp] theorem State.storeLog_regs {r} : (s.storeLog r).regs = s.regs := rfl
@[simp] theorem State.storeLog_live {r} : (s.storeLog r).live = s.live := rfl
@[simp] theorem State.storeLog_staged {r} : (s.storeLog r).staged = s.staged := rfl
@[simp] theorem State.storeLog_shadows {r} : (s.storeLog r).shadows = s.shadows := rfl
@[simp] theorem State.storeLog_units {r} : (s.storeLog r).units = s.units := rfl
@[simp] theorem State.storeLog_due {r} : (s.storeLog r).due = s.due := rfl
@[simp] theorem State.storeLog_mem {r} : (s.storeLog r).mem = s.mem := rfl
@[simp] theorem State.storeLog_dram {r} : (s.storeLog r).dram = s.dram := rfl
@[simp] theorem State.storeLog_cores {r} : (s.storeLog r).cores = s.cores := rfl
@[simp] theorem State.storeLog_dies {r} : (s.storeLog r).dies = s.dies := rfl
@[simp] theorem State.storeLog_hitch {r} : (s.storeLog r).hitch = s.hitch := rfl
@[simp] theorem State.storeLog_groom {r} : (s.storeLog r).groom = s.groom := rfl
@[simp] theorem State.storeLog_therm {r} : (s.storeLog r).therm = s.therm := rfl
@[simp] theorem State.storeLog_power {r} : (s.storeLog r).power = s.power := rfl
@[simp] theorem State.storeLog_sec {r} : (s.storeLog r).sec = s.sec := rfl
@[simp] theorem State.storeLog_link {r} : (s.storeLog r).link = s.link := rfl
@[simp] theorem State.storeLog_snap {r} : (s.storeLog r).snap = s.snap := rfl
@[simp] theorem State.storeLog_stb {r} : (s.storeLog r).stb = s.stb := rfl
@[simp] theorem State.storeLog_bln {r} : (s.storeLog r).bln = s.bln := rfl
@[simp] theorem State.storeLog_edu {r} : (s.storeLog r).edu = s.edu := rfl
@[simp] theorem State.storeLog_drg {r} : (s.storeLog r).drg = s.drg := rfl
@[simp] theorem State.storeLog_las {r} : (s.storeLog r).las = s.las := rfl
@[simp] theorem State.storeLog_cal {r} : (s.storeLog r).cal = s.cal := rfl
@[simp] theorem State.storeLog_fab {r} : (s.storeLog r).fab = s.fab := rfl
@[simp] theorem State.storeLog_brd {r} : (s.storeLog r).brd = s.brd := rfl
@[simp] theorem State.storeLog_pci {r} : (s.storeLog r).pci = s.pci := rfl
@[simp] theorem State.storeLog_mgmt {r} : (s.storeLog r).mgmt = s.mgmt := rfl
@[simp] theorem State.storeLog_rein {r} : (s.storeLog r).rein = s.rein := rfl
@[simp] theorem State.storeLog_sup {r} : (s.storeLog r).sup = s.sup := rfl
@[simp] theorem State.storeLog_toIssue {r} : (s.storeLog r).toIssue = s.toIssue := rfl
@[simp] theorem State.storeLog_freeCount {r} : (s.storeLog r).freeCount = s.freeCount := rfl
@[simp] theorem State.storeLog_nextId {r} : (s.storeLog r).nextId = s.nextId := rfl

/-! ### State.setCore -/

@[simp] theorem State.setCore_pending {c v} : (s.setCore c v).pending = s.pending := rfl
@[simp] theorem State.setCore_clk {c v} : (s.setCore c v).clk = s.clk := rfl
@[simp] theorem State.setCore_sync {c v} : (s.setCore c v).sync = s.sync := rfl
@[simp] theorem State.setCore_regs {c v} : (s.setCore c v).regs = s.regs := rfl
@[simp] theorem State.setCore_live {c v} : (s.setCore c v).live = s.live := rfl
@[simp] theorem State.setCore_staged {c v} : (s.setCore c v).staged = s.staged := rfl
@[simp] theorem State.setCore_shadows {c v} : (s.setCore c v).shadows = s.shadows := rfl
@[simp] theorem State.setCore_units {c v} : (s.setCore c v).units = s.units := rfl
@[simp] theorem State.setCore_due {c v} : (s.setCore c v).due = s.due := rfl
@[simp] theorem State.setCore_out {c v} : (s.setCore c v).out = s.out := rfl
@[simp] theorem State.setCore_mem {c v} : (s.setCore c v).mem = s.mem := rfl
@[simp] theorem State.setCore_dram {c v} : (s.setCore c v).dram = s.dram := rfl
@[simp] theorem State.setCore_dies {c v} : (s.setCore c v).dies = s.dies := rfl
@[simp] theorem State.setCore_flt {c v} : (s.setCore c v).flt = s.flt := rfl
@[simp] theorem State.setCore_hitch {c v} : (s.setCore c v).hitch = s.hitch := rfl
@[simp] theorem State.setCore_groom {c v} : (s.setCore c v).groom = s.groom := rfl
@[simp] theorem State.setCore_therm {c v} : (s.setCore c v).therm = s.therm := rfl
@[simp] theorem State.setCore_power {c v} : (s.setCore c v).power = s.power := rfl
@[simp] theorem State.setCore_sec {c v} : (s.setCore c v).sec = s.sec := rfl
@[simp] theorem State.setCore_link {c v} : (s.setCore c v).link = s.link := rfl
@[simp] theorem State.setCore_snap {c v} : (s.setCore c v).snap = s.snap := rfl
@[simp] theorem State.setCore_stb {c v} : (s.setCore c v).stb = s.stb := rfl
@[simp] theorem State.setCore_bln {c v} : (s.setCore c v).bln = s.bln := rfl
@[simp] theorem State.setCore_edu {c v} : (s.setCore c v).edu = s.edu := rfl
@[simp] theorem State.setCore_drg {c v} : (s.setCore c v).drg = s.drg := rfl
@[simp] theorem State.setCore_las {c v} : (s.setCore c v).las = s.las := rfl
@[simp] theorem State.setCore_cal {c v} : (s.setCore c v).cal = s.cal := rfl
@[simp] theorem State.setCore_fab {c v} : (s.setCore c v).fab = s.fab := rfl
@[simp] theorem State.setCore_brd {c v} : (s.setCore c v).brd = s.brd := rfl
@[simp] theorem State.setCore_pci {c v} : (s.setCore c v).pci = s.pci := rfl
@[simp] theorem State.setCore_mgmt {c v} : (s.setCore c v).mgmt = s.mgmt := rfl
@[simp] theorem State.setCore_rein {c v} : (s.setCore c v).rein = s.rein := rfl
@[simp] theorem State.setCore_sup {c v} : (s.setCore c v).sup = s.sup := rfl
@[simp] theorem State.setCore_toIssue {c v} : (s.setCore c v).toIssue = s.toIssue := rfl
@[simp] theorem State.setCore_freeCount {c v} : (s.setCore c v).freeCount = s.freeCount := rfl
@[simp] theorem State.setCore_nextId {c v} : (s.setCore c v).nextId = s.nextId := rfl

/-! ### State.setDie -/

@[simp] theorem State.setDie_pending {r v} : (s.setDie r v).pending = s.pending := rfl
@[simp] theorem State.setDie_clk {r v} : (s.setDie r v).clk = s.clk := rfl
@[simp] theorem State.setDie_sync {r v} : (s.setDie r v).sync = s.sync := rfl
@[simp] theorem State.setDie_regs {r v} : (s.setDie r v).regs = s.regs := rfl
@[simp] theorem State.setDie_live {r v} : (s.setDie r v).live = s.live := rfl
@[simp] theorem State.setDie_staged {r v} : (s.setDie r v).staged = s.staged := rfl
@[simp] theorem State.setDie_shadows {r v} : (s.setDie r v).shadows = s.shadows := rfl
@[simp] theorem State.setDie_units {r v} : (s.setDie r v).units = s.units := rfl
@[simp] theorem State.setDie_due {r v} : (s.setDie r v).due = s.due := rfl
@[simp] theorem State.setDie_out {r v} : (s.setDie r v).out = s.out := rfl
@[simp] theorem State.setDie_mem {r v} : (s.setDie r v).mem = s.mem := rfl
@[simp] theorem State.setDie_dram {r v} : (s.setDie r v).dram = s.dram := rfl
@[simp] theorem State.setDie_cores {r v} : (s.setDie r v).cores = s.cores := rfl
@[simp] theorem State.setDie_flt {r v} : (s.setDie r v).flt = s.flt := rfl
@[simp] theorem State.setDie_hitch {r v} : (s.setDie r v).hitch = s.hitch := rfl
@[simp] theorem State.setDie_groom {r v} : (s.setDie r v).groom = s.groom := rfl
@[simp] theorem State.setDie_therm {r v} : (s.setDie r v).therm = s.therm := rfl
@[simp] theorem State.setDie_power {r v} : (s.setDie r v).power = s.power := rfl
@[simp] theorem State.setDie_sec {r v} : (s.setDie r v).sec = s.sec := rfl
@[simp] theorem State.setDie_link {r v} : (s.setDie r v).link = s.link := rfl
@[simp] theorem State.setDie_snap {r v} : (s.setDie r v).snap = s.snap := rfl
@[simp] theorem State.setDie_stb {r v} : (s.setDie r v).stb = s.stb := rfl
@[simp] theorem State.setDie_bln {r v} : (s.setDie r v).bln = s.bln := rfl
@[simp] theorem State.setDie_edu {r v} : (s.setDie r v).edu = s.edu := rfl
@[simp] theorem State.setDie_drg {r v} : (s.setDie r v).drg = s.drg := rfl
@[simp] theorem State.setDie_las {r v} : (s.setDie r v).las = s.las := rfl
@[simp] theorem State.setDie_cal {r v} : (s.setDie r v).cal = s.cal := rfl
@[simp] theorem State.setDie_fab {r v} : (s.setDie r v).fab = s.fab := rfl
@[simp] theorem State.setDie_brd {r v} : (s.setDie r v).brd = s.brd := rfl
@[simp] theorem State.setDie_pci {r v} : (s.setDie r v).pci = s.pci := rfl
@[simp] theorem State.setDie_mgmt {r v} : (s.setDie r v).mgmt = s.mgmt := rfl
@[simp] theorem State.setDie_rein {r v} : (s.setDie r v).rein = s.rein := rfl
@[simp] theorem State.setDie_sup {r v} : (s.setDie r v).sup = s.sup := rfl
@[simp] theorem State.setDie_toIssue {r v} : (s.setDie r v).toIssue = s.toIssue := rfl
@[simp] theorem State.setDie_freeCount {r v} : (s.setDie r v).freeCount = s.freeCount := rfl
@[simp] theorem State.setDie_nextId {r v} : (s.setDie r v).nextId = s.nextId := rfl

/-! ### State.setStack -/

@[simp] theorem State.setStack_pending {k v} : (s.setStack k v).pending = s.pending := rfl
@[simp] theorem State.setStack_clk {k v} : (s.setStack k v).clk = s.clk := rfl
@[simp] theorem State.setStack_sync {k v} : (s.setStack k v).sync = s.sync := rfl
@[simp] theorem State.setStack_regs {k v} : (s.setStack k v).regs = s.regs := rfl
@[simp] theorem State.setStack_live {k v} : (s.setStack k v).live = s.live := rfl
@[simp] theorem State.setStack_staged {k v} : (s.setStack k v).staged = s.staged := rfl
@[simp] theorem State.setStack_shadows {k v} : (s.setStack k v).shadows = s.shadows := rfl
@[simp] theorem State.setStack_units {k v} : (s.setStack k v).units = s.units := rfl
@[simp] theorem State.setStack_due {k v} : (s.setStack k v).due = s.due := rfl
@[simp] theorem State.setStack_out {k v} : (s.setStack k v).out = s.out := rfl
@[simp] theorem State.setStack_mem {k v} : (s.setStack k v).mem = s.mem := rfl
@[simp] theorem State.setStack_cores {k v} : (s.setStack k v).cores = s.cores := rfl
@[simp] theorem State.setStack_dies {k v} : (s.setStack k v).dies = s.dies := rfl
@[simp] theorem State.setStack_flt {k v} : (s.setStack k v).flt = s.flt := rfl
@[simp] theorem State.setStack_hitch {k v} : (s.setStack k v).hitch = s.hitch := rfl
@[simp] theorem State.setStack_groom {k v} : (s.setStack k v).groom = s.groom := rfl
@[simp] theorem State.setStack_therm {k v} : (s.setStack k v).therm = s.therm := rfl
@[simp] theorem State.setStack_power {k v} : (s.setStack k v).power = s.power := rfl
@[simp] theorem State.setStack_sec {k v} : (s.setStack k v).sec = s.sec := rfl
@[simp] theorem State.setStack_link {k v} : (s.setStack k v).link = s.link := rfl
@[simp] theorem State.setStack_snap {k v} : (s.setStack k v).snap = s.snap := rfl
@[simp] theorem State.setStack_stb {k v} : (s.setStack k v).stb = s.stb := rfl
@[simp] theorem State.setStack_bln {k v} : (s.setStack k v).bln = s.bln := rfl
@[simp] theorem State.setStack_edu {k v} : (s.setStack k v).edu = s.edu := rfl
@[simp] theorem State.setStack_drg {k v} : (s.setStack k v).drg = s.drg := rfl
@[simp] theorem State.setStack_las {k v} : (s.setStack k v).las = s.las := rfl
@[simp] theorem State.setStack_cal {k v} : (s.setStack k v).cal = s.cal := rfl
@[simp] theorem State.setStack_fab {k v} : (s.setStack k v).fab = s.fab := rfl
@[simp] theorem State.setStack_brd {k v} : (s.setStack k v).brd = s.brd := rfl
@[simp] theorem State.setStack_pci {k v} : (s.setStack k v).pci = s.pci := rfl
@[simp] theorem State.setStack_mgmt {k v} : (s.setStack k v).mgmt = s.mgmt := rfl
@[simp] theorem State.setStack_rein {k v} : (s.setStack k v).rein = s.rein := rfl
@[simp] theorem State.setStack_sup {k v} : (s.setStack k v).sup = s.sup := rfl
@[simp] theorem State.setStack_toIssue {k v} : (s.setStack k v).toIssue = s.toIssue := rfl
@[simp] theorem State.setStack_freeCount {k v} : (s.setStack k v).freeCount = s.freeCount := rfl
@[simp] theorem State.setStack_nextId {k v} : (s.setStack k v).nextId = s.nextId := rfl

/-! ### State.setCtr -/

@[simp] theorem State.setCtr_pending {c v} : (s.setCtr c v).pending = s.pending := rfl
@[simp] theorem State.setCtr_clk {c v} : (s.setCtr c v).clk = s.clk := rfl
@[simp] theorem State.setCtr_sync {c v} : (s.setCtr c v).sync = s.sync := rfl
@[simp] theorem State.setCtr_regs {c v} : (s.setCtr c v).regs = s.regs := rfl
@[simp] theorem State.setCtr_live {c v} : (s.setCtr c v).live = s.live := rfl
@[simp] theorem State.setCtr_staged {c v} : (s.setCtr c v).staged = s.staged := rfl
@[simp] theorem State.setCtr_shadows {c v} : (s.setCtr c v).shadows = s.shadows := rfl
@[simp] theorem State.setCtr_units {c v} : (s.setCtr c v).units = s.units := rfl
@[simp] theorem State.setCtr_due {c v} : (s.setCtr c v).due = s.due := rfl
@[simp] theorem State.setCtr_out {c v} : (s.setCtr c v).out = s.out := rfl
@[simp] theorem State.setCtr_mem {c v} : (s.setCtr c v).mem = s.mem := rfl
@[simp] theorem State.setCtr_dram {c v} : (s.setCtr c v).dram = s.dram := rfl
@[simp] theorem State.setCtr_cores {c v} : (s.setCtr c v).cores = s.cores := rfl
@[simp] theorem State.setCtr_dies {c v} : (s.setCtr c v).dies = s.dies := rfl
@[simp] theorem State.setCtr_flt {c v} : (s.setCtr c v).flt = s.flt := rfl
@[simp] theorem State.setCtr_groom {c v} : (s.setCtr c v).groom = s.groom := rfl
@[simp] theorem State.setCtr_therm {c v} : (s.setCtr c v).therm = s.therm := rfl
@[simp] theorem State.setCtr_power {c v} : (s.setCtr c v).power = s.power := rfl
@[simp] theorem State.setCtr_sec {c v} : (s.setCtr c v).sec = s.sec := rfl
@[simp] theorem State.setCtr_link {c v} : (s.setCtr c v).link = s.link := rfl
@[simp] theorem State.setCtr_snap {c v} : (s.setCtr c v).snap = s.snap := rfl
@[simp] theorem State.setCtr_stb {c v} : (s.setCtr c v).stb = s.stb := rfl
@[simp] theorem State.setCtr_bln {c v} : (s.setCtr c v).bln = s.bln := rfl
@[simp] theorem State.setCtr_edu {c v} : (s.setCtr c v).edu = s.edu := rfl
@[simp] theorem State.setCtr_drg {c v} : (s.setCtr c v).drg = s.drg := rfl
@[simp] theorem State.setCtr_las {c v} : (s.setCtr c v).las = s.las := rfl
@[simp] theorem State.setCtr_cal {c v} : (s.setCtr c v).cal = s.cal := rfl
@[simp] theorem State.setCtr_fab {c v} : (s.setCtr c v).fab = s.fab := rfl
@[simp] theorem State.setCtr_brd {c v} : (s.setCtr c v).brd = s.brd := rfl
@[simp] theorem State.setCtr_pci {c v} : (s.setCtr c v).pci = s.pci := rfl
@[simp] theorem State.setCtr_mgmt {c v} : (s.setCtr c v).mgmt = s.mgmt := rfl
@[simp] theorem State.setCtr_rein {c v} : (s.setCtr c v).rein = s.rein := rfl
@[simp] theorem State.setCtr_sup {c v} : (s.setCtr c v).sup = s.sup := rfl
@[simp] theorem State.setCtr_toIssue {c v} : (s.setCtr c v).toIssue = s.toIssue := rfl
@[simp] theorem State.setCtr_freeCount {c v} : (s.setCtr c v).freeCount = s.freeCount := rfl
@[simp] theorem State.setCtr_nextId {c v} : (s.setCtr c v).nextId = s.nextId := rfl

/-! ### State.setStall -/

@[simp] theorem State.setStall_pending {i v} : (s.setStall i v).pending = s.pending := rfl
@[simp] theorem State.setStall_clk {i v} : (s.setStall i v).clk = s.clk := rfl
@[simp] theorem State.setStall_sync {i v} : (s.setStall i v).sync = s.sync := rfl
@[simp] theorem State.setStall_regs {i v} : (s.setStall i v).regs = s.regs := rfl
@[simp] theorem State.setStall_live {i v} : (s.setStall i v).live = s.live := rfl
@[simp] theorem State.setStall_staged {i v} : (s.setStall i v).staged = s.staged := rfl
@[simp] theorem State.setStall_shadows {i v} : (s.setStall i v).shadows = s.shadows := rfl
@[simp] theorem State.setStall_units {i v} : (s.setStall i v).units = s.units := rfl
@[simp] theorem State.setStall_due {i v} : (s.setStall i v).due = s.due := rfl
@[simp] theorem State.setStall_out {i v} : (s.setStall i v).out = s.out := rfl
@[simp] theorem State.setStall_mem {i v} : (s.setStall i v).mem = s.mem := rfl
@[simp] theorem State.setStall_dram {i v} : (s.setStall i v).dram = s.dram := rfl
@[simp] theorem State.setStall_cores {i v} : (s.setStall i v).cores = s.cores := rfl
@[simp] theorem State.setStall_dies {i v} : (s.setStall i v).dies = s.dies := rfl
@[simp] theorem State.setStall_flt {i v} : (s.setStall i v).flt = s.flt := rfl
@[simp] theorem State.setStall_hitch {i v} : (s.setStall i v).hitch = s.hitch := rfl
@[simp] theorem State.setStall_groom {i v} : (s.setStall i v).groom = s.groom := rfl
@[simp] theorem State.setStall_therm {i v} : (s.setStall i v).therm = s.therm := rfl
@[simp] theorem State.setStall_power {i v} : (s.setStall i v).power = s.power := rfl
@[simp] theorem State.setStall_sec {i v} : (s.setStall i v).sec = s.sec := rfl
@[simp] theorem State.setStall_link {i v} : (s.setStall i v).link = s.link := rfl
@[simp] theorem State.setStall_snap {i v} : (s.setStall i v).snap = s.snap := rfl
@[simp] theorem State.setStall_bln {i v} : (s.setStall i v).bln = s.bln := rfl
@[simp] theorem State.setStall_edu {i v} : (s.setStall i v).edu = s.edu := rfl
@[simp] theorem State.setStall_drg {i v} : (s.setStall i v).drg = s.drg := rfl
@[simp] theorem State.setStall_las {i v} : (s.setStall i v).las = s.las := rfl
@[simp] theorem State.setStall_cal {i v} : (s.setStall i v).cal = s.cal := rfl
@[simp] theorem State.setStall_fab {i v} : (s.setStall i v).fab = s.fab := rfl
@[simp] theorem State.setStall_brd {i v} : (s.setStall i v).brd = s.brd := rfl
@[simp] theorem State.setStall_pci {i v} : (s.setStall i v).pci = s.pci := rfl
@[simp] theorem State.setStall_mgmt {i v} : (s.setStall i v).mgmt = s.mgmt := rfl
@[simp] theorem State.setStall_rein {i v} : (s.setStall i v).rein = s.rein := rfl
@[simp] theorem State.setStall_sup {i v} : (s.setStall i v).sup = s.sup := rfl
@[simp] theorem State.setStall_toIssue {i v} : (s.setStall i v).toIssue = s.toIssue := rfl
@[simp] theorem State.setStall_freeCount {i v} : (s.setStall i v).freeCount = s.freeCount := rfl
@[simp] theorem State.setStall_nextId {i v} : (s.setStall i v).nextId = s.nextId := rfl

/-! ### State.setRing -/

@[simp] theorem State.setRing_pending {r v} : (s.setRing r v).pending = s.pending := rfl
@[simp] theorem State.setRing_clk {r v} : (s.setRing r v).clk = s.clk := rfl
@[simp] theorem State.setRing_sync {r v} : (s.setRing r v).sync = s.sync := rfl
@[simp] theorem State.setRing_regs {r v} : (s.setRing r v).regs = s.regs := rfl
@[simp] theorem State.setRing_live {r v} : (s.setRing r v).live = s.live := rfl
@[simp] theorem State.setRing_staged {r v} : (s.setRing r v).staged = s.staged := rfl
@[simp] theorem State.setRing_shadows {r v} : (s.setRing r v).shadows = s.shadows := rfl
@[simp] theorem State.setRing_units {r v} : (s.setRing r v).units = s.units := rfl
@[simp] theorem State.setRing_due {r v} : (s.setRing r v).due = s.due := rfl
@[simp] theorem State.setRing_out {r v} : (s.setRing r v).out = s.out := rfl
@[simp] theorem State.setRing_mem {r v} : (s.setRing r v).mem = s.mem := rfl
@[simp] theorem State.setRing_dram {r v} : (s.setRing r v).dram = s.dram := rfl
@[simp] theorem State.setRing_cores {r v} : (s.setRing r v).cores = s.cores := rfl
@[simp] theorem State.setRing_dies {r v} : (s.setRing r v).dies = s.dies := rfl
@[simp] theorem State.setRing_flt {r v} : (s.setRing r v).flt = s.flt := rfl
@[simp] theorem State.setRing_hitch {r v} : (s.setRing r v).hitch = s.hitch := rfl
@[simp] theorem State.setRing_groom {r v} : (s.setRing r v).groom = s.groom := rfl
@[simp] theorem State.setRing_therm {r v} : (s.setRing r v).therm = s.therm := rfl
@[simp] theorem State.setRing_power {r v} : (s.setRing r v).power = s.power := rfl
@[simp] theorem State.setRing_sec {r v} : (s.setRing r v).sec = s.sec := rfl
@[simp] theorem State.setRing_link {r v} : (s.setRing r v).link = s.link := rfl
@[simp] theorem State.setRing_snap {r v} : (s.setRing r v).snap = s.snap := rfl
@[simp] theorem State.setRing_stb {r v} : (s.setRing r v).stb = s.stb := rfl
@[simp] theorem State.setRing_bln {r v} : (s.setRing r v).bln = s.bln := rfl
@[simp] theorem State.setRing_edu {r v} : (s.setRing r v).edu = s.edu := rfl
@[simp] theorem State.setRing_las {r v} : (s.setRing r v).las = s.las := rfl
@[simp] theorem State.setRing_cal {r v} : (s.setRing r v).cal = s.cal := rfl
@[simp] theorem State.setRing_fab {r v} : (s.setRing r v).fab = s.fab := rfl
@[simp] theorem State.setRing_brd {r v} : (s.setRing r v).brd = s.brd := rfl
@[simp] theorem State.setRing_pci {r v} : (s.setRing r v).pci = s.pci := rfl
@[simp] theorem State.setRing_mgmt {r v} : (s.setRing r v).mgmt = s.mgmt := rfl
@[simp] theorem State.setRing_rein {r v} : (s.setRing r v).rein = s.rein := rfl
@[simp] theorem State.setRing_sup {r v} : (s.setRing r v).sup = s.sup := rfl
@[simp] theorem State.setRing_toIssue {r v} : (s.setRing r v).toIssue = s.toIssue := rfl
@[simp] theorem State.setRing_freeCount {r v} : (s.setRing r v).freeCount = s.freeCount := rfl
@[simp] theorem State.setRing_nextId {r v} : (s.setRing r v).nextId = s.nextId := rfl

/-! ### State.setSlot -/

@[simp] theorem State.setSlot_pending {x v} : (s.setSlot x v).pending = s.pending := rfl
@[simp] theorem State.setSlot_clk {x v} : (s.setSlot x v).clk = s.clk := rfl
@[simp] theorem State.setSlot_sync {x v} : (s.setSlot x v).sync = s.sync := rfl
@[simp] theorem State.setSlot_regs {x v} : (s.setSlot x v).regs = s.regs := rfl
@[simp] theorem State.setSlot_live {x v} : (s.setSlot x v).live = s.live := rfl
@[simp] theorem State.setSlot_staged {x v} : (s.setSlot x v).staged = s.staged := rfl
@[simp] theorem State.setSlot_shadows {x v} : (s.setSlot x v).shadows = s.shadows := rfl
@[simp] theorem State.setSlot_units {x v} : (s.setSlot x v).units = s.units := rfl
@[simp] theorem State.setSlot_due {x v} : (s.setSlot x v).due = s.due := rfl
@[simp] theorem State.setSlot_out {x v} : (s.setSlot x v).out = s.out := rfl
@[simp] theorem State.setSlot_mem {x v} : (s.setSlot x v).mem = s.mem := rfl
@[simp] theorem State.setSlot_dram {x v} : (s.setSlot x v).dram = s.dram := rfl
@[simp] theorem State.setSlot_cores {x v} : (s.setSlot x v).cores = s.cores := rfl
@[simp] theorem State.setSlot_dies {x v} : (s.setSlot x v).dies = s.dies := rfl
@[simp] theorem State.setSlot_flt {x v} : (s.setSlot x v).flt = s.flt := rfl
@[simp] theorem State.setSlot_hitch {x v} : (s.setSlot x v).hitch = s.hitch := rfl
@[simp] theorem State.setSlot_groom {x v} : (s.setSlot x v).groom = s.groom := rfl
@[simp] theorem State.setSlot_therm {x v} : (s.setSlot x v).therm = s.therm := rfl
@[simp] theorem State.setSlot_power {x v} : (s.setSlot x v).power = s.power := rfl
@[simp] theorem State.setSlot_sec {x v} : (s.setSlot x v).sec = s.sec := rfl
@[simp] theorem State.setSlot_link {x v} : (s.setSlot x v).link = s.link := rfl
@[simp] theorem State.setSlot_snap {x v} : (s.setSlot x v).snap = s.snap := rfl
@[simp] theorem State.setSlot_stb {x v} : (s.setSlot x v).stb = s.stb := rfl
@[simp] theorem State.setSlot_bln {x v} : (s.setSlot x v).bln = s.bln := rfl
@[simp] theorem State.setSlot_edu {x v} : (s.setSlot x v).edu = s.edu := rfl
@[simp] theorem State.setSlot_las {x v} : (s.setSlot x v).las = s.las := rfl
@[simp] theorem State.setSlot_cal {x v} : (s.setSlot x v).cal = s.cal := rfl
@[simp] theorem State.setSlot_fab {x v} : (s.setSlot x v).fab = s.fab := rfl
@[simp] theorem State.setSlot_brd {x v} : (s.setSlot x v).brd = s.brd := rfl
@[simp] theorem State.setSlot_pci {x v} : (s.setSlot x v).pci = s.pci := rfl
@[simp] theorem State.setSlot_mgmt {x v} : (s.setSlot x v).mgmt = s.mgmt := rfl
@[simp] theorem State.setSlot_rein {x v} : (s.setSlot x v).rein = s.rein := rfl
@[simp] theorem State.setSlot_sup {x v} : (s.setSlot x v).sup = s.sup := rfl
@[simp] theorem State.setSlot_toIssue {x v} : (s.setSlot x v).toIssue = s.toIssue := rfl
@[simp] theorem State.setSlot_freeCount {x v} : (s.setSlot x v).freeCount = s.freeCount := rfl
@[simp] theorem State.setSlot_nextId {x v} : (s.setSlot x v).nextId = s.nextId := rfl

/-! ### State.setPair -/

@[simp] theorem State.setPair_pending {k v} : (s.setPair k v).pending = s.pending := rfl
@[simp] theorem State.setPair_clk {k v} : (s.setPair k v).clk = s.clk := rfl
@[simp] theorem State.setPair_sync {k v} : (s.setPair k v).sync = s.sync := rfl
@[simp] theorem State.setPair_regs {k v} : (s.setPair k v).regs = s.regs := rfl
@[simp] theorem State.setPair_live {k v} : (s.setPair k v).live = s.live := rfl
@[simp] theorem State.setPair_staged {k v} : (s.setPair k v).staged = s.staged := rfl
@[simp] theorem State.setPair_shadows {k v} : (s.setPair k v).shadows = s.shadows := rfl
@[simp] theorem State.setPair_units {k v} : (s.setPair k v).units = s.units := rfl
@[simp] theorem State.setPair_due {k v} : (s.setPair k v).due = s.due := rfl
@[simp] theorem State.setPair_out {k v} : (s.setPair k v).out = s.out := rfl
@[simp] theorem State.setPair_mem {k v} : (s.setPair k v).mem = s.mem := rfl
@[simp] theorem State.setPair_dram {k v} : (s.setPair k v).dram = s.dram := rfl
@[simp] theorem State.setPair_cores {k v} : (s.setPair k v).cores = s.cores := rfl
@[simp] theorem State.setPair_dies {k v} : (s.setPair k v).dies = s.dies := rfl
@[simp] theorem State.setPair_flt {k v} : (s.setPair k v).flt = s.flt := rfl
@[simp] theorem State.setPair_hitch {k v} : (s.setPair k v).hitch = s.hitch := rfl
@[simp] theorem State.setPair_groom {k v} : (s.setPair k v).groom = s.groom := rfl
@[simp] theorem State.setPair_therm {k v} : (s.setPair k v).therm = s.therm := rfl
@[simp] theorem State.setPair_power {k v} : (s.setPair k v).power = s.power := rfl
@[simp] theorem State.setPair_sec {k v} : (s.setPair k v).sec = s.sec := rfl
@[simp] theorem State.setPair_link {k v} : (s.setPair k v).link = s.link := rfl
@[simp] theorem State.setPair_snap {k v} : (s.setPair k v).snap = s.snap := rfl
@[simp] theorem State.setPair_stb {k v} : (s.setPair k v).stb = s.stb := rfl
@[simp] theorem State.setPair_bln {k v} : (s.setPair k v).bln = s.bln := rfl
@[simp] theorem State.setPair_edu {k v} : (s.setPair k v).edu = s.edu := rfl
@[simp] theorem State.setPair_las {k v} : (s.setPair k v).las = s.las := rfl
@[simp] theorem State.setPair_cal {k v} : (s.setPair k v).cal = s.cal := rfl
@[simp] theorem State.setPair_fab {k v} : (s.setPair k v).fab = s.fab := rfl
@[simp] theorem State.setPair_brd {k v} : (s.setPair k v).brd = s.brd := rfl
@[simp] theorem State.setPair_pci {k v} : (s.setPair k v).pci = s.pci := rfl
@[simp] theorem State.setPair_mgmt {k v} : (s.setPair k v).mgmt = s.mgmt := rfl
@[simp] theorem State.setPair_rein {k v} : (s.setPair k v).rein = s.rein := rfl
@[simp] theorem State.setPair_sup {k v} : (s.setPair k v).sup = s.sup := rfl
@[simp] theorem State.setPair_toIssue {k v} : (s.setPair k v).toIssue = s.toIssue := rfl
@[simp] theorem State.setPair_freeCount {k v} : (s.setPair k v).freeCount = s.freeCount := rfl
@[simp] theorem State.setPair_nextId {k v} : (s.setPair k v).nextId = s.nextId := rfl

/-! ### State.setLane -/

@[simp] theorem State.setLane_pending {b l v} : (s.setLane b l v).pending = s.pending := rfl
@[simp] theorem State.setLane_clk {b l v} : (s.setLane b l v).clk = s.clk := rfl
@[simp] theorem State.setLane_sync {b l v} : (s.setLane b l v).sync = s.sync := rfl
@[simp] theorem State.setLane_regs {b l v} : (s.setLane b l v).regs = s.regs := rfl
@[simp] theorem State.setLane_live {b l v} : (s.setLane b l v).live = s.live := rfl
@[simp] theorem State.setLane_staged {b l v} : (s.setLane b l v).staged = s.staged := rfl
@[simp] theorem State.setLane_shadows {b l v} : (s.setLane b l v).shadows = s.shadows := rfl
@[simp] theorem State.setLane_units {b l v} : (s.setLane b l v).units = s.units := rfl
@[simp] theorem State.setLane_due {b l v} : (s.setLane b l v).due = s.due := rfl
@[simp] theorem State.setLane_out {b l v} : (s.setLane b l v).out = s.out := rfl
@[simp] theorem State.setLane_mem {b l v} : (s.setLane b l v).mem = s.mem := rfl
@[simp] theorem State.setLane_dram {b l v} : (s.setLane b l v).dram = s.dram := rfl
@[simp] theorem State.setLane_cores {b l v} : (s.setLane b l v).cores = s.cores := rfl
@[simp] theorem State.setLane_dies {b l v} : (s.setLane b l v).dies = s.dies := rfl
@[simp] theorem State.setLane_flt {b l v} : (s.setLane b l v).flt = s.flt := rfl
@[simp] theorem State.setLane_hitch {b l v} : (s.setLane b l v).hitch = s.hitch := rfl
@[simp] theorem State.setLane_groom {b l v} : (s.setLane b l v).groom = s.groom := rfl
@[simp] theorem State.setLane_therm {b l v} : (s.setLane b l v).therm = s.therm := rfl
@[simp] theorem State.setLane_power {b l v} : (s.setLane b l v).power = s.power := rfl
@[simp] theorem State.setLane_sec {b l v} : (s.setLane b l v).sec = s.sec := rfl
@[simp] theorem State.setLane_link {b l v} : (s.setLane b l v).link = s.link := rfl
@[simp] theorem State.setLane_snap {b l v} : (s.setLane b l v).snap = s.snap := rfl
@[simp] theorem State.setLane_stb {b l v} : (s.setLane b l v).stb = s.stb := rfl
@[simp] theorem State.setLane_bln {b l v} : (s.setLane b l v).bln = s.bln := rfl
@[simp] theorem State.setLane_edu {b l v} : (s.setLane b l v).edu = s.edu := rfl
@[simp] theorem State.setLane_drg {b l v} : (s.setLane b l v).drg = s.drg := rfl
@[simp] theorem State.setLane_las {b l v} : (s.setLane b l v).las = s.las := rfl
@[simp] theorem State.setLane_cal {b l v} : (s.setLane b l v).cal = s.cal := rfl
@[simp] theorem State.setLane_fab {b l v} : (s.setLane b l v).fab = s.fab := rfl
@[simp] theorem State.setLane_pci {b l v} : (s.setLane b l v).pci = s.pci := rfl
@[simp] theorem State.setLane_mgmt {b l v} : (s.setLane b l v).mgmt = s.mgmt := rfl
@[simp] theorem State.setLane_rein {b l v} : (s.setLane b l v).rein = s.rein := rfl
@[simp] theorem State.setLane_sup {b l v} : (s.setLane b l v).sup = s.sup := rfl
@[simp] theorem State.setLane_toIssue {b l v} : (s.setLane b l v).toIssue = s.toIssue := rfl
@[simp] theorem State.setLane_freeCount {b l v} : (s.setLane b l v).freeCount = s.freeCount := rfl
@[simp] theorem State.setLane_nextId {b l v} : (s.setLane b l v).nextId = s.nextId := rfl

/-! ### State.setStrand -/

@[simp] theorem State.setStrand_pending {b n v} : (s.setStrand b n v).pending = s.pending := rfl
@[simp] theorem State.setStrand_clk {b n v} : (s.setStrand b n v).clk = s.clk := rfl
@[simp] theorem State.setStrand_sync {b n v} : (s.setStrand b n v).sync = s.sync := rfl
@[simp] theorem State.setStrand_regs {b n v} : (s.setStrand b n v).regs = s.regs := rfl
@[simp] theorem State.setStrand_live {b n v} : (s.setStrand b n v).live = s.live := rfl
@[simp] theorem State.setStrand_staged {b n v} : (s.setStrand b n v).staged = s.staged := rfl
@[simp] theorem State.setStrand_shadows {b n v} : (s.setStrand b n v).shadows = s.shadows := rfl
@[simp] theorem State.setStrand_units {b n v} : (s.setStrand b n v).units = s.units := rfl
@[simp] theorem State.setStrand_due {b n v} : (s.setStrand b n v).due = s.due := rfl
@[simp] theorem State.setStrand_out {b n v} : (s.setStrand b n v).out = s.out := rfl
@[simp] theorem State.setStrand_mem {b n v} : (s.setStrand b n v).mem = s.mem := rfl
@[simp] theorem State.setStrand_dram {b n v} : (s.setStrand b n v).dram = s.dram := rfl
@[simp] theorem State.setStrand_cores {b n v} : (s.setStrand b n v).cores = s.cores := rfl
@[simp] theorem State.setStrand_dies {b n v} : (s.setStrand b n v).dies = s.dies := rfl
@[simp] theorem State.setStrand_flt {b n v} : (s.setStrand b n v).flt = s.flt := rfl
@[simp] theorem State.setStrand_hitch {b n v} : (s.setStrand b n v).hitch = s.hitch := rfl
@[simp] theorem State.setStrand_groom {b n v} : (s.setStrand b n v).groom = s.groom := rfl
@[simp] theorem State.setStrand_therm {b n v} : (s.setStrand b n v).therm = s.therm := rfl
@[simp] theorem State.setStrand_power {b n v} : (s.setStrand b n v).power = s.power := rfl
@[simp] theorem State.setStrand_sec {b n v} : (s.setStrand b n v).sec = s.sec := rfl
@[simp] theorem State.setStrand_link {b n v} : (s.setStrand b n v).link = s.link := rfl
@[simp] theorem State.setStrand_snap {b n v} : (s.setStrand b n v).snap = s.snap := rfl
@[simp] theorem State.setStrand_stb {b n v} : (s.setStrand b n v).stb = s.stb := rfl
@[simp] theorem State.setStrand_bln {b n v} : (s.setStrand b n v).bln = s.bln := rfl
@[simp] theorem State.setStrand_edu {b n v} : (s.setStrand b n v).edu = s.edu := rfl
@[simp] theorem State.setStrand_drg {b n v} : (s.setStrand b n v).drg = s.drg := rfl
@[simp] theorem State.setStrand_las {b n v} : (s.setStrand b n v).las = s.las := rfl
@[simp] theorem State.setStrand_cal {b n v} : (s.setStrand b n v).cal = s.cal := rfl
@[simp] theorem State.setStrand_fab {b n v} : (s.setStrand b n v).fab = s.fab := rfl
@[simp] theorem State.setStrand_pci {b n v} : (s.setStrand b n v).pci = s.pci := rfl
@[simp] theorem State.setStrand_mgmt {b n v} : (s.setStrand b n v).mgmt = s.mgmt := rfl
@[simp] theorem State.setStrand_rein {b n v} : (s.setStrand b n v).rein = s.rein := rfl
@[simp] theorem State.setStrand_sup {b n v} : (s.setStrand b n v).sup = s.sup := rfl
@[simp] theorem State.setStrand_toIssue {b n v} : (s.setStrand b n v).toIssue = s.toIssue := rfl
@[simp] theorem State.setStrand_freeCount {b n v} : (s.setStrand b n v).freeCount = s.freeCount := rfl
@[simp] theorem State.setStrand_nextId {b n v} : (s.setStrand b n v).nextId = s.nextId := rfl

/-! ### State.setRouting -/

@[simp] theorem State.setRouting_pending {r} : (s.setRouting r).pending = s.pending := rfl
@[simp] theorem State.setRouting_clk {r} : (s.setRouting r).clk = s.clk := rfl
@[simp] theorem State.setRouting_sync {r} : (s.setRouting r).sync = s.sync := rfl
@[simp] theorem State.setRouting_regs {r} : (s.setRouting r).regs = s.regs := rfl
@[simp] theorem State.setRouting_live {r} : (s.setRouting r).live = s.live := rfl
@[simp] theorem State.setRouting_staged {r} : (s.setRouting r).staged = s.staged := rfl
@[simp] theorem State.setRouting_shadows {r} : (s.setRouting r).shadows = s.shadows := rfl
@[simp] theorem State.setRouting_units {r} : (s.setRouting r).units = s.units := rfl
@[simp] theorem State.setRouting_due {r} : (s.setRouting r).due = s.due := rfl
@[simp] theorem State.setRouting_out {r} : (s.setRouting r).out = s.out := rfl
@[simp] theorem State.setRouting_mem {r} : (s.setRouting r).mem = s.mem := rfl
@[simp] theorem State.setRouting_dram {r} : (s.setRouting r).dram = s.dram := rfl
@[simp] theorem State.setRouting_cores {r} : (s.setRouting r).cores = s.cores := rfl
@[simp] theorem State.setRouting_dies {r} : (s.setRouting r).dies = s.dies := rfl
@[simp] theorem State.setRouting_flt {r} : (s.setRouting r).flt = s.flt := rfl
@[simp] theorem State.setRouting_hitch {r} : (s.setRouting r).hitch = s.hitch := rfl
@[simp] theorem State.setRouting_groom {r} : (s.setRouting r).groom = s.groom := rfl
@[simp] theorem State.setRouting_therm {r} : (s.setRouting r).therm = s.therm := rfl
@[simp] theorem State.setRouting_power {r} : (s.setRouting r).power = s.power := rfl
@[simp] theorem State.setRouting_sec {r} : (s.setRouting r).sec = s.sec := rfl
@[simp] theorem State.setRouting_link {r} : (s.setRouting r).link = s.link := rfl
@[simp] theorem State.setRouting_snap {r} : (s.setRouting r).snap = s.snap := rfl
@[simp] theorem State.setRouting_stb {r} : (s.setRouting r).stb = s.stb := rfl
@[simp] theorem State.setRouting_bln {r} : (s.setRouting r).bln = s.bln := rfl
@[simp] theorem State.setRouting_edu {r} : (s.setRouting r).edu = s.edu := rfl
@[simp] theorem State.setRouting_drg {r} : (s.setRouting r).drg = s.drg := rfl
@[simp] theorem State.setRouting_las {r} : (s.setRouting r).las = s.las := rfl
@[simp] theorem State.setRouting_cal {r} : (s.setRouting r).cal = s.cal := rfl
@[simp] theorem State.setRouting_brd {r} : (s.setRouting r).brd = s.brd := rfl
@[simp] theorem State.setRouting_pci {r} : (s.setRouting r).pci = s.pci := rfl
@[simp] theorem State.setRouting_mgmt {r} : (s.setRouting r).mgmt = s.mgmt := rfl
@[simp] theorem State.setRouting_rein {r} : (s.setRouting r).rein = s.rein := rfl
@[simp] theorem State.setRouting_sup {r} : (s.setRouting r).sup = s.sup := rfl
@[simp] theorem State.setRouting_toIssue {r} : (s.setRouting r).toIssue = s.toIssue := rfl
@[simp] theorem State.setRouting_freeCount {r} : (s.setRouting r).freeCount = s.freeCount := rfl
@[simp] theorem State.setRouting_nextId {r} : (s.setRouting r).nextId = s.nextId := rfl

/-! ### State.setStream -/

@[simp] theorem State.setStream_pending {i v} : (s.setStream i v).pending = s.pending := rfl
@[simp] theorem State.setStream_clk {i v} : (s.setStream i v).clk = s.clk := rfl
@[simp] theorem State.setStream_sync {i v} : (s.setStream i v).sync = s.sync := rfl
@[simp] theorem State.setStream_regs {i v} : (s.setStream i v).regs = s.regs := rfl
@[simp] theorem State.setStream_live {i v} : (s.setStream i v).live = s.live := rfl
@[simp] theorem State.setStream_staged {i v} : (s.setStream i v).staged = s.staged := rfl
@[simp] theorem State.setStream_shadows {i v} : (s.setStream i v).shadows = s.shadows := rfl
@[simp] theorem State.setStream_units {i v} : (s.setStream i v).units = s.units := rfl
@[simp] theorem State.setStream_due {i v} : (s.setStream i v).due = s.due := rfl
@[simp] theorem State.setStream_out {i v} : (s.setStream i v).out = s.out := rfl
@[simp] theorem State.setStream_mem {i v} : (s.setStream i v).mem = s.mem := rfl
@[simp] theorem State.setStream_dram {i v} : (s.setStream i v).dram = s.dram := rfl
@[simp] theorem State.setStream_cores {i v} : (s.setStream i v).cores = s.cores := rfl
@[simp] theorem State.setStream_dies {i v} : (s.setStream i v).dies = s.dies := rfl
@[simp] theorem State.setStream_flt {i v} : (s.setStream i v).flt = s.flt := rfl
@[simp] theorem State.setStream_hitch {i v} : (s.setStream i v).hitch = s.hitch := rfl
@[simp] theorem State.setStream_groom {i v} : (s.setStream i v).groom = s.groom := rfl
@[simp] theorem State.setStream_therm {i v} : (s.setStream i v).therm = s.therm := rfl
@[simp] theorem State.setStream_power {i v} : (s.setStream i v).power = s.power := rfl
@[simp] theorem State.setStream_sec {i v} : (s.setStream i v).sec = s.sec := rfl
@[simp] theorem State.setStream_link {i v} : (s.setStream i v).link = s.link := rfl
@[simp] theorem State.setStream_snap {i v} : (s.setStream i v).snap = s.snap := rfl
@[simp] theorem State.setStream_stb {i v} : (s.setStream i v).stb = s.stb := rfl
@[simp] theorem State.setStream_bln {i v} : (s.setStream i v).bln = s.bln := rfl
@[simp] theorem State.setStream_edu {i v} : (s.setStream i v).edu = s.edu := rfl
@[simp] theorem State.setStream_drg {i v} : (s.setStream i v).drg = s.drg := rfl
@[simp] theorem State.setStream_las {i v} : (s.setStream i v).las = s.las := rfl
@[simp] theorem State.setStream_cal {i v} : (s.setStream i v).cal = s.cal := rfl
@[simp] theorem State.setStream_brd {i v} : (s.setStream i v).brd = s.brd := rfl
@[simp] theorem State.setStream_pci {i v} : (s.setStream i v).pci = s.pci := rfl
@[simp] theorem State.setStream_mgmt {i v} : (s.setStream i v).mgmt = s.mgmt := rfl
@[simp] theorem State.setStream_rein {i v} : (s.setStream i v).rein = s.rein := rfl
@[simp] theorem State.setStream_sup {i v} : (s.setStream i v).sup = s.sup := rfl
@[simp] theorem State.setStream_toIssue {i v} : (s.setStream i v).toIssue = s.toIssue := rfl
@[simp] theorem State.setStream_freeCount {i v} : (s.setStream i v).freeCount = s.freeCount := rfl
@[simp] theorem State.setStream_nextId {i v} : (s.setStream i v).nextId = s.nextId := rfl

/-! ### State.setLease -/

@[simp] theorem State.setLease_pending {i v} : (s.setLease i v).pending = s.pending := rfl
@[simp] theorem State.setLease_clk {i v} : (s.setLease i v).clk = s.clk := rfl
@[simp] theorem State.setLease_sync {i v} : (s.setLease i v).sync = s.sync := rfl
@[simp] theorem State.setLease_regs {i v} : (s.setLease i v).regs = s.regs := rfl
@[simp] theorem State.setLease_live {i v} : (s.setLease i v).live = s.live := rfl
@[simp] theorem State.setLease_staged {i v} : (s.setLease i v).staged = s.staged := rfl
@[simp] theorem State.setLease_shadows {i v} : (s.setLease i v).shadows = s.shadows := rfl
@[simp] theorem State.setLease_units {i v} : (s.setLease i v).units = s.units := rfl
@[simp] theorem State.setLease_due {i v} : (s.setLease i v).due = s.due := rfl
@[simp] theorem State.setLease_out {i v} : (s.setLease i v).out = s.out := rfl
@[simp] theorem State.setLease_mem {i v} : (s.setLease i v).mem = s.mem := rfl
@[simp] theorem State.setLease_dram {i v} : (s.setLease i v).dram = s.dram := rfl
@[simp] theorem State.setLease_cores {i v} : (s.setLease i v).cores = s.cores := rfl
@[simp] theorem State.setLease_dies {i v} : (s.setLease i v).dies = s.dies := rfl
@[simp] theorem State.setLease_flt {i v} : (s.setLease i v).flt = s.flt := rfl
@[simp] theorem State.setLease_hitch {i v} : (s.setLease i v).hitch = s.hitch := rfl
@[simp] theorem State.setLease_groom {i v} : (s.setLease i v).groom = s.groom := rfl
@[simp] theorem State.setLease_therm {i v} : (s.setLease i v).therm = s.therm := rfl
@[simp] theorem State.setLease_power {i v} : (s.setLease i v).power = s.power := rfl
@[simp] theorem State.setLease_sec {i v} : (s.setLease i v).sec = s.sec := rfl
@[simp] theorem State.setLease_link {i v} : (s.setLease i v).link = s.link := rfl
@[simp] theorem State.setLease_snap {i v} : (s.setLease i v).snap = s.snap := rfl
@[simp] theorem State.setLease_stb {i v} : (s.setLease i v).stb = s.stb := rfl
@[simp] theorem State.setLease_bln {i v} : (s.setLease i v).bln = s.bln := rfl
@[simp] theorem State.setLease_edu {i v} : (s.setLease i v).edu = s.edu := rfl
@[simp] theorem State.setLease_drg {i v} : (s.setLease i v).drg = s.drg := rfl
@[simp] theorem State.setLease_las {i v} : (s.setLease i v).las = s.las := rfl
@[simp] theorem State.setLease_cal {i v} : (s.setLease i v).cal = s.cal := rfl
@[simp] theorem State.setLease_brd {i v} : (s.setLease i v).brd = s.brd := rfl
@[simp] theorem State.setLease_pci {i v} : (s.setLease i v).pci = s.pci := rfl
@[simp] theorem State.setLease_mgmt {i v} : (s.setLease i v).mgmt = s.mgmt := rfl
@[simp] theorem State.setLease_rein {i v} : (s.setLease i v).rein = s.rein := rfl
@[simp] theorem State.setLease_sup {i v} : (s.setLease i v).sup = s.sup := rfl
@[simp] theorem State.setLease_toIssue {i v} : (s.setLease i v).toIssue = s.toIssue := rfl
@[simp] theorem State.setLease_freeCount {i v} : (s.setLease i v).freeCount = s.freeCount := rfl
@[simp] theorem State.setLease_nextId {i v} : (s.setLease i v).nextId = s.nextId := rfl

/-! ### State.setWindow -/

@[simp] theorem State.setWindow_pending {p v} : (s.setWindow p v).pending = s.pending := rfl
@[simp] theorem State.setWindow_clk {p v} : (s.setWindow p v).clk = s.clk := rfl
@[simp] theorem State.setWindow_sync {p v} : (s.setWindow p v).sync = s.sync := rfl
@[simp] theorem State.setWindow_regs {p v} : (s.setWindow p v).regs = s.regs := rfl
@[simp] theorem State.setWindow_live {p v} : (s.setWindow p v).live = s.live := rfl
@[simp] theorem State.setWindow_staged {p v} : (s.setWindow p v).staged = s.staged := rfl
@[simp] theorem State.setWindow_shadows {p v} : (s.setWindow p v).shadows = s.shadows := rfl
@[simp] theorem State.setWindow_units {p v} : (s.setWindow p v).units = s.units := rfl
@[simp] theorem State.setWindow_due {p v} : (s.setWindow p v).due = s.due := rfl
@[simp] theorem State.setWindow_out {p v} : (s.setWindow p v).out = s.out := rfl
@[simp] theorem State.setWindow_mem {p v} : (s.setWindow p v).mem = s.mem := rfl
@[simp] theorem State.setWindow_dram {p v} : (s.setWindow p v).dram = s.dram := rfl
@[simp] theorem State.setWindow_cores {p v} : (s.setWindow p v).cores = s.cores := rfl
@[simp] theorem State.setWindow_dies {p v} : (s.setWindow p v).dies = s.dies := rfl
@[simp] theorem State.setWindow_flt {p v} : (s.setWindow p v).flt = s.flt := rfl
@[simp] theorem State.setWindow_hitch {p v} : (s.setWindow p v).hitch = s.hitch := rfl
@[simp] theorem State.setWindow_groom {p v} : (s.setWindow p v).groom = s.groom := rfl
@[simp] theorem State.setWindow_therm {p v} : (s.setWindow p v).therm = s.therm := rfl
@[simp] theorem State.setWindow_power {p v} : (s.setWindow p v).power = s.power := rfl
@[simp] theorem State.setWindow_sec {p v} : (s.setWindow p v).sec = s.sec := rfl
@[simp] theorem State.setWindow_link {p v} : (s.setWindow p v).link = s.link := rfl
@[simp] theorem State.setWindow_snap {p v} : (s.setWindow p v).snap = s.snap := rfl
@[simp] theorem State.setWindow_stb {p v} : (s.setWindow p v).stb = s.stb := rfl
@[simp] theorem State.setWindow_bln {p v} : (s.setWindow p v).bln = s.bln := rfl
@[simp] theorem State.setWindow_edu {p v} : (s.setWindow p v).edu = s.edu := rfl
@[simp] theorem State.setWindow_drg {p v} : (s.setWindow p v).drg = s.drg := rfl
@[simp] theorem State.setWindow_las {p v} : (s.setWindow p v).las = s.las := rfl
@[simp] theorem State.setWindow_cal {p v} : (s.setWindow p v).cal = s.cal := rfl
@[simp] theorem State.setWindow_brd {p v} : (s.setWindow p v).brd = s.brd := rfl
@[simp] theorem State.setWindow_pci {p v} : (s.setWindow p v).pci = s.pci := rfl
@[simp] theorem State.setWindow_mgmt {p v} : (s.setWindow p v).mgmt = s.mgmt := rfl
@[simp] theorem State.setWindow_rein {p v} : (s.setWindow p v).rein = s.rein := rfl
@[simp] theorem State.setWindow_sup {p v} : (s.setWindow p v).sup = s.sup := rfl
@[simp] theorem State.setWindow_toIssue {p v} : (s.setWindow p v).toIssue = s.toIssue := rfl
@[simp] theorem State.setWindow_freeCount {p v} : (s.setWindow p v).freeCount = s.freeCount := rfl
@[simp] theorem State.setWindow_nextId {p v} : (s.setWindow p v).nextId = s.nextId := rfl

/-! ### State.setFlags -/

@[simp] theorem State.setFlags_pending {l} : (s.setFlags l).pending = s.pending := rfl
@[simp] theorem State.setFlags_clk {l} : (s.setFlags l).clk = s.clk := rfl
@[simp] theorem State.setFlags_sync {l} : (s.setFlags l).sync = s.sync := rfl
@[simp] theorem State.setFlags_regs {l} : (s.setFlags l).regs = s.regs := rfl
@[simp] theorem State.setFlags_live {l} : (s.setFlags l).live = s.live := rfl
@[simp] theorem State.setFlags_staged {l} : (s.setFlags l).staged = s.staged := rfl
@[simp] theorem State.setFlags_shadows {l} : (s.setFlags l).shadows = s.shadows := rfl
@[simp] theorem State.setFlags_units {l} : (s.setFlags l).units = s.units := rfl
@[simp] theorem State.setFlags_due {l} : (s.setFlags l).due = s.due := rfl
@[simp] theorem State.setFlags_out {l} : (s.setFlags l).out = s.out := rfl
@[simp] theorem State.setFlags_mem {l} : (s.setFlags l).mem = s.mem := rfl
@[simp] theorem State.setFlags_dram {l} : (s.setFlags l).dram = s.dram := rfl
@[simp] theorem State.setFlags_cores {l} : (s.setFlags l).cores = s.cores := rfl
@[simp] theorem State.setFlags_dies {l} : (s.setFlags l).dies = s.dies := rfl
@[simp] theorem State.setFlags_flt {l} : (s.setFlags l).flt = s.flt := rfl
@[simp] theorem State.setFlags_hitch {l} : (s.setFlags l).hitch = s.hitch := rfl
@[simp] theorem State.setFlags_groom {l} : (s.setFlags l).groom = s.groom := rfl
@[simp] theorem State.setFlags_therm {l} : (s.setFlags l).therm = s.therm := rfl
@[simp] theorem State.setFlags_power {l} : (s.setFlags l).power = s.power := rfl
@[simp] theorem State.setFlags_sec {l} : (s.setFlags l).sec = s.sec := rfl
@[simp] theorem State.setFlags_link {l} : (s.setFlags l).link = s.link := rfl
@[simp] theorem State.setFlags_snap {l} : (s.setFlags l).snap = s.snap := rfl
@[simp] theorem State.setFlags_stb {l} : (s.setFlags l).stb = s.stb := rfl
@[simp] theorem State.setFlags_bln {l} : (s.setFlags l).bln = s.bln := rfl
@[simp] theorem State.setFlags_edu {l} : (s.setFlags l).edu = s.edu := rfl
@[simp] theorem State.setFlags_drg {l} : (s.setFlags l).drg = s.drg := rfl
@[simp] theorem State.setFlags_las {l} : (s.setFlags l).las = s.las := rfl
@[simp] theorem State.setFlags_cal {l} : (s.setFlags l).cal = s.cal := rfl
@[simp] theorem State.setFlags_brd {l} : (s.setFlags l).brd = s.brd := rfl
@[simp] theorem State.setFlags_pci {l} : (s.setFlags l).pci = s.pci := rfl
@[simp] theorem State.setFlags_mgmt {l} : (s.setFlags l).mgmt = s.mgmt := rfl
@[simp] theorem State.setFlags_rein {l} : (s.setFlags l).rein = s.rein := rfl
@[simp] theorem State.setFlags_sup {l} : (s.setFlags l).sup = s.sup := rfl
@[simp] theorem State.setFlags_toIssue {l} : (s.setFlags l).toIssue = s.toIssue := rfl
@[simp] theorem State.setFlags_freeCount {l} : (s.setFlags l).freeCount = s.freeCount := rfl
@[simp] theorem State.setFlags_nextId {l} : (s.setFlags l).nextId = s.nextId := rfl

/-! ### State.setIngress -/

@[simp] theorem State.setIngress_pending {i v} : (s.setIngress i v).pending = s.pending := rfl
@[simp] theorem State.setIngress_clk {i v} : (s.setIngress i v).clk = s.clk := rfl
@[simp] theorem State.setIngress_sync {i v} : (s.setIngress i v).sync = s.sync := rfl
@[simp] theorem State.setIngress_regs {i v} : (s.setIngress i v).regs = s.regs := rfl
@[simp] theorem State.setIngress_live {i v} : (s.setIngress i v).live = s.live := rfl
@[simp] theorem State.setIngress_staged {i v} : (s.setIngress i v).staged = s.staged := rfl
@[simp] theorem State.setIngress_shadows {i v} : (s.setIngress i v).shadows = s.shadows := rfl
@[simp] theorem State.setIngress_units {i v} : (s.setIngress i v).units = s.units := rfl
@[simp] theorem State.setIngress_due {i v} : (s.setIngress i v).due = s.due := rfl
@[simp] theorem State.setIngress_out {i v} : (s.setIngress i v).out = s.out := rfl
@[simp] theorem State.setIngress_mem {i v} : (s.setIngress i v).mem = s.mem := rfl
@[simp] theorem State.setIngress_dram {i v} : (s.setIngress i v).dram = s.dram := rfl
@[simp] theorem State.setIngress_cores {i v} : (s.setIngress i v).cores = s.cores := rfl
@[simp] theorem State.setIngress_dies {i v} : (s.setIngress i v).dies = s.dies := rfl
@[simp] theorem State.setIngress_flt {i v} : (s.setIngress i v).flt = s.flt := rfl
@[simp] theorem State.setIngress_hitch {i v} : (s.setIngress i v).hitch = s.hitch := rfl
@[simp] theorem State.setIngress_groom {i v} : (s.setIngress i v).groom = s.groom := rfl
@[simp] theorem State.setIngress_therm {i v} : (s.setIngress i v).therm = s.therm := rfl
@[simp] theorem State.setIngress_power {i v} : (s.setIngress i v).power = s.power := rfl
@[simp] theorem State.setIngress_sec {i v} : (s.setIngress i v).sec = s.sec := rfl
@[simp] theorem State.setIngress_link {i v} : (s.setIngress i v).link = s.link := rfl
@[simp] theorem State.setIngress_snap {i v} : (s.setIngress i v).snap = s.snap := rfl
@[simp] theorem State.setIngress_stb {i v} : (s.setIngress i v).stb = s.stb := rfl
@[simp] theorem State.setIngress_bln {i v} : (s.setIngress i v).bln = s.bln := rfl
@[simp] theorem State.setIngress_edu {i v} : (s.setIngress i v).edu = s.edu := rfl
@[simp] theorem State.setIngress_drg {i v} : (s.setIngress i v).drg = s.drg := rfl
@[simp] theorem State.setIngress_las {i v} : (s.setIngress i v).las = s.las := rfl
@[simp] theorem State.setIngress_cal {i v} : (s.setIngress i v).cal = s.cal := rfl
@[simp] theorem State.setIngress_brd {i v} : (s.setIngress i v).brd = s.brd := rfl
@[simp] theorem State.setIngress_pci {i v} : (s.setIngress i v).pci = s.pci := rfl
@[simp] theorem State.setIngress_mgmt {i v} : (s.setIngress i v).mgmt = s.mgmt := rfl
@[simp] theorem State.setIngress_rein {i v} : (s.setIngress i v).rein = s.rein := rfl
@[simp] theorem State.setIngress_sup {i v} : (s.setIngress i v).sup = s.sup := rfl
@[simp] theorem State.setIngress_toIssue {i v} : (s.setIngress i v).toIssue = s.toIssue := rfl
@[simp] theorem State.setIngress_freeCount {i v} : (s.setIngress i v).freeCount = s.freeCount := rfl
@[simp] theorem State.setIngress_nextId {i v} : (s.setIngress i v).nextId = s.nextId := rfl

/-! ### State.setUplink -/

@[simp] theorem State.setUplink_pending {u v} : (s.setUplink u v).pending = s.pending := rfl
@[simp] theorem State.setUplink_clk {u v} : (s.setUplink u v).clk = s.clk := rfl
@[simp] theorem State.setUplink_sync {u v} : (s.setUplink u v).sync = s.sync := rfl
@[simp] theorem State.setUplink_regs {u v} : (s.setUplink u v).regs = s.regs := rfl
@[simp] theorem State.setUplink_live {u v} : (s.setUplink u v).live = s.live := rfl
@[simp] theorem State.setUplink_staged {u v} : (s.setUplink u v).staged = s.staged := rfl
@[simp] theorem State.setUplink_shadows {u v} : (s.setUplink u v).shadows = s.shadows := rfl
@[simp] theorem State.setUplink_units {u v} : (s.setUplink u v).units = s.units := rfl
@[simp] theorem State.setUplink_due {u v} : (s.setUplink u v).due = s.due := rfl
@[simp] theorem State.setUplink_out {u v} : (s.setUplink u v).out = s.out := rfl
@[simp] theorem State.setUplink_mem {u v} : (s.setUplink u v).mem = s.mem := rfl
@[simp] theorem State.setUplink_dram {u v} : (s.setUplink u v).dram = s.dram := rfl
@[simp] theorem State.setUplink_cores {u v} : (s.setUplink u v).cores = s.cores := rfl
@[simp] theorem State.setUplink_dies {u v} : (s.setUplink u v).dies = s.dies := rfl
@[simp] theorem State.setUplink_flt {u v} : (s.setUplink u v).flt = s.flt := rfl
@[simp] theorem State.setUplink_hitch {u v} : (s.setUplink u v).hitch = s.hitch := rfl
@[simp] theorem State.setUplink_groom {u v} : (s.setUplink u v).groom = s.groom := rfl
@[simp] theorem State.setUplink_therm {u v} : (s.setUplink u v).therm = s.therm := rfl
@[simp] theorem State.setUplink_power {u v} : (s.setUplink u v).power = s.power := rfl
@[simp] theorem State.setUplink_sec {u v} : (s.setUplink u v).sec = s.sec := rfl
@[simp] theorem State.setUplink_link {u v} : (s.setUplink u v).link = s.link := rfl
@[simp] theorem State.setUplink_snap {u v} : (s.setUplink u v).snap = s.snap := rfl
@[simp] theorem State.setUplink_stb {u v} : (s.setUplink u v).stb = s.stb := rfl
@[simp] theorem State.setUplink_bln {u v} : (s.setUplink u v).bln = s.bln := rfl
@[simp] theorem State.setUplink_edu {u v} : (s.setUplink u v).edu = s.edu := rfl
@[simp] theorem State.setUplink_drg {u v} : (s.setUplink u v).drg = s.drg := rfl
@[simp] theorem State.setUplink_las {u v} : (s.setUplink u v).las = s.las := rfl
@[simp] theorem State.setUplink_cal {u v} : (s.setUplink u v).cal = s.cal := rfl
@[simp] theorem State.setUplink_brd {u v} : (s.setUplink u v).brd = s.brd := rfl
@[simp] theorem State.setUplink_pci {u v} : (s.setUplink u v).pci = s.pci := rfl
@[simp] theorem State.setUplink_mgmt {u v} : (s.setUplink u v).mgmt = s.mgmt := rfl
@[simp] theorem State.setUplink_rein {u v} : (s.setUplink u v).rein = s.rein := rfl
@[simp] theorem State.setUplink_sup {u v} : (s.setUplink u v).sup = s.sup := rfl
@[simp] theorem State.setUplink_toIssue {u v} : (s.setUplink u v).toIssue = s.toIssue := rfl
@[simp] theorem State.setUplink_freeCount {u v} : (s.setUplink u v).freeCount = s.freeCount := rfl
@[simp] theorem State.setUplink_nextId {u v} : (s.setUplink u v).nextId = s.nextId := rfl

/-! ### State.setCart -/

@[simp] theorem State.setCart_pending {k v} : (s.setCart k v).pending = s.pending := rfl
@[simp] theorem State.setCart_clk {k v} : (s.setCart k v).clk = s.clk := rfl
@[simp] theorem State.setCart_sync {k v} : (s.setCart k v).sync = s.sync := rfl
@[simp] theorem State.setCart_regs {k v} : (s.setCart k v).regs = s.regs := rfl
@[simp] theorem State.setCart_live {k v} : (s.setCart k v).live = s.live := rfl
@[simp] theorem State.setCart_staged {k v} : (s.setCart k v).staged = s.staged := rfl
@[simp] theorem State.setCart_shadows {k v} : (s.setCart k v).shadows = s.shadows := rfl
@[simp] theorem State.setCart_units {k v} : (s.setCart k v).units = s.units := rfl
@[simp] theorem State.setCart_due {k v} : (s.setCart k v).due = s.due := rfl
@[simp] theorem State.setCart_out {k v} : (s.setCart k v).out = s.out := rfl
@[simp] theorem State.setCart_mem {k v} : (s.setCart k v).mem = s.mem := rfl
@[simp] theorem State.setCart_dram {k v} : (s.setCart k v).dram = s.dram := rfl
@[simp] theorem State.setCart_cores {k v} : (s.setCart k v).cores = s.cores := rfl
@[simp] theorem State.setCart_dies {k v} : (s.setCart k v).dies = s.dies := rfl
@[simp] theorem State.setCart_flt {k v} : (s.setCart k v).flt = s.flt := rfl
@[simp] theorem State.setCart_hitch {k v} : (s.setCart k v).hitch = s.hitch := rfl
@[simp] theorem State.setCart_groom {k v} : (s.setCart k v).groom = s.groom := rfl
@[simp] theorem State.setCart_therm {k v} : (s.setCart k v).therm = s.therm := rfl
@[simp] theorem State.setCart_power {k v} : (s.setCart k v).power = s.power := rfl
@[simp] theorem State.setCart_sec {k v} : (s.setCart k v).sec = s.sec := rfl
@[simp] theorem State.setCart_link {k v} : (s.setCart k v).link = s.link := rfl
@[simp] theorem State.setCart_snap {k v} : (s.setCart k v).snap = s.snap := rfl
@[simp] theorem State.setCart_stb {k v} : (s.setCart k v).stb = s.stb := rfl
@[simp] theorem State.setCart_bln {k v} : (s.setCart k v).bln = s.bln := rfl
@[simp] theorem State.setCart_edu {k v} : (s.setCart k v).edu = s.edu := rfl
@[simp] theorem State.setCart_drg {k v} : (s.setCart k v).drg = s.drg := rfl
@[simp] theorem State.setCart_cal {k v} : (s.setCart k v).cal = s.cal := rfl
@[simp] theorem State.setCart_fab {k v} : (s.setCart k v).fab = s.fab := rfl
@[simp] theorem State.setCart_brd {k v} : (s.setCart k v).brd = s.brd := rfl
@[simp] theorem State.setCart_pci {k v} : (s.setCart k v).pci = s.pci := rfl
@[simp] theorem State.setCart_mgmt {k v} : (s.setCart k v).mgmt = s.mgmt := rfl
@[simp] theorem State.setCart_rein {k v} : (s.setCart k v).rein = s.rein := rfl
@[simp] theorem State.setCart_sup {k v} : (s.setCart k v).sup = s.sup := rfl
@[simp] theorem State.setCart_toIssue {k v} : (s.setCart k v).toIssue = s.toIssue := rfl
@[simp] theorem State.setCart_freeCount {k v} : (s.setCart k v).freeCount = s.freeCount := rfl
@[simp] theorem State.setCart_nextId {k v} : (s.setCart k v).nextId = s.nextId := rfl

/-! ### State.setFeed -/

@[simp] theorem State.setFeed_pending {p v} : (s.setFeed p v).pending = s.pending := rfl
@[simp] theorem State.setFeed_clk {p v} : (s.setFeed p v).clk = s.clk := rfl
@[simp] theorem State.setFeed_sync {p v} : (s.setFeed p v).sync = s.sync := rfl
@[simp] theorem State.setFeed_regs {p v} : (s.setFeed p v).regs = s.regs := rfl
@[simp] theorem State.setFeed_live {p v} : (s.setFeed p v).live = s.live := rfl
@[simp] theorem State.setFeed_staged {p v} : (s.setFeed p v).staged = s.staged := rfl
@[simp] theorem State.setFeed_shadows {p v} : (s.setFeed p v).shadows = s.shadows := rfl
@[simp] theorem State.setFeed_units {p v} : (s.setFeed p v).units = s.units := rfl
@[simp] theorem State.setFeed_due {p v} : (s.setFeed p v).due = s.due := rfl
@[simp] theorem State.setFeed_out {p v} : (s.setFeed p v).out = s.out := rfl
@[simp] theorem State.setFeed_mem {p v} : (s.setFeed p v).mem = s.mem := rfl
@[simp] theorem State.setFeed_dram {p v} : (s.setFeed p v).dram = s.dram := rfl
@[simp] theorem State.setFeed_cores {p v} : (s.setFeed p v).cores = s.cores := rfl
@[simp] theorem State.setFeed_dies {p v} : (s.setFeed p v).dies = s.dies := rfl
@[simp] theorem State.setFeed_flt {p v} : (s.setFeed p v).flt = s.flt := rfl
@[simp] theorem State.setFeed_hitch {p v} : (s.setFeed p v).hitch = s.hitch := rfl
@[simp] theorem State.setFeed_groom {p v} : (s.setFeed p v).groom = s.groom := rfl
@[simp] theorem State.setFeed_therm {p v} : (s.setFeed p v).therm = s.therm := rfl
@[simp] theorem State.setFeed_power {p v} : (s.setFeed p v).power = s.power := rfl
@[simp] theorem State.setFeed_sec {p v} : (s.setFeed p v).sec = s.sec := rfl
@[simp] theorem State.setFeed_link {p v} : (s.setFeed p v).link = s.link := rfl
@[simp] theorem State.setFeed_snap {p v} : (s.setFeed p v).snap = s.snap := rfl
@[simp] theorem State.setFeed_stb {p v} : (s.setFeed p v).stb = s.stb := rfl
@[simp] theorem State.setFeed_bln {p v} : (s.setFeed p v).bln = s.bln := rfl
@[simp] theorem State.setFeed_edu {p v} : (s.setFeed p v).edu = s.edu := rfl
@[simp] theorem State.setFeed_drg {p v} : (s.setFeed p v).drg = s.drg := rfl
@[simp] theorem State.setFeed_cal {p v} : (s.setFeed p v).cal = s.cal := rfl
@[simp] theorem State.setFeed_fab {p v} : (s.setFeed p v).fab = s.fab := rfl
@[simp] theorem State.setFeed_brd {p v} : (s.setFeed p v).brd = s.brd := rfl
@[simp] theorem State.setFeed_pci {p v} : (s.setFeed p v).pci = s.pci := rfl
@[simp] theorem State.setFeed_mgmt {p v} : (s.setFeed p v).mgmt = s.mgmt := rfl
@[simp] theorem State.setFeed_rein {p v} : (s.setFeed p v).rein = s.rein := rfl
@[simp] theorem State.setFeed_sup {p v} : (s.setFeed p v).sup = s.sup := rfl
@[simp] theorem State.setFeed_toIssue {p v} : (s.setFeed p v).toIssue = s.toIssue := rfl
@[simp] theorem State.setFeed_freeCount {p v} : (s.setFeed p v).freeCount = s.freeCount := rfl
@[simp] theorem State.setFeed_nextId {p v} : (s.setFeed p v).nextId = s.nextId := rfl

/-! ### State.setQuad -/

@[simp] theorem State.setQuad_pending {q v} : (s.setQuad q v).pending = s.pending := rfl
@[simp] theorem State.setQuad_clk {q v} : (s.setQuad q v).clk = s.clk := rfl
@[simp] theorem State.setQuad_sync {q v} : (s.setQuad q v).sync = s.sync := rfl
@[simp] theorem State.setQuad_regs {q v} : (s.setQuad q v).regs = s.regs := rfl
@[simp] theorem State.setQuad_live {q v} : (s.setQuad q v).live = s.live := rfl
@[simp] theorem State.setQuad_staged {q v} : (s.setQuad q v).staged = s.staged := rfl
@[simp] theorem State.setQuad_shadows {q v} : (s.setQuad q v).shadows = s.shadows := rfl
@[simp] theorem State.setQuad_units {q v} : (s.setQuad q v).units = s.units := rfl
@[simp] theorem State.setQuad_due {q v} : (s.setQuad q v).due = s.due := rfl
@[simp] theorem State.setQuad_out {q v} : (s.setQuad q v).out = s.out := rfl
@[simp] theorem State.setQuad_mem {q v} : (s.setQuad q v).mem = s.mem := rfl
@[simp] theorem State.setQuad_dram {q v} : (s.setQuad q v).dram = s.dram := rfl
@[simp] theorem State.setQuad_cores {q v} : (s.setQuad q v).cores = s.cores := rfl
@[simp] theorem State.setQuad_dies {q v} : (s.setQuad q v).dies = s.dies := rfl
@[simp] theorem State.setQuad_flt {q v} : (s.setQuad q v).flt = s.flt := rfl
@[simp] theorem State.setQuad_hitch {q v} : (s.setQuad q v).hitch = s.hitch := rfl
@[simp] theorem State.setQuad_groom {q v} : (s.setQuad q v).groom = s.groom := rfl
@[simp] theorem State.setQuad_therm {q v} : (s.setQuad q v).therm = s.therm := rfl
@[simp] theorem State.setQuad_power {q v} : (s.setQuad q v).power = s.power := rfl
@[simp] theorem State.setQuad_sec {q v} : (s.setQuad q v).sec = s.sec := rfl
@[simp] theorem State.setQuad_link {q v} : (s.setQuad q v).link = s.link := rfl
@[simp] theorem State.setQuad_snap {q v} : (s.setQuad q v).snap = s.snap := rfl
@[simp] theorem State.setQuad_stb {q v} : (s.setQuad q v).stb = s.stb := rfl
@[simp] theorem State.setQuad_bln {q v} : (s.setQuad q v).bln = s.bln := rfl
@[simp] theorem State.setQuad_edu {q v} : (s.setQuad q v).edu = s.edu := rfl
@[simp] theorem State.setQuad_drg {q v} : (s.setQuad q v).drg = s.drg := rfl
@[simp] theorem State.setQuad_cal {q v} : (s.setQuad q v).cal = s.cal := rfl
@[simp] theorem State.setQuad_fab {q v} : (s.setQuad q v).fab = s.fab := rfl
@[simp] theorem State.setQuad_brd {q v} : (s.setQuad q v).brd = s.brd := rfl
@[simp] theorem State.setQuad_pci {q v} : (s.setQuad q v).pci = s.pci := rfl
@[simp] theorem State.setQuad_mgmt {q v} : (s.setQuad q v).mgmt = s.mgmt := rfl
@[simp] theorem State.setQuad_rein {q v} : (s.setQuad q v).rein = s.rein := rfl
@[simp] theorem State.setQuad_sup {q v} : (s.setQuad q v).sup = s.sup := rfl
@[simp] theorem State.setQuad_toIssue {q v} : (s.setQuad q v).toIssue = s.toIssue := rfl
@[simp] theorem State.setQuad_freeCount {q v} : (s.setQuad q v).freeCount = s.freeCount := rfl
@[simp] theorem State.setQuad_nextId {q v} : (s.setQuad q v).nextId = s.nextId := rfl

/-! ### State.setEdu -/

@[simp] theorem State.setEdu_pending {e} : (s.setEdu e).pending = s.pending := rfl
@[simp] theorem State.setEdu_clk {e} : (s.setEdu e).clk = s.clk := rfl
@[simp] theorem State.setEdu_sync {e} : (s.setEdu e).sync = s.sync := rfl
@[simp] theorem State.setEdu_regs {e} : (s.setEdu e).regs = s.regs := rfl
@[simp] theorem State.setEdu_live {e} : (s.setEdu e).live = s.live := rfl
@[simp] theorem State.setEdu_staged {e} : (s.setEdu e).staged = s.staged := rfl
@[simp] theorem State.setEdu_shadows {e} : (s.setEdu e).shadows = s.shadows := rfl
@[simp] theorem State.setEdu_units {e} : (s.setEdu e).units = s.units := rfl
@[simp] theorem State.setEdu_due {e} : (s.setEdu e).due = s.due := rfl
@[simp] theorem State.setEdu_out {e} : (s.setEdu e).out = s.out := rfl
@[simp] theorem State.setEdu_mem {e} : (s.setEdu e).mem = s.mem := rfl
@[simp] theorem State.setEdu_dram {e} : (s.setEdu e).dram = s.dram := rfl
@[simp] theorem State.setEdu_cores {e} : (s.setEdu e).cores = s.cores := rfl
@[simp] theorem State.setEdu_dies {e} : (s.setEdu e).dies = s.dies := rfl
@[simp] theorem State.setEdu_flt {e} : (s.setEdu e).flt = s.flt := rfl
@[simp] theorem State.setEdu_hitch {e} : (s.setEdu e).hitch = s.hitch := rfl
@[simp] theorem State.setEdu_groom {e} : (s.setEdu e).groom = s.groom := rfl
@[simp] theorem State.setEdu_therm {e} : (s.setEdu e).therm = s.therm := rfl
@[simp] theorem State.setEdu_power {e} : (s.setEdu e).power = s.power := rfl
@[simp] theorem State.setEdu_sec {e} : (s.setEdu e).sec = s.sec := rfl
@[simp] theorem State.setEdu_link {e} : (s.setEdu e).link = s.link := rfl
@[simp] theorem State.setEdu_snap {e} : (s.setEdu e).snap = s.snap := rfl
@[simp] theorem State.setEdu_stb {e} : (s.setEdu e).stb = s.stb := rfl
@[simp] theorem State.setEdu_bln {e} : (s.setEdu e).bln = s.bln := rfl
@[simp] theorem State.setEdu_drg {e} : (s.setEdu e).drg = s.drg := rfl
@[simp] theorem State.setEdu_las {e} : (s.setEdu e).las = s.las := rfl
@[simp] theorem State.setEdu_cal {e} : (s.setEdu e).cal = s.cal := rfl
@[simp] theorem State.setEdu_fab {e} : (s.setEdu e).fab = s.fab := rfl
@[simp] theorem State.setEdu_brd {e} : (s.setEdu e).brd = s.brd := rfl
@[simp] theorem State.setEdu_pci {e} : (s.setEdu e).pci = s.pci := rfl
@[simp] theorem State.setEdu_mgmt {e} : (s.setEdu e).mgmt = s.mgmt := rfl
@[simp] theorem State.setEdu_rein {e} : (s.setEdu e).rein = s.rein := rfl
@[simp] theorem State.setEdu_sup {e} : (s.setEdu e).sup = s.sup := rfl
@[simp] theorem State.setEdu_toIssue {e} : (s.setEdu e).toIssue = s.toIssue := rfl
@[simp] theorem State.setEdu_freeCount {e} : (s.setEdu e).freeCount = s.freeCount := rfl
@[simp] theorem State.setEdu_nextId {e} : (s.setEdu e).nextId = s.nextId := rfl

/-! ### State.setSensor -/

@[simp] theorem State.setSensor_pending {k v} : (s.setSensor k v).pending = s.pending := rfl
@[simp] theorem State.setSensor_clk {k v} : (s.setSensor k v).clk = s.clk := rfl
@[simp] theorem State.setSensor_sync {k v} : (s.setSensor k v).sync = s.sync := rfl
@[simp] theorem State.setSensor_regs {k v} : (s.setSensor k v).regs = s.regs := rfl
@[simp] theorem State.setSensor_live {k v} : (s.setSensor k v).live = s.live := rfl
@[simp] theorem State.setSensor_staged {k v} : (s.setSensor k v).staged = s.staged := rfl
@[simp] theorem State.setSensor_shadows {k v} : (s.setSensor k v).shadows = s.shadows := rfl
@[simp] theorem State.setSensor_units {k v} : (s.setSensor k v).units = s.units := rfl
@[simp] theorem State.setSensor_due {k v} : (s.setSensor k v).due = s.due := rfl
@[simp] theorem State.setSensor_out {k v} : (s.setSensor k v).out = s.out := rfl
@[simp] theorem State.setSensor_mem {k v} : (s.setSensor k v).mem = s.mem := rfl
@[simp] theorem State.setSensor_dram {k v} : (s.setSensor k v).dram = s.dram := rfl
@[simp] theorem State.setSensor_cores {k v} : (s.setSensor k v).cores = s.cores := rfl
@[simp] theorem State.setSensor_dies {k v} : (s.setSensor k v).dies = s.dies := rfl
@[simp] theorem State.setSensor_flt {k v} : (s.setSensor k v).flt = s.flt := rfl
@[simp] theorem State.setSensor_hitch {k v} : (s.setSensor k v).hitch = s.hitch := rfl
@[simp] theorem State.setSensor_groom {k v} : (s.setSensor k v).groom = s.groom := rfl
@[simp] theorem State.setSensor_power {k v} : (s.setSensor k v).power = s.power := rfl
@[simp] theorem State.setSensor_sec {k v} : (s.setSensor k v).sec = s.sec := rfl
@[simp] theorem State.setSensor_link {k v} : (s.setSensor k v).link = s.link := rfl
@[simp] theorem State.setSensor_snap {k v} : (s.setSensor k v).snap = s.snap := rfl
@[simp] theorem State.setSensor_stb {k v} : (s.setSensor k v).stb = s.stb := rfl
@[simp] theorem State.setSensor_bln {k v} : (s.setSensor k v).bln = s.bln := rfl
@[simp] theorem State.setSensor_edu {k v} : (s.setSensor k v).edu = s.edu := rfl
@[simp] theorem State.setSensor_drg {k v} : (s.setSensor k v).drg = s.drg := rfl
@[simp] theorem State.setSensor_las {k v} : (s.setSensor k v).las = s.las := rfl
@[simp] theorem State.setSensor_cal {k v} : (s.setSensor k v).cal = s.cal := rfl
@[simp] theorem State.setSensor_fab {k v} : (s.setSensor k v).fab = s.fab := rfl
@[simp] theorem State.setSensor_brd {k v} : (s.setSensor k v).brd = s.brd := rfl
@[simp] theorem State.setSensor_pci {k v} : (s.setSensor k v).pci = s.pci := rfl
@[simp] theorem State.setSensor_mgmt {k v} : (s.setSensor k v).mgmt = s.mgmt := rfl
@[simp] theorem State.setSensor_rein {k v} : (s.setSensor k v).rein = s.rein := rfl
@[simp] theorem State.setSensor_sup {k v} : (s.setSensor k v).sup = s.sup := rfl
@[simp] theorem State.setSensor_toIssue {k v} : (s.setSensor k v).toIssue = s.toIssue := rfl
@[simp] theorem State.setSensor_freeCount {k v} : (s.setSensor k v).freeCount = s.freeCount := rfl
@[simp] theorem State.setSensor_nextId {k v} : (s.setSensor k v).nextId = s.nextId := rfl

/-! ### State.setRate -/

@[simp] theorem State.setRate_pending {r v} : (s.setRate r v).pending = s.pending := rfl
@[simp] theorem State.setRate_clk {r v} : (s.setRate r v).clk = s.clk := rfl
@[simp] theorem State.setRate_sync {r v} : (s.setRate r v).sync = s.sync := rfl
@[simp] theorem State.setRate_regs {r v} : (s.setRate r v).regs = s.regs := rfl
@[simp] theorem State.setRate_live {r v} : (s.setRate r v).live = s.live := rfl
@[simp] theorem State.setRate_staged {r v} : (s.setRate r v).staged = s.staged := rfl
@[simp] theorem State.setRate_shadows {r v} : (s.setRate r v).shadows = s.shadows := rfl
@[simp] theorem State.setRate_units {r v} : (s.setRate r v).units = s.units := rfl
@[simp] theorem State.setRate_due {r v} : (s.setRate r v).due = s.due := rfl
@[simp] theorem State.setRate_out {r v} : (s.setRate r v).out = s.out := rfl
@[simp] theorem State.setRate_mem {r v} : (s.setRate r v).mem = s.mem := rfl
@[simp] theorem State.setRate_dram {r v} : (s.setRate r v).dram = s.dram := rfl
@[simp] theorem State.setRate_cores {r v} : (s.setRate r v).cores = s.cores := rfl
@[simp] theorem State.setRate_dies {r v} : (s.setRate r v).dies = s.dies := rfl
@[simp] theorem State.setRate_flt {r v} : (s.setRate r v).flt = s.flt := rfl
@[simp] theorem State.setRate_hitch {r v} : (s.setRate r v).hitch = s.hitch := rfl
@[simp] theorem State.setRate_groom {r v} : (s.setRate r v).groom = s.groom := rfl
@[simp] theorem State.setRate_power {r v} : (s.setRate r v).power = s.power := rfl
@[simp] theorem State.setRate_sec {r v} : (s.setRate r v).sec = s.sec := rfl
@[simp] theorem State.setRate_link {r v} : (s.setRate r v).link = s.link := rfl
@[simp] theorem State.setRate_snap {r v} : (s.setRate r v).snap = s.snap := rfl
@[simp] theorem State.setRate_stb {r v} : (s.setRate r v).stb = s.stb := rfl
@[simp] theorem State.setRate_bln {r v} : (s.setRate r v).bln = s.bln := rfl
@[simp] theorem State.setRate_edu {r v} : (s.setRate r v).edu = s.edu := rfl
@[simp] theorem State.setRate_drg {r v} : (s.setRate r v).drg = s.drg := rfl
@[simp] theorem State.setRate_las {r v} : (s.setRate r v).las = s.las := rfl
@[simp] theorem State.setRate_cal {r v} : (s.setRate r v).cal = s.cal := rfl
@[simp] theorem State.setRate_fab {r v} : (s.setRate r v).fab = s.fab := rfl
@[simp] theorem State.setRate_brd {r v} : (s.setRate r v).brd = s.brd := rfl
@[simp] theorem State.setRate_pci {r v} : (s.setRate r v).pci = s.pci := rfl
@[simp] theorem State.setRate_mgmt {r v} : (s.setRate r v).mgmt = s.mgmt := rfl
@[simp] theorem State.setRate_rein {r v} : (s.setRate r v).rein = s.rein := rfl
@[simp] theorem State.setRate_sup {r v} : (s.setRate r v).sup = s.sup := rfl
@[simp] theorem State.setRate_toIssue {r v} : (s.setRate r v).toIssue = s.toIssue := rfl
@[simp] theorem State.setRate_freeCount {r v} : (s.setRate r v).freeCount = s.freeCount := rfl
@[simp] theorem State.setRate_nextId {r v} : (s.setRate r v).nextId = s.nextId := rfl

/-! ### State.setStatus -/

@[simp] theorem State.setStatus_pending {n} : (s.setStatus n).pending = s.pending := rfl
@[simp] theorem State.setStatus_clk {n} : (s.setStatus n).clk = s.clk := rfl
@[simp] theorem State.setStatus_sync {n} : (s.setStatus n).sync = s.sync := rfl
@[simp] theorem State.setStatus_regs {n} : (s.setStatus n).regs = s.regs := rfl
@[simp] theorem State.setStatus_live {n} : (s.setStatus n).live = s.live := rfl
@[simp] theorem State.setStatus_staged {n} : (s.setStatus n).staged = s.staged := rfl
@[simp] theorem State.setStatus_shadows {n} : (s.setStatus n).shadows = s.shadows := rfl
@[simp] theorem State.setStatus_units {n} : (s.setStatus n).units = s.units := rfl
@[simp] theorem State.setStatus_due {n} : (s.setStatus n).due = s.due := rfl
@[simp] theorem State.setStatus_out {n} : (s.setStatus n).out = s.out := rfl
@[simp] theorem State.setStatus_mem {n} : (s.setStatus n).mem = s.mem := rfl
@[simp] theorem State.setStatus_dram {n} : (s.setStatus n).dram = s.dram := rfl
@[simp] theorem State.setStatus_cores {n} : (s.setStatus n).cores = s.cores := rfl
@[simp] theorem State.setStatus_dies {n} : (s.setStatus n).dies = s.dies := rfl
@[simp] theorem State.setStatus_flt {n} : (s.setStatus n).flt = s.flt := rfl
@[simp] theorem State.setStatus_hitch {n} : (s.setStatus n).hitch = s.hitch := rfl
@[simp] theorem State.setStatus_groom {n} : (s.setStatus n).groom = s.groom := rfl
@[simp] theorem State.setStatus_therm {n} : (s.setStatus n).therm = s.therm := rfl
@[simp] theorem State.setStatus_power {n} : (s.setStatus n).power = s.power := rfl
@[simp] theorem State.setStatus_link {n} : (s.setStatus n).link = s.link := rfl
@[simp] theorem State.setStatus_snap {n} : (s.setStatus n).snap = s.snap := rfl
@[simp] theorem State.setStatus_stb {n} : (s.setStatus n).stb = s.stb := rfl
@[simp] theorem State.setStatus_bln {n} : (s.setStatus n).bln = s.bln := rfl
@[simp] theorem State.setStatus_edu {n} : (s.setStatus n).edu = s.edu := rfl
@[simp] theorem State.setStatus_drg {n} : (s.setStatus n).drg = s.drg := rfl
@[simp] theorem State.setStatus_las {n} : (s.setStatus n).las = s.las := rfl
@[simp] theorem State.setStatus_cal {n} : (s.setStatus n).cal = s.cal := rfl
@[simp] theorem State.setStatus_fab {n} : (s.setStatus n).fab = s.fab := rfl
@[simp] theorem State.setStatus_brd {n} : (s.setStatus n).brd = s.brd := rfl
@[simp] theorem State.setStatus_pci {n} : (s.setStatus n).pci = s.pci := rfl
@[simp] theorem State.setStatus_mgmt {n} : (s.setStatus n).mgmt = s.mgmt := rfl
@[simp] theorem State.setStatus_rein {n} : (s.setStatus n).rein = s.rein := rfl
@[simp] theorem State.setStatus_sup {n} : (s.setStatus n).sup = s.sup := rfl
@[simp] theorem State.setStatus_toIssue {n} : (s.setStatus n).toIssue = s.toIssue := rfl
@[simp] theorem State.setStatus_freeCount {n} : (s.setStatus n).freeCount = s.freeCount := rfl
@[simp] theorem State.setStatus_nextId {n} : (s.setStatus n).nextId = s.nextId := rfl

/-! ### State.keyStatus -/

@[simp] theorem State.keyStatus_pending {n} : (s.keyStatus n).pending = s.pending := rfl
@[simp] theorem State.keyStatus_clk {n} : (s.keyStatus n).clk = s.clk := rfl
@[simp] theorem State.keyStatus_sync {n} : (s.keyStatus n).sync = s.sync := rfl
@[simp] theorem State.keyStatus_regs {n} : (s.keyStatus n).regs = s.regs := rfl
@[simp] theorem State.keyStatus_live {n} : (s.keyStatus n).live = s.live := rfl
@[simp] theorem State.keyStatus_staged {n} : (s.keyStatus n).staged = s.staged := rfl
@[simp] theorem State.keyStatus_shadows {n} : (s.keyStatus n).shadows = s.shadows := rfl
@[simp] theorem State.keyStatus_units {n} : (s.keyStatus n).units = s.units := rfl
@[simp] theorem State.keyStatus_due {n} : (s.keyStatus n).due = s.due := rfl
@[simp] theorem State.keyStatus_out {n} : (s.keyStatus n).out = s.out := rfl
@[simp] theorem State.keyStatus_mem {n} : (s.keyStatus n).mem = s.mem := rfl
@[simp] theorem State.keyStatus_dram {n} : (s.keyStatus n).dram = s.dram := rfl
@[simp] theorem State.keyStatus_cores {n} : (s.keyStatus n).cores = s.cores := rfl
@[simp] theorem State.keyStatus_dies {n} : (s.keyStatus n).dies = s.dies := rfl
@[simp] theorem State.keyStatus_flt {n} : (s.keyStatus n).flt = s.flt := rfl
@[simp] theorem State.keyStatus_hitch {n} : (s.keyStatus n).hitch = s.hitch := rfl
@[simp] theorem State.keyStatus_groom {n} : (s.keyStatus n).groom = s.groom := rfl
@[simp] theorem State.keyStatus_therm {n} : (s.keyStatus n).therm = s.therm := rfl
@[simp] theorem State.keyStatus_power {n} : (s.keyStatus n).power = s.power := rfl
@[simp] theorem State.keyStatus_link {n} : (s.keyStatus n).link = s.link := rfl
@[simp] theorem State.keyStatus_snap {n} : (s.keyStatus n).snap = s.snap := rfl
@[simp] theorem State.keyStatus_stb {n} : (s.keyStatus n).stb = s.stb := rfl
@[simp] theorem State.keyStatus_bln {n} : (s.keyStatus n).bln = s.bln := rfl
@[simp] theorem State.keyStatus_edu {n} : (s.keyStatus n).edu = s.edu := rfl
@[simp] theorem State.keyStatus_drg {n} : (s.keyStatus n).drg = s.drg := rfl
@[simp] theorem State.keyStatus_las {n} : (s.keyStatus n).las = s.las := rfl
@[simp] theorem State.keyStatus_cal {n} : (s.keyStatus n).cal = s.cal := rfl
@[simp] theorem State.keyStatus_fab {n} : (s.keyStatus n).fab = s.fab := rfl
@[simp] theorem State.keyStatus_brd {n} : (s.keyStatus n).brd = s.brd := rfl
@[simp] theorem State.keyStatus_pci {n} : (s.keyStatus n).pci = s.pci := rfl
@[simp] theorem State.keyStatus_mgmt {n} : (s.keyStatus n).mgmt = s.mgmt := rfl
@[simp] theorem State.keyStatus_rein {n} : (s.keyStatus n).rein = s.rein := rfl
@[simp] theorem State.keyStatus_sup {n} : (s.keyStatus n).sup = s.sup := rfl
@[simp] theorem State.keyStatus_toIssue {n} : (s.keyStatus n).toIssue = s.toIssue := rfl
@[simp] theorem State.keyStatus_freeCount {n} : (s.keyStatus n).freeCount = s.freeCount := rfl
@[simp] theorem State.keyStatus_nextId {n} : (s.keyStatus n).nextId = s.nextId := rfl

/-! ### State.setSync -/

@[simp] theorem State.setSync_pending {v} : (s.setSync v).pending = s.pending := rfl
@[simp] theorem State.setSync_clk {v} : (s.setSync v).clk = s.clk := rfl
@[simp] theorem State.setSync_regs {v} : (s.setSync v).regs = s.regs := rfl
@[simp] theorem State.setSync_live {v} : (s.setSync v).live = s.live := rfl
@[simp] theorem State.setSync_staged {v} : (s.setSync v).staged = s.staged := rfl
@[simp] theorem State.setSync_shadows {v} : (s.setSync v).shadows = s.shadows := rfl
@[simp] theorem State.setSync_units {v} : (s.setSync v).units = s.units := rfl
@[simp] theorem State.setSync_due {v} : (s.setSync v).due = s.due := rfl
@[simp] theorem State.setSync_out {v} : (s.setSync v).out = s.out := rfl
@[simp] theorem State.setSync_mem {v} : (s.setSync v).mem = s.mem := rfl
@[simp] theorem State.setSync_dram {v} : (s.setSync v).dram = s.dram := rfl
@[simp] theorem State.setSync_cores {v} : (s.setSync v).cores = s.cores := rfl
@[simp] theorem State.setSync_dies {v} : (s.setSync v).dies = s.dies := rfl
@[simp] theorem State.setSync_flt {v} : (s.setSync v).flt = s.flt := rfl
@[simp] theorem State.setSync_hitch {v} : (s.setSync v).hitch = s.hitch := rfl
@[simp] theorem State.setSync_groom {v} : (s.setSync v).groom = s.groom := rfl
@[simp] theorem State.setSync_therm {v} : (s.setSync v).therm = s.therm := rfl
@[simp] theorem State.setSync_power {v} : (s.setSync v).power = s.power := rfl
@[simp] theorem State.setSync_sec {v} : (s.setSync v).sec = s.sec := rfl
@[simp] theorem State.setSync_link {v} : (s.setSync v).link = s.link := rfl
@[simp] theorem State.setSync_snap {v} : (s.setSync v).snap = s.snap := rfl
@[simp] theorem State.setSync_stb {v} : (s.setSync v).stb = s.stb := rfl
@[simp] theorem State.setSync_bln {v} : (s.setSync v).bln = s.bln := rfl
@[simp] theorem State.setSync_edu {v} : (s.setSync v).edu = s.edu := rfl
@[simp] theorem State.setSync_drg {v} : (s.setSync v).drg = s.drg := rfl
@[simp] theorem State.setSync_las {v} : (s.setSync v).las = s.las := rfl
@[simp] theorem State.setSync_cal {v} : (s.setSync v).cal = s.cal := rfl
@[simp] theorem State.setSync_fab {v} : (s.setSync v).fab = s.fab := rfl
@[simp] theorem State.setSync_brd {v} : (s.setSync v).brd = s.brd := rfl
@[simp] theorem State.setSync_pci {v} : (s.setSync v).pci = s.pci := rfl
@[simp] theorem State.setSync_mgmt {v} : (s.setSync v).mgmt = s.mgmt := rfl
@[simp] theorem State.setSync_rein {v} : (s.setSync v).rein = s.rein := rfl
@[simp] theorem State.setSync_sup {v} : (s.setSync v).sup = s.sup := rfl
@[simp] theorem State.setSync_toIssue {v} : (s.setSync v).toIssue = s.toIssue := rfl
@[simp] theorem State.setSync_freeCount {v} : (s.setSync v).freeCount = s.freeCount := rfl
@[simp] theorem State.setSync_nextId {v} : (s.setSync v).nextId = s.nextId := rfl

/-! ### Reads after writes -/

@[simp] theorem State.reg_setReg_same (k : Nat) (w) : (s.setReg k w).reg k = w := Table.getD_put_same ..
theorem State.reg_setReg_other (k k' : Nat) (w) (h : k' ≠ k) : (s.setReg k w).reg k' = s.reg k' :=
  Table.getD_put_other _ _ _ _ _ h
@[simp] theorem State.core_setCore_same (c : CoreId) (v) : (s.setCore c v).core c = v := Table.getD_put_same ..
theorem State.core_setCore_other (c c' : CoreId) (v) (h : c'.gid ≠ c.gid) : (s.setCore c v).core c' = s.core c' :=
  Table.getD_put_other _ _ _ _ _ h
@[simp] theorem State.die_setDie_same (r : Fin 8) (v) : (s.setDie r v).die r = v := Table.getD_put_same ..
theorem State.die_setDie_other (r r' : Fin 8) (v) (h : r'.val ≠ r.val) : (s.setDie r v).die r' = s.die r' :=
  Table.getD_put_other _ _ _ _ _ h
@[simp] theorem State.stack_setStack_same (k : Fin 24) (v) : (s.setStack k v).stack k = v := Table.getD_put_same ..
theorem State.stack_setStack_other (k k' : Fin 24) (v) (h : k'.val ≠ k.val) : (s.setStack k v).stack k' = s.stack k' :=
  Table.getD_put_other _ _ _ _ _ h
@[simp] theorem State.ctr_setCtr_same (c : CounterId) (v) : (s.setCtr c v).ctr c = v := Table.getD_put_same ..
theorem State.ctr_setCtr_other (c c' : CounterId) (v) (h : c'.code ≠ c.code) : (s.setCtr c v).ctr c' = s.ctr c' :=
  Table.getD_put_other _ _ _ _ _ h
@[simp] theorem State.stall_setStall_same (i : Nat) (v) : (s.setStall i v).stall i = v := Table.getD_put_same ..
theorem State.stall_setStall_other (i i' : Nat) (v) (h : i' ≠ i) : (s.setStall i v).stall i' = s.stall i' :=
  Table.getD_put_other _ _ _ _ _ h
@[simp] theorem State.ring_setRing_same (r : RingId) (v) : (s.setRing r v).ring r = v := Table.getD_put_same ..
theorem State.ring_setRing_other (r r' : RingId) (v) (h : r'.number ≠ r.number) : (s.setRing r v).ring r' = s.ring r' :=
  Table.getD_put_other _ _ _ _ _ h
@[simp] theorem State.slot_setSlot_same (x : SlotId) (v) : (s.setSlot x v).slot x = v := Table.getD_put_same ..
theorem State.slot_setSlot_other (x x' : SlotId) (v) (h : x'.number ≠ x.number) : (s.setSlot x v).slot x' = s.slot x' :=
  Table.getD_put_other _ _ _ _ _ h
@[simp] theorem State.pair_setPair_same (k : Nat) (v) : (s.setPair k v).pair k = v := Table.getD_put_same ..
theorem State.pair_setPair_other (k k' : Nat) (v) (h : k' ≠ k) : (s.setPair k v).pair k' = s.pair k' :=
  Table.getD_put_other _ _ _ _ _ h
@[simp] theorem State.uplink_setUplink_same (u : Fin 16) (v) : (s.setUplink u v).uplink u = v := Table.getD_put_same ..
theorem State.uplink_setUplink_other (u u' : Fin 16) (v) (h : u'.val ≠ u.val) : (s.setUplink u v).uplink u' = s.uplink u' :=
  Table.getD_put_other _ _ _ _ _ h
@[simp] theorem State.cart_setCart_same (k : Fin 8) (v) : (s.setCart k v).cart k = v := Table.getD_put_same ..
theorem State.cart_setCart_other (k k' : Fin 8) (v) (h : k'.val ≠ k.val) : (s.setCart k v).cart k' = s.cart k' :=
  Table.getD_put_other _ _ _ _ _ h
@[simp] theorem State.feed_setFeed_same (p : Fin 16) (v) : (s.setFeed p v).feed p = v := Table.getD_put_same ..
theorem State.feed_setFeed_other (p p' : Fin 16) (v) (h : p'.val ≠ p.val) : (s.setFeed p v).feed p' = s.feed p' :=
  Table.getD_put_other _ _ _ _ _ h
@[simp] theorem State.quad_setQuad_same (q : Fin 4) (v) : (s.setQuad q v).quad q = v := Table.getD_put_same ..
theorem State.quad_setQuad_other (q q' : Fin 4) (v) (h : q'.val ≠ q.val) : (s.setQuad q v).quad q' = s.quad q' :=
  Table.getD_put_other _ _ _ _ _ h

@[simp] theorem State.regF_setReg_same (k : Nat) (w : Word) (hi lo : Nat) : (s.setReg k w).regF k hi lo = w.field hi lo := by
  simp [State.regF]
theorem State.regF_setReg_other (k k' : Nat) (w : Word) (hi lo : Nat) (h : k' ≠ k) :
    (s.setReg k w).regF k' hi lo = s.regF k' hi lo := by
  simp [State.regF, State.reg_setReg_other s k k' w h]
theorem State.liveF_setLive_same (k : Nat) (w : Word) (hi lo : Nat) : (s.setLive k w).liveF k hi lo = w.field hi lo := by
  simp [State.liveF, State.setLive]
@[simp] theorem State.reg_setLive (k k' : Nat) (w : Word) : (s.setLive k w).reg k' = s.reg k' := rfl
@[simp] theorem State.now_setReg (k : Nat) (w : Word) : (s.setReg k w).now = s.now := rfl

/-- What the fault stores, memory and queue of a state are after a register write. -/
theorem State.setRegF_eq (k hi lo v : Nat) : s.setRegF k hi lo v = s.setReg k ((s.reg k).setField hi lo v) := rfl

end Sys2Proof.Machine
end

