-- ==== Sys2Proof/Laws/Queue.lean ====
section
/-! SUPPORT. Reads after writes of the queues of a core. -/

namespace Sys2Proof.Machine

variable (s : State)

@[simp] theorem Core.queue_setQueue_same (k : Core) (q : Fin 4) (v : Queue) : (k.setQueue q v).queue q = v := by
  match q with
  | 0 => rfl
  | 1 => rfl
  | 2 => rfl
  | 3 => rfl

theorem Core.queue_setQueue_other (k : Core) (q r : Fin 4) (v : Queue) (h : r ≠ q) : (k.setQueue q v).queue r = k.queue r := by
  match q, r with
  | 0, 0 | 1, 1 | 2, 2 | 3, 3 => exact absurd rfl h
  | 0, 1 | 0, 2 | 0, 3 | 1, 0 | 1, 2 | 1, 3 | 2, 0 | 2, 1 | 2, 3 | 3, 0 | 3, 1 | 3, 2 => rfl

@[simp] theorem State.queue_setQueue_same (q : QueueId) (v : Queue) : (s.setQueue q v).queue q = v := by
  unfold State.setQueue State.queue
  rw [State.core_setCore_same, Core.queue_setQueue_same]

theorem CoreId.gid_inj {c d : CoreId} (h : c.gid = d.gid) : c = d := by
  obtain ⟨⟨a, ha⟩, ⟨b, hb⟩⟩ := c
  obtain ⟨⟨a', ha'⟩, ⟨b', hb'⟩⟩ := d
  unfold CoreId.gid at h
  simp only at h
  have e1 : a = a' := by omega
  have e2 : b = b' := by omega
  subst e1
  subst e2
  rfl

theorem State.queue_setQueue_other (q r : QueueId) (v : Queue) (h : r ≠ q) : (s.setQueue q v).queue r = s.queue r := by
  unfold State.setQueue State.queue
  by_cases hc : r.core = q.core
  · rw [hc, State.core_setCore_same]
    refine Core.queue_setQueue_other _ _ _ _ fun hq => h ?_
    cases r
    cases q
    simp_all
  · rw [State.core_setCore_other]
    exact fun e => hc (CoreId.gid_inj e)

end Sys2Proof.Machine
end

