-- ==== Sys2Proof/WellFormed.lean ====
section
/-! DEFINITION. Commands that spell an event of the module: the limits of operands that their types do not already hold. A command
outside them still has the meaning `exec` gives it. -/

namespace Sys2Proof

/-- The payload of a Rein packet is whole: 0 to 4 flits of four words, as its header says (R305). -/
def ReinPacket.wellFormed (p : ReinPacket) : Bool :=
  decide (p.w0.field 24 22 ≤ 4) && p.payload.length == 4 * p.w0.field 24 22

/-- A codeword carries at most 40 flits of four words (R396). -/
def Codeword.wellFormed : Codeword → Bool
  | .undecodable => true
  | .decoded _ _ flits _ => decide (flits.length ≤ 40) && flits.all fun f => f.length == 4

/-- A request of a function moves 1 to 4,096 bytes when it reads and 1 to 512 when it writes (R412). -/
def HostRequest.wellFormed : HostRequest → Bool
  | .read n => decide (1 ≤ n ∧ n ≤ 4096)
  | .write d => decide (1 ≤ d.length ∧ d.length ≤ 512)
  | _ => true

/-- The limits of a command's operands. -/
def Instr.wellFormed : Instr → Bool
  | .reinRead p _ => p.wellFormed
  | .reinWrite p _ => p.wellFormed
  | .reinBcast p _ _ => p.wellFormed
  | .codewordReceive _ _ cw _ => cw.wellFormed
  | .draughtPacketReceive _ flit _ => decide (16 ≤ flit.length ∧ flit.length ≤ 272)
  | .bar4Access fn off req _ => req.wellFormed && (fn == 0 || decide (off.toNat < 2 ^ 32))
  | .pcieLinkUp width speed _ => decide (1 ≤ width.val ∧ 1 ≤ speed.val)
  | .firmwareRepairCheck _ image => decide (1 ≤ image.length ∧ image.length ≤ 256) && image.all fun b => b.length == 4096
  | _ => true

end Sys2Proof
end

