-- ==== Sys2Proof/Tests/Slice0.lean ====
section
/-! SUPPORT. Tests of the model: ill-formed commands refused by WellFormed, states that meet the hypotheses of the statements, and small
tests whose results are read from the manual. -/

namespace Sys2Proof.Tests

set_option linter.unusedVariables false
set_option Elab.async false

open Sys2Proof Sys2Proof.Machine

/-- Core 0 of Reckoner 0, and its queue 0. -/
def core0 : CoreId := ⟨0, 0⟩
def queue0 : QueueId := ⟨core0, 0⟩

/-- The state after reset with core 0 ON and its queue 0 as given. -/
def withQueue (v : Queue) : State :=
  { State.reset with cores := [(0, { Core.reset with q0 := v })],
                     units := [(0, .reckoner 0, { UnitRec.reset (.reckoner 0) with st := .on }),
                               (16, .field 0 false, { UnitRec.reset (.field 0 false) with st := .on }),
                               (1024, .core core0, { UnitRec.reset (.core core0) with st := .on })],
                     dies := [(0, { Die.reset with westGait := 3, eastGait := 3 })] }

/-- A queue in service with one slot written. -/
def liveQueue : Queue := { Queue.reset with on := true, enable := true, ringLog2 := 4, cplLog2 := 6, tail := 1, st := .running }

/-- A descriptor of an opcode with the given words 2 up. -/
def descOf (op : Nat) (ws : List Word) : Fetched := ⟨BitVec.ofNat 32 (op * 2 ^ 24 + 1) :: 0 :: ws, 0, 0, []⟩

/-- A started descriptor. -/
def execOf (op : Nat) (ws : List Word) : Exec := ⟨descOf op ws, 0, 0, false, stOk, .zero, 0⟩

/-- Queue 0 with one started descriptor. -/
def running (op : Nat) (ws : List Word) : State := withQueue { liveQueue with exec := [execOf op ws], pc := 1 }

/-- The descriptor that queue 0 would fetch. -/
def next0 (s : State) : Fetched :=
  let v := s.queue queue0
  ⟨patchWords v.pc (wordsOf (s.mem.bytes (scratchAddr queue0.core (v.slotOffset v.pc)) 64)) v.loops, v.pc, v.slotOffset v.pc, v.loops⟩

/-- Core 0 with a started ATTEND and full meters; the header of a work area and the profile of a layer, and a state that holds both in core 0's scratch. -/
def headerWords : List Word := [0x80000001, 1, 1, 0, 0, 0, 0, 0, 0, 0, 0, 0, 0, 0, 0, 0]
def profileWords : List Word := [0x80880200, 0x00200020, 0, 0, 0, 0, 4, 0]
def richState : State :=
  (running opAttend []).setCore core0 { (running opAttend []).core core0 with txMeter := 0x200000, rxMeter := 0x200000 }
def attendState : State :=
  let s := richState
  { (s.poke (scratchAddr core0 0) (bytesOf headerWords)).poke (scratchAddr core0 4096) (bytesOf profileWords) with
    regs := s.regs.put Reg.BLN_PROF_LO 0x1000 |>.put Reg.BLN_PROF_HI 0xA00 |>.put Reg.STB_POOLp_CFG 16,
    stb := { s.stb with stalls := [(0, { Stall.reset with st := .decode })] } }


/-- Units put ON. -/
def turnOn (l : List UnitId) (s : State) : State := l.foldl (fun s u => s.setUnit u { s.unit u with st := .on }) s

/-- A load from module 1 that core 0's mover holds, and a state that may issue it. -/
def loadTxn : Txn := ⟨1, 0, 0, 1, 2 ^ 44, 32, [], none, false, .zero, false, true⟩
def moverState : State := turnOn [.bridle 1] { State.reset with cores := [(0, { Core.reset with mover := [loadTxn], txMeter := 60000, rxMeter := 60000 })] }
/-- The same with empty meters. -/
def brokeState : State := moverState.setCore core0 { moverState.core core0 with txMeter := 0, rxMeter := 0, meterAt := 0 }
/-- A state whose attention profiles are in a hole of the address map. -/
def noProfile : State := { richState with regs := richState.regs.put Reg.BLN_PROF_HI 0xFFF }
/-- An EDU in service with one batch, and a DISPATCH of one token with one selection in a given state of resolution. -/
def eduLayer : EduLayer := ⟨true, 0, 1, 1, 1, false, 1, 32, 0⟩
def eduBatch : EduBatch := ⟨0, 0, [], false, false, eduLayer, 0, false, 0, 0, 1, 0, 0, 0, none, false⟩
def eduDispatch (r : Resolution) : EduDispatch := ⟨0, queue0, 0, 0, eduLayer, 0, 0, 0, 0, [⟨false, [⟨0, 0, r⟩], false, false, false⟩]⟩
def eduState : State :=
  turnOn [.core core0, .edu] { State.reset with edu := { Edu.reset with batches := [eduBatch], dispatches := [eduDispatch .waiting] } }
def droppedEdu : State := { eduState with edu := { eduState.edu with dispatches := [eduDispatch .dropped] } }
def farEdu : State := { eduState with edu := { eduState.edu with dispatches := [{ eduDispatch .dropped with ret := 24576 }] } }
def readyEdu : State := { eduState with edu := { eduState.edu with batches := [{ eduBatch with readyAt := some 0 }] } }

/-- A pool of pages of which some are free, with one stall in PREFILL whose ATTEND asks for a page. -/
def pageState : State :=
  let s : State := { State.reset with regs := State.reset.regs.put Reg.STB_TPOOL_LO 0x100000, stb := { State.reset.stb with requests := [⟨queue0, 0, 0, 0, 0, 0⟩], refs := [(0, 1)], stalls := [(0, { Stall.reset with st := .decode, img := { Stall.reset.img with maxLen := 64 } })] } }
  (s.setTableWord (s.frameAddr 0) 0x80000001).setTableWord (s.frameAddr 1) 0x80000000

/-- A request to the Blinkers, and a state whose engine 0 is ON as given. -/
def blinkRequest : BlinkRequest := ⟨queue0, 0, 0, 0, 0, 0, 0, 0, 0, 0, 0, false⟩
def blinkState (x : Engine) : State := (turnOn [.engine 0] State.reset).setEngine 0 x

/-- A stall in a state; the command with an opcode and two operand words in ring 0 of a Stable in
service whose stall 0 is as given; its words; and the state once it is taken. -/
def stallIn (x : StallState) : Stall := { Stall.reset with st := x, img := { Stall.reset.img with maxLen := 64, promptLen := 1 } }
def ringState (op w2 w3 : Nat) (x : Stall) : State :=
  let s := turnOn [.stable] State.reset
  let ctl := crReg 0 Reg.STB_CRn_CTL
  let s : State := { s with clk := { s.clk with bnd := 1 },
                            regs := (s.regs.put (crReg 0 Reg.STB_CRn_BASE_LO) 0x10000).put ctl 0x80040000,
                            live := ((s.live.put ctl 0x80040000).put Reg.STB_SPILLc_EXT 1).put Reg.STB_SPILLc_LO 0x200000,
                            stb := { s.stb with stalls := [(0, x)], planDue := true, commands := [⟨0, 0, 0⟩] } }
  s.poke 0x10000 (bytesOf [BitVec.ofNat 32 (op * 2 ^ 24), 0, BitVec.ofNat 32 w2, BitVec.ofNat 32 w3])
def ringArgs (op w2 w3 : Nat) : CommandArgs :=
  ⟨0, 0, 0, [BitVec.ofNat 32 (op * 2 ^ 24), 0, BitVec.ofNat 32 w2, BitVec.ofNat 32 w3, 0, 0, 0, 0]⟩
def ringAfter (op w2 w3 : Nat) (x : Stall) : State :=
  let s := ringState op w2 w3 x
  ({ s with stb := { s.stb with commands := [] } }).setReg (crReg 0 Reg.STB_CRn_HEAD) 1


/-- A valid record image at 0x20000, and ring 0 with an ADMIT, SET or FORK of it that names stall 0. -/
def imageWords : List Word := [0, 0, 1, 0, 64, 0, 0, 0, 0, 0, 0, 0, 0x20000000] ++ List.replicate 51 0
def imageOperands (op : Nat) : Nat × Nat := if op = 9 then (1, 0x20000) else (0x20000, 0)
def imageState (op : Nat) (x : Stall) : State :=
  let s := ringState op (imageOperands op).1 (imageOperands op).2 x
  { s.poke 0x20000 (bytesOf imageWords) with
    regs := (s.regs.put Reg.STB_POOLp_CFG 0x8000000E).put Reg.STB_TPOOL_FRAMES 4,
    stb := { s.stb with stalls := [(0, x), (1, stallIn .decode)] } }
def imageArgs (op : Nat) : CommandArgs := ringArgs op (imageOperands op).1 (imageOperands op).2
def imageAfter (op : Nat) (x : Stall) : State :=
  let s := imageState op x
  ({ s with stb := { s.stb with commands := [] } }).setReg (crReg 0 Reg.STB_CRn_HEAD) 1
/-- A fork of a stall without pages succeeds, as a table frame is free. -/
theorem fork_empty : (imageAfter 9 Stall.reset).forkInto (imageArgs 9).job (imageOf imageWords) ((imageAfter 9 Stall.reset).stall (((imageArgs 9).w 2).field 13 0)) 0
    (((imageAfter 9 Stall.reset).entries ((imageAfter 9 Stall.reset).stall (((imageArgs 9).w 2).field 13 0))).filterMap fun e => (residentPage e.2.2).map fun n => (e.1, n)) =
    some (((imageAfter 9 Stall.reset).forkInto 0 (imageOf imageWords) ((imageAfter 9 Stall.reset).stall 1) 0 []).getD State.reset) := by
  have h : (((imageAfter 9 Stall.reset).entries ((imageAfter 9 Stall.reset).stall (((imageArgs 9).w 2).field 13 0))).filterMap fun e => (residentPage e.2.2).map fun n => (e.1, n)) = [] := by
    decide +kernel
  rw [h]
  have e : ∀ (u : State) (j : Nat) (m : StallImage) (y : Stall), u.allocFrame.1.isSome = true → ∃ v, u.forkInto j m y 0 [] = some v := by
    intro u j m y h
    unfold State.forkInto
    generalize u.allocFrame = p at h ⊢
    obtain ⟨o, v⟩ := p
    cases o with
    | none => cases h
    | some f => exact ⟨_, rfl⟩
  have ha : (imageAfter 9 Stall.reset).allocFrame.1.isSome = true := by
    have hn : (imageAfter 9 Stall.reset).freeFrames = [0, 1, 2, 3] := by decide +kernel
    unfold State.allocFrame State.pick
    rw [hn]
    have : ∃ f, [0, 1, 2, 3][(imageAfter 9 Stall.reset).takeFree.1 % 4]? = some f := ⟨_, List.getElem?_eq_getElem (Nat.mod_lt _ (by decide))⟩
    obtain ⟨f, hf⟩ := this
    simp only [List.isEmpty_cons, Bool.false_eq_true, if_false, List.length_cons, List.length_nil, Nat.zero_add, Nat.reduceAdd, hf, Option.isSome_some]
  obtain ⟨v, hv⟩ := e _ _ _ _ ha
  exact hv.trans (congrArg some (by
    have : (imageAfter 9 Stall.reset).forkInto 0 (imageOf imageWords) ((imageAfter 9 Stall.reset).stall 1) 0 [] = some v := hv
    rw [this]
    rfl))
/-- A stall whose drain is over. -/
def drainState (k : Option (StallImage × BitVec 48 × Nat × Nat)) : State :=
  let s := ringState 1 0 0 { stallIn .draining with kept := k }
  s.setCtr (.module ⟨s.regF Reg.STB_PLAN_CTL 31 24 % 256, Nat.mod_lt _ (by decide)⟩) { Counter.reset with value := 1 }

/-- A request of port 1 delivered to port 0, addressed to byte 0 of DRAM, and a module that holds it. -/
def delivered (kind : Nat) (data : List Byte) : Delivered := ⟨1, 0, ⟨kind, 1, 0, 0, data, 0, 0⟩⟩
def portState (e : Delivered) : State :=
  turnOn ((List.finRange 24).map .stack) { State.reset with drg := { State.reset.drg with inbox := [(0, [e])] } }
/-- A request of port 0 to port 1, numbered 7, and a packet sent on slot 0. -/
def drgRequest : DrgRequest := ⟨0, 1, some 7, ⟨1, 1, 0, 0, [], 0, 0⟩, 0, .none, false, false⟩
def sentPacket : Sent := ⟨0, ⟨1, 1, 0, 0, [], 0, 0⟩, 0, ⟨0, 0, false, 0⟩, 8, false, []⟩
/-- A LOAD of one word by port 0 as a line flit, the grant of its line to port 1, and a module that receives it. -/
def flitBytes : List Byte :=
  let ws : List Word := [0x10010000, 0, 0]
  bytesOf ws ++ bytesOf [crc32c (bytesOf ws)]
def lineSlot : SlotId := ⟨1, 0, true, 0⟩
def lineGrant : Grant := ⟨0, 0, 0, 1, 0, false⟩
def lineState : State :=
  turnOn [.port 1, .plane 0, .slot lineSlot] { State.reset with drg := { State.reset.drg with grants := [lineGrant] } }
/-- The attention state once its step is charged; one whose core waits for its routers; and one whose profile cannot be read, after that read. -/
def chargedState : State :=
  (((attendState.advance 1).refillFor core0).chargeCore core0 (rangeCharge (attendReads 0 ++ (execOf opAttend []).desc.attend.traffic (profileOf profileWords)
    (headerOf headerWords) []))).getD State.reset
def closedState : State := attendState.setCore core0 { attendState.core core0 with drain := true }
def unreadState : State :=
  let s := (noProfile.advance 0).refillFor core0
  (s.loadWords (s.accessor queue0) (s.attendProfileAt queue0 (execOf opAttend []).desc.attend) 8).2
/-- A core whose mover still holds 256 loads into scratch. -/
def hazardState : State :=
  { State.reset with cores := [(0, { Core.reset with mover := List.replicate 256 { loadTxn with issued := true, ret := some (scratchAddr core0 0) } })] }

/-- A drained stall with a kept image, and the state once its frames are free: one of them can be taken. -/
def keptState : State := drainState (some (Stall.reset.img, 0, 0, 0))
def keptFreed : State := (keptState.framesOf (keptState.stall 0)).foldl State.freeFrame (keptState.dropPages 0 fun _ => true)
theorem kept_pick : keptFreed.pick (keptState.framesOf (keptState.stall 0)) = (some 0, (keptFreed.pick (keptState.framesOf (keptState.stall 0))).2) := by
  have h : keptState.framesOf (keptState.stall 0) = [0] := by decide +kernel
  rw [h]
  refine Prod.ext ?_ rfl
  unfold State.pick
  simp [Nat.mod_one]
/-- A stall that moves its pages, in a pool with free pages and in one with none. -/
def moveState (m : StallMove) : State :=
  { imageState 1 { stallIn .parked with move := some m } with stb := { (imageState 1 Stall.reset).stb with stalls := [(0, { stallIn .parked with move := some m })] } }
def fullState : State := { moveState ⟨true, false, none, [], 0, []⟩ with live := (moveState ⟨true, false, none, [], 0, []⟩).live.put Reg.STB_POOLp_RSV 5 }
/-- A ring of slot 0 of plane 0 of port 0, and a powered module in which it is in the given lock state. -/
def ring0 : RingId := ⟨⟨0, 0, false, 0⟩, false⟩
def lockState (l : Lock) : State := (turnOn [.port 0, .plane 0, .slot ⟨0, 0, false, 0⟩] State.reset).setRing ring0 { Ring.reset with lock := l }
/-- Cartridge 0 in service; the same with the nominal of plane 0 known; with the switch of plane 0 commanded to cartridge 1; and cartridge 1 warming. -/
def feedState : State := turnOn [.cartridge 0] State.reset
def darkState : State := { feedState with las := { feedState.las with nominals := [((0, 0), 0)] } }
def switchState : State := feedState.setFeed 0 { Feed.reset with moving := some true }
def warmState : State := (turnOn [.cartridge 1] State.reset).setCart 1 { Cartridge.reset with warming := true }
/-- A frame to counter 0 of core 0 at a hub that has taken four frames in its slot. -/
def hubFrame : Frame := ⟨.core core0 0, 1, 0, 0, 0, 0, .plain, 48⟩
def fullHub : State := { State.reset with hitch := { State.reset.hitch with flight := [hubFrame], slots := [(0, 4)] } }
/-- A queue whose WAIT has sent the watch message of host counter 0. -/
def waitDesc : Fetched := descOf opWait [BitVec.ofNat 32 (putBits 31 29 2)]
def watchState : State := withQueue { liveQueue with wait := some ⟨waitDesc, none, false, true, false⟩ }
/-- Host counter 0 LIVE; and with a change that its mirror does not yet hold. -/
def liveCounter : State := State.reset.setCtr (.host 0) { Counter.reset with st := .live }
def doorbellState : State :=
  ({ liveCounter with live := liveCounter.live.put (bank 1 Reg.PCI_FN_JOB) 5 } : State).setLink 2
def mirrorState : State := { State.reset.setCtr (.host 0) { Counter.reset with mirDirty := true } with regs := State.reset.regs.put (bank 0 Reg.HCH_MIRROR_LO) 1 }
/-- Port 56 of Bridle 0 with a LOAD of port 1 for another module, and Bridle 1 with an engine's request. -/
def issueState : State := turnOn [.bridle 0] { State.reset with drg := { State.reset.drg with inbox := [(56, [⟨1, 0, ⟨1, 1, 0, 0, [], 0, 0⟩⟩])] } }
def engineIssue : State := turnOn [.bridle 1] { State.reset with toIssue := [⟨.engine 0, 1, 0, 2 ^ 44, 4, [], 0, []⟩] }
/-- A packet of module 1 (6: for module 1, its sender module 0) with a given kind, of one word, and a module that has received it at Bridle 0 and whose entry of region 0
admits it to region 0. -/
def fabHeader (k : Nat) : FabHeader :=
  ⟨if k = 6 then 1 else k, if k = 6 then 1 else 0, if k = 5 then 1 else 0, 0, false, 0, 0, false, 0, 0, 0, if k = 3 then 5 else 1, 0, 0, false, 0, 0, 0, 0⟩
def fabData (k : Nat) : List Byte := if k = 2 then List.replicate 4 0 else if k = 3 then List.replicate 20 0 else []
def fabPacket (k : Nat) : Arrived :=
  let ws := (fabHeader k).words.map (BitVec.ofNat 32)
  ⟨ws ++ [crc32c (bytesOf ws ++ fabData k)], fabData k, 0, 0, 0, 0⟩
def fabEntry : Nat := ingressSet 0 0 * 4
def fabState (k : Nat) : State :=
  ({ State.reset with brd := { State.reset.brd with arrived := [(0, [fabPacket k])] } }).setIngress fabEntry ⟨0xF0000000, 0, 0, none, 0, none⟩
def fabTaken (k : Nat) : State := { fabState k with brd := { (fabState k).brd with arrived := (fabState k).brd.arrived.put 0 [] } }
def fabInbound (k : Nat) : Inbound := (fabTaken k).inboundOf 0 (fabHeader k) (fabData k) 0 0
theorem incoming_1 : Incoming ((fabState 1).advance 0) 0 (fabHeader 1) (fabData 1) 0 (fabTaken 1) (fabInbound 1) :=
  ⟨⟨fabTaken 1, by decide +kernel, by decide +kernel⟩, by decide +kernel⟩
theorem incoming_2 : Incoming ((fabState 2).advance 0) 0 (fabHeader 2) (fabData 2) 0 (fabTaken 2) (fabInbound 2) :=
  ⟨⟨fabTaken 2, by decide +kernel, by decide +kernel⟩, by decide +kernel⟩
theorem incoming_3 : Incoming ((fabState 3).advance 0) 0 (fabHeader 3) (fabData 3) 0 (fabTaken 3) (fabInbound 3) :=
  ⟨⟨fabTaken 3, by decide +kernel, by decide +kernel⟩, by decide +kernel⟩
/-- The states in which those requests are judged. -/
def fabSeen (k : Nat) : State :=
  let t : State := { fabTaken k with nextId := (fabTaken k).nextId + 1 }
  (if k = 1 then t else (t.openFlag (fabInbound k)).getD t).noteNumber ⟨(fabHeader k).src, 0⟩ 0 (some .inProgress)
theorem admitted_1 : Admitted (fabSeen 1) (fabInbound 1) fabEntry ((fabState 1).ingress fabEntry) 0 := by decide +kernel
theorem admitted_2 : Admitted (fabSeen 2) (fabInbound 2) fabEntry ((fabState 2).ingress fabEntry) 0 := by decide +kernel
theorem admitted_3 : Admitted (fabSeen 3) (fabInbound 3) fabEntry ((fabState 3).ingress fabEntry) 0 := by decide +kernel
/-- A LOAD that Bridle 0 has sent to module 1, and a module that waits for its answer. -/
def fabRequest : FabRequest := freshRequest ⟨0, 0, 0, 1⟩ 1 0 4 []
def requestState (r : FabRequest) : State :=
  { State.reset with fab := { State.reset.fab with requests := [r] }, clk := { State.reset.clk with base := 24000 } }
/-- A module in transit between module 0 and module 1: team 0 is up and in use, and lane 0 of Bridle 0 sends. -/
def transitState : State :=
  let s : State := { State.reset with brd := { State.reset.brd with arrived := [(0, [fabPacket 6])] } }
  let r := State.reset.fab.routing
  (({ s with fab := { s.fab with routing := { r with ready := 1, a := { r.a with st := .active, words := r.a.words.set 32 1 } } } }).setLane 0 0 { Lane.reset with link := .up })
def transitTaken : State := { transitState with brd := { transitState.brd with arrived := transitState.brd.arrived.put 0 [] } }
/-- The same module with the request that a response answers. -/
def respState : State := { fabState 5 with fab := { (fabState 5).fab with requests := [fabRequest] } }
def respTaken : State := { respState with brd := (fabTaken 5).brd }
/-- A LEASE request of module 0 for region 0 of this module, with op 1, 2 or 3, and a module that has received it at Bridle 0 and whose leased entry of region 0 permits
writes; for op 2 and 3 module 0 holds it. -/
def leaseHeader (op : Nat) : FabHeader := ⟨9, 0, 0, 0, false, 0, 0, false, 0, 0, 0, 1, op, 0, false, 0, 0, 0, 0⟩
def leasePacket (op : Nat) : Arrived :=
  let ws := (leaseHeader op).words.map (BitVec.ofNat 32)
  ⟨ws ++ [crc32c (bytesOf ws)], [], 0, 0, 0, 0⟩
def leaseEntry (op : Nat) : Ingress := ⟨0xF8000000, 0, 0, if op = 1 then none else some 0, 5, none⟩
def leaseState (op : Nat) : State :=
  ({ State.reset with brd := { State.reset.brd with arrived := [(0, [leasePacket op])] } }).setIngress fabEntry (leaseEntry op)
def leaseTaken (op : Nat) : State := { leaseState op with brd := { (leaseState op).brd with arrived := (leaseState op).brd.arrived.put 0 [] } }
def leaseInbound (op : Nat) : Inbound := (leaseTaken op).inboundOf 0 (leaseHeader op) [] 0 0
theorem leasing_1 : Incoming ((leaseState 1).advance 0) 0 (leaseHeader 1) [] 0 (leaseTaken 1) (leaseInbound 1) :=
  ⟨⟨leaseTaken 1, by decide +kernel, by decide +kernel⟩, by decide +kernel⟩
theorem leasing_2 : Incoming ((leaseState 2).advance 0) 0 (leaseHeader 2) [] 0 (leaseTaken 2) (leaseInbound 2) :=
  ⟨⟨leaseTaken 2, by decide +kernel, by decide +kernel⟩, by decide +kernel⟩
theorem leasing_3 : Incoming ((leaseState 3).advance 0) 0 (leaseHeader 3) [] 0 (leaseTaken 3) (leaseInbound 3) :=
  ⟨⟨leaseTaken 3, by decide +kernel, by decide +kernel⟩, by decide +kernel⟩
/-- A RENEW of a lease that an entry write has cleared. -/
def clearedEntry : Ingress := ⟨0xF8000000, 0, 0, none, 0, some 0⟩
def clearedState : State := (leaseState 2).setIngress fabEntry clearedEntry
def clearedTaken : State := { clearedState with brd := { clearedState.brd with arrived := clearedState.brd.arrived.put 0 [] } }
def clearedInbound : Inbound := clearedTaken.inboundOf 0 (leaseHeader 2) [] 0 0
theorem leasing_cleared : Incoming (clearedState.advance 0) 0 (leaseHeader 2) [] 0 clearedTaken clearedInbound :=
  ⟨⟨clearedTaken, by decide +kernel, by decide +kernel⟩, by decide +kernel⟩
/-- Lease 0 held since boundary 0, at boundary 4,000. -/
def heldLease : State := { State.reset.setLease 0 { Lease.reset with st := .held } with clk := { State.reset.clk with bnd := 4000 } }
/-- A FLAG_STORE held for one write, and a module that holds it and has applied that write. -/
def heldFlagStore : Inbound := ⟨0, ⟨0, 0⟩, 0, 0, 3, 0, 0, 0, 1, 0, 0, [], 1, 0, true, 0⟩
def flagState : State := { State.reset with fab := { State.reset.fab with inbound := [heldFlagStore], flags := [⟨⟨0, 0⟩, 0, 0, 0, [0], false, 0⟩] } }
/-- A stream that used epoch 0 at cycle 0, at cycle 64,000. -/
def epochState : State :=
  { State.reset with fab := { State.reset.fab with streams := [(⟨0, 0, 0, 1⟩, { Stream.reset with uses := [(0, 0)] })] }, clk := { State.reset.clk with base := 64000 } }
/-- Epoch 1's table ARMED and a switch asked for at stride 16. -/
def armedState : State :=
  { State.reset with fab := { State.reset.fab with routing := { Routing.reset with b := { RoutingTable.resetB with st := .armed } } }, regs := State.reset.regs.put Reg.FAB_RT_AT 16 }
/-- Uplink 0 with one message sent that the peer has not yet answered, and one that has come in for it. -/
def uplinkState : State :=
  ({ State.reset with brd := { State.reset.brd with arrived := [(4, [⟨[], [], 0, 0, 10, 0⟩])] } }).setUplink 0 { Uplink.reset with st := .running, rx := true, txTail := 1, sent := 1 }
/-- Lane 0 of Bridle 0 in a link state, the symbol threshold at its reset value. -/
def laneState (x : LinkState) : State := State.reset.setLane 0 0 { Lane.reset with link := x }
/-- The PCI Express link up and the window of function 0 set; and a given debug level on a secured module. -/
def pciState : State :=
  let s := State.reset.setPciLink 2 16 6
  { s with live := s.live.put (bank 0 Reg.PCI_WIN_LO) 1 }
def openDebug (n : Nat) : State := { State.reset with sec := { State.reset.sec with lifecycle := 1, level := n } }
/-- A start of a module with keys, out of MOD_RESET_N with its supplies; and core 0 of Reckoner 0 owed a substitute, core 1 a hot spare. -/
def startReport : StartReport :=
  { z := 0, y := 0, x := 0, groom0 := true, groom1 := true, slotA := ⟨true, 1, 0⟩, slotB := ⟨true, 0, 0⟩, strides := 0, elapsed := 0, tests := [], failed := [],
    hung := [], mismatch := [], carts := [], noSpareRow := [], reserve := false, calSets := 0, measured := [], nominals := [], faulty := false }
def startState : State :=
  { State.reset with sup := { State.reset.sup with modReset := true, vlas := true, vstby := true }, sec := { State.reset.sec with otp := 2 } }
def core1 : CoreId := ⟨0, 1⟩
def spareState : State :=
  { State.reset with cores := [(0, { Core.reset with owes := some (0, []) }), (1, { Core.reset with spare := true, load := .loaded })],
                     regs := State.reset.regs.put Reg.GRM_FAR_CTL 1 }
/-- The two Grooms in given roles. -/
def groomPair (a b : GroomRole) : State := { State.reset with groom := { State.reset.groom with role0 := a, role1 := b } }
/-- A module in lifecycle n whose debug port is shut; one with keys; and the ring of job 1 in host memory with a record on its way. -/
def debugState (n : Nat) : State := { State.reset with sec := { State.reset.sec with lifecycle := n } }
def keyState : State := debugState 1
def ringFlight : State :=
  { State.reset with flt := { State.reset.flt with flight := [⟨1, ⟨⟨1, 1⟩, 0, 0, 0⟩⟩] }, regs := State.reset.regs.put (bank 1 Reg.PDK_FLT_CFG) 0x80000000 }
/-- Soft repair enabled, and a row of line 0's stack that waits for a spare while its channel is in a burst. -/
def repairState : State :=
  let row := State.reset.lineRow 0
  ({ State.reset with regs := State.reset.regs.put Reg.MEM_REPAIR_CTL 0x80000000 } : State).setStack (State.reset.holder 0) { Stack.reset with repairs := [row], burst := some (row % 32) }

theorem witness_StrideAndAlignmentCommands_beaconReceived : ∃ (b : Fin 4) (l sender master : Fin 32) (hops : Fin 4) (eligible : Bool) (stride : BitVec 48) (arrival : Option (BitVec 16)) (s : State),
      l.val < 26 :=
  ⟨0, 0, 1, 1, 0, true, 1, none, State.reset, by decide +kernel⟩

theorem witness_StrideAndAlignmentCommands_masterLost : ∃ (s : State),
      (s.sync.st = .locked ∨ s.sync.st = .slewing ∨ s.sync.st = .resync) ∧
      3 ≤ s.sync.masterSilent :=
  ⟨{ State.reset with sync := { State.reset.sync with st := .locked, masterSilent := 3 } }, by decide +kernel⟩

theorem witness_RegisterCommands_loRead : ∃ (src : Source) (off : BitVec 28) (t i slot o : Nat) (s : State),
      regPlace off.toNat = .page t i slot o ∧
      s.mayRead src off.toNat = true ∧
      s.pageAnswers t = true ∧
      isLo t o = true ∧
      (¬ (t = 5 ∧ o = 0x108)) :=
  ⟨.pcie 0, 0x22100, 0xB, 0, 0x22, 0x100, State.reset, by decide +kernel⟩

theorem witness_RegisterCommands_hiRead : ∃ (src : Source) (off : BitVec 28) (t i slot o : Nat) (w : Word) (s : State),
      regPlace off.toNat = .page t i slot o ∧
      s.mayRead src off.toNat = true ∧
      s.pageAnswers t = true ∧
      isLo t o = false ∧
      isHi t o = true ∧
      (¬ (t = 5 ∧ o = 0x108)) ∧
      (¬ (t = 0xB ∧ o = 0x104)) ∧
      s.shadowOf src (slot * 4096 + o) = some w :=
  ⟨.pcie 0, 0x14114, 5, 0, 0x14, 0x114, 7, { State.reset with shadows := [((.pcie 0, 0x14114), 7)] }, by decide +kernel⟩

theorem witness_RegisterCommands_strideRead : ∃ (src : Source) (off : BitVec 28) (t i slot o : Nat) (s : State),
      regPlace off.toNat = .page t i slot o ∧
      s.mayRead src off.toNat = true ∧
      s.pageAnswers t = true ∧
      t = 0xB ∧
      o = 0x104 :=
  ⟨.pcie 0, 0x22104, 0xB, 0, 0x22, 0x104, State.reset, by decide +kernel⟩

theorem witness_RegisterCommands_rcRead : ∃ (src : Source) (off : BitVec 28) (t i slot o : Nat) (d : RegDef) (s : State),
      regPlace off.toNat = .page t i slot o ∧
      s.mayRead src off.toNat = true ∧
      s.pageAnswers t = true ∧
      isLo t o = false ∧
      isHi t o = false ∧
      (¬ (t = 5 ∧ o = 0x108)) ∧
      findReg t o = some d ∧
      d.mask (· == .rc) ≠ 0 :=
  ⟨.pcie 0, 0x1314C, 4, 0, 0x13, 0x14C, (findReg 4 0x14C).get (by decide), State.reset, by decide +kernel⟩

theorem witness_RegisterCommands_registerWrite : ∃ (src : Source) (off : BitVec 28) (val : Word) (cyc : Nat) (t i slot o : Nat) (d : RegDef) (s : State),
      regPlace off.toNat = .page t i slot o ∧
      (s.advance cyc).pageAnswers t = true ∧
      (s.advance cyc).mayWrite src off.toNat = true ∧
      0x100 ≤ o ∧
      t ∈ [4, 8, 0x10, 0x15, 0x19] ∧
      isLo t o = false ∧
      isHi t o = false ∧
      findReg t o = some d :=
  ⟨.pcie 0, 0x1310C, 80, 1023, 4, 0, 0x13, 0x10C, (findReg 4 0x10C).get (by decide), State.reset, by decide +kernel⟩

theorem witness_RegisterCommands_hiWrite : ∃ (src : Source) (off : BitVec 28) (val lo : Word) (cyc : Nat) (t i slot o : Nat) (l d : RegDef) (s : State),
      regPlace off.toNat = .page t i slot o ∧
      (s.advance cyc).pageAnswers t = true ∧
      (s.advance cyc).mayWrite src off.toNat = true ∧
      0x100 ≤ o ∧
      t ≠ 0x16 ∧
      t ≠ 0xC ∧
      isLo t o = false ∧
      isHi t o = true ∧
      findReg t o = some d ∧
      findReg t (o - 4) = some l ∧
      d.rw ≠ 0 ∧
      (s.advance cyc).openBits t slot o ((s.advance cyc).regKey d slot o) &&& d.rw ≠ 0 ∧
      (s.advance cyc).stagedLo src (slot * 4096 + o - 4) = some lo :=
  ⟨.pcie 0, 0x14114, 5, 0x100, 0, 5, 0, 0x14, 0x114, (findReg 5 0x110).get (by decide), (findReg 5 0x114).get (by decide), { State.reset with staged := [((.pcie 0, 0x14110), 0x100)] }, by decide +kernel⟩

theorem witness_RegisterCommands_irqForce : ∃ (src : Source) (slot : BitVec 16) (mask : Word) (t i : Nat) (d : RegDef) (s : State),
      regPlace (slot.toNat * 4096 + 0x18) = .page t i slot.toNat 0x18 ∧
      s.pageAnswers t = true ∧
      s.mayWrite src (slot.toNat * 4096 + 0x18) = true ∧
      findReg t 0x18 = some d :=
  ⟨.groom 0, 0x22, 9, 0xB, 0, (findReg 0xB 0x18).get (by decide), State.reset, by decide +kernel⟩

theorem witness_UnitCommands_disable : ∃ (unit : UnitId) (cyc : Nat) (s : State),
      s.refusesStop unit = false ∧
      (∀ k, unit ≠ .cartridge k) :=
  ⟨.stack 23, 1023, State.reset, by decide⟩

theorem witness_UnitCommands_refused : ∃ (k : Fin 24) (cyc : Nat) (s : State),
      s.isOn (.stack k) = true ∧
      s.mayRetire = false :=
  ⟨23, 0, { State.reset with units := [(151, .stack 23, { UnitRec.reset (.stack 23) with st := .on })], dram := { MemState.reset with map := .folded } }, by decide +kernel⟩

theorem witness_UnitCommands_reset : ∃ (unit : UnitId) (cyc : Nat) (s : State),
      s.refusesStop unit = false :=
  ⟨.stack 23, 1023, State.reset, by decide +kernel⟩

theorem witness_UnitCommands_startComplete : ∃ (unit : UnitId) (lanes : List (Fin 6 × Fin 1664 × Fin 68)) (halves : List (Fin 256 × Bool)) (s : State),
      s.groom.waiting.contains unit = false ∧
      (s.unit unit).st = .starting :=
  ⟨.plane 15, [], [], { State.reset with units := [(79, .plane 15, { UnitRec.reset (.plane 15) with st := .starting })] }, by decide +kernel⟩

theorem witness_UnitCommands_stopComplete : ∃ (unit : UnitId) (s : State),
      (s.unit unit).st = .stopping :=
  ⟨.lane 3 31, { State.reset with units := [(383, .lane 3 31, { UnitRec.reset (.lane 3 31) with st := .stopping })] }, by decide +kernel⟩

theorem witness_UnitCommands_fail : ∃ (unit : UnitId) (atOnce : Bool) (s : State),
      (s.unit unit).failed = false ∧
      ((∃ p, unit = .plane p) ∨ (∃ p, unit = .port p) ∨ (∃ b l, unit = .lane b l) ∨ (∃ e, unit = .engine e) ∨ (∃ x, unit = .slot x) ∨ unit = .allocator ∨ (∃ c, unit = .core c ∧ (s.unit unit).st ≠ .starting) ∨ (∃ b, unit = .bridle b ∧ b ≠ 0)) :=
  ⟨.bridle 3, true, State.reset, by decide, .inr (.inr (.inr (.inr (.inr (.inr (.inr ⟨3, rfl, by decide⟩))))))⟩

theorem witness_SequencerCommands_fetch : ∃ (q : QueueId) (d : Fetched) (s : State),
      s.coreLive q.core = true ∧
      (s.queue q).on = true ∧
      (s.queue q).st ≠ .halted ∧
      (s.queue q).fetched = none ∧
      (s.queue q).wait = none ∧
      (s.queue q).present (s.queue q).pc = true ∧
      (s.queue q).exec = [] ∧
      d = ⟨patchWords (s.queue q).pc (wordsOf (s.mem.bytes (scratchAddr q.core ((s.queue q).slotOffset (s.queue q).pc)) 64)) (s.queue q).loops, (s.queue q).pc, (s.queue q).slotOffset (s.queue q).pc, (s.queue q).loops⟩ ∧
      d.check (s.queue q).ringSize = none :=
  ⟨queue0, next0 { withQueue liveQueue with mem := [(0xA0000000000, 1), (0xA0000000003, 8), (0xA000000000C, 1)] }, { withQueue liveQueue with mem := [(0xA0000000000, 1), (0xA0000000003, 8), (0xA000000000C, 1)] }, by decide, by decide, by decide, by decide, by decide, by decide, by decide, rfl, by decide⟩

theorem witness_SequencerCommands_fetchReject : ∃ (q : QueueId) (d : Fetched) (f : FaultCode) (s : State),
      s.coreLive q.core = true ∧
      (s.queue q).on = true ∧
      (s.queue q).st ≠ .halted ∧
      (s.queue q).fetched = none ∧
      (s.queue q).wait = none ∧
      (s.queue q).present (s.queue q).pc = true ∧
      (s.queue q).exec = [] ∧
      d = ⟨patchWords (s.queue q).pc (wordsOf (s.mem.bytes (scratchAddr q.core ((s.queue q).slotOffset (s.queue q).pc)) 64)) (s.queue q).loops, (s.queue q).pc, (s.queue q).slotOffset (s.queue q).pc, (s.queue q).loops⟩ ∧
      d.check (s.queue q).ringSize = some f ∧
      (s.queue q).cplFull = false :=
  ⟨queue0, next0 (withQueue liveQueue), Flt.RKN_DESC_BAD_OPCODE, withQueue liveQueue, by decide, by decide, by decide, by decide, by decide, by decide, by decide, rfl, by decide⟩

theorem witness_SequencerCommands_start : ∃ (q : QueueId) (cyc : Nat) (d : Fetched) (s : State),
      ((s.advance cyc).queue q).fetched = some d ∧
      (s.advance cyc).readyDesc q d = true ∧
      ((s.advance cyc).queue q).cplFull = false ∧
      (s.advance cyc).yields q d = false ∧
      (s.advance cyc).admission q.core d.bound (s.advance cyc).clk.cycle = .fits :=
  ⟨queue0, 0, descOf 1 [], withQueue { liveQueue with fetched := some (descOf 1 []) }, by decide +kernel⟩

theorem witness_SequencerCommands_startHeld : ∃ (q : QueueId) (cyc : Nat) (d : Fetched) (s : State),
      ((s.advance cyc).queue q).fetched = some d ∧
      (s.advance cyc).readyDesc q d = true ∧
      ((s.advance cyc).queue q).cplFull = false ∧
      (s.advance cyc).yields q d = false ∧
      (s.advance cyc).admission q.core d.bound (s.advance cyc).clk.cycle = .held :=
  ⟨queue0, 1023, ⟨[0x01000666], 0, 0, []⟩, { withQueue { liveQueue with fetched := some ⟨[0x01000666], 0, 0, []⟩ } with clk := State.reset.clk }, by decide +kernel⟩

theorem witness_SequencerCommands_overrun : ∃ (q : QueueId) (index : BitVec 16) (cyc : Nat) (e : Exec) (v s : State),
      v = s.advance cyc ∧
      (v.queue q).exec.find? (fun e => e.desc.index == index) = some e ∧
      (v.queue q).wait = none ∧
      v.boundOver q index = true :=
  ⟨queue0, 0, 1024, execOf 1 [], (running 1 []).advance 1024, running 1 [], rfl, by decide +kernel⟩

theorem witness_SequencerCommands_retire : ∃ (q : QueueId) (index : BitVec 16) (e : Exec) (s : State),
      (s.queue q).exec.find? (fun e => e.desc.index == index) = some e ∧
      e.complete = true ∧
      (s.core q.core).pendingOf q.q index = [] ∧
      s.frameInFlight q index = false ∧
      s.inBound q.core e = true :=
  ⟨queue0, 0, { execOf 1 [] with complete := true }, withQueue { liveQueue with exec := [{ execOf 1 [] with complete := true }], pc := 1 }, by decide +kernel⟩

theorem witness_SequencerCommands_retireLate : ∃ (q : QueueId) (index : BitVec 16) (e : Exec) (s : State),
      (s.queue q).exec.find? (fun e => e.desc.index == index) = some e ∧
      e.complete = true ∧
      (s.core q.core).pendingOf q.q index = [] ∧
      s.frameInFlight q index = false ∧
      s.inBound q.core e = false :=
  ⟨queue0, 0, { execOf 1 [] with complete := true, doneAt := 5000 }, withQueue { liveQueue with exec := [{ execOf 1 [] with complete := true, doneAt := 5000 }], pc := 1 }, by decide +kernel⟩

theorem witness_SequencerCommands_tail : ∃ (src : Source) (q : QueueId) (tail : BitVec 16) (s : State),
      s.mayWrite src (queueReg q 8) = true ∧
      (tail - (s.queue q).head).toNat ≤ 2 ^ (s.queue q).ringLog2 :=
  ⟨.groom 0, ⟨⟨7, 207⟩, 3⟩, 1, State.reset, by decide +kernel⟩

theorem witness_SequencerCommands_tailBad : ∃ (src : Source) (q : QueueId) (tail : BitVec 16) (s : State),
      s.mayWrite src (queueReg q 8) = true ∧
      2 ^ (s.queue q).ringLog2 < (tail - (s.queue q).head).toNat :=
  ⟨.groom 0, ⟨⟨7, 207⟩, 3⟩, 2, State.reset, by decide +kernel⟩

theorem witness_SequencerCommands_retry : ∃ (src : Source) (q : QueueId) (cyc : Nat) (s : State),
      (s.advance cyc).mayWrite src (queueReg q 0) = true ∧
      (s.queue q).st = .halted :=
  ⟨.groom 1, queue0, 895, withQueue { liveQueue with st := .halted }, by decide +kernel⟩

theorem witness_SequencerCommands_skip : ∃ (src : Source) (q : QueueId) (cyc : Nat) (s : State),
      (s.advance cyc).mayWrite src (queueReg q 0) = true ∧
      (s.queue q).st = .halted :=
  ⟨.pcie 0, queue0, 896, withQueue { liveQueue with st := .halted }, by decide +kernel⟩

theorem witness_TensorAndDataMoverCommands_matmul : ∃ (q : QueueId) (e : Exec) (s : State),
      s.running q opMatmul = some e ∧
      s.hazard q.core (e.desc.matmul.reads ++ e.desc.matmul.writes) = false :=
  ⟨queue0, execOf opMatmul [], running opMatmul [], by decide +kernel⟩

theorem witness_TensorAndDataMoverCommands_move : ∃ (q : QueueId) (e : Exec) (s : State),
      s.running q opMove = some e ∧
      s.hazard q.core (s.moveSpans q.core e.desc.move) = false :=
  ⟨queue0, execOf opMove [], running opMove [], by decide +kernel⟩

theorem witness_TensorAndDataMoverCommands_gather : ∃ (q : QueueId) (e : Exec) (s : State),
      s.running q opGather = some e ∧
      s.hazard q.core (e.desc.gather.reads ++ e.desc.gather.writes) = false :=
  ⟨queue0, execOf opGather [], running opGather [], by decide +kernel⟩

theorem witness_TensorAndDataMoverCommands_wait : ∃ (q : QueueId) (e : Exec) (s : State),
      s.hazard q.core (s.moveSpans q.core e.desc.move) = true ∧
      s.hazard q.core (e.desc.gather.reads ++ e.desc.gather.writes) = true ∧
      s.hazard q.core (e.desc.matmul.reads ++ e.desc.matmul.writes) = true :=
  ⟨queue0, execOf 1 [], hazardState, by decide +kernel⟩

theorem witness_TensorAndDataMoverCommands_issue : ∃ (core : CoreId) (cyc : Nat) (t : Txn) (p : Fin 64) (r s : State),
      r = (s.advance cyc).refillFor core ∧
      r.nextTxn core = some t ∧
      (t.kind ≠ 3 ∨ r.isHome t.addr = false) ∧
      r.txnPort core t = some p ∧
      r.txnHeld core t = false :=
  ⟨core0, 0, loadTxn, portOf 57, (moverState.advance 0).refillFor core0, moverState, rfl, by decide +kernel⟩

theorem witness_TensorAndDataMoverCommands_issueWaits : ∃ (core : CoreId) (cyc : Nat) (t : Txn) (p : Fin 64) (r s : State),
      r = (s.advance cyc).refillFor core ∧
      r.nextTxn core = some t ∧
      t.kind ≠ 3 ∧
      r.txnPort core t = some p ∧
      r.txnHeld core t = true :=
  ⟨core0, 0, loadTxn, portOf 57, (brokeState.advance 0).refillFor core0, brokeState, rfl, by decide +kernel⟩

theorem witness_SpecialUnitCommands_attend : ∃ (q : QueueId) (e : Exec) (ws pw : List Word) (todo : List Nat) (found : List (Nat × Nat)) (n : Nat) (cyc : Nat) (a s t u v r : State),
      a = r.advance cyc ∧
      a.running q opAttend = some e ∧
      s = a.refillFor q.core ∧
      (s.core q.core).closed = false ∧
      wordsOf (s.mem.bytes (scratchAddr q.core (e.desc.attend.workOff * 64)) 64) = ws ∧
      s.loadWords (s.accessor q) (s.attendProfileAt q e.desc.attend) 8 = (some pw, t) ∧
      headerOk ws = true ∧
      profileValid pw (t.pageSize e.desc.attend.stall) = true ∧
      e.desc.attend.rangesOk (profileOf pw) false = true ∧
      (s.queue q).job = (s.stall e.desc.attend.stall).job ∧
      ((s.stall e.desc.attend.stall).st = .prefill ∨ (s.stall e.desc.attend.stall).st = .decode) ∧
      ((headerOf ws).start = true ∨ (headerOf ws).done = false) ∧
      t.hazard q.core (e.desc.attend.spans (profileOf pw)) = false ∧
      (headerOf ws).append = false ∧
      e.desc.attend.list = false ∧
      e.desc.attend.todo (headerOf ws) none = todo ∧
      t.findPages (s.accessor q) (s.stall e.desc.attend.stall) e.desc.attend.layer (e.desc.attend.group (profileOf pw)) [] (distinctNumbers ((todo.take (headerOf ws).quota).map (· / 4) ++ [])) = (some found, n, u) ∧
      u.chargeCore q.core (rangeCharge (attendReads n ++ e.desc.attend.traffic (profileOf pw) (headerOf ws) (todo.take (headerOf ws).quota))) = some v :=
  ⟨queue0, execOf opAttend [], headerWords, profileWords, [], [], 0, 1, attendState.advance 1, (attendState.advance 1).refillFor core0, (attendState.advance 1).refillFor core0, (attendState.advance 1).refillFor core0, chargedState, attendState, rfl, by decide +kernel⟩

theorem witness_SpecialUnitCommands_attendHeld : ∃ (q : QueueId) (e : Exec) (cyc : Nat) (a s r : State),
      a = r.advance cyc ∧
      a.running q opAttend = some e ∧
      s = a.refillFor q.core ∧
      (s.core q.core).closed = true :=
  ⟨queue0, execOf opAttend [], 1, closedState.advance 1, (closedState.advance 1).refillFor core0, closedState, rfl, by decide +kernel, rfl, by decide +kernel⟩

theorem witness_SpecialUnitCommands_attendNoProfile : ∃ (q : QueueId) (e : Exec) (cyc : Nat) (a t v s r : State),
      a = r.advance cyc ∧
      a.running q opAttend = some e ∧
      s = a.refillFor q.core ∧
      (s.core q.core).closed = false ∧
      s.loadWords (s.accessor q) (s.attendProfileAt q e.desc.attend) 8 = (none, t) ∧
      t.chargeCore q.core (rangeCharge (attendReads 0)) = some v :=
  ⟨queue0, execOf opAttend [], 0, noProfile.advance 0, unreadState, (unreadState.chargeCore core0 (rangeCharge (attendReads 0))).getD State.reset, (noProfile.advance 0).refillFor core0, noProfile, rfl, by decide +kernel, rfl, by decide +kernel⟩

theorem witness_SpecialUnitCommands_blink : ∃ (q : QueueId) (e : Exec) (own : Fin 2) (s : State),
      s.running q opBlink = some e ∧
      s.hazard q.core [spanOf false e.desc.blink.sketch 128] = false ∧
      s.liveF Reg.BLN_CTL 31 31 ≠ 1 ∧
      own.val = e.desc.blink.stall % 2 ∧
      s.engineNormal own = true ∧
      (s.engine own).waiting < 512 :=
  ⟨queue0, execOf opBlink [], 0, turnOn [.engine 0] (running opBlink []), by decide +kernel⟩

theorem witness_SpecialUnitCommands_dispatch : ∃ (q : QueueId) (e : Exec) (s : State),
      s.running q opDispatch = some e ∧
      s.isOn .edu = true ∧
      s.hazard q.core [spanOf false e.desc.dispatch.sel (4 * e.desc.dispatch.topk * e.desc.dispatch.tokens)] = false :=
  ⟨queue0, execOf opDispatch [], { running opDispatch [] with units := [(172, .edu, { UnitRec.reset .edu with st := .on })] }, by decide +kernel⟩

theorem witness_SpecialUnitCommands_signal : ∃ (q : QueueId) (e : Exec) (c : CounterId) (s : State),
      s.running q opSignal = some e ∧
      s.earlierStoresDone q = true ∧
      (s.queue q).signalBarred e.desc.index = false ∧
      (¬ (e.desc.ctrSpace = 4 ∧ e.desc.ctrModule ≠ s.moduleIndex)) ∧
      e.desc.counter q.core = some c ∧
      s.admits c (s.queue q).job = true :=
  ⟨queue0, execOf opSignal [], .core core0 0, (running opSignal []).setCtr (.core core0 0) { Counter.reset with st := .live }, by decide +kernel⟩

theorem witness_SpecialUnitCommands_signalBarred : ∃ (q : QueueId) (e : Exec) (s : State),
      s.running q opSignal = some e ∧
      (s.queue q).signalBarred e.desc.index = true :=
  ⟨queue0, { execOf opSignal [] with desc := ⟨[BitVec.ofNat 32 (opSignal * 2 ^ 24 + 1)], 1, 0, []⟩ }, withQueue { liveQueue with exec := [{ execOf 1 [] with status := stAccess, complete := true }, { execOf opSignal [] with desc := ⟨[BitVec.ofNat 32 (opSignal * 2 ^ 24 + 1)], 1, 0, []⟩ }], pc := 2 }, by decide +kernel⟩

theorem witness_SpecialUnitCommands_signalRejected : ∃ (q : QueueId) (e : Exec) (c : CounterId) (s : State),
      s.running q opSignal = some e ∧
      s.earlierStoresDone q = true ∧
      (s.queue q).signalBarred e.desc.index = false ∧
      (¬ (e.desc.ctrSpace = 4 ∧ e.desc.ctrModule ≠ s.moduleIndex)) ∧
      e.desc.counter q.core = some c ∧
      s.admits c (s.queue q).job = false :=
  ⟨queue0, execOf opSignal [], .core core0 0, running opSignal [], by decide +kernel⟩

theorem witness_SpecialUnitCommands_signalRemote : ∃ (q : QueueId) (e : Exec) (s : State),
      s.running q opSignal = some e ∧
      s.earlierStoresDone q = true ∧
      (s.queue q).signalBarred e.desc.index = false ∧
      e.desc.ctrSpace = 4 ∧
      e.desc.ctrModule ≠ s.moduleIndex :=
  ⟨queue0, execOf opSignal [0x81000000], running opSignal [0x81000000], by decide +kernel⟩

theorem witness_SpecialUnitCommands_loop : ∃ (q : QueueId) (e : Exec) (s : State),
      s.running q opLoop = some e ∧
      (s.queue q).loops.length < 4 :=
  ⟨queue0, execOf opLoop [], running opLoop [], by decide +kernel⟩

theorem witness_SpecialUnitCommands_loopDepth : ∃ (q : QueueId) (e : Exec) (s : State),
      s.running q opLoop = some e ∧
      4 ≤ (s.queue q).loops.length :=
  ⟨queue0, execOf opLoop [], withQueue { liveQueue with exec := [execOf opLoop []], pc := 1, loops := List.replicate 4 ⟨0, 1, 0, 2, []⟩ }, by decide +kernel⟩

theorem witness_WaitAndBranchCommands_wait : ∃ (q : QueueId) (cyc : Nat) (d : Fetched) (s : State),
      ((s.advance cyc).queue q).fetched = some d ∧
      d.opcode = opWait ∧
      (s.advance cyc).queueStopped q = false ∧
      (s.advance cyc).predecessorsOk q d = true ∧
      ((s.advance cyc).queue q).cplFull = false :=
  ⟨queue0, 0, descOf opWait [], withQueue { liveQueue with fetched := some (descOf opWait []) }, by decide +kernel⟩

theorem witness_WaitAndBranchCommands_waitHeld : ∃ (q : QueueId) (cyc : Nat) (w : Waiting) (s : State),
      ((s.advance cyc).queue q).fetched = none ∧
      ((s.advance cyc).queue q).wait = some w ∧
      w.held = true ∧
      (s.advance cyc).queueStopped q = false ∧
      (s.advance cyc).admission q.core w.desc.bound (s.advance cyc).clk.cycle = .fits :=
  ⟨queue0, 0, ⟨descOf opWait [], none, true, false, false⟩, withQueue { liveQueue with wait := some ⟨descOf opWait [], none, true, false, false⟩ }, by decide +kernel⟩

theorem witness_WaitAndBranchCommands_waitTimeout : ∃ (q : QueueId) (w : Waiting) (s : State),
      (s.queue q).wait = some w ∧
      w.timeout = some 0 ∧
      w.held = false ∧
      w.branch = false :=
  ⟨queue0, ⟨descOf opWait [], some 0, false, false, false⟩, withQueue { liveQueue with wait := some ⟨descOf opWait [], some 0, false, false, false⟩ }, by decide +kernel⟩

theorem witness_WaitAndBranchCommands_branchRange : ∃ (q : QueueId) (cyc : Nat) (d : Fetched) (s : State),
      ((s.advance cyc).queue q).fetched = some d ∧
      d.opcode = opBranch ∧
      (s.advance cyc).queueStopped q = false ∧
      (s.advance cyc).predecessorsOk q d = true ∧
      ((s.advance cyc).queue q).cplFull = false ∧
      ((s.advance cyc).queue q).branchOk d = false :=
  ⟨queue0, 0, descOf opBranch [], withQueue { liveQueue with fetched := some (descOf opBranch []) }, by decide +kernel⟩

theorem witness_WaitAndBranchCommands_branch : ∃ (q : QueueId) (cyc : Nat) (d : Fetched) (s : State),
      ((s.advance cyc).queue q).fetched = some d ∧
      d.opcode = opBranch ∧
      (s.advance cyc).queueStopped q = false ∧
      (s.advance cyc).predecessorsOk q d = true ∧
      ((s.advance cyc).queue q).cplFull = false ∧
      ((s.advance cyc).queue q).branchOk d = true ∧
      (¬ (((s.advance cyc).queue q).loops = [] ∧ ((s.advance cyc).queue q).present (d.index + BitVec.ofInt 16 d.branchOffset) = false)) ∧
      (s.advance cyc).admission q.core d.bound (s.advance cyc).clk.cycle = .fits :=
  ⟨queue0, 0, descOf opBranch [0, 0, 0x10000], withQueue { liveQueue with tail := 2, fetched := some (descOf opBranch [0, 0, 0x10000]) }, by decide +kernel⟩

theorem witness_EduCommands_result : ∃ (src : Fin 32) (job : BitVec 12) (layer : BitVec 8) (tag : BitVec 16) (token : BitVec 12) (pos : Fin 8) (block : List Word) (row : List Byte) (origin : Option (Fin 32)) (cyc : Nat) (s : State),
      ((s.advance cyc).isOn .edu = true ∨ ((s.advance cyc).unit .edu).st = .stopping) :=
  ⟨0, 0, 0, 0, 0, 0, [], [], none, 0, eduState, by decide +kernel⟩

theorem witness_EduCommands_request : ∃ (src : Fin 32) (job : BitVec 12) (layer : BitVec 8) (tag : BitVec 16) (token : BitVec 12) (pos : Fin 8) (block : List Word) (row : List Byte) (origin : Option (Fin 32)) (cyc : Nat) (s : State),
      (s.advance cyc).isOn .edu = true :=
  ⟨0, 0, 0, 0, 0, 0, [], [], none, 0, eduState, by decide +kernel⟩

theorem witness_EduCommands_mailbox : ∃ (layer : BitVec 8) (inst : Fin 1024) (b : EduBatch) (s : State),
      (s.edu.batches.find? fun b => b.is layer.toNat inst.val && b.readyAt.isNone && !b.gone) = some b :=
  ⟨0, 0, eduBatch, eduState, by decide +kernel⟩

theorem witness_EduCommands_batchDone : ∃ (layer : BitVec 8) (inst : Fin 1024) (b : EduBatch) (s : State),
      s.doneBatch layer.toNat inst.val = some b ∧
      b.gone = false :=
  ⟨0, 0, { eduBatch with readyAt := some 0 }, { readyEdu with edu := { readyEdu.edu with pulses := [(0, 1)] } }, by decide +kernel⟩

theorem witness_EduCommands_batchTimeout : ∃ (layer : BitVec 8) (inst : Fin 1024) (cyc : Nat) (b : EduBatch) (s : State),
      (((s.advance cyc).edu.batches.find? fun b => b.is layer.toNat inst.val && !b.gone && b.readyAt.any (fun t => decide (t + 24000 ≤ (s.advance cyc).now))) = some b) :=
  ⟨0, 0, 0, { eduBatch with readyAt := some 0 }, { readyEdu with clk := { readyEdu.clk with base := 24000 } }, by decide +kernel⟩

theorem witness_EduCommands_resultTimeout : ∃ (tag : BitVec 16) (token : BitVec 12) (pos : Fin 8) (cyc : Nat) (d : EduDispatch) (e : EduEntry) (s : State),
      ((s.advance cyc).edu.dispatches.find? fun d => d.tag == tag.toNat) = some d ∧
      (d.tokens.getD token.toNat ⟨false, [], true, true, false⟩).entries[pos.val]? = some e ∧
      e.res = .waiting ∧
      d.atCycle + 32000 ≤ (s.advance cyc).now :=
  ⟨0, 0, 0, 0, eduDispatch .waiting, ⟨0, 0, .waiting⟩, { eduState with clk := { eduState.clk with base := 32000 } }, by decide +kernel⟩

theorem witness_EduCommands_combine : ∃ (tag : BitVec 16) (token : BitVec 12) (d : EduDispatch) (t : EduToken) (u : State) (s : State),
      (s.edu.dispatches.find? fun d => d.tag == tag.toNat) = some d ∧
      d.tokens[token.toNat]? = some t ∧
      d.nextRow token.toNat = true ∧
      s.store (eduAccess d.job) (scratchAddr d.q.core ((d.ret + token.toNat * rowUnits d.cfg.ret d.cfg.dModel) * 64)) (t.row d.cfg) = (.ok, u) :=
  ⟨0, 0, eduDispatch .dropped, ⟨false, [⟨0, 0, .dropped⟩], false, false, false⟩, (droppedEdu.store (eduAccess 0) (scratchAddr core0 0) (EduToken.row eduLayer ⟨false, [⟨0, 0, .dropped⟩], false, false, false⟩)).2, droppedEdu, by decide +kernel⟩

theorem witness_EduCommands_combineRefused : ∃ (tag : BitVec 16) (token : BitVec 12) (d : EduDispatch) (t : EduToken) (st : Status) (u : State) (s : State),
      (s.edu.dispatches.find? fun d => d.tag == tag.toNat) = some d ∧
      d.tokens[token.toNat]? = some t ∧
      d.nextRow token.toNat = true ∧
      t.poisoned = false ∧
      s.store (eduAccess d.job) (scratchAddr d.q.core ((d.ret + token.toNat * rowUnits d.cfg.ret d.cfg.dModel) * 64)) (t.row d.cfg) = (st, u) ∧
      st ≠ .ok :=
  ⟨0, 0, { eduDispatch .dropped with ret := 24576 }, ⟨false, [⟨0, 0, .dropped⟩], false, false, false⟩, .failed, (farEdu.store (eduAccess 0) (scratchAddr core0 (24576 * 64)) (EduToken.row eduLayer ⟨false, [⟨0, 0, .dropped⟩], false, false, false⟩)).2, farEdu, by decide +kernel, by decide +kernel, by decide +kernel, by decide +kernel, by decide +kernel, by decide⟩

theorem witness_EduCommands_doneSignal : ∃ (tag : BitVec 16) (d : EduDispatch) (s : State),
      (s.edu.dispatches.find? fun d => d.tag == tag.toNat) = some d ∧
      d.tokens.all (·.written) = true :=
  ⟨0, { eduDispatch .waiting with tokens := [] }, { eduState with edu := { eduState.edu with dispatches := [{ eduDispatch .waiting with tokens := [] }] } }, by decide +kernel⟩

theorem witness_EduCommands_tableSwitch : ∃ (src : Source) (val : Word) (cyc : Nat) (s : State),
      (s.advance cyc).mayWrite src Reg.EDU_TBL_CTL = true ∧
      (s.advance cyc).eduPending = false :=
  ⟨.pcie 0, 0, 0, eduState, by decide +kernel⟩

theorem witness_PageAndBlinkersCommands_page : ∃ (r : PageRequest) (rest : List PageRequest) (t : State) (s : State),
      s.stb.requests = r :: rest ∧
      ({ s with stb := { s.stb with requests := rest } }).servePage r.stall ⟨r.layer, r.grp, r.page⟩ = (true, t) :=
  ⟨⟨queue0, 0, 0, 0, 0, 0⟩, [], (({ pageState with stb := { pageState.stb with requests := [] } }).servePage 0 ⟨0, 0, 0⟩).2, pageState, by decide +kernel⟩

theorem witness_PageAndBlinkersCommands_pageRefused : ∃ (r : PageRequest) (rest : List PageRequest) (t : State) (s : State),
      s.stb.requests = r :: rest ∧
      ({ s with stb := { s.stb with requests := rest } }).servePage r.stall ⟨r.layer, r.grp, r.page⟩ = (false, t) :=
  ⟨⟨queue0, 0, 0, 0, 0, 0⟩, [], ({ State.reset with stb := { State.reset.stb with requests := [] } }), { State.reset with stb := { State.reset.stb with requests := [⟨queue0, 0, 0, 0, 0, 0⟩] } }, by decide +kernel⟩

theorem witness_PageAndBlinkersCommands_append : ∃ (r : AppendReport) (rest : List AppendReport) (s : State),
      s.stb.reports = r :: rest ∧
      (s.stall r.stall).st = .prefill ∧
      r.layer = (s.stall r.stall).img.layers :=
  ⟨⟨0, 0, 0, 0, 0⟩, [], { State.reset with stb := { State.reset.stb with reports := [⟨0, 0, 0, 0, 0⟩], stalls := [(0, { Stall.reset with st := .prefill })] } }, by decide +kernel⟩

theorem witness_PageAndBlinkersCommands_start : ∃ (e : Fin 2) (r : BlinkRequest) (rest : List BlinkRequest) (s : State),
      (s.engine e).requests = r :: rest ∧
      (s.engine e).formed = none ∧
      s.engineNormal e = true :=
  ⟨0, blinkRequest, [], blinkState { Engine.reset with requests := [blinkRequest] }, by decide +kernel⟩

theorem witness_PageAndBlinkersCommands_list : ∃ (e : Fin 2) (r : BlinkRequest) (rest : List BlinkRequest) (status : Nat) (pages : List Nat) (s : State),
      (s.engine e).requests = r :: rest ∧
      (s.engine e).formed = some (status, pages) :=
  ⟨0, blinkRequest, [], 1, [], blinkState { Engine.reset with requests := [blinkRequest], formed := some (1, []) }, by decide +kernel⟩

theorem witness_PageAndBlinkersCommands_leave : ∃ (e : Fin 2) (s : State),
      s.engineNormal e = false :=
  ⟨0, State.reset, by decide +kernel⟩

theorem witness_PageAndBlinkersCommands_drift : ∃ (e : Fin 2) (p0 p1 p2 p3 p4 : BitVec 16) (s : State),
      s.isOn (.engine e) = true ∧
      (s.engine e).mode = .normal ∧
      (s.engine e).lastCheck + s.regF Reg.BLN_CHECK_CTL 15 0 ≤ s.clk.bnd :=
  ⟨0, 0, 0, 0, 192, 0, { blinkState Engine.reset with clk := { State.reset.clk with bnd := 65536 } }, by decide +kernel⟩

theorem witness_PageAndBlinkersCommands_recal : ∃ (e : Fin 2) (p0 p1 p2 p3 p4 : BitVec 16) (measured : List Int) (s : State),
      (s.engine e).mode = .recal :=
  ⟨0, 0, 0, 0, 192, 0, [], blinkState { Engine.reset with mode := .recal, recalFail := 2 }, by decide +kernel⟩

theorem witness_StableRingCommands_release : ∃ (ring : Fin 64) (a : CommandArgs) (t : State) (s : State),
      CommandFront s ring 2 a t ∧
      a.jobOk (t.stall a.stall) = true ∧
      ((t.stall a.stall).st = .admitted ∨ (t.stall a.stall).st = .prefill ∨ (t.stall a.stall).st = .decode ∨ (t.stall a.stall).st = .parked ∨ (t.stall a.stall).st = .evicted ∨ (t.stall a.stall).st = .draining) :=
  ⟨0, (ringArgs 2 0 0), ringAfter 2 0 0 (stallIn .decode), ringState 2 0 0 (stallIn .decode), by decide +kernel⟩

theorem witness_StableRingCommands_commit : ∃ (ring : Fin 64) (a : CommandArgs) (t : State) (s : State),
      CommandFront s ring 3 a t ∧
      a.jobOk (t.stall a.stall) = true ∧
      (t.stall a.stall).st = .decode ∧
      (a.w 2).field 3 0 ≤ (t.stall a.stall).specW ∧
      (t.stall a.stall).histLen + (a.w 2).field 3 0 + 1 ≤ (t.stall a.stall).img.maxLen :=
  ⟨0, (ringArgs 3 0 0), ringAfter 3 0 0 (stallIn .decode), ringState 3 0 0 (stallIn .decode), by decide +kernel⟩

theorem witness_StableRingCommands_specPut : ∃ (ring : Fin 64) (a : CommandArgs) (ts : List Word) (t u : State) (s : State),
      CommandFront s ring 4 a t ∧
      1 ≤ (a.w 2).field 3 0 ∧
      (a.w 2).field 3 0 ≤ 8 ∧
      t.loadWords a.access (a.addr 3) ((a.w 2).field 3 0) = (some ts, u) ∧
      a.jobOk (u.stall a.stall) = true ∧
      (u.stall a.stall).st = .decode ∧
      (u.stall a.stall).specW = 0 :=
  ⟨0, (ringArgs 4 1 0), [0], ringAfter 4 1 0 (stallIn .decode), ringAfter 4 1 0 (stallIn .decode), ringState 4 1 0 (stallIn .decode), by decide +kernel⟩

theorem witness_StableRingCommands_rollback : ∃ (ring : Fin 64) (a : CommandArgs) (t : State) (s : State),
      CommandFront s ring 5 a t ∧
      a.jobOk (t.stall a.stall) = true ∧
      (t.stall a.stall).st = .decode :=
  ⟨0, (ringArgs 5 0 0), ringAfter 5 0 0 (stallIn .decode), ringState 5 0 0 (stallIn .decode), by decide +kernel⟩

theorem witness_StableRingCommands_park : ∃ (ring : Fin 64) (a : CommandArgs) (t : State) (s : State),
      CommandFront s ring 6 a t ∧
      a.jobOk (t.stall a.stall) = true ∧
      ((t.stall a.stall).st = .decode ∨ (t.stall a.stall).st = .parked) :=
  ⟨0, (ringArgs 6 0 0), ringAfter 6 0 0 (stallIn .decode), ringState 6 0 0 (stallIn .decode), by decide +kernel⟩

theorem witness_StableRingCommands_unpark : ∃ (ring : Fin 64) (a : CommandArgs) (t : State) (s : State),
      CommandFront s ring 7 a t ∧
      a.jobOk (t.stall a.stall) = true ∧
      (t.stall a.stall).st = .parked :=
  ⟨0, (ringArgs 7 0 0), ringAfter 7 0 0 (stallIn .parked), ringState 7 0 0 (stallIn .parked), by decide +kernel⟩

theorem witness_StableRingCommands_recall : ∃ (ring : Fin 64) (a : CommandArgs) (t : State) (s : State),
      CommandFront s ring 7 a t ∧
      a.jobOk (t.stall a.stall) = true ∧
      (t.stall a.stall).st = .evicted ∧
      (t.stall a.stall).move = none ∧
      (t.setStall a.stall { t.stall a.stall with hostPark := false }).recallFits a.stall = true :=
  ⟨0, (ringArgs 7 0 0), ringAfter 7 0 0 (stallIn .evicted), ringState 7 0 0 (stallIn .evicted), by decide +kernel⟩

theorem witness_StableRingCommands_evict : ∃ (ring : Fin 64) (a : CommandArgs) (t : State) (s : State),
      CommandFront s ring 8 a t ∧
      a.jobOk (t.stall a.stall) = true ∧
      (t.stall a.stall).st = .parked ∧
      (t.stall a.stall).move = none ∧
      (t.extentOf a.stall).2.2 ≠ 0 ∧
      4096 + ((t.privatePages a.stall).map fun x => 2 ^ (t.poolFor a.stall x.2.2).log2).sum + 128 * (t.privatePages a.stall).length ≤ (t.extentOf a.stall).2.2 :=
  ⟨0, (ringArgs 8 0 0), ringAfter 8 0 0 (stallIn .parked), ringState 8 0 0 (stallIn .parked), by decide +kernel⟩

theorem witness_StableRingCommands_rebuild : ∃ (ring : Fin 64) (a : CommandArgs) (t : State) (s : State),
      CommandFront s ring 10 a t ∧
      a.jobOk (t.stall a.stall) = true ∧
      ((t.stall a.stall).st = .prefill ∨ (t.stall a.stall).st = .decode ∨ (t.stall a.stall).st = .parked ∨ (t.stall a.stall).st = .evicted) :=
  ⟨0, (ringArgs 10 0 0), ringAfter 10 0 0 (stallIn .decode), ringState 10 0 0 (stallIn .decode), by decide +kernel⟩

theorem witness_StableRingCommands_publish : ∃ (ring : Fin 64) (a : CommandArgs) (t : State) (s : State),
      CommandFront s ring 13 a t ∧
      a.jobOk (t.stall a.stall) = true ∧
      ((t.stall a.stall).st = .decode ∨ (t.stall a.stall).st = .parked) :=
  ⟨0, (ringArgs 13 0 0), ringAfter 13 0 0 (stallIn .decode), ringState 13 0 0 (stallIn .decode), by decide +kernel⟩

theorem witness_StableLifeCommands_tail : ∃ (src : Source) (ring : Fin 64) (tail : BitVec 16) (cyc : Nat) (s : State),
      (s.advance cyc).mayWrite src (crReg ring.val Reg.STB_CRn_TAIL) = true ∧
      (tail - (s.advance cyc).crHead ring.val).toNat ≤ (s.advance cyc).crSize ring.val :=
  ⟨.pcie 0, 0, 16, 0, ringState 1 0 0 Stall.reset, by decide +kernel⟩

theorem witness_StableLifeCommands_admit : ∃ (ring : Fin 64) (a : CommandArgs) (t : State) (ws : List Word) (u : State) (i : Nat) (s : State),
      CommandFront s ring 1 a t ∧
      t.readImage a 2 = (some ws, u) ∧
      u.targetStall a = some i ∧
      (u.stall i).st = .empty ∧
      u.freeFrames ≠ [] :=
  ⟨0, imageArgs 1, imageAfter 1 Stall.reset, imageWords, imageAfter 1 Stall.reset, 0, imageState 1 Stall.reset, by decide +kernel⟩

theorem witness_StableLifeCommands_readmit : ∃ (ring : Fin 64) (a : CommandArgs) (t : State) (ws : List Word) (u : State) (i : Nat) (s : State),
      CommandFront s ring 1 a t ∧
      t.readImage a 2 = (some ws, u) ∧
      u.targetStall a = some i ∧
      (u.stall i).st = .draining ∧
      a.jobOk (u.stall i) = true :=
  ⟨0, imageArgs 1, imageAfter 1 (stallIn .draining), imageWords, imageAfter 1 (stallIn .draining), 0, imageState 1 (stallIn .draining), by decide +kernel⟩

theorem witness_StableLifeCommands_lookup : ∃ (i : Fin 16384) (s : State),
      (s.stall i.val).st = .admitted ∧
      (s.stall i.val).next = none :=
  ⟨0, ringState 1 0 0 (stallIn .admitted), by decide +kernel⟩

theorem witness_StableLifeCommands_drain : ∃ (i : Fin 16384) (s : State),
      (s.stall i.val).st = .draining ∧
      (s.stall i.val).next = none ∧
      (s.stall i.val).drainAt.toNat < s.stepValue.toNat ∧
      (s.stall i.val).kept = none :=
  ⟨0, drainState none, by decide +kernel⟩

theorem witness_StableLifeCommands_drainKept : ∃ (i : Fin 16384) (img : StallImage) (stride : BitVec 48) (job bnd f : Nat) (u v : State) (s : State),
      (s.stall i.val).st = .draining ∧
      (s.stall i.val).next = none ∧
      (s.stall i.val).drainAt.toNat < s.stepValue.toNat ∧
      (s.stall i.val).kept = some (img, stride, job, bnd) ∧
      u = (s.framesOf (s.stall i.val)).foldl State.freeFrame (s.dropPages i.val fun _ => true) ∧
      u.pick (s.framesOf (s.stall i.val)) = (some f, v) :=
  ⟨0, Stall.reset.img, 0, 0, 0, 0, keptFreed, (keptFreed.pick (keptState.framesOf (keptState.stall 0))).2, keptState, by decide +kernel, by decide +kernel, by decide +kernel, by decide +kernel, rfl, kept_pick⟩

theorem witness_StableLifeCommands_fork : ∃ (ring : Fin 64) (a : CommandArgs) (t : State) (ws : List Word) (u v : State) (i : Nat) (s : State),
      CommandFront s ring 9 a t ∧
      t.readImage a 3 = (some ws, u) ∧
      ((forkImage (imageOf ws) (u.stall ((a.w 2).field 13 0))).layers + 1) * ((forkImage (imageOf ws) (u.stall ((a.w 2).field 13 0))).groups + 1) * (forkImage (imageOf ws) (u.stall ((a.w 2).field 13 0))).chunks ≤ 1024 ∧
      a.jobOk (u.stall ((a.w 2).field 13 0)) = true ∧
      u.targetStall a = some i ∧
      (u.stall i).st = .empty ∧
      ((u.stall ((a.w 2).field 13 0)).st = .decode ∨ (u.stall ((a.w 2).field 13 0)).st = .parked) ∧
      (∀ p ∈ (u.entries (u.stall ((a.w 2).field 13 0))).filterMap (fun e => (residentPage e.2.2).map fun n => (e.1, n)), u.refs p.2 < 65535) ∧
      u.forkInto a.job (imageOf ws) (u.stall ((a.w 2).field 13 0)) i ((u.entries (u.stall ((a.w 2).field 13 0))).filterMap fun e => (residentPage e.2.2).map fun n => (e.1, n)) = some v :=
  ⟨0, imageArgs 9, imageAfter 9 Stall.reset, imageWords, imageAfter 9 Stall.reset, ((imageAfter 9 Stall.reset).forkInto 0 (imageOf imageWords) ((imageAfter 9 Stall.reset).stall 1) 0 []).getD State.reset, 0, imageState 9 Stall.reset, ⟨by decide +kernel, by decide +kernel, by decide +kernel⟩, by decide +kernel, by decide +kernel, by decide +kernel, by decide +kernel, by decide +kernel, by decide +kernel, by decide +kernel, fork_empty⟩

theorem witness_StableLifeCommands_query : ∃ (ring : Fin 64) (a : CommandArgs) (t : State) (u : State) (s : State),
      CommandFront s ring 11 a t ∧
      a.addr 2 % 64 = 0 ∧
      a.jobOk (t.stall a.stall) = true ∧
      t.storeWords a.access (a.addr 2) (t.stall a.stall).words = (.ok, u) :=
  ⟨0, ringArgs 11 0x30000 0, ringAfter 11 0x30000 0 (stallIn .decode), ((ringAfter 11 0x30000 0 (stallIn .decode)).storeWords (ringArgs 11 0x30000 0).access 0x30000 (stallIn .decode).words).2, ringState 11 0x30000 0 (stallIn .decode), by decide +kernel⟩

theorem witness_StableLifeCommands_set : ∃ (ring : Fin 64) (a : CommandArgs) (t : State) (ws : List Word) (u : State) (s : State),
      CommandFront s ring 12 a t ∧
      t.readImage a 2 = (some ws, u) ∧
      a.jobOk (u.stall a.stall) = true ∧
      (u.stall a.stall).st ≠ .empty :=
  ⟨0, imageArgs 12, imageAfter 12 (stallIn .decode), imageWords, imageAfter 12 (stallIn .decode), imageState 12 (stallIn .decode), by decide +kernel⟩

theorem witness_StableLifeCommands_plan : ∃ (s : State),
      s.isOn .stable = true ∧
      s.stb.planDue = true :=
  ⟨ringState 1 0 0 Stall.reset, by decide +kernel⟩

theorem witness_DraughtPortCommands_load : ∃ (p : Fin 64) (cyc : Nat) (e : Delivered) (t : State) (bs : List Byte) (u : State) (s : State),
      (s.advance cyc).servedAt p = some (e, t) ∧
      e.packet.kind = 1 ∧
      t.load (portAccess p e.packet) e.packet.local_ (4 * lenWords e.packet.len) = (bs, .ok, u) :=
  ⟨0, 0, (delivered 1 []), ((portState ((delivered 1 []))).advance 0).servedAt 0 |>.elim State.reset (·.2), List.replicate 4 0, (((((portState ((delivered 1 []))).advance 0).servedAt 0 |>.elim State.reset (·.2))).load (portAccess 0 ((delivered 1 [])).packet) 0 4).2.2, portState (delivered 1 []), by decide +kernel⟩

theorem witness_DraughtPortCommands_store : ∃ (p : Fin 64) (cyc : Nat) (e : Delivered) (t : State) (u : State) (s : State),
      (s.advance cyc).servedAt p = some (e, t) ∧
      e.packet.kind = 2 ∧
      t.store (portAccess p e.packet) e.packet.local_ e.packet.data = (.ok, u) :=
  ⟨0, 0, (delivered 2 [1, 2, 3, 4]), ((portState ((delivered 2 [1, 2, 3, 4]))).advance 0).servedAt 0 |>.elim State.reset (·.2), (((((portState ((delivered 2 [1, 2, 3, 4]))).advance 0).servedAt 0 |>.elim State.reset (·.2))).store (portAccess 0 ((delivered 2 [1, 2, 3, 4])).packet) 0 [1, 2, 3, 4]).2, portState (delivered 2 [1, 2, 3, 4]), by decide +kernel⟩

theorem witness_DraughtPortCommands_flagStore : ∃ (p : Fin 64) (cyc : Nat) (e : Delivered) (t : State) (u : State) (s : State),
      (s.advance cyc).servedAt p = some (e, t) ∧
      e.packet.kind = 3 ∧
      t.store (portAccess p e.packet) e.packet.local_ (e.packet.data.drop 16) = (.ok, u) :=
  ⟨0, 0, (delivered 3 (List.replicate 16 0 ++ [1, 2, 3, 4])), ((portState ((delivered 3 (List.replicate 16 0 ++ [1, 2, 3, 4])))).advance 0).servedAt 0 |>.elim State.reset (·.2), (((((portState ((delivered 3 (List.replicate 16 0 ++ [1, 2, 3, 4])))).advance 0).servedAt 0 |>.elim State.reset (·.2))).store (portAccess 0 ((delivered 3 (List.replicate 16 0 ++ [1, 2, 3, 4]))).packet) 0 [1, 2, 3, 4]).2, portState (delivered 3 (List.replicate 16 0 ++ [1, 2, 3, 4])), by decide +kernel⟩

theorem witness_DraughtPortCommands_service : ∃ (p : Fin 64) (cyc : Nat) (e : Delivered) (t : State) (s : State),
      (s.advance cyc).servedAt p = some (e, t) ∧
      e.packet.kind = 7 :=
  ⟨0, 0, (delivered 7 []), ((portState ((delivered 7 []))).advance 0).servedAt 0 |>.elim State.reset (·.2), portState (delivered 7 []), by decide +kernel⟩

theorem witness_DraughtPortCommands_add32 : ∃ (p : Fin 64) (cyc : Nat) (e : Delivered) (t : State) (old : Nat) (st : Status) (u : State) (s : State),
      (s.advance cyc).servedAt p = some (e, t) ∧
      e.packet.kind = 4 ∧
      atomicOp e.packet.data = 1 ∧
      e.packet.local_ % 4 = 0 ∧
      t.modify (portAccess p e.packet) e.packet.local_ 4 (fun old => addMod 32 old ((wordsOf e.packet.data).getD 1 0).toNat) = (some old, st, u) :=
  ⟨0, 0, (delivered 4 (bytesOf [0x10000000, 5, 6, 0])), ((portState ((delivered 4 (bytesOf [0x10000000, 5, 6, 0])))).advance 0).servedAt 0 |>.elim State.reset (·.2), 0, .ok, (((((portState ((delivered 4 (bytesOf [0x10000000, 5, 6, 0])))).advance 0).servedAt 0 |>.elim State.reset (·.2))).modify (portAccess 0 ((delivered 4 (bytesOf [0x10000000, 5, 6, 0]))).packet) 0 4 (fun old => addMod 32 old ((wordsOf (delivered 4 (bytesOf [0x10000000, 5, 6, 0])).packet.data).getD 1 0).toNat)).2.2, portState (delivered 4 (bytesOf [0x10000000, 5, 6, 0])), by decide +kernel⟩

theorem witness_DraughtPortCommands_add64 : ∃ (p : Fin 64) (cyc : Nat) (e : Delivered) (t : State) (old : Nat) (st : Status) (u : State) (s : State),
      (s.advance cyc).servedAt p = some (e, t) ∧
      e.packet.kind = 4 ∧
      atomicOp e.packet.data = 2 ∧
      e.packet.local_ % 8 = 0 ∧
      t.modify (portAccess p e.packet) e.packet.local_ 8 (fun old => addMod 64 old (pairOf ((wordsOf e.packet.data).getD 1 0) ((wordsOf e.packet.data).getD 2 0))) = (some old, st, u) :=
  ⟨0, 0, (delivered 4 (bytesOf [0x20000000, 5, 6, 0])), ((portState ((delivered 4 (bytesOf [0x20000000, 5, 6, 0])))).advance 0).servedAt 0 |>.elim State.reset (·.2), 0, .ok, (((((portState ((delivered 4 (bytesOf [0x20000000, 5, 6, 0])))).advance 0).servedAt 0 |>.elim State.reset (·.2))).modify (portAccess 0 ((delivered 4 (bytesOf [0x20000000, 5, 6, 0]))).packet) 0 8 (fun old => addMod 64 old (pairOf ((wordsOf (delivered 4 (bytesOf [0x20000000, 5, 6, 0])).packet.data).getD 1 0) ((wordsOf (delivered 4 (bytesOf [0x20000000, 5, 6, 0])).packet.data).getD 2 0)))).2.2, portState (delivered 4 (bytesOf [0x20000000, 5, 6, 0])), by decide +kernel⟩

theorem witness_DraughtPortCommands_swap32 : ∃ (p : Fin 64) (cyc : Nat) (e : Delivered) (t : State) (old : Nat) (st : Status) (u : State) (s : State),
      (s.advance cyc).servedAt p = some (e, t) ∧
      e.packet.kind = 4 ∧
      atomicOp e.packet.data = 3 ∧
      e.packet.local_ % 4 = 0 ∧
      t.modify (portAccess p e.packet) e.packet.local_ 4 (fun _ => ((wordsOf e.packet.data).getD 1 0).toNat) = (some old, st, u) :=
  ⟨0, 0, (delivered 4 (bytesOf [0x30000000, 5, 6, 0])), ((portState ((delivered 4 (bytesOf [0x30000000, 5, 6, 0])))).advance 0).servedAt 0 |>.elim State.reset (·.2), 0, .ok, (((((portState ((delivered 4 (bytesOf [0x30000000, 5, 6, 0])))).advance 0).servedAt 0 |>.elim State.reset (·.2))).modify (portAccess 0 ((delivered 4 (bytesOf [0x30000000, 5, 6, 0]))).packet) 0 4 (fun _ => ((wordsOf (delivered 4 (bytesOf [0x30000000, 5, 6, 0])).packet.data).getD 1 0).toNat)).2.2, portState (delivered 4 (bytesOf [0x30000000, 5, 6, 0])), by decide +kernel⟩

theorem witness_DraughtPortCommands_swap64 : ∃ (p : Fin 64) (cyc : Nat) (e : Delivered) (t : State) (old : Nat) (st : Status) (u : State) (s : State),
      (s.advance cyc).servedAt p = some (e, t) ∧
      e.packet.kind = 4 ∧
      atomicOp e.packet.data = 4 ∧
      e.packet.local_ % 8 = 0 ∧
      t.modify (portAccess p e.packet) e.packet.local_ 8 (fun _ => pairOf ((wordsOf e.packet.data).getD 1 0) ((wordsOf e.packet.data).getD 2 0)) = (some old, st, u) :=
  ⟨0, 0, (delivered 4 (bytesOf [0x40000000, 5, 6, 0])), ((portState ((delivered 4 (bytesOf [0x40000000, 5, 6, 0])))).advance 0).servedAt 0 |>.elim State.reset (·.2), 0, .ok, (((((portState ((delivered 4 (bytesOf [0x40000000, 5, 6, 0])))).advance 0).servedAt 0 |>.elim State.reset (·.2))).modify (portAccess 0 ((delivered 4 (bytesOf [0x40000000, 5, 6, 0]))).packet) 0 8 (fun _ => pairOf ((wordsOf (delivered 4 (bytesOf [0x40000000, 5, 6, 0])).packet.data).getD 1 0) ((wordsOf (delivered 4 (bytesOf [0x40000000, 5, 6, 0])).packet.data).getD 2 0))).2.2, portState (delivered 4 (bytesOf [0x40000000, 5, 6, 0])), by decide +kernel⟩

theorem witness_DraughtPortCommands_cas32 : ∃ (p : Fin 64) (cyc : Nat) (e : Delivered) (t : State) (old : Nat) (st : Status) (u : State) (s : State),
      (s.advance cyc).servedAt p = some (e, t) ∧
      e.packet.kind = 4 ∧
      atomicOp e.packet.data = 5 ∧
      e.packet.local_ % 4 = 0 ∧
      t.modify (portAccess p e.packet) e.packet.local_ 4 (fun old => if old = ((wordsOf e.packet.data).getD 1 0).toNat then ((wordsOf e.packet.data).getD 2 0).toNat else old) = (some old, st, u) :=
  ⟨0, 0, (delivered 4 (bytesOf [0x50000000, 5, 6, 0])), ((portState ((delivered 4 (bytesOf [0x50000000, 5, 6, 0])))).advance 0).servedAt 0 |>.elim State.reset (·.2), 0, .ok, (((((portState ((delivered 4 (bytesOf [0x50000000, 5, 6, 0])))).advance 0).servedAt 0 |>.elim State.reset (·.2))).modify (portAccess 0 ((delivered 4 (bytesOf [0x50000000, 5, 6, 0]))).packet) 0 4 (fun old => if old = ((wordsOf (delivered 4 (bytesOf [0x50000000, 5, 6, 0])).packet.data).getD 1 0).toNat then ((wordsOf (delivered 4 (bytesOf [0x50000000, 5, 6, 0])).packet.data).getD 2 0).toNat else old)).2.2, portState (delivered 4 (bytesOf [0x50000000, 5, 6, 0])), by decide +kernel⟩

theorem witness_DraughtPortCommands_resp : ∃ (p : Fin 64) (cyc : Nat) (e : Delivered) (rest : List Delivered) (r : DrgRequest) (s : State),
      (s.advance cyc).drg.resps.getD p.val [] = e :: rest ∧
      ((s.advance cyc).drg.requests.find? fun r => r.pair == pairKey p e.src && !r.verdict && (match r.seq with | some q => q % 2 ^ 20 == e.packet.reqSeq % 2 ^ 20 | none => false)) = some r :=
  ⟨0, 0, ⟨1, 0, ⟨5, 0, 0, 0, [], 0, 7⟩⟩, [], drgRequest, { State.reset with drg := { State.reset.drg with requests := [drgRequest], resps := [(0, [⟨1, 0, ⟨5, 0, 0, 0, [], 0, 7⟩⟩])] } }, by decide +kernel⟩

theorem witness_DraughtLinkCommands_receive : ∃ (x : SlotId) (flit : List Byte) (cyc : Nat) (g : Grant) (low : Nat) (k : Packet) (s : State),
      x.rx = true ∧
      (s.advance cyc).grantOf x = some g ∧
      g.probe = false ∧
      ((s.advance cyc).slot x).discard = false ∧
      ((s.advance cyc).slot x).dark = false ∧
      (s.advance cyc).carries x = true ∧
      readFlit flit = some (g.src, low, k) ∧
      k.kind ≠ 6 ∧
      rebuildSeq ((s.advance cyc).pair (pairKey g.src x.port)).expect low = ((s.advance cyc).pair (pairKey g.src x.port)).expect :=
  ⟨lineSlot, flitBytes, 0, lineGrant, 0, ⟨1, 1, 0, 0, [], 0, 0⟩, lineState, by decide +kernel⟩

theorem witness_DraughtLinkCommands_gap : ∃ (src dst : Fin 64) (cyc g : Nat) (s : State),
      ((s.advance cyc).pair (pairKey src dst)).gapAt = some g ∧
      g + 128 ≤ (s.advance cyc).now :=
  ⟨0, 1, 0, 0, { (State.reset).setPair 1 { Pair.reset with gapAt := some 0 } with clk := { State.reset.clk with base := 128 } }, by decide +kernel⟩

theorem witness_DraughtLinkCommands_replay : ∃ (src dst : Fin 64) (seq : BitVec 24) (cyc : Nat) (u : Sent) (s : State),
      (((s.advance cyc).pair (pairKey src dst)).unacked.find? fun u => u.seq == seq.toNat) = some u ∧
      u.last + 2 ≤ (s.advance cyc).clk.bnd ∧
      u.again = false :=
  ⟨0, 1, 0, 0, sentPacket, { (State.reset).setPair 1 { Pair.reset with unacked := [sentPacket] } with clk := { State.reset.clk with bnd := 2 } }, by decide +kernel⟩

theorem witness_DraughtLinkCommands_withdraw : ∃ (id cyc : Nat) (r : DrgRequest) (s : State),
      ((s.advance cyc).drg.requests.find? fun r => r.id == id) = some r ∧
      r.remote = false ∧
      r.verdict = false ∧
      r.issued + 8000 ≤ (s.advance cyc).now :=
  ⟨0, 0, drgRequest, { State.reset with drg := { State.reset.drg with requests := [drgRequest] }, clk := { State.reset.clk with base := 8000 } }, by decide +kernel⟩

theorem witness_StallMoveCommands_evicted : ∃ (i : Fin 16384) (m : StallMove) (s : State),
      (s.stall i.val).move = some m ∧
      m.isRecall = false ∧
      m.left = 0 ∧
      m.bad = false :=
  ⟨0, ⟨false, false, none, [], 0, []⟩, moveState ⟨false, false, none, [], 0, []⟩, by decide +kernel⟩

theorem witness_StallMoveCommands_evictFails : ∃ (i : Fin 16384) (m : StallMove) (ok : Bool) (s : State),
      (s.stall i.val).move = some m ∧
      m.isRecall = false ∧
      m.left = 0 ∧
      (ok = false ∨ m.bad = true) :=
  ⟨0, ⟨false, true, none, [], 0, []⟩, true, moveState ⟨false, true, none, [], 0, []⟩, by decide +kernel⟩

theorem witness_StallMoveCommands_recalled : ∃ (i : Fin 16384) (extent : List Byte) (m : StallMove) (t u : State) (s : State),
      (s.stall i.val).move = some m ∧
      m.isRecall = true ∧
      m.left = 0 ∧
      m.bad = false ∧
      t = s.endHostRead i.val ∧
      t.recallFits i.val = true ∧
      t.restorePages i.val extent (t.evictedEntries i.val).length (t.evictedEntries i.val) = some u :=
  ⟨0, [], ⟨true, false, none, [], 0, []⟩, (moveState ⟨true, false, none, [], 0, []⟩).endHostRead 0, (moveState ⟨true, false, none, [], 0, []⟩).endHostRead 0, moveState ⟨true, false, none, [], 0, []⟩, by decide +kernel, by decide +kernel, by decide +kernel, by decide +kernel, rfl, by decide +kernel⟩

theorem witness_StallMoveCommands_noSpace : ∃ (i : Fin 16384) (ok : Bool) (extent : List Byte) (m : StallMove) (s : State),
      (s.stall i.val).move = some m ∧
      m.isRecall = true ∧
      m.left = 0 ∧
      (s.endHostRead i.val).recallFits i.val = false :=
  ⟨0, true, [], ⟨true, false, none, [], 0, []⟩, fullState, by decide +kernel⟩

theorem witness_StallMoveCommands_unwhole : ∃ (i : Fin 16384) (ok : Bool) (extent : List Byte) (m : StallMove) (s : State),
      (s.stall i.val).move = some m ∧
      m.isRecall = true ∧
      m.left = 0 ∧
      (s.endHostRead i.val).recallFits i.val = true ∧
      (ok = false ∨ m.bad = true) :=
  ⟨0, false, [], ⟨true, false, none, [], 0, []⟩, moveState ⟨true, false, none, [], 0, []⟩, by decide +kernel⟩

theorem witness_RingLockCommands_locked : ∃ (r : RingId) (detune : Int) (cyc : Nat) (s : State),
      ((s.advance cyc).lockOf r = .locked ∨ (s.advance cyc).lockOf r = .drift) ∧
      detune.natAbs ≤ 12 :=
  ⟨ring0, 5, 0, lockState .locked, by decide +kernel⟩

theorem witness_RingLockCommands_drift : ∃ (r : RingId) (detune : Int) (cyc : Nat) (s : State),
      (s.advance cyc).lockOf r = .locked ∧
      12 < detune.natAbs ∧
      detune.natAbs ≤ 32 :=
  ⟨ring0, -32, 0, lockState .locked, by decide +kernel⟩

theorem witness_RingLockCommands_lost : ∃ (r : RingId) (detune : Int) (cyc : Nat) (s : State),
      ((s.advance cyc).lockOf r = .locked ∨ (s.advance cyc).lockOf r = .drift) ∧
      32 < detune.natAbs :=
  ⟨ring0, 33, 0, lockState .drift, by decide +kernel⟩

theorem witness_RingLockCommands_reacquire : ∃ (r : RingId) (b : Nat) (s : State),
      (s.ring r).reacquireBy = some b ∧
      b ≤ s.clk.bnd ∧
      (s.ring r).lock ≠ .locked ∧
      r = (s.setRing r { s.ring r with reacquireBy := none }).servingRing r.slot :=
  ⟨ring0, 0, (lockState .parked).setRing ring0 { (lockState .parked).ring ring0 with reacquireBy := some 0 }, by decide +kernel⟩

theorem witness_RingLockCommands_acquired : ∃ (r : RingId) (n : Fin 64) (s : State),
      (s.ring r).lock = .acquiring ∧
      (s.ring r).target = some n :=
  ⟨ring0, 7, (lockState .acquiring).setRing ring0 { (lockState .acquiring).ring ring0 with target := some 7 }, by decide +kernel⟩

theorem witness_RingLockCommands_swept : ∃ (r : RingId) (n : Fin 64) (s : State),
      (s.ring r).lock = .sweeping ∧
      (s.ring r).target = some n :=
  ⟨ring0, 7, (lockState .sweeping).setRing ring0 { (lockState .sweeping).ring ring0 with target := some 7 }, by decide +kernel⟩

theorem witness_RingLockCommands_sweptNone : ∃ (r : RingId) (s : State),
      (s.ring r).lock = .sweeping :=
  ⟨ring0, lockState .sweeping, by decide +kernel⟩

theorem witness_RingLockCommands_beacon : ∃ (x : SlotId) (copies : List (List Word)) (g : Grant) (t : State) (s : State),
      t = s.advance 32 ∧
      x.rx = true ∧
      t.grantOf x = some g ∧
      (t.slot x).discard = false ∧
      (t.slot x).dark = false ∧
      acceptBeacon copies = some (g.beacon t.clk.stride) :=
  ⟨lineSlot, List.replicate 4 (lineGrant.beacon 0), lineGrant, lineState.advance 32, lineState, rfl, by decide +kernel⟩

theorem witness_RingLockCommands_noBeacon : ∃ (x : SlotId) (copies : List (List Word)) (g : Grant) (t : State) (s : State),
      t = s.advance 32 ∧
      x.rx = true ∧
      t.grantOf x = some g ∧
      (t.slot x).discard = false ∧
      (t.slot x).dark = false ∧
      acceptBeacon copies ≠ some (g.beacon t.clk.stride) :=
  ⟨lineSlot, [], lineGrant, lineState.advance 32, lineState, rfl, by decide +kernel⟩

theorem witness_RingLockCommands_allocator : ∃ (t : State) (s : State),
      t = s.advance (s.clk.len - 384) ∧
      t.isOn .allocator = true :=
  ⟨(turnOn [.allocator] State.reset).advance 640, turnOn [.allocator] State.reset, rfl, by decide +kernel⟩

theorem witness_LaserCommands_tap : ∃ (p : Fin 16) (reading even odd sample : Int) (k : Fin 8) (u v w : State) (s : State),
      k = cartOf (quadOfPlane p) (s.feed p).src ∧
      (s.unit (.cartridge k)).st = .on ∧
      (s.feed p).moving = none ∧
      u = ((((s.setCart (cartOf (quadOfPlane p) false) { s.cart (cartOf (quadOfPlane p) false) with monitor := even }).setCart (cartOf (quadOfPlane p) true)
 { (s.setCart (cartOf (quadOfPlane p) false) { s.cart (cartOf (quadOfPlane p) false) with monitor := even }).cart (cartOf (quadOfPlane p) true) with monitor := odd }))) ∧
      v = u.recordNominal k p reading ∧
      sample = v.tapSample k p reading ∧
      -120 < sample ∧
      w = (v.setFeed p { v.feed p with samples := (sample :: (v.feed p).samples).take 1024, average := fadeAverage ((sample :: (v.feed p).samples).take 1024) }).judgeSpare ((v.feed p).otherCart (quadOfPlane p)) ∧
      (((w.judgePath p k).judgeFade k).quad (quadOfPlane p)).swap = .idle :=
  ⟨0, 0, 0, 0, _, _, _, _, _, feedState, rfl, by decide +kernel, by decide +kernel, rfl, rfl, rfl, by decide +kernel, rfl, by decide +kernel⟩

theorem witness_LaserCommands_tapDark : ∃ (p : Fin 16) (reading even odd sample : Int) (k : Fin 8) (u v w : State) (s : State),
      k = cartOf (quadOfPlane p) (s.feed p).src ∧
      (s.unit (.cartridge k)).st = .on ∧
      (s.feed p).moving = none ∧
      (s.feed p).waits = false ∧
      u = ((((s.setCart (cartOf (quadOfPlane p) false) { s.cart (cartOf (quadOfPlane p) false) with monitor := even }).setCart (cartOf (quadOfPlane p) true)
 { (s.setCart (cartOf (quadOfPlane p) false) { s.cart (cartOf (quadOfPlane p) false) with monitor := even }).cart (cartOf (quadOfPlane p) true) with monitor := odd }))) ∧
      v = u.recordNominal k p reading ∧
      sample = v.tapSample k p reading ∧
      sample ≤ -120 ∧
      w = (v.setFeed p { v.feed p with samples := (sample :: (v.feed p).samples).take 1024, average := fadeAverage ((sample :: (v.feed p).samples).take 1024) }).judgeSpare ((v.feed p).otherCart (quadOfPlane p)) :=
  ⟨0, -2000, 0, 0, _, _, _, _, _, darkState, rfl, by decide +kernel, by decide +kernel, by decide +kernel, rfl, rfl, rfl, by decide +kernel, rfl⟩

theorem witness_LaserCommands_swap : ∃ (src : Source) (q : Fin 4) (b : Bool) (s : State),
      s.mayWrite src (Reg.LAS_QUADq_CTL + 16 * q.val) = true ∧
      (s.quad q).swap = .idle ∧
      ([false, true].find? fun b => s.cartRole (cartOf q b) == 1) = some b :=
  ⟨.pcie 0, 0, false, feedState, by decide +kernel⟩

theorem witness_LaserCommands_swapRefused : ∃ (src : Source) (q : Fin 4) (s : State),
      s.mayWrite src (Reg.LAS_QUADq_CTL + 16 * q.val) = true ∧
      (s.quad q).swap ≠ .idle :=
  ⟨.pcie 0, 0, feedState.setQuad 0 { Quadrant.reset with swap := .gap }, by decide +kernel⟩

theorem witness_LaserCommands_settled : ∃ (p : Fin 16) (t : Bool) (reading predicted : Int) (cyc : Nat) (s : State),
      ((s.advance cyc).feed p).moving = some t ∧
      ((s.advance cyc).feed p).backed = false ∧
      (s.advance cyc).tapConfirms (cartOf (quadOfPlane p) t) p reading predicted = true :=
  ⟨0, true, 0, 100, 0, switchState, by decide +kernel⟩

theorem witness_LaserCommands_settledElsewhere : ∃ (p : Fin 16) (t : Bool) (source : Option Bool) (reading predicted : Int) (cyc : Nat) (s : State),
      ((s.advance cyc).feed p).moving = some t ∧
      ((s.advance cyc).feed p).backed = false ∧
      source ≠ some t ∧
      p ∉ (s.advance cyc).underWay (quadOfPlane p) :=
  ⟨0, true, none, 0, 0, 0, switchState, by decide +kernel⟩

theorem witness_LaserCommands_gap : ∃ (q : Fin 4) (b : Nat) (s : State),
      (s.quad q).gapEnd = some b ∧
      b ≤ s.clk.bnd + 1 :=
  ⟨0, 1, State.reset.setQuad 0 { Quadrant.reset with swap := .gap, gapEnd := some 1 }, by decide +kernel⟩

theorem witness_LaserCommands_loss : ∃ (k : Fin 8) (s : State),
      (s.unit (.cartridge k)).st = .on :=
  ⟨0, feedState, by decide +kernel⟩

theorem witness_LaserCommands_removed : ∃ (k : Fin 8) (u : State) (s : State),
      (s.cart k).present = true ∧
      ((s.cartRole k = 1 ∧ u = (s.logLas Flt.LAS_CART_PULLED k.val).suddenLoss k) ∨ (s.cartRole k = 2 ∧ ((s.logLas Flt.LAS_CART_PULLED k.val).quad (quadOfCart k)).swap = .idle ∧ u = (s.logLas Flt.LAS_CART_PULLED k.val).logLas Flt.LAS_NO_SPARE k.val) ∨ (s.cartRole k = 0 ∧ u = s.logLas Flt.LAS_CART_PULLED k.val)) :=
  ⟨0, State.reset.logLas Flt.LAS_CART_PULLED 0, State.reset, by decide +kernel, Or.inr (Or.inr ⟨by decide +kernel, rfl⟩)⟩

theorem witness_LaserCommands_inserted : ∃ (k : Fin 8) (serial : Word) (s : State),
      (s.cart k).present = false :=
  ⟨0, 5, State.reset.setCart 0 { Cartridge.reset with present := false }, by decide +kernel⟩

theorem witness_LaserCommands_disable : ∃ (src : Source) (k : Fin 8) (force : Bool) (cyc : Nat) (s : State),
      (s.advance cyc).mayWrite src (Reg.LAS_CARTk_CTL + 16 * k.val) = true ∧
      ((s.advance cyc).unit (.cartridge k)).enable = true :=
  ⟨.pcie 0, 0, true, 0, feedState, by decide +kernel⟩

theorem witness_LaserCommands_spareFit : ∃ (k : Fin 8) (monitor : Int) (u : State) (s : State),
      (s.unit (.cartridge k)).st = .on ∧
      (s.cart k).warming = true ∧
      u = s.setCart k { s.cart k with cond := 0, warming := false, monitor := monitor } ∧
      u.fit k = true :=
  ⟨1, 0, _, warmState, by decide +kernel, by decide +kernel, rfl, by decide +kernel⟩

theorem witness_LaserCommands_calibration : ∃ (g : CalGroup) (cyc : Nat) (s : State),
      (s.advance cyc).regF Reg.CAL_CTL 0 0 ≠ 0 ∧
      4 ≤ ((s.advance cyc).calTemp g - (s.advance cyc).calAt g).natAbs :=
  ⟨.engine 0, 0, { State.reset with cal := { State.reset.cal with at_ := [(CalGroup.number (.engine 0), 1000)] } }, by decide +kernel⟩

theorem witness_ReinCommands_read : ∃ (p : ReinPacket) (cyc : Nat) (t : State) (s : State),
      reinBlocked (s.advance cyc).rein p = false ∧
      t = (s.advance cyc).reinArrival p ∧
      p.bad = false ∧
      reinFormed [1] p = true :=
  ⟨⟨0x10000000, 0, 0, 1, [], 0, false, 0⟩, 0, _, State.reset, by decide +kernel, rfl, rfl, by decide⟩

theorem witness_ReinCommands_write : ∃ (p : ReinPacket) (cyc : Nat) (t : State) (s : State),
      reinBlocked (s.advance cyc).rein p = false ∧
      t = (s.advance cyc).reinArrival p ∧
      p.bad = false ∧
      reinFormed [2, 6] p = true :=
  ⟨⟨0x20000000, 0, 0, 0, [], 0, false, 0⟩, 0, _, State.reset, by decide +kernel, rfl, rfl, by decide⟩

theorem witness_ReinCommands_malformed : ∃ (p : ReinPacket) (cyc : Nat) (t : State) (s : State),
      reinBlocked (s.advance cyc).rein p = false ∧
      t = (s.advance cyc).reinArrival p ∧
      p.bad = false ∧
      reinFormed [1] p = false ∧
      reinFormed [2, 6] p = false :=
  ⟨⟨0x70000000, 0, 0, 0, [], 0, false, 0⟩, 0, _, State.reset, by decide +kernel, rfl, rfl, by decide⟩

theorem witness_ReinCommands_waits : ∃ (p : ReinPacket) (cyc : Nat) (t : State) (s : State),
      t = s.advance cyc ∧
      reinBlocked t.rein p = true :=
  ⟨⟨0x10000000, 0, 0, 1, [], 0, false, 0⟩, 0, _, { State.reset with rein := [⟨0, 0, 0, true, 1, 0, 0, 0, none, none, 1, 0, none⟩] }, rfl, by decide +kernel⟩

theorem witness_ReinCommands_response : ∃ (read : Bool) (node : Fin 64) (agent tag : BitVec 8) (d : ReinDelivery) (cyc : Nat) (t : State) (r : ReinRequest) (st : ReinStatus) (ws : List Word) (s : State),
      t = (s.advance cyc).reinFlits d.corrected d.bad d.latency ∧
      d.bad = false ∧
      d.w0.field 31 28 = (if read then 3 else 4) ∧
      d.w0.field 25 25 = 1 ∧
      (t.rein.find? fun r => r.is node agent tag && r.read == read && r.answer.isSome && decide (t.now ≤ r.sent + 2000)) = some r ∧
      r.answer = some (st, ws) :=
  ⟨true, 0, 0, 0, ⟨0x32000000, 0, false, 0⟩, 0, _, ⟨0, 0, 0, true, 1, 0, 0, 0, none, some (.ok, [5]), 0, 0, none⟩, .ok, [5], { State.reset with rein := [⟨0, 0, 0, true, 1, 0, 0, 0, none, some (.ok, [5]), 0, 0, none⟩] }, rfl, by decide +kernel⟩

theorem witness_ReinCommands_responseBad : ∃ (read : Bool) (node : Fin 64) (agent tag : BitVec 8) (d : ReinDelivery) (cyc : Nat) (t : State) (s : State),
      t = (s.advance cyc).reinFlits d.corrected d.bad d.latency ∧
      (d.w0.field 31 28 ≠ (if read then 3 else 4) ∨ d.w0.field 25 25 ≠ 1) :=
  ⟨true, 0, 0, 0, ⟨0, 0, false, 0⟩, 0, _, State.reset, rfl, by decide⟩

theorem witness_ReinCommands_bcast : ∃ (p : ReinPacket) (dropped : List CoreId) (cyc : Nat) (t : State) (s : State),
      t = (s.advance cyc).reinArrival p ∧
      p.bad = false ∧
      reinFormed [5] p = true :=
  ⟨⟨0x50000000, 0, 0, 0, [], 0, false, 0⟩, [], 0, _, State.reset, rfl, rfl, by decide⟩

theorem witness_ReinCommands_timeout : ∃ (node : Fin 64) (agent tag : BitVec 8) (cyc : Nat) (r : ReinRequest) (s : State),
      ((s.advance cyc).rein.find? fun r => r.is node agent tag && r.held.isNone && decide (r.sent + 2000 ≤ (s.advance cyc).now)) = some r ∧
      r.watch = none :=
  ⟨0, 0, 0, 0, ⟨0, 0, 0, true, 1, 0, 0, 0, none, none, 0, 0, none⟩, { State.reset with rein := [⟨0, 0, 0, true, 1, 0, 0, 0, none, none, 0, 0, none⟩], clk := { State.reset.clk with base := 2000 } }, by decide +kernel⟩

theorem witness_HitchCommands_signal : ∃ (err : FrameError) (f : Frame) (rest : List Frame) (v t : State) (s : State),
      s.hitch.flight = f :: rest ∧
      (err = .none ∨ err = .corrected) ∧
      f.land < s.strideEnd ∧
      v = s.advanceTo f.land ∧
      v.hubFull f = false ∧
      t = ({ v with hitch := { v.hitch with flight := (combine f.slot f.ctr f.amount true rest).2.2 } }).noteCorrected err :=
  ⟨.corrected, ⟨.host 0, 1, 0, 0, 0, 0, .plain, 48⟩, [], _, _, { State.reset with hitch := { State.reset.hitch with flight := [⟨.host 0, 1, 0, 0, 0, 0, .plain, 48⟩] } }, by decide, by decide, by decide, rfl, by decide, rfl⟩

theorem witness_HitchCommands_signalBarred : ∃ (err : FrameError) (f : Frame) (rest : List Frame) (s : State),
      s.hitch.flight = f :: rest ∧
      (err = .none ∨ err = .corrected) :=
  ⟨.none, hubFrame, [], fullHub, by decide +kernel⟩

theorem witness_HitchCommands_signalLost : ∃ (hub : Word) (rkn : Option (Fin 8)) (f : Frame) (rest : List Frame) (v s : State),
      s.hitch.flight = f :: rest ∧
      f.land < s.strideEnd ∧
      v = s.advanceTo f.land :=
  ⟨0, none, ⟨.host 0, 1, 0, 0, 0, 0, .plain, 48⟩, [], _, { State.reset with hitch := { State.reset.hitch with flight := [⟨.host 0, 1, 0, 0, 0, 0, .plain, 48⟩] } }, by decide, by decide, rfl⟩

theorem witness_HitchCommands_nakGood : ∃ (f : Frame) (rest : List Frame) (v s : State),
      s.hitch.flight = f :: rest ∧
      f.slot + 48 < s.strideEnd ∧
      s.hubFull f = true ∧
      v = s.advanceTo (f.slot + 48) :=
  ⟨hubFrame, [], _, fullHub, by decide, by decide, by decide, rfl⟩

theorem witness_HitchCommands_nak : ∃ (err : FrameError) (f : Frame) (rest : List Frame) (v s : State),
      s.hitch.flight = f :: rest ∧
      (err = .none ∨ err = .corrected) ∧
      f.slot + 48 < s.strideEnd ∧
      s.hubFull f = true ∧
      v = s.advanceTo (f.slot + 48) :=
  ⟨.none, hubFrame, [], _, fullHub, by decide, by decide, by decide, by decide, rfl⟩

theorem witness_HitchCommands_nakLost : ∃ (hub : Word) (rkn : Option (Fin 8)) (f : Frame) (rest : List Frame) (v s : State),
      s.hitch.flight = f :: rest ∧
      f.slot + 48 < s.strideEnd ∧
      s.hubFull f = true ∧
      v = s.advanceTo (f.slot + 48) :=
  ⟨0, none, hubFrame, [], _, fullHub, by decide, by decide, by decide, rfl⟩

theorem witness_HitchCommands_snap : ∃ (source slot : Nat) (v t u : State) (s : State),
      s.snap.frame = some (source, slot) ∧
      slot + 48 < s.strideEnd ∧
      v = s.advanceTo (slot + 48) ∧
      v.snap.held = false ∧
      t = ({ v with snap := { v.snap with frame := none } } : State) ∧
      u = t.latch t source true false :=
  ⟨2, 0, _, _, _, { State.reset with snap := { State.reset.snap with frame := some (2, 0) } }, by decide +kernel, by decide +kernel, rfl, by decide +kernel, rfl, rfl⟩

theorem witness_HitchCommands_snapError : ∃ (hub : Word) (rkn : Option (Fin 8)) (x : Nat × Nat) (s : State),
      s.snap.frame = some x :=
  ⟨0, none, (2, 0), { State.reset with snap := { State.reset.snap with frame := some (2, 0) } }, by decide +kernel⟩

theorem witness_HitchCommands_releaseGood : ∃ (r : Release) (rest : List Release) (v s : State),
      s.hitch.releases = r :: rest ∧
      r.slot + 48 < s.strideEnd ∧
      v = s.advanceTo (r.slot + 48) :=
  ⟨⟨queue0, .host 0, 0, 0⟩, [], _, { State.reset with hitch := { State.reset.hitch with releases := [⟨queue0, .host 0, 0, 0⟩] } }, by decide, by decide, rfl⟩

theorem witness_HitchCommands_release : ∃ (err : FrameError) (r : Release) (rest : List Release) (v s : State),
      s.hitch.releases = r :: rest ∧
      (err = .none ∨ err = .corrected) ∧
      r.slot + 48 < s.strideEnd ∧
      v = s.advanceTo (r.slot + 48) :=
  ⟨.none, ⟨queue0, .host 0, 0, 0⟩, [], _, { State.reset with hitch := { State.reset.hitch with releases := [⟨queue0, .host 0, 0, 0⟩] } }, by decide, by decide, by decide, rfl⟩

theorem witness_HitchCommands_releaseLost : ∃ (hub : Word) (rkn : Option (Fin 8)) (r : Release) (rest : List Release) (v s : State),
      s.hitch.releases = r :: rest ∧
      r.slot + 48 < s.strideEnd ∧
      v = s.advanceTo (r.slot + 48) :=
  ⟨0, none, ⟨queue0, .host 0, 0, 0⟩, [], _, { State.reset with hitch := { State.reset.hitch with releases := [⟨queue0, .host 0, 0, 0⟩] } }, by decide, by decide, rfl⟩

theorem witness_HitchCommands_register : ∃ (job : BitVec 12) (w0 w1 w2 : Word) (w : Watch) (s : State),
      watchOf job.toNat w0 w1 w2 = some w ∧
      s.asked w job.toNat w0 w1 w2 = true :=
  ⟨0, 0x40000000, 0, 0, (watchOf 0 0x40000000 0 0).get (by decide +kernel), watchState, by decide +kernel⟩

theorem witness_HitchCommands_withdraw : ∃ (job : BitVec 12) (w0 w1 w2 : Word) (w : Watch) (s : State),
      watchOf job.toNat w0 w1 w2 = some w :=
  ⟨0, 0x40000000, 0, 0, (watchOf 0 0x40000000 0 0).get (by decide +kernel), State.reset, by decide +kernel⟩

theorem witness_CounterCommands_init : ∃ (src : Source) (val : Word) (cyc : Nat) (c : CounterId) (s : State),
      (s.advance cyc).mayWrite src (Reg.HCH_CTR_CTL) = true ∧
      (s.advance cyc).selectedCounter = some c :=
  ⟨.pcie 0, 0, 0, (State.reset.selectedCounter).get (by decide), State.reset, by decide +kernel⟩

theorem witness_CounterCommands_free : ∃ (src : Source) (val : Word) (cyc : Nat) (c : CounterId) (s : State),
      (s.advance cyc).mayWrite src (Reg.HCH_CTR_CTL) = true ∧
      (s.advance cyc).selectedCounter = some c :=
  ⟨.pcie 0, 0, 0, (State.reset.selectedCounter).get (by decide), State.reset, by decide +kernel⟩

theorem witness_CounterCommands_set : ∃ (src : Source) (val : Word) (cyc : Nat) (c : CounterId) (s : State),
      (s.advance cyc).mayWrite src (Reg.HCH_CTR_CTL) = true ∧
      (s.advance cyc).selectedCounter = some c :=
  ⟨.pcie 0, 0, 0, (State.reset.selectedCounter).get (by decide), State.reset, by decide +kernel⟩

theorem witness_CounterCommands_revoke : ∃ (src : Source) (job : BitVec 12) (cyc : Nat) (s : State),
      (s.advance cyc).mayWrite src (Reg.HCH_REVOKE) = true ∧
      job ≠ 0 :=
  ⟨.pcie 0, 1, 0, State.reset, by decide +kernel⟩

theorem witness_CounterCommands_doorbell : ∃ (fn : Fin 64) (i : Fin 1024) (val : Word) (t : State) (s : State),
      (s.reg Reg.PCI_LINK_STAT).field 31 29 = 2 ∧
      (fn.val = 0 ∨ s.liveF (bank fn.val Reg.PCI_FN_JOB) 11 0 ≠ 0) ∧
      t = s.bump Reg.PCI_CNT_n 1 ∧
      val.field 31 16 = 0 ∧
      signedOf 16 (val.field 15 0) ≠ 0 ∧
      (s.ctr (.host i)).fn = fn.val ∧
      (s.ctr (.host i)).st = .live :=
  ⟨0, 0, 1, _, doorbellState, by decide +kernel, Or.inl rfl, rfl, by decide, by decide, by decide +kernel⟩

theorem witness_CounterCommands_doorbellRefused : ∃ (fn : Fin 64) (i : Fin 1024) (val : Word) (t : State) (s : State),
      (s.reg Reg.PCI_LINK_STAT).field 31 29 = 2 ∧
      (fn.val = 0 ∨ s.liveF (bank fn.val Reg.PCI_FN_JOB) 11 0 ≠ 0) ∧
      t = s.bump Reg.PCI_CNT_n 1 ∧
      val.field 31 16 = 0 ∧
      signedOf 16 (val.field 15 0) ≠ 0 ∧
      (s.ctr (.host i)).fn ≠ fn.val :=
  ⟨1, 0, 1, _, doorbellState, by decide +kernel, Or.inr (by decide +kernel), rfl, by decide, by decide, by decide +kernel⟩

theorem witness_CounterCommands_arm : ∃ (src : Source) (val : Word) (i : Fin 1024) (s : State),
      s.mayWrite src Reg.HCH_CTR_ARM = true ∧
      s.selectedCounter = some (.host i) :=
  ⟨.pcie 0, 0x80000000, 0, { State.reset with regs := State.reset.regs.put Reg.HCH_CTR_SEL 0x60000000 }, by decide +kernel⟩

theorem witness_CounterCommands_mirror : ∃ (i : Fin 1024) (cyc : Nat) (t : State) (s : State),
      t = s.advance cyc ∧
      (t.ctr (.host i)).mirDirty = true ∧
      (t.ctr (.host i)).mirLast.all (fun k => decide (k + 64 ≤ t.now)) = true ∧
      t.mirrorOn (t.ctr (.host i)).fn = true :=
  ⟨0, 0, _, mirrorState, rfl, by decide +kernel⟩

theorem witness_FabricCommands_issuePort : ∃ (b : Fin 4) (cyc : Nat) (e : Delivered) (rest : List Delivered) (v t : State) (s : State),
      v = s.advance cyc ∧
      v.fab.requests.length < 8192 ∧
      v.isOn (.bridle b) = true ∧
      v.drg.inbox.getD (portOf (56 + b.val)).val [] = e :: rest ∧
      e.packet.kind ≤ 4 ∧
      v.takeInbox (portOf (56 + b.val)) = some (e, t) :=
  ⟨0, 0, ⟨1, 0, ⟨1, 1, 0, 0, [], 0, 0⟩⟩, [], _, (issueState.takeInbox (portOf 56)).elim State.reset (·.2), issueState, rfl, by decide +kernel⟩

theorem witness_FabricCommands_issueEngine : ∃ (b : Fin 4) (cyc : Nat) (q : RemoteReq) (v : State) (s : State),
      v = s.advance cyc ∧
      v.fab.requests.length < 8192 ∧
      v.isOn (.bridle b) = true ∧
      v.drg.inbox.getD (portOf (56 + b.val)).val [] = [] ∧
      (v.toIssue.find? fun q => v.bridleOf q == some b && !v.engineWaits q) = some q ∧
      v.fab.requests.length + (v.engineCopies b q).length ≤ 8192 :=
  ⟨1, 0, ⟨.engine 0, 1, 0, 2 ^ 44, 4, [], 0, []⟩, _, engineIssue, rfl, by decide +kernel⟩

theorem witness_FabricCommands_load : ∃ (b : Fin 4) (cyc : Nat) (h : FabHeader) (data : List Byte) (age : Nat) (t : State) (x : Inbound) (i a : Nat) (e : Ingress) (u : State) (s : State),
      Incoming (s.advance cyc) b h data age t x ∧
      h.kind = 1 ∧
      u = ({ t with nextId := t.nextId + 1 } : State).noteNumber ⟨h.src, h.srcBridle⟩ x.seq (some .inProgress) ∧
      Admitted u x i e a :=
  ⟨0, 0, fabHeader 1, fabData 1, 0, fabTaken 1, fabInbound 1, fabEntry, 0, (fabState 1).ingress fabEntry, _, fabState 1, incoming_1, rfl, rfl, admitted_1⟩

theorem witness_FabricCommands_store : ∃ (b : Fin 4) (cyc : Nat) (h : FabHeader) (data : List Byte) (age : Nat) (t : State) (x : Inbound) (i a : Nat) (e : Ingress) (v u : State) (s : State),
      Incoming (s.advance cyc) b h data age t x ∧
      h.kind = 2 ∧
      ({ t with nextId := t.nextId + 1 } : State).openFlag x = some v ∧
      u = v.noteNumber ⟨h.src, h.srcBridle⟩ x.seq (some .inProgress) ∧
      Admitted u x i e a :=
  ⟨0, 0, fabHeader 2, fabData 2, 0, fabTaken 2, fabInbound 2, fabEntry, 0, (fabState 2).ingress fabEntry, _, _, fabState 2, incoming_2, rfl, rfl, rfl, admitted_2⟩

theorem witness_FabricCommands_flagStore : ∃ (b : Fin 4) (cyc : Nat) (h : FabHeader) (data : List Byte) (age : Nat) (t : State) (x : Inbound) (i a : Nat) (e : Ingress) (f : FlagEntry) (v u : State) (s : State),
      Incoming (s.advance cyc) b h data age t x ∧
      h.kind = 3 ∧
      ({ t with nextId := t.nextId + 1 } : State).openFlag x = some v ∧
      u = v.noteNumber ⟨h.src, h.srcBridle⟩ x.seq (some .inProgress) ∧
      Admitted u x i e a ∧
      u.fab.flags.find? x.entryIs = some f ∧
      f.broken = false :=
  ⟨0, 0, fabHeader 3, fabData 3, 0, fabTaken 3, fabInbound 3, fabEntry, 0, (fabState 3).ingress fabEntry, ⟨⟨0, 0⟩, 0, 0, 0, [], false, 0⟩, _, _, fabState 3, incoming_3, rfl, rfl, rfl, admitted_3, by decide +kernel, rfl⟩

theorem witness_FabricCommands_resp : ∃ (b : Fin 4) (cyc : Nat) (h : FabHeader) (data : List Byte) (age : Nat) (t : State) (r : FabRequest) (s : State),
      (s.advance cyc).headAt b = some (h, data, age, t) ∧
      h.kind = 5 ∧
      h.dst = (s.advance cyc).moduleIndex ∧
      t.requestAt ⟨h.srcBridle % 4, Nat.mod_lt _ (by decide)⟩ h.src (BitVec.ofNat 32 h.seq) = some r :=
  ⟨0, 0, fabHeader 5, fabData 5, 0, respTaken, fabRequest, respState, by decide +kernel⟩

theorem witness_FabricCommands_transit : ∃ (b : Fin 4) (cyc : Nat) (h : FabHeader) (data : List Byte) (age : Nat) (t : State) (k : Fin 10) (c : Fin 4) (s : State),
      (s.advance cyc).headAt b = some (h, data, age, t) ∧
      h.dst ≠ (s.advance cyc).moduleIndex ∧
      (t.routing.table h.epoch).st = .active ∧
      h.hops < 3 ∧
      (h.kind = 5 ∨ age ≤ 312) ∧
      h.route = 0 ∧
      teamTo t.moduleIndex h.dst = some k ∧
      t.teamUsable h.epoch k = true ∧
      ((b :: allFin 4).find? fun c => decide (0 < t.lanesUp c (teamStrand k))) = some c :=
  ⟨0, 0, fabHeader 6, [], 0, transitTaken, 0, 0, transitState, by decide +kernel⟩

theorem witness_FabricCommands_again : ∃ (b : Fin 4) (target : Fin 32) (seq : Word) (cyc : Nat) (r : FabRequest) (f : Nat) (s : State),
      (((s.advance cyc).requestAt b target.val seq) = some r) ∧
      r.first = some f ∧
      r.tries < 2 ∧
      f + 8000 * (r.tries + 1) ≤ (s.advance cyc).now :=
  ⟨0, 1, 0, 0, { fabRequest with first := some 0 }, 0, requestState { fabRequest with first := some 0 }, by decide +kernel⟩

theorem witness_FabricCommands_busy : ∃ (b : Fin 4) (target : Fin 32) (seq : Word) (cyc : Nat) (r : FabRequest) (f : Nat) (s : State),
      (((s.advance cyc).requestAt b target.val seq) = some r) ∧
      r.busy = some f ∧
      f + 1000 ≤ (s.advance cyc).now :=
  ⟨0, 1, 0, 0, { fabRequest with busy := some 0 }, 0, requestState { fabRequest with busy := some 0 }, by decide +kernel⟩

theorem witness_FabricCommands_timeout : ∃ (b : Fin 4) (target : Fin 32) (seq : Word) (cyc : Nat) (r : FabRequest) (f : Nat) (s : State),
      (((s.advance cyc).fab.requests.find? fun r => r.stream.bridle == b && r.stream.target == target.val && r.seq % 2 ^ 32 == seq.toNat) = some r) ∧
      r.first = some f ∧
      f + 24000 ≤ (s.advance cyc).now ∧
      r.kind = 1 :=
  ⟨0, 1, 0, 0, { fabRequest with first := some 0 }, 0, requestState { fabRequest with first := some 0 }, by decide +kernel⟩

theorem witness_LeaseCommands_acquire : ∃ (b : Fin 4) (cyc : Nat) (h : FabHeader) (data : List Byte) (age : Nat) (t : State) (x : Inbound) (i : Nat) (v : Ingress) (s : State),
      Incoming (s.advance cyc) b h data age t x ∧
      h.kind = 9 ∧
      h.flagEpoch = 1 ∧
      ({ t with nextId := t.nextId + 1 } : State).ingressOf x.job (x.addr / 2 ^ 21) = some (i, v) ∧
      (v.w0.bit 27 = true ∧ v.w0.bit 29 = true) ∧
      (({ t with nextId := t.nextId + 1 } : State).liveHolder v = none ∨ ({ t with nextId := t.nextId + 1 } : State).liveHolder v = some x.pair.src) :=
  ⟨0, 0, leaseHeader 1, [], 0, leaseTaken 1, leaseInbound 1, fabEntry, leaseEntry 1, leaseState 1, leasing_1, rfl, rfl, by decide +kernel, by decide, by decide +kernel⟩

theorem witness_LeaseCommands_renew : ∃ (b : Fin 4) (cyc : Nat) (h : FabHeader) (data : List Byte) (age : Nat) (t : State) (x : Inbound) (i : Nat) (v : Ingress) (s : State),
      Incoming (s.advance cyc) b h data age t x ∧
      h.kind = 9 ∧
      h.flagEpoch = 2 ∧
      ({ t with nextId := t.nextId + 1 } : State).ingressOf x.job (x.addr / 2 ^ 21) = some (i, v) ∧
      (v.w0.bit 27 = true ∧ v.w0.bit 29 = true) ∧
      (({ t with nextId := t.nextId + 1 } : State).liveHolder v = none ∨ ({ t with nextId := t.nextId + 1 } : State).liveHolder v = some x.pair.src) ∧
      v.cleared ≠ some x.pair.src :=
  ⟨0, 0, leaseHeader 2, [], 0, leaseTaken 2, leaseInbound 2, fabEntry, leaseEntry 2, leaseState 2, leasing_2, rfl, rfl, by decide +kernel, by decide, by decide +kernel⟩

theorem witness_LeaseCommands_renewCleared : ∃ (b : Fin 4) (cyc : Nat) (h : FabHeader) (data : List Byte) (age : Nat) (t : State) (x : Inbound) (i : Nat) (v : Ingress) (s : State),
      Incoming (s.advance cyc) b h data age t x ∧
      h.kind = 9 ∧
      h.flagEpoch = 2 ∧
      ({ t with nextId := t.nextId + 1 } : State).ingressOf x.job (x.addr / 2 ^ 21) = some (i, v) ∧
      v.cleared = some x.pair.src :=
  ⟨0, 0, leaseHeader 2, [], 0, clearedTaken, clearedInbound, fabEntry, clearedEntry, clearedState, leasing_cleared, rfl, rfl, by decide +kernel, rfl⟩

theorem witness_LeaseCommands_release : ∃ (b : Fin 4) (cyc : Nat) (h : FabHeader) (data : List Byte) (age : Nat) (t : State) (x : Inbound) (i : Nat) (v : Ingress) (s : State),
      Incoming (s.advance cyc) b h data age t x ∧
      h.kind = 9 ∧
      h.flagEpoch = 3 ∧
      ({ t with nextId := t.nextId + 1 } : State).ingressOf x.job (x.addr / 2 ^ 21) = some (i, v) :=
  ⟨0, 0, leaseHeader 3, [], 0, leaseTaken 3, leaseInbound 3, fabEntry, leaseEntry 3, leaseState 3, leasing_3, rfl, rfl, by decide +kernel⟩

theorem witness_LeaseCommands_renewDue : ∃ (index : Fin 1024) (s : State),
      (s.lease index.val).st = .held ∧
      (s.lease index.val).start + 1000 ≤ s.clk.bnd ∧
      (s.lease index.val).asked < s.clk.bnd :=
  ⟨0, heldLease, by decide +kernel⟩

theorem witness_LeaseCommands_holderExpiry : ∃ (index : Fin 1024) (s : State),
      (s.lease index.val).st = .held ∧
      (s.lease index.val).start + 4000 ≤ s.clk.bnd :=
  ⟨0, heldLease, by decide +kernel⟩

theorem witness_LeaseCommands_homeExpiry : ∃ (index : Fin 65536) (g : Nat) (s : State),
      (s.ingress index.val).holder = some g ∧
      (s.ingress index.val).expires ≤ s.clk.bnd :=
  ⟨0, 1, State.reset.setIngress 0 { Ingress.reset with holder := some 1 }, by decide +kernel⟩

theorem witness_LeaseCommands_cmdAcquire : ∃ (src : Source) (cyc i : Nat) (s : State),
      (s.advance cyc).mayWrite src (Reg.FAB_LSE_CMD) = true ∧
      i = (s.advance cyc).leaseIndex ∧
      ((s.advance cyc).lease i).st ≠ .held ∧
      ((s.advance cyc).lease i).st ≠ .acquiring :=
  ⟨.pcie 0, 0, _, State.reset, by decide +kernel, rfl, by decide +kernel⟩

theorem witness_LeaseCommands_cmdRelease : ∃ (src : Source) (cyc i : Nat) (s : State),
      (s.advance cyc).mayWrite src (Reg.FAB_LSE_CMD) = true ∧
      i = (s.advance cyc).leaseIndex ∧
      (((s.advance cyc).lease i).st = .held ∨ ((s.advance cyc).lease i).st = .expired) :=
  ⟨.pcie 0, 0, _, heldLease, by decide +kernel, rfl, by decide +kernel⟩

theorem witness_LeaseCommands_write : ∃ (src : Source) (cyc : Nat) (s : State),
      (s.advance cyc).mayWrite src (Reg.FAB_ING_CMD) = true ∧
      (s.advance cyc).fab.ingressPending = false :=
  ⟨.pcie 0, 0, State.reset, by decide +kernel⟩

theorem witness_LeaseCommands_read : ∃ (src : Source) (v : Ingress) (t : State) (s : State),
      t = s.advance 0 ∧
      t.mayWrite src Reg.FAB_ING_CMD = true ∧
      t.fab.ingressPending = false ∧
      v = t.ingress (t.regF Reg.FAB_ING_IDX 15 0) :=
  ⟨.pcie 0, _, _, State.reset, rfl, by decide +kernel, by decide +kernel, rfl⟩

theorem witness_FlagStoreCommands_release : ∃ (source : Fin 32) (b : Fin 4) (seq : Word) (x : Inbound) (e : FlagEntry) (s : State),
      s.heldFlag source b seq = some x ∧
      s.fab.flags.find? x.entryIs = some e ∧
      x.count ≤ e.applied.length :=
  ⟨0, 0, 0, heldFlagStore, ⟨⟨0, 0⟩, 0, 0, 0, [0], false, 0⟩, flagState, by decide +kernel⟩

theorem witness_FlagStoreCommands_expired : ∃ (source : Fin 32) (b : Fin 4) (seq : Word) (cyc : Nat) (x : Inbound) (s : State),
      (s.advance cyc).heldFlag source b seq = some x ∧
      312 < ageOf x.born (s.advance cyc).now :=
  ⟨0, 0, 0, 0, heldFlagStore, { flagState with clk := { State.reset.clk with base := 30000 } }, by decide +kernel⟩

theorem witness_FlagStoreCommands_idle : ∃ (source : Fin 32) (b : Fin 4) (port : Fin 64) (job : BitVec 12) (epoch : BitVec 8) (cyc : Nat) (s : State),
      ((s.advance cyc).fab.inbound.any fun x => x.held && x.pair == ⟨source.val, b.val⟩ && x.port == port.val && x.job == job.toNat && x.epoch == epoch.toNat) = false :=
  ⟨0, 0, 0, 0, 0, 0, State.reset, by decide +kernel⟩

theorem witness_FlagStoreCommands_epochUse : ∃ (b : Fin 4) (port : Fin 64) (job : BitVec 12) (target : Fin 32) (epoch : BitVec 8) (cyc k : Nat) (v : Stream) (t : State) (s : State),
      t = s.advance cyc ∧
      v = t.stream ⟨b, port.val, job.toNat, target.val⟩ ∧
      v.uses.find? epoch.toNat = some k ∧
      (v.epoch ≠ epoch.toNat ∨ v.sent = 0) ∧
      k + 64000 ≤ t.now :=
  ⟨0, 0, 0, 1, 0, 0, 0, { Stream.reset with uses := [(0, 0)] }, _, epochState, rfl, by decide +kernel, by decide, by decide, by decide +kernel⟩

theorem witness_RoutingCommands_advert : ∃ (team : Fin 10) (sender : Fin 32) (stride : Word) (master : Fin 32) (aligned epoch : Bool) (drained : Fin 4) (generation : BitVec 16) (teams : BitVec 10) (relay : List (Bool × BitVec 10 × BitVec 16)) (a : Advert) (s : State),
      a = ⟨sender.val, stride, master.val, aligned, epoch, drained.val, generation.toNat, teams.toNat, relay.map fun x => (x.1, x.2.1.toNat, x.2.2.toNat), 0, s.routing.goes team.val ⟨sender.val, stride, master.val, aligned, epoch, drained.val, generation.toNat, teams.toNat, relay.map fun x => (x.1, x.2.1.toNat, x.2.2.toNat), 0, false⟩⟩ ∧
      (s.routing.otherEpoch a = false ∨ s.routing.missed = true) ∧
      s.routing.saysDrained a = false :=
  ⟨0, 1, 0, 0, true, false, 0, 0, 0, [], _, State.reset, rfl, by decide⟩

theorem witness_RoutingCommands_advertMiss : ∃ (team : Fin 10) (sender : Fin 32) (stride : Word) (master : Fin 32) (aligned epoch : Bool) (drained : Fin 4) (generation : BitVec 16) (teams : BitVec 10) (relay : List (Bool × BitVec 10 × BitVec 16)) (a : Advert) (s : State),
      a = ⟨sender.val, stride, master.val, aligned, epoch, drained.val, generation.toNat, teams.toNat, relay.map fun x => (x.1, x.2.1.toNat, x.2.2.toNat), 0, s.routing.goes team.val ⟨sender.val, stride, master.val, aligned, epoch, drained.val, generation.toNat, teams.toNat, relay.map fun x => (x.1, x.2.1.toNat, x.2.2.toNat), 0, false⟩⟩ ∧
      a.went = true ∧
      s.routing.otherEpoch a = true ∧
      s.routing.missed = false ∧
      s.routing.saysDrained a = false :=
  ⟨0, 1, 0, 0, true, false, 0, 0, 0, [], _, { State.reset with fab := { State.reset.fab with routing := { Routing.reset with said := [(0, true, 0)] } } }, rfl, by decide⟩

theorem witness_RoutingCommands_advertDrained : ∃ (team : Fin 10) (sender : Fin 32) (stride : Word) (master : Fin 32) (aligned epoch : Bool) (drained : Fin 4) (generation : BitVec 16) (teams : BitVec 10) (relay : List (Bool × BitVec 10 × BitVec 16)) (a : Advert) (s : State),
      a = ⟨sender.val, stride, master.val, aligned, epoch, drained.val, generation.toNat, teams.toNat, relay.map fun x => (x.1, x.2.1.toNat, x.2.2.toNat), 0, s.routing.goes team.val ⟨sender.val, stride, master.val, aligned, epoch, drained.val, generation.toNat, teams.toNat, relay.map fun x => (x.1, x.2.1.toNat, x.2.2.toNat), 0, false⟩⟩ ∧
      s.routing.saysDrained a = true ∧
      s.routing.otherEpoch a = false :=
  ⟨0, 1, 0, 0, true, false, 1, 0, 0, [], _, { State.reset with fab := { State.reset.fab with routing := { Routing.reset with a := { RoutingTable.resetA with st := .draining } } } }, rfl, by decide⟩

theorem witness_RoutingCommands_stale : ∃ (index : Fin 32) (e : MapEntry) (s : State),
      s.routing.map.find? index.val = some e ∧
      4 ≤ e.age :=
  ⟨1, ⟨3, 0, 4⟩, { State.reset with fab := { State.reset.fab with routing := { Routing.reset with map := [(1, ⟨3, 0, 4⟩)] } } }, by decide +kernel⟩

theorem witness_RoutingCommands_tableWrite : ∃ (src : Source) (val : Word) (e : Bool) (i : Nat) (s : State),
      s.mayWrite src Reg.FAB_RT_DATA = true ∧
      e = (s.reg Reg.FAB_RT_SEL).bit 8 ∧
      i = s.regF Reg.FAB_RT_SEL 5 0 ∧
      (s.routing.table e).st = .editable ∧
      i < 34 :=
  ⟨.pcie 0, 5, _, _, { State.reset with regs := State.reset.regs.put Reg.FAB_RT_SEL 0x100 }, by decide +kernel, rfl, rfl, by decide +kernel⟩

theorem witness_RoutingCommands_arm : ∃ (src : Source) (t : RoutingTable) (s : State),
      s.mayWrite src Reg.FAB_RT_CTL = true ∧
      t = s.routing.table (!s.routing.active) ∧
      t.st = .editable :=
  ⟨.pcie 0, _, State.reset, by decide +kernel, rfl, by decide +kernel⟩

theorem witness_RoutingCommands_disarm : ∃ (src : Source) (t : RoutingTable) (s : State),
      s.mayWrite src Reg.FAB_RT_CTL = true ∧
      t = s.routing.table (!s.routing.active) ∧
      t.st = .armed ∧
      s.routing.pending.isNone = true :=
  ⟨.pcie 0, _, armedState, by decide +kernel, rfl, by decide +kernel⟩

theorem witness_RoutingCommands_switch : ∃ (src : Source) (t : RoutingTable) (s : State),
      s.mayWrite src Reg.FAB_RT_CTL = true ∧
      t = s.routing.table (!s.routing.active) ∧
      t.st = .armed ∧
      16 ≤ (s.reg Reg.FAB_RT_AT - BitVec.ofNat 32 s.clk.stride.toNat).toNat ∧
      (s.reg Reg.FAB_RT_AT - BitVec.ofNat 32 s.clk.stride.toNat).toNat < 2 ^ 31 :=
  ⟨.pcie 0, _, armedState, by decide +kernel, rfl, by decide +kernel⟩

theorem witness_RoutingCommands_drain : ∃ (s : State),
      64 ≤ s.routing.since :=
  ⟨{ State.reset with fab := { State.reset.fab with routing := { Routing.reset with since := 64 } } }, by decide +kernel⟩

theorem witness_UplinkCommands_tail : ∃ (src : Source) (u : Fin 16) (tail : BitVec 16) (cyc : Nat) (s : State),
      (s.advance cyc).mayWrite src (Reg.FAB_UPL_TX_TAIL) = true ∧
      (tail - ((s.advance cyc).uplink u).txHead).toNat ≤ (s.advance cyc).uplinkTxSize u :=
  ⟨.pcie 0, 0, 1, 0, State.reset, by decide +kernel⟩

theorem witness_UplinkCommands_written : ∃ (u : Fin 16) (cyc : Nat) (s : State),
      ((s.advance cyc).uplink u).st ≠ .disabled ∧
      ((s.advance cyc).uplink u).txHead ≠ ((s.advance cyc).uplink u).sent :=
  ⟨0, 0, uplinkState, by decide +kernel⟩

theorem witness_UplinkCommands_withheld : ∃ (u : Fin 16) (cyc : Nat) (s : State),
      ((s.advance cyc).uplink u).st ≠ .disabled ∧
      ((s.advance cyc).uplink u).txHead ≠ ((s.advance cyc).uplink u).sent ∧
      uplinkHalted ((s.advance cyc).uplink u).st = false :=
  ⟨0, 0, uplinkState, by decide +kernel⟩

theorem witness_UplinkCommands_refused : ∃ (u : Fin 16) (cyc : Nat) (s : State),
      ((s.advance cyc).uplink u).st ≠ .disabled ∧
      ((s.advance cyc).uplink u).txHead ≠ ((s.advance cyc).uplink u).sent ∧
      uplinkHalted ((s.advance cyc).uplink u).st = false :=
  ⟨0, 0, uplinkState, by decide +kernel⟩

theorem witness_UplinkCommands_here : ∃ (u : Fin 16) (cyc : Nat) (a : Arrived) (key : Nat) (t : State) (g : Status × State) (s : State),
      t = s.advance cyc ∧
      key = (uplinkBridle u).val + 4 ∧
      ((t.brd.arrived.getD key []).find? fun a => a.strand == (uplinkStrand u).val) = some a ∧
      (t.uplink u).rx = true ∧
      (a.words.getD 0 0).field 31 20 = t.uplinkJob u ∧
      ((t.uplink u).rxTail - (t.uplink u).rxHead).toNat < t.uplinkRxSize u ∧
      g = (({ t with brd := { t.brd with arrived := t.brd.arrived.put key ((t.brd.arrived.getD key []).erase a) } } : State).freeFlits u a.flits).store (engineAccess (t.uplinkJob u) blkFAB) (t.uplinkRxBase u + 256 * ((t.uplink u).rxTail.toNat % t.uplinkRxSize u)) (bytesOf a.words ++ a.payload.take (4 * min 60 ((a.words.getD 0 0).field 7 0))) ∧
      g.1 = .ok :=
  ⟨0, 0, ⟨[], [], 0, 0, 10, 0⟩, _, _, _, uplinkState, rfl, rfl, by decide +kernel, by decide +kernel, by decide +kernel, by decide +kernel, rfl, by decide +kernel⟩

theorem witness_UplinkCommands_dropped : ∃ (u : Fin 16) (cyc : Nat) (a : Arrived) (key : Nat) (t : State) (s : State),
      t = s.advance cyc ∧
      key = (uplinkBridle u).val + 4 ∧
      ((t.brd.arrived.getD key []).find? fun a => a.strand == (uplinkStrand u).val) = some a ∧
      ((t.uplink u).rx = false ∨ (a.words.getD 0 0).field 31 20 ≠ t.uplinkJob u) :=
  ⟨0, 0, ⟨[0xFFF00000], [], 0, 0, 10, 0⟩, _, _, { uplinkState with brd := { uplinkState.brd with arrived := [(4, [⟨[0xFFF00000], [], 0, 0, 10, 0⟩])] } }, rfl, rfl, by decide +kernel⟩

theorem witness_UplinkCommands_resume : ∃ (src : Source) (u : Fin 16) (cyc : Nat) (s : State),
      (s.advance cyc).mayWrite src (Reg.FAB_UPL_CTL) = true ∧
      uplinkHalted ((s.advance cyc).uplink u).st = true :=
  ⟨.pcie 0, 0, 0, State.reset.setUplink 0 { Uplink.reset with st := .haltedDown }, by decide +kernel⟩

theorem witness_CodewordCommands_receive : ∃ (b : Fin 4) (l : Fin 32) (cw : Codeword) (cyc : Nat) (n : Fin 14) (csym : Nat) (h : LaneHeader) (flits : List (List Word)) (t : State) (v w : Lane) (s : State),
      t = s.advance cyc ∧
      strandOf l = some n ∧
      n.val < 10 ∧
      v = t.lane b l ∧
      v.link = .up ∧
      codewordOpened cw t.link.on = some (csym, h, flits) ∧
      h.train = false ∧
      (w = { v with good := v.good + 1, bad := 0, locked := v.locked || decide (8 ≤ v.good + 1), csym := v.csym + csym, clean := if v.rxSusp ∧ v.locked then v.clean + 1 else v.clean }) ∧
      w.csym ≤ (t.setLane b l w).liveF (bridleReg b Reg.BRD_CFG) 15 0 :=
  ⟨0, 0, .decoded 0 ⟨false, 0, false, 0⟩ [] .plain, 0, 0, 0, ⟨false, 0, false, 0⟩, [], _, _, _, laneState .up, rfl, by decide +kernel, by decide +kernel, rfl, by decide +kernel, by decide +kernel, rfl, rfl, by decide +kernel⟩

theorem witness_CodewordCommands_undecodable : ∃ (b : Fin 4) (l : Fin 32) (cw : Codeword) (cyc : Nat) (n : Fin 14) (t : State) (v : Lane) (s : State),
      t = s.advance cyc ∧
      strandOf l = some n ∧
      v = t.lane b l ∧
      v.link = .up ∧
      codewordOpened cw t.link.on = none ∧
      v.bad + 1 < 4 ∧
      v.ucw + 1 < 4 :=
  ⟨0, 0, .undecodable, 0, 0, _, _, laneState .up, rfl, by decide +kernel, rfl, by decide +kernel⟩

theorem witness_CodewordCommands_gap : ∃ (b : Fin 4) (n : Fin 14) (cyc k : Nat) (s : State),
      ((s.advance cyc).strand b n).gapAt = some k ∧
      k + 64 ≤ (s.advance cyc).now :=
  ⟨0, 0, 0, 0, { State.reset.setStrand 0 0 { Strand.reset with gapAt := some 0 } with clk := { State.reset.clk with base := 64 } }, by decide +kernel⟩

theorem witness_CodewordCommands_retx : ∃ (b : Fin 4) (n : Fin 14) (seq : BitVec 10) (cyc : Nat) (u : CwSent) (s : State),
      (((s.advance cyc).strand b n).unacked.find? fun u => u.seq % 1024 == seq.toNat) = some u ∧
      u.last + 2000 ≤ (s.advance cyc).now :=
  ⟨0, 0, 0, 0, ⟨0, 0, 0, [], none⟩, { State.reset.setStrand 0 0 { Strand.reset with unacked := [⟨0, 0, 0, [], none⟩] } with clk := { State.reset.clk with base := 2000 } }, by decide +kernel⟩

theorem witness_CodewordCommands_linkFrame : ∃ (b : Fin 4) (n : Fin 14) (ack : BitVec 10) (freed : BitVec 24) (cyc : Nat) (t : State) (v : Strand) (u : CwSent) (rest : List CwSent) (s : State),
      t = s.advance cyc ∧
      v = t.strand b n ∧
      v.unacked = u :: rest :=
  ⟨0, 0, 1, 0, 0, _, _, ⟨0, 0, 0, [], none⟩, [], State.reset.setStrand 0 0 { Strand.reset with unacked := [⟨0, 0, 0, [], none⟩] }, rfl, rfl, by decide +kernel⟩

theorem witness_CodewordCommands_beaconLoss : ∃ (b : Fin 4) (n : Fin 14) (s : State),
      4 ≤ (s.strand b n).silent :=
  ⟨0, 0, State.reset.setStrand 0 0 { Strand.reset with silent := 4 }, by decide +kernel⟩

theorem witness_CodewordCommands_exhaust : ∃ (b : Fin 4) (n : Fin 14) (cyc : Nat) (l : Fin 32) (rest : List (Fin 32)) (t : State) (s : State),
      t = s.advance cyc ∧
      t.link.on = true ∧
      2 ^ 47 ≤ (t.strand b n).counter ∧
      (t.strand b n).warned = false ∧
      strandLanes n = l :: rest :=
  ⟨0, 0, 0, 0, [1], _, { State.reset.setStrand 0 0 { Strand.reset with counter := 2 ^ 47 } with link := { State.reset.link with on := true } }, rfl, by decide +kernel⟩

theorem witness_LaneCommands_drop : ∃ (b : Fin 4) (l : Fin 32) (cyc : Nat) (n : Fin 14) (t : State) (s : State),
      ((s.advance cyc).lane b l).txSusp = false ∧
      strandOf l = some n ∧
      t = (s.advance cyc).setLane b l { (s.advance cyc).lane b l with txSusp := true, suspended := some (((s.advance cyc).lane b l).suspended.getD (s.advance cyc).clk.bnd) } :=
  ⟨0, 0, 0, 0, _, laneState .up, by decide +kernel, by decide +kernel, rfl⟩

theorem witness_LaneCommands_resume : ∃ (b : Fin 4) (l : Fin 32) (cyc : Nat) (s : State),
      ((s.advance cyc).lane b l).txSusp = true :=
  ⟨0, 0, 0, State.reset.setLane 0 0 { Lane.reset with txSusp := true }, by decide +kernel⟩

theorem witness_LaneCommands_suspendTimeout : ∃ (b : Fin 4) (l : Fin 32) (k : Nat) (s : State),
      (s.lane b l).suspended = some k ∧
      k + 64 ≤ s.clk.bnd :=
  ⟨0, 0, 0, { State.reset.setLane 0 0 { Lane.reset with suspended := some 0 } with clk := { State.reset.clk with bnd := 64 } }, by decide +kernel⟩

theorem witness_LaneCommands_ident : ∃ (b : Fin 4) (l : Fin 32) (z : Fin 16) (index : Fin 32) (pb : Fin 4) (pl : Fin 32) (admitted : Bool) (serial tx echo turn arrival : Word) (ex : List Nat) (s : State),
      (s.lane b l).link = .training ∧
      (ex = (if echo = 0 ∧ turn = 0 then (s.lane b l).exchanges else ((s.lane b l).exchanges ++ [(arrival - echo - turn).toNat / 2]).take 64)) :=
  ⟨0, 0, 0, 1, 0, 0, true, 5, 0, 2, 0, 10, _, laneState .training, by decide +kernel, rfl⟩

theorem witness_LaneCommands_trained : ∃ (b : Fin 4) (l : Fin 32) (p : LanePeer) (s : State),
      (s.lane b l).link = .training ∧
      (s.lane b l).admitted = true ∧
      (s.lane b l).peer = some p ∧
      p.admitted = true ∧
      64 ≤ (s.lane b l).exchanges.length ∧
      (s.link.on = false ∨ s.flt.deferred.contains .bootCount = false) :=
  ⟨0, 0, ⟨0, 1, 0, 0, 5, true⟩, State.reset.setLane 0 0 { Lane.reset with link := .training, admitted := true, peer := some ⟨0, 1, 0, 0, 5, true⟩, exchanges := List.replicate 64 0 }, by decide +kernel⟩

theorem witness_LaneCommands_trainTimeout : ∃ (b : Fin 4) (l : Fin 32) (cyc k : Nat) (s : State),
      ((s.advance cyc).lane b l).trainAt = some k ∧
      ((s.advance cyc).lane b l).link = .training ∧
      ((s.advance cyc).lane b l).upDue = false ∧
      k + 50000000 ≤ (s.advance cyc).now :=
  ⟨0, 0, 0, 0, { State.reset.setLane 0 0 { Lane.reset with link := .training, trainAt := some 0 } with clk := { State.reset.clk with base := 50000000 } }, by decide +kernel⟩

theorem witness_LaneCommands_retry : ∃ (b : Fin 4) (l : Fin 32) (cyc k : Nat) (s : State),
      ((s.advance cyc).lane b l).retryAt = some k ∧
      k ≤ (s.advance cyc).now ∧
      (s.advance cyc).laneAlive b l = true :=
  ⟨0, 0, 0, 0, (turnOn [.lane 0 0] State.reset).setLane 0 0 { Lane.reset with retryAt := some 0 }, by decide +kernel⟩

theorem witness_LaneCommands_retrain : ∃ (src : Source) (b : Fin 4) (l : Fin 32) (cyc : Nat) (s : State),
      (s.advance cyc).mayWrite src (bridleReg b Reg.BRD_LANE_CTL) = true :=
  ⟨.pcie 0, 0, 0, 0, State.reset, by decide +kernel⟩

theorem witness_PciCommands_perst : ∃ (t : State) (s : State),
      t = s.resetEndpoint.setPciLink 4 0 0 :=
  ⟨_, State.reset, rfl⟩

theorem witness_PciCommands_dlDown : ∃ (s : State),
      s.pci.perst = false :=
  ⟨State.reset, by decide +kernel⟩

theorem witness_PciCommands_up : ∃ (width : Fin 17) (speed : Fin 7) (flit : Bool) (s : State),
      s.pci.perst = false :=
  ⟨16, 6, true, State.reset, by decide +kernel⟩

theorem witness_PciCommands_flr : ∃ (fn : Fin 64) (cyc : Nat) (t u : State) (s : State),
      t = ((((s.advance cyc).bump (Reg.PCI_CNT_n + 24) 1).orphanFunction fn.val).clearWindow fn.val) ∧
      u = ({ t with pci := { t.pci with msix := t.pci.msix.filter fun e => e.1 / 2048 != fn.val } } : State) :=
  ⟨1, 0, _, _, State.reset, rfl, rfl⟩

theorem witness_PciCommands_bar0Write : ∃ (off : BitVec 28) (val : Word) (cyc : Nat) (s : State),
      (s.advance cyc).pciUp = true :=
  ⟨0, 0, 0, pciState, by decide +kernel⟩

theorem witness_PciCommands_bar0Read : ∃ (off : BitVec 28) (cyc : Nat) (t : State) (s : State),
      (s.advance cyc).pciUp = true ∧
      t = (s.advance cyc).bump Reg.PCI_CNT_n 1 :=
  ⟨0, 0, _, pciState, by decide +kernel, rfl⟩

theorem witness_PciCommands_bar0Part : ∃ (off : BitVec 28) (write : Option Word) (cyc : Nat) (t : State) (s : State),
      (s.advance cyc).pciUp = true ∧
      t = ((s.advance cyc).bump Reg.PCI_CNT_n 1).bump (Reg.PCI_CNT_n + 4) 1 :=
  ⟨0, none, 0, _, pciState, by decide +kernel, rfl⟩

theorem witness_PciCommands_bar4 : ∃ (fn : Fin 64) (off : BitVec 36) (req : HostRequest) (cyc base : Nat) (t : State) (s : State),
      (s.advance cyc).pciUp = true ∧
      (fn.val = 0 ∨ off.toNat < 2 ^ 32) ∧
      t = (s.advance cyc).bump Reg.PCI_CNT_n 1 ∧
      (fn.val = 0 ∨ t.fnJob fn ≠ 0) ∧
      t.windowBase fn = some base ∧
      t.regionOf (base + off.toNat) (hostLength req) ≠ .hole :=
  ⟨0, 0, .read 4, 0, 0, _, pciState, by decide +kernel, by decide +kernel, rfl, by decide +kernel⟩

theorem witness_PciCommands_bar2Write : ∃ (fn : Fin 64) (off : BitVec 18) (val : Word) (cyc : Nat) (t : State) (s : State),
      (s.advance cyc).pciUp = true ∧
      t = (s.advance cyc).bump Reg.PCI_CNT_n 1 ∧
      (fn.val = 0 ∨ t.fnJob fn ≠ 0) :=
  ⟨0, 0, 1, 0, _, pciState, by decide +kernel, rfl, by decide⟩

theorem witness_PciCommands_bar2Read : ∃ (fn : Fin 64) (off : BitVec 18) (cyc : Nat) (t : State) (s : State),
      (s.advance cyc).pciUp = true ∧
      t = (s.advance cyc).bump Reg.PCI_CNT_n 1 :=
  ⟨0, 0, 0, _, pciState, by decide +kernel, rfl⟩

theorem witness_PciCommands_readTimeout : ∃ (id : Nat) (aborted : Bool) (cyc : Nat) (r : HostRead) (t : State) (s : State),
      ((s.advance cyc).pci.reads.find? fun r => r.id == id) = some r ∧
      (aborted = true ∨ r.sent + 10000000 ≤ (s.advance cyc).now) ∧
      t = (((s.advance cyc).endHostRead r.stall).raiseTo Flt.PCI_READ_TIMEOUT blkPCI r.job (r.addr % 2 ^ 32)).bump (Reg.PCI_CNT_n + 20) 1 :=
  ⟨0, true, 0, ⟨0, 0, 0, 0, 4, 0⟩, _, { State.reset with pci := { State.reset.pci with reads := [⟨0, 0, 0, 0, 4, 0⟩] } }, by decide +kernel, by decide, rfl⟩

theorem witness_ManagementCommands_offset : ∃ (off : Word) (s : State),
      s.sup.vstby = true ∧
      s.groom.overlap = false :=
  ⟨4, State.reset, by decide +kernel⟩

theorem witness_ManagementCommands_read : ∃ (t : State) (s : State),
      s.sup.vstby = true ∧
      s.groom.overlap = false ∧
      s.mgmt.offset.toNat % 4 = 0 ∧
      t = (s.readReg .i3c s.mgmt.offset.toNat).2.2 :=
  ⟨_, State.reset, by decide, by decide, by decide, rfl⟩

theorem witness_ManagementCommands_write : ∃ (off val : Word) (cyc : Nat) (s : State),
      (s.advance cyc).sup.vstby = true ∧
      (s.advance cyc).groom.overlap = false ∧
      off.toNat % 4 = 0 ∧
      (s.advance cyc).mayWrite .i3c off.toNat = true :=
  ⟨Reg.SEC_AUTH_DATA, 0, 0, State.reset, by decide +kernel⟩

theorem witness_ManagementCommands_nack : ∃ (off val : Word) (cyc : Nat) (s : State),
      (s.advance cyc).sup.vstby = true ∧
      ((s.advance cyc).groom.overlap = true ∨ off.toNat % 4 ≠ 0 ∨ (s.advance cyc).mayWrite .i3c off.toNat = false) :=
  ⟨1, 0, 0, State.reset, by decide +kernel⟩

theorem witness_ManagementCommands_uartRead : ∃ (off : Word) (s : State),
      s.sup.vstby = true ∧
      s.mayRead .uart off.toNat = true :=
  ⟨0x22100, openDebug 2, by decide +kernel⟩

theorem witness_ManagementCommands_uartLog : ∃ (count : Word) (s : State),
      s.sup.vstby = true ∧
      1 ≤ s.debugLevel :=
  ⟨1, openDebug 1, by decide +kernel⟩

theorem witness_ManagementCommands_uartWrite : ∃ (off val : Word) (cyc : Nat) (s : State),
      (s.advance cyc).sup.vstby = true :=
  ⟨0, 0, 0, State.reset, by decide +kernel⟩

theorem witness_ManagementCommands_jtag : ∃ (a : BitVec 44) (n : Nat) (bs : List (BitVec 8)) (g : Fin 2) (s : State),
      s.debugLevel = 2 :=
  ⟨0, 4, [], 0, openDebug 2, by decide +kernel⟩

theorem witness_BringUpCommands_start : ∃ (r : StartReport) (b : Bool) (x : SlotReport) (t u : State) (s : State),
      s.mayStart = true ∧
      s.groom.phase ≠ 3 ∧
      t = (s.fresh.latchStraps r).leaveReset r ∧
      t.sec.lifecycle ≠ 0 ∧
      t.slotVerifies r.slotA = true ∧
      t.slotVerifies r.slotB = true ∧
      (r.groom0 = true ∨ r.groom1 = true) ∧
      (b, x) = (if r.slotA.version < r.slotB.version then (true, r.slotB) else (false, r.slotA)) ∧
      u = t.bootGrooms r.groom0 r.groom1 b x false ∧
      u.startHeld = false ∧
      r.faulty = false :=
  ⟨startReport, false, startReport.slotA, _, _, startState, by decide +kernel, by decide +kernel, rfl, by decide +kernel, by decide +kernel, by decide +kernel, by decide +kernel, by decide +kernel, rfl, by decide +kernel⟩

theorem witness_BringUpCommands_startBlank : ∃ (r : StartReport) (t : State) (s : State),
      s.mayStart = true ∧
      s.groom.phase ≠ 3 ∧
      t = (s.fresh.latchStraps r).leaveReset r ∧
      t.sec.lifecycle = 0 :=
  ⟨startReport, _, { startState with sec := { startState.sec with otp := 0 } }, by decide +kernel, by decide +kernel, rfl, by decide +kernel⟩

theorem witness_BringUpCommands_stepTimeout : ∃ (unit : UnitId) (s : State),
      s.groom.waiting.contains unit = true :=
  ⟨.edu, { State.reset with groom := { State.reset.groom with waiting := [.edu] } }, by decide +kernel⟩

theorem witness_BringUpCommands_block : ∃ (c : CoreId) (b : Fin 256) (bs : List Byte) (good : Bool) (s : State),
      (s.unit (.core c)).st = .starting ∧
      (s.core c).load ≠ .loaded ∧
      bs = s.stagedBlock c b.val ∧
      (good = decide (crc32c (bs.take 28 ++ bs.drop 32) = (wordsOf (bs.take 32)).getD 7 0 ∧ ((wordsOf (bs.take 32)).getD 0 0).field 7 0 = b.val)) :=
  ⟨core0, 0, _, _, State.reset.setUnit (.core core0) { UnitRec.reset (.core core0) with st := .starting }, by decide +kernel, by decide +kernel, rfl, rfl⟩

theorem witness_BringUpCommands_commit : ∃ (src : Source) (s : State),
      s.mayWrite src (Reg.GRM_IMG_CTL) = true ∧
      s.groom.ready = true ∧
      s.groom.rollback < s.groom.outIndex :=
  ⟨.pcie 0, { State.reset with groom := { State.reset.groom with ready := true, outIndex := 1 } }, by decide +kernel⟩

theorem witness_BringUpCommands_clear : ∃ (src : Source) (s : State),
      s.mayWrite src (Reg.GRM_YIELD_CTL) = true :=
  ⟨.pcie 0, State.reset, by decide +kernel⟩

theorem witness_BringUpCommands_partial_ : ∃ (src : Source) (val : Word) (cyc : Nat) (t : State) (s : State),
      t = s.advance cyc ∧
      t.mayWrite src (Reg.GRM_RST_CTL) = true ∧
      val.bit 30 = false ∧
      val.field 7 0 ≠ 0 ∧
      t.groom.ready = true ∧
      (t.dies.any fun d => d.2.resetting && d.2.zeroiseReset != val.bit 31) = false :=
  ⟨.pcie 0, 1, 0, _, { State.reset with groom := { State.reset.groom with ready := true } }, rfl, by decide +kernel⟩

theorem witness_BringUpCommands_restart : ∃ (r : Fin 8) (cyc k : Nat) (s : State),
      ((s.advance cyc).die r).restartAt = some k ∧
      k + restartLimit ≤ (s.advance cyc).now ∧
      ((s.advance cyc).unit (.reckoner r)).st = .starting :=
  ⟨0, 0, 0, { (State.reset.setDie 0 { Die.reset with restartAt := some 0 }).setUnit (.reckoner 0) { UnitRec.reset (.reckoner 0) with st := .starting } with clk := { State.reset.clk with base := 50000000 } }, by decide +kernel⟩

theorem witness_FarrierCommands_lane : ∃ (r : Fin 8) (cls : Fin 6) (bundle : Fin 1664) (lane : Fin 68) (spare : BitVec 4) (key x : Nat) (s : State),
      bundle.val < bundleCount cls.val ∧
      key = bundleKey r.val cls.val bundle.val ∧
      s.laneWorks key lane.val = true ∧
      ((s.lanesDue key).any fun x => x.1 == lane.val) = false ∧
      s.laneSpare key spare = some x :=
  ⟨0, 0, 0, 0, 15, _, 64, State.reset, by decide, rfl, by decide +kernel⟩

theorem witness_FarrierCommands_laneNone : ∃ (r : Fin 8) (cls : Fin 6) (bundle : Fin 1664) (lane : Fin 68) (spare : BitVec 4) (key : Nat) (s : State),
      bundle.val < bundleCount cls.val ∧
      key = bundleKey r.val cls.val bundle.val ∧
      s.laneWorks key lane.val = true ∧
      ((s.lanesDue key).any fun x => x.1 == lane.val) = false ∧
      s.laneSpare key spare = none ∧
      s.groom.noSpare.contains (key * 128 + lane.val) = false :=
  ⟨0, 0, 0, 0, 0, _, State.reset, by decide, rfl, by decide +kernel⟩

theorem witness_FarrierCommands_bundle : ∃ (r : Fin 8) (cls : Fin 6) (bundle : Fin 1664) (s : State),
      bundle.val < bundleCount cls.val :=
  ⟨0, 0, 0, State.reset, by decide +kernel⟩

theorem witness_FarrierCommands_core : ∃ (c : CoreId) (cause : CoreFault) (n code : Nat) (t : State) (s : State),
      ((cause = .controlStore ∧ n = 1 ∧ code = 8) ∨ (cause = .scratch ∧ n = 2 ∧ code = 9) ∨ (cause = .ownerBundle ∧ n = 3 ∧ code = 10)) ∧
      (s.unit (.core c)).failed = false ∧
      (s.unit (.core c)).st ≠ .off ∧
      t = (s.haltCore c).logFault Flt.RKN_CORE_FAIL (coreBlock c 0) (putBits 26 16 c.gid + n) :=
  ⟨core0, .scratch, 2, 9, _, turnOn [.core core0] State.reset, by decide, by decide +kernel, by decide +kernel, rfl⟩

theorem witness_FarrierCommands_substitute : ∃ (c x : CoreId) (gid : Nat) (jobs : List Nat) (t : State) (s : State),
      (s.core c).owes = some (gid, jobs) ∧
      (s.unit (.core c)).st = .off ∧
      t = s.setCore c { s.core c with owes := none } ∧
      t.chooseSpare c = some x ∧
      t.farrier 0 = true :=
  ⟨core0, core1, 0, [], _, spareState, by decide +kernel, by decide +kernel, rfl, by decide +kernel⟩

theorem witness_FarrierCommands_substituteNone : ∃ (c : CoreId) (gid : Nat) (jobs : List Nat) (t : State) (s : State),
      (s.core c).owes = some (gid, jobs) ∧
      (s.unit (.core c)).st = .off ∧
      t = s.setCore c { s.core c with owes := none } ∧
      t.chooseSpare c = none :=
  ⟨core0, 0, [], _, State.reset.setCore core0 { Core.reset with owes := some (0, []) }, by decide +kernel, by decide +kernel, rfl, by decide +kernel⟩

theorem witness_FarrierCommands_spareCheck : ∃ (r : Fin 8) (code : Fin 3) (g : Nat) (c : CoreId) (t : State) (s : State),
      ((s.hotSpares r).find? fun g => decide (s.groom.checkNext.getD r.val 0 ≤ g)) = some g ∧
      coreOf g = some c ∧
      s.groom.lastCheck.getD r.val 0 + 2 ^ 22 ≤ s.clk.bnd ∧
      t = ({ s with groom := { s.groom with lastCheck := s.groom.lastCheck.put r.val s.clk.bnd, checkNext := s.groom.checkNext.put r.val (c.gid + 1) } } : State).zeroRange (scratchAddr c 0) 0x180000 :=
  ⟨0, 1, 1, core1, _, { spareState with clk := { spareState.clk with bnd := 2 ^ 22 } }, by decide +kernel, by decide +kernel, by decide +kernel, rfl⟩

theorem witness_FarrierCommands_field : ∃ (r : Fin 8) (east : Bool) (s : State),
      (s.unit (.field r east)).failed = false ∧
      (s.unit (.field r east)).st ≠ .off :=
  ⟨0, false, turnOn [.field 0 false] State.reset, by decide +kernel⟩

theorem witness_FarrierCommands_reckoner : ∃ (r : Fin 8) (s : State),
      (s.unit (.reckoner r)).st ≠ .off ∧
      (s.unit (.reckoner r)).failed = false :=
  ⟨0, turnOn [.reckoner 0] State.reset, by decide +kernel⟩

theorem witness_GroomCommands_failStop : ∃ (block : Word) (t : State) (s : State),
      s.groom.fatal = false ∧
      t = ({ s.unitsOff with groom := { s.unitsOff.groom with fatal := true, alert := true } } : State) :=
  ⟨0, _, State.reset, by decide, rfl⟩

theorem witness_GroomCommands_gate : ∃ (g : Fin 2) (epoch : BitVec 8) (seq : BitVec 64) (off : BitVec 28) (val : Word) (cyc : Nat) (t : State) (s : State),
      t = s.advance cyc ∧
      t.sup.vstby = true ∧
      epochOlder t.groom.epoch epoch = false ∧
      t.groom.journal.contains seq.toNat = false :=
  ⟨0, 0, 1, 0, 0, 0, _, State.reset, rfl, by decide +kernel⟩

theorem witness_GroomCommands_takeOver : ∃ (g : Fin 2) (t : State) (s : State),
      s.role g = .active ∧
      s.role (otherGroom g) = .standby ∧
      t = s.setRole (otherGroom g) .active :=
  ⟨0, _, groomPair .active .standby, by decide, by decide, rfl⟩

theorem witness_GroomCommands_dual : ∃ (g : Fin 2) (t : State) (s : State),
      s.role g = .dual ∧
      s.role (otherGroom g) = .dual ∧
      t = s.setRole (otherGroom g) .active :=
  ⟨0, _, groomPair .dual .dual, by decide, by decide, rfl⟩

theorem witness_GroomCommands_alone : ∃ (g : Fin 2) (s : State),
      (s.role g = .active ∨ s.role g = .dual) ∧
      s.role (otherGroom g) = .absent :=
  ⟨0, groomPair .active .absent, by decide +kernel⟩

theorem witness_GroomCommands_switch : ∃ (src : Source) (cyc : Nat) (t : State) (s : State),
      t = s.advance cyc ∧
      t.mayWrite src (Reg.GRM_PAIR_CTL) = true ∧
      (t.groom.role0 = .standby ∨ t.groom.role1 = .standby) :=
  ⟨.pcie 0, 0, _, groomPair .active .standby, rfl, by decide +kernel⟩

theorem witness_GroomCommands_standby : ∃ (g : Fin 2) (s : State),
      s.role g = .standby :=
  ⟨1, groomPair .active .standby, by decide +kernel⟩

theorem witness_GroomCommands_restarted : ∃ (g : Fin 2) (s : State),
      s.restarting g = 1 :=
  ⟨1, State.reset.setRestarting 1 1, by decide +kernel⟩

theorem witness_ThermalCommands_sample : ∃ (cls : Fin 9) (index : BitVec 12) (reading : BitVec 16) (s : State),
      sensorExists cls.val index.toNat = true ∧
      (s.sensor (sensorKey cls.val index.toNat)).bad = false :=
  ⟨1, 0, 640, State.reset, by decide +kernel⟩

theorem witness_ThermalCommands_bad : ∃ (cls : Fin 9) (index near0 near1 : BitVec 12) (v : Sensor) (s : State),
      v = s.sensor (sensorKey cls.val index.toNat) ∧
      sensorExists cls.val index.toNat = true ∧
      v.bad = false ∧
      cls.val < 7 ∧
      (v.temp < -640 ∨ 2400 < v.temp ∨ (320 < (v.temp - (s.sensor (sensorKey cls.val near0.toNat)).temp).natAbs ∧ 320 < (v.temp - (s.sensor (sensorKey cls.val near1.toNat)).temp).natAbs)) :=
  ⟨1, 0, 1, 2, _, State.reset.setSensor (sensorKey 1 0) { Sensor.reset with temp := 2500 }, rfl, by decide +kernel⟩

theorem witness_ThermalCommands_badOther : ∃ (cls : Fin 9) (index near0 near1 : BitVec 12) (s : State),
      sensorExists cls.val index.toNat = true ∧
      (s.sensor (sensorKey cls.val index.toNat)).bad = false ∧
      7 ≤ cls.val :=
  ⟨7, 0, 1, 2, State.reset, by decide +kernel⟩

theorem witness_ThermalCommands_rate : ∃ (r : Fin 8) (s : State),
      (s.rate r).level ≠ 0 ∧
      977 ≤ (s.rate r).calm :=
  ⟨0, State.reset.setRate 0 { Rate.reset with level := 1, calm := 977 }, by decide +kernel⟩

theorem witness_ThermalCommands_cool : ∃ (r : Fin 8) (t u : State) (s : State),
      r.val ∈ s.therm.shut ∧
      977 ≤ s.therm.cool.getD r.val 0 ∧
      t = ({ s with therm := { s.therm with shut := s.therm.shut.erase r.val, cool := s.therm.cool.drop r.val } } : State) ∧
      u = t.setUnit (.reckoner r) { t.unit (.reckoner r) with failed := false } :=
  ⟨0, _, _, { State.reset with therm := { State.reset.therm with shut := [0], cool := [(0, 977)] } }, by decide, by decide, rfl, rfl⟩

theorem witness_ThermalCommands_trip : ∃ (cls : Fin 7) (index : BitVec 12) (t : State) (s : State),
      sensorExists cls.val index.toNat = true ∧
      (shutdownAt cls.val + 5) * 16 ≤ (s.sensor (sensorKey cls.val index.toNat)).temp ∧
      s.therm.trip = false ∧
      t = s.unitsOff :=
  ⟨1, 0, _, State.reset.setSensor (sensorKey 1 0) { Sensor.reset with temp := 3000 }, by decide, by decide +kernel, by decide, rfl⟩

theorem witness_ThermalCommands_deferred : ∃ (s : State),
      977 ≤ s.therm.inRange :=
  ⟨{ State.reset with therm := { State.reset.therm with inRange := 977 } }, by decide +kernel⟩

theorem witness_ThermalCommands_throttleUp : ∃ (t : State) (s : State),
      977 ≤ s.power.sinceStep ∧
      s.powerLimit < s.power.avg1s ∧
      t = ({ s with power := { s.power with throttle := min 75 (s.power.throttle + 5), sinceStep := 0, hitLogged := true } } : State) :=
  ⟨_, { State.reset with power := { State.reset.power with sinceStep := 977, avg1s := 3300 } }, by decide, by decide +kernel, rfl⟩

theorem witness_ThermalCommands_throttleDown : ∃ (s : State),
      977 ≤ s.power.sinceStep ∧
      s.power.avg1s ≤ s.powerLimit ∧
      s.power.avg1s * 100 < s.powerLimit * 95 :=
  ⟨{ State.reset with power := { State.reset.power with sinceStep := 977 } }, by decide +kernel⟩

theorem witness_ThermalCommands_emergency : ∃ (b : Nat) (s : State),
      s.power.emergency = some b ∧
      b ≤ s.clk.bnd :=
  ⟨0, { State.reset with power := { State.reset.power with emergency := some 0 } }, by decide +kernel⟩

theorem witness_PowerAndSupplyCommands_target : ∃ (src : Source) (val : Word) (cyc : Nat) (t : State) (s : State),
      t = s.advance cyc ∧
      t.mayWrite src (Reg.PWR_STATE_CTL) = true :=
  ⟨.pcie 0, 1, 0, _, State.reset, rfl, by decide +kernel⟩

theorem witness_PowerAndSupplyCommands_step : ∃ (n : Nat) (s : State),
      s.power.moving = some n ∧
      s.moveReady n = true :=
  ⟨4, { State.reset with power := { State.reset.power with moving := some 4 } }, by decide +kernel⟩

theorem witness_PowerAndSupplyCommands_vlasBack : ∃ (s : State),
      s.sup.vlas = false :=
  ⟨{ State.reset with sup := { State.reset.sup with vlas := false } }, by decide +kernel⟩

theorem witness_PowerAndSupplyCommands_vstby : ∃ (t : State) (s : State),
      t = s.unitsOff :=
  ⟨_, State.reset, rfl⟩

theorem witness_PowerAndSupplyCommands_vstbyBack : ∃ (s : State),
      s.sup.vstby = false :=
  ⟨{ State.reset with sup := { State.reset.sup with vstby := false } }, by decide +kernel⟩

theorem witness_PowerAndSupplyCommands_modReset : ∃ (t : State) (s : State),
      t = s.unitsOff :=
  ⟨_, State.reset, rfl⟩

theorem witness_DebugCommands_challenge : ∃ (src : Source) (val : Word) (w : Word) (t : State) (s : State),
      s.mayWrite src (Reg.SEC_DBG_CTL) = true ∧
      w = val.setField 24 22 1 ∧
      t = s.setReg Reg.SEC_DBG_CTL (w &&& 0x3E000000) ∧
      t.lockedOut = false ∧
      (t.keyFor w).isNone = false :=
  ⟨.pcie 0, 0x20000000, _, _, debugState 2, by decide +kernel, rfl, rfl, by decide +kernel⟩

theorem witness_DebugCommands_submit : ∃ (src : Source) (val : Word) (cyc : Nat) (block : List Word) (u : Nat) (hash : List Word) (w : Word) (t : State) (s : State),
      (s.advance cyc).mayWrite src (Reg.SEC_DBG_CTL) = true ∧
      w = val.setField 24 22 2 ∧
      t = (s.advance cyc).setReg Reg.SEC_DBG_CTL (w &&& 0x3E000000) ∧
      t.sec.challenge = some (block, u) ∧
      t.clk.bnd < u ∧
      t.keyFor t.sec.request = some hash :=
  ⟨.pcie 0, 0x20000000, 0, [], 1, [], _, _, { debugState 2 with sec := { (debugState 2).sec with challenge := some ([], 1), request := 0x20000000 } }, by decide +kernel, rfl, rfl, by decide +kernel⟩

theorem witness_DebugCommands_revoke : ∃ (src : Source) (val : Word) (w : Word) (t : State) (s : State),
      s.mayWrite src (Reg.SEC_DBG_CTL) = true ∧
      w = val.setField 24 22 3 ∧
      t = s.setReg Reg.SEC_DBG_CTL (w &&& 0x3E000000) ∧
      t.sec.lifecycle ≠ 0 ∧
      t.sec.zeroising = false ∧
      w.field 29 28 < t.sec.level :=
  ⟨.pcie 0, 0x10000000, _, _, openDebug 2, by decide +kernel, rfl, rfl, by decide +kernel⟩

theorem witness_DebugCommands_provision : ∃ (src : Source) (val : Word) (w : Word) (t : State) (s : State),
      s.mayWrite src (Reg.SEC_DBG_CTL) = true ∧
      w = val.setField 24 22 4 ∧
      t = s.setReg Reg.SEC_DBG_CTL (w &&& 0x3E000000) ∧
      t.sec.lifecycle = 0 ∧
      t.sec.otp = 0 ∧
      25 ≤ t.sec.writeFifo.length :=
  ⟨.pcie 0, 0x20000000, _, _, { debugState 0 with sec := { (debugState 0).sec with otp := 0, writeFifo := List.replicate 25 0 } }, by decide +kernel, rfl, rfl, by decide +kernel⟩

theorem witness_DebugCommands_pubkey : ∃ (src : Source) (val : Word) (w : Word) (t : State) (s : State),
      s.mayWrite src (Reg.SEC_DBG_CTL) = true ∧
      w = val.setField 24 22 5 ∧
      t = s.setReg Reg.SEC_DBG_CTL (w &&& 0x3E000000) :=
  ⟨.pcie 0, 0x20000000, _, _, debugState 2, by decide +kernel, rfl, rfl⟩

theorem witness_DebugCommands_authRead : ∃ (src : Source) (w : Word) (rest : List Word) (s : State),
      s.mayRead src Reg.SEC_AUTH_DATA = true ∧
      s.sec.readFifo = w :: rest :=
  ⟨.pcie 0, 5, [], { State.reset with sec := { State.reset.sec with readFifo := [5] } }, by decide +kernel⟩

theorem witness_DebugCommands_authEmpty : ∃ (src : Source) (s : State),
      s.mayRead src Reg.SEC_AUTH_DATA = true ∧
      s.sec.readFifo = [] :=
  ⟨.pcie 0, State.reset, by decide +kernel⟩

theorem witness_DebugCommands_authWrite : ∃ (src : Source) (val : Word) (s : State),
      s.mayWrite src (Reg.SEC_AUTH_DATA) = true :=
  ⟨.pcie 0, 5, State.reset, by decide +kernel⟩

theorem witness_DebugCommands_expiry : ∃ (c : List Word) (b : Nat) (s : State),
      s.sec.challenge = some (c, b) ∧
      b ≤ s.clk.bnd :=
  ⟨[], 0, { State.reset with sec := { State.reset.sec with challenge := some ([], 0) } }, by decide +kernel⟩

theorem witness_DebugCommands_lockout : ∃ (b : Nat) (s : State),
      s.sec.lockout = some b ∧
      b ≤ s.clk.bnd :=
  ⟨0, { State.reset with sec := { State.reset.sec with lockout := some 0 } }, by decide +kernel⟩

theorem witness_DebugCommands_zeroised : ∃ (k : Fin 24) (t u : State) (s : State),
      s.sec.zeroising = true ∧
      s.sec.zeroPower ≠ 4 ∧
      s.sec.zeroWait = none ∧
      s.reckonersZeroed = true ∧
      t = (if s.sec.zeroPower = 2 then s.stopAll reckonerUnits else s).freeOrphans.zeroStore.zeroMemory ∧
      u = t.detectLoss k :=
  ⟨0, _, _, { State.reset with sec := { State.reset.sec with zeroising := true } }, by decide, by decide, by decide, by decide +kernel, rfl, rfl⟩

theorem witness_KeyAndSnapshotCommands_load : ∃ (src : Source) (val : Word) (got : Option (List Byte) × State) (w : Word) (t : State) (s : State),
      s.mayWrite src (Reg.SEC_KEY_CMD) = true ∧
      w = val.setField 31 29 1 ∧
      t = s.setReg Reg.SEC_KEY_CMD (w &&& 0x001FFFFF) ∧
      t.sec.lifecycle ≠ 0 ∧
      t.sec.lifecycle ≠ 3 ∧
      t.slotBound (w.field 20 12) = false ∧
      got = t.readBlob (w.field 20 12) :=
  ⟨.pcie 0, 1, _, _, _, keyState, by decide +kernel, rfl, rfl, by decide +kernel, by decide +kernel, by decide +kernel, rfl⟩

theorem witness_KeyAndSnapshotCommands_erase : ∃ (src : Source) (val : Word) (w : Word) (t : State) (s : State),
      s.mayWrite src (Reg.SEC_KEY_CMD) = true ∧
      w = val.setField 31 29 2 ∧
      t = s.setReg Reg.SEC_KEY_CMD (w &&& 0x001FFFFF) ∧
      t.sec.lifecycle ≠ 0 ∧
      t.sec.lifecycle ≠ 3 ∧
      t.slotBound (w.field 20 12) = false :=
  ⟨.pcie 0, 1, _, _, keyState, by decide +kernel, rfl, rfl, by decide +kernel⟩

theorem witness_KeyAndSnapshotCommands_bind : ∃ (src : Source) (val : Word) (cyc : Nat) (w : Word) (t : State) (s : State),
      (s.advance cyc).mayWrite src (Reg.SEC_KEY_CMD) = true ∧
      w = val.setField 31 29 3 ∧
      t = (s.advance cyc).setReg Reg.SEC_KEY_CMD (w &&& 0x001FFFFF) ∧
      t.sec.lifecycle ≠ 0 ∧
      t.sec.lifecycle ≠ 3 ∧
      w.field 11 0 ≠ 0 ∧
      w.field 20 12 ≤ 255 ∧
      (t.slotOf_ (w.field 20 12)).key ≠ [] :=
  ⟨.pcie 0, 1, 0, _, _, { keyState with sec := { keyState.sec with slots := [(0, ⟨[1], 0⟩)] } }, by decide +kernel, rfl, rfl, by decide +kernel⟩

theorem witness_KeyAndSnapshotCommands_unbind : ∃ (src : Source) (val : Word) (cyc : Nat) (w : Word) (t : State) (s : State),
      (s.advance cyc).mayWrite src (Reg.SEC_KEY_CMD) = true ∧
      w = val.setField 31 29 4 ∧
      t = (s.advance cyc).setReg Reg.SEC_KEY_CMD (w &&& 0x001FFFFF) ∧
      t.sec.lifecycle ≠ 0 ∧
      t.sec.lifecycle ≠ 3 :=
  ⟨.pcie 0, 1, 0, _, _, keyState, by decide +kernel, rfl, rfl, by decide +kernel⟩

theorem witness_KeyAndSnapshotCommands_link : ∃ (src : Source) (val : Word) (t : State) (s : State),
      s.mayWrite src (Reg.SEC_LINK_CTL) = true ∧
      t = s.setReg Reg.SEC_LINK_CTL (val.setField 26 26 1 &&& 0xC0000000) ∧
      16 ≤ (t.reg Reg.SEC_LINK_AT - BitVec.ofNat 32 t.clk.stride.toNat).toNat ∧
      (t.reg Reg.SEC_LINK_AT - BitVec.ofNat 32 t.clk.stride.toNat).toNat < 2 ^ 31 :=
  ⟨.pcie 0, 0x80000000, _, { State.reset with regs := State.reset.regs.put Reg.SEC_LINK_AT 16 }, by decide +kernel, rfl, by decide +kernel⟩

theorem witness_KeyAndSnapshotCommands_rearm : ∃ (src : Source) (s : State),
      s.pageAnswers 6 = true ∧
      s.mayWrite src (Reg.SNP_CTL) = true :=
  ⟨.pcie 0, State.reset, by decide +kernel⟩

theorem witness_KeyAndSnapshotCommands_trigger : ∃ (source : Nat) (s : State),
      s.snap.held = false ∧
      s.snap.rackPend = none :=
  ⟨0, State.reset, by decide +kernel⟩

theorem witness_KeyAndSnapshotCommands_trigIn : ∃ (s : State),
      s.sup.vio = true ∧
      s.regF Reg.SNP_CTL 27 27 = 1 :=
  ⟨{ State.reset with regs := State.reset.regs.put Reg.SNP_CTL 0x08000000 }, by decide +kernel⟩

theorem witness_KeyAndSnapshotCommands_record : ∃ (cls : Fin 16) (code : BitVec 12) (source detail : Word) (job : Option (BitVec 12)) (logged same : Bool) (s : State),
      FaultCode.listed ⟨cls.val, code.toNat⟩ = true :=
  ⟨1, 1, 0, 0, none, true, false, State.reset, by decide +kernel⟩

theorem witness_KeyAndSnapshotCommands_ringWrite : ∃ (job : BitVec 12) (w : FaultWrite) (t : State) (s : State),
      (s.flt.flight.find? fun w => w.job == job.toNat) = some w ∧
      t = ({ s with flt := { s.flt with flight := s.flt.flight.erase w } } : State) ∧
      t.regF (bank job.toNat Reg.PDK_FLT_CFG) 31 31 = 1 :=
  ⟨1, ⟨1, ⟨⟨1, 1⟩, 0, 0, 0⟩⟩, _, ringFlight, by decide +kernel, rfl, by decide +kernel⟩

theorem witness_KeyAndSnapshotCommands_head : ∃ (src : Source) (val head tail : Word) (j : Nat) (s : State),
      s.mayWrite src (Reg.PDK_FLT_HEAD) = true ∧
      j = s.regF Reg.PDK_FLT_SEL 11 0 ∧
      head = s.reg (bank j Reg.PDK_FLT_HEAD) ∧
      tail = s.reg (bank j Reg.PDK_FLT_TAIL) ∧
      (val - head).toNat ≤ (tail - head).toNat :=
  ⟨.pcie 0, 0, _, _, _, State.reset, by decide +kernel, rfl, rfl, rfl, by decide +kernel⟩

theorem witness_MemoryMaintenanceCommands_tally : ∃ (c : CoreId) (word : Fin 2621440) (errs : Fin 3) (a e : Nat) (s : State),
      a = tallyAddr c (8 * word.val) ∧
      e = max errs.val (s.dram.tallyErr.getD a 0) ∧
      e ≠ 0 ∧
      c.gid ∉ s.groom.sliceDown :=
  ⟨core0, 0, 1, _, _, turnOn [.reckoner 0] State.reset, rfl, rfl, by decide +kernel⟩

theorem witness_MemoryMaintenanceCommands_tallyClean : ∃ (c : CoreId) (word : Fin 2621440) (s : State),
      s.dram.tallyErr.getD (tallyAddr c (8 * word.val)) 0 = 0 :=
  ⟨core0, 0, State.reset, by decide +kernel⟩

theorem witness_MemoryMaintenanceCommands_scrub : ∃ (line : BitVec 34) (errs : Fin 8) (n e : Nat) (s : State),
      n = line.toNat ∧
      e = max errs.val (s.dram.lineErr.getD n 0) ∧
      e ≠ 0 ∧
      n < dramSize / 128 :=
  ⟨0, 1, _, _, turnOn ((List.finRange 24).map .stack) State.reset, rfl, rfl, by decide +kernel⟩

theorem witness_MemoryMaintenanceCommands_refresh : ∃ (k : Fin 24) (bank : BitVec 12) (v : Stack) (s : State),
      v = s.stack k ∧
      s.isOn (.stack k) = true ∧
      v.lost = false :=
  ⟨0, 0, _, turnOn [.stack 0] State.reset, rfl, by decide +kernel⟩

theorem witness_MemoryMaintenanceCommands_retrain : ∃ (k : Fin 24) (links : Bool) (v : Stack) (period : Nat) (s : State),
      v = s.stack k ∧
      period = s.regF Reg.MEM_TRAIN_CTL 15 0 ∧
      s.isOn (.stack k) = true ∧
      v.lost = false ∧
      s.power.state ≠ 3 ∧
      v.burstLeft = 0 ∧
      (links = true ∨ 16 * s.tempDelta ≤ (s.stackTemp k - v.lastTemp).natAbs ∨ (period ≠ 0 ∧ v.lastRetrain + period * 2 ^ 20 ≤ s.clk.bnd)) :=
  ⟨0, true, _, _, turnOn [.stack 0] State.reset, rfl, rfl, by decide +kernel⟩

theorem witness_MemoryMaintenanceCommands_burst : ∃ (k : Fin 24) (channel : Fin 32) (v : Stack) (s : State),
      v = s.stack k ∧
      s.power.state ≠ 3 ∧
      s.isOn (.stack k) = true ∧
      v.lost = false ∧
      v.burst = none ∧
      (0 < v.burstLeft ∨ (v.repairs ≠ [] ∧ s.regF Reg.MEM_REPAIR_CTL 31 31 = 1)) ∧
      (v.lastBurst = 0 ∨ v.lastBurst + s.burstGap ≤ s.clk.bnd) ∧
      s.bursting < 6 :=
  ⟨0, 3, _, (turnOn [.stack 0] State.reset).setStack 0 { Stack.reset with burstLeft := 192 }, rfl, by decide +kernel⟩

theorem witness_MemoryMaintenanceCommands_burstGood : ∃ (k : Fin 24) (ch : Nat) (v w : Stack) (s : State),
      v = s.stack k ∧
      v.burst = some ch ∧
      w = { v with burst := none, burstFails := v.burstFails.drop ch, burstLeft := v.burstLeft - 1 } :=
  ⟨0, 3, _, _, State.reset.setStack 0 { Stack.reset with burstLeft := 1, burst := some 3 }, rfl, by decide +kernel, rfl⟩

theorem witness_MemoryMaintenanceCommands_burstFails : ∃ (k : Fin 24) (ch n : Nat) (v : Stack) (t s : State),
      v = s.stack k ∧
      v.burst = some ch ∧
      n = v.burstFails.getD ch 0 + 1 ∧
      t = s.setStack k { v with burst := none, burstFails := v.burstFails.put ch n } :=
  ⟨0, 3, _, _, _, State.reset.setStack 0 { Stack.reset with burst := some 3 }, rfl, by decide +kernel, rfl, rfl⟩

theorem witness_MemoryMaintenanceCommands_repair : ∃ (line : BitVec 34) (spare : Bool) (left : BitVec 8) (k : Fin 24) (row : Nat) (v w : Stack) (t : State) (s : State),
      k = s.holder line.toNat ∧
      row = s.lineRow line.toNat ∧
      v = s.stack k ∧
      row ∈ v.repairs ∧
      v.lost = false ∧
      s.regF Reg.MEM_REPAIR_CTL 31 31 = 1 ∧
      v.burst = some (row % 32) ∧
      w = { v with repairs := v.repairs.filter (· != row), rowCount := v.rowCount.drop row } ∧
      t = s.setStack k { w with softRepairs := min (w.softRepairs + 1) 255, spareLeft := left.toNat } :=
  ⟨0, true, 3, _, _, _, _, _, repairState, rfl, rfl, rfl, List.Mem.head _, by decide +kernel, by decide +kernel, rfl, rfl, rfl⟩

theorem witness_StackLossCommands_first : ∃ (k : Fin 24) (t u : State) (s : State),
      (s.stack k).lost = false ∧
      t = (s.setStack k { s.stack k with lost := true, burst := none }).setUnit (.stack k) { s.unit (.stack k) with failed := true } ∧
      u = (t.logFault Flt.MEM_STACK_LOST (blkMEMS k.val) k.val).scheduleNext (.unitFail (.stack k) true) ∧
      u.dram.gone = none :=
  ⟨3, _, _, State.reset, by decide, rfl, rfl, by decide +kernel⟩

theorem witness_StackLossCommands_second : ∃ (k : Fin 24) (t u : State) (s : State),
      (s.stack k).lost = false ∧
      s.dram.gone ≠ some k ∧
      t = (s.setStack k { s.stack k with lost := true, burst := none }).setUnit (.stack k) { s.unit (.stack k) with failed := true } ∧
      u = (t.logFault Flt.MEM_STACK_LOST (blkMEMS k.val) k.val).scheduleNext (.unitFail (.stack k) true) ∧
      u.dram.gone.isNone = false ∧
      u.dram.second.isSome = false :=
  ⟨3, _, _, { State.reset with dram := { State.reset.dram with gone := some 0 } }, by decide, by decide, rfl, rfl, by decide +kernel⟩

theorem witness_StackLossCommands_again : ∃ (k : Fin 24) (s : State),
      (s.stack k).lost = true :=
  ⟨3, State.reset.setStack 3 { Stack.reset with lost := true }, by decide +kernel⟩

theorem witness_StackLossCommands_fill : ∃ (s : State),
      s.dram.map = .folding :=
  ⟨{ State.reset with dram := { State.reset.dram with map := .folding } }, by decide +kernel⟩

theorem witness_StackLossCommands_history : ∃ (cyc b : Nat) (t u : State) (s : State),
      t = s.advance cyc ∧
      t.dram.windowEnd = some b ∧
      b ≤ t.now ∧
      u = ({ t with dram := { t.dram with windowEnd := none } } : State) :=
  ⟨0, 0, _, _, { State.reset with dram := { State.reset.dram with windowEnd := some 0 } }, rfl, by decide +kernel, by decide +kernel, rfl⟩

theorem witness_StackLossCommands_early : ∃ (cyc b : Nat) (t : State) (s : State),
      t = s.advance cyc ∧
      t.dram.windowEnd = some b ∧
      t.now < b :=
  ⟨0, 1, _, { State.reset with dram := { State.reset.dram with windowEnd := some 1 } }, rfl, by decide +kernel⟩

theorem witness_StackLossCommands_copied : ∃ (k : Fin 24) (s : State),
      s.dram.gone = some k ∧
      s.dram.retired = true ∧
      s.dram.map = .normal :=
  ⟨0, { State.reset with dram := { State.reset.dram with gone := some 0, retired := true } }, by decide +kernel⟩

/-! ### Commands that spell no event (WellFormed): one ill-formed term for each check -/

def packet (w0 : Word) (l : List Word) : ReinPacket := ⟨w0, 0, 0, 0, l, 0, false, 0⟩

theorem test_reinRead_payload_short : (Instr.reinRead (packet 0x400000 []) 0).wellFormed = false := by decide
theorem test_reinWrite_five_flits : (Instr.reinWrite (packet 0x1400000 (List.replicate 20 0)) 0).wellFormed = false := by decide
theorem test_reinBcast_payload_long : (Instr.reinBcast (packet 0 [0]) [] 0).wellFormed = false := by decide
theorem test_codeword_flit_of_three : (Instr.codewordReceive 0 0 (.decoded 0 ⟨false, 0, false, 0⟩ [[0, 0, 0]] .plain) 0).wellFormed = false := by decide
theorem test_codeword_flits : (Instr.codewordReceive 0 0 (.decoded 0 ⟨false, 0, false, 0⟩ (List.replicate 41 [0, 0, 0, 0]) .plain) 0).wellFormed = false := by decide
theorem test_line_flit_short : (Instr.draughtPacketReceive ⟨0, 0, true, 0⟩ (List.replicate 15 0) 0).wellFormed = false := by decide
theorem test_line_flit_long : (Instr.draughtPacketReceive ⟨0, 0, true, 0⟩ (List.replicate 273 0) 0).wellFormed = false := by decide +kernel
theorem test_bar4_read_of_nothing : (Instr.bar4Access 0 0 (.read 0) 0).wellFormed = false := by decide
theorem test_bar4_write_too_long : (Instr.bar4Access 0 0 (.write (List.replicate 513 0)) 0).wellFormed = false := by decide +kernel
theorem test_bar4_virtual_window : (Instr.bar4Access 1 0x100000000 (.read 1) 0).wellFormed = false := by decide
theorem test_link_of_no_lanes : (Instr.pcieLinkUp 0 1 false).wellFormed = false := by decide
theorem test_image_of_nothing : (Instr.firmwareRepairCheck 0 []).wellFormed = false := by decide
theorem test_image_block_short : (Instr.firmwareRepairCheck 0 [[0]]).wellFormed = false := by decide

/-! ### Hypotheses of statements met -/

theorem witness_EmptyQueueIdles : State.reset.pending = [] := rfl
theorem test_idle : step State.reset = .next State.reset := rfl

/-- State.reset is sound, and so is the state at either side of the cutoff of a stride of 1,024 cycles. -/
def atCycle (n : Nat) : State := { State.reset with clk := { State.reset.clk with cycle := n } }
theorem witness_BoundaryCutoff_before : (atCycle 895).clk.sound ∧ (atCycle 895).clk.len = 1024 ∧ (atCycle 895).clk.cycle < 896 := by
  exact ⟨⟨by decide, by decide, by decide⟩, rfl, by decide⟩
theorem witness_BoundaryCutoff_after : (atCycle 896).clk.sound ∧ (atCycle 896).clk.len = 1024 ∧ 896 ≤ (atCycle 896).clk.cycle := by
  exact ⟨⟨by decide, by decide, by decide⟩, rfl, by decide⟩
theorem witness_StepKeepsSoundness : ∃ t, State.reset.sound ∧ step { State.reset with pending := [.strideBoundary] } = .next t :=
  ⟨_, ⟨⟨by decide, by decide, by decide⟩, ⟨by decide, by decide⟩, rfl⟩, rfl⟩
theorem witness_OnlyBoundariesMoveTheStride :
    ∃ (s t : State) (c : Instr) (rest : List Instr), s.pending = c :: rest ∧ c ≠ .strideBoundary ∧
      (∀ r, c ≠ .moduleStart r) ∧ s.clk.sound ∧ step s = .next t :=
  ⟨{ State.reset with pending := [.masterLostTimeout] }, _, .masterLostTimeout, [], rfl, by decide, fun _ => Instr.noConfusion,
    ⟨by decide, by decide, by decide⟩, rfl⟩
theorem witness_RollbackCounterNeverFalls : ∃ t, step { State.reset with pending := [.strideBoundary] } = .next t := ⟨_, rfl⟩
def signalState : State :=
  { running opSignal [] with cores := [(0, { Core.reset with q0 := { liveQueue with exec := [execOf opSignal []], pc := 1 }, mover := [{ loadTxn with kind := 2, q := 0 }] })] }
theorem witness_SignalWaitsForStores :
    ∃ (q : QueueId) (e : Exec) (t : Txn) (s : State), (s.queue q).runningOf opSignal = some e ∧ t ∈ (s.core q.core).mover ∧ t.q = q.q ∧
      (t.kind = 2 ∨ t.kind = 3 ∨ t.kind = 4 ∨ t.ret ≠ none) :=
  ⟨queue0, execOf opSignal [], { loadTxn with kind := 2, q := 0 }, signalState, by decide +kernel, by decide +kernel, by decide +kernel,
    by decide +kernel⟩
/-- The last byte of two lies in a hole: just above the lowest 1,152 GiB of DRAM. -/
theorem witness_AccessPartlyInAHole :
    ∃ (s : State) (a i : Nat) (bs : List Byte), i < bs.length ∧ s.regionOf (a + i) 1 = .hole ∧ s.regionOf a 1 ≠ .hole :=
  ⟨State.reset, 0x11FFFFFFFFF, 1, [0, 0], by decide +kernel, by decide +kernel, by decide +kernel⟩

/-- A started vector operation on 16 elements of FP32 whose results end at the last byte of scratch. -/
def vectorWords (vop : Nat) : List Word :=
  [BitVec.ofNat 32 (vop * 2 ^ 24 + 0x330000), 16, 0x10000, BitVec.ofNat 32 (24575 * 2 ^ 16 + 2), 0, 16, 0]
theorem witness_VectorCommands : ∀ vop ∈ [0, 1, 2, 3, 4, 5, 10, 11],
    let s := running opVector (vectorWords vop)
    let e := execOf opVector (vectorWords vop)
    let x := e.desc.vector
    (s.queue queue0).runningVector vop = some e ∧ s.hazard queue0.core (x.reads ++ x.writes) = false ∧
      (s.unit (.core queue0.core)).st ≠ .off ∧ x.reads.all Span.fits = true := by decide +kernel

end Sys2Proof.Tests
end

section
/-! Accesses that lie partly in a hole (R27): the map is made of windows, each byte of an access that is not to a hole lies in the
access's own region, and an access to a hole is barred before any unit of memory is touched. -/

namespace Sys2Proof.Machine

variable {s : State} {w : Accessor}

/-- A byte of a range that lies in one block of `k` bytes is in that block, and its offset there is counted from the range's. -/
theorem div_mod_of_range_in_block {k b n i : Nat} (hfit : b % k + n ≤ k) (hi : i < n) :
    (b + i) / k = b / k ∧ (b + i) % k = b % k + i := by
  have hk : 0 < k := by omega
  refine ((Nat.div_mod_unique hk).mpr ⟨?_, by omega⟩)
  have := Nat.mod_add_div b k
  omega

/-! ### The windows of the address map (R23 to R25) -/

theorem State.regionOf_dramWindow {a n : Nat} (ha : a < tallyBase) :
    s.regionOf a n = if a + n ≤ (if s.dram.topHole then dramFolded else dramSize) then .dram else .hole :=
  if_pos ha

/-- A core's slice has its region while the slice is not disabled, and nothing else of the window has one. -/
theorem State.regionOf_tallyWindow {o n : Nat} (ho : tallyBase + o < scratchBase) :
    s.regionOf (tallyBase + o) n =
      ((coreOf (o / 0x2000000)).elim .hole fun c =>
        if o % 0x2000000 + n ≤ 0x1400000 ∧ c.gid ∉ s.groom.sliceDown then .tally c else .hole) := by
  unfold State.regionOf
  rw [if_neg (Nat.not_lt.mpr (Nat.le_add_right ..)), if_pos ho, Nat.add_sub_cancel_left]
  cases coreOf (o / 0x2000000) <;> rfl

/-- A core's scratch has its region while the core is not OFF, and nothing else from the window's base up has one. -/
theorem State.regionOf_scratchWindow {o n : Nat} :
    s.regionOf (scratchBase + o) n =
      ((coreOf (o / 0x200000)).elim .hole fun c =>
        if o % 0x200000 + n ≤ 0x180000 ∧ (s.unit (.core c)).st ≠ .off then .scratch c else .hole) := by
  have hbelow : ¬ scratchBase + o < tallyBase := by
    unfold scratchBase tallyBase
    omega
  unfold State.regionOf
  rw [if_neg hbelow, if_neg (Nat.not_lt.mpr (Nat.le_add_right ..)), Nat.add_sub_cancel_left]
  cases coreOf (o / 0x200000) <;> rfl

/-! ### Every byte of an access lies in the access's region -/

theorem State.regionOf_dramWindow_byte {a n i : Nat} (ha : a < tallyBase) (hi : i < n) (h : s.regionOf a n ≠ .hole) :
    s.regionOf (a + i) 1 = s.regionOf a n := by
  have hsize : (if s.dram.topHole then dramFolded else dramSize) ≤ tallyBase := by split <;> decide
  rw [State.regionOf_dramWindow ha] at h ⊢
  have hfit := of_not_not fun hn => h (if_neg hn)
  rw [State.regionOf_dramWindow (by omega), if_pos hfit, if_pos (by omega)]

theorem State.regionOf_tallyWindow_byte {o n i : Nat} (ho : tallyBase + o < scratchBase) (hi : i < n)
    (h : s.regionOf (tallyBase + o) n ≠ .hole) : s.regionOf (tallyBase + o + i) 1 = s.regionOf (tallyBase + o) n := by
  rw [State.regionOf_tallyWindow ho] at h ⊢
  cases hc : coreOf (o / 0x2000000) with
  | none =>
    rw [hc] at h
    exact absurd rfl h
  | some c =>
    rw [hc] at h
    obtain ⟨hfit, hup⟩ := of_not_not fun hn => h (if_neg hn)
    obtain ⟨hblock, hoff⟩ := div_mod_of_range_in_block (k := 0x2000000) (b := o) (by omega) hi
    have hin : tallyBase + (o + i) < scratchBase := by
      unfold tallyBase scratchBase at ho ⊢
      omega
    rw [Nat.add_assoc, State.regionOf_tallyWindow hin, hblock, hoff, hc]
    exact (if_pos ⟨by omega, hup⟩).trans (if_pos ⟨hfit, hup⟩).symm

theorem State.regionOf_scratchWindow_byte {o n i : Nat} (hi : i < n) (h : s.regionOf (scratchBase + o) n ≠ .hole) :
    s.regionOf (scratchBase + o + i) 1 = s.regionOf (scratchBase + o) n := by
  rw [State.regionOf_scratchWindow] at h ⊢
  cases hc : coreOf (o / 0x200000) with
  | none =>
    rw [hc] at h
    exact absurd rfl h
  | some c =>
    rw [hc] at h
    obtain ⟨hfit, hon⟩ := of_not_not fun hn => h (if_neg hn)
    obtain ⟨hblock, hoff⟩ := div_mod_of_range_in_block (k := 0x200000) (b := o) (by omega) hi
    rw [Nat.add_assoc, State.regionOf_scratchWindow, hblock, hoff, hc]
    exact (if_pos ⟨by omega, hon⟩).trans (if_pos ⟨hfit, hon⟩).symm

/-- An access that is not one to a hole lies in its region with every byte. -/
theorem State.regionOf_byte {a n i : Nat} (hi : i < n) (h : s.regionOf a n ≠ .hole) :
    s.regionOf (a + i) 1 = s.regionOf a n := by
  by_cases hdram : a < tallyBase
  · exact State.regionOf_dramWindow_byte hdram hi h
  by_cases htally : a < scratchBase
  · obtain ⟨o, rfl⟩ := Nat.exists_eq_add_of_le (Nat.not_lt.mp hdram)
    exact State.regionOf_tallyWindow_byte htally hi h
  · obtain ⟨o, rfl⟩ := Nat.exists_eq_add_of_le (Nat.not_lt.mp htally)
    exact State.regionOf_scratchWindow_byte hi h

/-- One byte in a hole makes the whole access one to a hole (R27). -/
theorem State.regionOf_eq_hole_of_byte {a n i : Nat} (hi : i < n) (h : s.regionOf (a + i) 1 = .hole) :
    s.regionOf a n = .hole :=
  of_not_not fun hn => hn ((State.regionOf_byte hi hn).symm.trans h)

/-! ### An access to a hole (R26) -/

theorem State.accessBar_hole {a n : Nat} {store : Bool} (h : s.regionOf a n = .hole) :
    s.accessBar w a n store = some (Flt.DRG_ADDR_UNMAPPED, false) := by
  unfold State.accessBar
  rw [h]

theorem State.load_hole {a n : Nat} (h : s.regionOf a n = .hole) :
    s.load w a n = (poisonBytes n, .poison, s.raiseTo Flt.DRG_ADDR_UNMAPPED w.block w.job (a % 2 ^ 32)) := by
  unfold State.load
  rw [State.accessBar_hole h]
  rfl

theorem State.store_hole {a : Nat} {bs : List Byte} (h : s.regionOf a bs.length = .hole) :
    s.store w a bs = (.failed, s.raiseTo Flt.DRG_ADDR_UNMAPPED w.block w.job (a % 2 ^ 32)) := by
  unfold State.store
  rw [State.accessBar_hole h]
  rfl

end Sys2Proof.Machine

namespace Sys2Proof

open Machine

/-- Settles O13: a byte in a hole makes the access's region a hole, where loads and stores end before memory is touched. -/
theorem accessPartlyInAHole : Obligations.AccessPartlyInAHole := by
  intro s w a i bs hi hbyte
  have hhole : s.regionOf a bs.length = .hole := State.regionOf_eq_hole_of_byte hi hbyte
  rw [State.load_hole hhole, State.store_hole hhole]
  exact ⟨rfl, rfl, State.raiseTo_mem, State.raiseTo_mem⟩

end Sys2Proof
end

section
/-! The cutoff of R37, 128 stride cycles before the end of a stride: the boundary at which a write of either side takes effect. -/

namespace Sys2Proof.Machine

variable {s : State}

theorem State.dueBoundary_before_cutoff (h : s.clk.cycle + 128 < s.clk.len) : s.dueBoundary = s.clk.bnd + 1 :=
  if_pos (Nat.lt_sub_of_add_lt h)

theorem State.dueBoundary_from_cutoff (h : s.clk.len ≤ s.clk.cycle + 128) : s.dueBoundary = s.clk.bnd + 2 :=
  if_neg (Nat.not_lt.mpr (Nat.sub_le_of_le_add h))

end Sys2Proof.Machine

namespace Sys2Proof

open Machine

/-- Settles O8: an effect is scheduled at its due boundary, behind those that wait, and stride cycle 896 is the cutoff of a stride of
1,024 (R37, R511). -/
theorem boundaryCutoff : Obligations.BoundaryCutoff := by
  intro s e _
  refine ⟨rfl, fun hlen => ⟨fun hbefore => ?_, fun hfrom => ?_⟩⟩
  · exact State.dueBoundary_before_cutoff (by omega)
  · exact State.dueBoundary_from_cutoff (by omega)

end Sys2Proof
end

section
/-! SIGNAL waits for its queue's earlier stores and atomics (R75): what the data mover may still hold when it goes out. -/

namespace Sys2Proof.Machine

variable {s : State} {q : QueueId} {e : Exec}

/-- A queue's stores are done once the data mover holds for it only completion records and loads whose data no store writes. -/
theorem State.earlierStoresDone_iff :
    s.earlierStoresDone q = true ↔
      ∀ t ∈ (s.core q.core).mover, t.q = q.q → t.kind = 0 ∨ t.kind = 1 ∧ t.ret = none := by
  simp [State.earlierStoresDone, or_assoc, imp_iff_not_or]

theorem execSignal_waits (hrun : s.running q opSignal = some e) (hopen : ¬ s.earlierStoresDone q = true) :
    execSignal q s = .next s := by
  simp [execSignal, hrun, hopen]

end Sys2Proof.Machine

namespace Sys2Proof

open Machine

/-- Settles O12: a store, an atomic or a load that a store follows keeps the queue's stores from being done, and SIGNAL waits. -/
theorem signalWaitsForStores : Obligations.SignalWaitsForStores := by
  intro q e t s hrun ht hq hkind
  have hopen : ¬ s.earlierStoresDone q = true := fun hdone => by
    obtain hrecord | ⟨hload, hret⟩ := State.earlierStoresDone_iff.mp hdone t ht hq
    · omega
    · simp [hload, hret] at hkind
  exact execSignal_waits hrun hopen

end Sys2Proof
end

section
/-! Where a pool page and its sketch lie (R188): the fields of a pool that place a page, read from the pool's registers, and the base
address that a pair of LO and HI registers gives. -/

namespace Sys2Proof.Machine

variable {s : State}

theorem State.baseOf_eq (lo hi mask : Nat) :
    s.baseOf lo hi mask = s.regF lo 31 mask * 2 ^ mask + s.regF hi 11 0 * 2 ^ 32 := rfl

@[simp] theorem State.pool_base (p : Nat) :
    (s.pool p).base = s.baseOf (Reg.STB_POOLp_LO + 0x20 * p) (Reg.STB_POOLp_HI + 0x20 * p) 14 := rfl

@[simp] theorem State.pool_log2 (p : Nat) : (s.pool p).log2 = s.regF (Reg.STB_POOLp_CFG + 0x20 * p) 4 0 := rfl

@[simp] theorem State.pool_first (p : Nat) : (s.pool p).first = s.regF (Reg.STB_POOLp_FIRST + 0x20 * p) 23 0 := rfl

theorem Pool.pageAddr_eq (a : Pool) (n : Nat) : a.pageAddr n = a.base + (n - a.first) * 2 ^ a.log2 := rfl

theorem State.sketchAddr_eq (n : Nat) :
    s.sketchAddr n = s.baseOf Reg.BLN_SKETCH_LO Reg.BLN_SKETCH_HI 12 + 128 * n := rfl

end Sys2Proof.Machine

namespace Sys2Proof

open Machine

/-- Settles O14: a page's address follows from the base, the first number and the page size in its pool's registers, its sketch's from
BLN_SKETCH (R188, R166). -/
theorem pageAndSketchAddress : Obligations.PageAndSketchAddress := by
  intro s p n
  constructor
  · rw [Pool.pageAddr_eq, State.pool_base, State.pool_first, State.pool_log2]
  · rw [State.sketchAddr_eq, State.baseOf_eq]

end Sys2Proof
end

section
/-! What every step keeps, put together from what every command keeps (Laws/KeepsDispatch). -/

namespace Sys2Proof.Machine

variable {s t : State}

/-- A step idles on an empty queue and otherwise runs the front command in the state whose queue is the rest. -/
theorem step_cases (h : step s = .next t) :
    s.pending = [] ∧ t = s ∨ ∃ c rest, s.pending = c :: rest ∧ exec c { s with pending := rest } = .next t := by
  unfold step at h
  cases hp : s.pending with
  | nil =>
    rw [hp] at h
    exact .inl ⟨rfl, (Host.Outcome.next.inj h).symm⟩
  | cons c rest =>
    rw [hp] at h
    exact .inr ⟨c, rest, rfl, h⟩

theorem step_cons {c : Instr} {rest : List Instr} (hp : s.pending = c :: rest) :
    step s = exec c { s with pending := rest } := by
  unfold step
  rw [hp]

/-- No command faults or is refused: each meaning is a next state, whatever its operands choose inside it. -/
theorem exec_answers (c : Instr) (s : State) : ∃ t, exec c s = .next t := by
  cases c <;> exact ⟨_, rfl⟩

theorem State.sound_of_passes (h : Passes s t) (hs : s.sound) : t.sound := by
  obtain ⟨hclk, hflt, hmem⟩ := hs
  exact ⟨h.clk hclk, h.flt hflt, h.mem hmem⟩

end Sys2Proof.Machine

namespace Sys2Proof

open Machine

/-- Settles O1: the front command alone decides what a step runs. -/
theorem stepTakesFrontCommand : Obligations.StepTakesFrontCommand :=
  fun _ _ _ => ⟨step_cons rfl, fun _ => step_cons rfl⟩

/-- Settles O2: an empty queue leaves nothing to run. -/
theorem emptyQueueIdles : Obligations.EmptyQueueIdles := by
  intro s hp
  unfold step
  rw [hp]

/-- Settles O3: the answer is there by the form of every meaning, its queue and messages by what every command passes on. -/
theorem everyCommandAnswers : Obligations.EveryCommandAnswers := by
  intro c s
  obtain ⟨t, ht⟩ := exec_answers c s
  have hpasses := exec_passes t ht
  exact ⟨t, ht, hpasses.pending, hpasses.out⟩

/-- Settles O4: sound clock, fault stores and memory are among what every command passes on. -/
theorem stepKeepsSoundness : Obligations.StepKeepsSoundness := by
  intro s t hs h
  obtain ⟨-, rfl⟩ | ⟨c, rest, -, hexec⟩ := step_cases h
  · exact hs
  · exact State.sound_of_passes (exec_passes t hexec) hs

/-- Settles O5: each bound holds of the numbers that reset writes. -/
theorem resetIsSound : Obligations.ResetIsSound := by
  have hclk : State.reset.clk.sound := ⟨by decide, by decide, by decide⟩
  have hflt : State.reset.flt.sound := ⟨Nat.zero_le _, Nat.zero_le _⟩
  exact ⟨⟨hclk, hflt, Mem.wf_nil⟩, rfl, rfl⟩

/-- Settles O6: every command but those two leads to a later moment of the same stride. -/
theorem onlyBoundariesMoveTheStride : Obligations.OnlyBoundariesMoveTheStride := by
  intro s t c rest hp hb hm hs h
  rw [step_cons hp] at h
  obtain ⟨hstride, hlen, hbnd, hbase, hcycle⟩ := (exec_keeps hb hm t h).clk
  obtain ⟨hlater, -, -, hinside⟩ := hcycle hs
  exact ⟨hstride, hlen, hbnd, hbase, hlater, hinside⟩

/-- Settles O7: the counter is among what every command passes on without lowering it. -/
theorem rollbackCounterNeverFalls : Obligations.RollbackCounterNeverFalls := by
  intro s t h
  obtain ⟨-, rfl⟩ | ⟨c, rest, -, hexec⟩ := step_cases h
  · exact le_refl _
  · exact (exec_passes t hexec).rollback

end Sys2Proof
end

section
/-! The vector unit on operands in a core's own scratch (R71, R94, R115): a descriptor whose ranges fit reads its sources there without
touching the state, so that the shared step of the unit stores the results of `f` and completes. -/

namespace Sys2Proof.Machine

variable {s : State} {q : QueueId} {e : Exec} {vop : Nat}

/-- The descriptor an operation finds running is of that operation. -/
theorem State.runningVop_vop (h : s.runningVop q vop = some e) : e.desc.vector.vop = vop := by
  unfold State.runningVop at h
  split at h
  next e' hfind =>
    split at h
    · exact absurd h nofun
    · obtain rfl := Option.some.inj h
      have := List.find?_some hfind
      simp only [Bool.and_eq_true, beq_iff_eq] at this
      exact this.1.2
  next => exact absurd h nofun

theorem State.accessor_core : (s.accessor q).core = some q.core := rfl

/-- A source of a vector operation as its operands name it: the immediate where src1 is one, else values in scratch. -/
def State.vectorOperand (s : State) (c : CoreId) (x : VectorArgs) (i : Nat) : List Num :=
  if i = 1 ∧ x.imm1 then List.replicate x.count (fpFP32.decode x.imm.toNat)
  else s.scratchValues c x.srcFmt x.count (if i = 0 then x.src0 else if i = 1 then x.src1 else x.src2)

@[simp] theorem State.vectorOperand_zero (c : CoreId) (x : VectorArgs) :
    s.vectorOperand c x 0 = s.scratchValues c x.srcFmt x.count x.src0 := rfl

theorem State.vectorOperands_eq (c : CoreId) (x : VectorArgs) (n : Nat) :
    s.vectorOperands c x n =
      [s.vectorOperand c x 0, if 2 ≤ n then s.vectorOperand c x 1 else [], if 3 ≤ n then s.vectorOperand c x 2 else []] := by
  simp [State.vectorOperands, State.vectorOperand]

/-- The spans a vector operation reads hold every source that it has. -/
theorem VectorArgs.source_fits {x : VectorArgs} (hfits : x.reads.all Span.fits = true) {i : Nat} (hi : i < vectorSources x.vop)
    (himm : ¬ (i = 1 ∧ x.imm1 = true)) :
    (if i = 0 then x.src0 else if i = 1 then x.src1 else x.src2) * 64 + contiguousBytes x.srcFmt x.count ≤ 0x180000 := by
  refine Span.fits_bytes (List.all_eq_true.mp hfits _ ?_)
  have hlt : i < 3 := lt_of_lt_of_le hi (by unfold vectorSources; split <;> [skip; split] <;> decide)
  unfold VectorArgs.reads
  interval_cases i
  · simp
  · have : 2 ≤ vectorSources x.vop := hi
    simp_all
  · have : 3 ≤ vectorSources x.vop := hi
    simp_all

/-- A source that fits is read as it lies, and reading it changes nothing. -/
theorem State.vectorSource_scratch {w : Accessor} {c : CoreId} {x : VectorArgs} {i : Nat} (hw : w.core = some c)
    (hon : (s.unit (.core c)).st ≠ .off) (hfits : x.reads.all Span.fits = true) (hi : i < vectorSources x.vop) :
    s.vectorSource w c x i = (s.vectorOperand c x i, .ok, s) := by
  unfold State.vectorSource State.vectorOperand
  by_cases himm : i = 1 ∧ x.imm1 = true
  · rw [if_pos himm, if_pos himm]
  · rw [if_neg himm, if_neg himm]
    exact State.loadValues_scratch hw hon (VectorArgs.source_fits hfits hi himm)

/-- The same of a source that the operation may not have. -/
theorem State.vectorSource_ite_scratch {w : Accessor} {c : CoreId} {x : VectorArgs} {i n : Nat} (hw : w.core = some c)
    (hon : (s.unit (.core c)).st ≠ .off) (hfits : x.reads.all Span.fits = true) (hn : n = vectorSources x.vop) :
    (if i + 1 ≤ n then s.vectorSource w c x i else ([], .ok, s)) =
      (if i + 1 ≤ n then s.vectorOperand c x i else [], .ok, s) := by
  split
  next h => exact State.vectorSource_scratch hw hon hfits (hn ▸ h)
  next => rfl

theorem vectorSources_pos (vop : Nat) : 0 < vectorSources vop := by
  unfold vectorSources
  split <;> [skip; split] <;> decide

/-- The shared step of the vector unit on a descriptor that may run. -/
theorem State.vectorStep_runs {f : VectorArgs → List (List Num) → List Result} (hrun : s.runningVop q vop = some e)
    (hfree : s.hazard q.core (e.desc.vector.reads ++ e.desc.vector.writes) = false) (hon : (s.unit (.core q.core)).st ≠ .off)
    (hfits : e.desc.vector.reads.all Span.fits = true)
    (hout : ∀ p ∈ resultPieces e.desc.vector.dstFmt e.desc.vector.sat (e.desc.vector.dst * 64)
      (f e.desc.vector (s.vectorOperands q.core e.desc.vector (vectorSources vop))), p.1 + p.2.length ≤ 0x180000) :
    s.vectorStep q vop f =
      (s.pokeAll (resultPieces e.desc.vector.dstFmt e.desc.vector.sat (scratchAddr q.core (e.desc.vector.dst * 64))
        (f e.desc.vector (s.vectorOperands q.core e.desc.vector (vectorSources vop))))).complete q e stOk
      ((resultCounts e.desc.vector.dstFmt e.desc.vector.sat
        (f e.desc.vector (s.vectorOperands q.core e.desc.vector (vectorSources vop)))).add
        ⟨0, e.desc.vector.zeroOverflows (s.scratchValues q.core e.desc.vector.srcFmt e.desc.vector.count e.desc.vector.src0), 0, 0⟩) := by
  have hw := State.accessor_core (s := s) (q := q)
  have hvop := State.runningVop_vop hrun
  have hn : vectorSources vop = vectorSources e.desc.vector.vop := congrArg _ hvop.symm
  rw [State.vectorOperands_eq] at hout ⊢
  unfold State.vectorStep
  rw [hrun]
  simp only [hfree, Bool.false_eq_true, if_false, State.vectorSource_scratch (i := 0) hw hon hfits (vectorSources_pos _),
    State.vectorSource_ite_scratch (i := 1) hw hon hfits hn, State.vectorSource_ite_scratch (i := 2) hw hon hfits hn,
    State.storeResults_scratch hw hon hout]
  rfl

/-- An operation whose meaning is the unit's shared step runs as the statement says. -/
theorem vectorRuns_of_step {cmd : QueueId → Instr} {vop : Nat} {f : VectorArgs → List (List Num) → List Result}
    (h : ∀ q s, exec (cmd q) s = .next (s.vectorStep q vop f)) : VectorRuns cmd vop f := by
  intro q e s x rs hrun hfree hon hfits hout
  rw [h, State.vectorStep_runs hrun hfree hon hfits hout]

end Sys2Proof.Machine

namespace Sys2Proof

open Machine

/-- Settles O16: every operation but TOPK_ROW is the unit's shared step; TOPK_ROW loads its one source and stores its rows itself. -/
theorem vectorCommands : Obligations.VectorCommands := by
  refine ⟨vectorRuns_of_step fun _ _ => rfl, vectorRuns_of_step fun _ _ => rfl, vectorRuns_of_step fun _ _ => rfl,
    vectorRuns_of_step fun _ _ => rfl, vectorRuns_of_step fun _ _ => rfl, vectorRuns_of_step fun _ _ => rfl,
    vectorRuns_of_step fun _ _ => rfl, vectorRuns_of_step fun _ _ => rfl, vectorRuns_of_step fun _ _ => rfl,
    vectorRuns_of_step fun _ _ => rfl, vectorRuns_of_step fun _ _ => rfl, vectorRuns_of_step fun _ _ => rfl, ?_⟩
  intro q e s
  dsimp only
  intro hrun hfree hon hfits hout
  have hw := State.accessor_core (s := s) (q := q)
  have hsrc := State.vectorSource_scratch (i := 0) hw hon hfits (vectorSources_pos _)
  have hstore := State.store_scratch (s := s) hw hon hout
  rw [exec_vectorTopkRow]
  unfold execVectorTopkRow
  rw [hrun]
  simp only [hfree, Bool.false_eq_true, if_false, hsrc, State.vectorOperand_zero, hstore]
  rfl

end Sys2Proof
end

section
/-! Alignment (R45 to R51): the clock that a boundary sets, and what a beacon may change. -/

namespace Sys2Proof.Machine

variable {s t u : State}

/-! ### The clock across a boundary (R33, R43, R50) -/

theorem State.noteRebase_sync : s.noteRebase.sync = s.sync := by
  unfold State.noteRebase
  split
  · rfl
  · exact State.logFault_sync

/-- What a boundary does before its clock ticks stays within the stride that ends. -/
theorem State.beforeTick_later : s.clk.Later s.landHitch.endDescriptors.syncBoundary.noteRebase.clk :=
  (State.noteRebase_keeps (State.syncBoundary_keeps (State.endDescriptors_keeps (State.landHitch_keeps (Keeps.refl s))))).clk

/-- What a boundary does after its clock has ticked stays within the stride that begins. -/
theorem State.afterTick_later : s.landHitch.endDescriptors.syncBoundary.noteRebase.tick.clk.Later s.boundary.clk := by
  refine (Keeps.clk ?_).trans State.boundary_keeps.clk
  exact State.thermalBoundary_keeps (State.applyCounters_keeps (State.applyOrphans_keeps (Keeps.refl _)))

theorem State.boundary_bnd : s.boundary.clk.bnd = s.clk.bnd + 1 := by
  obtain ⟨-, -, hbnd, -, -⟩ := State.beforeTick_later (s := s)
  obtain ⟨-, -, hbnd', -, -⟩ := State.afterTick_later (s := s)
  exact hbnd'.trans (congrArg (· + 1) hbnd)

theorem State.boundary_base : s.boundary.clk.base = s.clk.base + s.clk.len := by
  obtain ⟨-, hlen, -, hbase, -⟩ := State.beforeTick_later (s := s)
  obtain ⟨-, -, -, hbase', -⟩ := State.afterTick_later (s := s)
  exact hbase'.trans (congrArg₂ (· + ·) hbase hlen)

/-- The number of the stride that begins: the master's where a rebase is due, else the next. -/
theorem State.boundary_stride :
    s.boundary.clk.stride = s.landHitch.endDescriptors.syncBoundary.sync.rebase.getD (s.clk.stride + 1) := by
  obtain ⟨hstride, -, -, -, -⟩ := State.beforeTick_later (s := s)
  obtain ⟨hstride', -, -, -, -⟩ := State.afterTick_later (s := s)
  rw [hstride', ← State.noteRebase_sync, ← hstride]
  unfold State.tick
  dsimp only
  split <;> simp_all

/-- The length of the stride that begins. -/
theorem State.boundary_len : s.boundary.clk.len =
    if s.landHitch.endDescriptors.syncBoundary.sync.step then
      stepLength s.landHitch.endDescriptors.syncBoundary.sync.offset else 1024 := by
  obtain ⟨-, hlen', -, -, -⟩ := State.afterTick_later (s := s)
  rw [hlen', ← State.noteRebase_sync]
  rfl

/-! ### What a beacon changes (R46 to R50) -/

theorem FaultsOnly.trans (h : FaultsOnly s t) (k : FaultsOnly t u) : FaultsOnly s u := by
  unfold FaultsOnly at h k ⊢
  rw [k, h]

/-- Of two states the later differs in alignment and in what a fault record writes; the beacons heard are those of the earlier. -/
def AlignsOnly (s t : State) : Prop :=
  FaultsOnly { s with sync := t.sync } t ∧ t.sync.beacons = s.sync.beacons

theorem AlignsOnly.refl (s : State) : AlignsOnly s s := ⟨.refl s, rfl⟩

theorem AlignsOnly.trans (h : AlignsOnly s t) (k : AlignsOnly t u) : AlignsOnly s u := by
  obtain ⟨hst, hb⟩ := h
  obtain ⟨htu, hb'⟩ := k
  refine ⟨?_, hb'.trans hb⟩
  unfold FaultsOnly at hst htu ⊢
  rw [htu, hst]

theorem AlignsOnly.ite {c : Prop} [Decidable c] {a b : State} (ha : AlignsOnly s a) (hb : AlignsOnly s b) :
    AlignsOnly s (if c then a else b) := by
  split <;> assumption

theorem AlignsOnly.setSync (h : AlignsOnly s t) {v : Sync} (hv : v.beacons = t.sync.beacons) : AlignsOnly s (t.setSync v) :=
  h.trans ⟨.refl _, hv⟩

theorem AlignsOnly.logSync (h : AlignsOnly s t) {f : FaultCode} : AlignsOnly s (t.logSync f) :=
  h.trans ⟨by
    unfold State.logSync
    rw [State.logFault_sync]
    exact State.logFault_faults (.refl t), congrArg Sync.beacons State.logFault_sync⟩

theorem State.resync_aligns (h : AlignsOnly s t) {n : BitVec 48} : AlignsOnly s (t.resync n) := by
  unfold State.resync
  dsimp only
  refine .ite (.logSync (.setSync h ?_)) (.setSync h ?_) <;> rfl

theorem State.judgeOffset_aligns (h : AlignsOnly s t) {o : Int} {n : BitVec 48} : AlignsOnly s (t.judgeOffset o n) := by
  have hnoted := h.setSync (v := { t.sync with offset := o }) rfl
  unfold State.judgeOffset
  dsimp only
  refine .ite hnoted (.ite (State.resync_aligns hnoted)
    (.ite (.setSync hnoted ?_) (.ite (.logSync (.setSync hnoted ?_)) (.setSync hnoted ?_)))) <;> rfl

theorem State.newMaster_aligns (h : AlignsOnly s t) {m : Fin 32} : AlignsOnly s (t.newMaster m) := h.setSync rfl

theorem State.masterBeacon_aligns (h : AlignsOnly s t) {sender : Fin 32} {hops : Nat} {beat : Option (Int × BitVec 48)} :
    AlignsOnly s (t.masterBeacon sender hops beat) := by
  have hbeat : AlignsOnly s (if sender = t.sync.master ∨ hops ≤ 1 then t.setSync { t.sync with masterSilent := 0 } else t) :=
    .ite (h.setSync rfl) h
  unfold State.masterBeacon
  dsimp only
  cases beat with
  | none => exact hbeat
  | some beat => exact .ite (State.judgeOffset_aligns hbeat) hbeat

theorem State.resyncBlind_aligns (h : AlignsOnly s t) : AlignsOnly s t.resyncBlind := by
  unfold State.resyncBlind
  refine .ite (.logSync (.setSync h ?_)) h
  rfl

theorem State.beaconAlone_aligns (h : AlignsOnly s t) {sender master : Fin 32} {hops : Nat} {beat : Option (Int × BitVec 48)} :
    AlignsOnly s (t.beaconAlone sender master hops beat) := by
  unfold State.beaconAlone
  dsimp only
  refine .ite (.setSync (State.newMaster_aligns h) ?_)
    (State.resyncBlind_aligns (State.masterBeacon_aligns (State.newMaster_aligns h)))
  rfl

/-- In every state of synchronisation a beacon changes alignment and what a fault record writes, and no beacon heard. -/
theorem State.takeBeacon_aligns (h : AlignsOnly s t) {sender master : Fin 32} {hops : Nat} {eligible : Bool}
    {beat : Option (Int × BitVec 48)} : AlignsOnly s (t.takeBeacon sender master hops eligible beat) := by
  have hlower : AlignsOnly s (if hops ≤ 1 ∧ master < t.sync.master then t.newMaster master else t) :=
    .ite (State.newMaster_aligns h) h
  unfold State.takeBeacon
  dsimp only
  split
  · exact State.beaconAlone_aligns h
  · refine .ite (State.masterBeacon_aligns (.setSync (State.newMaster_aligns h) ?_)) h
    rfl
  · exact .ite (State.masterBeacon_aligns (State.newMaster_aligns h)) h
  · exact .ite (State.masterBeacon_aligns hlower) hlower

/-- Hearing a lane's beacon changes its strand alone. -/
theorem State.heardOn_eq (b : Fin 4) (l : Fin 32) : s.heardOn b l = { s with brd := (s.heardOn b l).brd } := by
  unfold State.heardOn
  split <;> rfl

end Sys2Proof.Machine

namespace Sys2Proof

open Machine

/-- Settles O9: the clock of the next stride is the one the tick sets, and a beacon is taken by alignment alone. -/
theorem strideAndAlignmentCommands : Obligations.StrideAndAlignmentCommands := by
  refine ⟨fun s => ⟨rfl, State.boundary_bnd, State.boundary_base, ?_, ?_, ?_, ?_⟩, ?_, ?_⟩
  · intro h
    rw [State.boundary_stride, h]
    rfl
  · intro n h
    rw [State.boundary_stride, h]
    rfl
  · intro h
    rw [State.boundary_len, h]
    rfl
  · intro h
    rw [State.boundary_len, h]
    rfl
  · intro b l sender master hops eligible stride arrival s hlane
    dsimp only
    have hsync : (s.heardOn b l).sync = s.sync := (congrArg State.sync (State.heardOn_eq b l)).trans rfl
    have halign := State.takeBeacon_aligns (.refl ((s.heardOn b l).setSync
      { s.sync with beacons := s.sync.beacons.put sender.val ⟨master, hops, eligible, stride, 0⟩ })) (sender := sender)
      (master := master) (hops := hops.val) (eligible := eligible) (beat := arrival.map ((s.heardOn b l).measure b l stride))
    refine ⟨?_, halign.2, ?_⟩
    · simp only [exec_beaconReceived, execBeaconReceived, hlane, if_true, State.hearBeacon, hsync]
      rfl
    · obtain ⟨hfaults, -⟩ := halign
      rw [State.heardOn_eq b l] at hfaults ⊢
      exact hfaults
  · intro s hfollows hsilent
    simp only [exec_masterLostTimeout, execMasterLostTimeout, hfollows, hsilent, and_self, if_true]
    rfl

end Sys2Proof
end

section
/-! The register window (R9, R511, R514, R515): where an access of a source that may make it goes, and what a plain write changes. -/

namespace Sys2Proof.Machine

variable {s : State} {src : Source} {off t i slot o : Nat} {v m : Word} {d : RegDef}

/-! ### Reads -/

/-- A read that the source may make, of a page that answers, gives the word read there. -/
theorem State.readFor_page (hplace : regPlace off = .page t i slot o) (hmay : s.mayRead src off = true) (hanswers : s.pageAnswers t = true) :
    s.readFor src off = (s.readAt src t i slot o).2.emit (.regData src off (s.readAt src t i slot o).1) := by
  simp [State.readFor, State.readReg, hplace, hmay, hanswers]

theorem State.readAt_lo (hport : ¬ (t = 5 ∧ o = 0x108)) (hlo : isLo t o = true) :
    s.readAt src t i slot o = (s.peek t i slot o, s.setShadow src (slot * 4096 + o + 4) (s.peek t i slot (o + 4))) := by
  simp only [State.readAt, hport, if_false, hlo, if_true]

theorem State.readAt_hi_kept (hport : ¬ (t = 5 ∧ o = 0x108)) (hlo : isLo t o = false) (hstride : ¬ (t = 0xB ∧ o = 0x104))
    (hhi : isHi t o = true) (hkept : s.shadowOf src (slot * 4096 + o) = some v) :
    s.readAt src t i slot o = (v, s.dropShadow src (slot * 4096 + o)) := by
  simp only [State.readAt, hport, if_false, hlo, Bool.false_eq_true, hstride, hhi, if_true, hkept]

theorem State.readAt_strideHi : s.readAt src 0xB i slot 0x104 = ((s.shadowOf src (slot * 4096 + 0x104)).getD 0, s) := rfl

theorem State.readAt_rc (hport : ¬ (t = 5 ∧ o = 0x108)) (hlo : isLo t o = false) (hhi : isHi t o = false) (hreg : findReg t o = some d)
    (hrc : d.mask (· == .rc) ≠ 0) :
    s.readAt src t i slot o = (s.peek t i slot o, s.setReg (slot * 4096 + o) (s.reg (slot * 4096 + o) &&& ~~~(d.mask (· == .rc)))) := by
  have hstride : ¬ (t = 0xB ∧ o = 0x104) := by
    rintro ⟨rfl, rfl⟩
    exact absurd hhi (by decide)
  simp only [State.readAt, hport, if_false, hlo, Bool.false_eq_true, hstride, hhi, hreg, hrc]

/-! ### Writes -/

/-- A write that the source may make, to a page that answers, is one to the page. -/
theorem State.writeReg_page (hplace : regPlace off = .page t i slot o) (hmay : s.mayWrite src off = true) (hanswers : s.pageAnswers t = true) :
    s.writeReg src off v = (true, s.writePage src t i slot o v) := by
  simp [State.writeReg, hplace, hmay, hanswers]

/-- On a page whose writes have no further effect a write is one of the register's bits. -/
theorem State.writePage_plain (ht : t ∈ [4, 8, 0x10, 0x15, 0x19]) (ho : 0x100 ≤ o) (hlo : isLo t o = false) (hhi : isHi t o = false)
    (hreg : findReg t o = some d) : s.writePage src t i slot o v = s.writeBits d t slot o v (BitVec.allOnes 32) := by
  have hcore : t ≠ 0x16 := by
    rintro rfl
    exact absurd ht (by decide)
  simp only [State.writePage, hreg, Nat.not_lt.mpr ho, if_false, hcore, hlo, hhi, Bool.false_eq_true]
  fin_cases ht <;> rfl

/-- Nothing closes a register of those pages. -/
theorem State.openBits_plain (ht : t ∈ [4, 8, 0x10, 0x15, 0x19]) {key : Nat} : s.openBits t slot o key = BitVec.allOnes 32 := by
  fin_cases ht <;> exact ite_self _

/-- The word that a write leaves in a register: `m` are the bits of RW fields it may change, and each RW1C bit written 1 is cleared. -/
def RegDef.written (d : RegDef) (old v m : Word) : Word := blend old v m &&& ~~~(d.mask (· == .rw1c) &&& v)

theorem RegDef.written_bit {old : Word} {n : Nat} (hn : n < 32) :
    (d.written old v m).getLsbD n =
      if m.getLsbD n then v.getLsbD n && !((d.mask (· == .rw1c)).getLsbD n && v.getLsbD n)
      else old.getLsbD n && !((d.mask (· == .rw1c)).getLsbD n && v.getLsbD n) := by
  simp only [RegDef.written, blend, BitVec.getLsbD_or, BitVec.getLsbD_and, BitVec.getLsbD_not, hn, decide_true, Bool.true_and]
  cases m.getLsbD n <;> simp

/-- A write that changes no bit leaves the word. -/
theorem RegDef.written_none {old : Word} (hrw1c : d.mask (· == .rw1c) &&& v = 0) : d.written old v 0 = old := by
  have hones : ~~~(0 : Word) = BitVec.allOnes 32 := rfl
  unfold RegDef.written blend
  rw [hrw1c, hones, BitVec.and_allOnes, BitVec.and_allOnes]
  simp

/-- A write of a register's bits where all are open: the word is the one written, the timed bits are left for their boundary, and no
other register and nothing else of the state changes. -/
theorem State.writeBits_open (hopen : s.openBits t slot o (s.regKey d slot o) = BitVec.allOnes 32) :
    ∃ u, s.writeBits d t slot o v (BitVec.allOnes 32) = u ∧ u = { s with regs := u.regs, due := u.due } ∧
      u.due = s.due ++ (if word d.timed &&& d.rw = 0 then []
        else [(s.dueBoundary, .live (s.regKey d slot o) (word d.timed &&& d.rw) v)]) ∧
      (∀ k, k ≠ s.regKey d slot o → u.regs.find? k = s.regs.find? k) ∧
      u.reg (s.regKey d slot o) = d.written (s.reg (s.regKey d slot o)) v d.rw := by
  refine ⟨_, rfl, ?_⟩
  simp only [State.writeBits, hopen, BitVec.and_allOnes]
  generalize s.regKey d slot o = key
  by_cases hnone : d.rw = 0 ∧ d.mask (· == .rw1c) &&& v = 0
  · obtain ⟨hrw, hrw1c⟩ := hnone
    have htimed : word d.timed &&& (0 : Word) = 0 := BitVec.and_zero
    simp only [hrw, hrw1c, and_self, if_true, State.timedWrite, htimed, RegDef.written_none hrw1c]
    exact ⟨trivial, (List.append_nil _).symm, fun _ _ => trivial, trivial⟩
  · have hregs : ∀ (u : State), u.regs = (s.setReg key (d.written (s.reg key) v d.rw)).regs →
        (∀ k, k ≠ key → u.regs.find? k = s.regs.find? k) ∧ u.reg key = d.written (s.reg key) v d.rw := by
      intro u hu
      unfold State.reg
      rw [hu]
      exact ⟨fun k hk => by simp [State.setReg, Table.find?_put, hk], Table.getD_put_same ..⟩
    rw [if_neg hnone]
    unfold State.timedWrite
    split
    · exact ⟨rfl, (List.append_nil _).symm, hregs _ rfl⟩
    · exact ⟨rfl, rfl, hregs _ rfl⟩

/-- A write of the high half of a pair with its low half staged applies both and uses the staged half up. -/
theorem State.writePage_pair {l : RegDef} {lo : Word} (ho : 0x100 ≤ o) (hcore : t ≠ 0x16) (hedu : t ≠ 0xC) (hlo : isLo t o = false)
    (hhi : isHi t o = true) (hreg : findReg t o = some d) (hlow : findReg t (o - 4) = some l) (hrw : d.rw ≠ 0)
    (hopen : s.openBits t slot o (s.regKey d slot o) &&& d.rw ≠ 0) (hstaged : s.stagedLo src (slot * 4096 + o - 4) = some lo) :
    s.writePage src t i slot o v =
      (((s.writeBits l t slot (o - 4) lo (lowBits t (o - 4))).writeBits d t slot o v (BitVec.allOnes 32)).dropStaged src
        (slot * 4096 + o - 4)) := by
  simp only [State.writePage, hreg, Nat.not_lt.mpr ho, if_false, hcore, hlo, Bool.false_eq_true, hhi, if_true, hlow, hrw, State.writeHi,
    hedu, false_and, State.writePair, hopen, hstaged]

end Sys2Proof.Machine

namespace Sys2Proof

open Machine

/-- Settles O10: each access is followed to its page, and there to the case of its register. -/
theorem registerCommands : Obligations.RegisterCommands := by
  refine ⟨?_, ?_, ?_, ?_, ?_, ?_, ?_⟩
  · intro src off t i slot o s hplace hmay hanswers hlo hport
    rw [exec_loReadShadow, execLoReadShadow, State.readFor_page hplace hmay hanswers, State.readAt_lo hport hlo]
  · intro src off t i slot o w s hplace hmay hanswers hlo hhi hport hstride hkept
    rw [exec_loReadShadow, execLoReadShadow, State.readFor_page hplace hmay hanswers, State.readAt_hi_kept hport hlo hstride hhi hkept]
  · rintro src off t i slot o s hplace hmay hanswers rfl rfl
    rw [exec_loReadShadow, execLoReadShadow, State.readFor_page hplace hmay hanswers, State.readAt_strideHi]
  · intro src off t i slot o d s hplace hmay hanswers hlo hhi hport hreg hrc
    rw [exec_rcCounterRead, execRcCounterRead, State.readFor_page hplace hmay hanswers, State.readAt_rc hport hlo hhi hreg hrc]
  · intro src off val cyc t i slot o d s hplace hanswers hmay ho ht hlo hhi hreg
    obtain ⟨u, hwrite, hframe, hdue, hothers, hword⟩ := State.writeBits_open (s := s.advance cyc) (d := d) (slot := slot) (o := o)
      (v := val) (State.openBits_plain ht)
    refine ⟨u, ?_, hframe, hdue, hothers, fun n hn => ?_⟩
    · rw [exec_registerWrite, execRegisterWrite, State.writeReg_page hplace hmay hanswers, State.writePage_plain ht ho hlo hhi hreg, hwrite]
    · exact (congrArg (BitVec.getLsbD · n) hword).trans (RegDef.written_bit hn)
  · intro src off val lo cyc t i slot o l d s hplace hanswers hmay ho hcore hedu hlo hhi hreg hlow hrw hopen hstaged
    rw [exec_hiWriteApply, execHiWriteApply, State.writeReg_page hplace hmay hanswers,
      State.writePage_pair ho hcore hedu hlo hhi hreg hlow hrw hopen hstaged]
  · intro src slot mask t i d s hplace hanswers hmay hreg
    rw [exec_blkIrqForce, execBlkIrqForce, State.writeReg_page hplace hmay hanswers]
    simp only [State.writePage, hreg]
    rfl

end Sys2Proof
end

section
/-! The state machine that units share (R452 to R455): a write or a completion changes the unit's record alone, since none of them
changes the state that the record shows. -/

namespace Sys2Proof.Machine

variable {s : State} {u : UnitId} {r : UnitRec}

/-- A record that shows the same state of the unit raises no interrupt. -/
theorem State.setUnit_sameState (h : (s.unit u).st = r.st) : s.setUnit u r = { s with units := s.units.put u.code (u, r) } := by
  unfold State.setUnit
  split
  · exact if_pos h
  · rfl

theorem State.setUnit_enable (b : Bool) :
    s.setUnit u { s.unit u with enable := b } = { s with units := s.units.put u.code (u, { s.unit u with enable := b }) } :=
  State.setUnit_sameState rfl

theorem State.setUnit_failed :
    s.setUnit u { s.unit u with failed := true } = { s with units := s.units.put u.code (u, { s.unit u with failed := true }) } :=
  State.setUnit_sameState rfl

/-- The completion of a start or a stop is only noted. -/
theorem State.setUnit_done :
    s.setUnit u { s.unit u with done := true } = { s with units := s.units.put u.code (u, { s.unit u with done := true }) } :=
  State.setUnit_sameState rfl

theorem State.requestEnable_eq :
    s.requestEnable u = { s with units := s.units.put u.code (u, { s.unit u with enable := true }),
                                 due := s.due ++ [(s.dueBoundary, .unitEnable u)] } := by
  unfold State.requestEnable
  rw [State.setUnit_enable]
  rfl

theorem State.requestDisable_eq :
    s.requestDisable u = { s with units := s.units.put u.code (u, { s.unit u with enable := false }),
                                  due := s.due ++ [(s.dueBoundary, .unitDisable u)] } := by
  unfold State.requestDisable
  rw [State.setUnit_enable]
  rfl

theorem State.failUnit_eq (atOnce : Bool) :
    s.failUnit u atOnce = { s with units := s.units.put u.code (u, { s.unit u with failed := true }),
                                   due := s.due ++ [(s.clk.bnd + 1, .unitFail u atOnce)] } := by
  unfold State.failUnit
  rw [State.setUnit_failed]
  rfl

/-! ### Disable and reset -/

theorem State.writeDisable_granted (hstop : s.refusesStop u = false) (hcart : ∀ k, u ≠ .cartridge k) :
    s.writeDisable u = s.requestDisable u := by
  unfold State.writeDisable
  split
  · rw [hstop]
    rfl
  · exact absurd rfl (hcart _)
  · rfl

theorem State.writeReset_granted (hstop : s.refusesStop u = false) :
    s.writeReset u = { s with units := s.units.put u.code (u, { s.unit u with enable := true }),
                              due := s.due ++ [(s.dueBoundary, .unitReset u)] } := by
  unfold State.writeReset
  rw [hstop, State.setUnit_enable]
  rfl

/-- A stack that is ON refuses to stop while none may be retired. -/
theorem State.refusesStop_stack {k : Fin 24} (hon : s.isOn (.stack k) = true) (hretire : s.mayRetire = false) :
    s.refusesStop (.stack k) = true := by
  unfold State.refusesStop
  simp [hon, hretire]

theorem State.writeDisable_refused {k : Fin 24} (h : s.refusesStop (.stack k) = true) :
    s.writeDisable (.stack k) = s.setStack k { s.stack k with refused := true } := if_pos h

theorem State.writeReset_refused {k : Fin 24} (h : s.refusesStop (.stack k) = true) :
    s.writeReset (.stack k) = s.setStack k { s.stack k with refused := true } := if_pos h

theorem State.refusesStop_advance {c : Nat} : (s.advance c).refusesStop u = s.refusesStop u := by
  cases u <;> rfl

/-- Only a Reckoner's start tests lanes and slices. -/
theorem State.dieTested_other {lanes : List (Fin 6 × Fin 1664 × Fin 68)} {halves : List (Fin 256 × Bool)} (h : ∀ d, u ≠ .reckoner d) :
    s.dieTested u lanes halves = s := by
  cases u with
  | reckoner d => exact absurd rfl (h d)
  | _ => rfl

/-! ### Failures -/

/-- The units that a failure stops by the common rule of R455: those without an outcome of their own. -/
def State.failsPlainly (s : State) (u : UnitId) : Prop :=
  (∃ p, u = .plane p) ∨ (∃ p, u = .port p) ∨ (∃ b l, u = .lane b l) ∨ (∃ e, u = .engine e) ∨ (∃ x, u = .slot x) ∨ u = .allocator ∨
    (∃ c, u = .core c ∧ (s.unit u).st ≠ .starting) ∨ (∃ b, u = .bridle b ∧ b ≠ 0)

theorem State.failByCommand_plain {atOnce : Bool} (hgood : (s.unit u).failed = false) (h : s.failsPlainly u) :
    s.failByCommand u atOnce = s.failUnit u atOnce := by
  unfold State.failByCommand
  rw [hgood]
  obtain ⟨p, rfl⟩ | ⟨p, rfl⟩ | ⟨b, l, rfl⟩ | ⟨e, rfl⟩ | ⟨x, rfl⟩ | rfl | ⟨c, rfl, hstarted⟩ | ⟨b, rfl, hb⟩ := h
  · rfl
  · rfl
  · rfl
  · rfl
  · rfl
  · rfl
  · exact if_pos hstarted
  · exact if_neg hb

end Sys2Proof.Machine

namespace Sys2Proof

open Machine

/-- Settles O11: a granted write is left for its boundary, a refused one marks its stack, and a completion or failure is noted. -/
theorem unitCommands : Obligations.UnitCommands := by
  refine ⟨?_, ?_, ?_, ?_, ?_, ?_, ?_⟩
  · intro u cyc s
    rw [exec_unitEnable, execUnitEnable, State.requestEnable_eq]
    rfl
  · intro u cyc s hstop hcart
    rw [exec_unitDisable, execUnitDisable, State.writeDisable_granted (State.refusesStop_advance.trans hstop) hcart,
      State.requestDisable_eq]
    rfl
  · intro k cyc s hon hretire
    have hrefused : (s.advance cyc).refusesStop (.stack k) = true := State.refusesStop_stack hon hretire
    rw [exec_unitDisable, exec_unitReset, execUnitDisable, execUnitReset, State.writeDisable_refused hrefused,
      State.writeReset_refused hrefused]
    exact ⟨rfl, rfl⟩
  · intro u cyc s hstop
    rw [exec_unitReset, execUnitReset, State.writeReset_granted (State.refusesStop_advance.trans hstop)]
    rfl
  · intro u lanes halves s hwait hst
    refine ⟨?_, fun hother => ?_⟩
    · simp only [exec_unitStartComplete, execUnitStartComplete, hwait, Bool.false_eq_true, if_false, hst, if_true]
    · rw [State.dieTested_other hother, State.setUnit_done]
  · intro u s hst
    rw [exec_unitStopComplete, execUnitStopComplete, if_pos hst, State.setUnit_done]
  · intro u atOnce s hgood hplain
    rw [exec_unitFail, execUnitFail, State.failByCommand_plain hgood hplain, State.failUnit_eq]

end Sys2Proof
end

section
/-! The Rein sequencer (R57 to R65): what each command does to a queue once its tests have passed. -/

namespace Sys2Proof.Machine

variable {s : State} {q : QueueId} {d : Fetched} {e : Exec} {i : BitVec 16}

/-! ### Fetch (R59) -/

/-- A queue in service may fetch: its core is live, nothing is fetched or started, and the descriptor at its index is present. -/
structure State.MayFetch (s : State) (q : QueueId) : Prop where
  live : s.coreLive q.core = true
  on : (s.queue q).on = true
  running : (s.queue q).st ≠ .halted
  empty : (s.queue q).fetched = none
  idle : (s.queue q).wait = none
  present : (s.queue q).present (s.queue q).pc = true
  free : (s.queue q).exec = []

/-- The descriptor at the fetch index as its loops patch it (R78). -/
def State.nextFetched (s : State) (q : QueueId) : Fetched :=
  ⟨patchWords (s.queue q).pc (wordsOf (s.mem.bytes (scratchAddr q.core ((s.queue q).slotOffset (s.queue q).pc)) 64)) (s.queue q).loops,
    (s.queue q).pc, (s.queue q).slotOffset (s.queue q).pc, (s.queue q).loops⟩

theorem State.fetch_accepts (h : s.MayFetch q) (hcheck : (s.nextFetched q).check (s.queue q).ringSize = none) :
    s.fetch q = s.setQueue q { s.queue q with fetched := some (s.nextFetched q) } := by
  obtain ⟨hlive, hon, hrun, hempty, hidle, hpresent, hfree⟩ := h
  unfold State.nextFetched at hcheck
  simp [State.fetch, hlive, hon, hrun, hempty, hidle, hpresent, hfree, hcheck, State.nextFetched]

theorem State.fetch_rejects {f : FaultCode} (h : s.MayFetch q) (hcheck : (s.nextFetched q).check (s.queue q).ringSize = some f)
    (hentry : (s.queue q).cplFull = false) : s.fetch q = s.rejectDesc q (s.nextFetched q) f := by
  obtain ⟨hlive, hon, hrun, hempty, hidle, hpresent, hfree⟩ := h
  unfold State.nextFetched at hcheck
  simp [State.fetch, hlive, hon, hrun, hempty, hidle, hpresent, hfree, hcheck, hentry, State.nextFetched]

/-! ### Start (R39, R40, R60) -/

/-- A fetched descriptor that may start goes as far as R39 and R40 let it. -/
theorem State.start_eq {cyc : Nat} (hfetched : ((s.advance cyc).queue q).fetched = some d) (hready : (s.advance cyc).readyDesc q d = true)
    (hentry : ((s.advance cyc).queue q).cplFull = false) (hfirst : (s.advance cyc).yields q d = false) :
    s.start q cyc = (s.advance cyc).letStart q d fun s => s.enter q d false := by
  simp [State.start, hfetched, hready, hentry, hfirst]

theorem State.letStart_fits {go : State → State} (h : s.admission q.core d.bound s.clk.cycle = .fits) : s.letStart q d go = go s := by
  unfold State.letStart
  rw [h]

theorem State.letStart_held {go : State → State} (h : s.admission q.core d.bound s.clk.cycle = .held) :
    s.letStart q d go = s.setQueue q { s.queue q with st := .boundaryHold } := by
  unfold State.letStart
  rw [h]

/-! ### Overrun and retirement (R41, R61) -/

/-- Stopping a descriptor's transactions leaves every queue of the core. -/
theorem Core.stopTxns_queue (k : Core) (p r : Fin 4) : (k.stopTxns p i).queue r = k.queue r := by
  match r with
  | 0 | 1 | 2 | 3 => rfl

/-- The state with the transactions and page requests of a descriptor withdrawn. -/
def State.withdrawn (s : State) (q : QueueId) (i : BitVec 16) : State :=
  (s.setCore q.core ((s.core q.core).stopTxns q.q i)).dropRequests q i

theorem State.dropRequests_stopTxns :
    (s.setCore q.core ((s.core q.core).stopTxns q.q i)).dropRequests q i = s.withdrawn q i := rfl

theorem State.withdrawn_queue : (s.withdrawn q i).queue q = s.queue q := by
  have hcore : (s.withdrawn q i).core q.core = (s.core q.core).stopTxns q.q i := Table.getD_put_same ..
  unfold State.queue
  rw [hcore, Core.stopTxns_queue]

/-- A started descriptor that no WAIT of its queue keeps ends OVERRUN. -/
theorem State.overrun_eq (hfound : (s.queue q).exec.find? (fun e => e.desc.index == i) = some e) (hwait : (s.queue q).wait = none) :
    s.overrun q i =
      ((((s.withdrawn q i).setQueue q (((s.withdrawn q i).queue q).dropExec i)).raiseTo Flt.RKN_DESC_OVERRUN (coreBlock q.core q.q.val)
        (s.queue q).job e.desc.offset).finish q e.desc stOverrun e.exc) := by
  have hkept : (((s.withdrawn q i).queue q).dropExec i).wait = none := by rw [State.withdrawn_queue]; exact hwait
  have hjob : (((s.withdrawn q i).setQueue q (((s.withdrawn q i).queue q).dropExec i)).queue q).job = (s.queue q).job := by
    rw [State.queue_setQueue_same, State.withdrawn_queue]
    rfl
  unfold State.overrun
  rw [← hjob]
  simp only [hfound, State.dropRequests_stopTxns, hkept]
  rfl

/-- A descriptor whose operations are complete and acknowledged retires, or, done only after its bound, is stopped. -/
theorem State.retire_eq (hfound : (s.queue q).exec.find? (fun e => e.desc.index == i) = some e) (hcomplete : e.complete = true)
    (hacked : (s.core q.core).pendingOf q.q i = []) (hlanded : s.frameInFlight q i = false) :
    s.retire q i = if s.inBound q.core e then (s.setQueue q ((s.queue q).dropExec i)).finish q e.desc e.status e.exc
      else s.overrun q i := by
  unfold State.queue at hfound ⊢
  simp only [State.retire, hfound, hcomplete, hacked, hlanded]
  cases s.inBound q.core e <;> rfl

end Sys2Proof.Machine

namespace Sys2Proof

open Machine

/-- Settles O15: each command passes its tests as the statement grants them and does the one thing that is left. -/
theorem sequencerCommands : Obligations.SequencerCommands := by
  refine ⟨?_, ?_, ?_, ?_, ?_, ?_, ?_, ?_, ?_, ?_, ?_⟩
  · rintro q d s hlive hon hrun hempty hidle hpresent hfree rfl hcheck
    rw [exec_descriptorFetch, execDescriptorFetch, State.fetch_accepts ⟨hlive, hon, hrun, hempty, hidle, hpresent, hfree⟩ hcheck]
    rfl
  · rintro q d f s hlive hon hrun hempty hidle hpresent hfree rfl hcheck hentry
    rw [exec_descriptorFetch, execDescriptorFetch, State.fetch_rejects ⟨hlive, hon, hrun, hempty, hidle, hpresent, hfree⟩ hcheck hentry]
    rfl
  · intro q cyc d s hfetched hready hentry hfirst hfits
    rw [exec_descriptorStart, execDescriptorStart, State.start_eq hfetched hready hentry hfirst, State.letStart_fits hfits]
  · intro q cyc d s hfetched hready hentry hfirst hheld
    rw [exec_descriptorStart, execDescriptorStart, State.start_eq hfetched hready hentry hfirst, State.letStart_held hheld]
  · rintro q i cyc e _ s rfl hfound hwait hover
    refine ⟨(s.advance cyc).withdrawn q i, ?_, rfl⟩
    simp only [exec_descriptorOverrun, execDescriptorOverrun, hover, if_true, State.overrun_eq hfound hwait]
  · intro q i e s hfound hcomplete hacked hlanded hbound
    rw [exec_descriptorRetire, execDescriptorRetire, State.retire_eq hfound hcomplete hacked hlanded, if_pos hbound]
  · intro q i e s hfound hcomplete hacked hlanded hlate
    rw [exec_descriptorRetire, execDescriptorRetire, State.retire_eq hfound hcomplete hacked hlanded, if_neg (by simp [hlate])]
  · intro src q tail s hmay hring
    rw [exec_queueTailWrite, execQueueTailWrite, if_pos hmay]
    exact congrArg _ (if_neg (Nat.not_lt.mpr hring))
  · intro src q tail s hmay hring
    rw [exec_queueTailWrite, execQueueTailWrite, if_pos hmay]
    exact congrArg _ (if_pos hring)
  · intro src q cyc s hmay hhalted
    simp only [exec_queueResumeRetry, execQueueResumeRetry, hmay, if_true]
    exact congrArg _ (if_pos hhalted)
  · intro src q cyc s hmay hhalted
    simp only [exec_queueResumeSkip, execQueueResumeSkip, hmay, if_true]
    exact congrArg _ (if_pos hhalted)

end Sys2Proof
end

section
/-! MATMUL, MOVE and GATHER of the oldest started descriptor, and the issue of a core's transactions (R55, R79, R85, R101, R547). -/

namespace Sys2Proof.Machine

variable {s : State} {q : QueueId} {e : Exec} {c : CoreId} {t : Txn} {p : Fin 64}

/-! ### Operations that an earlier one holds back (R55) -/

theorem execMatmul_waits (hrun : s.running q opMatmul = some e)
    (hhazard : s.hazard q.core (e.desc.matmul.reads ++ e.desc.matmul.writes) = true) : execMatmul q s = .next s := by
  unfold execMatmul
  rw [hrun]
  exact congrArg _ (if_pos hhazard)

theorem execMove_waits (hrun : s.running q opMove = some e) (hhazard : s.hazard q.core (s.moveSpans q.core e.desc.move) = true) :
    execMove q s = .next s := by
  unfold execMove
  rw [hrun]
  exact congrArg _ (if_pos hhazard)

theorem execGather_waits (hrun : s.running q opGather = some e)
    (hhazard : s.hazard q.core (e.desc.gather.reads ++ e.desc.gather.writes) = true) : execGather q s = .next s := by
  unfold execGather
  rw [hrun]
  exact congrArg _ (if_pos hhazard)

/-! ### The data mover (R79, R82, R85, R343) -/

/-- Only an address of this module is reached without Draught. -/
theorem State.placeOf_away {a n : Nat} (h : s.isHome a = false) (l : Nat) : s.placeOf c a n ≠ .here l := by
  unfold State.placeOf
  simp [h]

/-- The transaction a core issues next, unless it is a flagged store of its own, goes to its port once nothing holds it. -/
theorem execDataMoverIssue_eq {cyc : Nat} (hnext : ((s.advance cyc).refillFor c).nextTxn c = some t)
    (hsent : t.kind ≠ 3 ∨ ((s.advance cyc).refillFor c).isHome t.addr = false)
    (hport : ((s.advance cyc).refillFor c).txnPort c t = some p) :
    execDataMoverIssue c cyc s = .next (if ((s.advance cyc).refillFor c).txnHeld c t then (s.advance cyc).refillFor c
      else ((s.advance cyc).refillFor c).issueTxn c t p) := by
  unfold execDataMoverIssue
  dsimp only
  rw [hnext]
  dsimp only
  split
  next a hhere hkind =>
    obtain hother | haway := hsent
    · exact absurd hkind hother
    · exact absurd hhere (State.placeOf_away haway a)
  next => rw [hport]

end Sys2Proof.Machine

namespace Sys2Proof

open Machine

/-- Settles O17: an operation that nothing holds back is carried out as its meaning says, and one held back waits. -/
theorem tensorAndDataMoverCommands : Obligations.TensorAndDataMoverCommands := by
  refine ⟨?_, ?_, ?_, ?_, ?_, ?_⟩
  · intro q e s hrun hfree
    rw [exec_matmul]
    unfold execMatmul
    rw [hrun]
    refine congrArg Host.Outcome.next ?_
    exact if_neg (by simp [hfree])
  · intro q e s hrun hfree
    rw [exec_move]
    unfold execMove
    rw [hrun]
    exact congrArg _ (if_neg (by simp [hfree]))
  · intro q e s hrun hfree
    rw [exec_gather]
    unfold execGather
    rw [hrun]
    exact congrArg _ (if_neg (by simp [hfree]))
  · intro q e s hmove hgather hmatmul
    exact ⟨fun hrun => execMove_waits hrun hmove, fun hrun => execGather_waits hrun hgather, fun hrun => execMatmul_waits hrun hmatmul⟩
  · rintro c cyc t p _ s rfl hnext hsent hport hgo
    rw [exec_dataMoverIssue, execDataMoverIssue_eq hnext hsent hport, if_neg (by simp [hgo])]
    rfl
  · rintro c cyc t p _ s rfl hnext hsent hport hheld
    rw [exec_dataMoverIssue, execDataMoverIssue_eq hnext (.inl hsent) hport, if_pos hheld]

end Sys2Proof
end

section
/-! WAIT and BRANCH (R76, R77): the ways a fetched descriptor that may start goes on. -/

namespace Sys2Proof.Machine

variable {s : State} {q : QueueId} {d : Fetched} {w : Waiting} {cyc : Nat}

/-- A fetched WAIT that may start is WAITING; its condition is asked for or judged, and it starts if that holds. -/
theorem State.waitStep_fetched (hfetched : ((s.advance cyc).queue q).fetched = some d) (hop : d.opcode = opWait)
    (hgoes : (s.advance cyc).queueStopped q = false) (hpred : (s.advance cyc).predecessorsOk q d = true)
    (hentry : ((s.advance cyc).queue q).cplFull = false) :
    s.waitStep q cyc =
      (((((s.advance cyc).setQueue q { (s.advance cyc).queue q with
        fetched := none, wait := some ⟨d, if d.timeout = 0 then none else some d.timeout, false, d.ctrSpace != 0, false⟩ }).settleQueue
          q).askRoot q d).judgeOwn q).startWait q := by
  simp [State.waitStep, hfetched, hop, hgoes, hpred, hentry]

theorem State.waitStep_waiting (hfetched : ((s.advance cyc).queue q).fetched = none) :
    s.waitStep q cyc = (s.advance cyc).startWait q := by
  simp [State.waitStep, hfetched]

theorem State.startWait_fits (hwait : (s.queue q).wait = some w) (hheld : w.held = true) (hgoes : s.queueStopped q = false)
    (hfits : s.admission q.core w.desc.bound s.clk.cycle = .fits) :
    s.startWait q = (s.setQueue q { s.queue q with wait := none }).enter q w.desc true := by
  simp [State.startWait, hwait, hheld, hgoes, State.letStart, hfits]

/-- A fetched BRANCH that may start is rejected, waits for its target, or starts under its bound. -/
theorem State.branchStep_fetched (hfetched : ((s.advance cyc).queue q).fetched = some d) (hop : d.opcode = opBranch)
    (hgoes : (s.advance cyc).queueStopped q = false) (hpred : (s.advance cyc).predecessorsOk q d = true)
    (hentry : ((s.advance cyc).queue q).cplFull = false) :
    s.branchStep q cyc =
      if ((s.advance cyc).queue q).branchOk d = false then
        ((s.advance cyc).setQueue q { (s.advance cyc).queue q with wait := none }).rejectDesc q d Flt.RKN_BRANCH_RANGE
      else if ((s.advance cyc).queue q).loops = [] ∧
          ((s.advance cyc).queue q).present (d.index + BitVec.ofInt 16 d.branchOffset) = false then
        ((s.advance cyc).setQueue q { (s.advance cyc).queue q with
          fetched := none, wait := some ⟨d, none, false, false, false⟩ }).settleQueue q
      else (s.advance cyc).letStart q d fun s =>
        let u := (s.setQueue q { s.queue q with wait := none }).enter q d false
        ((u.setQueue q { u.queue q with wait := some ⟨d, none, false, d.ctrSpace != 0, true⟩ }).askRoot q d).judgeOwn q := by
  simp [State.branchStep, hfetched, hop, hgoes, hpred, hentry]

end Sys2Proof.Machine

namespace Sys2Proof

open Machine

/-- Settles O19: the tests of R76 and R77 leave one way on in each case. -/
theorem waitAndBranchCommands : Obligations.WaitAndBranchCommands := by
  refine ⟨?_, ?_, ?_, ?_, ?_⟩
  · intro q cyc d s hfetched hop hgoes hpred hentry
    rw [exec_wait, execWait, State.waitStep_fetched hfetched hop hgoes hpred hentry]
  · intro q cyc w s hfetched hwait hheld hgoes hfits
    rw [exec_wait, execWait, State.waitStep_waiting hfetched, State.startWait_fits hwait hheld hgoes hfits]
  · intro q w s hwait htimeout hheld hbranch
    simp only [exec_waitTimeout, execWaitTimeout, hwait, htimeout, hheld, hbranch, Bool.not_false, and_self, if_true]
    rfl
  · intro q cyc d s hfetched hop hgoes hpred hentry hbad
    rw [exec_branch, execBranch, State.branchStep_fetched hfetched hop hgoes hpred hentry, if_pos hbad]
  · intro q cyc d s hfetched hop hgoes hpred hentry hok hpresent hfits
    rw [exec_branch, execBranch, State.branchStep_fetched hfetched hop hgoes hpred hentry, if_neg (by simp [hok]), if_neg hpresent,
      State.letStart, hfits]

end Sys2Proof
end

section
/-! The EDU (R135 to R149, R370): messages, batches, resolutions and the switch of tables. -/

namespace Sys2Proof.Machine

variable {s : State}

/-- An EDU that is ON or stopping takes the resolutions it waits for (R370). -/
theorem State.takesResolutions (h : s.isOn .edu = true ∨ (s.unit .edu).st = .stopping) :
    (s.isOn .edu || (s.unit .edu).st == .stopping) = true := by simpa using h

/-! ### The switch of tables (R135) -/

theorem Word.bit_or_msb (v : Word) {i : Nat} (hi : i < 31) : (v ||| 0x80000000).bit i = v.bit i := by
  unfold Word.bit
  rw [BitVec.toNat_or, Nat.testBit_or]
  have hmsb : (0x80000000 : Word).toNat.testBit i = false := by
    rw [show (0x80000000 : Word).toNat = 2 ^ 31 from rfl, Nat.testBit_two_pow]
    exact decide_eq_false (by omega)
  rw [hmsb, Bool.or_false]

theorem Word.bit_or_msb_31 (v : Word) : (v ||| 0x80000000).bit 31 = true := by
  unfold Word.bit
  rw [BitVec.toNat_or, Nat.testBit_or]
  have hmsb : (0x80000000 : Word).toNat.testBit 31 = true := by decide
  rw [hmsb, Bool.or_true]

/-- A switch asked for with nothing pending is left for its boundary; a 1 in the refused bit clears it. -/
theorem State.writeTblCtl_switch {v : Word} (hswitch : v.bit 31 = true) (hfree : s.eduPending = false) :
    s.writeTblCtl v = (s.setEdu { s.edu with refused := s.edu.refused && !v.bit 28, switching := true }).schedule .eduSwitch := by
  have hkept : (s.setEdu { s.edu with refused := false }).eduPending = false := hfree
  unfold State.writeTblCtl
  cases v.bit 28
  · simp [hswitch, hfree]
  · simp [hswitch, hkept]
    rfl

end Sys2Proof.Machine

namespace Sys2Proof

open Machine

/-- Settles O20: each command finds the message, batch, selection or DISPATCH it is about and does what is left of it. -/
theorem eduCommands : Obligations.EduCommands := by
  refine ⟨?_, ?_, ?_, ?_, ?_, ?_, ?_, ?_, ?_, ?_⟩
  · intro src job layer tag token pos block row origin cyc s htakes
    simp only [exec_eduMessageReceive, execEduMessageReceive, State.eduMessage, State.takesResolutions htakes]
    exact ⟨rfl, rfl, rfl⟩
  · intro src job layer tag token pos block row origin cyc s hon
    simp only [exec_eduMessageReceive, execEduMessageReceive, State.eduMessage, hon]
    cases origin <;> rfl
  · intro layer inst b s hfind
    simp only [exec_eduMailboxWritten, execEduMailboxWritten, hfind]
    rfl
  · intro layer inst b s hdone hgone
    simp only [exec_eduBatchComplete, execEduBatchComplete, hdone, hgone]
    rfl
  · intro layer inst cyc b s hfind
    simp only [exec_eduBatchTimeout, execEduBatchTimeout, hfind]
  · intro tag token pos cyc d e s hfind hentry hwaits hlate
    simp only [exec_eduResultTimeout, execEduResultTimeout, hfind, hentry, hwaits, hlate]
    rfl
  · intro tag token d t u s hfind htoken hnext hstore
    simp only [exec_eduCombine, execEduCombine, hfind, htoken, hnext, hstore]
    rfl
  · intro tag token d t st u s hfind htoken hnext hgood hstore hfails
    have hok : (st == .ok) = false := beq_eq_false_iff_ne.mpr hfails
    simp only [exec_eduCombine, execEduCombine, hfind, htoken, hnext, hstore, hok, hgood]
    rfl
  · intro tag d s hfind hwritten
    have hdone : (d.tokens.all fun t => t.written || t.barred) = true := by
      rw [List.all_eq_true] at hwritten ⊢
      exact fun t ht => by simp [hwritten t ht]
    simp only [exec_eduDoneSignal, execEduDoneSignal, hfind, hdone, hwritten]
    rfl
  · intro src val cyc s hmay hfree
    simp only [exec_eduTableSwitch, execEduTableSwitch, hmay, if_true]
    rw [State.writeTblCtl_switch (Word.bit_or_msb_31 val) hfree, Word.bit_or_msb val (by decide)]
    rfl

end Sys2Proof
end

section
/-! Page requests, append reports and the engines of the Blinkers (R163, R174 to R180, R192, R193). -/

namespace Sys2Proof.Machine

variable {s : State}

/-- A drift check passes when the peak error at every tint is below 192 / 256 of an LSB (R180). -/
theorem checkPasses_checkErrors_iff {p0 p1 p2 p3 p4 : BitVec 16} :
    checkPasses (checkErrors p0 p1 p2 p3 p4) = true ↔ p0 < 192 ∧ p1 < 192 ∧ p2 < 192 ∧ p3 < 192 ∧ p4 < 192 := by
  simp [checkPasses, checkErrors, BitVec.lt_def]

end Sys2Proof.Machine

namespace Sys2Proof

open Machine

/-- Settles O21: each command finds its oldest request or report, or judges the probes of its engine, and goes on by what it finds. -/
theorem pageAndBlinkersCommands : Obligations.PageAndBlinkersCommands := by
  refine ⟨?_, ?_, ?_, ?_, ?_, ?_, ?_, ?_⟩
  · intro r rest t s hrequests hserved
    simp only [exec_stbPageRequest, execStbPageRequest, hrequests, hserved]
  · intro r rest t s hrequests hrefused
    simp only [exec_stbPageRequest, execStbPageRequest, hrequests, hrefused]
    rfl
  · intro r rest s hreports hprefill hlast
    simp only [exec_appendReport, execAppendReport, hreports]
    exact congrArg _ (if_pos ⟨hprefill, hlast⟩)
  · intro e r rest s hrequests hformed hnormal
    simp only [exec_blinkersRequestStart, execBlinkersRequestStart, hrequests, hformed, hnormal]
    rfl
  · intro e r rest status pages s hrequests hformed
    simp only [exec_blinkersListComplete, execBlinkersListComplete, hrequests, hformed]
  · intro e s hnormal
    simp only [exec_blinkersLeaveNormal, execBlinkersLeaveNormal, hnormal]
    rfl
  · intro e p0 p1 p2 p3 p4 s hon hmode hperiod
    have hdue : (s.isOn (.engine e) && (s.engine e).mode == .normal
        && decide ((s.engine e).lastCheck + s.regF Reg.BLN_CHECK_CTL 15 0 ≤ s.clk.bnd)) = true := by simp [hon, hmode, hperiod]
    simp only [exec_blinkersDriftCheck, execBlinkersDriftCheck, hdue, if_true, checkPasses_checkErrors_iff]
  · intro e p0 p1 p2 p3 p4 measured s hrecal
    simp only [exec_blinkersRecalComplete, execBlinkersRecalComplete, hrecal, ne_eq, not_true_eq_false, if_false,
      checkPasses_checkErrors_iff]
    rfl

end Sys2Proof
end

section
/-! The next command of a ring, and the commands on a stall in a state that their opcode lists (R186, R195, R196, R200, R204, R205,
R211 to R214). -/

namespace Sys2Proof.Machine

variable {s t u : State} {ring : Fin 64} {op : Nat} {a : CommandArgs} {act : CommandArgs → State → CommandEnd × State}

/-- The front command of a ring is a command that is due, and `t` is the state with it read and taken off. -/
theorem State.frontCommand_eq_some (h : s.frontCommand ring = some (a, t)) :
    ∃ c, s.stb.commands.find? s.commandDue = some c ∧ c.ring = ring.val ∧ (s.fetchCommand c).1 = a ∧
      ({ (s.fetchCommand c).2 with
          stb := { (s.fetchCommand c).2.stb with commands := (s.fetchCommand c).2.stb.commands.erase c } } : State).setReg
        (crReg c.ring Reg.STB_CRn_HEAD) (BitVec.ofNat 32 (c.index + 1).toNat) = t := by
  unfold State.frontCommand at h
  split at h
  · cases h
  · next c hfind =>
    split at h
    · cases h
    · next hring =>
      injection h with h
      injection h with hargs hstate
      exact ⟨c, hfind, not_not.mp hring, hargs, hstate⟩

/-- The front command of a ring under its own operation is carried out to its end (R204, R205). -/
theorem State.applyCommand_of_front (h : CommandFront s ring op a t) :
    ∃ c : StableCommand, a.ring = c.ring ∧ a.index = c.index ∧
      s.applyCommand ring op act = (s.fetchCommand c).2.endCommand c a act ∧
      ({ (s.fetchCommand c).2 with
          stb := { (s.fetchCommand c).2.stb with commands := (s.fetchCommand c).2.stb.commands.erase c } } : State).setReg
        (crReg c.ring Reg.STB_CRn_HEAD) (BitVec.ofNat 32 (c.index + 1).toNat) = t := by
  obtain ⟨hfront, hop, -⟩ := h
  obtain ⟨c, hfind, hring, rfl, hstate⟩ := State.frontCommand_eq_some hfront
  refine ⟨c, rfl, rfl, ?_, hstate⟩
  simp only [State.applyCommand, hfind, hring, ne_eq, not_true_eq_false, if_false, CommandArgs.op, hop, and_false]

/-- A command whose action ends at once completes with the status its action gave. -/
theorem State.applyCommand_done {st i : Nat} (h : CommandFront s ring op a t) (hact : act a t = (.done st i, u)) :
    s.applyCommand ring op act = u.completeCommand a.ring a.index st i := by
  obtain ⟨c, hring, hindex, heq, hstate⟩ := State.applyCommand_of_front (act := act) h
  simp only [heq, State.endCommand, h.2.2, Bool.not_true, Bool.false_eq_true, if_false, hstate, hact, hring, hindex]

/-- A command whose action ends later completes nothing yet. -/
theorem State.applyCommand_later (h : CommandFront s ring op a t) (hact : act a t = (.later, u)) :
    s.applyCommand ring op act = u := by
  obtain ⟨c, -, -, heq, hstate⟩ := State.applyCommand_of_front (act := act) h
  simp only [heq, State.endCommand, h.2.2, Bool.not_true, Bool.false_eq_true, if_false, hstate, hact]

/-- A command of a job that may name its stall, in a state its row lists, acts (R204). -/
theorem State.onStall_listed {states : List StallState} {act : Nat → Stall → State → CommandEnd × State}
    (hjob : a.jobOk (t.stall a.stall) = true) (hstate : (t.stall a.stall).st ∈ states) :
    t.onStall a states act = act a.stall (t.stall a.stall) t := by
  simp [State.onStall, hjob, hstate]

/-- An eviction whose extent has room for the record, the pages it holds alone and their sketches gets under way (R211). -/
theorem State.beginEvict_fst {i : Nat} {command : Option (Nat × BitVec 16)} (hext : (t.extentOf i).2.2 ≠ 0)
    (hroom : 4096 + ((t.privatePages i).map fun x => 2 ^ (t.poolFor i x.2.2).log2).sum + 128 * (t.privatePages i).length
      ≤ (t.extentOf i).2.2) :
    (t.beginEvict i command).1 = true := by
  unfold State.beginEvict
  dsimp only
  rw [if_neg]
  simp only [List.map_map, Function.comp_def, hext, false_or, not_lt]
  exact hroom

end Sys2Proof.Machine

namespace Sys2Proof

open Machine

/-- Settles O22: each command finds its stall in a listed state, so its action decides what it leaves and how it completes. -/
theorem stableRingCommands : Obligations.StableRingCommands := by
  refine ⟨?release, ?commit, ?specPut, ?rollback, ?park, ?unpark, ?recallEvicted, ?evict, ?rebuild, ?publish⟩
  case release =>
    intro ring a t s hfront hjob hstate
    exact congrArg _ (State.applyCommand_done hfront (State.onStall_listed hjob (by simpa using hstate)))
  case commit =>
    intro ring a t s hfront hjob hstate hspec hroom
    refine congrArg _ (State.applyCommand_done hfront ?_)
    rw [State.commitTokens, State.onStall_listed hjob (by simp [hstate])]
    simp [hstate, hspec, Nat.not_lt.mpr hroom]
  case specPut =>
    intro ring a ts t u s hfront hpos hmost hread hjob hstate hnone
    refine congrArg _ (State.applyCommand_done hfront ?_)
    have hcount : ¬ ((a.w 2).field 3 0 = 0 ∨ 8 < (a.w 2).field 3 0) := by omega
    simp only [State.specPut, hcount, if_false, hread]
    rw [State.onStall_listed hjob (by simp [hstate])]
    exact if_neg (not_not.mpr hnone)
  case rollback =>
    intro ring a t s hfront hjob hstate
    exact congrArg _ (State.applyCommand_done hfront (State.onStall_listed hjob (by simp [hstate])))
  case park =>
    intro ring a t s hfront hjob hstate
    exact congrArg _ (State.applyCommand_done hfront (State.onStall_listed hjob (by simpa using hstate)))
  case unpark =>
    intro ring a t s hfront hjob hstate
    refine congrArg _ (State.applyCommand_done hfront ?_)
    rw [State.unparkCommand, State.onStall_listed hjob (by simp [hstate])]
    simp only [hstate]
  case recallEvicted =>
    intro ring a t s hfront hjob hstate hmove hfits
    refine congrArg _ (State.applyCommand_later hfront ?_)
    rw [State.unparkCommand, State.onStall_listed hjob (by simp [hstate])]
    dsimp only
    generalize t.setStall a.stall { t.stall a.stall with hostPark := false } = v at hfits ⊢
    simp only [hstate, hmove, hfits, Option.isSome_none, Bool.false_eq_true, if_false, if_true]
  case evict =>
    intro ring a t s hfront hjob hstate hmove hext hroom
    refine congrArg _ (State.applyCommand_later hfront ?_)
    have hbegin := State.beginEvict_fst (command := some (a.ring, a.index)) hext hroom
    rw [State.evictCommand, State.onStall_listed hjob (by simp [hstate])]
    simp only [hmove, Option.isSome_none, Bool.false_eq_true, if_false]
    generalize t.beginEvict a.stall (some (a.ring, a.index)) = got at hbegin ⊢
    obtain ⟨begun, v⟩ := got
    obtain rfl : begun = true := hbegin
    rfl
  case rebuild =>
    intro ring a t s hfront hjob hstate
    exact congrArg _ (State.applyCommand_done hfront (State.onStall_listed hjob (by simpa using hstate)))
  case publish =>
    intro ring a t s hfront hjob hstate
    exact congrArg _ (State.applyCommand_done hfront (State.onStall_listed hjob (by simpa using hstate)))

end Sys2Proof
end

section
/-! A stall from ADMIT to EMPTY: its doorbell, admission, drain, fork, record and plan (R184 to R186, R199, R202 to R207). -/

namespace Sys2Proof.Machine

variable {s t : State}

/-- A pick from a list that is not empty takes one of its members. -/
theorem State.pick_of_ne_nil {l : List Nat} (h : l ≠ []) : ∃ f ∈ l, s.pick l = (some f, s.takeFree.2) := by
  have hpos : 0 < l.length := List.length_pos_iff.mpr h
  have hlt : s.takeFree.1 % l.length < l.length := Nat.mod_lt _ hpos
  refine ⟨l[s.takeFree.1 % l.length], List.getElem_mem hlt, ?_⟩
  simp [State.pick, h, List.getElem?_eq_getElem hlt]

/-- While a table frame is free, one of the free frames is allocated. -/
theorem State.allocFrame_of_free (h : s.freeFrames ≠ []) :
    ∃ (f : Nat) (v : State), f ∈ s.freeFrames ∧ s.allocFrame = (some f, v) := by
  obtain ⟨f, hf, hpick⟩ := State.pick_of_ne_nil (s := s) h
  refine ⟨f, s.takeFree.2.takeFrame f, hf, ?_⟩
  simp only [State.allocFrame, hpick]

section
variable {u v : State} {a : CommandArgs} {ws : List Word} {i f : Nat}

/-- ADMIT to an EMPTY stall takes a frame for its page tables (R185). -/
theorem State.admitWith_of_empty (htarget : u.targetStall a = some i) (hempty : (u.stall i).st = .empty)
    (halloc : u.allocFrame = (some f, v)) :
    u.admitWith a (some ws) =
      (.done csOk i, (v.setStall i (admittedStall (imageOf ws) a.job f v.clk.stride v.clk.bnd)).bump Reg.STB_CNT_n 1) := by
  unfold State.admitWith
  dsimp only
  rw [htarget]
  dsimp only
  rw [hempty]
  dsimp only
  rw [halloc]

/-- ADMIT to a DRAINING stall of the job keeps the image for its restart (R185). -/
theorem State.admitWith_of_draining (htarget : u.targetStall a = some i) (hdraining : (u.stall i).st = .draining)
    (hjob : a.jobOk (u.stall i) = true) :
    u.admitWith a (some ws) =
      (.done csOk i, (u.setStall i
        { u.stall i with rp := true, kept := some (imageOf ws, u.clk.stride, a.job, u.clk.bnd) }).bump Reg.STB_CNT_n 1) := by
  unfold State.admitWith
  dsimp only
  rw [htarget]
  dsimp only
  rw [hdraining]
  dsimp only
  exact if_neg (by simp [hjob])

/-- The pages that a FORK shares: the resident pages of its source (R206). -/
abbrev State.sharedPages (s : State) (y : Stall) : List (PageKey × Nat) :=
  (s.entries y).filterMap fun e => (residentPage e.2.2).map fun n => (e.1, n)

/-- FORK of a DECODE or PARKED source to an EMPTY target, where every page can take one more reference (R206). -/
theorem State.forkWith_of_empty {y : Stall} (hy : u.stall ((a.w 2).field 13 0) = y)
    (hchunks : ((forkImage (imageOf ws) y).layers + 1) * ((forkImage (imageOf ws) y).groups + 1) * (forkImage (imageOf ws) y).chunks
      ≤ 1024)
    (hjob : a.jobOk y = true) (htarget : u.targetStall a = some i) (hempty : (u.stall i).st = .empty)
    (hsource : y.st = .decode ∨ y.st = .parked) (hrefs : ∀ p ∈ u.sharedPages y, u.refs p.2 < 65535)
    (hinto : u.forkInto a.job (imageOf ws) y i (u.sharedPages y) = some v) :
    u.forkWith a (some ws) = (.done csOk i, v) := by
  have hbusy : ¬ ((u.stall i).st ≠ .empty ∨ (!(y.st == .decode || y.st == .parked)) = true) := by
    simpa [hempty, or_iff_not_imp_left] using hsource
  have hfull : ¬ ((u.sharedPages y).any fun p => decide (65535 ≤ u.refs p.2)) = true := by
    rw [List.any_eq_true]
    rintro ⟨p, hp, hge⟩
    exact absurd (hrefs p hp) (by simpa using hge)
  unfold State.forkWith
  dsimp only
  rw [hy, if_neg (Nat.not_lt.mpr hchunks), if_neg (by simp [hjob]), htarget]
  dsimp only
  rw [if_neg hbusy, if_neg hfull, hinto]

/-- A stall that is not EMPTY is in one of the states that a SET admits (R205). -/
theorem mem_states_of_ne_empty {st : StallState} (h : st ≠ .empty) :
    st ∈ [StallState.admitted, .prefill, .decode, .parked, .evicted, .draining] := by
  cases st with
  | empty => exact absurd rfl h
  | _ => decide

end

end Sys2Proof.Machine

namespace Sys2Proof

open Machine

/-- Settles O23: a ring command with its image read acts on the stall it takes, and the other commands meet their one condition. -/
theorem stableLifeCommands : Obligations.StableLifeCommands := by
  refine ⟨?tailWrite, ?admitEmpty, ?admitDraining, ?lookup, ?drain, ?restart, ?fork, ?query, ?set, ?plan⟩
  case tailWrite =>
    intro src ring tail cyc s hmay hlen
    simp only [exec_stbCommandTailWrite, execStbCommandTailWrite, hmay, if_true, State.writeCrTail, Nat.not_lt.mpr hlen, if_false]
  case admitEmpty =>
    intro ring a t ws u i s hfront himage htarget hempty hfree
    obtain ⟨f, v, hf, halloc⟩ := State.allocFrame_of_free hfree
    refine ⟨f, v, hf, halloc, congrArg _ (State.applyCommand_done hfront ?_)⟩
    rw [State.admitStall, himage]
    exact State.admitWith_of_empty htarget hempty halloc
  case admitDraining =>
    intro ring a t ws u i s hfront himage htarget hdraining hjob
    refine congrArg _ (State.applyCommand_done hfront ?_)
    rw [State.admitStall, himage]
    exact State.admitWith_of_draining htarget hdraining hjob
  case lookup =>
    intro i s hadmitted hnext
    simp only [exec_prefixLookupComplete, execPrefixLookupComplete, hadmitted, hnext, and_self, if_true]
  case drain =>
    intro i s hdraining hnext hstep hkept
    simp only [exec_stallDrainComplete, execStallDrainComplete, hdraining, hnext, hstep, hkept, and_self, if_true]
  case restart =>
    rintro i img stride job bnd f u v s hdraining hnext hstep hkept rfl hpick
    simp only [exec_stallDrainComplete, execStallDrainComplete, hdraining, hnext, hstep, hkept, and_self, if_true, hpick]
  case fork =>
    intro ring a t ws u v i s hfront himage hchunks hjob htarget hempty hsource hrefs hinto
    refine congrArg _ (State.applyCommand_done hfront ?_)
    rw [State.forkStall, himage]
    exact State.forkWith_of_empty rfl hchunks hjob htarget hempty hsource hrefs hinto
  case query =>
    intro ring a t u s hfront haligned hjob hstored
    refine congrArg _ (State.applyCommand_done hfront ?_)
    simp [State.queryStall, haligned, State.queryAnswer, hstored, hjob]
  case set =>
    intro ring a t ws u s hfront himage hjob hused
    refine congrArg _ (State.applyCommand_done hfront ?_)
    rw [State.setFields, himage, State.setWith]
    exact State.onStall_listed hjob (mem_states_of_ne_empty hused)
  case plan =>
    intro s hon hdue
    exact congrArg _ (if_pos (by simp [hon, hdue]))

end Sys2Proof
end

section
/-! Requests delivered to a Draught port, atomics among them, and responses (R226, R296 to R298, R349, R365). -/

namespace Sys2Proof.Machine

variable {s t u : State} {p : Fin 64} {cyc : Nat} {e : Delivered}

/-- The agent of a port takes the front of its inbox. -/
theorem State.takeInbox_fst {x : Delivered} {rest : List Delivered} (hinbox : s.drg.inbox.getD p.val [] = x :: rest)
    (htaken : s.takeInbox p = some (e, t)) : e = x := by
  unfold State.takeInbox at htaken
  rw [hinbox] at htaken
  dsimp only at htaken
  split at htaken <;> · injection htaken with h; exact (congrArg Prod.fst h).symm

/-- The request that a port serves next is one of its inbox, moved to the front and taken (R265, R298). -/
theorem State.servedAt_eq_some (hserved : s.servedAt p = some (e, t)) :
    ∃ i, s.nextServed (0, 0) (s.drg.inbox.getD p.val []) = some i ∧ (s.drg.inbox.getD p.val [])[i]? = some e ∧
      ({ s with drg := { s.drg with
        inbox := s.drg.inbox.put p.val (e :: (s.drg.inbox.getD p.val []).eraseIdx i) } } : State).takeInbox p = some (e, t) := by
  unfold State.servedAt at hserved
  dsimp only at hserved
  split at hserved
  · cases hserved
  · next i hnext =>
    split at hserved
    · cases hserved
    · next x hx =>
      obtain rfl : e = x := State.takeInbox_fst (Table.getD_put_same _ _ _ _) hserved
      exact ⟨i, hnext, hx, hserved⟩

/-- The request that a port serves next, of the kind wanted, is acted on (R265, R298). -/
theorem State.servePort_of_served {want : Packet → Bool} {act : Delivered → State → State}
    (hserved : (s.advance cyc).servedAt p = some (e, t)) (hwant : want e.packet = true) :
    s.servePort p cyc want act = act e t := by
  obtain ⟨i, hnext, he, htaken⟩ := State.servedAt_eq_some hserved
  simp only [State.servePort, hnext, he, hwant, Bool.not_true, Bool.false_eq_true, if_false, htaken]

/-- A store at a port whose bytes are stored is answered OK (R297). -/
theorem State.servedStore_of_stored {bs : List Byte} (hstored : t.store (portAccess p e.packet) e.packet.local_ bs = (.ok, u)) :
    t.servedStore p e bs = u.reply p e .ok [] := by
  simp only [State.servedStore, hstored, if_true]

section
variable {op n old : Nat} {st : Status} {f : Nat → Nat}

/-- ADD64 leaves the sum kept to 64 bits. -/
theorem atomicResult_add64 (w1 w2 : Word) : atomicResult 2 w1 w2 = fun old => addMod 64 old (pairOf w1 w2) := by
  funext old
  unfold atomicResult
  split
  · contradiction
  · rfl
  all_goals contradiction

/-- An atomic of an operation in the list at an aligned target answers what its target held (R349). -/
theorem State.servedAtomic_of_modified (hop : atomicOp e.packet.data = op) (hlisted : atomicListed op = true)
    (hwidth : atomicWidth op = n)
    (hresult : atomicResult op ((wordsOf e.packet.data).getD 1 0) ((wordsOf e.packet.data).getD 2 0) = f)
    (haligned : e.packet.local_ % n = 0)
    (hmodified : t.modify (portAccess p e.packet) e.packet.local_ n f = (some old, st, u)) :
    t.servedAtomic p e = u.reply p e st (natLe old n) := by
  subst hop hwidth hresult
  simp only [State.servedAtomic, hlisted, haligned, ne_eq, not_true_eq_false, Bool.not_true, Bool.false_eq_true, or_self, if_false,
    hmodified]

/-- An atomic served at a port by the command of its operation (R226, R349). -/
theorem State.atomicRow_port (hserved : (s.advance cyc).servedAt p = some (e, t))
    (hkind : e.packet.kind = 4) (hop : atomicOp e.packet.data = op) (hlisted : atomicListed op = true)
    (hwidth : atomicWidth op = n)
    (hresult : atomicResult op ((wordsOf e.packet.data).getD 1 0) ((wordsOf e.packet.data).getD 2 0) = f)
    (haligned : e.packet.local_ % n = 0)
    (hmodified : t.modify (portAccess p e.packet) e.packet.local_ n f = (some old, st, u)) :
    s.atomicRow (.port p) op cyc = u.reply p e st (natLe old n) := by
  rw [← State.servedAtomic_of_modified hop hlisted hwidth hresult haligned hmodified]
  exact State.servePort_of_served (act := fun e s => s.servedAtomic p e)
    (want := fun k => k.kind == 4 && (atomicOp k.data == op || !atomicListed (atomicOp k.data))) hserved (by simp [hkind, hop])

end

end Sys2Proof.Machine

namespace Sys2Proof

open Machine

/-- Settles O24: the request that a port serves next is taken by the command of its kind, and a response ends the request it answers. -/
theorem draughtPortCommands : Obligations.DraughtPortCommands := by
  refine ⟨?load, ?store, ?flagStore, ?service, ?add32, ?add64, ?swap32, ?swap64, ?cas32, ?resp⟩
  case load =>
    intro p cyc e t bs u s hserved hkind hloaded
    refine congrArg _ ((State.servePort_of_served hserved (by simp [hkind])).trans ?_)
    simp only [hloaded, if_true]
  case store =>
    intro p cyc e t u s hserved hkind hstored
    refine congrArg _ ((State.servePort_of_served hserved (by simp [hkind])).trans ?_)
    exact State.servedStore_of_stored hstored
  case flagStore =>
    intro p cyc e t u s hserved hkind hstored
    refine congrArg _ ((State.servePort_of_served hserved (by simp [hkind])).trans ?_)
    exact State.servedStore_of_stored hstored
  case service =>
    intro p cyc e t s hserved hkind
    exact congrArg _ (State.servePort_of_served hserved (by simp [hkind]))
  case add32 =>
    intro p cyc e t old st u s hserved hkind hop haligned hmodified
    exact congrArg _ (State.atomicRow_port hserved hkind hop rfl rfl rfl haligned hmodified)
  case add64 =>
    intro p cyc e t old st u s hserved hkind hop haligned hmodified
    exact congrArg _ (State.atomicRow_port hserved hkind hop rfl rfl (atomicResult_add64 _ _) haligned hmodified)
  case swap32 =>
    intro p cyc e t old st u s hserved hkind hop haligned hmodified
    exact congrArg _ (State.atomicRow_port hserved hkind hop rfl rfl rfl haligned hmodified)
  case swap64 =>
    intro p cyc e t old st u s hserved hkind hop haligned hmodified
    exact congrArg _ (State.atomicRow_port hserved hkind hop rfl rfl rfl haligned hmodified)
  case cas32 =>
    intro p cyc e t old st u s hserved hkind hop haligned hmodified
    exact congrArg _ (State.atomicRow_port hserved hkind hop rfl rfl rfl haligned hmodified)
  case resp =>
    intro p cyc e rest r s hresps hrequest
    simp only [exec_draughtResp, execDraughtResp, hresps]
    split
    · next hnone => exact absurd (hrequest.symm.trans hnone) (Option.some_ne_none r)
    · next found hfound =>
      obtain rfl : r = found := Option.some.inj (hrequest.symm.trans hfound)
      rfl

end Sys2Proof
end

section
/-! A pair of Draught ports: packets in order, gaps, replay, request time-outs and LINK packets (R255, R256, R262 to R264, R299, R301). -/

namespace Sys2Proof.Machine

/-- The missing number of a NAK, read back from the word that carries it (R299). -/
theorem field_of_putBits_31_12 (n : BitVec 20) : Word.field (BitVec.ofNat 32 (putBits 31 12 n.toNat)) 31 12 = n.toNat := by
  have := n.isLt
  simp only [Word.field, putBits, BitVec.toNat_ofNat]
  omega

/-- The total of a CREDIT, read back from the word that carries it (R299). -/
theorem field_of_low20 (n : BitVec 20) : Word.field (BitVec.ofNat 32 n.toNat) 19 0 = n.toNat := by
  have := n.isLt
  simp only [Word.field, BitVec.toNat_ofNat]
  omega

/-- The plane of a SLOT_LOST, read back from the word that carries it (R299). -/
theorem plane_of_slotLost (plane : Fin 16) (tx rx : Fin 8) :
    Word.field (BitVec.ofNat 32 (putBits 15 12 plane.val + putBits 11 9 tx.val + putBits 8 6 rx.val)) 15 12 % 16 = plane.val := by
  simp only [Word.field, putBits, BitVec.toNat_ofNat]
  omega

/-- The slot of a SLOT_LOST, read back from the word that carries it (R299). -/
theorem slot_of_slotLost (plane : Fin 16) (tx rx : Fin 8) :
    Word.field (BitVec.ofNat 32 (putBits 15 12 plane.val + putBits 11 9 tx.val + putBits 8 6 rx.val)) 11 9 % 8 = tx.val := by
  simp only [Word.field, putBits, BitVec.toNat_ofNat]
  omega

section
variable {s : State} {src dst : Fin 64} {ack : Nat}

/-- IDLE and ACK only acknowledge (R299). -/
theorem State.takeLink_ack {op : Nat} {w : Word} (h : op < 2) : s.takeLink src dst op ack w = s.takeAck src dst ack := by
  simp only [State.takeLink, show op ≠ 2 by omega, show op ≠ 3 by omega, show op ≠ 4 by omega, if_false]

/-- NAK also asks for what follows the last packet received in order (R299). -/
theorem State.takeLink_nak (missing : BitVec 20) :
    s.takeLink src dst 2 ack (BitVec.ofNat 32 (putBits 31 12 missing.toNat)) = (s.takeAck src dst ack).takeNak src dst missing.toNat := by
  simp only [State.takeLink, if_true, field_of_putBits_31_12]

/-- SLOT_LOST also darkens the slot it names (R256). -/
theorem State.takeLink_slotLost (plane : Fin 16) (tx rx : Fin 8) :
    s.takeLink src dst 3 ack (BitVec.ofNat 32 (putBits 15 12 plane.val + putBits 11 9 tx.val + putBits 8 6 rx.val)) =
      (s.takeAck src dst ack).takeSlotLost ⟨src, plane, false, tx⟩ := by
  simp only [State.takeLink, show (3 : Nat) ≠ 2 by decide, if_true, if_false, plane_of_slotLost, slot_of_slotLost]

/-- CREDIT also returns credits (R301). -/
theorem State.takeLink_credit (credits : BitVec 20) :
    s.takeLink src dst 4 ack (BitVec.ofNat 32 credits.toNat) = (s.takeAck src dst ack).takeCredit src dst credits.toNat := by
  simp only [State.takeLink, show (4 : Nat) ≠ 2 by decide, show (4 : Nat) ≠ 3 by decide, if_true, if_false, field_of_low20]

/-- A packet of the expected number is delivered, and those held behind it follow (R262). -/
theorem State.arrive_expected {x : SlotId} {low : Nat} {k : Packet}
    (h : rebuildSeq (s.pair (pairKey src dst)).expect low = (s.pair (pairKey src dst)).expect) :
    s.arrive src dst x low k =
      (((s.setPair (pairKey src dst) { s.pair (pairKey src dst) with
        expect := ((s.pair (pairKey src dst)).expect + 1) % 2 ^ 24, gapAt := none }).deliver src dst
          (s.pair (pairKey src dst)).expect k).drainReorder src dst ((s.pair (pairKey src dst)).reorder.length + 1)).sendAck src dst := by
  simp only [State.arrive, h, if_true]

end

end Sys2Proof.Machine

namespace Sys2Proof

open Machine

/-- Settles O25: a packet in order passes every check of its slot, the time-outs find what they wait for, and a LINK packet acknowledges
before it does what its kind asks. -/
theorem draughtLinkCommands : Obligations.DraughtLinkCommands := by
  refine ⟨?receive, ?gap, ?replay, ?request, ?ack, ?nak, ?slotLost, ?credit⟩
  case receive =>
    intro x flit cyc g low k s hrx hgrant hprobe hdiscard hdark hcarries hread hkind hexpected
    rw [exec_draughtPacketReceive, execDraughtPacketReceive]
    refine congrArg _ (Eq.trans ?_ (State.arrive_expected (x := x) (low := low) (k := k) hexpected))
    simp only [hrx, hgrant, hprobe, hdiscard, hdark, hcarries, hread, hkind, ne_eq, not_true_eq_false, Bool.not_true, Bool.or_self,
      Bool.false_eq_true, if_false]
  case gap =>
    intro src dst cyc g s hgap hdue
    simp only [exec_draughtGapNak, execDraughtGapNak, hgap, Nat.not_lt.mpr hdue, if_false]
  case replay =>
    intro src dst seq cyc u s hsent hdue hagain
    simp only [exec_draughtReplayTimeout, execDraughtReplayTimeout, hsent, Nat.not_lt.mpr hdue, hagain, Bool.false_eq_true, or_self,
      if_false]
  case request =>
    intro id cyc r s hrequest hremote hverdict hdue
    simp only [exec_draughtRequestTimeout, execDraughtRequestTimeout, hrequest, hremote, hverdict, Nat.not_lt.mpr hdue, decide_false,
      Bool.or_self, Bool.false_eq_true, if_false]
    cases r.seq <;> rfl
  case ack =>
    intro src dst ack s
    exact ⟨congrArg Host.Outcome.next (State.takeLink_ack (by decide)), congrArg Host.Outcome.next (State.takeLink_ack (by decide))⟩
  case nak =>
    intro src dst ack missing s
    exact congrArg Host.Outcome.next (State.takeLink_nak missing)
  case slotLost =>
    intro src dst ack plane tx rx s
    exact congrArg Host.Outcome.next (State.takeLink_slotLost plane tx rx)
  case credit =>
    intro src dst ack credits s
    exact congrArg Host.Outcome.next (State.takeLink_credit credits)

end Sys2Proof
end

section
/-! The end of a stall's eviction and of its recall (R211, R213, R214). -/

namespace Sys2Proof

open Machine

/-- Settles O26: the end of a move goes by whether its accesses were answered and well, and whether a recall's pages fit. -/
theorem stallMoveCommands : Obligations.StallMoveCommands := by
  refine ⟨?evicted, ?evictFailed, ?recalled, ?noPages, ?notWhole⟩
  case evicted =>
    intro i m s hmove heviction hleft hgood
    simp only [exec_stallEvictionComplete, execStallEvictionComplete, hmove, heviction, hleft, hgood, bne_self_eq_false, Bool.or_self,
      Bool.not_true, Bool.false_eq_true, if_false]
  case evictFailed =>
    intro i m ok s hmove heviction hleft hfailed
    have hbad : (!ok || m.bad) = true := by simpa using hfailed
    simp only [exec_stallEvictionComplete, execStallEvictionComplete, hmove, heviction, hleft, hbad, bne_self_eq_false, Bool.or_self,
      Bool.false_eq_true, if_false, if_true, State.evictFail]
  case recalled =>
    rintro i extent m t u s hmove hrecall hleft hgood rfl hfits hrestored
    simp only [exec_stallRecallComplete, execStallRecallComplete, hmove, hrecall, hleft, hgood, hfits, hrestored, bne_self_eq_false,
      Bool.or_self, Bool.not_true, Bool.not_false, Bool.and_self, Bool.false_eq_true, if_false, if_true]
  case noPages =>
    intro i ok extent m s hmove hrecall hleft hfull
    simp only [exec_stallRecallComplete, execStallRecallComplete, hmove, hrecall, hleft, hfull, bne_self_eq_false,
      Bool.or_self, Bool.not_true, Bool.not_false, Bool.false_eq_true, if_false, if_true]
  case notWhole =>
    intro i ok extent m s hmove hrecall hleft hfits hfailed
    have hbad : (ok && !m.bad) = false := by rcases hfailed with h | h <;> simp [h]
    simp only [exec_stallRecallComplete, execStallRecallComplete, hmove, hrecall, hleft, hfits, hbad, bne_self_eq_false,
      Bool.or_self, Bool.not_true, Bool.false_eq_true, if_false]

end Sys2Proof
end

section
/-! The laser cartridges: samples, swaps, feed switches, losses, and calibration (R272 to R288, R293). -/

namespace Sys2Proof.Machine

variable {s : State} {k : Fin 8} {p : Fin 16}

section Units

/-- Noting a cartridge's fade changes no unit. -/
theorem State.noteFade_units : (s.noteFade k).units = s.units := by
  unfold State.noteFade
  dsimp only
  split_ifs
  · exact State.logFault_units
  · rfl
  · rfl

/-- Noting a critical fade changes no unit. -/
theorem State.noteCrit_units : (s.noteCrit k).units = s.units := by
  unfold State.noteCrit
  split_ifs
  · rfl
  · exact State.logFault_units
  · rfl

/-- Judging a spare changes no unit. -/
theorem State.judgeSpare_units : (s.judgeSpare k).units = s.units := by
  unfold State.judgeSpare
  split_ifs
  · exact State.noteCrit_units.trans State.noteFade_units
  · rfl

/-- A tap reading kept as a nominal changes no unit. -/
theorem State.recordNominal_unit {reading : Int} (u : UnitId) : (s.recordNominal k p reading).unit u = s.unit u := by
  unfold State.recordNominal
  split_ifs <;> rfl

/-- A tap reading kept as a nominal moves no feed. -/
theorem State.recordNominal_feed {reading : Int} (r : Fin 16) : (s.recordNominal k p reading).feed r = s.feed r := by
  unfold State.recordNominal
  split_ifs <;> rfl

end Units

/-- The sample of a tap, kept and judged for the cartridge that feeds its plane, when the cartridge is ON and the plane is not moving
(R274, R277). -/
theorem execTapSample_fed {reading even odd : Int} (hk : k = cartOf (quadOfPlane p) (s.feed p).src)
    (hon : (s.unit (.cartridge k)).st = .on) (hmoving : (s.feed p).moving = none) :
    let v := (s.readMonitors (quadOfPlane p) even odd).recordNominal k p reading
    execTapSample p reading even odd s = .next ((((v.keepSample p (v.tapSample k p reading)).judgeSpare
      ((v.feed p).otherCart (quadOfPlane p))).judgeSample p k (v.feed p) (v.tapSample k p reading))) := by
  subst hk
  have hfed : ((s.readMonitors (quadOfPlane p) even odd).unit (.cartridge (cartOf (quadOfPlane p) (s.feed p).src))).st = .on ∧
      ((s.readMonitors (quadOfPlane p) even odd).feed p).moving = none := ⟨hon, hmoving⟩
  simp only [execTapSample, hfed, and_self, if_true]

/-- The cartridge of a plane is still ON once its sample is kept and the spare judged. -/
theorem State.judgeSpare_keepSample_unit {sample : Int} {j : Fin 8} (u : UnitId) :
    ((s.keepSample p sample).judgeSpare j).unit u = s.unit u := by
  have h : ((s.keepSample p sample).judgeSpare j).units = s.units := State.judgeSpare_units
  unfold State.unit
  rw [h]

/-- The sample of a plane with light is judged for the fade of its cartridge; no swap under way is aborted by it. -/
theorem State.judgeSample_lit {f : Feed} {sample : Int} (hon : (s.unit (.cartridge k)).st = .on) (hlit : -120 < sample)
    (hidle : (((s.judgePath p k).judgeFade k).quad (quadOfPlane p)).swap = .idle) :
    s.judgeSample p k f sample = (s.judgePath p k).judgeFade k := by
  simp [State.judgeSample, hon, Int.not_le.mpr hlit, hidle]

/-- The sample of a plane without light, neither moving nor waiting, is the loss of its cartridge. -/
theorem State.judgeSample_dark {f : Feed} {sample : Int} (hon : (s.unit (.cartridge k)).st = .on) (hdark : sample ≤ -120)
    (hmoving : f.moving = none) (hwaits : f.waits = false) : s.judgeSample p k f sample = s.suddenLoss k := by
  simp [State.judgeSample, hon, hdark, hmoving, hwaits]

/-- The disable bit alone of a cartridge's control register: the register keeps the force bit, and the cartridge is disabled. -/
theorem State.writeCartCtl_disable {force : Bool} (henable : (s.unit (.cartridge k)).enable = true) :
    s.writeCartCtl k (BitVec.ofNat 32 (2 * bitOf force)) =
      (s.setReg (Reg.LAS_CARTk_CTL + 16 * k.val) (BitVec.ofNat 32 (2 * bitOf force) &&& 2)).cartDisable k force := by
  have hlow : Word.bit (BitVec.ofNat 32 (2 * bitOf force)) 0 = false := by cases force <;> rfl
  have hforce : Word.bit (BitVec.ofNat 32 (2 * bitOf force)) 1 = force := by cases force <;> rfl
  have hset : ((s.setReg (Reg.LAS_CARTk_CTL + 16 * k.val) (BitVec.ofNat 32 (2 * bitOf force) &&& 2)).unit (.cartridge k)).enable = true :=
    henable
  simp only [State.writeCartCtl, hlow, hforce, hset, Bool.false_eq_true, if_false, if_true]

end Sys2Proof.Machine

namespace Sys2Proof

open Machine

/-- Settles O28: a tap's sample is judged for the cartridge that feeds its plane, and the other commands act on the condition they find. -/
theorem laserCommands : Obligations.LaserCommands := by
  refine ⟨?sample, ?dark, ?swap, ?swapRefused, ?settled, ?switchFailed, ?gap, ?sudden, ?removed, ?inserted, ?disable, ?spareFit,
    ?calibration⟩
  case sample =>
    rintro p reading even odd sample k u v w s hk hon hmoving rfl rfl rfl hlit rfl hidle
    refine (execTapSample_fed hk hon hmoving).trans (congrArg _ (State.judgeSample_lit ?_ hlit hidle))
    rw [State.judgeSpare_keepSample_unit, State.recordNominal_unit]
    exact hon
  case dark =>
    rintro p reading even odd sample k u v w s hk hon hmoving hwaits rfl rfl rfl hdark rfl
    refine (execTapSample_fed hk hon hmoving).trans (congrArg _ (State.judgeSample_dark ?_ hdark ?_ ?_))
    · rw [State.judgeSpare_keepSample_unit, State.recordNominal_unit]
      exact hon
    · rw [State.recordNominal_feed]
      exact hmoving
    · rw [State.recordNominal_feed]
      exact hwaits
  case swap =>
    intro src q b s hmay hidle hactive
    simp only [exec_plannedSwap, execPlannedSwap, hmay, if_true, State.writeSwap, hidle, ne_eq, not_true_eq_false, if_false, hactive]
  case swapRefused =>
    intro src q s hmay hbusy
    simp only [exec_plannedSwap, execPlannedSwap, hmay, if_true, State.writeSwap]
    exact congrArg _ (if_pos hbusy)
  case settled =>
    intro p t reading predicted cyc s hmoving hbacked hconfirms
    simp only [exec_feedSwitchSettled, execFeedSwitchSettled, hmoving, hbacked, hconfirms, Bool.false_eq_true, if_false, if_true]
  case switchFailed =>
    intro p t source reading predicted cyc s hmoving hbacked hsource hoff
    simp only [exec_feedSwitchSettled, execFeedSwitchSettled, hmoving, hbacked, hsource, hoff, false_and, Bool.false_eq_true, if_false]
  case gap =>
    intro q b s hgap hdue
    simp only [exec_swapGapExpiry, execSwapGapExpiry, hgap, Nat.not_lt.mpr hdue, if_false]
  case sudden =>
    intro k s hon
    exact congrArg _ (if_pos hon)
  case removed =>
    intro k u s hpresent hrole
    simp only [exec_cartridgeRemoved, execCartridgeRemoved, hpresent, Bool.not_true, Bool.false_eq_true, if_false]
    rcases hrole with ⟨hactive, rfl⟩ | ⟨hspare, hidle, rfl⟩ | ⟨hnone, rfl⟩
    · simp only [hactive, if_true]
      rfl
    · simp only [hspare, hidle, show (2 : Nat) ≠ 1 by decide, ne_eq, not_true_eq_false, false_and, if_false, if_true]
      rfl
    · simp only [hnone, show (0 : Nat) ≠ 1 by decide, show (0 : Nat) ≠ 2 by decide, if_false]
      rfl
  case inserted =>
    intro k serial s habsent
    simp only [exec_cartridgeInserted, execCartridgeInserted, habsent, Bool.false_eq_true, if_false]
    rfl
  case disable =>
    intro src k force cyc s hmay henable
    exact congrArg _ ((if_pos hmay).trans (State.writeCartCtl_disable henable))
  case spareFit =>
    rintro k monitor u s hon hwarming rfl hfit
    have hgo : ¬ ((s.unit (.cartridge k)).st ≠ .on ∨ (!(s.cart k).warming) = true) := by simp [hon, hwarming]
    simp only [exec_spareBecomesFit, execSpareBecomesFit, hgo, if_false, hfit, if_true]
  case calibration =>
    intro g cyc s hon hmoved
    have hgo : ¬ ((s.advance cyc).regF Reg.CAL_CTL 0 0 = 0 ∨ ((s.advance cyc).calTemp g - (s.advance cyc).calAt g).natAbs < 4) := by
      omega
    exact congrArg _ (if_neg hgo)

end Sys2Proof
end

section
/-! Requests of the Rein, their responses, broadcasts and time-outs (R305, R308 to R310, R332). -/

namespace Sys2Proof.Machine

variable {s : State} {p : ReinPacket} {read : Bool}

/-- A well-formed READ that arrives reads its words (R305). -/
theorem State.reinAnswer_read (hgood : p.bad = false) (hformed : reinFormed [1] p = true) :
    s.reinAnswer p true = (some ((s.reinArrival p).reinDoRead p).1, ((s.reinArrival p).reinDoRead p).2) := by
  simp only [State.reinAnswer, hgood, hformed, if_true, Bool.not_true, Bool.false_eq_true, if_false]

/-- A well-formed WRITE or MSG that arrives is written (R305). -/
theorem State.reinAnswer_write (hgood : p.bad = false) (hformed : reinFormed [2, 6] p = true) :
    s.reinAnswer p false = (some (((s.reinArrival p).reinDoWrite p).1, []), ((s.reinArrival p).reinDoWrite p).2) := by
  simp only [State.reinAnswer, hgood, hformed, Bool.not_true, Bool.false_eq_true, if_false]

/-- A malformed request is counted and has no answer (R309). -/
theorem State.reinAnswer_malformed (hgood : p.bad = false) (hread : reinFormed [1] p = false) (hwrite : reinFormed [2, 6] p = false) :
    s.reinAnswer p read = (none, (s.reinArrival p).bump (Reg.REIN_CNT_n + 8) 1) := by
  have hformed : reinFormed (if read = true then [1] else [2, 6]) p = false := by cases read <;> assumption
  simp only [State.reinAnswer, hgood, hformed, Bool.not_false, Bool.false_eq_true, if_false, if_true]

/-- A request that nothing blocks is sent with its answer (R308). -/
theorem State.reinSend_open {answer : Option (ReinStatus × List Word)} {t : State} (hopen : reinBlocked s.rein p = false)
    (hanswer : s.reinAnswer p read = (answer, t)) : s.reinSend p read = t.reinSent p read answer := by
  simp only [State.reinSend, hopen, Bool.false_eq_true, if_false, hanswer]

/-- A request behind one of another class to the same destination is held (R308). -/
theorem State.reinSend_blocked (h : reinBlocked s.rein p = true) :
    s.reinSend p read = { s with rein := s.rein ++ [s.reinRequest p read none (some p)] } := by
  simp only [State.reinSend, h, if_true]

/-- RDATA and WACK are one command but for the kind of their request. -/
theorem exec_reinDelivered {node : Fin 64} {agent tag : BitVec 8} {d : ReinDelivery} {cyc : Nat} :
    exec (if read then .reinRdata node agent tag d cyc else .reinWack node agent tag d cyc) s =
      .next ((s.advance cyc).reinDelivered read node agent tag d) := by
  cases read <;> rfl

end Sys2Proof.Machine

namespace Sys2Proof

open Machine

/-- Settles O29: a request goes by what blocks it and by its form, a response by its kind, its channel and the request it answers. -/
theorem reinCommands : Obligations.ReinCommands := by
  refine ⟨?read, ?write, ?malformed, ?blocked, ?response, ?stray, ?broadcast, ?timeout⟩
  case read =>
    rintro p cyc t s hopen rfl hgood hformed
    exact congrArg Host.Outcome.next (State.reinSend_open hopen (State.reinAnswer_read hgood hformed))
  case write =>
    rintro p cyc t s hopen rfl hgood hformed
    exact congrArg Host.Outcome.next (State.reinSend_open hopen (State.reinAnswer_write hgood hformed))
  case malformed =>
    rintro p cyc t s hopen rfl hgood hread hwrite
    exact ⟨congrArg Host.Outcome.next (State.reinSend_open hopen (State.reinAnswer_malformed hgood hread hwrite)),
      congrArg Host.Outcome.next (State.reinSend_open hopen (State.reinAnswer_malformed hgood hread hwrite))⟩
  case blocked =>
    rintro p cyc t s rfl hblocked
    exact ⟨congrArg Host.Outcome.next (State.reinSend_blocked hblocked), congrArg Host.Outcome.next (State.reinSend_blocked hblocked)⟩
  case response =>
    rintro read node agent tag d cyc t r st ws s rfl hgood hkind hchannel hrequest hanswer
    rw [exec_reinDelivered, State.reinDelivered]
    simp only [hgood, hkind, hchannel, and_self, Bool.false_eq_true, if_false, if_true, State.reinResponse] at hrequest ⊢
    simp only [hrequest, hanswer]
  case stray =>
    rintro read node agent tag d cyc t s rfl hstray
    have hother : ¬ (d.w0.field 31 28 = (if read then 3 else 4) ∧ d.w0.field 25 25 = 1) := not_and_or.mpr hstray
    rw [exec_reinDelivered, State.reinDelivered]
    simp only [hother, if_false]
  case broadcast =>
    rintro p dropped cyc t s rfl hgood hformed
    simp only [exec_reinBcast, execReinBcast, hgood, hformed, Bool.not_true, Bool.false_eq_true, if_false]
  case timeout =>
    intro node agent tag cyc r s hlate hwatch
    simp only [exec_reinTimeout, execReinTimeout, State.reinLate, hlate, hwatch]

end Sys2Proof
end

section
/-! The frames of the Hitch and its watches (R312 to R315, R327, R328, R332 to R335). -/

namespace Sys2Proof.Machine

variable {s : State} {f : Frame} {rest : List Frame} {err : FrameError} {hub : Word} {rkn : Option (Fin 8)}

/-- A frame read, at its cycle and with room at its hub, is applied with those that merge with it (R312, R327). -/
theorem State.signalFrame_read (hflight : s.hitch.flight = f :: rest) (herr : err = .none ∨ err = .corrected)
    (hland : f.land < s.strideEnd) (hroom : (s.advanceTo f.land).hubFull f = false) :
    let t := ({ s.advanceTo f.land with
      hitch := { (s.advanceTo f.land).hitch with flight := (combine f.slot f.ctr f.amount true rest).2.2 } } : State).noteCorrected err
    let parts := (combine f.slot f.ctr f.amount true rest).2.1
    s.signalFrame err =
      ((if parts = [] then t else t.bump (Reg.HCH_CNT_n + 8) parts.length).countDelivery f).applyParts f.ctr (f :: parts) := by
  unfold State.signalFrame
  rw [hflight]
  dsimp only
  rw [if_neg (Nat.not_le.mpr hland)]
  generalize combine f.slot f.ctr f.amount true rest = merged
  obtain rfl | rfl := herr <;> simp only [hroom, Bool.false_eq_true, if_false]

/-- A frame of a later stride waits (R312). -/
theorem State.signalFrame_later (hflight : s.hitch.flight = f :: rest) (hland : s.strideEnd ≤ f.land) : s.signalFrame err = s := by
  simp only [State.signalFrame, hflight, hland, if_true]

/-- A frame beyond its hub's limit waits for its NAK (R312). -/
theorem State.signalFrame_full (hflight : s.hitch.flight = f :: rest) (herr : err = .none ∨ err = .corrected)
    (hland : f.land < s.strideEnd) (hfull : (s.advanceTo f.land).hubFull f = true) : s.signalFrame err = s.advanceTo f.land := by
  obtain rfl | rfl := herr <;> simp only [State.signalFrame, hflight, Nat.not_le.mpr hland, hfull, if_true, if_false]

/-- A frame that cannot be read is lost (R315). -/
theorem State.signalFrame_lost (hflight : s.hitch.flight = f :: rest) (hland : f.land < s.strideEnd) :
    s.signalFrame (.lost hub rkn) = ({ s.advanceTo f.land with
      hitch := { (s.advanceTo f.land).hitch with flight := lostWith hub f rest } } : State).loseFrame f.ctr hub rkn := by
  simp only [State.signalFrame, hflight, Nat.not_le.mpr hland, if_false]

/-- A NAK that is read has its frame, and those merged with it, sent again (R312, R328). -/
theorem State.nakFrame_read (hflight : s.hitch.flight = f :: rest) (herr : err = .none ∨ err = .corrected)
    (hdue : f.slot + 48 < s.strideEnd) (hfull : s.hubFull f = true) :
    s.nakFrame err = (f :: (combine f.slot f.ctr f.amount true rest).2.1).foldl (fun (u : State) g => u.relaunch g)
      (({ s.advanceTo (f.slot + 48) with hitch := { (s.advanceTo (f.slot + 48)).hitch with
        flight := (combine f.slot f.ctr f.amount true rest).2.2 } } : State).noteCorrected err) := by
  obtain rfl | rfl := herr <;> simp only [State.nakFrame, hflight, Nat.not_le.mpr hdue, hfull, if_true, if_false]

/-- A NAK that is lost takes its frame with it; those merged with it are sent again (R315). -/
theorem State.nakFrame_lost (hflight : s.hitch.flight = f :: rest) (hdue : f.slot + 48 < s.strideEnd) (hfull : s.hubFull f = true) :
    s.nakFrame (.lost hub rkn) = ((combine f.slot f.ctr f.amount true rest).2.1.foldl (fun (u : State) g => u.relaunch g)
      { s.advanceTo (f.slot + 48) with hitch := { (s.advanceTo (f.slot + 48)).hitch with
        flight := (combine f.slot f.ctr f.amount true rest).2.2 } }).loseFrame f.ctr hub rkn := by
  simp only [State.nakFrame, hflight, Nat.not_le.mpr hdue, hfull, if_true, if_false]

/-- Nothing is counted of a frame read without an error. -/
theorem State.noteCorrected_none : s.noteCorrected .none = s := if_neg (by decide)

/-- A RELEASE that is read reaches its core at its cycle (R333). -/
theorem State.releaseFrame_read {r : Release} {rest : List Release} (hreleases : s.hitch.releases = r :: rest)
    (herr : err = .none ∨ err = .corrected) (hdue : r.slot + 48 < s.strideEnd) :
    s.releaseFrame err = (({ s.advanceTo (r.slot + 48) with
      hitch := { (s.advanceTo (r.slot + 48)).hitch with releases := rest } } : State).noteCorrected err).takeRelease r := by
  obtain rfl | rfl := herr <;> simp only [State.releaseFrame, hreleases, Nat.not_le.mpr hdue, if_false]

/-- A RELEASE that cannot be read is lost (R315). -/
theorem State.releaseFrame_lost {r : Release} {rest : List Release} (hreleases : s.hitch.releases = r :: rest)
    (hdue : r.slot + 48 < s.strideEnd) :
    s.releaseFrame (.lost hub rkn) = ({ s.advanceTo (r.slot + 48) with
      hitch := { (s.advanceTo (r.slot + 48)).hitch with releases := rest } } : State).loseRelease r hub rkn := by
  simp only [State.releaseFrame, hreleases, Nat.not_le.mpr hdue, if_false]

end Sys2Proof.Machine

namespace Sys2Proof

open Machine

/-- Settles O30: a frame goes by its cycle, the room of its hub and what its transmission met, a watch by how the root judges it. -/
theorem hitchCommands : Obligations.HitchCommands := by
  refine ⟨?signal, ?waits, ?lost, ?nak, ?nakRead, ?nakLost, ?snap, ?snapEvents, ?release, ?releaseRead, ?releaseLost, ?register, ?withdraw⟩
  case signal =>
    rintro err f rest v t s hflight herr hland rfl hroom rfl
    exact congrArg (fun u : State => Host.Outcome.next u.flushAnswers) (State.signalFrame_read hflight herr hland hroom)
  case waits =>
    intro err f rest s hflight herr
    refine ⟨fun hland => ?_, fun hland hfull => ?_⟩
    · exact congrArg (fun u : State => Host.Outcome.next u.flushAnswers) (State.signalFrame_later hflight hland)
    · exact congrArg (fun u : State => Host.Outcome.next u.flushAnswers) (State.signalFrame_full hflight herr hland hfull)
  case lost =>
    rintro hub rkn f rest v s hflight hland rfl
    exact congrArg (fun u : State => Host.Outcome.next u.flushAnswers) (State.signalFrame_lost hflight hland)
  case nak =>
    rintro f rest v s hflight hdue hfull rfl
    have hread := State.nakFrame_read hflight (Or.inl rfl) hdue hfull
    rw [State.noteCorrected_none] at hread
    exact congrArg (fun u : State => Host.Outcome.next u.flushAnswers) hread
  case nakRead =>
    rintro err f rest v s hflight herr hdue hfull rfl
    exact congrArg (fun u : State => Host.Outcome.next u.flushAnswers) (State.nakFrame_read hflight herr hdue hfull)
  case nakLost =>
    rintro hub rkn f rest v s hflight hdue hfull rfl
    exact congrArg (fun u : State => Host.Outcome.next u.flushAnswers) (State.nakFrame_lost hflight hdue hfull)
  case snap =>
    intro source slot v t u s hframe hdue hv hheld ht hu
    subst hv
    have harrives : s.snapFrame = (s.advanceTo (slot + 48)).latchFrame source := by
      simp only [State.snapFrame, hframe, Nat.not_le.mpr hdue, if_false]
    rw [hu, ht]
    exact congrArg Host.Outcome.next (harrives.trans (if_neg (by simp [hheld])))
  case snapEvents =>
    intro hub rkn x s hframe
    simp only [exec_hitchSignalFrame, execHitchSignalFrame, State.snapArrives, hframe, Option.isNone_some, Bool.false_eq_true, if_false,
      and_self]
  case release =>
    rintro r rest v s hreleases hdue rfl
    have hread := State.releaseFrame_read hreleases (Or.inl rfl) hdue
    rw [State.noteCorrected_none] at hread
    exact congrArg Host.Outcome.next hread
  case releaseRead =>
    rintro err r rest v s hreleases herr hdue rfl
    exact congrArg Host.Outcome.next (State.releaseFrame_read hreleases herr hdue)
  case releaseLost =>
    rintro hub rkn r rest v s hreleases hdue rfl
    exact congrArg Host.Outcome.next (State.releaseFrame_lost hreleases hdue)
  case register =>
    intro job w0 w1 w2 w s hwatch hasked
    have htaken : s.takeWatch job.toNat w0 w1 w2 = (s.registerWatch w).ackWatch w.q := by
      simp only [State.takeWatch, hwatch, hasked, if_true]
    exact congrArg Host.Outcome.next htaken
  case withdraw =>
    intro job w0 w1 w2 w s hwatch
    simp only [exec_hitchWatchWithdraw, execHitchWatchWithdraw, hwatch, State.withdrawWatch]

end Sys2Proof
end

section
/-! Counter operations through the registers, the host's doorbell and arm, and the mirror (R326, R335 to R338). -/

namespace Sys2Proof.Machine

variable {s : State}

/-- The operation of a write of the counter control register, read back from it. -/
theorem field_setField_op (w : Word) {op : Nat} (h : op < 4) : (w.setField 29 28 op).field 29 28 = op := by
  have := w.isLt
  simp only [Word.field, Word.setField, BitVec.toNat_ofNat]
  omega

/-- A writer of the counter control register has its operation taken (R326, R336). -/
theorem State.counterOp_allowed {src : Source} {val : Word} {cyc op : Nat} (hmay : (s.advance cyc).mayWrite src Reg.HCH_CTR_CTL = true) :
    s.counterOp src op val cyc = (s.advance cyc).writeCtrCtl (val.setField 29 28 op) := if_pos hmay

/-- While the link is UP, a doorbell of function 0 or of a function with a job is counted and taken (R337, R414). -/
theorem State.takeDoorbell_up {fn : Fin 64} {i : Fin 1024} {val : Word} (hup : (s.reg Reg.PCI_LINK_STAT).field 31 29 = 2)
    (hfn : fn.val = 0 ∨ s.liveF (bank fn.val Reg.PCI_FN_JOB) 11 0 ≠ 0) :
    s.takeDoorbell fn i val = (s.bump Reg.PCI_CNT_n 1).hostDoorbell fn i val := by
  have hjob : ¬ (fn.val ≠ 0 ∧ (s.bump Reg.PCI_CNT_n 1).liveF (bank fn.val Reg.PCI_FN_JOB) 11 0 = 0) := by
    simp only [State.liveF, State.bump_live] at hfn ⊢
    tauto
  simp only [State.takeDoorbell, hup, ne_eq, not_true_eq_false, if_false, hjob]

/-- A count of a register changes no Hitch counter. -/
theorem State.bump_ctr {k n : Nat} (c : CounterId) : (s.bump k n).ctr c = s.ctr c := by
  simp only [State.ctr, State.bump_hitch]

end Sys2Proof.Machine

namespace Sys2Proof

open Machine

/-- Settles O31: an operation is left for its boundary by its number, a doorbell judged by its amount and its counter's owner. -/
theorem counterCommands : Obligations.CounterCommands := by
  refine ⟨?init, ?free, ?set, ?revoke, ?doorbell, ?otherFunction, ?arm, ?mirror⟩
  case init =>
    intro src val cyc c s hmay hselected
    refine congrArg Host.Outcome.next ((State.counterOp_allowed hmay).trans ?_)
    cases c <;> simp only [State.writeCtrCtl, hselected, field_setField_op val (show 1 < 4 by decide)]
  case free =>
    intro src val cyc c s hmay hselected
    refine congrArg Host.Outcome.next ((State.counterOp_allowed hmay).trans ?_)
    simp only [State.writeCtrCtl, hselected, field_setField_op val (show 2 < 4 by decide)]
  case set =>
    intro src val cyc c s hmay hselected
    refine congrArg Host.Outcome.next ((State.counterOp_allowed hmay).trans ?_)
    simp only [State.writeCtrCtl, hselected, field_setField_op val (show 3 < 4 by decide)]
  case revoke =>
    intro src job cyc s hmay hjob
    have hnonzero : job.toNat ≠ 0 := fun h => hjob (BitVec.eq_of_toNat_eq h)
    exact congrArg Host.Outcome.next ((if_pos hmay).trans (if_neg hnonzero))
  case doorbell =>
    rintro fn i val t s hup hfn rfl hhigh hamount howner hlive
    refine congrArg Host.Outcome.next ((State.takeDoorbell_up hup hfn).trans ?_)
    simp only [State.hostDoorbell, State.bump_ctr, hhigh, hamount, howner, hlive, ne_eq, not_true_eq_false, or_self, if_false, if_true]
  case otherFunction =>
    rintro fn i val t s hup hfn rfl hhigh hamount howner
    refine congrArg Host.Outcome.next ((State.takeDoorbell_up hup hfn).trans ?_)
    simp only [State.hostDoorbell, State.bump_ctr, hhigh, hamount, howner, ne_eq, not_true_eq_false, not_false_eq_true, or_self, if_false,
      if_true]
  case arm =>
    intro src val i s hmay hselected
    refine congrArg Host.Outcome.next ((if_pos hmay).trans ?_)
    simp only [State.writeArm, hselected]
  case mirror =>
    rintro i cyc t s rfl hdirty hspaced hon
    refine congrArg Host.Outcome.next ((if_pos ?_).trans (if_pos hon))
    rw [hdirty, Bool.true_and]
    cases hlast : ((s.advance cyc).ctr (.host i)).mirLast with
    | none => rfl
    | some k => simpa only [hlast, Option.all_some] using hspaced

end Sys2Proof
end

section
/-! Region leases at their home and at their holder, and the ingress table's entries (R351 to R355). -/

namespace Sys2Proof.Machine

variable {s t u : State} {b : Fin 4} {h : FabHeader} {data : List Byte} {age : Nat} {x : Inbound}

/-- The front packet of a Bridle is whole and within its life (R347, R381). -/
theorem State.headAt_eq_some (hhead : s.headAt b = some (h, data, age, u)) :
    ∃ a rest, s.brd.arrived.getD b.val [] = a :: rest ∧ a.read = some (h, data) ∧ s.ageHere a h = age ∧ ¬ 750 < age ∧
      ({ s with brd := { s.brd with arrived := s.brd.arrived.put b.val rest } } : State) = u := by
  unfold State.headAt at hhead
  split at hhead
  · cases hhead
  · next a rest harrived =>
    split at hhead
    · cases hhead
    · next hread =>
      dsimp only at hhead
      split at hhead
      · cases hhead
      · next hage =>
        cases hhead
        exact ⟨a, rest, harrived, hread, rfl, hage, rfl⟩

/-- The front packet of a Bridle, of the kind wanted, is taken and acted on (R347, R381). -/
theorem State.takeHead_of_headAt {want : FabHeader → List Byte → Bool} {act : FabHeader → List Byte → Nat → State → State}
    (hhead : s.headAt b = some (h, data, age, u)) (hwant : want h data = true) : s.takeHead b want act = act h data age u := by
  obtain ⟨a, rest, harrived, hread, hage, hyoung, rfl⟩ := State.headAt_eq_some hhead
  simp only [State.takeHead, harrived, hread, hage, hyoung, hwant, if_false, if_true]

/-- Touching a flag-store entry changes no window of numbers. -/
theorem State.touched_window {p : InPair} : (s.touched x).window p = s.window p := by
  unfold State.touched
  split_ifs <;> rfl

/-- Touching a flag-store entry leaves what a request is read as. -/
theorem State.touched_inboundOf {n : Nat} : (s.touched x).inboundOf b h data age n = s.inboundOf b h data age n := by
  unfold State.touched
  split_ifs <;> rfl

/-- A LEASE request that comes in is taken under a number of its own (R351, R354). -/
theorem State.takeHead_lease {op : Nat} {lease : Inbound → State → State} (hin : Incoming s b h data age t x) (hkind : h.kind = 9)
    (hop : h.flagEpoch = op) :
    s.takeHead b (fun h _ => h.kind == 9 && h.dst == s.moduleIndex && h.flagEpoch == op)
      (fun h data age s => s.receiveRequest b h data age lease) = lease x { t with nextId := t.nextId + 1 } := by
  obtain ⟨⟨u, hhead, rfl⟩, hdst, hage, hfull, hx, htop, hfresh⟩ := hin
  rw [State.takeHead_of_headAt hhead (by simp [hkind, hdst, hop])]
  rw [State.touched_window] at hfull htop
  rw [State.touched_inboundOf] at hx
  have hpair : x.pair = ⟨h.src, h.srcBridle⟩ := congrArg Inbound.pair hx
  rw [hpair] at htop
  simp only [State.receiveRequest, hfull, ← hx, Nat.not_lt.mpr hage, Nat.not_le.mpr htop, State.touched_window, hfresh, hkind,
    show (9 : Nat) ≠ 8 by decide, if_false, if_true]

/-- What an inbound request keeps of its header. -/
theorem Incoming.epoch (hin : Incoming s b h data age t x) : x.epoch = h.flagEpoch := by
  obtain ⟨-, -, -, -, hx, -, -⟩ := hin
  exact congrArg Inbound.epoch hx

section
variable {i : Nat} {v : Ingress}

/-- The lease of a region is granted where it permits writes and has no live holder but the asker (R354). -/
theorem State.leaseRequest_granted (hentry : s.ingressOf x.job (x.addr / 2 ^ 21) = some (i, v))
    (hpermits : v.w0.bit 27 = true ∧ v.w0.bit 29 = true) (hfree : s.liveHolder v = none ∨ s.liveHolder v = some x.pair.src)
    (hop : x.epoch = 1 ∨ x.epoch = 2 ∧ v.cleared ≠ some x.pair.src) :
    s.leaseRequest x =
      (s.setIngress i { v with holder := some x.pair.src, expires := s.clk.bnd + 4001, cleared := none }).leaseStatus x true := by
  unfold State.leaseRequest
  rw [hentry]
  have hcleared : ¬ (x.epoch = 2 ∧ v.cleared = some x.pair.src) := by grind
  have hrelease : x.epoch ≠ 3 := by omega
  have hepoch : x.epoch = 1 ∨ x.epoch = 2 := by omega
  obtain ⟨hleased, hwrites⟩ := hpermits
  rcases hfree with hfree | hfree <;>
    simp only [hcleared, hrelease, hepoch, hleased, hwrites, hfree, if_false, Bool.and_self, beq_self_eq_true, and_self, if_true]

/-- The first RENEW by a holder whose lease an entry write has cleared is refused (R354). -/
theorem State.leaseRequest_cleared (hentry : s.ingressOf x.job (x.addr / 2 ^ 21) = some (i, v)) (hop : x.epoch = 2)
    (hcleared : v.cleared = some x.pair.src) :
    s.leaseRequest x = (s.setIngress i { v with cleared := none }).leaseStatus x false := by
  simp only [State.leaseRequest, hentry, hop, hcleared, and_self, if_true]

/-- A RELEASE is granted, and clears the record of the holder that asks (R355). -/
theorem State.leaseRequest_release (hentry : s.ingressOf x.job (x.addr / 2 ^ 21) = some (i, v)) (hop : x.epoch = 3) :
    s.leaseRequest x = (if v.holder = some x.pair.src then s.setIngress i { v with holder := none } else s).leaseStatus x true := by
  simp only [State.leaseRequest, hentry, hop, show (3 : Nat) ≠ 2 by decide, false_and, if_false, if_true]

end

end Sys2Proof.Machine

namespace Sys2Proof

open Machine

/-- Settles O33: a LEASE request that comes in is judged by the entry of its region; the holder's and the table's commands by theirs. -/
theorem leaseCommands : Obligations.LeaseCommands := by
  refine ⟨?acquire, ?renew, ?cleared, ?release, ?renewDue, ?holderExpiry, ?homeExpiry, ?cmdAcquire, ?cmdRelease, ?entryWrite, ?entryRead⟩
  case acquire =>
    intro b cyc h data age t x i v s hin hkind hop hentry hpermits hfree
    refine congrArg Host.Outcome.next ((State.takeHead_lease hin hkind hop).trans ?_)
    exact State.leaseRequest_granted hentry hpermits hfree (Or.inl ((Incoming.epoch hin).trans hop))
  case renew =>
    intro b cyc h data age t x i v s hin hkind hop hentry hpermits hfree hkept
    refine congrArg Host.Outcome.next ((State.takeHead_lease hin hkind hop).trans ?_)
    exact State.leaseRequest_granted hentry hpermits hfree (Or.inr ⟨(Incoming.epoch hin).trans hop, hkept⟩)
  case cleared =>
    intro b cyc h data age t x i v s hin hkind hop hentry hcleared
    refine congrArg Host.Outcome.next ((State.takeHead_lease hin hkind hop).trans ?_)
    exact State.leaseRequest_cleared hentry ((Incoming.epoch hin).trans hop) hcleared
  case release =>
    intro b cyc h data age t x i v s hin hkind hop hentry
    refine congrArg Host.Outcome.next ((State.takeHead_lease hin hkind hop).trans ?_)
    exact State.leaseRequest_release hentry ((Incoming.epoch hin).trans hop)
  case renewDue =>
    intro index s hheld hdue hunasked
    exact congrArg Host.Outcome.next (if_pos ⟨hheld, hdue, hunasked⟩)
  case holderExpiry =>
    intro index s hheld hdue
    exact congrArg Host.Outcome.next (if_pos ⟨hheld, hdue⟩)
  case homeExpiry =>
    intro index g s hholder hdue
    simp only [exec_leaseHomeExpiry, execLeaseHomeExpiry, hholder, Nat.not_lt.mpr hdue, if_false]
  case cmdAcquire =>
    rintro src cyc i s hmay rfl hnotHeld hnotAsked
    exact congrArg Host.Outcome.next ((if_pos hmay).trans (if_neg (not_or.mpr ⟨hnotHeld, hnotAsked⟩)))
  case cmdRelease =>
    rintro src cyc i s hmay rfl hheld
    exact congrArg Host.Outcome.next ((if_pos hmay).trans (if_pos hheld))
  case entryWrite =>
    intro src cyc s hmay hidle
    exact congrArg Host.Outcome.next ((if_pos hmay).trans (if_neg (Bool.eq_false_iff.mp hidle)))
  case entryRead =>
    rintro src v t s rfl hmay hidle rfl
    exact congrArg Host.Outcome.next ((if_pos hmay).trans (if_neg (Bool.eq_false_iff.mp hidle)))

end Sys2Proof
end

section
/-! Held FLAG_STOREs, flag-store epochs and atomic results (R358, R366 to R369). -/

namespace Sys2Proof

open Machine

/-- Settles O34: each command finds what it releases, abandons or forgets by its name, and goes by its count or its age. -/
theorem flagStoreCommands : Obligations.FlagStoreCommands := by
  refine ⟨?release, ?expired, ?idleFree, ?resultExpiry, ?useClear⟩
  case release =>
    intro source b seq x e s hheld hentry hcount
    simp only [exec_flagStoreRelease, execFlagStoreRelease, hheld, hentry, Nat.not_lt.mpr hcount, if_false]
  case expired =>
    intro source b seq cyc x s hheld hage
    simp only [exec_flagStoreExpired, execFlagStoreExpired, hheld, hage, if_true]
  case idleFree =>
    intro source b port job epoch cyc s hunheld
    exact congrArg Host.Outcome.next (if_neg (Bool.eq_false_iff.mp hunheld))
  case resultExpiry =>
    intro source b seq cyc s
    rfl
  case useClear =>
    rintro b port job target epoch cyc k v t s rfl rfl huse hpast hdue
    have hcurrent : ¬ ((((s.advance cyc).stream ⟨b, port.val, job.toNat, target.val⟩).epoch == epoch.toNat &&
        decide (0 < ((s.advance cyc).stream ⟨b, port.val, job.toNat, target.val⟩).sent)) = true ∨ (s.advance cyc).now < k + 64000) := by
      simp only [Bool.and_eq_true, beq_iff_eq, decide_eq_true_eq]
      omega
    simp only [exec_flagEpochUseClear, execFlagEpochUseClear, huse, hcurrent, if_false]

end Sys2Proof
end

section
/-! Advertisements, the rack map, and the routing tables (R376, R377, R383, R384, R386). -/

namespace Sys2Proof.Machine

variable {s : State} {team : Nat} {a b : Advert}

/-- An advertisement that tells nothing new of its sender's epoch is kept, and its sender noted where it has drained (R376). -/
theorem State.takeAdvert_quiet (ha : a = { b with went := s.routing.goes team b })
    (hquiet : s.routing.otherEpoch a = false ∨ s.routing.missed = true) :
    s.takeAdvert team b = s.setRouting { s.routing with
      adverts := s.routing.adverts.put team a
      drained := if s.routing.saysDrained a then s.routing.drained ++ [a.sender] else s.routing.drained } := by
  subst ha
  have hmiss : ((s.routing.goes team b) && s.routing.otherEpoch { b with went := s.routing.goes team b } && !s.routing.missed) = false := by
    rcases hquiet with h | h <;> simp [h]
  simp only [State.takeAdvert, hmiss, Bool.or_false, Bool.false_eq_true, if_false]

/-- The first advertisement of a peer that has gone to the other epoch logs the miss (R376, R384). -/
theorem State.takeAdvert_miss (ha : a = { b with went := s.routing.goes team b }) (hwent : a.went = true)
    (hother : s.routing.otherEpoch a = true) (hfirst : s.routing.missed = false) (hundrained : s.routing.saysDrained a = false) :
    s.takeAdvert team b = (s.setRouting { s.routing with
      adverts := s.routing.adverts.put team a, missed := true }).logFault Flt.FAB_EPOCH_MISS blkFAB b.sender := by
  subst ha
  dsimp only at hwent
  have hmiss : ((s.routing.goes team b) && s.routing.otherEpoch { b with went := s.routing.goes team b } && !s.routing.missed) = true := by
    rw [hother, hfirst, hwent]
    rfl
  simp only [State.takeAdvert, hmiss, hundrained, Bool.or_true, Bool.false_eq_true, if_false, if_true]

end Sys2Proof.Machine

namespace Sys2Proof

open Machine

/-- Settles O35: an advertisement goes by the epoch it names and what it says is drained, an operation of the tables by their states. -/
theorem routingCommands : Obligations.RoutingCommands := by
  refine ⟨?advert, ?gone, ?drained, ?stale, ?write, ?arm, ?disarm, ?switch, ?drainTimeout⟩
  case advert =>
    intro team sender stride master aligned epoch drained generation teams relay a s ha hquiet hundrained
    refine congrArg Host.Outcome.next ((State.takeAdvert_quiet ha hquiet).trans ?_)
    simp only [hundrained, Bool.false_eq_true, if_false]
  case gone =>
    intro team sender stride master aligned epoch drained generation teams relay a s ha hwent hother hfirst hundrained
    exact congrArg Host.Outcome.next (State.takeAdvert_miss ha hwent hother hfirst hundrained)
  case drained =>
    intro team sender stride master aligned epoch drained generation teams relay a s ha hdrained hsame
    refine congrArg Host.Outcome.next ((State.takeAdvert_quiet ha (Or.inl hsame)).trans ?_)
    simp only [hdrained, if_true]
    rw [ha]
  case stale =>
    intro index e s hentry hage
    simp only [exec_rackMapEntryStale, execRackMapEntryStale, hentry, hage, if_true]
  case write =>
    rintro src val e i s hmay rfl rfl heditable hword
    refine congrArg Host.Outcome.next ((if_pos hmay).trans ?_)
    simp only [State.writeTable, heditable, hword, if_true]
  case arm =>
    rintro src t s hmay rfl heditable
    exact congrArg Host.Outcome.next ((if_pos hmay).trans (if_pos heditable))
  case disarm =>
    rintro src t s hmay rfl harmed hnone
    exact congrArg Host.Outcome.next ((if_pos hmay).trans (if_pos ⟨harmed, hnone⟩))
  case switch =>
    rintro src t s hmay rfl harmed hahead hnear
    have hstride : ¬ ((s.reg Reg.FAB_RT_AT - BitVec.ofNat 32 s.clk.stride.toNat).toNat < 16 ∨
        2 ^ 31 ≤ (s.reg Reg.FAB_RT_AT - BitVec.ofNat 32 s.clk.stride.toNat).toNat) := not_or.mpr ⟨Nat.not_lt.mpr hahead, Nat.not_le.mpr hnear⟩
    exact congrArg Host.Outcome.next ((if_pos hmay).trans ((if_neg (not_not.mpr harmed)).trans (if_neg hstride)))
  case drainTimeout =>
    intro s hsince
    exact congrArg Host.Outcome.next (if_pos hsince)

end Sys2Proof
end

section
/-! Codewords, link frames and time-outs of a Bridle's strands (R397, R398, R402, R406, R407, R503, R504). -/

namespace Sys2Proof

open Machine

/-- Settles O37: a codeword goes by its lane, its opening and its kind; the time-outs and link frames by what the strand has noted. -/
theorem codewordCommands : Obligations.CodewordCommands := by
  refine ⟨?receive, ?undecodable, ?gap, ?retransmit, ?linkFrame, ?beaconLoss, ?exhausted⟩
  case receive =>
    rintro b l cw cyc n csym h flits t v w s rfl hstrand hteam rfl hup hopened hdata rfl hsymbols
    dsimp only at hsymbols
    have hlive : ¬ (((s.advance cyc).lane b l).link = .down ∨ ((s.advance cyc).lane b l).link = .failed) := by simp [hup]
    have hlinked : ¬ ((s.advance cyc).lane b l).link ≠ .up := not_not.mpr hup
    simp only [exec_codewordReceive, execCodewordReceive, hstrand, hlive, hopened, hdata, hlinked, Nat.not_le.mpr hteam,
      Nat.not_lt.mpr hsymbols, Bool.false_eq_true, if_false]
  case undecodable =>
    rintro b l cw cyc n t v s rfl hstrand rfl hup hopened hbad hucw
    have hlive : ¬ (((s.advance cyc).lane b l).link = .down ∨ ((s.advance cyc).lane b l).link = .failed) := by simp [hup]
    have hlinked : ¬ ((s.advance cyc).lane b l).link ≠ .up := not_not.mpr hup
    simp only [exec_codewordReceive, execCodewordReceive, hstrand, hlive, hopened, hlinked, Nat.not_le.mpr hbad, Nat.not_le.mpr hucw,
      decide_false, Bool.and_false, Bool.not_false, Bool.and_true, Bool.false_eq_true, or_self, if_false]
  case gap =>
    intro b n cyc k s hgap hdue
    simp only [exec_codewordGapNak, execCodewordGapNak, hgap, hdue, if_true]
  case retransmit =>
    intro b n seq cyc u s hsent hdue
    simp only [exec_codewordRetxTimeout, execCodewordRetxTimeout, hsent, hdue, if_true]
  case linkFrame =>
    rintro b n ack freed cyc t v u rest s rfl rfl hunacked
    simp only [exec_bridleLinkFrame, execBridleLinkFrame, State.takeLinkFrame, hunacked, Option.map_none, Option.map_some, implies_true,
      and_self]
  case beaconLoss =>
    intro b n s hsilent
    exact congrArg Host.Outcome.next (if_pos hsilent)
  case exhausted =>
    rintro b n cyc l rest t s rfl hencrypted hcounter hfirst hlanes
    simp only [exec_linkCounterExhaust, execLinkCounterExhaust, hencrypted, hcounter, hfirst, hlanes, Bool.not_false, and_self, if_true]

end Sys2Proof
end

section
/-! The lanes of a Bridle: suspension, IDENT frames and training (R374, R388, R406, R408 to R410, R503). -/

namespace Sys2Proof

open Machine

/-- Settles O38: each command finds its lane in the state it asks for. -/
theorem laneCommands : Obligations.LaneCommands := by
  refine ⟨?drop, ?resume, ?suspended, ?ident, ?trained, ?attemptFailed, ?retry, ?retrain⟩
  case drop =>
    rintro b l cyc n t s hsending hstrand rfl
    simp only [exec_laneDrop, execLaneDrop, State.takeDrop, hsending, hstrand, Bool.false_eq_true, if_false]
  case resume =>
    intro b l cyc s hsuspended
    exact congrArg Host.Outcome.next (if_pos hsuspended)
  case suspended =>
    intro b l k s hsince hdue
    simp only [exec_laneSuspendTimeout, execLaneSuspendTimeout, hsince, hdue, if_true]
  case ident =>
    rintro b l z index pb pl admitted serial tx echo turn arrival ex s htraining rfl
    exact congrArg Host.Outcome.next (if_neg (not_not.mpr htraining))
  case trained =>
    intro b l p s htraining hadmitted hpeer hpeerAdmitted hexchanges hkeyed
    have hkeys : (!decide (s.link.on = true ∧ s.flt.deferred.contains .bootCount = true)) = true := by
      rcases hkeyed with h | h <;> simp only [h, Bool.false_eq_true, false_and, and_false, decide_false, Bool.not_false]
    refine congrArg Host.Outcome.next (if_pos ⟨htraining, hadmitted, ?_, hexchanges, hkeys⟩)
    rw [hpeer]
    exact hpeerAdmitted
  case attemptFailed =>
    intro b l cyc k s hsince htraining hnotUp hdue
    simp only [exec_laneTrainingTimeout, execLaneTrainingTimeout, hsince, htraining, hnotUp, hdue, Bool.not_false, and_self, if_true]
  case retry =>
    intro b l cyc k s hretry hdue halive
    simp only [exec_laneTrainingRetry, execLaneTrainingRetry, hretry, hdue, halive, and_self, if_true, State.enterTraining]
  case retrain =>
    intro src b l cyc s hmay
    exact congrArg Host.Outcome.next (if_pos hmay)

end Sys2Proof
end

section
/-! The PCI Express port: its link, resets, accesses and time-outs (R412 to R419). -/

namespace Sys2Proof.Machine

variable {s : State} {fn : Fin 64}

/-- A BAR4 access of a function with a job, within its window and to memory that exists, is made (R416). -/
theorem State.bar4_hit {off base : Nat} {req : HostRequest} (hjob : fn.val = 0 ∨ s.fnJob fn ≠ 0) (hwindow : s.windowBase fn = some base)
    (hregion : s.regionOf (base + off) (hostLength req) ≠ .hole) :
    s.bar4 fn off req = s.hostAccess fn (engineAccess (s.fnJob fn) blkPCI) (base + off) req := by
  have hallowed : ¬ (fn.val ≠ 0 ∧ s.fnJob fn = 0) := by tauto
  have hmapped : (s.regionOf (base + off) (hostLength req) == .hole) = false := beq_eq_false_iff_ne.mpr hregion
  simp only [State.bar4, hallowed, hwindow, Option.getD_some, Option.isNone_some, hmapped, Bool.or_self, Bool.false_eq_true, if_false]

end Sys2Proof.Machine

namespace Sys2Proof

open Machine

/-- Settles O39: the link's commands set what it shows, an access goes by the link and its function, a time-out by the read it names. -/
theorem pciCommands : Obligations.PciCommands := by
  refine ⟨?assert, ?down, ?deassert, ?up, ?functionReset, ?bar0Write, ?bar0Read, ?bar0Partial, ?bar4, ?bar2Write, ?bar2Read, ?timeout⟩
  case assert =>
    intro t s ht
    rw [exec_perstAssert, execPerstAssert, ← ht]
  case down =>
    intro s hreleased
    exact congrArg Host.Outcome.next (if_neg (Bool.eq_false_iff.mp hreleased))
  case deassert =>
    intro s
    rw [exec_perstDeassert, execPerstDeassert]
  case up =>
    intro width speed flit s hreleased
    exact congrArg Host.Outcome.next (if_neg (Bool.eq_false_iff.mp hreleased))
  case functionReset =>
    rintro fn cyc t u s rfl rfl
    rw [exec_functionLevelReset, execFunctionLevelReset]
  case bar0Write =>
    intro off val cyc s hup
    simp only [exec_bar0Access, execBar0Access, hup, Bool.not_true, Bool.false_eq_true, if_false, if_true, State.bar0]
  case bar0Read =>
    rintro off cyc t s hup rfl
    simp only [exec_bar0Access, execBar0Access, hup, Bool.not_true, Bool.false_eq_true, if_false, if_true, State.bar0]
  case bar0Partial =>
    rintro off write cyc t s hup rfl
    simp only [exec_bar0Access, execBar0Access, hup, Bool.not_true, Bool.false_eq_true, if_false]
  case bar4 =>
    rintro fn off req cyc base t s hup hoff rfl hjob hwindow hregion
    have hadmitted : ¬ (!(s.advance cyc).pciUp || (fn.val != 0 && decide (2 ^ 32 ≤ off.toNat))) = true := by
      rw [hup]
      rcases hoff with h | h
      · simp [h]
      · rw [decide_eq_false (Nat.not_le.mpr h), Bool.and_false]
        decide
    exact congrArg Host.Outcome.next ((if_neg hadmitted).trans (State.bar4_hit hjob hwindow hregion))
  case bar2Write =>
    rintro fn off val cyc t s hup rfl hjob
    have hallowed : ¬ (fn.val ≠ 0 ∧ ((s.advance cyc).bump Reg.PCI_CNT_n 1).fnJob fn = 0) := by tauto
    simp only [exec_bar2RingDoorbell, execBar2RingDoorbell, hup, Bool.not_true, Bool.false_eq_true, if_false, hallowed]
  case bar2Read =>
    rintro fn off cyc t s hup rfl
    simp only [exec_bar2RingDoorbell, execBar2RingDoorbell, hup, Bool.not_true, Bool.false_eq_true, if_false]
  case timeout =>
    rintro id aborted cyc r t s hread hlate rfl
    have hover : ¬ (!aborted && decide ((s.advance cyc).now < r.sent + 10000000)) = true := by
      rcases hlate with h | h
      · simp [h]
      · simp [Nat.not_lt.mpr h]
    simp only [exec_hostReadTimeout, execHostReadTimeout, hread, hover]
    rfl

end Sys2Proof
end

section
/-! The management ports: I3C, the UART and JTAG (R420, R467, R491, R494). -/

namespace Sys2Proof

open Machine

/-- Settles O40: each access meets the conditions of its port. -/
theorem managementCommands : Obligations.ManagementCommands := by
  refine ⟨?offset, ?read, ?write, ?refused, ?uartRead, ?uartLog, ?uartWrite, ?jtag⟩
  case offset =>
    intro off s hsupply hfree
    simp only [exec_i3cOffsetWrite, execI3cOffsetWrite, hsupply, hfree, Bool.not_true, Bool.false_eq_true, if_false]
  case read =>
    rintro t s hsupply hfree haligned rfl
    simp only [exec_i3cRegisterRead, execI3cRegisterRead, hsupply, hfree, haligned, ne_eq, not_true_eq_false, Bool.not_true,
      Bool.false_eq_true, or_self, if_false]
  case write =>
    intro off val cyc s hsupply hfree haligned hmay
    simp only [exec_i3cRegisterWrite, execI3cRegisterWrite, hsupply, hfree, haligned, hmay, Bool.not_true, Bool.not_false,
      Bool.false_eq_true, and_self, if_false, if_true]
  case refused =>
    intro off val cyc s hsupply hrefused
    have hnot : ¬ ((!(s.advance cyc).groom.overlap) = true ∧ off.toNat % 4 = 0 ∧ (s.advance cyc).mayWrite .i3c off.toNat = true) := by
      rintro ⟨hfree, haligned, hmay⟩
      rcases hrefused with h | h | h
      · rw [h] at hfree
        cases hfree
      · exact h haligned
      · rw [hmay] at h
        cases h
    exact congrArg Host.Outcome.next ((if_neg (by simpa using hsupply)).trans (if_neg hnot))
  case uartRead =>
    intro off s hsupply hmay
    simp only [exec_uartReadCommand, execUartReadCommand, hsupply, if_true, State.readFor, hmay, Bool.not_true, Bool.false_eq_true, if_false]
  case uartLog =>
    intro count s hsupply hlevel
    simp only [exec_uartLogCommand, execUartLogCommand, hsupply, hlevel, decide_true, Bool.and_self, if_true]
  case uartWrite =>
    intro off val cyc s hsupply
    exact congrArg Host.Outcome.next (if_pos hsupply)
  case jtag =>
    intro a n bs g s hlevel
    simp only [exec_jtagMemoryAccess, execJtagMemoryAccess, hlevel, ne_eq, not_true_eq_false, if_false, and_self]

end Sys2Proof
end

section
/-! Bring-up: module starts, firmware blocks, the rollback counter, and restarts of Reckoners (R422 to R428, R440 to R448). -/

namespace Sys2Proof.Machine

variable {s t : State} {r : StartReport}

/-- Where both slots verify, the one of the higher version is booted, slot A at equal ones (R427). -/
theorem State.bootSlot_of_both (hA : t.slotVerifies r.slotA = true) (hB : t.slotVerifies r.slotB = true) :
    t.bootSlot r = some (if r.slotA.version < r.slotB.version then (true, r.slotB) else (false, r.slotA)) := by
  simp only [State.bootSlot, hA, hB]
  split_ifs <;> rfl

/-- A module start that is not held begins with fresh straps (R422). -/
theorem not_held_of_phase (hphase : s.groom.phase ≠ 3) : ¬ (s.groom.phase = 3 ∧ s.sup.startDue = true) := fun h => hphase h.1

/-- The start of a module with keys, whose slots both verify and which has a Groom, starts its units (R424). -/
theorem State.moduleStart_booted {b : Bool} {x : SlotReport} {u : State} (hphase : s.groom.phase ≠ 3)
    (ht : t = (s.fresh.latchStraps r).leaveReset r) (hkeys : t.sec.lifecycle ≠ 0) (hA : t.slotVerifies r.slotA = true)
    (hB : t.slotVerifies r.slotB = true) (hgroom : r.groom0 = true ∨ r.groom1 = true)
    (hslot : (b, x) = (if r.slotA.version < r.slotB.version then (true, r.slotB) else (false, r.slotA)))
    (hu : u = t.bootGrooms r.groom0 r.groom1 b x false) (hcool : u.startHeld = false) (hsound : r.faulty = false) :
    s.moduleStart r = u.startUnits r := by
  have hsome : (!r.groom0 && !r.groom1) = false := by rcases hgroom with h | h <;> simp [h]
  have hboot : t.bootSlot r = some (b, x) := (State.bootSlot_of_both hA hB).trans (congrArg some hslot.symm)
  simp only [State.moduleStart, not_held_of_phase hphase, if_false, ← ht, hkeys, hA, hB, true_or, if_true, hboot, hsome,
    decide_false, ← hu, hcool, hsound, Bool.false_eq_true]

/-- The start of a blank module stops at phase 9 (R424). -/
theorem State.moduleStart_blank (hphase : s.groom.phase ≠ 3) (ht : t = (s.fresh.latchStraps r).leaveReset r)
    (hblank : t.sec.lifecycle = 0) : s.moduleStart r = t.startPhase 9 := by
  simp only [State.moduleStart, not_held_of_phase hphase, if_false, ← ht, hblank, if_true]

end Sys2Proof.Machine

namespace Sys2Proof

open Machine

/-- Settles O41: a start goes by what it finds, a block by its checks, a commit and a reset by whether they are admitted. -/
theorem bringUpCommands : Obligations.BringUpCommands := by
  refine ⟨?start, ?blank, ?stepTimeout, ?block, ?repair, ?commit, ?clear, ?reset, ?restart⟩
  case start =>
    intro r b x t u s hmay hphase ht hkeys hA hB hgroom hslot hu hcool hsound
    exact congrArg Host.Outcome.next
      ((if_pos hmay).trans (State.moduleStart_booted hphase ht hkeys hA hB hgroom hslot hu hcool hsound))
  case blank =>
    intro r t s hmay hphase ht hblank
    exact congrArg Host.Outcome.next ((if_pos hmay).trans (State.moduleStart_blank hphase ht hblank))
  case stepTimeout =>
    intro unit s hwaiting
    exact congrArg Host.Outcome.next (if_pos hwaiting)
  case block =>
    intro c b bs good s hstarting hloading hbs hgood
    have hgo : ¬ ((s.unit (.core c)).st ≠ .starting ∨ (s.core c).load = .loaded) := by simp [hstarting, hloading]
    rw [exec_firmwareBlockReceived, execFirmwareBlockReceived, State.takeBlock, if_neg hgo, hgood, hbs]
  case repair =>
    intro r image s
    rw [exec_firmwareRepairCheck, execFirmwareRepairCheck]
  case commit =>
    intro src s hmay hready hhigher
    have hgo : ¬ ((!s.groom.ready) = true ∨ s.groom.outIndex ≤ s.groom.rollback) := by simp [hready, hhigher]
    exact congrArg Host.Outcome.next ((if_pos hmay).trans (if_neg hgo))
  case clear =>
    intro src s hmay
    exact congrArg Host.Outcome.next (if_pos hmay)
  case reset =>
    rintro src val cyc t s rfl hmay hset hmask hready hclash
    refine congrArg Host.Outcome.next ((if_pos hmay).trans ?_)
    simp only [State.writeRstCtl, hset, hmask, hready, hclash, Bool.not_true, Bool.or_self, Bool.false_eq_true, if_false]
  case restart =>
    intro r cyc k s hsince hdue hstarting
    simp only [exec_reckonerRestartTimeout, execReckonerRestartTimeout, hsince, Nat.not_lt.mpr hdue, hstarting, ne_eq,
      not_true_eq_false, or_self, if_false]

end Sys2Proof
end

section
/-! The Grooms: fail-stop, the management gate, fail-over, the planned switch and restarts (R450, R451, R464 to R471). -/

namespace Sys2Proof.Machine

variable {s t : State} {g : Fin 2}

/-- The standby takes over from an ACTIVE Groom that fails, under the next epoch (R466). -/
theorem State.activeFails_standby (hrole : s.role g = .active) (hother : s.role (otherGroom g) = .standby)
    (ht : t = s.setRole (otherGroom g) .active) :
    let u : State := { t with groom := { t.groom with
      active := decide (otherGroom g = 1), epoch := t.groom.epoch + 1
      switchovers := min (t.groom.switchovers + 1) 65535, overlap := true } }
    s.activeFails g = ((u.logFault Flt.GRM_SWITCHOVER blkGRM 0).farCount 5).groomLost g := by
  simp only [State.activeFails, hrole, hother, ← ht]

/-- The other Groom of a dual pair goes on alone (R465). -/
theorem State.activeFails_dual (hrole : s.role g = .dual) (hother : s.role (otherGroom g) = .dual)
    (ht : t = s.setRole (otherGroom g) .active) :
    s.activeFails g = ({ t with groom := { t.groom with active := decide (otherGroom g = 1) } } : State).groomLost g := by
  simp only [State.activeFails, hrole, hother, ← ht]

/-- Without another Groom the module fail-stops (R450). -/
theorem State.activeFails_alone (hrole : s.role g = .active ∨ s.role g = .dual) (hother : s.role (otherGroom g) = .absent) :
    s.activeFails g = (s.setRole g .absent).moduleFatal blkGRM := by
  rcases hrole with h | h <;> simp only [State.activeFails, h, hother]

end Sys2Proof.Machine

namespace Sys2Proof

open Machine

/-- Settles O43: a Groom that fails is judged by its role and the other's, an action by the gate's epoch and journal. -/
theorem groomCommands : Obligations.GroomCommands := by
  refine ⟨?failStop, ?action, ?standby, ?dual, ?alone, ?planned, ?standbyLost, ?restart⟩
  case failStop =>
    intro block t s hrunning ht
    have hfatal : s.moduleFatal block = (t.logFault Flt.GRM_MODULE_FATAL blkGRM block.toNat).updateGrade := by
      simp only [State.moduleFatal, hrunning, Bool.false_eq_true, if_false, ← ht]
    exact congrArg Host.Outcome.next hfatal
  case action =>
    rintro g epoch seq off val cyc t s rfl hsupply hepoch hnew
    have hadmitted : ¬ (!(s.advance cyc).sup.vstby || epochOlder (s.advance cyc).groom.epoch epoch ||
        (s.advance cyc).groom.journal.contains seq.toNat) = true := by
      rw [hsupply, hepoch, hnew]
      decide
    exact congrArg Host.Outcome.next (if_neg hadmitted)
  case standby =>
    intro g t s hrole hother ht
    have hfails := State.activeFails_standby hrole hother ht
    exact ⟨congrArg Host.Outcome.next hfails, congrArg Host.Outcome.next hfails⟩
  case dual =>
    intro g t s hrole hother ht
    have hfails := State.activeFails_dual hrole hother ht
    exact ⟨congrArg Host.Outcome.next hfails, congrArg Host.Outcome.next hfails⟩
  case alone =>
    intro g s hrole hother
    have hfails := State.activeFails_alone hrole hother
    exact ⟨congrArg Host.Outcome.next hfails, congrArg Host.Outcome.next hfails⟩
  case planned =>
    rintro src cyc t s rfl hmay hstandby
    exact congrArg Host.Outcome.next ((if_pos hmay).trans (if_pos hstandby))
  case standbyLost =>
    intro g s hstandby
    simp only [exec_standbyHealthTimeout, execStandbyHealthTimeout, hstandby]
  case restart =>
    intro g s hrestarting
    simp only [exec_groomRestartComplete, execGroomRestartComplete, hrestarting, ne_eq, not_true_eq_false, if_false, if_true,
      Bool.false_eq_true, and_self]

end Sys2Proof
end

section
/-! Power states, and the loss and return of supplies and of the module reset (R422, R480, R486, R488, R533, R536). -/

namespace Sys2Proof

open Machine

/-- Settles O45: a target is judged by its value, a step by its readiness, and each supply sets its own range before what follows. -/
theorem powerAndSupplyCommands : Obligations.PowerAndSupplyCommands := by
  refine ⟨?target, ?step, ?vin, ?rail, ?vlasLoss, ?vlasReturn, ?vstbyLoss, ?vstbyReturn, ?modReset⟩
  case target =>
    rintro src val cyc t s rfl hmay
    exact congrArg Host.Outcome.next (if_pos hmay)
  case step =>
    intro n s hmoving hready
    simp only [exec_powerStateStepComplete, execPowerStateStepComplete, hmoving, hready, Bool.not_true, Bool.false_eq_true, if_false]
  case vin =>
    intro s
    rw [exec_vin48Loss, execVin48Loss]
  case rail =>
    intro s
    simp only [exec_analogRailLoss, execAnalogRailLoss, Bool.false_eq_true, if_false, if_true, and_self]
  case vlasLoss =>
    intro s
    rw [exec_vlas12Loss, execVlas12Loss]
  case vlasReturn =>
    intro s hlost
    exact congrArg Host.Outcome.next (if_neg (Bool.eq_false_iff.mp hlost))
  case vstbyLoss =>
    intro t s ht
    rw [exec_vstbyLoss, execVstbyLoss, ← ht]
  case vstbyReturn =>
    intro s hlost
    exact congrArg Host.Outcome.next (if_neg (Bool.eq_false_iff.mp hlost))
  case modReset =>
    intro t s ht
    rw [exec_modResetAssert, execModResetAssert, ← ht]
    rfl

end Sys2Proof
end

section
/-! Debug authorisation, its data port, and the end of a zeroisation (R489 to R499). -/

namespace Sys2Proof.Machine

variable {s t : State} {src : Source} {val w : Word}

/-- The operation of a write of SEC_DBG_CTL, read back from it. -/
theorem field_setField_debugOp (w : Word) {op : Nat} (h : op < 8) : (w.setField 24 22 op).field 24 22 = op := by
  have := w.isLt
  simp only [Word.field, Word.setField, BitVec.toNat_ofNat]
  omega

/-- A writer of SEC_DBG_CTL has the word taken with its operation in its field (R492). -/
theorem State.debugWrite_allowed {op : Nat} (hmay : s.mayWrite src Reg.SEC_DBG_CTL = true) (hw : w = val.setField 24 22 op) :
    s.debugWrite src val op = s.writeDebug w := by
  rw [hw]
  exact if_pos hmay

section
variable (ht : t = s.setReg Reg.SEC_DBG_CTL (w &&& 0x3E000000))
include ht

theorem State.writeDebug_challenge (hop : w.field 24 22 = 1) : s.writeDebug w = t.challengeOp w := by
  simp only [State.writeDebug, hop, ← ht]

theorem State.writeDebug_submit (hop : w.field 24 22 = 2) : s.writeDebug w = t.submitOp := by
  simp only [State.writeDebug, hop, ← ht]

theorem State.writeDebug_revoke (hop : w.field 24 22 = 3) : s.writeDebug w = t.revokeOp w := by
  simp only [State.writeDebug, hop, ← ht]

theorem State.writeDebug_provision (hop : w.field 24 22 = 4) : s.writeDebug w = t.provisionOp := by
  simp only [State.writeDebug, hop, ← ht]

theorem State.writeDebug_pubkey (hop : w.field 24 22 = 5) : s.writeDebug w = t.pubkeyOp := by
  simp only [State.writeDebug, hop, ← ht]

end

/-- SUBMIT in the time of its challenge is verified with the key that grants what was asked (R492). -/
theorem State.submitOp_open {block hash : List Word} {u : Nat} (hchallenge : t.sec.challenge = some (block, u)) (htime : t.clk.bnd < u)
    (hkey : t.keyFor t.sec.request = some hash) :
    t.submitOp = if submissionGood hash block (t.sec.writeFifo.take 49) then t.submitGood t.sec.request else t.submitFails := by
  simp only [State.submitOp, hchallenge, Nat.not_le.mpr htime, if_false, hkey]

/-- REVOKE below the present level lowers it (R493). -/
theorem State.revokeOp_below (hkeys : t.sec.lifecycle ≠ 0) (hcalm : t.sec.zeroising = false) (hbelow : w.field 29 28 < t.sec.level) :
    t.revokeOp w = ({ t with sec := { t.sec with level := w.field 29 28 } } : State).setStatus 0 := by
  simp only [State.revokeOp, hkeys, hcalm, hbelow, Bool.false_eq_true, false_and, if_false, if_true]

end Sys2Proof.Machine

namespace Sys2Proof

open Machine

/-- Settles O46: an operation is taken by its number and goes by the lifecycle, the keys and the challenge; the rest by what is held. -/
theorem debugCommands : Obligations.DebugCommands := by
  refine ⟨?challenge, ?submit, ?revoke, ?provision, ?pubkey, ?dataRead, ?dataEmpty, ?dataWrite, ?challengeExpiry, ?lockoutExpiry,
    ?zeroised⟩
  case challenge =>
    intro src val w t s hmay hw ht hopen hkey
    refine congrArg Host.Outcome.next ((State.debugWrite_allowed hmay hw).trans ?_)
    rw [State.writeDebug_challenge ht (hw ▸ field_setField_debugOp val (by decide)), State.challengeOp]
    simp only [hopen, hkey, Bool.false_eq_true, if_false]
  case submit =>
    intro src val cyc block u hash w t s hmay hw ht hchallenge htime hkey
    refine congrArg Host.Outcome.next ((State.debugWrite_allowed hmay hw).trans ?_)
    rw [State.writeDebug_submit ht (hw ▸ field_setField_debugOp val (by decide))]
    exact State.submitOp_open hchallenge htime hkey
  case revoke =>
    intro src val w t s hmay hw ht hkeys hcalm hbelow
    refine congrArg Host.Outcome.next ((State.debugWrite_allowed hmay hw).trans ?_)
    rw [State.writeDebug_revoke ht (hw ▸ field_setField_debugOp val (by decide))]
    exact State.revokeOp_below hkeys hcalm hbelow
  case provision =>
    intro src val w t s hmay hw ht hblank hotp hwords
    refine congrArg Host.Outcome.next ((State.debugWrite_allowed hmay hw).trans ?_)
    rw [State.writeDebug_provision ht (hw ▸ field_setField_debugOp val (by decide)), State.provisionOp]
    simp only [hblank, hotp, Nat.not_lt.mpr hwords, ne_eq, not_true_eq_false, or_self, if_false]
  case pubkey =>
    intro src val w t s hmay hw ht
    refine congrArg Host.Outcome.next ((State.debugWrite_allowed hmay hw).trans ?_)
    rw [State.writeDebug_pubkey ht (hw ▸ field_setField_debugOp val (by decide)), State.pubkeyOp]
  case dataRead =>
    intro src w rest s hmay hread
    simp only [exec_authDataRead, execAuthDataRead, hmay, if_true, State.readAuth, hread]
  case dataEmpty =>
    intro src s hmay hread
    simp only [exec_authDataRead, execAuthDataRead, hmay, if_true, State.readAuth, hread]
  case dataWrite =>
    intro src val s hmay
    exact congrArg Host.Outcome.next (if_pos hmay)
  case challengeExpiry =>
    intro c b s hchallenge hdue
    simp only [exec_challengeExpiry, execChallengeExpiry, hchallenge, Nat.not_lt.mpr hdue, if_false]
  case lockoutExpiry =>
    intro b s hlockout hdue
    simp only [exec_authLockoutExpiry, execAuthLockoutExpiry, hlockout, Nat.not_lt.mpr hdue, if_false]
  case zeroised =>
    intro k t u s hzeroising hpower hwait hzeroed ht hu
    simp only [exec_zeroisationComplete, execZeroisationComplete, hzeroising, hpower, hwait, hzeroed, Bool.not_true, Bool.false_eq_true,
      if_false, ← ht, ← hu, and_self]

end Sys2Proof
end

section
/-! Patrols, refresh management, training bursts and soft row repair (R220, R230 to R233). -/

namespace Sys2Proof

open Machine

/-- Settles O48: a patrol goes by the errors that a word or line holds and by whether it may be read, the stack's commands by its state. -/
theorem memoryMaintenanceCommands : Obligations.MemoryMaintenanceCommands := by
  refine ⟨?tallyPatrol, ?tallyClean, ?scrub, ?refresh, ?retrain, ?burst, ?burstGood, ?burstFailed, ?repair⟩
  case tallyPatrol =>
    rintro c word errs a e s rfl rfl herrs hup
    refine congrArg Host.Outcome.next ((if_neg (not_or.mpr ⟨hup, herrs⟩)).trans ?_)
    simp only [Bool.not_eq_true']
  case tallyClean =>
    intro c word s hclean
    have hnone : max (0 : Fin 3).val (s.dram.tallyErr.getD (tallyAddr c (8 * word.val)) 0) = 0 := by rw [hclean]; rfl
    exact congrArg Host.Outcome.next (if_pos (Or.inr hnone))
  case scrub =>
    rintro line errs n e s rfl rfl herrs hline
    refine congrArg Host.Outcome.next ((if_neg (not_or.mpr ⟨Nat.not_le.mpr hline, herrs⟩)).trans ?_)
    simp only [Bool.not_eq_true']
  case refresh =>
    rintro k bank v s rfl hon hkept
    exact congrArg Host.Outcome.next (if_pos (by rw [hon, hkept]; rfl))
  case retrain =>
    rintro k links v period s rfl rfl hon hkept hstate hidle hasked
    refine congrArg Host.Outcome.next (if_pos ?_)
    have hwhy : (decide (16 * s.tempDelta ≤ (s.stackTemp k - (s.stack k).lastTemp).natAbs) ||
        decide (s.regF Reg.MEM_TRAIN_CTL 15 0 ≠ 0 ∧ (s.stack k).lastRetrain + s.regF Reg.MEM_TRAIN_CTL 15 0 * 2 ^ 20 ≤ s.clk.bnd) ||
        links) = true := by
      simp only [Bool.or_eq_true, decide_eq_true_eq]
      tauto
    rw [hwhy, hon, hkept, hidle, bne_iff_ne.mpr hstate]
    rfl
  case burst =>
    rintro k channel v s rfl hstate hon hkept hquiet hwork hgap hroom
    exact congrArg Host.Outcome.next (if_pos ⟨hstate, hon, by rw [hkept]; rfl, hquiet, hwork, hgap, hroom⟩)
  case burstGood =>
    rintro k ch v w s rfl hburst rfl
    have hlast : ((s.stack k).burstLeft - 1 = 0 ∧ 0 < (s.stack k).burstLeft) ↔ (s.stack k).burstLeft = 1 := by omega
    simp only [exec_trainingBurstComplete, execTrainingBurstComplete, hburst, if_true, hlast]
  case burstFailed =>
    rintro k ch n v t s rfl hburst rfl ht
    simp only [exec_trainingBurstComplete, execTrainingBurstComplete, hburst, Bool.false_eq_true, if_false, ← ht]
  case repair =>
    rintro line spare left k row v w t s rfl rfl rfl hcandidate hkept hauto hchannel rfl ht
    have hgo : (!(s.stack (s.holder line.toNat)).repairs.contains (s.lineRow line.toNat) || (s.stack (s.holder line.toNat)).lost ||
        s.regF Reg.MEM_REPAIR_CTL 31 31 == 0 || (s.stack (s.holder line.toNat)).burst != some (s.lineRow line.toNat % 32)) = false := by
      simp [hcandidate, hkept, hauto, hchannel]
    simp only [exec_rowRepair, execRowRepair, hgo, Bool.false_eq_true, if_false, ht]

end Sys2Proof
end

section
/-! The loss of a stack, the fold, the window for rebuilt histories, and the end of a retirement's copy (R234 to R241). -/

namespace Sys2Proof.Machine

section
variable {s t u : State} {k : Fin 24} (hkept : (s.stack k).lost = false)
  (ht : t = (s.setStack k { s.stack k with lost := true, burst := none }).setUnit (.stack k) { s.unit (.stack k) with failed := true })
  (hu : u = (t.logFault Flt.MEM_STACK_LOST (blkMEMS k.val) k.val).scheduleNext (.unitFail (.stack k) true))
include hkept ht hu

/-- A loss that finds no stack gone is the first (R234). -/
theorem State.detectLoss_first (hfirst : u.dram.gone = none) :
    s.detectLoss k = { u with dram := { u.dram with
      gone := some k, lossAt := some (if u.clk.cycle = 0 then u.clk.bnd + 1 else u.clk.bnd + 2), retired := false, fillDone := false } } := by
  simp only [State.detectLoss, hkept, Bool.false_eq_true, if_false, ← ht, ← hu, hfirst, Option.isNone_none, true_or, if_true]

/-- A loss while another stack is gone is the second (R234). -/
theorem State.detectLoss_second (hother : s.dram.gone ≠ some k) (hgone : u.dram.gone.isNone = false)
    (hsecond : u.dram.second.isSome = false) : s.detectLoss k = { u with dram := { u.dram with second := some k } } := by
  simp only [State.detectLoss, hkept, Bool.false_eq_true, if_false, ← ht, ← hu, hother, false_and, hgone, or_self, hsecond]

end

end Sys2Proof.Machine

namespace Sys2Proof

open Machine

/-- Settles O49: a loss is judged by what is gone already, the other commands by the map and the window. -/
theorem stackLossCommands : Obligations.StackLossCommands := by
  refine ⟨?firstLoss, ?secondLoss, ?again, ?fill, ?window, ?windowOpen, ?evacuated⟩
  case firstLoss =>
    intro k t u s hkept ht hu hfirst
    exact congrArg Host.Outcome.next (State.detectLoss_first hkept ht hu hfirst)
  case secondLoss =>
    intro k t u s hkept hother ht hu hgone hsecond
    exact congrArg Host.Outcome.next (State.detectLoss_second hkept ht hu hother hgone hsecond)
  case again =>
    intro k s hlost
    exact congrArg Host.Outcome.next (if_pos hlost)
  case fill =>
    intro s hfolding
    exact congrArg Host.Outcome.next (if_pos hfolding)
  case window =>
    intro cyc b t u s ht hwindow hdue hu
    simp only [exec_historyWaitTimeout, execHistoryWaitTimeout, ← ht, hwindow, Nat.not_lt.mpr hdue, if_false, ← hu]
  case windowOpen =>
    intro cyc b t s ht hwindow hopen
    simp only [exec_historyWaitTimeout, execHistoryWaitTimeout, ← ht, hwindow, hopen, if_true]
  case evacuated =>
    intro k s hgone hretired hmap
    exact congrArg Host.Outcome.next (if_pos ⟨hgone, hretired, hmap⟩)

end Sys2Proof
end
